-- ==== Sys2Proof/Word.lean ====
section
/-!
DEFINITION. The bit-vector widths of the part (00 R1, 06 R143-R144, 02 R12) and their plainest arithmetic.
-/
namespace Sys2Proof

/-- One byte of memory (00 R1). -/
abbrev Byte := BitVec 8

/-- A 32-bit register or memory word (00 R4). -/
abbrev Word := BitVec 32

/-- A 64-bit address, register pair, control register or instruction word (02 R12). -/
abbrev DWord := BitVec 64

/-- One bit for each lane of a flight, bit L for lane L (02 R22). -/
abbrev Lanes := BitVec 96

/-- The pair of words, low word first (02 R15). -/
def pairOf (lo hi : Word) : DWord := hi ++ lo

/-- The low word of a pair. -/
def loWord (x : DWord) : Word := x.setWidth 32

/-- The high word of a pair. -/
def hiWord (x : DWord) : Word := (x >>> 32).setWidth 32

/-- The lanes of a mask, lowest first (00 R4). -/
def Lanes.list (m : Lanes) : List Nat := (List.range 96).filter fun l => m.getLsbD l

/-- The number of set lanes. -/
def Lanes.count (m : Lanes) : Nat := m.list.length

/-- The mask holding exactly lane `l` (empty from 96 on). -/
def Lanes.one (l : Nat) : Lanes := BitVec.twoPow 96 l

end Sys2Proof
end

