-- ==== Sys2Proof/Config.lean ====
section
/-!
DEFINITION. What one implementation fixes, and the free values: what the manual leaves open. A constant without a
body stands for any value whatever; a statement about one holds for every value (log 3).
-/
namespace Sys2Proof.Config

/-- A free 32-bit value, one for every draw (04 R103, 05 R119, 06 R155, 09 R242). Log 3. -/
opaque freeWord : Nat → Word

/-- A free byte, one for every draw (05 R132, R133). Log 3. -/
opaque freeByte : Nat → Byte

/-- A free choice between two allowed outcomes (01 R9). Log 3. -/
opaque freeBool : Nat → Bool

/-- PWRCTL.tmax after reset: the manual gives no value (22 R454). Log 12. -/
opaque tmax : Nat → BitVec 16

/-- PWRCTL.pnow after reset: the manual gives no value (22 R454). Log 12. -/
opaque pnow : Nat → BitVec 16

/-- SHA3-256 of a byte string: a published standard, not defined by the manual (22 R449). Log 14. -/
opaque sha3 : List Byte → BitVec 256

/-- ML-DSA-44 verification of (key, signature, message): a published standard (22 R449). Log 14. -/
opaque mldsaVerify : List Byte → List Byte → List Byte → Bool

/-- The device identity key's ML-DSA-44 signature of a report (22 R451). Log 14. -/
opaque mldsaSign : List Byte → List Byte

/-- The 256-bit key hash in the fuses (22 R449). Log 14. -/
opaque fusedKeyHash : BitVec 256

/-- The stepping reported by attest: 0xB0 (22 R451). -/
def stepping : Nat := 0xB0

/-- Cores of a die (01 R6). -/
def coresPerDie : Nat := 48

/-- Cores of the package (01 R6). -/
def cores : Nat := 192

/-- Granules of one slot's register file (06 R143). -/
def slotGranules : Nat := 85

/-- Resident flights of one slot (15 R316). -/
def slotFlights : Nat := 12

/-- Bytes of one scratch slice (05 R105). -/
def sliceBytes : Nat := 0x18_0000

/-- Translations a core's TLB holds (04 R83). -/
def coreTlbSize : Nat := 512

/-- Translations a die's TLB holds (04 R83). -/
def dieTlbSize : Nat := 32768

/-- Lines of the load cache: 64 KiB in lines of 128 bytes (04 R99). -/
def lcacheLines : Nat := 512

/-- Commands a copy engine's queue holds (05 R123). -/
def engineQueue : Nat := 64

/-- Arming slots of a copy engine (05 R141). -/
def armSlots : Nat := 64

/-- Bytes of HBM4 (04 R75). -/
def hbmBytes : Nat := 0x90_0000_0000

/-- Bytes of one channel group: 18 GiB (04 R76). -/
def groupBytes : Nat := 0x4_8000_0000

/-- First physical address of the host window (04 R75). -/
def hostBase : Nat := 0x8_0000_0000_0000

/-- What firmware chose when it mapped the doorbell page of a queue in the address space of its partition (16 R335): the manual does not
state the address; `Sys2Proof.Machine.doorPage` is the page it names. Log 65. -/
opaque doorbell : Nat → Nat → BitVec 64

/-- Bytes of a doorbell page (16 R335). -/
def doorBytes : Nat := 4096

/-- Where the model puts the keys of the doorbell pages: above every key of `State.mem`. Log 65. -/
def doorBase : Nat := 0x20_0000_0000_0000

/-- Where the model keeps the scratch slices in its one list of bytes: above every physical address. Log 4. -/
def scratchBase : Nat := 0x10_0000_0000_0000

/-- On-chip ordered-atomic entries of one channel group (11 R271). -/
def groupEntries : Nat := 131072

/-- Device-side packets waiting for placement that a partition's front end holds (15 R327). -/
def packetListSize : Nat := 65536

end Sys2Proof.Config
end

