-- ==== Sys2Proof/Syntax.lean ====
section
/-!
DEFINITION. The syntax of Procen: operands (02 R19), the fields that name a form, and `Instr`, one constructor for each
row of spec/opcode_table.json, the machine's events and the host's and firmware's commands among them.
-/
namespace Sys2Proof

/-- An operand named by a 9-bit specifier (02 R19). -/
inductive Opnd where
  /-- Vector register v0-v191. -/
  | v (n : Fin 192)
  /-- Scalar register s0-s95; em0-em2 are s88-s90. -/
  | s (n : Fin 96)
  /-- Trap-bank scalar ss0-ss15 of the fragment's level (19 R391). -/
  | ss (n : Fin 16)
  /-- Trap-bank vector vt0-vt15 of the fragment's level. -/
  | vt (n : Fin 16)
  /-- Inline integer 0-63. -/
  | imm (n : Fin 64)
  /-- Inline floating-point constant 0x1C0 + n (02 R20). -/
  | cst (n : Fin 32)
  deriving DecidableEq, Repr

/-- The operand types of 02 R15. -/
inductive Ty where
  | u32 | s32 | u64 | s64 | f32 | f16x2 | bf16x2 | f64 | dxb8 | dxb6 | dxb4 | fx64 | f16 | bf16
  deriving DecidableEq, Repr

/-- The rounding modes of q1 (02 R16): `dyn` takes FPMODE. -/
inductive Rm where
  | dyn | rne | rtz | rup | rdn
  deriving DecidableEq, Repr

/-- Integer comparison conditions (06 R158, 08 R201). -/
inductive Cond where
  | eq | ne | lt | le | gt | ge
  deriving DecidableEq, Repr

/-- Floating-point comparison conditions (08 R212). -/
inductive FCond where
  | eq | ne | lt | le | gt | ge | uno | ord
  deriving DecidableEq, Repr

/-- Branch conditions (02 R33). -/
inductive Cc where
  | eqz | nez | ltz | gez | gtz | lez
  deriving DecidableEq, Repr

/-- The uniform modes of BRM (02 R33). -/
inductive BrmMode where
  | all | any | none
  deriving DecidableEq, Repr

/-- Reduction operations (08 R207). -/
inductive RedOp where
  | add | min | max | and | or | xor
  deriving DecidableEq, Repr

/-- Shuffle modes (08 R205). -/
inductive ShMode where
  | idx | up | down | xor
  deriving DecidableEq, Repr

/-- Scopes (13 R288). -/
inductive Scope where
  | flight | block | gang | die | device | pod | system | relaxed
  deriving DecidableEq, Repr

/-- Fence kinds (13 R298). -/
inductive FenceKind where
  | acqrel | acq | rel | sc
  deriving DecidableEq, Repr

/-- Access widths (02 R28). -/
inductive Width where
  | b | h | w | d | q | o
  deriving DecidableEq, Repr

/-- Full-empty actions of loads and stores (02 R30). -/
inductive Fe where
  | none | wf | wfc | sf
  deriving DecidableEq, Repr

/-- Width and arithmetic kind of an atomic (03 R52). -/
inductive AType where
  | u32 | s32 | f32 | u64 | s64 | fx64
  deriving DecidableEq, Repr

/-- A memory operand (02 R28): a scalar or vector base pair `2k` and a 24-bit signed offset; with an image store its
top two bits name the map (02 R31). -/
structure MAddr where
  vec : Bool
  k   : Fin 96
  off : BitVec 24
  deriving DecidableEq, Repr

/-- The operations a P-form half can hold (02 R25). -/
inductive POp where
  | nop | vadd | vsub | vmul | vand | vor | vxor | vshl | vshr | vsar | vmin | vmax | vmov
  | vfadd | vfsub | vfmul | vfmin | vfmax | vcvt | sadd | ssub | smov | sand | sor
  deriving DecidableEq, Repr

/-- The fields of a P-form half (02 R24): `d` 0-191 names v0-v191 and 192-255 s0-s63. -/
structure PArgs where
  d  : Fin 256
  s  : Opnd
  ty : Ty
  pq : Fin 16
  deriving DecidableEq, Repr

/-- A whole half of a P-form word. -/
structure PHalf where
  op : POp
  x  : PArgs
  deriving DecidableEq, Repr

/-- Kinds of collective (17 R371). -/
inductive CollKind where
  | allreduce | redscat | allgather | bcast | reduce
  deriving DecidableEq, Repr

/-- Queries of CTREE (17 R380). -/
inductive TreeQuery where
  | count | version | plane | parent
  deriving DecidableEq, Repr

/-- A link of the pod (17 R356). -/
inductive LinkId where
  | pkg (n p : Nat)
  | trunk (p l s k : Nat)
  deriving DecidableEq, Repr

/-- What another member of a communicator tells in an agreement's exchange: the link-state messages behind its table, and the versions of
the members' tables (17 R366). -/
structure Exchange where
  msgs : List (LinkId × Bool × BitVec 16)
  vers : List Word
  deriving DecidableEq, Repr

/-- Another member has left, or has ended one collective or barrier instance (whether a barrier, and its number), with a status (17 R359,
R373, R375). -/
structure PeerEnd where
  rank   : Nat
  status : Nat
  one    : Option (Bool × Nat)
  deriving DecidableEq, Repr

/-- The engine classes that stop a gang's work (19 R407); the ordered-atomic buffer of each die acknowledges for itself. -/
inductive StopUnit where
  | vector | contraction | copy | bridle | fresnel
  | ordered (die : Nat)
  deriving DecidableEq, Repr

/-- Where a register access from outside lands: a partition's management window, the doorbell page of one of its queues, or the
device window (16 R337, 22 R448, R449, R454). -/
inductive Window where
  | mgmt (pid : Nat)
  | doorbell (pid q : Nat)
  | bootctl
  | pwrctl
  deriving DecidableEq, Repr

/-- The resources of a create command (22 R452). -/
structure CreateDesc where
  pid      : Nat
  cores    : BitVec 192
  groups   : BitVec 32
  engines  : BitVec 32
  engineOf : List (Nat × Nat)
  slots    : Nat
  root     : Nat
  grants   : List (Nat × Nat)
  admits   : BitVec 32
  stream   : Bool
  vector   : DWord
  bp       : Bool
  pmax     : Nat
  deriving DecidableEq, Repr

/-- A packet on its way to a queue (15 R329-R331): the handle, the 64 bytes, and what an error record names. `outside`
marks one that another package sent; `sgen` is the generation of the sender's queue `squeue`; `graph` the graph of the launch
whose completion sent it (16 R338). -/
structure PacketMsg where
  handle  : DWord
  bytes   : List Byte
  outside : Bool
  spid    : Nat
  squeue  : Nat
  sgen    : Nat
  slaunch : Nat
  pc      : DWord
  seq     : Word
  graph   : Option Nat
  deriving DecidableEq, Repr

/-- A remote put arriving at this package (17 R378): destination partition and addresses, bytes, and its nofe bit. -/
structure RemotePut where
  pid  : Nat
  rdst : DWord
  robj : DWord
  data : List Byte
  nofe : Bool
  deriving DecidableEq, Repr

/-- One constructor for each row of spec/opcode_table.json: the instruction words in the table's order, then the events
of the machine and the commands of the host and the firmware in the table's order. -/
inductive Instr where
  /-- NOP (02 R18, 06 R168). -/
  | nop
  /-- SADD (06 R158). -/
  | sadd (ty : Ty) (d a b : Opnd)
  /-- SSUB (06 R158). -/
  | ssub (ty : Ty) (d a b : Opnd)
  /-- SMUL (06 R158). -/
  | smul (ty : Ty) (d a b : Opnd)
  /-- SMULH (06 R158). -/
  | smulh (ty : Ty) (d a b : Opnd)
  /-- SAND (06 R158). -/
  | sand (ty : Ty) (d a b : Opnd)
  /-- SOR (06 R158). -/
  | sor (ty : Ty) (d a b : Opnd)
  /-- SXOR (06 R158). -/
  | sxor (ty : Ty) (d a b : Opnd)
  /-- SSHL (06 R158). -/
  | sshl (ty : Ty) (d a b : Opnd)
  /-- SSHR (06 R158). -/
  | sshr (ty : Ty) (d a b : Opnd)
  /-- SSAR (06 R158). -/
  | ssar (ty : Ty) (d a b : Opnd)
  /-- SMIN (06 R158). -/
  | smin (ty : Ty) (d a b : Opnd)
  /-- SMAX (06 R158). -/
  | smax (ty : Ty) (d a b : Opnd)
  /-- SCMP (06 R158). -/
  | scmp (ty : Ty) (c : Cond) (d a b : Opnd)
  /-- SSEL (06 R158). -/
  | ssel (ty : Ty) (d a b x : Opnd)
  /-- SMOV (06 R158). -/
  | smov (ty : Ty) (d a : Opnd)
  /-- SMOVS (06 R161). -/
  | smovs (d : Opnd) (n : BitVec 8)
  /-- SMOVW (06 R161). -/
  | smovw (n : BitVec 8) (a : Opnd)
  /-- SBFE (06 R158). -/
  | sbfe (ty : Ty) (d a b x : Opnd)
  /-- SPOPC (06 R158). -/
  | spopc (d a : Opnd)
  /-- SCLZ (06 R158). -/
  | sclz (d a : Opnd)
  /-- SADD64 (06 R159). -/
  | sadd64 (ty : Ty) (d a b : Opnd)
  /-- SADD_I (02 R17). -/
  | saddI (d a : Opnd) (imm : BitVec 25)
  /-- SSUB_I (02 R17). -/
  | ssubI (d a : Opnd) (imm : BitVec 25)
  /-- SMUL_I (02 R17). -/
  | smulI (d a : Opnd) (imm : BitVec 25)
  /-- SAND_I (02 R17). -/
  | sandI (d a : Opnd) (imm : BitVec 25)
  /-- SOR_I (02 R17). -/
  | sorI (d a : Opnd) (imm : BitVec 25)
  /-- SXOR_I (02 R17). -/
  | sxorI (d a : Opnd) (imm : BitVec 25)
  /-- SSHL_I (02 R17). -/
  | sshlI (d a : Opnd) (imm : BitVec 25)
  /-- SSHR_I (02 R17). -/
  | sshrI (d a : Opnd) (imm : BitVec 25)
  /-- SSAR_I (02 R17). -/
  | ssarI (d a : Opnd) (imm : BitVec 25)
  /-- EXIT (06 R152). -/
  | exit
  /-- RET (06 R166). -/
  | ret (a : Opnd)
  /-- YIELD (06 R169). -/
  | yield
  /-- REGN (06 R156). -/
  | regn
  /-- BRKPT (06 R170). -/
  | brkpt (a : Opnd)
  /-- WAIT (06 R171). -/
  | wait (limits : BitVec 16)
  /-- BARW (06 R172-R174). -/
  | barw (a b : Opnd)
  /-- BARA (06 R172-R174). -/
  | bara (a b : Opnd)
  /-- FENCE (13 R298). -/
  | fence (kind : FenceKind) (scope : Scope)
  /-- OPFENCE (13 R301). -/
  | opfence
  /-- REGGIVE (06 R176). -/
  | reggive (a : Opnd)
  /-- REGCLAIM (06 R176). -/
  | regclaim (a : Opnd)
  /-- REGCLAIM_TRY (06 R176). -/
  | regclaimTry (d a : Opnd)
  /-- MAND (06 R163). -/
  | mand (m ma mb : Fin 24)
  /-- MOR (06 R163). -/
  | mor (m ma mb : Fin 24)
  /-- MXOR (06 R163). -/
  | mxor (m ma mb : Fin 24)
  /-- MANDN (06 R163). -/
  | mandn (m ma mb : Fin 24)
  /-- MPOPC (06 R163). -/
  | mpopc (d : Opnd) (ma : Fin 24)
  /-- MFIRST (06 R163). -/
  | mfirst (d : Opnd) (ma : Fin 24)
  /-- MLANE (06 R163). -/
  | mlane (m : Fin 24) (a : Opnd)
  /-- VADD (08 R200). -/
  | vadd (ty : Ty) (d a b : Opnd)
  /-- VSUB (08 R200). -/
  | vsub (ty : Ty) (d a b : Opnd)
  /-- VMUL (08 R200). -/
  | vmul (ty : Ty) (d a b : Opnd)
  /-- VMULH (08 R200). -/
  | vmulh (ty : Ty) (d a b : Opnd)
  /-- VMAD (08 R200). -/
  | vmad (ty : Ty) (d a b x : Opnd)
  /-- VAND (08 R200). -/
  | vand (ty : Ty) (d a b : Opnd)
  /-- VOR (08 R200). -/
  | vor (ty : Ty) (d a b : Opnd)
  /-- VXOR (08 R200). -/
  | vxor (ty : Ty) (d a b : Opnd)
  /-- VANDN (08 R200). -/
  | vandn (ty : Ty) (d a b : Opnd)
  /-- VSHL (08 R200). -/
  | vshl (ty : Ty) (d a b : Opnd)
  /-- VSHR (08 R200). -/
  | vshr (ty : Ty) (d a b : Opnd)
  /-- VSAR (08 R200). -/
  | vsar (ty : Ty) (d a b : Opnd)
  /-- VMIN (08 R200). -/
  | vmin (ty : Ty) (d a b : Opnd)
  /-- VMAX (08 R200). -/
  | vmax (ty : Ty) (d a b : Opnd)
  /-- VABS (08 R200). -/
  | vabs (d a : Opnd)
  /-- VCLZ (08 R200). -/
  | vclz (d a : Opnd)
  /-- VPOPC (08 R200). -/
  | vpopc (d a : Opnd)
  /-- VBFE (08 R200). -/
  | vbfe (ty : Ty) (d a b x : Opnd)
  /-- VBFI (08 R200). -/
  | vbfi (d a b x : Opnd)
  /-- VCMP (08 R201). -/
  | vcmp (ty : Ty) (c : Cond) (d a b : Opnd)
  /-- VSEL (08 R203). -/
  | vsel (ty : Ty) (d a b x : Opnd)
  /-- VMOV (08 R203). -/
  | vmov (ty : Ty) (d a : Opnd)
  /-- VADD64 (08 R202). -/
  | vadd64 (ty : Ty) (d a b : Opnd)
  /-- VMAD64 (08 R202). -/
  | vmad64 (ty : Ty) (d a b x : Opnd)
  /-- VSHFL (08 R205). -/
  | vshfl (ty : Ty) (mode : ShMode) (d a b : Opnd)
  /-- VBCAST (08 R206). -/
  | vbcast (ty : Ty) (d a b : Opnd)
  /-- VREDU (08 R207). -/
  | vredu (ty : Ty) (op : RedOp) (d a : Opnd)
  /-- VSCAN (08 R208). -/
  | vscan (ty : Ty) (op : RedOp) (excl : Bool) (d a : Opnd)
  /-- VMOVS (08 R204). -/
  | vmovs (d : Opnd) (n : BitVec 8)
  /-- VADD_I (02 R17). -/
  | vaddI (d a : Opnd) (imm : BitVec 25)
  /-- VSUB_I (02 R17). -/
  | vsubI (d a : Opnd) (imm : BitVec 25)
  /-- VMUL_I (02 R17). -/
  | vmulI (d a : Opnd) (imm : BitVec 25)
  /-- VAND_I (02 R17). -/
  | vandI (d a : Opnd) (imm : BitVec 25)
  /-- VOR_I (02 R17). -/
  | vorI (d a : Opnd) (imm : BitVec 25)
  /-- VXOR_I (02 R17). -/
  | vxorI (d a : Opnd) (imm : BitVec 25)
  /-- VSHL_I (02 R17). -/
  | vshlI (d a : Opnd) (imm : BitVec 25)
  /-- VSHR_I (02 R17). -/
  | vshrI (d a : Opnd) (imm : BitVec 25)
  /-- VSAR_I (02 R17). -/
  | vsarI (d a : Opnd) (imm : BitVec 25)
  /-- VFADD (08 R209). -/
  | vfadd (ty : Ty) (rm : Rm) (d a b : Opnd)
  /-- VFSUB (08 R209). -/
  | vfsub (ty : Ty) (rm : Rm) (d a b : Opnd)
  /-- VFMUL (08 R209). -/
  | vfmul (ty : Ty) (rm : Rm) (d a b : Opnd)
  /-- VFMA (08 R209). -/
  | vfma (ty : Ty) (rm : Rm) (d a b x : Opnd)
  /-- VFMIN (08 R210). -/
  | vfmin (ty : Ty) (d a b : Opnd)
  /-- VFMAX (08 R210). -/
  | vfmax (ty : Ty) (d a b : Opnd)
  /-- VFCMP (08 R212). -/
  | vfcmp (ty : Ty) (c : FCond) (d a b : Opnd)
  /-- VFCLASS (08 R213). -/
  | vfclass (ty : Ty) (d a : Opnd)
  /-- VFRND (08 R214). -/
  | vfrnd (ty : Ty) (rm : Rm) (d a : Opnd)
  /-- VCVT (08 R216). -/
  | vcvt (ty : Ty) (rm : Rm) (src : Ty) (d a b : Opnd)
  /-- VF2I (08 R217). -/
  | vf2i (ty : Ty) (rm : Rm) (src : Ty) (d a b : Opnd)
  /-- VI2F (08 R217). -/
  | vi2f (ty : Ty) (rm : Rm) (src : Ty) (d a b : Opnd)
  /-- VFSCL (08 R215). -/
  | vfscl (ty : Ty) (rm : Rm) (d a b : Opnd)
  /-- VRCP (08 R219). -/
  | vrcp (ty : Ty) (rm : Rm) (d a : Opnd)
  /-- VRSQ (08 R219). -/
  | vrsq (ty : Ty) (rm : Rm) (d a : Opnd)
  /-- VSQRT (08 R219). -/
  | vsqrt (ty : Ty) (rm : Rm) (d a : Opnd)
  /-- VEXP2 (08 R219). -/
  | vexp2 (ty : Ty) (rm : Rm) (d a : Opnd)
  /-- VLOG2 (08 R219). -/
  | vlog2 (ty : Ty) (rm : Rm) (d a : Opnd)
  /-- VSINPI (08 R219). -/
  | vsinpi (ty : Ty) (rm : Rm) (d a : Opnd)
  /-- VCOSPI (08 R219). -/
  | vcospi (ty : Ty) (rm : Rm) (d a : Opnd)
  /-- VTANH (08 R219). -/
  | vtanh (ty : Ty) (rm : Rm) (d a : Opnd)
  /-- WELF (08 R221). -/
  | welf (rm : Rm) (d a : Opnd)
  /-- WMRG (08 R222). -/
  | wmrg (rm : Rm) (d a : Opnd)
  /-- VBEXP (08 R223). -/
  | vbexp (ty : Ty) (n : Fin 16) (d a : Opnd)
  /-- VPKX (08 R224). -/
  | vpkx (ty : Ty) (d a b : Opnd)
  /-- VUNPKX (08 R225). -/
  | vunpkx (ty : Ty) (d a b : Opnd)
  /-- IMGQ (11 R284). -/
  | imgq (map : Fin 4) (d a b : Opnd)
  /-- CPY (05 R134). -/
  | cpy (d : Option Opnd) (a b : Opnd)
  /-- CPYT (05 R141). -/
  | cpyt (every : Bool) (d : Option Opnd) (a b t : Opnd)
  /-- CPYT_CANCEL (05 R141). -/
  | cpytCancel (t : Opnd)
  /-- CPYG (05 R135). -/
  | cpyg (d : Option Opnd) (a b : Opnd)
  /-- CPYS (05 R135). -/
  | cpys (d : Option Opnd) (a b : Opnd)
  /-- CPYB (05 R136). -/
  | cpyb (d : Option Opnd) (a b : Opnd)
  /-- SQFILL (05 R142). -/
  | sqfill (d : Option Opnd) (a b o : Opnd)
  /-- BOINIT (05 R121). -/
  | boinit (a b : Opnd)
  /-- BOEXP (05 R121). -/
  | boexp (arr : Bool) (bs : Scope) (a b : Opnd)
  /-- BOARR (05 R121). -/
  | boarr (lanes : Bool) (bs : Scope) (d : Option Opnd) (a : Opnd)
  /-- BOWAIT (05 R121). -/
  | bowait (bs : Scope) (a b : Opnd)
  /-- BOTRY (05 R121). -/
  | botry (bs : Scope) (d a b : Opnd)
  /-- LCON (09 R236). -/
  | lcon (ty : Ty) (sp : Bool) (acc a b x : Opnd)
  /-- LCONA (09 R236). -/
  | lcona (ty : Ty) (gang : Bool) (sp : Bool) (acc a b x : Opnd)
  /-- ACCGET (09 R229). -/
  | accget (acc : Opnd)
  /-- ACCPUT (09 R229). -/
  | accput (acc : Opnd)
  /-- ACCZ (09 R229). -/
  | accz (acc : Opnd)
  /-- ACCRD (09 R253). -/
  | accrd (d acc b : Opnd)
  /-- ACCWR (09 R253). -/
  | accwr (acc a b : Opnd)
  /-- ACCST (09 R255). -/
  | accst (acc a b : Opnd)
  /-- SCACC (09 R247). -/
  | scacc (ty : Ty) (acc : Opnd)
  /-- SQPUSH (09 R250). -/
  | sqpush (a : Opnd)
  /-- SQCNT (09 R251). -/
  | sqcnt (d : Opnd)
  /-- ACCSV (09 R257). -/
  | accsv (acc a : Opnd)
  /-- ACCLD (09 R257). -/
  | accld (acc a : Opnd)
  /-- LD (04 R102). -/
  | ld (wd : Width) (sc : Scope) (fe : Fe) (nt : Bool) (d : Opnd) (m : MAddr)
  /-- ST (04 R102). -/
  | st (wd : Width) (sc : Scope) (sf img nt : Bool) (d : Opnd) (m : MAddr)
  /-- SLD (04 R102). -/
  | sld (wd : Width) (sc : Scope) (fe : Fe) (nt : Bool) (d : Opnd) (m : MAddr)
  /-- SST (04 R102). -/
  | sst (wd : Width) (sc : Scope) (sf nt : Bool) (d : Opnd) (m : MAddr)
  /-- PF (04 R104). -/
  | pf (nt : Bool) (m : MAddr)
  /-- FEST (05 R114). -/
  | fest (sc : Scope) (full : Bool) (m : MAddr)
  /-- FEQ (05 R115). -/
  | feq (sc : Scope) (d : Fin 24) (m : MAddr)
  /-- AADD (11 R265). -/
  | aadd (t : AType) (sc : Scope) (img nt : Bool) (d : Opnd) (m : MAddr)
  /-- AADD_ORD (11 R266). -/
  | aaddOrd (sc : Scope) (img nt : Bool) (d : Opnd) (m : MAddr)
  /-- AAND (11 R265). -/
  | aand (t : AType) (sc : Scope) (img nt : Bool) (d : Opnd) (m : MAddr)
  /-- AOR (11 R265). -/
  | aor (t : AType) (sc : Scope) (img nt : Bool) (d : Opnd) (m : MAddr)
  /-- AXOR (11 R265). -/
  | axor (t : AType) (sc : Scope) (img nt : Bool) (d : Opnd) (m : MAddr)
  /-- AMIN (11 R265). -/
  | amin (t : AType) (sc : Scope) (img nt : Bool) (d : Opnd) (m : MAddr)
  /-- AMAX (11 R265). -/
  | amax (t : AType) (sc : Scope) (img nt : Bool) (d : Opnd) (m : MAddr)
  /-- AXCHG (11 R265). -/
  | axchg (t : AType) (sc : Scope) (img nt : Bool) (d : Opnd) (m : MAddr)
  /-- ACAS (11 R265). -/
  | acas (t : AType) (sc : Scope) (nt : Bool) (d : Opnd) (m : MAddr)
  /-- AINCB (11 R265). -/
  | aincb (sc : Scope) (nt : Bool) (d : Opnd) (m : MAddr)
  /-- DEPDEC (11 R274). -/
  | depdec (sc : Scope) (d : Opnd) (m : MAddr)
  /-- ASEAL (11 R269). -/
  | aseal (sc : Scope) (m : MAddr)
  /-- BRA (06 R165). -/
  | bra (off : Word)
  /-- BRC (06 R165). -/
  | brc (cc : Cc) (c : Opnd) (off : Word)
  /-- BRV (06 R149). -/
  | brv (cc : Cc) (c : Opnd) (tok : Fin 16) (off : Word)
  /-- BRM_LANES (06 R149). -/
  | brmLanes (m : Fin 24) (tok : Fin 16) (off : Word)
  /-- BRM (06 R165). -/
  | brm (mode : BrmMode) (m : Fin 24) (off : Word)
  /-- JOIN (06 R151). -/
  | join (tok : Fin 16)
  /-- CALL (06 R166). -/
  | call (k : Fin 48) (off : Word)
  /-- SMOVI (06 R162). -/
  | smovi (d : Opnd) (v : Word)
  /-- VMOVI (06 R162). -/
  | vmovi (d : Opnd) (v : Word)
  /-- SADDI (06 R162). -/
  | saddi (d a : Opnd) (v : Word)
  /-- VADDI (06 R162). -/
  | vaddi (d a : Opnd) (v : Word)
  /-- P_NOP (02 R25, half A; `b` is half B). -/
  | pNop (x : PArgs) (b : PHalf)
  /-- P_VADD (02 R25, half A; `b` is half B). -/
  | pVadd (x : PArgs) (b : PHalf)
  /-- P_VSUB (02 R25, half A; `b` is half B). -/
  | pVsub (x : PArgs) (b : PHalf)
  /-- P_VMUL (02 R25, half A; `b` is half B). -/
  | pVmul (x : PArgs) (b : PHalf)
  /-- P_VAND (02 R25, half A; `b` is half B). -/
  | pVand (x : PArgs) (b : PHalf)
  /-- P_VOR (02 R25, half A; `b` is half B). -/
  | pVor (x : PArgs) (b : PHalf)
  /-- P_VXOR (02 R25, half A; `b` is half B). -/
  | pVxor (x : PArgs) (b : PHalf)
  /-- P_VSHL (02 R25, half A; `b` is half B). -/
  | pVshl (x : PArgs) (b : PHalf)
  /-- P_VSHR (02 R25, half A; `b` is half B). -/
  | pVshr (x : PArgs) (b : PHalf)
  /-- P_VSAR (02 R25, half A; `b` is half B). -/
  | pVsar (x : PArgs) (b : PHalf)
  /-- P_VMIN (02 R25, half A; `b` is half B). -/
  | pVmin (x : PArgs) (b : PHalf)
  /-- P_VMAX (02 R25, half A; `b` is half B). -/
  | pVmax (x : PArgs) (b : PHalf)
  /-- P_VMOV (02 R25, half A; `b` is half B). -/
  | pVmov (x : PArgs) (b : PHalf)
  /-- P_VFADD (02 R25, half A; `b` is half B). -/
  | pVfadd (x : PArgs) (b : PHalf)
  /-- P_VFSUB (02 R25, half A; `b` is half B). -/
  | pVfsub (x : PArgs) (b : PHalf)
  /-- P_VFMUL (02 R25, half A; `b` is half B). -/
  | pVfmul (x : PArgs) (b : PHalf)
  /-- P_VFMIN (02 R25, half A; `b` is half B). -/
  | pVfmin (x : PArgs) (b : PHalf)
  /-- P_VFMAX (02 R25, half A; `b` is half B). -/
  | pVfmax (x : PArgs) (b : PHalf)
  /-- P_VCVT (02 R25, half A; `b` is half B). -/
  | pVcvt (x : PArgs) (b : PHalf)
  /-- P_SADD (02 R25, half A; `b` is half B). -/
  | pSadd (x : PArgs) (b : PHalf)
  /-- P_SSUB (02 R25, half A; `b` is half B). -/
  | pSsub (x : PArgs) (b : PHalf)
  /-- P_SMOV (02 R25, half A; `b` is half B). -/
  | pSmov (x : PArgs) (b : PHalf)
  /-- P_SAND (02 R25, half A; `b` is half B). -/
  | pSand (x : PArgs) (b : PHalf)
  /-- P_SOR (02 R25, half A; `b` is half B). -/
  | pSor (x : PArgs) (b : PHalf)
  /-- ENQ (15 R326). -/
  | enq (detach : Bool) (d : Option Opnd) (a : Opnd)
  /-- ENQR (15 R329). -/
  | enqr (d : Option Opnd) (a b : Opnd)
  /-- LCANCEL (15 R333). -/
  | lcancel (d a : Opnd)
  /-- LCANCEL_TREE (15 R333). -/
  | lcancelTree (d a : Opnd)
  /-- LCNT_GANGS (15 R334). -/
  | lcntGangs (d a : Opnd)
  /-- LCNT_TREE (15 R334). -/
  | lcntTree (d a : Opnd)
  /-- LCNT_STATE (15 R334). -/
  | lcntState (d a : Opnd)
  /-- COLL (17 R372). -/
  | coll (kind : CollKind) (d : Option Opnd) (a b : Opnd)
  /-- CBAR (17 R375). -/
  | cbar (d : Option Opnd) (a b : Opnd)
  /-- CPUT (17 R377). -/
  | cput (d : Option Opnd) (a b : Opnd)
  /-- CTREE (17 R380). -/
  | ctree (q : TreeQuery) (d a b : Opnd)
  /-- TRAP (19 R400). -/
  | trap (a : Opnd)
  /-- TRET_RETRY (19 R402). -/
  | tretRetry
  /-- TRET_SKIP (19 R402). -/
  | tretSkip
  /-- TRET_REGION (19 R402). -/
  | tretRegion
  /-- KILL (19 R403). -/
  | kill (m : Fin 24)
  /-- KILL_FAULT (19 R403). -/
  | killFault (m : Fin 24)
  /-- SMOVP (19 R401). -/
  | smovp (d : Opnd) (n : BitVec 8)
  /-- SMOVQ (19 R401). -/
  | smovq (n : BitVec 8) (a : Opnd)
  /-- INVLP (04 R86). -/
  | invlp (a : Opnd)
  /-- INVLP_ALL (04 R86). -/
  | invlpAll
  /-- INVLP_ICACHE (04 R86). -/
  | invlpIcache
  /-- FRZ (19 R413). -/
  | frz
  /-- FRZ_SNAP (19 R413). -/
  | frzSnap
  /-- DBGRD (20 R432). -/
  | dbgrd (d a b : Opnd)
  /-- DBGWR (20 R433). -/
  | dbgwr (d a b x : Opnd)
  /-- DSTEP (20 R435). -/
  | dstep (d a : Opnd)
  /-- DSTEP_ISOLATE (20 R435). -/
  | dstepIsolate (d a b : Opnd)
  /-- ILLEGAL_WORD (02 R38). -/
  | illegalWord (w : DWord)
  /-- REGCLAIM_GRANT (06 R176: the first stalled claim of a block's pool on a slot takes its granules). -/
  | regclaimGrant (gid rank slot : Nat)
  /-- SFU_RESULT_WRITE (08 R218: result `id` of flight `fid` lands). -/
  | sfuResultWrite (fid id : Nat)
  /-- COPY_UNIT_DONE (05 R131: command `cmd` of engine `e` completes a unit). -/
  | copyUnitDone (e cmd : Nat)
  /-- CPYT_FIRING (05 R141: a queued firing of arming `arm` starts). -/
  | cpytFiring (e arm : Nat)
  /-- SQFILL_PUSH (05 R142). -/
  | sqfillPush (e cmd : Nat)
  /-- BOWAIT_WAKE (05 R121). -/
  | bowaitWake (fid frag : Nat)
  /-- CONTRACTION_STEP (09 R256: instance `inst` on tile key `tile` completes a step). -/
  | contractionStep (tile inst : Nat)
  /-- ACCRD_RESULT_WRITE (09 R253). -/
  | accrdResultWrite (fid id : Nat)
  /-- ACCST_STORE_DONE (09 R255). -/
  | accstStoreDone (e cmd : Nat)
  /-- FOLD_APPLY (09 R248). -/
  | foldApply (tile : Nat)
  /-- LOAD_RESULT_WRITE (04 R103: lane `lane` of load `op` lands). -/
  | loadResultWrite (fid op lane : Nat)
  /-- FE_WAIT_SATISFIED (05 R111). -/
  | feWaitSatisfied (fid op lane : Nat)
  /-- ENQR_DELIVERY (15 R330: packet `m` arrives at its queue). -/
  | enqrDelivery (m : PacketMsg)
  /-- COLL_CHUNK_STAGE (17 R363: chunk `chunk` completes stage 0 or 1 at this member; `peers` holds the other ranks' source elements of the chunk). -/
  | collChunkStage (pid comm chunk : Nat) (stage : Bool) (peers : List (Nat × List Nat))
  /-- CBAR_INSTANCE_DONE (17 R375). -/
  | cbarInstanceDone (pid comm : Nat)
  /-- CPUT_REMOTE_ARRIVAL (17 R378: a put of another package lands here). -/
  | cputRemoteArrival (p : RemotePut)
  /-- CPUT_ACK (17 R378). -/
  | cputAck (pid comm id : Nat) (ok : Bool) (status : Nat)
  /-- LINK_STATE_CHANGE (17 R357). -/
  | linkStateChange (l : LinkId) (up : Bool)
  /-- LINK_STATE_MESSAGE (17 R357). -/
  | linkStateMessage (l : LinkId) (up : Bool) (seq : BitVec 16)
  /-- AGREEMENT (17 R366: an exchange; `peersDone` are the chunks complete at every other member). -/
  | agreement (pid comm : Nat) (x : Exchange) (peersDone : List Nat)
  /-- INVALIDATION_SWEEP_DONE (04 R86, R87). -/
  | invalidationSweepDone (id : Nat)
  /-- FREEZE_TAKES_EFFECT (19 R412). -/
  | freezeTakesEffect (pid : Nat)
  /-- GANG_HALT_OTHER_FLIGHT (20 R426). -/
  | gangHaltOtherFlight (fid further : Nat)
  /-- ASYNC_FAULT_TAKEN (19 R396). -/
  | asyncFaultTaken
  /-- TIMER_PERIOD_END (20 R442). -/
  | timerPeriodEnd (pid : Nat)
  /-- TIMER_TRAP_TAKEN (19 R397). -/
  | timerTrapTaken
  /-- FRAGMENT_AGED (16 R352). -/
  | fragmentAged (fid frag : Nat)
  /-- FRAGMENT_SWITCH (06 R153). -/
  | fragmentSwitch (core slot : Nat)
  /-- PREEMPT_REQUEST (19 R404). -/
  | preemptRequest (pid launch : Nat)
  /-- PREEMPT_DEADLINE (19 R405). -/
  | preemptDeadline (gid : Nat)
  /-- PREEMPTMAX_EXPIRY (19 R406). -/
  | preemptmaxExpiry (fid : Nat)
  /-- ENGINE_STOP_ACK (19 R407). -/
  | engineStopAck (gid : Nat) (u : StopUnit)
  /-- GANG_RESTORE (16 R351). -/
  | gangRestore (gid : Nat)
  /-- PREEMPT_WAIT_TIMEOUT (16 R350). -/
  | preemptWaitTimeout (die : Nat)
  /-- LAUNCH_ACCEPT (15 R311, R312). -/
  | launchAccept (pid : Nat)
  /-- GLOBAL_DISPATCH (16 R348). -/
  | globalDispatch (pid launch die count : Nat)
  /-- GANG_PLACE (15 R316, 16 R349: the die dispatcher places the gang at `idx` of its list). -/
  | gangPlace (die idx : Nat)
  /-- GANG_RETIRE (15 R318). -/
  | gangRetire (gid : Nat)
  /-- CANCEL_COMPLETE (15 R325). -/
  | cancelComplete (pid launch : Nat)
  /-- QNOTIFY_WRITE (16 R337). -/
  | qnotifyWrite (pid q : Nat) (widx : Word)
  /-- QUEUE_MAP (16 R341). -/
  | queueMap (pid q slot : Nat)
  /-- QUEUE_DISPLACE (16 R342: READY queue `q` displaces the queue of `slot`). -/
  | queueDisplace (pid q slot : Nat)
  /-- QUEUE_QUANTUM_EXPIRY (16 R342). -/
  | queueQuantumExpiry (slot : Nat)
  /-- PACKET_LAUNCH (16 R338). -/
  | packetLaunch (pid q : Nat)
  /-- PACKET_GRAPH (16 R338). -/
  | packetGraph (pid q : Nat)
  /-- PACKET_SIGNAL (16 R338). -/
  | packetSignal (pid q : Nat)
  /-- PACKET_WAIT (16 R338). -/
  | packetWait (pid q : Nat)
  /-- PACKET_BARRIER (16 R338). -/
  | packetBarrier (pid q : Nat)
  /-- PACKET_CANCEL (16 R338). -/
  | packetCancel (pid q : Nat)
  /-- WAIT_MONITOR_HIT (16 R339). -/
  | waitMonitorHit (pid q : Nat)
  /-- QUEUE_UNBLOCK (16 R340). -/
  | queueUnblock (pid q : Nat)
  /-- FORWARDED_WRITE (16 R354). -/
  | forwardedWrite (addr : Nat) (data : List Byte)
  /-- HOST_ACCESS (22 R447: a host write of `data`, or a host read of as many bytes). -/
  | hostAccess (write : Bool) (addr : Nat) (data : List Byte)
  /-- REGISTER_WRITE (00 R3, 22 R448). -/
  | registerWrite (w : Window) (off : Nat) (val : DWord)
  /-- BOOT_LOCK (22 R449). -/
  | bootLock
  /-- BOOT_VERIFY_DONE (22 R449). -/
  | bootVerifyDone
  /-- RESET (22 R449). -/
  | reset
  /-- CREATE (22 R452). -/
  | create (p : CreateDesc)
  /-- DESTROY (22 R452). -/
  | destroy (pid : Nat)
  /-- QUEUE_CREATE (16 R335). -/
  | queueCreate (pid q : Nat) (desc : List Byte)
  /-- QUEUE_DESTROY (16 R340). -/
  | queueDestroy (pid q : Nat)
  /-- QUEUE_RESET (16 R340). -/
  | queueReset (pid q : Nat)
  /-- COMMUNICATOR_CREATE (17 R358). -/
  | communicatorCreate (pid comm : Nat) (desc : List Byte)
  /-- COMMUNICATOR_DESTROY (17 R359). -/
  | communicatorDestroy (pid comm : Nat)
  /-- CODE_INVALIDATE (22 R453). -/
  | codeInvalidate (pid : Nat)
  /-- REPLAY_PARTITION (04 R92). -/
  | replayPartition (pid : Nat)
  /-- REPLAY_BLOCK (04 R92). -/
  | replayBlock (pid block : Nat)
  /-- FAIL_BLOCK (04 R92). -/
  | failBlock (pid block : Nat)
  /-- SHOOTDOWN (04 R87). -/
  | shootdown (pid : Nat) (all : Bool) (va : DWord)
  /-- SCAN (19 R415). -/
  | scan (pid : Nat)
  /-- SCAN_RESTORE (19 R415). -/
  | scanRestore (pid : Nat) (recs : List (List Byte))
  /-- THAW (19 R412). -/
  | thaw (pid : Nat)
  /-- MIGRATION (16 R354: the partition's job migrates; `pages` are the signal pages that stay with a forwarding entry). -/
  | migration (pid : Nat) (pages : List Nat)
  /-- ATTEST (22 R451). -/
  | attest (nonce : List Byte)
  /-- TRACE_SYNC_SET (20 R438). -/
  | traceSyncSet (core : Nat)
  /-- TRACE_LOST_PACKET (20 R439). -/
  | traceLostPacket (core : Nat)
  /-- SAMPLE_TICK (20 R440). -/
  | sampleTick (core : Nat)
  /-- THERMAL_POWER_LIMIT (22 R454: package power and die temperature as measured). -/
  | thermalPowerLimit (power : BitVec 16) (temp : BitVec 16)
  /-- THERMAL_SHUTDOWN (22 R454). -/
  | thermalShutdown (temp : BitVec 16)
  /-- INSTRUCTION_FETCH_FAULT (02 R34). -/
  | instructionFetchFault
  /-- STORE_PERFORMED (05 R110, 13 R293). -/
  | storePerformed (fid op lane : Nat)
  /-- MEMBER_LEFT (17 R359, R373, R375). -/
  | memberLeft (pid comm : Nat) (peer : PeerEnd)
  /-- HALT_COMMAND (20 R429: `whole` halts the gang, else the flight). -/
  | haltCommand (pid launch gang rank flight : Nat) (whole : Bool)
  /-- FREEZE_COMMAND (19 R412). -/
  | freezeCommand (pid : Nat)
  /-- SNAPSHOT_TRIGGER_COMMAND (19 R414). -/
  | snapshotTriggerCommand
  /-- FIRMWARE_ENDS_JOB (19 R399). -/
  | firmwareEndsJob (pid : Nat)
  deriving DecidableEq, Repr

end Sys2Proof
end

