-- ==== Sys2Proof/WellFormed.lean ====
section
/-!
DEFINITION. Which operands and fields each form admits (02 R15-R32 and the instruction entries). `Instr.wf` says that an
instruction is one the encoding tables hold; a machine event or a command is no instruction word and is well formed
where its own numbers are in range.
-/
namespace Sys2Proof

/-- Operand classes (02 R19). -/
inductive Cls where
  | V | S | SS | VT | I | C
  deriving DecidableEq, Repr

/-- The class of an operand. -/
def Opnd.cls : Opnd → Cls
  | .v _ => .V | .s _ => .S | .ss _ => .SS | .vt _ => .VT | .imm _ => .I | .cst _ => .C

/-- The number of an operand within its class. -/
def Opnd.idx : Opnd → Nat
  | .v n => n.val | .s n => n.val | .ss n => n.val | .vt n => n.val | .imm n => n.val | .cst n => n.val

/-- The number of registers of a class's file (02 R21); inline classes have none. -/
def Cls.size : Cls → Nat
  | .V => 192 | .S => 96 | .SS => 16 | .VT => 16 | .I => 0 | .C => 0

/-- A group of `k` registers that starts at the operand is aligned and stays in its file (02 R21). -/
def Opnd.fits (k : Nat) (o : Opnd) : Bool :=
  match o.cls with
  | .I => true
  | .C => true
  | c => o.idx % k == 0 && o.idx + k ≤ c.size

/-- Registers of one lane's operand (02 R15). -/
def Ty.regs : Ty → Nat
  | .u64 => 2 | .s64 => 2 | .f64 => 2 | .fx64 => 2 | _ => 1

/-- The types that admit class C (02 R20). -/
def Ty.isFp : Ty → Bool
  | .f32 => true | .f16x2 => true | .bf16x2 => true | .f64 => true | .f16 => true | .bf16 => true | _ => false

/-- The block types (02 R15). -/
def Ty.isDxb : Ty → Bool
  | .dxb8 => true | .dxb6 => true | .dxb4 => true | _ => false

/-- The operand is of one of the classes, its type admits it (02 R20, R21) and its group of `k` fits. -/
def okOp (cl : List Cls) (t : Ty) (k : Nat) (o : Opnd) : Bool :=
  cl.contains o.cls && (o.cls != .C || t.isFp) && (o.cls != .I || !t.isDxb) && o.fits k

/-- A vector destination (08 R196). -/
def vDst (k : Nat) (o : Opnd) : Bool := okOp [.V, .VT] .u32 k o
/-- A vector source of type `t` (08 R196). -/
def vSrc (t : Ty) (o : Opnd) : Bool := okOp [.V, .S, .SS, .VT, .I, .C] t t.regs o
/-- A scalar destination (06 R157). -/
def sDst (k : Nat) (o : Opnd) : Bool := okOp [.S, .SS] .u32 k o
/-- A scalar source (06 R157). -/
def sSrc (k : Nat) (o : Opnd) : Bool := okOp [.S, .SS, .I] .u32 k o
/-- A single-register integer source of a vector instruction, any register class or inline integer. -/
def iSrc (o : Opnd) : Bool := okOp [.V, .S, .SS, .VT, .I] .u32 1 o
/-- A class V group. -/
def vOnly (k : Nat) (o : Opnd) : Bool := okOp [.V] .u32 k o
/-- An optional scalar destination, absent when the field is 0x000. -/
def oDst : Option Opnd → Bool
  | none => true
  | some o => sDst 1 o
/-- A parameter block s8k (05 R127). -/
def pBlk (o : Opnd) : Bool := okOp [.S] .u32 8 o
/-- The destination of a comparison (08 R201): class V or VT, or a mask operand. -/
def cmpDst : Opnd → Bool
  | .v _ => true | .vt _ => true | .s n => n.val % 4 == 0 | _ => false
/-- A destination that is a vector register or a scalar (08 R206, R207). -/
def anyDst (k : Nat) (o : Opnd) : Bool := okOp [.V, .VT, .S, .SS] .u32 k o

/-- u32 or s32. -/
def Ty.i32 (t : Ty) : Bool := t == .u32 || t == .s32
/-- The arithmetic types of 08 R209. -/
def Ty.arith (t : Ty) : Bool := t.isFp
/-- f32, f64, f16 or bf16 (08 R212). -/
def Ty.fsingle (t : Ty) : Bool := t == .f32 || t == .f64 || t == .f16 || t == .bf16
/-- The special-function types (08 R218). -/
def Ty.sfu (t : Ty) : Bool := t == .f32 || t == .f16 || t == .bf16
/-- The contraction formats (09 R230). -/
def Ty.contr (t : Ty) : Bool := t == .f32 || t == .f16 || t == .bf16 || t.isDxb

/-- The conversions that VCVT admits (08 R216). -/
def cvtOk (d s : Ty) : Bool :=
  let ints := [Ty.u32, .s32, .u64, .s64]
  match d with
  | .f32 => (ints ++ [Ty.f64, Ty.f16, Ty.bf16, Ty.fx64]).contains s
  | .f64 => (ints ++ [Ty.f32, Ty.f16, Ty.bf16, Ty.fx64]).contains s
  | .f16 => (ints ++ [Ty.f32, Ty.f64, Ty.bf16]).contains s
  | .bf16 => (ints ++ [Ty.f32, Ty.f64, Ty.f16]).contains s
  | .f16x2 => s == .f32
  | .bf16x2 => s == .f32
  | .fx64 => s == .f32
  | .u32 => [Ty.f32, .f64, .f16, .bf16].contains s
  | .s32 => [Ty.f32, .f64, .f16, .bf16].contains s
  | .u64 => [Ty.f32, .f64, .f16, .bf16].contains s
  | .s64 => [Ty.f32, .f64, .f16, .bf16].contains s
  | _ => false

/-- The types a reduction admits (08 R207). -/
def redTy (t : Ty) : Bool := [Ty.u32, .s32, .u64, .s64, .f32, .fx64].contains t
/-- The operations a reduction admits for a type (08 R207). -/
def redOk (t : Ty) (op : RedOp) : Bool :=
  match op with
  | .add => true | .min => true | .max => true
  | _ => t == .u32 || t == .u64

/-- Registers of a contraction's a-vector group (09 R230). -/
def aRegs (t : Ty) (sp : Bool) : Nat :=
  let dense := if t == .dxb8 then 4 else 8
  if sp then dense / 2 else dense

/-- The bytes of a width (04 R100). -/
def Width.bytes : Width → Nat
  | .b => 1 | .h => 2 | .w => 4 | .d => 8 | .q => 16 | .o => 32
/-- Registers of a data group (02 R29). -/
def Width.regs : Width → Nat
  | .b => 1 | .h => 1 | .w => 1 | .d => 2 | .q => 4 | .o => 8
/-- Bytes of an atomic's word (03 R52). -/
def AType.bytes : AType → Nat
  | .u32 => 4 | .s32 => 4 | .f32 => 4 | .u64 => 8 | .s64 => 8 | .fx64 => 8
/-- Registers of an atomic's operand. -/
def AType.regs (t : AType) : Nat := t.bytes / 4

/-- A base pair of a vector-or-scalar memory operand (02 R28). -/
def MAddr.ok (m : MAddr) : Bool := m.vec || m.k.val < 48
/-- A scalar base pair (04 R101). -/
def MAddr.okS (m : MAddr) : Bool := !m.vec && m.k.val < 48

/-- The scopes a barrier-object instruction names (05 R120). -/
def bsOk (s : Scope) : Bool := s != .flight && s != .relaxed

/-- A P-form half is admitted (02 R25). -/
def PHalf.wf (h : PHalf) : Bool :=
  let vd := h.x.d.val < 192
  let srcs (cl : List Cls) (t : Ty) := okOp cl t 1 h.x.s
  match h.op with
  | .nop => h.x.d.val == 0 && h.x.s == .v 0 && h.x.ty == .u32 && h.x.pq.val == 0
  | .vfadd | .vfsub | .vfmul =>
    vd && srcs [.V, .S, .C] h.x.ty && [Ty.f32, .f16x2, .bf16x2].contains h.x.ty && h.x.pq.val % 2 == 0 && h.x.pq.val ≤ 8
  | .vfmin | .vfmax =>
    vd && srcs [.V, .S, .C] h.x.ty && [Ty.f32, .f16x2, .bf16x2].contains h.x.ty && h.x.pq.val == 0
  | .vcvt =>
    vd && srcs [.V, .S] .u32 &&
      ((h.x.ty == .f32 && h.x.pq.val < 2) || (h.x.ty.i32 && h.x.pq.val == 4))
  | .sadd | .ssub | .smov | .sand | .sor => !vd && srcs [.S, .I] .u32 && h.x.ty.i32 && h.x.pq.val == 0
  | .vadd | .vsub | .vmul | .vand | .vor | .vxor | .vshl | .vshr | .vsar | .vmin | .vmax | .vmov =>
    vd && srcs [.V, .S, .I] .u32 && h.x.ty.i32 && h.x.pq.val == 0

/-- The register a half writes (02 R24): none for NOP. -/
def PHalf.dst (h : PHalf) : Option Opnd :=
  if h.op == .nop then none
  else if hd : h.x.d.val < 192 then some (.v ⟨h.x.d.val, hd⟩)
  else some (.s ⟨h.x.d.val - 192, by omega⟩)

/-- The registers a half reads (02 R26). -/
def PHalf.reads (h : PHalf) : List Opnd :=
  let s := if h.op != .nop && (h.x.s.cls == .V || h.x.s.cls == .S) then [h.x.s] else []
  match h.op with
  | .nop => [] | .vmov => s | .smov => s | .vcvt => s
  | _ => h.dst.toList ++ s

/-- The bank of a vector register (02 R26). -/
def Opnd.bank : Opnd → Option Nat
  | .v n => some (n.val % 4)
  | _ => none

/-- The pairing rules (02 R26). -/
def pairOk (a b : PHalf) : Bool :=
  let da := a.dst
  let db := b.dst
  let banks := ((a.reads ++ b.reads).filterMap Opnd.bank).eraseDups
  (match da.bind Opnd.bank, db.bind Opnd.bank with
    | some x, some y => x != y
    | _, _ => true) &&
  banks.length ≤ 3 &&
  (match da with
    | some r => !(b.reads.contains r)
    | none => true) &&
  (da.isNone || da != db)

/-- Both halves are admitted and may be paired. -/
def pairWf (op : POp) (x : PArgs) (b : PHalf) : Bool :=
  PHalf.wf ⟨op, x⟩ && b.wf && pairOk ⟨op, x⟩ b

/-- The privileged registers that exist (19 R393, 20 R443). -/
def pregOk (n : Nat) : Bool := n ≤ 0x16 || (0x40 ≤ n && n ≤ 0xC7)
/-- The privileged registers that SMOVQ admits (19 R393, R401). -/
def pregRw (n : Nat) : Bool :=
  [0x01, 0x02, 0x04, 0x05, 0x06, 0x07, 0x08, 0x09, 0x0F, 0x10, 0x12, 0x13, 0x14].contains n || (0x40 ≤ n && n ≤ 0xBF)

/-- A shift immediate lies in 0-31 (02 R17). -/
def shImm (i : BitVec 25) : Bool := i.toNat ≤ 31

/-- The opcodes no form has (02 R35-R37): what `illegalWord` may hold. F form by opcode, M form by opcode, X form by
xop, P form by either popc. -/
def unassigned (w : DWord) : Bool :=
  let n := w.toNat
  let opc := n / 2 ^ 52 % 2 ^ 10
  match n / 2 ^ 62 with
  | 0 =>
    if opc < 0x200 then
      !(opc ≤ 0x015 || (0x017 ≤ opc && opc ≤ 0x022) || (0x028 ≤ opc && opc ≤ 0x02E) || (0x040 ≤ opc && opc ≤ 0x05C) ||
        (0x080 ≤ opc && opc ≤ 0x099) || opc == 0x0A0 || (0x0C0 ≤ opc && opc ≤ 0x0C5) || (0x0C8 ≤ opc && opc ≤ 0x0CC) ||
        (0x0D0 ≤ opc && opc ≤ 0x0DA) || (0x140 ≤ opc && opc ≤ 0x147) || (0x160 ≤ opc && opc ≤ 0x16B))
    else
      !([0x201, 0x202, 0x203, 0x205, 0x206, 0x207, 0x208, 0x209, 0x20A, 0x240, 0x241, 0x242, 0x245, 0x246, 0x247, 0x249,
        0x24A, 0x24B].contains opc)
  | 1 =>
    let bad (p : Nat) := !(p ≤ 0x0C || (0x10 ≤ p && p ≤ 0x15) || (0x18 ≤ p && p ≤ 0x1C))
    bad (n / 2 ^ 56 % 2 ^ 6) || bad (n / 2 ^ 25 % 2 ^ 6)
  | 2 => !((0x100 ≤ opc && opc ≤ 0x106) || (0x110 ≤ opc && opc ≤ 0x11A))
  | _ => let x := n / 2 ^ 56 % 2 ^ 6; !(1 ≤ x && x ≤ 0x0A)

/-- What the encoding tables and the instruction entries admit. -/
def Instr.wf : Instr → Bool
  | .nop | .exit | .yield | .regn | .opfence => true
  | .sadd t d a b | .ssub t d a b | .smul t d a b | .smulh t d a b | .sand t d a b | .sor t d a b | .sxor t d a b
  | .sshl t d a b | .sshr t d a b | .ssar t d a b | .smin t d a b | .smax t d a b =>
    t.i32 && sDst 1 d && sSrc 1 a && sSrc 1 b
  | .scmp t _ d a b => t.i32 && sDst 1 d && sSrc 1 a && sSrc 1 b
  | .ssel t d a b x | .sbfe t d a b x => t.i32 && sDst 1 d && sSrc 1 a && sSrc 1 b && sSrc 1 x
  | .smov t d a => (t.i32 || t == .f32) && sDst 1 d && okOp [.S, .SS, .I, .C] t 1 a
  | .smovs d n => sDst 1 d && n.toNat ≤ 0x13
  | .smovw n a => (n == 0x11 || n == 0x12) && sSrc 1 a
  | .spopc d a | .sclz d a => sDst 1 d && sSrc 1 a
  | .sadd64 t d a b => (t == .u64 || t == .s64) && sDst 2 d && sSrc 2 a && sSrc 2 b
  | .saddI d a _ | .ssubI d a _ | .smulI d a _ | .sandI d a _ | .sorI d a _ | .sxorI d a _ => sDst 1 d && sSrc 1 a
  | .sshlI d a i | .sshrI d a i | .ssarI d a i => sDst 1 d && sSrc 1 a && shImm i
  | .ret a => sDst 2 a
  | .brkpt a => okOp [.I] .u32 1 a
  | .wait _ => true
  | .barw a b | .bara a b => sSrc 1 a && sSrc 1 b
  | .fence _ s => s != .relaxed
  | .reggive a | .regclaim a => sSrc 1 a
  | .regclaimTry d a => sDst 1 d && sSrc 1 a
  | .mand _ _ _ | .mor _ _ _ | .mxor _ _ _ | .mandn _ _ _ => true
  | .mpopc d _ | .mfirst d _ => sDst 1 d
  | .mlane _ a => sSrc 1 a
  | .vadd t d a b | .vsub t d a b | .vmul t d a b | .vmulh t d a b | .vand t d a b | .vor t d a b | .vxor t d a b
  | .vandn t d a b | .vshl t d a b | .vshr t d a b | .vsar t d a b | .vmin t d a b | .vmax t d a b =>
    t.i32 && vDst 1 d && vSrc t a && vSrc t b
  | .vmad t d a b x | .vbfe t d a b x => t.i32 && vDst 1 d && vSrc t a && vSrc t b && vSrc t x
  | .vabs d a | .vclz d a | .vpopc d a => vDst 1 d && vSrc .u32 a
  | .vbfi d a b x => vDst 1 d && vSrc .u32 a && vSrc .u32 b && vSrc .u32 x
  | .vcmp t _ d a b => t.i32 && cmpDst d && vSrc t a && vSrc t b
  | .vsel t d a b x => !t.isDxb && vDst t.regs d && vSrc t a && vSrc t b && iSrc x
  | .vmov t d a => !t.isDxb && vDst t.regs d && vSrc t a
  | .vadd64 t d a b => (t == .u64 || t == .s64 || t == .fx64) && vDst 2 d && vSrc t a && vSrc t b
  | .vmad64 t d a b x => (t == .u64 || t == .s64) && vDst 2 d && iSrc a && iSrc b && vSrc t x
  | .vshfl t _ d a b => (t == .u32 || t == .u64) && vDst t.regs d && vSrc t a && okOp [.V, .S, .SS, .I] .u32 1 b
  | .vbcast t d a b => (t == .u32 || t == .u64) && anyDst t.regs d && vSrc t a && sSrc 1 b
  | .vredu t op d a => redTy t && redOk t op && anyDst t.regs d && vSrc t a
  | .vscan t op _ d a => redTy t && redOk t op && vOnly t.regs d && vSrc t a
  | .vmovs d n => vDst 1 d && n.toNat ≤ 5
  | .vaddI d a _ | .vsubI d a _ | .vmulI d a _ | .vandI d a _ | .vorI d a _ | .vxorI d a _ => vDst 1 d && vSrc .u32 a
  | .vshlI d a i | .vshrI d a i | .vsarI d a i => vDst 1 d && vSrc .u32 a && shImm i
  | .vfadd t _ d a b | .vfsub t _ d a b | .vfmul t _ d a b => t.arith && vDst t.regs d && vSrc t a && vSrc t b
  | .vfma t _ d a b x => t.arith && vDst t.regs d && vSrc t a && vSrc t b && vSrc t x
  | .vfmin t d a b | .vfmax t d a b => t.arith && vDst t.regs d && vSrc t a && vSrc t b
  | .vfcmp t _ d a b => t.fsingle && cmpDst d && vSrc t a && vSrc t b
  | .vfclass t d a => t.fsingle && vOnly 1 d && vSrc t a
  | .vfrnd t _ d a => t.arith && vDst t.regs d && vSrc t a
  | .vcvt t _ s d a b =>
    cvtOk t s && vDst t.regs d && vSrc s a && (if t == .f16x2 || t == .bf16x2 then vSrc s b else b == .v 0)
  | .vf2i t _ s d a b => t.i32 && s.sfu && vDst 1 d && vSrc s a && okOp [.V, .S, .SS, .I] .u32 1 b
  | .vi2f t _ s d a b => t.sfu && s.i32 && vDst 1 d && vSrc s a && okOp [.V, .S, .SS, .I] .u32 1 b
  | .vfscl t _ d a b => t.arith && vDst t.regs d && vSrc t a && iSrc b
  | .vrcp t r d a | .vrsq t r d a | .vsqrt t r d a | .vexp2 t r d a | .vlog2 t r d a | .vsinpi t r d a | .vcospi t r d a
  | .vtanh t r d a => t.sfu && (r == .dyn || r == .rne) && vDst 1 d && vSrc t a
  | .welf _ d a => vDst 4 d && vSrc .f32 a
  | .wmrg _ d a => vDst 4 d && vDst 4 a
  | .vbexp t _ d a => t.isDxb && vDst 1 d && vSrc .f32 a
  | .vpkx t d a b => t.isDxb && vDst 1 d && okOp [.V, .S, .SS, .VT] .u32 4 a && okOp [.V, .S, .SS, .VT] .u32 4 b
  | .vunpkx t d a b => t.isDxb && vDst 4 d && okOp [.V, .S, .SS, .VT] .u32 1 a && okOp [.V, .S, .SS, .VT] .u32 4 b
  | .imgq _ d a b => vDst 4 d && okOp [.V, .S] .u32 2 a && okOp [.V, .S, .SS, .I] .u32 1 b
  | .cpy d a b | .cpyg d a b | .cpys d a b | .cpyb d a b => oDst d && pBlk a && sDst 2 b
  | .cpyt _ d a b t => oDst d && pBlk a && sDst 2 b && sDst 2 t
  | .cpytCancel t => sDst 2 t
  | .sqfill d a b o => oDst d && sDst 2 a && sSrc 1 b && sDst 2 o
  | .boinit a b => sDst 2 a && sSrc 1 b
  | .boexp arr bs a b => bsOk bs && (arr || bs == .gang) && sDst 2 a && sSrc 1 b
  | .boarr _ bs d a => bsOk bs && oDst d && sDst 2 a
  | .bowait bs a b => bsOk bs && sDst 2 a && sSrc 1 b
  | .botry bs d a b => bsOk bs && sDst 1 d && sDst 2 a && sSrc 1 b
  | .lcon t sp acc a b x => t.contr && sDst 1 acc && vOnly (aRegs t sp) a && vOnly 8 b && sSrc 1 x
  | .lcona t _ sp acc a b x => t.contr && sDst 1 acc && vOnly (aRegs t sp) a && vOnly 8 b && sDst 4 x
  | .accget acc | .accput acc | .accz acc => sDst 1 acc
  | .accrd d acc b => vDst 8 d && sDst 1 acc && okOp [.V, .S, .SS, .I] .u32 1 b
  | .accwr acc a b => sDst 1 acc && vDst 8 a && okOp [.V, .S, .SS, .I] .u32 1 b
  | .accst acc a b => sDst 1 acc && pBlk a && sDst 2 b
  | .scacc t acc => t.isDxb && sDst 1 acc
  | .sqpush a => sSrc 1 a
  | .sqcnt d => sDst 1 d
  | .accsv acc a | .accld acc a => sDst 1 acc && sDst 2 a
  | .ld wd _ _ _ d m => vOnly wd.regs d && m.ok
  | .st wd _ _ _ _ d m => vOnly wd.regs d && m.ok
  | .sld wd _ _ _ d m => sDst wd.regs d && m.okS
  | .sst wd _ _ _ d m => sDst wd.regs d && m.okS
  | .pf _ m | .fest _ _ m | .feq _ _ m => m.ok
  | .aadd t _ _ _ d m => vOnly t.regs d && m.ok
  | .aaddOrd _ _ _ d m => vOnly 1 d && m.ok
  | .aand t _ _ _ d m | .aor t _ _ _ d m | .axor t _ _ _ d m | .axchg t _ _ _ d m =>
    (t == .u32 || t == .u64) && vOnly t.regs d && m.ok
  | .amin t _ _ _ d m | .amax t _ _ _ d m => t != .fx64 && vOnly t.regs d && m.ok
  | .acas t _ _ d m => (t == .u32 || t == .u64) && vOnly (2 * t.regs) d && m.ok
  | .aincb _ _ d m | .depdec _ d m => vOnly 1 d && m.ok
  | .aseal _ m => m.ok
  | .bra _ | .call _ _ | .join _ | .brmLanes _ _ _ | .brm _ _ _ => true
  | .brc _ c _ => okOp [.S, .I] .u32 1 c
  | .brv _ c _ _ => vOnly 1 c
  | .smovi d _ => sDst 1 d
  | .vmovi d _ => vDst 1 d
  | .saddi d a _ => sDst 1 d && sDst 1 a
  | .vaddi d a _ => vDst 1 d && okOp [.V, .S, .VT] .u32 1 a
  | .pNop x b => pairWf .nop x b
  | .pVadd x b => pairWf .vadd x b
  | .pVsub x b => pairWf .vsub x b
  | .pVmul x b => pairWf .vmul x b
  | .pVand x b => pairWf .vand x b
  | .pVor x b => pairWf .vor x b
  | .pVxor x b => pairWf .vxor x b
  | .pVshl x b => pairWf .vshl x b
  | .pVshr x b => pairWf .vshr x b
  | .pVsar x b => pairWf .vsar x b
  | .pVmin x b => pairWf .vmin x b
  | .pVmax x b => pairWf .vmax x b
  | .pVmov x b => pairWf .vmov x b
  | .pVfadd x b => pairWf .vfadd x b
  | .pVfsub x b => pairWf .vfsub x b
  | .pVfmul x b => pairWf .vfmul x b
  | .pVfmin x b => pairWf .vfmin x b
  | .pVfmax x b => pairWf .vfmax x b
  | .pVcvt x b => pairWf .vcvt x b
  | .pSadd x b => pairWf .sadd x b
  | .pSsub x b => pairWf .ssub x b
  | .pSmov x b => pairWf .smov x b
  | .pSand x b => pairWf .sand x b
  | .pSor x b => pairWf .sor x b
  | .enq _ d a => oDst d && sDst 2 a
  | .enqr d a b => oDst d && sDst 2 a && sDst 2 b
  | .lcancel d a | .lcancelTree d a | .lcntGangs d a | .lcntTree d a | .lcntState d a => sDst 1 d && sDst 1 a
  | .coll _ d a b | .cput d a b => oDst d && pBlk a && sDst 2 b
  | .cbar d a b => oDst d && sSrc 1 a && sDst 2 b
  | .ctree _ d a b => sDst 1 d && sSrc 1 a && sSrc 1 b
  | .trap a => sSrc 1 a
  | .tretRetry | .tretSkip | .tretRegion | .kill _ | .killFault _ => true
  | .smovp d n => sDst 1 d && pregOk n.toNat
  | .smovq n a => pregRw n.toNat && sSrc 1 a
  | .invlp a => sDst 2 a
  | .invlpAll | .invlpIcache | .frz | .frzSnap => true
  | .dbgrd d a b => sDst 2 d && sDst 4 a && sDst 1 b
  | .dbgwr d a b x => sDst 1 d && sDst 4 a && sDst 1 b && sSrc 1 x
  | .dstep d a => sDst 1 d && sDst 4 a
  | .dstepIsolate d a b => sDst 1 d && sDst 4 a && sSrc 1 b
  | .illegalWord w => unassigned w
  | .regclaimGrant _ rank slot => rank < 4 && slot < 4
  | .sfuResultWrite _ _ | .copyUnitDone _ _ | .cpytFiring _ _ | .sqfillPush _ _ | .bowaitWake _ _ | .contractionStep _ _
  | .accrdResultWrite _ _ | .accstStoreDone _ _ | .foldApply _ | .loadResultWrite _ _ _ | .feWaitSatisfied _ _ _ => true
  | .enqrDelivery m => m.bytes.length == 64
  | .collChunkStage _ _ _ _ _ | .cbarInstanceDone _ _ | .cputRemoteArrival _ | .cputAck _ _ _ _ _
  | .linkStateChange _ _ | .linkStateMessage _ _ _ | .agreement _ _ _ _ => true
  | .invalidationSweepDone _ | .freezeTakesEffect _ | .gangHaltOtherFlight _ _ | .asyncFaultTaken | .timerPeriodEnd _
  | .timerTrapTaken | .fragmentAged _ _ | .fragmentSwitch _ _ | .preemptRequest _ _ | .preemptDeadline _
  | .preemptmaxExpiry _ | .engineStopAck _ _ | .gangRestore _ | .preemptWaitTimeout _ | .launchAccept _
  | .globalDispatch _ _ _ _ | .gangPlace _ _ | .gangRetire _ | .cancelComplete _ _ => true
  | .qnotifyWrite _ _ _ | .queueMap _ _ _ | .queueDisplace _ _ _ | .queueQuantumExpiry _ | .packetLaunch _ _
  | .packetGraph _ _ | .packetSignal _ _ | .packetWait _ _ | .packetBarrier _ _ | .packetCancel _ _
  | .waitMonitorHit _ _ | .queueUnblock _ _ | .forwardedWrite _ _ | .hostAccess _ _ _ | .registerWrite _ _ _ => true
  | .bootLock | .bootVerifyDone | .reset | .create _ | .destroy _ => true
  | .queueCreate _ _ desc | .communicatorCreate _ _ desc => desc.length == 64
  | .queueDestroy _ _ | .queueReset _ _ | .communicatorDestroy _ _ | .codeInvalidate _ | .replayPartition _
  | .replayBlock _ _ | .failBlock _ _ | .shootdown _ _ _ | .scan _ | .scanRestore _ _ | .thaw _ | .migration _ _ => true
  | .attest nonce => nonce.length == 32
  | .traceSyncSet _ | .traceLostPacket _ | .sampleTick _ | .thermalPowerLimit _ _ | .thermalShutdown _
  | .instructionFetchFault | .storePerformed _ _ _ | .memberLeft _ _ _ | .haltCommand _ _ _ _ _ _ | .freezeCommand _
  | .snapshotTriggerCommand | .firmwareEndsJob _ => true

end Sys2Proof
end

