-- ==== Sys2Proof/Decode.lean ====
section
/-!
DEFINITION. Decoding an instruction word (02 R12-R38), total on every word: it answers the instruction or the detail of
the illegal-instruction fault, the lowest that applies (02 R38). The encoder, written from the same tables, follows.
-/
namespace Sys2Proof

/-- The type code (02 R15). -/
def tyCode : Ty → Nat
  | .u32 => 0 | .s32 => 1 | .u64 => 2 | .s64 => 3 | .f32 => 4 | .f16x2 => 5 | .bf16x2 => 6 | .f64 => 7 | .dxb8 => 8 | .dxb6 => 9 | .dxb4 => 10 | .fx64 => 11 | .f16 => 12 | .bf16 => 13

/-- The type of a code; the reserved codes have none (02 R15). -/
def tyOf : Nat → Option Ty
  | 0 => some .u32 | 1 => some .s32 | 2 => some .u64 | 3 => some .s64 | 4 => some .f32 | 5 => some .f16x2 | 6 => some .bf16x2 | 7 => some .f64 | 8 => some .dxb8 | 9 => some .dxb6 | 10 => some .dxb4 | 11 => some .fx64 | 12 => some .f16 | 13 => some .bf16 | _ => none

/-- The type a code stands for where it stands for one. -/
def tyV (n : Nat) : Ty := (tyOf n).getD .u32

/-- The code of a rounding mode (02 R16). -/
def rmCode : Rm → Nat
  | .dyn => 0 | .rne => 1 | .rtz => 2 | .rup => 3 | .rdn => 4
/-- A rounding mode (02 R16) from its code. -/
def rmOf : Nat → Rm
  | 0 => .dyn | 1 => .rne | 2 => .rtz | 3 => .rup | _ => .rdn

/-- The code of a condition (06 R158). -/
def condCode : Cond → Nat
  | .eq => 0 | .ne => 1 | .lt => 2 | .le => 3 | .gt => 4 | .ge => 5
/-- A condition (06 R158) from its code. -/
def condOf : Nat → Cond
  | 0 => .eq | 1 => .ne | 2 => .lt | 3 => .le | 4 => .gt | _ => .ge

/-- The code of a floating-point condition (08 R212). -/
def fcondCode : FCond → Nat
  | .eq => 0 | .ne => 1 | .lt => 2 | .le => 3 | .gt => 4 | .ge => 5 | .uno => 6 | .ord => 7
/-- A floating-point condition (08 R212) from its code. -/
def fcondOf : Nat → FCond
  | 0 => .eq | 1 => .ne | 2 => .lt | 3 => .le | 4 => .gt | 5 => .ge | 6 => .uno | _ => .ord

/-- The code of a branch condition (02 R33). -/
def ccCode : Cc → Nat
  | .eqz => 0 | .nez => 1 | .ltz => 2 | .gez => 3 | .gtz => 4 | .lez => 5
/-- A branch condition (02 R33) from its code. -/
def ccOf : Nat → Cc
  | 0 => .eqz | 1 => .nez | 2 => .ltz | 3 => .gez | 4 => .gtz | _ => .lez

/-- The code of a reduction (08 R207). -/
def redOpCode : RedOp → Nat
  | .add => 0 | .min => 1 | .max => 2 | .and => 3 | .or => 4 | .xor => 5
/-- A reduction (08 R207) from its code. -/
def redOpOf : Nat → RedOp
  | 0 => .add | 1 => .min | 2 => .max | 3 => .and | 4 => .or | _ => .xor

/-- The code of a shuffle mode (08 R205). -/
def shModeCode : ShMode → Nat
  | .idx => 0 | .up => 1 | .down => 2 | .xor => 3
/-- A shuffle mode (08 R205) from its code. -/
def shModeOf : Nat → ShMode
  | 0 => .idx | 1 => .up | 2 => .down | _ => .xor

/-- The code of a scope (02 R28). -/
def scopeCode : Scope → Nat
  | .flight => 0 | .block => 1 | .gang => 2 | .die => 3 | .device => 4 | .pod => 5 | .system => 6 | .relaxed => 7
/-- A scope (02 R28) from its code. -/
def scopeOf : Nat → Scope
  | 0 => .flight | 1 => .block | 2 => .gang | 3 => .die | 4 => .device | 5 => .pod | 6 => .system | _ => .relaxed

/-- The code of a fence kind (13 R298). -/
def fenceKindCode : FenceKind → Nat
  | .acqrel => 0 | .acq => 1 | .rel => 2 | .sc => 3
/-- A fence kind (13 R298) from its code. -/
def fenceKindOf : Nat → FenceKind
  | 0 => .acqrel | 1 => .acq | 2 => .rel | _ => .sc

/-- The code of a collective (17 R371). -/
def collKindCode : CollKind → Nat
  | .allreduce => 0 | .redscat => 1 | .allgather => 2 | .bcast => 3 | .reduce => 4
/-- A collective (17 R371) from its code. -/
def collKindOf : Nat → CollKind
  | 0 => .allreduce | 1 => .redscat | 2 => .allgather | 3 => .bcast | _ => .reduce

/-- The code of a tree query (17 R380). -/
def treeQueryCode : TreeQuery → Nat
  | .count => 0 | .version => 1 | .plane => 2 | .parent => 3
/-- A tree query (17 R380) from its code. -/
def treeQueryOf : Nat → TreeQuery
  | 0 => .count | 1 => .version | 2 => .plane | _ => .parent

/-- The code of a width (02 R28). -/
def widthCode : Width → Nat
  | .b => 0 | .h => 1 | .w => 2 | .d => 3 | .q => 4 | .o => 5
/-- A width (02 R28) from its code. -/
def widthOf : Nat → Width
  | 0 => .b | 1 => .h | 2 => .w | 3 => .d | 4 => .q | _ => .o

/-- The code of a full-empty action (02 R30). -/
def feCode : Fe → Nat
  | .none => 0 | .wf => 1 | .wfc => 2 | .sf => 3
/-- A full-empty action (02 R30) from its code. -/
def feOf : Nat → Fe
  | 0 => .none | 1 => .wf | 2 => .wfc | _ => .sf

/-- The barrier-object scopes (05 R120). -/
def bscopeCode : Scope → Nat
  | .gang => 0 | .block => 1 | .die => 2 | .device => 3 | .pod => 4 | .system => 5 | .flight => 6 | .relaxed => 7
/-- A barrier-object scope from its code. -/
def bscopeOf : Nat → Scope
  | 0 => .gang | 1 => .block | 2 => .die | 3 => .device | 4 => .pod | _ => .system

/-- Width and aty of an atomic type (03 R52). -/
def atyCode : AType → Nat × Nat
  | .u32 => (2, 0) | .s32 => (2, 1) | .f32 => (2, 2) | .u64 => (3, 0) | .s64 => (3, 1) | .fx64 => (3, 3)
/-- The atomic type of a width and an aty (03 R52). -/
def atyOf : Nat → Nat → Option AType
  | 2, 0 => some .u32 | 2, 1 => some .s32 | 2, 2 => some .f32 | 3, 0 => some .u64 | 3, 1 => some .s64 | 3, 3 => some .fx64
  | _, _ => none

/-- The specifier of an operand (02 R19). -/
def sp : Opnd → Nat
  | .v n => n.val | .s n => 0x100 + n.val | .ss n => 0x160 + n.val | .vt n => 0x170 + n.val | .imm n => 0x180 + n.val
  | .cst n => 0x1C0 + n.val

/-- The operand of a specifier; a reserved one has none (02 R19). -/
def opndOf (n : Nat) : Option Opnd :=
  if h : n < 192 then some (.v ⟨n, h⟩)
  else if h : 0x100 ≤ n ∧ n < 0x160 then some (.s ⟨n - 0x100, by omega⟩)
  else if h : 0x160 ≤ n ∧ n < 0x170 then some (.ss ⟨n - 0x160, by omega⟩)
  else if h : 0x170 ≤ n ∧ n < 0x180 then some (.vt ⟨n - 0x170, by omega⟩)
  else if h : 0x180 ≤ n ∧ n < 0x1C0 then some (.imm ⟨n - 0x180, by omega⟩)
  else if h : 0x1C0 ≤ n ∧ n < 0x1E0 then some (.cst ⟨n - 0x1C0, by omega⟩)
  else none

/-- The operand a specifier names where it names one. -/
def op (n : Nat) : Opnd := (opndOf n).getD (.v 0)
/-- An optional destination: 0x000 names none (05 R134). -/
def oo (n : Nat) : Option Opnd := if n == 0 then none else some (op n)
/-- The specifier of an optional destination. -/
def spo : Option Opnd → Nat
  | none => 0
  | some o => sp o
/-- The specifier of mask s4k (02 R22). -/
def maskSp (m : Fin 24) : Nat := 0x100 + 4 * m.val
/-- The mask a specifier names where it names one (02 R22). -/
def maskOf (n : Nat) : Fin 24 := ⟨(n - 0x100) / 4 % 24, Nat.mod_lt _ (by decide)⟩
/-- A number as a 4-bit field. -/
def fin16 (n : Nat) : Fin 16 := ⟨n % 16, Nat.mod_lt _ (by decide)⟩
/-- A number as a 2-bit field. -/
def fin4 (n : Nat) : Fin 4 := ⟨n % 4, Nat.mod_lt _ (by decide)⟩

/-- The classes of an ordinary vector destination. -/
def vdC : List Cls := [.V, .VT]
/-- The classes of an ordinary vector source. -/
def vsC : List Cls := [.V, .S, .SS, .VT, .I, .C]
/-- The classes of an integer source of a vector instruction. -/
def isC : List Cls := [.V, .S, .SS, .VT, .I]
/-- The classes of a scalar destination. -/
def sdC : List Cls := [.S, .SS]
/-- The classes of a scalar source. -/
def ssC : List Cls := [.S, .SS, .I]
/-- The classes of a destination in either file. -/
def anyC : List Cls := [.V, .VT, .S, .SS]

/-- Detail `d` unless the condition holds. -/
def chk (d : Nat) (c : Bool) : List Nat := if c then [] else [d]
/-- An unused field must be zero (02 R16, R18): detail 3. FENCE and OPFENCE give it for every field of theirs that must be zero, ty
and the operand fields among them (13 R298, R301). -/
def pu (v : Nat) : List Nat := chk 3 (v == 0)
/-- An operand field the instruction does not use must hold 0x000 (02 R18): detail 3, and detail 2, the lower, where it
holds a reserved specifier (02 R38). -/
def pz (v : Nat) : List Nat := chk 2 (opndOf v).isSome ++ chk 3 (v == 0)
/-- The type field of an instruction whose entry gives ty 0, which does not use it: another value is detail 3 (02 R38, log 17). -/
def pt0 (v : Nat) : List Nat := chk 3 (v == 0)
/-- The details of an operand position that admits the classes, for type `t` and a group of `k` (02 R21, R38); detail 6
counts at user level only. -/
def pc (cl : List Cls) (t : Ty) (k : Nat) (v : Nat) : List Nat :=
  match opndOf v with
  | none => [2]
  | some o =>
    if !cl.contains o.cls then [5]
    else chk 5 ((o.cls != .C || t.isFp) && (o.cls != .I || !t.isDxb)) ++ chk 6 (o.cls != .SS && o.cls != .VT) ++
      chk 8 (o.fits k)
/-- A mask position (02 R22): detail 2. -/
def pm (v : Nat) : List Nat := chk 2 (0x100 ≤ v && v < 0x160 && v % 4 == 0)
/-- The destination of a comparison (08 R201). -/
def pcmp (v : Nat) : List Nat :=
  match opndOf v with
  | none => [2]
  | some (.v _) => []
  | some (.vt _) => [6]
  | some (.s n) => chk 2 (n.val % 4 == 0)
  | some _ => [5]
/-- An optional scalar destination. -/
def po (v : Nat) : List Nat := if v == 0 then [] else pc sdC .u32 1 v
/-- The type field of an instruction that lists the types it admits: detail 4 (02 R15). -/
def pt (adm : List Ty) (v : Nat) : List Nat :=
  match tyOf v with
  | none => [4]
  | some t => chk 4 (adm.contains t)

/-- The fields of an F-form word (02 R14). -/
structure FF where
  dst : Nat
  sa  : Nat
  sb  : Nat
  sc  : Nat
  ty  : Nat
  q1  : Nat
  q2  : Nat
  q3  : Nat
  deriving DecidableEq, Repr

/-- The F-form fields of a word read as a number. -/
def ffOf (n : Nat) : FF :=
  { dst := n / 2 ^ 43 % 512, sa := n / 2 ^ 34 % 512, sb := n / 2 ^ 25 % 512, sc := n / 2 ^ 16 % 512,
    ty := n / 2 ^ 12 % 16, q1 := n / 2 ^ 8 % 16, q2 := n / 2 ^ 4 % 16, q3 := n % 16 }

/-- F-form opcodes 0x001-0x03F (02 R35): the failing details and the instruction. -/
def fScalar (f : FF) : Nat → Option (List Nat × Instr)
  | 0x001 => let t := tyV f.ty;
    some (pc sdC .u32 1 f.dst ++ pc ssC .u32 1 f.sa ++ pc ssC .u32 1 f.sb ++ pz f.sc ++ pt [Ty.u32, .s32] f.ty ++ pu f.q1 ++ pu f.q2 ++ pu f.q3, .sadd t (op f.dst) (op f.sa) (op f.sb))
  | 0x002 => let t := tyV f.ty;
    some (pc sdC .u32 1 f.dst ++ pc ssC .u32 1 f.sa ++ pc ssC .u32 1 f.sb ++ pz f.sc ++ pt [Ty.u32, .s32] f.ty ++ pu f.q1 ++ pu f.q2 ++ pu f.q3, .ssub t (op f.dst) (op f.sa) (op f.sb))
  | 0x003 => let t := tyV f.ty;
    some (pc sdC .u32 1 f.dst ++ pc ssC .u32 1 f.sa ++ pc ssC .u32 1 f.sb ++ pz f.sc ++ pt [Ty.u32, .s32] f.ty ++ pu f.q1 ++ pu f.q2 ++ pu f.q3, .smul t (op f.dst) (op f.sa) (op f.sb))
  | 0x004 => let t := tyV f.ty;
    some (pc sdC .u32 1 f.dst ++ pc ssC .u32 1 f.sa ++ pc ssC .u32 1 f.sb ++ pz f.sc ++ pt [Ty.u32, .s32] f.ty ++ pu f.q1 ++ pu f.q2 ++ pu f.q3, .smulh t (op f.dst) (op f.sa) (op f.sb))
  | 0x005 => let t := tyV f.ty;
    some (pc sdC .u32 1 f.dst ++ pc ssC .u32 1 f.sa ++ pc ssC .u32 1 f.sb ++ pz f.sc ++ pt [Ty.u32, .s32] f.ty ++ pu f.q1 ++ pu f.q2 ++ pu f.q3, .sand t (op f.dst) (op f.sa) (op f.sb))
  | 0x006 => let t := tyV f.ty;
    some (pc sdC .u32 1 f.dst ++ pc ssC .u32 1 f.sa ++ pc ssC .u32 1 f.sb ++ pz f.sc ++ pt [Ty.u32, .s32] f.ty ++ pu f.q1 ++ pu f.q2 ++ pu f.q3, .sor t (op f.dst) (op f.sa) (op f.sb))
  | 0x007 => let t := tyV f.ty;
    some (pc sdC .u32 1 f.dst ++ pc ssC .u32 1 f.sa ++ pc ssC .u32 1 f.sb ++ pz f.sc ++ pt [Ty.u32, .s32] f.ty ++ pu f.q1 ++ pu f.q2 ++ pu f.q3, .sxor t (op f.dst) (op f.sa) (op f.sb))
  | 0x008 => let t := tyV f.ty;
    some (pc sdC .u32 1 f.dst ++ pc ssC .u32 1 f.sa ++ pc ssC .u32 1 f.sb ++ pz f.sc ++ pt [Ty.u32, .s32] f.ty ++ pu f.q1 ++ pu f.q2 ++ pu f.q3, .sshl t (op f.dst) (op f.sa) (op f.sb))
  | 0x009 => let t := tyV f.ty;
    some (pc sdC .u32 1 f.dst ++ pc ssC .u32 1 f.sa ++ pc ssC .u32 1 f.sb ++ pz f.sc ++ pt [Ty.u32, .s32] f.ty ++ pu f.q1 ++ pu f.q2 ++ pu f.q3, .sshr t (op f.dst) (op f.sa) (op f.sb))
  | 0x00A => let t := tyV f.ty;
    some (pc sdC .u32 1 f.dst ++ pc ssC .u32 1 f.sa ++ pc ssC .u32 1 f.sb ++ pz f.sc ++ pt [Ty.u32, .s32] f.ty ++ pu f.q1 ++ pu f.q2 ++ pu f.q3, .ssar t (op f.dst) (op f.sa) (op f.sb))
  | 0x00B => let t := tyV f.ty;
    some (pc sdC .u32 1 f.dst ++ pc ssC .u32 1 f.sa ++ pc ssC .u32 1 f.sb ++ pz f.sc ++ pt [Ty.u32, .s32] f.ty ++ pu f.q1 ++ pu f.q2 ++ pu f.q3, .smin t (op f.dst) (op f.sa) (op f.sb))
  | 0x00C => let t := tyV f.ty;
    some (pc sdC .u32 1 f.dst ++ pc ssC .u32 1 f.sa ++ pc ssC .u32 1 f.sb ++ pz f.sc ++ pt [Ty.u32, .s32] f.ty ++ pu f.q1 ++ pu f.q2 ++ pu f.q3, .smax t (op f.dst) (op f.sa) (op f.sb))
  | 0x00D => let t := tyV f.ty;
    some (pc sdC .u32 1 f.dst ++ pc ssC .u32 1 f.sa ++ pc ssC .u32 1 f.sb ++ pz f.sc ++ pt [Ty.u32, .s32] f.ty ++ chk 5 (f.q1 ≤ 5) ++ pu f.q2 ++ pu f.q3, .scmp t (condOf f.q1) (op f.dst) (op f.sa) (op f.sb))
  | 0x00E => let t := tyV f.ty;
    some (pc sdC .u32 1 f.dst ++ pc ssC .u32 1 f.sa ++ pc ssC .u32 1 f.sb ++ pc ssC .u32 1 f.sc ++ pt [Ty.u32, .s32] f.ty ++ pu f.q1 ++ pu f.q2 ++ pu f.q3, .ssel t (op f.dst) (op f.sa) (op f.sb) (op f.sc))
  | 0x00F => let t := tyV f.ty;
    some (pc sdC .u32 1 f.dst ++ pc [.S, .SS, .I, .C] t 1 f.sa ++ pz f.sb ++ pz f.sc ++ pt [Ty.u32, .s32, .f32] f.ty ++ pu f.q1 ++ pu f.q2 ++ pu f.q3, .smov t (op f.dst) (op f.sa))
  | 0x010 => let n := BitVec.ofNat 8 (16 * f.q2 + f.q3);
    some (pc sdC .u32 1 f.dst ++ pz f.sa ++ pz f.sb ++ pz f.sc ++ pt0 f.ty ++ pu f.q1 ++ chk 5 (n.toNat ≤ 0x13), .smovs (op f.dst) n)
  | 0x011 => let n := BitVec.ofNat 8 (16 * f.q2 + f.q3);
    some (pz f.dst ++ pc ssC .u32 1 f.sa ++ pz f.sb ++ pz f.sc ++ pt0 f.ty ++ pu f.q1 ++ chk 5 (n == 0x11 || n == 0x12), .smovw n (op f.sa))
  | 0x012 => let t := tyV f.ty;
    some (pc sdC .u32 1 f.dst ++ pc ssC .u32 1 f.sa ++ pc ssC .u32 1 f.sb ++ pc ssC .u32 1 f.sc ++ pt [Ty.u32, .s32] f.ty ++ pu f.q1 ++ pu f.q2 ++ pu f.q3, .sbfe t (op f.dst) (op f.sa) (op f.sb) (op f.sc))
  | 0x013 => 
    some (pc sdC .u32 1 f.dst ++ pc ssC .u32 1 f.sa ++ pz f.sb ++ pz f.sc ++ pt [Ty.u32] f.ty ++ pu f.q1 ++ pu f.q2 ++ pu f.q3, .spopc (op f.dst) (op f.sa))
  | 0x014 => 
    some (pc sdC .u32 1 f.dst ++ pc ssC .u32 1 f.sa ++ pz f.sb ++ pz f.sc ++ pt [Ty.u32] f.ty ++ pu f.q1 ++ pu f.q2 ++ pu f.q3, .sclz (op f.dst) (op f.sa))
  | 0x015 => let t := tyV f.ty;
    some (pc sdC .u32 2 f.dst ++ pc ssC .u32 2 f.sa ++ pc ssC .u32 2 f.sb ++ pz f.sc ++ pt [Ty.u64, .s64] f.ty ++ pu f.q1 ++ pu f.q2 ++ pu f.q3, .sadd64 t (op f.dst) (op f.sa) (op f.sb))
  | 0x017 => 
    some (pz f.dst ++ pz f.sa ++ pz f.sb ++ pz f.sc ++ pt0 f.ty ++ pu f.q1 ++ pu f.q2 ++ pu f.q3, .exit)
  | 0x018 => 
    some (pz f.dst ++ pc sdC .u32 2 f.sa ++ pz f.sb ++ pz f.sc ++ pt0 f.ty ++ pu f.q1 ++ pu f.q2 ++ pu f.q3, .ret (op f.sa))
  | 0x019 => 
    some (pz f.dst ++ pz f.sa ++ pz f.sb ++ pz f.sc ++ pt0 f.ty ++ pu f.q1 ++ pu f.q2 ++ pu f.q3, .yield)
  | 0x01A => 
    some (pz f.dst ++ pz f.sa ++ pz f.sb ++ pz f.sc ++ pt0 f.ty ++ pu f.q1 ++ pu f.q2 ++ pu f.q3, .regn)
  | 0x01B => 
    some (pz f.dst ++ pc [.I] .u32 1 f.sa ++ pz f.sb ++ pz f.sc ++ pt0 f.ty ++ pu f.q1 ++ pu f.q2 ++ pu f.q3, .brkpt (op f.sa))
  | 0x01D => 
    some (pz f.dst ++ pc ssC .u32 1 f.sa ++ pc ssC .u32 1 f.sb ++ pz f.sc ++ pt0 f.ty ++ pu f.q1 ++ pu f.q2 ++ pu f.q3, .barw (op f.sa) (op f.sb))
  | 0x01E => 
    some (pz f.dst ++ pc ssC .u32 1 f.sa ++ pc ssC .u32 1 f.sb ++ pz f.sc ++ pt0 f.ty ++ pu f.q1 ++ pu f.q2 ++ pu f.q3, .bara (op f.sa) (op f.sb))
  | 0x01F => 
    some (pu f.dst ++ pu f.sa ++ pu f.sb ++ pu f.sc ++ pu f.ty ++ chk 5 (f.q1 ≤ 3) ++ chk 5 (f.q2 ≤ 6) ++ pu f.q3, .fence (fenceKindOf f.q1) (scopeOf f.q2))
  | 0x020 => 
    some (pu f.dst ++ pu f.sa ++ pu f.sb ++ pu f.sc ++ pu f.ty ++ pu f.q1 ++ pu f.q2 ++ pu f.q3, .opfence)
  | 0x021 => 
    some (pz f.dst ++ pc ssC .u32 1 f.sa ++ pz f.sb ++ pz f.sc ++ pt0 f.ty ++ pu f.q1 ++ pu f.q2 ++ pu f.q3, .reggive (op f.sa))
  | 0x022 => 
    if f.q1 != 1 then some (pz f.dst ++ pc ssC .u32 1 f.sa ++ pz f.sb ++ pz f.sc ++ pt0 f.ty ++ chk 5 (f.q1 ≤ 1) ++ pu f.q2 ++ pu f.q3, .regclaim (op f.sa))
    else some (pc sdC .u32 1 f.dst ++ pc ssC .u32 1 f.sa ++ pz f.sb ++ pz f.sc ++ pt0 f.ty ++ chk 5 (f.q1 ≤ 1) ++ pu f.q2 ++ pu f.q3, .regclaimTry (op f.dst) (op f.sa))
  | 0x028 => 
    some (pm f.dst ++ pm f.sa ++ pm f.sb ++ pz f.sc ++ pt0 f.ty ++ pu f.q1 ++ pu f.q2 ++ pu f.q3, .mand (maskOf f.dst) (maskOf f.sa) (maskOf f.sb))
  | 0x029 => 
    some (pm f.dst ++ pm f.sa ++ pm f.sb ++ pz f.sc ++ pt0 f.ty ++ pu f.q1 ++ pu f.q2 ++ pu f.q3, .mor (maskOf f.dst) (maskOf f.sa) (maskOf f.sb))
  | 0x02A => 
    some (pm f.dst ++ pm f.sa ++ pm f.sb ++ pz f.sc ++ pt0 f.ty ++ pu f.q1 ++ pu f.q2 ++ pu f.q3, .mxor (maskOf f.dst) (maskOf f.sa) (maskOf f.sb))
  | 0x02B => 
    some (pm f.dst ++ pm f.sa ++ pm f.sb ++ pz f.sc ++ pt0 f.ty ++ pu f.q1 ++ pu f.q2 ++ pu f.q3, .mandn (maskOf f.dst) (maskOf f.sa) (maskOf f.sb))
  | 0x02C => 
    some (pc sdC .u32 1 f.dst ++ pm f.sa ++ pz f.sb ++ pz f.sc ++ pt0 f.ty ++ pu f.q1 ++ pu f.q2 ++ pu f.q3, .mpopc (op f.dst) (maskOf f.sa))
  | 0x02D => 
    some (pc sdC .u32 1 f.dst ++ pm f.sa ++ pz f.sb ++ pz f.sc ++ pt0 f.ty ++ pu f.q1 ++ pu f.q2 ++ pu f.q3, .mfirst (op f.dst) (maskOf f.sa))
  | 0x02E => 
    some (pm f.dst ++ pc ssC .u32 1 f.sa ++ pz f.sb ++ pz f.sc ++ pt0 f.ty ++ pu f.q1 ++ pu f.q2 ++ pu f.q3, .mlane (maskOf f.dst) (op f.sa))
  | _ => none

/-- F-form opcodes 0x040-0x07F (02 R35). -/
def fVector (f : FF) : Nat → Option (List Nat × Instr)
  | 0x040 => let t := tyV f.ty;
    some (pc vdC .u32 1 f.dst ++ pc vsC t t.regs f.sa ++ pc vsC t t.regs f.sb ++ pz f.sc ++ pt [Ty.u32, .s32] f.ty ++ pu f.q1 ++ pu f.q2 ++ pu f.q3, .vadd t (op f.dst) (op f.sa) (op f.sb))
  | 0x041 => let t := tyV f.ty;
    some (pc vdC .u32 1 f.dst ++ pc vsC t t.regs f.sa ++ pc vsC t t.regs f.sb ++ pz f.sc ++ pt [Ty.u32, .s32] f.ty ++ pu f.q1 ++ pu f.q2 ++ pu f.q3, .vsub t (op f.dst) (op f.sa) (op f.sb))
  | 0x042 => let t := tyV f.ty;
    some (pc vdC .u32 1 f.dst ++ pc vsC t t.regs f.sa ++ pc vsC t t.regs f.sb ++ pz f.sc ++ pt [Ty.u32, .s32] f.ty ++ pu f.q1 ++ pu f.q2 ++ pu f.q3, .vmul t (op f.dst) (op f.sa) (op f.sb))
  | 0x043 => let t := tyV f.ty;
    some (pc vdC .u32 1 f.dst ++ pc vsC t t.regs f.sa ++ pc vsC t t.regs f.sb ++ pz f.sc ++ pt [Ty.u32, .s32] f.ty ++ pu f.q1 ++ pu f.q2 ++ pu f.q3, .vmulh t (op f.dst) (op f.sa) (op f.sb))
  | 0x044 => let t := tyV f.ty;
    some (pc vdC .u32 1 f.dst ++ pc vsC t t.regs f.sa ++ pc vsC t t.regs f.sb ++ pc vsC t t.regs f.sc ++ pt [Ty.u32, .s32] f.ty ++ pu f.q1 ++ pu f.q2 ++ pu f.q3, .vmad t (op f.dst) (op f.sa) (op f.sb) (op f.sc))
  | 0x045 => let t := tyV f.ty;
    some (pc vdC .u32 1 f.dst ++ pc vsC t t.regs f.sa ++ pc vsC t t.regs f.sb ++ pz f.sc ++ pt [Ty.u32, .s32] f.ty ++ pu f.q1 ++ pu f.q2 ++ pu f.q3, .vand t (op f.dst) (op f.sa) (op f.sb))
  | 0x046 => let t := tyV f.ty;
    some (pc vdC .u32 1 f.dst ++ pc vsC t t.regs f.sa ++ pc vsC t t.regs f.sb ++ pz f.sc ++ pt [Ty.u32, .s32] f.ty ++ pu f.q1 ++ pu f.q2 ++ pu f.q3, .vor t (op f.dst) (op f.sa) (op f.sb))
  | 0x047 => let t := tyV f.ty;
    some (pc vdC .u32 1 f.dst ++ pc vsC t t.regs f.sa ++ pc vsC t t.regs f.sb ++ pz f.sc ++ pt [Ty.u32, .s32] f.ty ++ pu f.q1 ++ pu f.q2 ++ pu f.q3, .vxor t (op f.dst) (op f.sa) (op f.sb))
  | 0x048 => let t := tyV f.ty;
    some (pc vdC .u32 1 f.dst ++ pc vsC t t.regs f.sa ++ pc vsC t t.regs f.sb ++ pz f.sc ++ pt [Ty.u32, .s32] f.ty ++ pu f.q1 ++ pu f.q2 ++ pu f.q3, .vandn t (op f.dst) (op f.sa) (op f.sb))
  | 0x049 => let t := tyV f.ty;
    some (pc vdC .u32 1 f.dst ++ pc vsC t t.regs f.sa ++ pc vsC t t.regs f.sb ++ pz f.sc ++ pt [Ty.u32, .s32] f.ty ++ pu f.q1 ++ pu f.q2 ++ pu f.q3, .vshl t (op f.dst) (op f.sa) (op f.sb))
  | 0x04A => let t := tyV f.ty;
    some (pc vdC .u32 1 f.dst ++ pc vsC t t.regs f.sa ++ pc vsC t t.regs f.sb ++ pz f.sc ++ pt [Ty.u32, .s32] f.ty ++ pu f.q1 ++ pu f.q2 ++ pu f.q3, .vshr t (op f.dst) (op f.sa) (op f.sb))
  | 0x04B => let t := tyV f.ty;
    some (pc vdC .u32 1 f.dst ++ pc vsC t t.regs f.sa ++ pc vsC t t.regs f.sb ++ pz f.sc ++ pt [Ty.u32, .s32] f.ty ++ pu f.q1 ++ pu f.q2 ++ pu f.q3, .vsar t (op f.dst) (op f.sa) (op f.sb))
  | 0x04C => let t := tyV f.ty;
    some (pc vdC .u32 1 f.dst ++ pc vsC t t.regs f.sa ++ pc vsC t t.regs f.sb ++ pz f.sc ++ pt [Ty.u32, .s32] f.ty ++ pu f.q1 ++ pu f.q2 ++ pu f.q3, .vmin t (op f.dst) (op f.sa) (op f.sb))
  | 0x04D => let t := tyV f.ty;
    some (pc vdC .u32 1 f.dst ++ pc vsC t t.regs f.sa ++ pc vsC t t.regs f.sb ++ pz f.sc ++ pt [Ty.u32, .s32] f.ty ++ pu f.q1 ++ pu f.q2 ++ pu f.q3, .vmax t (op f.dst) (op f.sa) (op f.sb))
  | 0x04E => 
    some (pc vdC .u32 1 f.dst ++ pc vsC .u32 1 f.sa ++ pz f.sb ++ pz f.sc ++ pt [Ty.s32] f.ty ++ pu f.q1 ++ pu f.q2 ++ pu f.q3, .vabs (op f.dst) (op f.sa))
  | 0x04F => 
    some (pc vdC .u32 1 f.dst ++ pc vsC .u32 1 f.sa ++ pz f.sb ++ pz f.sc ++ pt [Ty.u32] f.ty ++ pu f.q1 ++ pu f.q2 ++ pu f.q3, .vclz (op f.dst) (op f.sa))
  | 0x050 => 
    some (pc vdC .u32 1 f.dst ++ pc vsC .u32 1 f.sa ++ pz f.sb ++ pz f.sc ++ pt [Ty.u32] f.ty ++ pu f.q1 ++ pu f.q2 ++ pu f.q3, .vpopc (op f.dst) (op f.sa))
  | 0x051 => let t := tyV f.ty;
    some (pc vdC .u32 1 f.dst ++ pc vsC t t.regs f.sa ++ pc vsC t t.regs f.sb ++ pc vsC t t.regs f.sc ++ pt [Ty.u32, .s32] f.ty ++ pu f.q1 ++ pu f.q2 ++ pu f.q3, .vbfe t (op f.dst) (op f.sa) (op f.sb) (op f.sc))
  | 0x052 => 
    some (pc vdC .u32 1 f.dst ++ pc vsC .u32 1 f.sa ++ pc vsC .u32 1 f.sb ++ pc vsC .u32 1 f.sc ++ pt [Ty.u32] f.ty ++ pu f.q1 ++ pu f.q2 ++ pu f.q3, .vbfi (op f.dst) (op f.sa) (op f.sb) (op f.sc))
  | 0x053 => let t := tyV f.ty;
    some (pcmp f.dst ++ pc vsC t t.regs f.sa ++ pc vsC t t.regs f.sb ++ pz f.sc ++ pt [Ty.u32, .s32] f.ty ++ chk 5 (f.q1 ≤ 5) ++ pu f.q2 ++ pu f.q3, .vcmp t (condOf f.q1) (op f.dst) (op f.sa) (op f.sb))
  | 0x054 => let t := tyV f.ty;
    some (pc vdC .u32 t.regs f.dst ++ pc vsC t t.regs f.sa ++ pc vsC t t.regs f.sb ++ pc isC .u32 1 f.sc ++ pt [Ty.u32, .s32, .u64, .s64, .f32, .f16x2, .bf16x2, .f64, .fx64, .f16, .bf16] f.ty ++ pu f.q1 ++ pu f.q2 ++ pu f.q3, .vsel t (op f.dst) (op f.sa) (op f.sb) (op f.sc))
  | 0x055 => let t := tyV f.ty;
    some (pc vdC .u32 t.regs f.dst ++ pc vsC t t.regs f.sa ++ pz f.sb ++ pz f.sc ++ pt [Ty.u32, .s32, .u64, .s64, .f32, .f16x2, .bf16x2, .f64, .fx64, .f16, .bf16] f.ty ++ pu f.q1 ++ pu f.q2 ++ pu f.q3, .vmov t (op f.dst) (op f.sa))
  | 0x056 => let t := tyV f.ty;
    some (pc vdC .u32 2 f.dst ++ pc vsC t t.regs f.sa ++ pc vsC t t.regs f.sb ++ pz f.sc ++ pt [Ty.u64, .s64, .fx64] f.ty ++ pu f.q1 ++ pu f.q2 ++ pu f.q3, .vadd64 t (op f.dst) (op f.sa) (op f.sb))
  | 0x057 => let t := tyV f.ty;
    some (pc vdC .u32 2 f.dst ++ pc isC .u32 1 f.sa ++ pc isC .u32 1 f.sb ++ pc vsC t t.regs f.sc ++ pt [Ty.u64, .s64] f.ty ++ pu f.q1 ++ pu f.q2 ++ pu f.q3, .vmad64 t (op f.dst) (op f.sa) (op f.sb) (op f.sc))
  | 0x058 => let t := tyV f.ty;
    some (pc vdC .u32 t.regs f.dst ++ pc vsC t t.regs f.sa ++ pc [.V, .S, .SS, .I] .u32 1 f.sb ++ pz f.sc ++ pt [Ty.u32, .u64] f.ty ++ chk 5 (f.q1 ≤ 3) ++ pu f.q2 ++ pu f.q3, .vshfl t (shModeOf f.q1) (op f.dst) (op f.sa) (op f.sb))
  | 0x059 => let t := tyV f.ty;
    some (pc anyC .u32 t.regs f.dst ++ pc vsC t t.regs f.sa ++ pc ssC .u32 1 f.sb ++ pz f.sc ++ pt [Ty.u32, .u64] f.ty ++ pu f.q1 ++ pu f.q2 ++ pu f.q3, .vbcast t (op f.dst) (op f.sa) (op f.sb))
  | 0x05A => let t := tyV f.ty;
    some (pc anyC .u32 t.regs f.dst ++ pc vsC t t.regs f.sa ++ pz f.sb ++ pz f.sc ++ pt [Ty.u32, .s32, .u64, .s64, .f32, .fx64] f.ty ++ chk 5 (f.q1 ≤ 5) ++ pu f.q2 ++ pu f.q3 ++ chk 5 (redOk t (redOpOf f.q1)), .vredu t (redOpOf f.q1) (op f.dst) (op f.sa))
  | 0x05B => let t := tyV f.ty;
    some (pc [.V] .u32 t.regs f.dst ++ pc vsC t t.regs f.sa ++ pz f.sb ++ pz f.sc ++ pt [Ty.u32, .s32, .u64, .s64, .f32, .fx64] f.ty ++ chk 5 (f.q1 ≤ 5) ++ chk 5 (f.q2 ≤ 1) ++ pu f.q3 ++ chk 5 (redOk t (redOpOf f.q1)), .vscan t (redOpOf f.q1) (f.q2 == 1) (op f.dst) (op f.sa))
  | 0x05C => let n := BitVec.ofNat 8 (16 * f.q2 + f.q3);
    some (pc vdC .u32 1 f.dst ++ pz f.sa ++ pz f.sb ++ pz f.sc ++ pt0 f.ty ++ pu f.q1 ++ chk 5 (n.toNat ≤ 5), .vmovs (op f.dst) n)
  | _ => none

/-- F-form opcodes 0x080-0x0BF (02 R35). The source of VBEXP is taken as f32, so that classes I and C are admitted (08 R223, log 17). -/
def fFloat (f : FF) : Nat → Option (List Nat × Instr)
  | 0x080 => let t := tyV f.ty;
    some (pc vdC .u32 t.regs f.dst ++ pc vsC t t.regs f.sa ++ pc vsC t t.regs f.sb ++ pz f.sc ++ pt [Ty.f32, .f16x2, .bf16x2, .f64, .f16, .bf16] f.ty ++ chk 5 (f.q1 ≤ 4) ++ pu f.q2 ++ pu f.q3, .vfadd t (rmOf f.q1) (op f.dst) (op f.sa) (op f.sb))
  | 0x081 => let t := tyV f.ty;
    some (pc vdC .u32 t.regs f.dst ++ pc vsC t t.regs f.sa ++ pc vsC t t.regs f.sb ++ pz f.sc ++ pt [Ty.f32, .f16x2, .bf16x2, .f64, .f16, .bf16] f.ty ++ chk 5 (f.q1 ≤ 4) ++ pu f.q2 ++ pu f.q3, .vfsub t (rmOf f.q1) (op f.dst) (op f.sa) (op f.sb))
  | 0x082 => let t := tyV f.ty;
    some (pc vdC .u32 t.regs f.dst ++ pc vsC t t.regs f.sa ++ pc vsC t t.regs f.sb ++ pz f.sc ++ pt [Ty.f32, .f16x2, .bf16x2, .f64, .f16, .bf16] f.ty ++ chk 5 (f.q1 ≤ 4) ++ pu f.q2 ++ pu f.q3, .vfmul t (rmOf f.q1) (op f.dst) (op f.sa) (op f.sb))
  | 0x083 => let t := tyV f.ty;
    some (pc vdC .u32 t.regs f.dst ++ pc vsC t t.regs f.sa ++ pc vsC t t.regs f.sb ++ pc vsC t t.regs f.sc ++ pt [Ty.f32, .f16x2, .bf16x2, .f64, .f16, .bf16] f.ty ++ chk 5 (f.q1 ≤ 4) ++ pu f.q2 ++ pu f.q3, .vfma t (rmOf f.q1) (op f.dst) (op f.sa) (op f.sb) (op f.sc))
  | 0x084 => let t := tyV f.ty;
    some (pc vdC .u32 t.regs f.dst ++ pc vsC t t.regs f.sa ++ pc vsC t t.regs f.sb ++ pz f.sc ++ pt [Ty.f32, .f16x2, .bf16x2, .f64, .f16, .bf16] f.ty ++ pu f.q1 ++ pu f.q2 ++ pu f.q3, .vfmin t (op f.dst) (op f.sa) (op f.sb))
  | 0x085 => let t := tyV f.ty;
    some (pc vdC .u32 t.regs f.dst ++ pc vsC t t.regs f.sa ++ pc vsC t t.regs f.sb ++ pz f.sc ++ pt [Ty.f32, .f16x2, .bf16x2, .f64, .f16, .bf16] f.ty ++ pu f.q1 ++ pu f.q2 ++ pu f.q3, .vfmax t (op f.dst) (op f.sa) (op f.sb))
  | 0x086 => let t := tyV f.ty;
    some (pcmp f.dst ++ pc vsC t t.regs f.sa ++ pc vsC t t.regs f.sb ++ pz f.sc ++ pt [Ty.f32, .f64, .f16, .bf16] f.ty ++ chk 5 (f.q1 ≤ 7) ++ pu f.q2 ++ pu f.q3, .vfcmp t (fcondOf f.q1) (op f.dst) (op f.sa) (op f.sb))
  | 0x087 => let t := tyV f.ty;
    some (pc [.V] .u32 1 f.dst ++ pc vsC t t.regs f.sa ++ pz f.sb ++ pz f.sc ++ pt [Ty.f32, .f64, .f16, .bf16] f.ty ++ pu f.q1 ++ pu f.q2 ++ pu f.q3, .vfclass t (op f.dst) (op f.sa))
  | 0x088 => let t := tyV f.ty;
    some (pc vdC .u32 t.regs f.dst ++ pc vsC t t.regs f.sa ++ pz f.sb ++ pz f.sc ++ pt [Ty.f32, .f16x2, .bf16x2, .f64, .f16, .bf16] f.ty ++ chk 5 (f.q1 ≤ 4) ++ pu f.q2 ++ pu f.q3, .vfrnd t (rmOf f.q1) (op f.dst) (op f.sa))
  | 0x089 => let t := tyV f.ty; let s := tyV f.q2; let srcOk := (tyOf f.q2).isSome;
    some (pc vdC .u32 t.regs f.dst ++ pc vsC s s.regs f.sa ++ (if t == .f16x2 || t == .bf16x2 then pc vsC s s.regs f.sb else pz f.sb) ++ pz f.sc ++ pt [Ty.u32, .s32, .u64, .s64, .f32, .f16x2, .bf16x2, .f64, .fx64, .f16, .bf16] f.ty ++ chk 5 (f.q1 ≤ 4) ++ pu f.q3 ++ chk 5 (srcOk && cvtOk t s), .vcvt t (rmOf f.q1) s (op f.dst) (op f.sa) (op f.sb))
  | 0x08A => let t := tyV f.ty; let s := tyV f.q2; let srcOk := (tyOf f.q2).isSome;
    some (pc vdC .u32 1 f.dst ++ pc vsC s s.regs f.sa ++ pc [.V, .S, .SS, .I] .u32 1 f.sb ++ pz f.sc ++ pt [Ty.u32, .s32] f.ty ++ chk 5 (f.q1 ≤ 4) ++ pu f.q3 ++ chk 5 (srcOk && s.sfu), .vf2i t (rmOf f.q1) s (op f.dst) (op f.sa) (op f.sb))
  | 0x08B => let t := tyV f.ty; let s := tyV f.q2; let srcOk := (tyOf f.q2).isSome;
    some (pc vdC .u32 1 f.dst ++ pc vsC s s.regs f.sa ++ pc [.V, .S, .SS, .I] .u32 1 f.sb ++ pz f.sc ++ pt [Ty.f32, .f16, .bf16] f.ty ++ chk 5 (f.q1 ≤ 4) ++ pu f.q3 ++ chk 5 (srcOk && s.i32), .vi2f t (rmOf f.q1) s (op f.dst) (op f.sa) (op f.sb))
  | 0x08C => let t := tyV f.ty;
    some (pc vdC .u32 t.regs f.dst ++ pc vsC t t.regs f.sa ++ pc isC .u32 1 f.sb ++ pz f.sc ++ pt [Ty.f32, .f16x2, .bf16x2, .f64, .f16, .bf16] f.ty ++ chk 5 (f.q1 ≤ 4) ++ pu f.q2 ++ pu f.q3, .vfscl t (rmOf f.q1) (op f.dst) (op f.sa) (op f.sb))
  | 0x08D => let t := tyV f.ty;
    some (pc vdC .u32 1 f.dst ++ pc vsC t t.regs f.sa ++ pz f.sb ++ pz f.sc ++ pt [Ty.f32, .f16, .bf16] f.ty ++ chk 5 (f.q1 ≤ 1) ++ pu f.q2 ++ pu f.q3, .vrcp t (rmOf f.q1) (op f.dst) (op f.sa))
  | 0x08E => let t := tyV f.ty;
    some (pc vdC .u32 1 f.dst ++ pc vsC t t.regs f.sa ++ pz f.sb ++ pz f.sc ++ pt [Ty.f32, .f16, .bf16] f.ty ++ chk 5 (f.q1 ≤ 1) ++ pu f.q2 ++ pu f.q3, .vrsq t (rmOf f.q1) (op f.dst) (op f.sa))
  | 0x08F => let t := tyV f.ty;
    some (pc vdC .u32 1 f.dst ++ pc vsC t t.regs f.sa ++ pz f.sb ++ pz f.sc ++ pt [Ty.f32, .f16, .bf16] f.ty ++ chk 5 (f.q1 ≤ 1) ++ pu f.q2 ++ pu f.q3, .vsqrt t (rmOf f.q1) (op f.dst) (op f.sa))
  | 0x090 => let t := tyV f.ty;
    some (pc vdC .u32 1 f.dst ++ pc vsC t t.regs f.sa ++ pz f.sb ++ pz f.sc ++ pt [Ty.f32, .f16, .bf16] f.ty ++ chk 5 (f.q1 ≤ 1) ++ pu f.q2 ++ pu f.q3, .vexp2 t (rmOf f.q1) (op f.dst) (op f.sa))
  | 0x091 => let t := tyV f.ty;
    some (pc vdC .u32 1 f.dst ++ pc vsC t t.regs f.sa ++ pz f.sb ++ pz f.sc ++ pt [Ty.f32, .f16, .bf16] f.ty ++ chk 5 (f.q1 ≤ 1) ++ pu f.q2 ++ pu f.q3, .vlog2 t (rmOf f.q1) (op f.dst) (op f.sa))
  | 0x092 => let t := tyV f.ty;
    some (pc vdC .u32 1 f.dst ++ pc vsC t t.regs f.sa ++ pz f.sb ++ pz f.sc ++ pt [Ty.f32, .f16, .bf16] f.ty ++ chk 5 (f.q1 ≤ 1) ++ pu f.q2 ++ pu f.q3, .vsinpi t (rmOf f.q1) (op f.dst) (op f.sa))
  | 0x093 => let t := tyV f.ty;
    some (pc vdC .u32 1 f.dst ++ pc vsC t t.regs f.sa ++ pz f.sb ++ pz f.sc ++ pt [Ty.f32, .f16, .bf16] f.ty ++ chk 5 (f.q1 ≤ 1) ++ pu f.q2 ++ pu f.q3, .vcospi t (rmOf f.q1) (op f.dst) (op f.sa))
  | 0x094 => let t := tyV f.ty;
    some (pc vdC .u32 1 f.dst ++ pc vsC t t.regs f.sa ++ pz f.sb ++ pz f.sc ++ pt [Ty.f32, .f16, .bf16] f.ty ++ chk 5 (f.q1 ≤ 1) ++ pu f.q2 ++ pu f.q3, .vtanh t (rmOf f.q1) (op f.dst) (op f.sa))
  | 0x095 => 
    some (pc vdC .u32 4 f.dst ++ pc vsC .f32 1 f.sa ++ pz f.sb ++ pz f.sc ++ pt [Ty.f32] f.ty ++ chk 5 (f.q1 ≤ 4) ++ pu f.q2 ++ pu f.q3, .welf (rmOf f.q1) (op f.dst) (op f.sa))
  | 0x096 => 
    some (pc vdC .u32 4 f.dst ++ pc vdC .u32 4 f.sa ++ pz f.sb ++ pz f.sc ++ pt [Ty.f32] f.ty ++ chk 5 (f.q1 ≤ 4) ++ pu f.q2 ++ pu f.q3, .wmrg (rmOf f.q1) (op f.dst) (op f.sa))
  | 0x097 => let t := tyV f.ty;
    some (pc vdC .u32 1 f.dst ++ pc vsC .f32 1 f.sa ++ pz f.sb ++ pz f.sc ++ pt [Ty.dxb8, .dxb6, .dxb4] f.ty ++ pu f.q1 ++ pu f.q3, .vbexp t (fin16 f.q2) (op f.dst) (op f.sa))
  | 0x098 => let t := tyV f.ty;
    some (pc vdC .u32 1 f.dst ++ pc [.V, .S, .SS, .VT] .u32 4 f.sa ++ pc [.V, .S, .SS, .VT] .u32 4 f.sb ++ pz f.sc ++ pt [Ty.dxb8, .dxb6, .dxb4] f.ty ++ pu f.q1 ++ pu f.q2 ++ pu f.q3, .vpkx t (op f.dst) (op f.sa) (op f.sb))
  | 0x099 => let t := tyV f.ty;
    some (pc vdC .u32 4 f.dst ++ pc [.V, .S, .SS, .VT] .u32 1 f.sa ++ pc [.V, .S, .SS, .VT] .u32 4 f.sb ++ pz f.sc ++ pt [Ty.dxb8, .dxb6, .dxb4] f.ty ++ pu f.q1 ++ pu f.q2 ++ pu f.q3, .vunpkx t (op f.dst) (op f.sa) (op f.sb))
  | 0x0A0 => 
    some (pc vdC .u32 4 f.dst ++ pc [.V, .S] .u32 2 f.sa ++ pc [.V, .S, .SS, .I] .u32 1 f.sb ++ pz f.sc ++ pt0 f.ty ++ chk 5 (f.q1 ≤ 3) ++ pu f.q2 ++ pu f.q3, .imgq (fin4 f.q1) (op f.dst) (op f.sa) (op f.sb))
  | _ => none

/-- F-form opcodes 0x0C0-0x13F (02 R35). -/
def fUnit (f : FF) : Nat → Option (List Nat × Instr)
  | 0x0C0 => 
    some (po f.dst ++ pc [.S] .u32 8 f.sa ++ pc sdC .u32 2 f.sb ++ pz f.sc ++ pt0 f.ty ++ pu f.q1 ++ pu f.q2 ++ pu f.q3, .cpy (oo f.dst) (op f.sa) (op f.sb))
  | 0x0C1 => 
    if f.q1 != 2 then some (po f.dst ++ pc [.S] .u32 8 f.sa ++ pc sdC .u32 2 f.sb ++ pc sdC .u32 2 f.sc ++ pt0 f.ty ++ chk 5 (f.q1 ≤ 2) ++ pu f.q2 ++ pu f.q3, .cpyt (f.q1 == 1) (oo f.dst) (op f.sa) (op f.sb) (op f.sc))
    else some (pz f.dst ++ pz f.sa ++ pz f.sb ++ pc sdC .u32 2 f.sc ++ pt0 f.ty ++ chk 5 (f.q1 ≤ 2) ++ pu f.q2 ++ pu f.q3, .cpytCancel (op f.sc))
  | 0x0C2 => 
    some (po f.dst ++ pc [.S] .u32 8 f.sa ++ pc sdC .u32 2 f.sb ++ pz f.sc ++ pt0 f.ty ++ pu f.q1 ++ pu f.q2 ++ pu f.q3, .cpyg (oo f.dst) (op f.sa) (op f.sb))
  | 0x0C3 => 
    some (po f.dst ++ pc [.S] .u32 8 f.sa ++ pc sdC .u32 2 f.sb ++ pz f.sc ++ pt0 f.ty ++ pu f.q1 ++ pu f.q2 ++ pu f.q3, .cpys (oo f.dst) (op f.sa) (op f.sb))
  | 0x0C4 => 
    some (po f.dst ++ pc [.S] .u32 8 f.sa ++ pc sdC .u32 2 f.sb ++ pz f.sc ++ pt0 f.ty ++ pu f.q1 ++ pu f.q2 ++ pu f.q3, .cpyb (oo f.dst) (op f.sa) (op f.sb))
  | 0x0C5 => 
    some (po f.dst ++ pc sdC .u32 2 f.sa ++ pc ssC .u32 1 f.sb ++ pc sdC .u32 2 f.sc ++ pt0 f.ty ++ pu f.q1 ++ pu f.q2 ++ pu f.q3, .sqfill (oo f.dst) (op f.sa) (op f.sb) (op f.sc))
  | 0x0C8 => 
    some (pz f.dst ++ pc sdC .u32 2 f.sa ++ pc ssC .u32 1 f.sb ++ pz f.sc ++ pt0 f.ty ++ pu f.q1 ++ pu f.q2 ++ pu f.q3, .boinit (op f.sa) (op f.sb))
  | 0x0C9 => 
    some (pz f.dst ++ pc sdC .u32 2 f.sa ++ pc ssC .u32 1 f.sb ++ pz f.sc ++ pt0 f.ty ++ chk 5 (f.q1 ≤ 1) ++ chk 5 (f.q2 ≤ 5) ++ pu f.q3 ++ chk 3 (f.q1 != 0 || f.q2 == 0), .boexp (f.q1 == 1) (bscopeOf f.q2) (op f.sa) (op f.sb))
  | 0x0CA => 
    some (po f.dst ++ pc sdC .u32 2 f.sa ++ pz f.sb ++ pz f.sc ++ pt0 f.ty ++ chk 5 (f.q1 ≤ 1) ++ chk 5 (f.q2 ≤ 5) ++ pu f.q3, .boarr (f.q1 == 1) (bscopeOf f.q2) (oo f.dst) (op f.sa))
  | 0x0CB => 
    some (pz f.dst ++ pc sdC .u32 2 f.sa ++ pc ssC .u32 1 f.sb ++ pz f.sc ++ pt0 f.ty ++ pu f.q1 ++ chk 5 (f.q2 ≤ 5) ++ pu f.q3, .bowait (bscopeOf f.q2) (op f.sa) (op f.sb))
  | 0x0CC => 
    some (pc sdC .u32 1 f.dst ++ pc sdC .u32 2 f.sa ++ pc ssC .u32 1 f.sb ++ pz f.sc ++ pt0 f.ty ++ pu f.q1 ++ chk 5 (f.q2 ≤ 5) ++ pu f.q3, .botry (bscopeOf f.q2) (op f.dst) (op f.sa) (op f.sb))
  | 0x0D0 => let t := tyV f.ty;
    some (pc sdC .u32 1 f.dst ++ pc [.V] .u32 (aRegs t (f.q2 == 1)) f.sa ++ pc [.V] .u32 8 f.sb ++ pc ssC .u32 1 f.sc ++ pt [Ty.f32, .f16, .bf16, .dxb8, .dxb6, .dxb4] f.ty ++ chk 5 (f.q1 == 0) ++ chk 5 (f.q2 ≤ 1) ++ pu f.q3, .lcon t (f.q2 == 1) (op f.dst) (op f.sa) (op f.sb) (op f.sc))
  | 0x0D1 => let t := tyV f.ty;
    some (pc sdC .u32 1 f.dst ++ pc [.V] .u32 (aRegs t (f.q2 == 1)) f.sa ++ pc [.V] .u32 8 f.sb ++ pc sdC .u32 4 f.sc ++ pt [Ty.f32, .f16, .bf16, .dxb8, .dxb6, .dxb4] f.ty ++ chk 5 (f.q1 == 1 || f.q1 == 2) ++ chk 5 (f.q2 ≤ 1) ++ pu f.q3, .lcona t (f.q1 == 2) (f.q2 == 1) (op f.dst) (op f.sa) (op f.sb) (op f.sc))
  | 0x0D2 => 
    some (pc sdC .u32 1 f.dst ++ pz f.sa ++ pz f.sb ++ pz f.sc ++ pt0 f.ty ++ pu f.q1 ++ pu f.q2 ++ pu f.q3, .accget (op f.dst))
  | 0x0D3 => 
    some (pc sdC .u32 1 f.dst ++ pz f.sa ++ pz f.sb ++ pz f.sc ++ pt0 f.ty ++ pu f.q1 ++ pu f.q2 ++ pu f.q3, .accput (op f.dst))
  | 0x0D4 => 
    some (pc sdC .u32 1 f.dst ++ pz f.sa ++ pz f.sb ++ pz f.sc ++ pt0 f.ty ++ pu f.q1 ++ pu f.q2 ++ pu f.q3, .accz (op f.dst))
  | 0x0D5 => 
    some (pc vdC .u32 8 f.dst ++ pc sdC .u32 1 f.sa ++ pc [.V, .S, .SS, .I] .u32 1 f.sb ++ pz f.sc ++ pt0 f.ty ++ pu f.q1 ++ pu f.q2 ++ pu f.q3, .accrd (op f.dst) (op f.sa) (op f.sb))
  | 0x0D6 => 
    some (pc sdC .u32 1 f.dst ++ pc vdC .u32 8 f.sa ++ pc [.V, .S, .SS, .I] .u32 1 f.sb ++ pz f.sc ++ pt0 f.ty ++ pu f.q1 ++ pu f.q2 ++ pu f.q3, .accwr (op f.dst) (op f.sa) (op f.sb))
  | 0x0D7 => 
    some (pc sdC .u32 1 f.dst ++ pc [.S] .u32 8 f.sa ++ pc sdC .u32 2 f.sb ++ pz f.sc ++ pt0 f.ty ++ pu f.q1 ++ pu f.q2 ++ pu f.q3, .accst (op f.dst) (op f.sa) (op f.sb))
  | 0x0D8 => let t := tyV f.ty;
    some (pc sdC .u32 1 f.dst ++ pz f.sa ++ pz f.sb ++ pz f.sc ++ pt [Ty.dxb8, .dxb6, .dxb4] f.ty ++ pu f.q1 ++ pu f.q2 ++ pu f.q3, .scacc t (op f.dst))
  | 0x0D9 => 
    some (pz f.dst ++ pc ssC .u32 1 f.sa ++ pz f.sb ++ pz f.sc ++ pt0 f.ty ++ pu f.q1 ++ pu f.q2 ++ pu f.q3, .sqpush (op f.sa))
  | 0x0DA => 
    some (pc sdC .u32 1 f.dst ++ pz f.sa ++ pz f.sb ++ pz f.sc ++ pt0 f.ty ++ pu f.q1 ++ pu f.q2 ++ pu f.q3, .sqcnt (op f.dst))
  | _ => none

/-- F-form opcodes 0x140-0x1FF (02 R35). -/
def fSystem (f : FF) : Nat → Option (List Nat × Instr)
  | 0x140 => 
    some (po f.dst ++ pc sdC .u32 2 f.sa ++ pz f.sb ++ pz f.sc ++ pt0 f.ty ++ chk 5 (f.q1 ≤ 1) ++ pu f.q2 ++ pu f.q3, .enq (f.q1 == 1) (oo f.dst) (op f.sa))
  | 0x141 => 
    some (po f.dst ++ pc sdC .u32 2 f.sa ++ pc sdC .u32 2 f.sb ++ pz f.sc ++ pt0 f.ty ++ pu f.q1 ++ pu f.q2 ++ pu f.q3, .enqr (oo f.dst) (op f.sa) (op f.sb))
  | 0x142 => 
    if f.q1 != 1 then some (pc sdC .u32 1 f.dst ++ pc sdC .u32 1 f.sa ++ pz f.sb ++ pz f.sc ++ pt0 f.ty ++ chk 5 (f.q1 ≤ 1) ++ pu f.q2 ++ pu f.q3, .lcancel (op f.dst) (op f.sa))
    else some (pc sdC .u32 1 f.dst ++ pc sdC .u32 1 f.sa ++ pz f.sb ++ pz f.sc ++ pt0 f.ty ++ chk 5 (f.q1 ≤ 1) ++ pu f.q2 ++ pu f.q3, .lcancelTree (op f.dst) (op f.sa))
  | 0x143 => 
    if f.q1 == 1 then some (pc sdC .u32 1 f.dst ++ pc sdC .u32 1 f.sa ++ pz f.sb ++ pz f.sc ++ pt0 f.ty ++ chk 5 (f.q1 ≤ 2) ++ pu f.q2 ++ pu f.q3, .lcntTree (op f.dst) (op f.sa))
    else if f.q1 == 2 then some (pc sdC .u32 1 f.dst ++ pc sdC .u32 1 f.sa ++ pz f.sb ++ pz f.sc ++ pt0 f.ty ++ chk 5 (f.q1 ≤ 2) ++ pu f.q2 ++ pu f.q3, .lcntState (op f.dst) (op f.sa))
    else some (pc sdC .u32 1 f.dst ++ pc sdC .u32 1 f.sa ++ pz f.sb ++ pz f.sc ++ pt0 f.ty ++ chk 5 (f.q1 ≤ 2) ++ pu f.q2 ++ pu f.q3, .lcntGangs (op f.dst) (op f.sa))
  | 0x144 => 
    some (po f.dst ++ pc [.S] .u32 8 f.sa ++ pc sdC .u32 2 f.sb ++ pz f.sc ++ pt0 f.ty ++ chk 5 (f.q1 ≤ 4) ++ pu f.q2 ++ pu f.q3, .coll (collKindOf f.q1) (oo f.dst) (op f.sa) (op f.sb))
  | 0x145 => 
    some (po f.dst ++ pc ssC .u32 1 f.sa ++ pc sdC .u32 2 f.sb ++ pz f.sc ++ pt0 f.ty ++ pu f.q1 ++ pu f.q2 ++ pu f.q3, .cbar (oo f.dst) (op f.sa) (op f.sb))
  | 0x146 => 
    some (po f.dst ++ pc [.S] .u32 8 f.sa ++ pc sdC .u32 2 f.sb ++ pz f.sc ++ pt0 f.ty ++ pu f.q1 ++ pu f.q2 ++ pu f.q3, .cput (oo f.dst) (op f.sa) (op f.sb))
  | 0x147 => 
    some (pc sdC .u32 1 f.dst ++ pc ssC .u32 1 f.sa ++ pc ssC .u32 1 f.sb ++ pz f.sc ++ pt0 f.ty ++ chk 5 (f.q1 ≤ 3) ++ pu f.q2 ++ pu f.q3, .ctree (treeQueryOf f.q1) (op f.dst) (op f.sa) (op f.sb))
  | 0x160 => 
    some (pz f.dst ++ pc ssC .u32 1 f.sa ++ pz f.sb ++ pz f.sc ++ pt0 f.ty ++ pu f.q1 ++ pu f.q2 ++ pu f.q3, .trap (op f.sa))
  | 0x161 => 
    if f.q1 == 2 then some (pz f.dst ++ pz f.sa ++ pz f.sb ++ pz f.sc ++ pt0 f.ty ++ chk 5 (1 ≤ f.q1 && f.q1 ≤ 3) ++ pu f.q2 ++ pu f.q3 ++ [6], .tretSkip)
    else if f.q1 == 3 then some (pz f.dst ++ pz f.sa ++ pz f.sb ++ pz f.sc ++ pt0 f.ty ++ chk 5 (1 ≤ f.q1 && f.q1 ≤ 3) ++ pu f.q2 ++ pu f.q3 ++ [6], .tretRegion)
    else some (pz f.dst ++ pz f.sa ++ pz f.sb ++ pz f.sc ++ pt0 f.ty ++ chk 5 (1 ≤ f.q1 && f.q1 ≤ 3) ++ pu f.q2 ++ pu f.q3 ++ [6], .tretRetry)
  | 0x162 => 
    if f.q1 != 1 then some (pz f.dst ++ pm f.sa ++ pz f.sb ++ pz f.sc ++ pt0 f.ty ++ chk 5 (f.q1 ≤ 1) ++ pu f.q2 ++ pu f.q3 ++ [6], .kill (maskOf f.sa))
    else some (pz f.dst ++ pm f.sa ++ pz f.sb ++ pz f.sc ++ pt0 f.ty ++ chk 5 (f.q1 ≤ 1) ++ pu f.q2 ++ pu f.q3 ++ [6], .killFault (maskOf f.sa))
  | 0x163 => let n := BitVec.ofNat 8 (16 * f.q2 + f.q3);
    some (pc sdC .u32 1 f.dst ++ pz f.sa ++ pz f.sb ++ pz f.sc ++ pt0 f.ty ++ pu f.q1 ++ chk 5 (pregOk n.toNat) ++ [6], .smovp (op f.dst) n)
  | 0x164 => let n := BitVec.ofNat 8 (16 * f.q2 + f.q3);
    some (pz f.dst ++ pc ssC .u32 1 f.sa ++ pz f.sb ++ pz f.sc ++ pt0 f.ty ++ pu f.q1 ++ chk 5 (pregRw n.toNat) ++ [6], .smovq n (op f.sa))
  | 0x165 => 
    if f.q1 == 1 then some (pz f.dst ++ pz f.sa ++ pz f.sb ++ pz f.sc ++ pt0 f.ty ++ chk 5 (f.q1 ≤ 2) ++ pu f.q2 ++ pu f.q3 ++ [6], .invlpAll)
    else if f.q1 == 2 then some (pz f.dst ++ pz f.sa ++ pz f.sb ++ pz f.sc ++ pt0 f.ty ++ chk 5 (f.q1 ≤ 2) ++ pu f.q2 ++ pu f.q3 ++ [6], .invlpIcache)
    else some (pz f.dst ++ pc sdC .u32 2 f.sa ++ pz f.sb ++ pz f.sc ++ pt0 f.ty ++ chk 5 (f.q1 ≤ 2) ++ pu f.q2 ++ pu f.q3 ++ [6], .invlp (op f.sa))
  | 0x166 => 
    if f.q1 != 1 then some (pz f.dst ++ pz f.sa ++ pz f.sb ++ pz f.sc ++ pt0 f.ty ++ chk 5 (f.q1 ≤ 1) ++ pu f.q2 ++ pu f.q3 ++ [6], .frz)
    else some (pz f.dst ++ pz f.sa ++ pz f.sb ++ pz f.sc ++ pt0 f.ty ++ chk 5 (f.q1 ≤ 1) ++ pu f.q2 ++ pu f.q3 ++ [6], .frzSnap)
  | 0x167 => 
    some (pc sdC .u32 2 f.dst ++ pc sdC .u32 4 f.sa ++ pc sdC .u32 1 f.sb ++ pz f.sc ++ pt0 f.ty ++ chk 5 (f.q1 == 0) ++ pu f.q2 ++ pu f.q3 ++ [6], .dbgrd (op f.dst) (op f.sa) (op f.sb))
  | 0x168 => 
    some (pc sdC .u32 1 f.dst ++ pc sdC .u32 4 f.sa ++ pc sdC .u32 1 f.sb ++ pc ssC .u32 1 f.sc ++ pt0 f.ty ++ chk 5 (f.q1 == 0) ++ pu f.q2 ++ pu f.q3 ++ [6], .dbgwr (op f.dst) (op f.sa) (op f.sb) (op f.sc))
  | 0x169 => 
    if f.q1 != 1 then some (pc sdC .u32 1 f.dst ++ pc sdC .u32 4 f.sa ++ pz f.sb ++ pz f.sc ++ pt0 f.ty ++ chk 5 (f.q1 ≤ 1) ++ pu f.q2 ++ pu f.q3 ++ [6], .dstep (op f.dst) (op f.sa))
    else some (pc sdC .u32 1 f.dst ++ pc sdC .u32 4 f.sa ++ pc ssC .u32 1 f.sb ++ pz f.sc ++ pt0 f.ty ++ chk 5 (f.q1 ≤ 1) ++ pu f.q2 ++ pu f.q3 ++ [6], .dstepIsolate (op f.dst) (op f.sa) (op f.sb))
  | 0x16A => 
    some (pc sdC .u32 1 f.dst ++ pc sdC .u32 2 f.sa ++ pz f.sb ++ pz f.sc ++ pt0 f.ty ++ pu f.q1 ++ pu f.q2 ++ pu f.q3 ++ [6], .accsv (op f.dst) (op f.sa))
  | 0x16B => 
    some (pc sdC .u32 1 f.dst ++ pc sdC .u32 2 f.sa ++ pz f.sb ++ pz f.sc ++ pt0 f.ty ++ pu f.q1 ++ pu f.q2 ++ pu f.q3 ++ [6], .accld (op f.dst) (op f.sa))
  | _ => none

/-- The immediate variants (02 R17): the word's destination, first source and 25-bit immediate. -/
def fImm (f : FF) (i : BitVec 25) : Nat → Option (List Nat × Instr)
  | 0x201 => some (pc sdC .u32 1 f.dst ++ pc ssC .u32 1 f.sa ++ pz f.sb, .saddI (op f.dst) (op f.sa) i)
  | 0x202 => some (pc sdC .u32 1 f.dst ++ pc ssC .u32 1 f.sa ++ pz f.sb, .ssubI (op f.dst) (op f.sa) i)
  | 0x203 => some (pc sdC .u32 1 f.dst ++ pc ssC .u32 1 f.sa ++ pz f.sb, .smulI (op f.dst) (op f.sa) i)
  | 0x205 => some (pc sdC .u32 1 f.dst ++ pc ssC .u32 1 f.sa ++ pz f.sb, .sandI (op f.dst) (op f.sa) i)
  | 0x206 => some (pc sdC .u32 1 f.dst ++ pc ssC .u32 1 f.sa ++ pz f.sb, .sorI (op f.dst) (op f.sa) i)
  | 0x207 => some (pc sdC .u32 1 f.dst ++ pc ssC .u32 1 f.sa ++ pz f.sb, .sxorI (op f.dst) (op f.sa) i)
  | 0x208 => some (pc sdC .u32 1 f.dst ++ pc ssC .u32 1 f.sa ++ pz f.sb ++ chk 5 (shImm i), .sshlI (op f.dst) (op f.sa) i)
  | 0x209 => some (pc sdC .u32 1 f.dst ++ pc ssC .u32 1 f.sa ++ pz f.sb ++ chk 5 (shImm i), .sshrI (op f.dst) (op f.sa) i)
  | 0x20A => some (pc sdC .u32 1 f.dst ++ pc ssC .u32 1 f.sa ++ pz f.sb ++ chk 5 (shImm i), .ssarI (op f.dst) (op f.sa) i)
  | 0x240 => some (pc vdC .u32 1 f.dst ++ pc vsC .u32 1 f.sa ++ pz f.sb, .vaddI (op f.dst) (op f.sa) i)
  | 0x241 => some (pc vdC .u32 1 f.dst ++ pc vsC .u32 1 f.sa ++ pz f.sb, .vsubI (op f.dst) (op f.sa) i)
  | 0x242 => some (pc vdC .u32 1 f.dst ++ pc vsC .u32 1 f.sa ++ pz f.sb, .vmulI (op f.dst) (op f.sa) i)
  | 0x245 => some (pc vdC .u32 1 f.dst ++ pc vsC .u32 1 f.sa ++ pz f.sb, .vandI (op f.dst) (op f.sa) i)
  | 0x246 => some (pc vdC .u32 1 f.dst ++ pc vsC .u32 1 f.sa ++ pz f.sb, .vorI (op f.dst) (op f.sa) i)
  | 0x247 => some (pc vdC .u32 1 f.dst ++ pc vsC .u32 1 f.sa ++ pz f.sb, .vxorI (op f.dst) (op f.sa) i)
  | 0x249 => some (pc vdC .u32 1 f.dst ++ pc vsC .u32 1 f.sa ++ pz f.sb ++ chk 5 (shImm i), .vshlI (op f.dst) (op f.sa) i)
  | 0x24A => some (pc vdC .u32 1 f.dst ++ pc vsC .u32 1 f.sa ++ pz f.sb ++ chk 5 (shImm i), .vshrI (op f.dst) (op f.sa) i)
  | 0x24B => some (pc vdC .u32 1 f.dst ++ pc vsC .u32 1 f.sa ++ pz f.sb ++ chk 5 (shImm i), .vsarI (op f.dst) (op f.sa) i)
  | _ => none

/-- The whole F form (02 R13-R18, R35). NOP wants every other bit zero; WAIT has no ty or q fields (02 R14). -/
def decodeF (n : Nat) : Option (List Nat × Instr) :=
  let f := ffOf n
  let opc := n / 2 ^ 52 % 1024
  if opc == 0 then some (pz f.dst ++ pz f.sa ++ pz f.sb ++ pz f.sc ++ chk 3 (n % 2 ^ 52 == 0), .nop)
  else if opc == 0x01C then
    some (pz f.dst ++ pz f.sa ++ pz f.sb ++ pz f.sc, .wait (BitVec.ofNat 16 n))
  else if opc < 0x40 then fScalar f opc
  else if opc < 0x80 then fVector f opc
  else if opc < 0xC0 then fFloat f opc
  else if opc < 0x140 then fUnit f opc
  else if opc < 0x200 then fSystem f opc
  else fImm f (BitVec.ofNat 25 n) opc

/-- The operation of a popc (02 R25). -/
def popOf : Nat → Option POp
  | 0 => some .nop | 1 => some .vadd | 2 => some .vsub | 3 => some .vmul | 4 => some .vand | 5 => some .vor | 6 => some .vxor | 7 => some .vshl | 8 => some .vshr | 9 => some .vsar | 10 => some .vmin | 11 => some .vmax | 12 => some .vmov | 16 => some .vfadd | 17 => some .vfsub | 18 => some .vfmul | 19 => some .vfmin | 20 => some .vfmax | 21 => some .vcvt | 24 => some .sadd | 25 => some .ssub | 26 => some .smov | 27 => some .sand | 28 => some .sor | _ => none
/-- The popc of an operation (02 R25). -/
def popCode : POp → Nat
  | .nop => 0 | .vadd => 1 | .vsub => 2 | .vmul => 3 | .vand => 4 | .vor => 5 | .vxor => 6 | .vshl => 7 | .vshr => 8 | .vsar => 9 | .vmin => 10 | .vmax => 11 | .vmov => 12 | .vfadd => 16 | .vfsub => 17 | .vfmul => 18 | .vfmin => 19 | .vfmax => 20 | .vcvt => 21 | .sadd => 24 | .ssub => 25 | .smov => 26 | .sand => 27 | .sor => 28

/-- The details of one half (02 R24, R25) and the half; none when its popc is unlisted. -/
def halfOf (h : Nat) : Option (List Nat × PHalf) :=
  let d := h / 2 ^ 17 % 256
  let s := h / 2 ^ 8 % 512
  let ty := h / 2 ^ 4 % 16
  let q := h % 16
  match popOf (h / 2 ^ 25 % 64) with
  | none => none
  | some o =>
    let mk : PHalf := ⟨o, ⟨⟨d, Nat.mod_lt _ (by decide)⟩, op s, tyV ty, fin16 q⟩⟩
    let i32 := pt [Ty.u32, .s32] ty
    let fl := pt [Ty.f32, .f16x2, .bf16x2] ty
    let vd := chk 5 (d < 192)
    let det :=
      match o with
      | .nop => pu d ++ pz s ++ pu ty ++ pu q
      | .vfadd | .vfsub | .vfmul => vd ++ pc [.V, .S, .C] (tyV ty) 1 s ++ fl ++ chk 3 (q % 2 == 0) ++ chk 5 (q ≤ 9)
      | .vfmin | .vfmax => vd ++ pc [.V, .S, .C] (tyV ty) 1 s ++ fl ++ chk 5 (q == 0)
      | .vcvt =>
        vd ++ pc [.V, .S] .u32 1 s ++ pt [Ty.u32, .s32, .f32] ty ++
          chk 5 (if tyV ty == .f32 then q < 2 else q == 4)
      | .sadd | .ssub | .smov | .sand | .sor => chk 5 (192 ≤ d) ++ pc [.S, .I] .u32 1 s ++ i32 ++ pu q
      | _ => vd ++ pc [.V, .S, .I] .u32 1 s ++ i32 ++ pu q
    some (det, mk)

/-- The instruction whose half A is of the operation (02 R25). -/
def mkPair : POp → PArgs → PHalf → Instr
  | .nop, x, b => .pNop x b
  | .vadd, x, b => .pVadd x b
  | .vsub, x, b => .pVsub x b
  | .vmul, x, b => .pVmul x b
  | .vand, x, b => .pVand x b
  | .vor, x, b => .pVor x b
  | .vxor, x, b => .pVxor x b
  | .vshl, x, b => .pVshl x b
  | .vshr, x, b => .pVshr x b
  | .vsar, x, b => .pVsar x b
  | .vmin, x, b => .pVmin x b
  | .vmax, x, b => .pVmax x b
  | .vmov, x, b => .pVmov x b
  | .vfadd, x, b => .pVfadd x b
  | .vfsub, x, b => .pVfsub x b
  | .vfmul, x, b => .pVfmul x b
  | .vfmin, x, b => .pVfmin x b
  | .vfmax, x, b => .pVfmax x b
  | .vcvt, x, b => .pVcvt x b
  | .sadd, x, b => .pSadd x b
  | .ssub, x, b => .pSsub x b
  | .smov, x, b => .pSmov x b
  | .sand, x, b => .pSand x b
  | .sor, x, b => .pSor x b

/-- The P form (02 R24-R26): slot A in bits [61:31], slot B in [30:0]; a broken pairing rule is detail 7. -/
def decodeP (n : Nat) : Option (List Nat × Instr) :=
  match halfOf (n / 2 ^ 31 % 2 ^ 31), halfOf (n % 2 ^ 31) with
  | some (da, a), some (db, b) => some (da ++ db ++ chk 7 (pairOk a b), mkPair a.op a.x b)
  | _, _ => none

/-- The fields of an M-form word (02 R28). -/
structure MF where
  dt  : Nat
  bpv : Nat
  bpk : Nat
  off : Nat
  wd  : Nat
  sc  : Nat
  fe  : Nat
  img : Nat
  ord : Nat
  nt  : Nat
  deriving DecidableEq, Repr

/-- The M-form fields of a word read as a number. -/
def mfOf (n : Nat) : MF :=
  { dt := n / 2 ^ 43 % 512, bpv := n / 2 ^ 42 % 2, bpk := n / 2 ^ 35 % 128, off := n / 2 ^ 11 % 2 ^ 24,
    wd := n / 2 ^ 8 % 8, sc := n / 2 ^ 5 % 8, fe := n / 2 ^ 3 % 4, img := n / 2 ^ 2 % 2, ord := n / 2 % 2, nt := n % 2 }

/-- The base and offset of an M-form word. -/
def MF.addr (f : MF) : MAddr := ⟨f.bpv == 1, ⟨f.bpk % 96, Nat.mod_lt _ (by decide)⟩, BitVec.ofNat 24 f.off⟩

/-- A fixed field of 02 R32: another value is detail 5. -/
def fx (v c : Nat) : List Nat := chk 5 (v == c)

/-- The details every M form has (02 R28, R38): the base pair's range and the width. -/
def mBase (f : MF) : List Nat :=
  chk 2 (f.bpk < (if f.bpv == 1 then 96 else 48)) ++ chk 4 (f.wd ≤ 5)

/-- The details of an atomic's type (02 R32): aty and width must be admitted together. -/
def mAty (f : MF) (adm : List AType) : List Nat :=
  match atyOf f.wd f.fe with
  | some t => chk 5 (adm.contains t)
  | none => [5]

/-- The M form (02 R28-R32, R36). An odd dt of an ACAS of width w is not admitted by its row (detail 5); one of width d that is no multiple of 4
has detail 8 (11 R262, log 17). -/
def decodeM (n : Nat) : Option (List Nat × Instr) :=
  let f := mfOf n
  let m := f.addr
  let wd := widthOf f.wd
  let sc := scopeOf f.sc
  let nt := f.nt == 1
  let img := f.img == 1
  let aty := (atyOf f.wd f.fe).getD .u32
  let d := op f.dt
  let all := [AType.u32, .s32, .f32, .u64, .s64, .fx64]
  let ints := [AType.u32, .u64]
  let mm := [AType.u32, .s32, .f32, .u64, .s64]
  let atom (adm : List AType) := mBase f ++ pc [.V] .u32 aty.regs f.dt ++ mAty f adm
  match n / 2 ^ 52 % 1024 with
  | 0x100 => some (mBase f ++ pc [.V] .u32 wd.regs f.dt ++ fx f.img 0 ++ fx f.ord 0, .ld wd sc (feOf f.fe) nt d m)
  | 0x101 =>
    some (mBase f ++ pc [.V] .u32 wd.regs f.dt ++ chk 5 (f.fe == 0 || f.fe == 3) ++ fx f.ord 0,
      .st wd sc (f.fe == 3) img nt d m)
  | 0x102 =>
    some (mBase f ++ pc sdC .u32 wd.regs f.dt ++ fx f.bpv 0 ++ fx f.img 0 ++ fx f.ord 0, .sld wd sc (feOf f.fe) nt d m)
  | 0x103 =>
    some (mBase f ++ pc sdC .u32 wd.regs f.dt ++ fx f.bpv 0 ++ chk 5 (f.fe == 0 || f.fe == 3) ++ fx f.img 0 ++
      fx f.ord 0, .sst wd sc (f.fe == 3) nt d m)
  | 0x104 =>
    some (mBase f ++ chk 2 (opndOf f.dt).isSome ++ fx f.dt 0 ++ fx f.wd 2 ++ fx f.sc 7 ++ fx f.fe 0 ++ fx f.img 0 ++ fx f.ord 0, .pf nt m)
  | 0x105 =>
    some (mBase f ++ chk 2 (opndOf f.dt).isSome ++ fx f.dt 0 ++ fx f.wd 4 ++ chk 5 (2 ≤ f.fe) ++ fx f.img 0 ++ fx f.ord 0 ++ fx f.nt 0,
      .fest sc (f.fe == 3) m)
  | 0x106 =>
    some (mBase f ++ pm f.dt ++ fx f.wd 4 ++ fx f.fe 0 ++ fx f.img 0 ++ fx f.ord 0 ++ fx f.nt 0, .feq sc (maskOf f.dt) m)
  | 0x110 =>
    if f.ord == 1 then some (atom [AType.f32], .aaddOrd sc img nt d m)
    else some (atom all, .aadd aty sc img nt d m)
  | 0x111 => some (atom ints ++ fx f.ord 0, .aand aty sc img nt d m)
  | 0x112 => some (atom ints ++ fx f.ord 0, .aor aty sc img nt d m)
  | 0x113 => some (atom ints ++ fx f.ord 0, .axor aty sc img nt d m)
  | 0x114 => some (atom mm ++ fx f.ord 0, .amin aty sc img nt d m)
  | 0x115 => some (atom mm ++ fx f.ord 0, .amax aty sc img nt d m)
  | 0x116 => some (atom ints ++ fx f.ord 0, .axchg aty sc img nt d m)
  | 0x117 =>
    some (mBase f ++ pc [.V] .u32 (2 * aty.regs) f.dt ++ chk 5 (aty.regs == 2 || f.dt % 2 == 0) ++ mAty f ints ++ fx f.img 0 ++ fx f.ord 0,
      .acas aty sc nt d m)
  | 0x118 => some (mBase f ++ pc [.V] .u32 1 f.dt ++ mAty f [AType.u32] ++ fx f.img 0 ++ fx f.ord 0, .aincb sc nt d m)
  | 0x119 =>
    some (mBase f ++ pc [.V] .u32 1 f.dt ++ mAty f [AType.u32] ++ fx f.img 0 ++ fx f.ord 0 ++ fx f.nt 0, .depdec sc d m)
  | 0x11A =>
    some (mBase f ++ chk 2 (opndOf f.dt).isSome ++ fx f.dt 0 ++ mAty f [AType.f32] ++ fx f.img 0 ++ fx f.ord 1 ++ fx f.nt 0, .aseal sc m)
  | _ => none

/-- The mask of a 5-bit index; an index above 23 is detail 2 (02 R33). -/
def maskK (k : Nat) : Fin 24 := ⟨k % 24, Nat.mod_lt _ (by decide)⟩

/-- The X form (02 R33, R37); `c` is [55:47], `e` is [46:32]. -/
def decodeX (n : Nat) : Option (List Nat × Instr) :=
  let off := BitVec.ofNat 32 n
  let c := n / 2 ^ 47 % 512
  let cc := n / 2 ^ 44 % 8
  let tok := n / 2 ^ 40 % 16
  let low := n / 2 ^ 32 % 256
  let src := n / 2 ^ 38 % 512
  let k5 := n / 2 ^ 51 % 32
  let mode := n / 2 ^ 48 % 8
  let k6 := n / 2 ^ 50 % 64
  match n / 2 ^ 56 % 64 with
  | 0x01 => some (pu (n / 2 ^ 32 % 2 ^ 24), .bra off)
  | 0x02 => some (pc [.S, .I] .u32 1 c ++ chk 5 (cc ≤ 5) ++ pu (n / 2 ^ 32 % 2 ^ 12), .brc (ccOf cc) (op c) off)
  | 0x03 => some (pc [.V] .u32 1 c ++ chk 5 (cc ≤ 5) ++ pu low, .brv (ccOf cc) (op c) (fin16 tok) off)
  | 0x04 => some (pu (n / 2 ^ 44 % 2 ^ 12) ++ pu low ++ pu (n % 2 ^ 32), .join (fin16 tok))
  | 0x05 => some (chk 2 (k6 < 48) ++ pu (n / 2 ^ 32 % 2 ^ 18), .call ⟨k6 % 48, Nat.mod_lt _ (by decide)⟩ off)
  | 0x06 => some (pc sdC .u32 1 c ++ pu (n / 2 ^ 32 % 2 ^ 15), .smovi (op c) off)
  | 0x07 => some (pc vdC .u32 1 c ++ pu (n / 2 ^ 32 % 2 ^ 15), .vmovi (op c) off)
  | 0x08 =>
    let base := chk 2 (k5 < 24) ++ chk 5 (mode ≤ 3) ++ pu (n / 2 ^ 44 % 16) ++ pu low
    if mode == 0 then some (base, .brmLanes (maskK k5) (fin16 tok) off)
    else some (base ++ (if mode ≤ 3 then pu tok else []),
      .brm (if mode == 1 then .all else if mode == 2 then .any else .none) (maskK k5) off)
  | 0x09 => some (pc sdC .u32 1 c ++ pc sdC .u32 1 src ++ pu (n / 2 ^ 32 % 64), .saddi (op c) (op src) off)
  | 0x0A => some (pc vdC .u32 1 c ++ pc [.V, .S, .VT] .u32 1 src ++ pu (n / 2 ^ 32 % 64), .vaddi (op c) (op src) off)
  | _ => none

/-- The failing details of a word and the instruction it names, or none where its opcode is unassigned. -/
def decodeRaw (w : DWord) : Option (List Nat × Instr) :=
  let n := w.toNat
  match n / 2 ^ 62 with
  | 0 => decodeF n
  | 1 => decodeP n
  | 2 => decodeM n
  | _ => decodeX n

/-- The lowest of some details, if there is one (02 R38). -/
def lowest : List Nat → Option Nat
  | [] => none
  | d :: ds => some (ds.foldl Nat.min d)

/-- Decode a word at supervisor or user level. An unassigned opcode decodes to `illegalWord`, whose meaning is the fault
with detail 1; any other failure answers its lowest detail (02 R38). -/
def decode (sup : Bool) (w : DWord) : Except Nat Instr :=
  match decodeRaw w with
  | none => .ok (.illegalWord w)
  | some (ds, i) =>
    match lowest (ds.filter fun d => d != 6 || !sup) with
    | some d => .error d
    | none => .ok i

/-- The word whose bytes, lowest address first, are given (02 R12). -/
def wordOfBytes (bs : List Byte) : DWord :=
  BitVec.ofNat 64 (bs.foldr (fun b acc => b.toNat + 256 * acc) 0)

/-- The bytes of a word, lowest address first (02 R12). -/
def bytesOfWord (w : DWord) : List Byte :=
  (List.range 8).map fun i => BitVec.ofNat 8 (w.toNat / 256 ^ i)

/-- The host's question: what the decoder reads, at supervisor level, from an instruction whose bits are `w`. -/
def decodeTableWord (nbits w : Nat) : Option Instr :=
  match decode true (wordOfBytes (bytesOfWord (BitVec.ofNat 64 (w % 2 ^ nbits)))) with
  | .ok i => some i
  | .error _ => none

/-- An F-form word of its fields (02 R14). -/
def fW (opc dst sa sb sc ty q1 q2 q3 : Nat) : Nat :=
  opc * 2 ^ 52 + dst * 2 ^ 43 + sa * 2 ^ 34 + sb * 2 ^ 25 + sc * 2 ^ 16 + ty * 2 ^ 12 + q1 * 2 ^ 8 + q2 * 2 ^ 4 + q3

/-- An immediate variant's word (02 R17). -/
def iW (opc dst sa : Nat) (i : BitVec 25) : Nat := opc * 2 ^ 52 + dst * 2 ^ 43 + sa * 2 ^ 34 + i.toNat

/-- A half's 31 bits (02 R24). -/
def halfW (h : PHalf) : Nat :=
  popCode h.op * 2 ^ 25 + h.x.d.val * 2 ^ 17 + sp h.x.s * 2 ^ 8 + tyCode h.x.ty * 2 ^ 4 + h.x.pq.val

/-- A P-form word (02 R24). -/
def pW (a b : PHalf) : Nat := 2 ^ 62 + halfW a * 2 ^ 31 + halfW b

/-- An M-form word of its fields (02 R28). -/
def mW (opc dt : Nat) (m : MAddr) (wd sc fe : Nat) (img ord nt : Bool) : Nat :=
  2 * 2 ^ 62 + opc * 2 ^ 52 + dt * 2 ^ 43 + m.vec.toNat * 2 ^ 42 + m.k.val * 2 ^ 35 + m.off.toNat * 2 ^ 11 +
    wd * 2 ^ 8 + sc * 2 ^ 5 + fe * 2 ^ 3 + img.toNat * 2 ^ 2 + ord.toNat * 2 + nt.toNat

/-- An atomic's word. -/
def aW (opc : Nat) (t : AType) (sc : Scope) (img nt : Bool) (d : Opnd) (m : MAddr) : Nat :=
  mW opc (sp d) m (atyCode t).1 (scopeCode sc) (atyCode t).2 img false nt

/-- An X-form word of its xop, the value of [55:32] and imm32 (02 R33). -/
def xW (xop mid : Nat) (i : Word) : Nat := 3 * 2 ^ 62 + xop * 2 ^ 56 + mid * 2 ^ 32 + i.toNat

/-- The word of an instruction, as a number; none for what is no instruction word. -/
def encodeNat : Instr → Option Nat
  | .nop => some 0
  | .wait l => some (0x01C * 2 ^ 52 + l.toNat)
  | .sadd t d a b => some (fW 0x001 (sp d) (sp a) (sp b) 0 (tyCode t) 0 0 0)
  | .ssub t d a b => some (fW 0x002 (sp d) (sp a) (sp b) 0 (tyCode t) 0 0 0)
  | .smul t d a b => some (fW 0x003 (sp d) (sp a) (sp b) 0 (tyCode t) 0 0 0)
  | .smulh t d a b => some (fW 0x004 (sp d) (sp a) (sp b) 0 (tyCode t) 0 0 0)
  | .sand t d a b => some (fW 0x005 (sp d) (sp a) (sp b) 0 (tyCode t) 0 0 0)
  | .sor t d a b => some (fW 0x006 (sp d) (sp a) (sp b) 0 (tyCode t) 0 0 0)
  | .sxor t d a b => some (fW 0x007 (sp d) (sp a) (sp b) 0 (tyCode t) 0 0 0)
  | .sshl t d a b => some (fW 0x008 (sp d) (sp a) (sp b) 0 (tyCode t) 0 0 0)
  | .sshr t d a b => some (fW 0x009 (sp d) (sp a) (sp b) 0 (tyCode t) 0 0 0)
  | .ssar t d a b => some (fW 0x00A (sp d) (sp a) (sp b) 0 (tyCode t) 0 0 0)
  | .smin t d a b => some (fW 0x00B (sp d) (sp a) (sp b) 0 (tyCode t) 0 0 0)
  | .smax t d a b => some (fW 0x00C (sp d) (sp a) (sp b) 0 (tyCode t) 0 0 0)
  | .scmp t c d a b => some (fW 0x00D (sp d) (sp a) (sp b) 0 (tyCode t) (condCode c) 0 0)
  | .ssel t d a b x => some (fW 0x00E (sp d) (sp a) (sp b) (sp x) (tyCode t) 0 0 0)
  | .smov t d a => some (fW 0x00F (sp d) (sp a) 0 0 (tyCode t) 0 0 0)
  | .smovs d n => some (fW 0x010 (sp d) 0 0 0 0 0 (n.toNat / 16) (n.toNat % 16))
  | .smovw n a => some (fW 0x011 0 (sp a) 0 0 0 0 (n.toNat / 16) (n.toNat % 16))
  | .sbfe t d a b x => some (fW 0x012 (sp d) (sp a) (sp b) (sp x) (tyCode t) 0 0 0)
  | .spopc d a => some (fW 0x013 (sp d) (sp a) 0 0 0 0 0 0)
  | .sclz d a => some (fW 0x014 (sp d) (sp a) 0 0 0 0 0 0)
  | .sadd64 t d a b => some (fW 0x015 (sp d) (sp a) (sp b) 0 (tyCode t) 0 0 0)
  | .exit => some (fW 0x017 0 0 0 0 0 0 0 0)
  | .ret a => some (fW 0x018 0 (sp a) 0 0 0 0 0 0)
  | .yield => some (fW 0x019 0 0 0 0 0 0 0 0)
  | .regn => some (fW 0x01A 0 0 0 0 0 0 0 0)
  | .brkpt a => some (fW 0x01B 0 (sp a) 0 0 0 0 0 0)
  | .barw a b => some (fW 0x01D 0 (sp a) (sp b) 0 0 0 0 0)
  | .bara a b => some (fW 0x01E 0 (sp a) (sp b) 0 0 0 0 0)
  | .fence y z => some (fW 0x01F 0 0 0 0 0 (fenceKindCode y) (scopeCode z) 0)
  | .opfence => some (fW 0x020 0 0 0 0 0 0 0 0)
  | .reggive a => some (fW 0x021 0 (sp a) 0 0 0 0 0 0)
  | .regclaim a => some (fW 0x022 0 (sp a) 0 0 0 0 0 0)
  | .regclaimTry d a => some (fW 0x022 (sp d) (sp a) 0 0 0 1 0 0)
  | .mand mdst msa msb => some (fW 0x028 (maskSp mdst) (maskSp msa) (maskSp msb) 0 0 0 0 0)
  | .mor mdst msa msb => some (fW 0x029 (maskSp mdst) (maskSp msa) (maskSp msb) 0 0 0 0 0)
  | .mxor mdst msa msb => some (fW 0x02A (maskSp mdst) (maskSp msa) (maskSp msb) 0 0 0 0 0)
  | .mandn mdst msa msb => some (fW 0x02B (maskSp mdst) (maskSp msa) (maskSp msb) 0 0 0 0 0)
  | .mpopc d msa => some (fW 0x02C (sp d) (maskSp msa) 0 0 0 0 0 0)
  | .mfirst d msa => some (fW 0x02D (sp d) (maskSp msa) 0 0 0 0 0 0)
  | .mlane mdst a => some (fW 0x02E (maskSp mdst) (sp a) 0 0 0 0 0 0)
  | .vadd t d a b => some (fW 0x040 (sp d) (sp a) (sp b) 0 (tyCode t) 0 0 0)
  | .vsub t d a b => some (fW 0x041 (sp d) (sp a) (sp b) 0 (tyCode t) 0 0 0)
  | .vmul t d a b => some (fW 0x042 (sp d) (sp a) (sp b) 0 (tyCode t) 0 0 0)
  | .vmulh t d a b => some (fW 0x043 (sp d) (sp a) (sp b) 0 (tyCode t) 0 0 0)
  | .vmad t d a b x => some (fW 0x044 (sp d) (sp a) (sp b) (sp x) (tyCode t) 0 0 0)
  | .vand t d a b => some (fW 0x045 (sp d) (sp a) (sp b) 0 (tyCode t) 0 0 0)
  | .vor t d a b => some (fW 0x046 (sp d) (sp a) (sp b) 0 (tyCode t) 0 0 0)
  | .vxor t d a b => some (fW 0x047 (sp d) (sp a) (sp b) 0 (tyCode t) 0 0 0)
  | .vandn t d a b => some (fW 0x048 (sp d) (sp a) (sp b) 0 (tyCode t) 0 0 0)
  | .vshl t d a b => some (fW 0x049 (sp d) (sp a) (sp b) 0 (tyCode t) 0 0 0)
  | .vshr t d a b => some (fW 0x04A (sp d) (sp a) (sp b) 0 (tyCode t) 0 0 0)
  | .vsar t d a b => some (fW 0x04B (sp d) (sp a) (sp b) 0 (tyCode t) 0 0 0)
  | .vmin t d a b => some (fW 0x04C (sp d) (sp a) (sp b) 0 (tyCode t) 0 0 0)
  | .vmax t d a b => some (fW 0x04D (sp d) (sp a) (sp b) 0 (tyCode t) 0 0 0)
  | .vabs d a => some (fW 0x04E (sp d) (sp a) 0 0 1 0 0 0)
  | .vclz d a => some (fW 0x04F (sp d) (sp a) 0 0 0 0 0 0)
  | .vpopc d a => some (fW 0x050 (sp d) (sp a) 0 0 0 0 0 0)
  | .vbfe t d a b x => some (fW 0x051 (sp d) (sp a) (sp b) (sp x) (tyCode t) 0 0 0)
  | .vbfi d a b x => some (fW 0x052 (sp d) (sp a) (sp b) (sp x) 0 0 0 0)
  | .vcmp t c d a b => some (fW 0x053 (sp d) (sp a) (sp b) 0 (tyCode t) (condCode c) 0 0)
  | .vsel t d a b x => some (fW 0x054 (sp d) (sp a) (sp b) (sp x) (tyCode t) 0 0 0)
  | .vmov t d a => some (fW 0x055 (sp d) (sp a) 0 0 (tyCode t) 0 0 0)
  | .vadd64 t d a b => some (fW 0x056 (sp d) (sp a) (sp b) 0 (tyCode t) 0 0 0)
  | .vmad64 t d a b x => some (fW 0x057 (sp d) (sp a) (sp b) (sp x) (tyCode t) 0 0 0)
  | .vshfl t y d a b => some (fW 0x058 (sp d) (sp a) (sp b) 0 (tyCode t) (shModeCode y) 0 0)
  | .vbcast t d a b => some (fW 0x059 (sp d) (sp a) (sp b) 0 (tyCode t) 0 0 0)
  | .vredu t y d a => some (fW 0x05A (sp d) (sp a) 0 0 (tyCode t) (redOpCode y) 0 0)
  | .vscan t y e d a => some (fW 0x05B (sp d) (sp a) 0 0 (tyCode t) (redOpCode y) e.toNat 0)
  | .vmovs d n => some (fW 0x05C (sp d) 0 0 0 0 0 (n.toNat / 16) (n.toNat % 16))
  | .vfadd t r d a b => some (fW 0x080 (sp d) (sp a) (sp b) 0 (tyCode t) (rmCode r) 0 0)
  | .vfsub t r d a b => some (fW 0x081 (sp d) (sp a) (sp b) 0 (tyCode t) (rmCode r) 0 0)
  | .vfmul t r d a b => some (fW 0x082 (sp d) (sp a) (sp b) 0 (tyCode t) (rmCode r) 0 0)
  | .vfma t r d a b x => some (fW 0x083 (sp d) (sp a) (sp b) (sp x) (tyCode t) (rmCode r) 0 0)
  | .vfmin t d a b => some (fW 0x084 (sp d) (sp a) (sp b) 0 (tyCode t) 0 0 0)
  | .vfmax t d a b => some (fW 0x085 (sp d) (sp a) (sp b) 0 (tyCode t) 0 0 0)
  | .vfcmp t y d a b => some (fW 0x086 (sp d) (sp a) (sp b) 0 (tyCode t) (fcondCode y) 0 0)
  | .vfclass t d a => some (fW 0x087 (sp d) (sp a) 0 0 (tyCode t) 0 0 0)
  | .vfrnd t r d a => some (fW 0x088 (sp d) (sp a) 0 0 (tyCode t) (rmCode r) 0 0)
  | .vcvt t r s d a b => some (fW 0x089 (sp d) (sp a) (sp b) 0 (tyCode t) (rmCode r) (tyCode s) 0)
  | .vf2i t r s d a b => some (fW 0x08A (sp d) (sp a) (sp b) 0 (tyCode t) (rmCode r) (tyCode s) 0)
  | .vi2f t r s d a b => some (fW 0x08B (sp d) (sp a) (sp b) 0 (tyCode t) (rmCode r) (tyCode s) 0)
  | .vfscl t r d a b => some (fW 0x08C (sp d) (sp a) (sp b) 0 (tyCode t) (rmCode r) 0 0)
  | .vrcp t r d a => some (fW 0x08D (sp d) (sp a) 0 0 (tyCode t) (rmCode r) 0 0)
  | .vrsq t r d a => some (fW 0x08E (sp d) (sp a) 0 0 (tyCode t) (rmCode r) 0 0)
  | .vsqrt t r d a => some (fW 0x08F (sp d) (sp a) 0 0 (tyCode t) (rmCode r) 0 0)
  | .vexp2 t r d a => some (fW 0x090 (sp d) (sp a) 0 0 (tyCode t) (rmCode r) 0 0)
  | .vlog2 t r d a => some (fW 0x091 (sp d) (sp a) 0 0 (tyCode t) (rmCode r) 0 0)
  | .vsinpi t r d a => some (fW 0x092 (sp d) (sp a) 0 0 (tyCode t) (rmCode r) 0 0)
  | .vcospi t r d a => some (fW 0x093 (sp d) (sp a) 0 0 (tyCode t) (rmCode r) 0 0)
  | .vtanh t r d a => some (fW 0x094 (sp d) (sp a) 0 0 (tyCode t) (rmCode r) 0 0)
  | .welf r d a => some (fW 0x095 (sp d) (sp a) 0 0 4 (rmCode r) 0 0)
  | .wmrg r d a => some (fW 0x096 (sp d) (sp a) 0 0 4 (rmCode r) 0 0)
  | .vbexp t k d a => some (fW 0x097 (sp d) (sp a) 0 0 (tyCode t) 0 k.val 0)
  | .vpkx t d a b => some (fW 0x098 (sp d) (sp a) (sp b) 0 (tyCode t) 0 0 0)
  | .vunpkx t d a b => some (fW 0x099 (sp d) (sp a) (sp b) 0 (tyCode t) 0 0 0)
  | .imgq k d a b => some (fW 0x0A0 (sp d) (sp a) (sp b) 0 0 k.val 0 0)
  | .cpy d a b => some (fW 0x0C0 (spo d) (sp a) (sp b) 0 0 0 0 0)
  | .cpyt p d a b x => some (fW 0x0C1 (spo d) (sp a) (sp b) (sp x) 0 p.toNat 0 0)
  | .cpytCancel x => some (fW 0x0C1 0 0 0 (sp x) 0 2 0 0)
  | .cpyg d a b => some (fW 0x0C2 (spo d) (sp a) (sp b) 0 0 0 0 0)
  | .cpys d a b => some (fW 0x0C3 (spo d) (sp a) (sp b) 0 0 0 0 0)
  | .cpyb d a b => some (fW 0x0C4 (spo d) (sp a) (sp b) 0 0 0 0 0)
  | .sqfill d a b x => some (fW 0x0C5 (spo d) (sp a) (sp b) (sp x) 0 0 0 0)
  | .boinit a b => some (fW 0x0C8 0 (sp a) (sp b) 0 0 0 0 0)
  | .boexp p z a b => some (fW 0x0C9 0 (sp a) (sp b) 0 0 p.toNat (bscopeCode z) 0)
  | .boarr p z d a => some (fW 0x0CA (spo d) (sp a) 0 0 0 p.toNat (bscopeCode z) 0)
  | .bowait z a b => some (fW 0x0CB 0 (sp a) (sp b) 0 0 0 (bscopeCode z) 0)
  | .botry z d a b => some (fW 0x0CC (sp d) (sp a) (sp b) 0 0 0 (bscopeCode z) 0)
  | .lcon t e d a b x => some (fW 0x0D0 (sp d) (sp a) (sp b) (sp x) (tyCode t) 0 e.toNat 0)
  | .lcona t g e d a b x => some (fW 0x0D1 (sp d) (sp a) (sp b) (sp x) (tyCode t) (1 + g.toNat) e.toNat 0)
  | .accget d => some (fW 0x0D2 (sp d) 0 0 0 0 0 0 0)
  | .accput d => some (fW 0x0D3 (sp d) 0 0 0 0 0 0 0)
  | .accz d => some (fW 0x0D4 (sp d) 0 0 0 0 0 0 0)
  | .accrd d a b => some (fW 0x0D5 (sp d) (sp a) (sp b) 0 0 0 0 0)
  | .accwr d a b => some (fW 0x0D6 (sp d) (sp a) (sp b) 0 0 0 0 0)
  | .accst d a b => some (fW 0x0D7 (sp d) (sp a) (sp b) 0 0 0 0 0)
  | .scacc t d => some (fW 0x0D8 (sp d) 0 0 0 (tyCode t) 0 0 0)
  | .sqpush a => some (fW 0x0D9 0 (sp a) 0 0 0 0 0 0)
  | .sqcnt d => some (fW 0x0DA (sp d) 0 0 0 0 0 0 0)
  | .enq p d a => some (fW 0x140 (spo d) (sp a) 0 0 0 p.toNat 0 0)
  | .enqr d a b => some (fW 0x141 (spo d) (sp a) (sp b) 0 0 0 0 0)
  | .lcancel d a => some (fW 0x142 (sp d) (sp a) 0 0 0 0 0 0)
  | .lcancelTree d a => some (fW 0x142 (sp d) (sp a) 0 0 0 1 0 0)
  | .lcntTree d a => some (fW 0x143 (sp d) (sp a) 0 0 0 1 0 0)
  | .lcntState d a => some (fW 0x143 (sp d) (sp a) 0 0 0 2 0 0)
  | .lcntGangs d a => some (fW 0x143 (sp d) (sp a) 0 0 0 0 0 0)
  | .coll y d a b => some (fW 0x144 (spo d) (sp a) (sp b) 0 0 (collKindCode y) 0 0)
  | .cbar d a b => some (fW 0x145 (spo d) (sp a) (sp b) 0 0 0 0 0)
  | .cput d a b => some (fW 0x146 (spo d) (sp a) (sp b) 0 0 0 0 0)
  | .ctree y d a b => some (fW 0x147 (sp d) (sp a) (sp b) 0 0 (treeQueryCode y) 0 0)
  | .trap a => some (fW 0x160 0 (sp a) 0 0 0 0 0 0)
  | .tretSkip => some (fW 0x161 0 0 0 0 0 2 0 0)
  | .tretRegion => some (fW 0x161 0 0 0 0 0 3 0 0)
  | .tretRetry => some (fW 0x161 0 0 0 0 0 1 0 0)
  | .kill msa => some (fW 0x162 0 (maskSp msa) 0 0 0 0 0 0)
  | .killFault msa => some (fW 0x162 0 (maskSp msa) 0 0 0 1 0 0)
  | .smovp d n => some (fW 0x163 (sp d) 0 0 0 0 0 (n.toNat / 16) (n.toNat % 16))
  | .smovq n a => some (fW 0x164 0 (sp a) 0 0 0 0 (n.toNat / 16) (n.toNat % 16))
  | .invlpAll => some (fW 0x165 0 0 0 0 0 1 0 0)
  | .invlpIcache => some (fW 0x165 0 0 0 0 0 2 0 0)
  | .invlp a => some (fW 0x165 0 (sp a) 0 0 0 0 0 0)
  | .frz => some (fW 0x166 0 0 0 0 0 0 0 0)
  | .frzSnap => some (fW 0x166 0 0 0 0 0 1 0 0)
  | .dbgrd d a b => some (fW 0x167 (sp d) (sp a) (sp b) 0 0 0 0 0)
  | .dbgwr d a b x => some (fW 0x168 (sp d) (sp a) (sp b) (sp x) 0 0 0 0)
  | .dstep d a => some (fW 0x169 (sp d) (sp a) 0 0 0 0 0 0)
  | .dstepIsolate d a b => some (fW 0x169 (sp d) (sp a) (sp b) 0 0 1 0 0)
  | .accsv d a => some (fW 0x16A (sp d) (sp a) 0 0 0 0 0 0)
  | .accld d a => some (fW 0x16B (sp d) (sp a) 0 0 0 0 0 0)
  | .saddI d a i => some (iW 0x201 (sp d) (sp a) i)
  | .ssubI d a i => some (iW 0x202 (sp d) (sp a) i)
  | .smulI d a i => some (iW 0x203 (sp d) (sp a) i)
  | .sandI d a i => some (iW 0x205 (sp d) (sp a) i)
  | .sorI d a i => some (iW 0x206 (sp d) (sp a) i)
  | .sxorI d a i => some (iW 0x207 (sp d) (sp a) i)
  | .sshlI d a i => some (iW 0x208 (sp d) (sp a) i)
  | .sshrI d a i => some (iW 0x209 (sp d) (sp a) i)
  | .ssarI d a i => some (iW 0x20A (sp d) (sp a) i)
  | .vaddI d a i => some (iW 0x240 (sp d) (sp a) i)
  | .vsubI d a i => some (iW 0x241 (sp d) (sp a) i)
  | .vmulI d a i => some (iW 0x242 (sp d) (sp a) i)
  | .vandI d a i => some (iW 0x245 (sp d) (sp a) i)
  | .vorI d a i => some (iW 0x246 (sp d) (sp a) i)
  | .vxorI d a i => some (iW 0x247 (sp d) (sp a) i)
  | .vshlI d a i => some (iW 0x249 (sp d) (sp a) i)
  | .vshrI d a i => some (iW 0x24A (sp d) (sp a) i)
  | .vsarI d a i => some (iW 0x24B (sp d) (sp a) i)
  | .ld wd sc fe nt d m => some (mW 0x100 (sp d) m (widthCode wd) (scopeCode sc) (feCode fe) false false nt)
  | .st wd sc sf img nt d m => some (mW 0x101 (sp d) m (widthCode wd) (scopeCode sc) (if sf then 3 else 0) img false nt)
  | .sld wd sc fe nt d m => some (mW 0x102 (sp d) m (widthCode wd) (scopeCode sc) (feCode fe) false false nt)
  | .sst wd sc sf nt d m => some (mW 0x103 (sp d) m (widthCode wd) (scopeCode sc) (if sf then 3 else 0) false false nt)
  | .pf nt m => some (mW 0x104 0 m 2 7 0 false false nt)
  | .fest sc full m => some (mW 0x105 0 m 4 (scopeCode sc) (if full then 3 else 2) false false false)
  | .feq sc d m => some (mW 0x106 (maskSp d) m 4 (scopeCode sc) 0 false false false)
  | .aadd t sc img nt d m => some (aW 0x110 t sc img nt d m)
  | .aaddOrd sc img nt d m => some (mW 0x110 (sp d) m 2 (scopeCode sc) 2 img true nt)
  | .aand t sc img nt d m => some (aW 0x111 t sc img nt d m)
  | .aor t sc img nt d m => some (aW 0x112 t sc img nt d m)
  | .axor t sc img nt d m => some (aW 0x113 t sc img nt d m)
  | .amin t sc img nt d m => some (aW 0x114 t sc img nt d m)
  | .amax t sc img nt d m => some (aW 0x115 t sc img nt d m)
  | .axchg t sc img nt d m => some (aW 0x116 t sc img nt d m)
  | .acas t sc nt d m => some (aW 0x117 t sc false nt d m)
  | .aincb sc nt d m => some (aW 0x118 .u32 sc false nt d m)
  | .depdec sc d m => some (aW 0x119 .u32 sc false false d m)
  | .aseal sc m => some (mW 0x11A 0 m 2 (scopeCode sc) 2 false true false)
  | .bra off => some (xW 1 0 off)
  | .brc cc c off => some (xW 2 (sp c * 2 ^ 15 + ccCode cc * 2 ^ 12) off)
  | .brv cc c tok off => some (xW 3 (sp c * 2 ^ 15 + ccCode cc * 2 ^ 12 + tok.val * 2 ^ 8) off)
  | .brmLanes m tok off => some (xW 8 (m.val * 2 ^ 19 + tok.val * 2 ^ 8) off)
  | .brm mode m off => some (xW 8 (m.val * 2 ^ 19 + (match mode with | .all => 1 | .any => 2 | .none => 3) * 2 ^ 16) off)
  | .join tok => some (xW 4 (tok.val * 2 ^ 8) 0)
  | .call k off => some (xW 5 (k.val * 2 ^ 18) off)
  | .smovi d v => some (xW 6 (sp d * 2 ^ 15) v)
  | .vmovi d v => some (xW 7 (sp d * 2 ^ 15) v)
  | .saddi d a v => some (xW 9 (sp d * 2 ^ 15 + sp a * 2 ^ 6) v)
  | .vaddi d a v => some (xW 10 (sp d * 2 ^ 15 + sp a * 2 ^ 6) v)
  | .pNop x b => some (pW ⟨.nop, x⟩ b)
  | .pVadd x b => some (pW ⟨.vadd, x⟩ b)
  | .pVsub x b => some (pW ⟨.vsub, x⟩ b)
  | .pVmul x b => some (pW ⟨.vmul, x⟩ b)
  | .pVand x b => some (pW ⟨.vand, x⟩ b)
  | .pVor x b => some (pW ⟨.vor, x⟩ b)
  | .pVxor x b => some (pW ⟨.vxor, x⟩ b)
  | .pVshl x b => some (pW ⟨.vshl, x⟩ b)
  | .pVshr x b => some (pW ⟨.vshr, x⟩ b)
  | .pVsar x b => some (pW ⟨.vsar, x⟩ b)
  | .pVmin x b => some (pW ⟨.vmin, x⟩ b)
  | .pVmax x b => some (pW ⟨.vmax, x⟩ b)
  | .pVmov x b => some (pW ⟨.vmov, x⟩ b)
  | .pVfadd x b => some (pW ⟨.vfadd, x⟩ b)
  | .pVfsub x b => some (pW ⟨.vfsub, x⟩ b)
  | .pVfmul x b => some (pW ⟨.vfmul, x⟩ b)
  | .pVfmin x b => some (pW ⟨.vfmin, x⟩ b)
  | .pVfmax x b => some (pW ⟨.vfmax, x⟩ b)
  | .pVcvt x b => some (pW ⟨.vcvt, x⟩ b)
  | .pSadd x b => some (pW ⟨.sadd, x⟩ b)
  | .pSsub x b => some (pW ⟨.ssub, x⟩ b)
  | .pSmov x b => some (pW ⟨.smov, x⟩ b)
  | .pSand x b => some (pW ⟨.sand, x⟩ b)
  | .pSor x b => some (pW ⟨.sor, x⟩ b)
  | .illegalWord w => some w.toNat
  | .regclaimGrant _ _ _
  | .sfuResultWrite _ _
  | .copyUnitDone _ _
  | .cpytFiring _ _
  | .sqfillPush _ _
  | .bowaitWake _ _
  | .contractionStep _ _
  | .accrdResultWrite _ _
  | .accstStoreDone _ _
  | .foldApply _
  | .loadResultWrite _ _ _
  | .feWaitSatisfied _ _ _
  | .enqrDelivery _
  | .collChunkStage _ _ _ _ _
  | .cbarInstanceDone _ _
  | .cputRemoteArrival _
  | .cputAck _ _ _ _ _
  | .linkStateChange _ _
  | .linkStateMessage _ _ _
  | .agreement _ _ _ _
  | .invalidationSweepDone _
  | .freezeTakesEffect _
  | .gangHaltOtherFlight _ _
  | .asyncFaultTaken
  | .timerPeriodEnd _
  | .timerTrapTaken
  | .fragmentAged _ _
  | .fragmentSwitch _ _
  | .preemptRequest _ _
  | .preemptDeadline _
  | .preemptmaxExpiry _
  | .engineStopAck _ _
  | .gangRestore _
  | .preemptWaitTimeout _
  | .launchAccept _
  | .globalDispatch _ _ _ _
  | .gangPlace _ _
  | .gangRetire _
  | .cancelComplete _ _
  | .qnotifyWrite _ _ _
  | .queueMap _ _ _
  | .queueDisplace _ _ _
  | .queueQuantumExpiry _
  | .packetLaunch _ _
  | .packetGraph _ _
  | .packetSignal _ _
  | .packetWait _ _
  | .packetBarrier _ _
  | .packetCancel _ _
  | .waitMonitorHit _ _
  | .queueUnblock _ _
  | .forwardedWrite _ _
  | .hostAccess _ _ _
  | .registerWrite _ _ _
  | .bootLock
  | .bootVerifyDone
  | .reset
  | .create _
  | .destroy _
  | .queueCreate _ _ _
  | .queueDestroy _ _
  | .queueReset _ _
  | .communicatorCreate _ _ _
  | .communicatorDestroy _ _
  | .codeInvalidate _
  | .replayPartition _
  | .replayBlock _ _
  | .failBlock _ _
  | .shootdown _ _ _
  | .scan _
  | .scanRestore _ _
  | .thaw _
  | .migration _ _
  | .attest _
  | .traceSyncSet _
  | .traceLostPacket _
  | .sampleTick _
  | .thermalPowerLimit _ _
  | .thermalShutdown _
  | .instructionFetchFault
  | .storePerformed _ _ _
  | .memberLeft _ _ _
  | .haltCommand _ _ _ _ _ _
  | .freezeCommand _
  | .snapshotTriggerCommand
  | .firmwareEndsJob _ => none

/-- The word of an instruction (02 R12-R37). -/
def encode (i : Instr) : Option DWord := (encodeNat i).map (BitVec.ofNat 64)

/-- The bytes of an instruction, as they stand in memory (02 R12). -/
def encodeBytes (i : Instr) : Option (List Byte) := (encode i).map bytesOfWord

end Sys2Proof
end

