-- ==== Sys2Proof/Machine/State.lean ====
section
/-!
DEFINITION. The state of the whole package as plain data, the reasons a step stops, and the state after reset. Every
record names the rule of spec/ that gives it. Fields that are the model's own (which agent moves next, the source of free
values and of internal names) say so.
-/
namespace Sys2Proof.Machine

/-- A finite map on numbers: pairs in rising order of the key (Machine/Ops.lean). -/
abbrev Cells (β : Type) := List (Nat × β)

/-- One vector register: the 32-bit words of lanes 0-95 (06 R143). -/
abbrev Row := List Word

/-- A held translation (04 R83, R84): partition, first virtual and physical byte, size in address bits, permissions. -/
structure TlbEntry where
  pid   : Nat
  vbase : Nat
  bits  : Nat
  pbase : Nat
  u     : Bool
  x     : Bool
  w     : Bool
  lcx   : Bool
  deriving DecidableEq, Repr

/-- How far one lane of an issued memory access has come: parked on a replayable fault of a kind, which is 0 where another
address of its lane met it (04 R90), in a full-empty wait (05 R111), issued and not performed, read and not yet written to its
registers, performed, or not performed because its unit holds an uncorrectable error (04 R97). -/
inductive LaneState where
  | parked (kind : Nat) | feWait | todo | read | done | failed
  deriving DecidableEq, Repr

/-- One access of a memory instruction; `lane` is 96 for an access made once for the fragment (04 R102). `pa` is the key
of its first byte in `State.mem`; `leaf` the address bits of the page by which it passed translation, 0 for scratch (04 R86);
`data` is what it stores, or what it has read; `neg` marks an image whose operand is negated (11 R281); `parts` lists the aligned 8-byte
parts that have been performed ahead of the rest (04 R100), 0 for all of an access of at most 8 bytes. -/
structure LaneOp where
  lane : Nat
  va   : DWord
  pa   : Nat
  leaf : Nat
  raw  : Bool
  neg  : Bool
  data : List Word
  parts : List Nat
  st   : LaneState
  deriving DecidableEq, Repr

/-- An issued LD, ST, SLD, SST or atomic with accesses still outstanding (04 R102, R103, 06 R155). `pc` and `seq` are its
event name (20 R419); `owned` the lanes its fragment owned at issue (13 R287). `vhits` and `shits` are the destination registers
written since issue (04 R103): vector register n as n and vt n as 192 + n with its lanes, scalar register n as n and ss n as
96 + n. `late` marks a load that beacons examine when it has landed, and `watch` holds the beacons as they were at its issue
(20 R420, R424), in which an access made once counts in the lanes `once` (R423). -/
structure Mop where
  id    : Nat
  instr : Instr
  pc    : DWord
  seq   : Word
  frag  : Nat
  level : Nat
  owned : Lanes
  lanes : List LaneOp
  vhits : List (Nat × Lanes)
  shits : List Nat
  late  : Bool
  watch : Cells DWord
  once  : List Nat
  deriving DecidableEq, Repr

/-- A special-function or ACCRD result not yet written (06 R155), and held while an ACCRD has not read its tile (09
R243): its rows, lanes and the sticky flags each lane will raise (07 R187); `vhits`, `late` and `watch` as for `Mop`;
`cleared` the lanes of each flag that an SMOVW has cleared since it issued. -/
structure Pend where
  id    : Nat
  acc   : Bool
  frag  : Nat
  level : Nat
  dst   : Opnd
  rows  : List Row
  lanes : Lanes
  flags : List Lanes
  pc    : DWord
  seq   : Word
  vhits : List (Nat × Lanes)
  late  : Bool
  watch : Cells DWord
  cleared : List Lanes
  held  : Bool
  deriving DecidableEq, Repr

/-- Why the instruction at a fragment's PC has not issued, with the reason code of 20 R441. It issues again when it can. -/
inductive Why where
  /-- WAIT on ld, sld, sfu or acc (06 R171): codes 3-6. -/
  | wait (code : Nat)
  /-- A counter at its stall limit (06 R155): 7. -/
  | counter
  /-- REGGIVE waiting for counters (06 R176): 27. -/
  | reggive
  /-- FENCE (13 R298): 17. -/
  | fence
  /-- OPFENCE (13 R301): 18. -/
  | opfence
  /-- Copy-engine queue full (05 R123): 19. -/
  | engine
  /-- A tile's instance still reads or adds (09 R238): 20. -/
  | tile
  /-- A fifth instance on a tile (09 R235): 21. -/
  | fifth
  /-- Scale queue full (09 R250): 22. -/
  | sq
  /-- SCACC waits for a record an SQFILL still pushes (09 R247): 31. -/
  | record
  /-- Device-side packet list full (15 R327): 23. -/
  | packets
  /-- A fifth collective on a communicator (17 R372): 24. -/
  | coll
  /-- An atomic waits for earlier accesses of its lanes (13 R291-R295): 31. -/
  | order
  /-- An inspection waits for its target's counters (20 R432): 31. -/
  | target
  /-- An access to a tile that pre-emption, or a save, holds: 31. -/
  | held
  deriving DecidableEq, Repr

/-- What a fragment waits for. -/
inductive Wait where
  /-- Nothing: its next instruction may issue. -/
  | run
  /-- The instruction at its PC could not issue; it is tried again (06 R153). -/
  | stall (why : Why)
  /-- Parked on access `op` until a replay or a fail command (04 R90). -/
  | park (op : Nat)
  /-- Parked at an ENQ or ENQR whose packet read, or an ACCSV or ACCLD whose record, meets a replayable fault (15 R326). -/
  | packet (va : DWord) (kind : Nat)
  /-- A fail command has ended the park on access `op` (04 R92); the fault is taken when the fragment may issue. -/
  | failPark (op : Nat)
  /-- A fail command has ended the park at an ENQ or ENQR. -/
  | failPacket (va : DWord) (kind : Nat)
  /-- A replay command has reached the park of a saved context; it applies at restore (04 R92). -/
  | replay (op : Nat)
  /-- The instruction that parked at the address issues again with it, after a replay or a retry (04 R90, 19 R402). -/
  | redo (va : DWord)
  /-- Lanes of access `op` wait for their granules (05 R111). -/
  | feWait (op : Nat)
  /-- Lanes of atomic `op` are still to be performed, in ascending order (11 R263, log 13). -/
  | perform (op : Nat)
  /-- Parked at a JOIN of the token (06 R151). -/
  | join (tok : Nat)
  /-- Parked at an LCON of the instance on the tile (09 R237). -/
  | lcon (tile inst : Nat)
  /-- BOWAIT: object, key of its first byte, parity and scope (05 R121). -/
  | bowait (va : DWord) (pa : Nat) (parity : Bool) (bs : Scope)
  /-- At a block barrier: number, named count, whether it waits for release (BARW), whether its flight has arrived
  (06 R173, R174). -/
  | bar (n count : Nat) (waits made : Bool)
  /-- At its BARW or BARA when an exit completed its flight's set with a count other than the instance's: it faults there (06 R173). -/
  | barFault
  /-- REGCLAIM waiting for granules, in the order of `seqNo` (06 R176). -/
  | claim (n : Nat) (order : Nat)
  /-- INVLP waiting for its sweep (04 R86). -/
  | sweep (id : Nat)
  /-- DSTEP waiting for its step (20 R435). -/
  | step
  /-- The fragment issues nothing further: its own instruction asserted the freeze line, or it cancelled its own launch
  (15 R333, 19 R412). -/
  | gone
  deriving DecidableEq, Repr

/-- A fragment (06 R148, 19 R386, R389, 16 R352). `stopped` marks a stop for pre-emption, `regionStop` one that resumes by
a region restart (19 R405); `skip` one issue that beacons do not examine (20 R426). `ready` is the cycle of its last issue or
change of wait, `last` its last issue, `run` its instructions in a row. -/
structure Fragment where
  num        : Nat
  owned      : Lanes
  em         : Lanes
  pc         : DWord
  region     : Word
  rpc        : DWord
  rmask      : Lanes
  level      : Nat
  wait       : Wait
  halted     : Bool
  stopped    : Bool
  regionStop : Bool
  skip       : Bool
  ready      : Nat
  last       : Option Nat
  run        : Nat
  aged       : Bool
  deriving DecidableEq, Repr

/-- What a trap set keeps of the instruction that trapped. -/
inductive Kept where
  /-- The accesses a partial fault left unperformed, with their instruction (19 R388); with none, a store or atomic that a user
  debug trap withheld (20 R426). -/
  | access (i : Instr) (lanes : List LaneOp)
  /-- The address of an instruction that reads or writes one block, such as the packet of an ENQ (04 R90, 15 R326). -/
  | packet (va : DWord)
  deriving DecidableEq, Repr

/-- The trap registers and banks of one supervisor level (19 R390-R394). `rmask` is the restart mask of the
interrupted context, `kept` what TRET.retry performs again and `skip` that beacons were not to examine its next
instruction (20 R426). `sch` are the scheduler state registers at the trap (20 R443). -/
structure TrapSet where
  cause  : Word
  pc     : DWord
  region : Word
  mask   : Lanes
  em     : Lanes
  addr   : DWord
  seq    : Word
  cpc    : DWord
  rpc    : DWord
  te     : Bool
  rmask  : Lanes
  kept   : Option Kept
  skip   : Bool
  ss     : Cells Word
  vt     : Cells Row
  sch    : List Word
  deriving DecidableEq, Repr

/-- A queued asynchronous fault (19 R396): code, detail, lanes, address and the event name it carries. `op` is the access that met a
memory error, whose further lanes join the fault (04 R97). -/
structure AsyncFault where
  code   : Nat
  detail : Nat
  mask   : Lanes
  addr   : DWord
  pc     : DWord
  seq    : Word
  op     : Option Nat
  deriving DecidableEq, Repr

/-- A halt queued until its fragment returns to level 0 (19 R411), or until a flight of a halted gang stops (20 R426), for
which `pc` holds the number of instructions the flight had issued at the request. `withheld` marks one whose instruction was not
performed (20 R429). -/
structure QHalt where
  scope   : Nat
  cause   : Nat
  beacons : Nat
  frag    : Nat
  lanes   : Lanes
  pc      : DWord
  seq     : Word
  withheld : Bool
  deriving DecidableEq, Repr

/-- A partial set (09 R245): its instance, tile key, format, place, and for output (i, j) and pair (x, y), at index
`(32 i + j) * 4 + 2 x + y`, the sum and whether it has a term. -/
structure PSet where
  inst : Nat
  tile : Nat
  ty   : Ty
  rank : Nat
  f    : Nat
  k    : Nat
  p    : Cells Int
  n    : List Nat
  deriving DecidableEq, Repr

/-- A vector register that an LCONA arrival reads asynchronously, until its completion object flips (09 R242): the lanes of
the arrival; those that were written since it, whose value is undefined; the values from before the writes that no OPFENCE followed,
each with its lanes, which the register may still supply; the key of the object; whether the instance has read it; and the internal
names given out when the arrival issued, which tell later instructions from earlier ones. -/
structure AsyncReg where
  tile  : Nat
  inst  : Nat
  reg   : Nat
  lanes : Lanes
  hit   : Lanes
  olds  : List (Lanes × Row)
  obj   : Nat
  fin   : Bool
  made  : Nat
  deriving DecidableEq, Repr

/-- A flight (06 R143-R160). Its place in the hierarchy (`gid`, `pid`, `launch`, `rank`, `idx`, `core`, `slot`, `pos`)
gives FLIGHT, BLOCK, GANG, LAUNCH, CORE and DIE. `pts` holds IDX0-IDX2 and ORBIT of each lane (08 R204); `dirty` the writes of
vector registers since the last OPFENCE, newest first: lanes and the row before (09 R242); `refused` the block barriers at which the
arrival of its complete set has been refused (06 R173). -/
structure Flight where
  gid    : Nat
  pid    : Nat
  launch : Nat
  rank   : Nat
  idx    : Nat
  core   : Nat
  slot   : Nat
  pos    : Nat
  frags  : List Fragment
  exited : Lanes
  vregs  : Nat
  s      : Cells Word
  v      : Cells Row
  tokens : Cells Lanes
  pend   : List Pend
  mops   : List Mop
  seqNo  : Word
  fpmode : Word
  lflags : List Lanes
  clkhi  : Word
  lseq   : Row
  pts    : List Row
  t1     : TrapSet
  t2     : TrapSet
  tvec   : DWord
  bp     : Bool
  sq     : List Word
  psets  : List PSet
  afq    : List AsyncFault
  afMore : Bool
  timer  : Bool
  haltq  : List QHalt
  lpr    : Cells TlbEntry
  slpr   : Option TlbEntry
  dirty  : Cells (List (Lanes × Row))
  asyncR : List AsyncReg
  issued : DWord
  dblFlt : Option Nat
  refused : List Nat
  deriving DecidableEq, Repr

/-- The open instance of a block barrier (06 R172, R173): arrivals and the count fixed by the first one. -/
structure Bar where
  arrived : Nat
  count   : Nat
  deriving DecidableEq, Repr

/-- States of a gang (16 R351); WAITING gangs stand in the die dispatchers' lists. -/
inductive GangState where
  | running | stopping | saved | retiring
  deriving DecidableEq, Repr

/-- A pending ordered contribution (11 R266): key, physical key of its word, value, whether it holds an on-chip
entry, and whether a program's access to the spill reservation has left its sum undefined (R271). -/
structure Contrib where
  gang  : Nat
  rank  : Nat
  blane : Nat
  lseq  : Nat
  img   : Nat
  pa    : Nat
  val   : Word
  chip  : Bool
  lost  : Bool
  deriving DecidableEq, Repr

/-- A symmetry generator (11 R276): kind, axes, shift divisor, character −1. -/
structure Gen where
  kind : Nat
  p    : Nat
  q    : Nat
  m    : Nat
  neg  : Bool
  deriving DecidableEq, Repr

/-- What a kernel descriptor says (03 R71). -/
structure Desc where
  entry    : DWord
  resident : Bool
  sym      : Bool
  nflight  : Nat
  nblock   : Nat
  vregs    : Nat
  sregs    : Nat
  tiles    : Nat
  sqDepth  : Nat
  roles    : List Nat
  scratch  : Nat
  spill    : Nat
  gens     : List Gen
  maps     : Nat
  strides  : List Word
  deriving DecidableEq, Repr

/-- A launch (15 R309-R325). `state` is the code of R334: 0 accepted, 1 running, 2 completed, 3 cancelled, 4 faulted,
5 refused. `prio` is its list: 0 latency, 1-4 priorities 0-3; `device` marks a device-side launch, which inherits `queue`;
`qlive` that the queue has not been destroyed. `handed` counts gangs given to die dispatchers, `placed` and `retired` those
placed and gone; `tree` is the spawn-tree counter of a root and `treeFlt` the fault code of a member that ended faulted. -/
structure Launch where
  pid      : Nat
  id       : Nat
  kind     : Nat
  compat   : Bool
  tag      : Word
  desc     : Option Desc
  ext      : List Nat
  karg     : DWord
  next     : DWord
  spill    : DWord
  status   : DWord
  points   : Nat
  gangs    : Nat
  handed   : Nat
  placed   : Nat
  retired  : Nat
  state    : Nat
  reason   : Nat
  fault    : Option (Nat × Nat × DWord)
  antisym  : Bool
  root     : Option Nat
  isRoot   : Bool
  tree     : Nat
  treeFlt  : Option Nat
  treeEnd  : Bool
  graph    : Option Nat
  queue    : Option Nat
  qlive    : Bool
  device   : Bool
  prio     : Nat
  pidx     : Word
  cancel   : Bool
  order    : Nat
  contribs : List Contrib
  deriving DecidableEq, Repr

/-- A packet the front end has taken and not yet accepted as a launch (15 R311). -/
structure Offer where
  bytes  : List Byte
  queue  : Option Nat
  pidx   : Word
  root   : Option Nat
  graph  : Option Nat
  deriving DecidableEq, Repr

/-- A graph (15 R323, 16 R338), a phase (15 R324) or the job's own counter. -/
structure Graph where
  pid   : Nat
  queue : Nat
  pidx  : Word
  tag   : Word
  count : Nat
  fault : Bool
  ended : Bool
  phase : Nat
  deriving DecidableEq, Repr

/-- A phase of a job (15 R323, R324): graphs not ended. -/
structure Phase where
  pid    : Nat
  count  : Nat
  closed : Bool
  fault  : Bool
  ended  : Bool
  deriving DecidableEq, Repr

/-- States of a freeze line (19 R412). -/
inductive Freeze where
  | clear | asserted (at' : Nat) | inEffect
  deriving DecidableEq, Repr

/-- A partition (22 R452) with its management window's registers (22 R448). `jobCount` counts the job's phases that have not ended,
`jobFault` that one of them ended faulted, and `jobEnds` the times the counter has reached 0 (15 R324). `moving` holds the pages of a migration
that is under way (16 R354). -/
structure Part where
  desc      : CreateDesc
  frctl     : DWord
  jnlctl    : DWord
  jnlhead   : Word
  jnltail   : Word
  hrctl     : DWord
  hrhead    : Word
  tmrctl    : DWord
  preemptdl : DWord
  hcmd      : DWord
  nextId    : Word
  offers    : List Offer
  phase     : Option Nat
  jobCount  : Nat
  jobFault  : Bool
  jobEnds   : Nat
  freeze    : Freeze
  destroyed : Bool
  moving    : Option (List Nat)
  deriving DecidableEq, Repr

/-- A copy command's kind (05 R134-R142, 09 R254). -/
inductive CopyKind where
  | cpy | cpyg | cpys | cpyb | sqfill | accst
  deriving DecidableEq, Repr

/-- A command of a copy engine (05 R123-R139). `par` is the captured parameter block, `done` the elements (rows, records)
moved, `stall` the address at which it waits for a replay (R137), and `doomed` says that a fail command has named it while its engine was
stopped for it (04 R92); `data` an ACCST's captured tile. -/
structure Cmd where
  id     : Nat
  kind   : CopyKind
  gid    : Nat
  fid    : Nat
  pid    : Nat
  launch : Nat
  rank   : Nat
  pc     : DWord
  seq    : Word
  sup    : Bool
  core   : Nat
  par    : List Word
  obj    : DWord
  rm     : Rm
  stream : Bool
  done   : Nat
  stall  : Option DWord
  doomed : Bool := false
  firing : Option Nat
  data   : Cells Word
  deriving DecidableEq, Repr

/-- An armed copy (05 R141): its command, the trigger's key and address, whether it fires at every flip, queued firings. -/
structure Arm where
  id     : Nat
  cmd    : Cmd
  trig   : Nat
  trigVa : DWord
  every  : Bool
  queued : Nat
  deriving DecidableEq, Repr

/-- A stretch of memory from which the bytes of an engine's write were made (05 R132): its key and length; the place of its first byte
among those bytes; and the bytes in each of the elements that it holds one after the other, 0 where all of the write depends on each of
its bytes. -/
structure Source where
  key  : Nat
  n    : Nat
  off  : Int
  unit : Nat
  deriving DecidableEq, Repr

/-- What an engine's operation has touched, from its issue to the flip that reports it (05 R132, R133, 17 R372): the operation's
name; the flight that issued it and the internal name from which on that flight's accesses come after it in program order; the keys of
the objects that are still to flip; the free draws at its start and its end, which say what ran at the same time;
the stretches of memory that programs have written since it issued; and what it has written itself, each with the stretches it was
made from. -/
structure Work where
  id    : Nat
  gid   : Nat
  fid   : Nat
  since : Nat
  objs  : List Nat
  began : Option Nat
  ended : Option Nat
  hits  : List (Nat × Nat)
  wrote : List (Nat × Nat × List Source)
  deriving DecidableEq, Repr

/-- A copy engine (05 R123, R141) with the translations it holds (04 R86). -/
structure Engine where
  cmds : List Cmd
  arms : List Arm
  tlb  : List TlbEntry
  deriving DecidableEq, Repr

/-- One arrival at a contraction instance (09 R236): fragment, participating lanes, operand groups, completion object,
event name, for flight scope the operand rows it captured at closure
(R238), and its place in the order of arrivals (R240). -/
structure Arr where
  fid  : Nat
  frag : Nat
  part : Lanes
  a    : Nat
  b    : Nat
  obj  : DWord
  pc   : DWord
  seq  : Word
  av   : List Row
  bv   : List Row
  ord  : Nat
  deriving DecidableEq, Repr

/-- A contraction instance (09 R234-R241, R256). `scope` is 0 flight, 1 block, 2 gang; `own` and `rank` name a
flight-scope or block-scope instance; lanes are kept for each flight. `frun`, `krun` and `staged` are the running values
F, K and the staged K[r]. -/
structure Inst where
  id       : Nat
  scope    : Nat
  own      : Nat
  rank     : Nat
  tag      : Nat
  header   : Word
  ty       : Ty
  sp       : Bool
  expected : Cells Lanes
  arrived  : Cells Lanes
  part     : Cells Lanes
  arrs     : List Arr
  closed   : Option Nat
  progress : Nat
  frun     : Cells Word
  krun     : Cells Word
  staged   : List (Cells Word)
  undef    : Bool
  deriving DecidableEq, Repr

/-- A deposited block-format instance whose folds are not all applied (09 R248): the folds still to come, in order. -/
structure Dep where
  inst  : Nat
  ty    : Ty
  order : Nat
  todo  : List (Nat × Nat × Nat)
  deriving DecidableEq, Repr

/-- A released fold (09 R247): its partial set and record. -/
structure Fold where
  ps  : PSet
  scale : Word
  deriving DecidableEq, Repr

/-- What an instruction that names a tile does to it (09 R243): ACCZ zeroes it, ACCWR writes elements, SCACC releases a fold, ACCRD reads
elements for lanes of a result, each from an entry on, and ACCST captures it for a command of an engine. -/
inductive TileAct where
  | zero
  | put (ws : List (Nat × Word))
  | fold (x : Fold)
  | read (fid id : Nat) (es : List (Nat × Nat))
  | capture (eng id : Nat)
  deriving DecidableEq, Repr

/-- An effect on a tile of an instruction that has issued, which comes after the adds of the instances `after` (09 R243). -/
structure TileOp where
  after : List Nat
  act   : TileAct
  deriving DecidableEq, Repr

/-- A tile of accumulator memory (09 R226-R228): elements by entry index, generation, the gang and rank it is allocated
to, the gang and rank it is set aside for, its instances, deposits and released folds, and the effects still to come of instructions that
name it (R243). -/
structure Tile where
  elems : Cells Word
  gen   : Nat
  owner : Option (Nat × Nat)
  aside : Option (Nat × Nat)
  insts : List Inst
  deps  : List Dep
  folds : List Fold
  todo  : List TileOp
  deriving DecidableEq, Repr

/-- A placed gang (15 R316, 16 R351). `acks` are the collector's acknowledgements (19 R408), `why` what stops it:
1 pre-emption, 2 cancel, 3 halt; `deadline` the yield deadline's cycle; `pmax` PREEMPTMAX running since, for each flight.
Pools are keyed rank * 4 + slot (06 R175), barriers rank * 16 + n (06 R172). `order` is the order of placement, `ran` the
cycles spent RUNNING before `started` (20 R443); `savedT` holds a saved gang's tiles by key. -/
structure Gang where
  pid      : Nat
  launch   : Nat
  num      : Nat
  die      : Nat
  quad     : Nat
  offset   : Nat
  scratch  : Nat
  tiles    : Nat
  nflight  : Nat
  nblock   : Nat
  state    : GangState
  why      : Nat
  acks     : List StopUnit
  deadline : Option Nat
  held     : Bool
  engStop  : Bool
  pmaxAt   : Cells Nat
  bars     : Cells Bar
  pools    : Cells Nat
  order    : Nat
  ran      : Nat
  started  : Nat
  savedT   : Cells Tile
  deriving DecidableEq, Repr

/-- What a slot remembers of its issue (06 R153, 19 R414): the last flight, fragment and event name (20 R419), with the cycle, and the
REGION and the number of fragments as they stood (20 R440). -/
structure SlotCur where
  fid    : Nat
  frag   : Nat
  pc     : DWord
  seq    : Word
  cycle  : Nat
  region : Word
  frags  : Nat
  deriving DecidableEq, Repr

/-- A core (01 R8): load cache by line, the lines whose copy there has a parity error (04 R99), instruction and constant cache,
which may hold several contents of one word until it is invalidated (01 R9), TLB, beacons (key 4 b + k), trace unit and
sampler registers (20 R420, R436, R440), and each slot's last issue. -/
structure Core where
  lcache  : List (Nat × List Byte)
  parity  : List Nat
  icache  : List (Nat × DWord)
  tlb     : List TlbEntry
  bcn     : Cells DWord
  trcctl  : DWord
  trcfilt : DWord
  trchead : DWord
  trcLast : Nat
  trcN    : Nat
  trcDrop : Option Nat
  smpctl  : DWord
  smphead : Word
  smpPos  : Cells Nat
  slots   : Cells SlotCur
  deriving DecidableEq, Repr

/-- States of a queue (16 R340). -/
inductive QState where
  | idle | ready | mapped | blocked | error
  deriving DecidableEq, Repr

/-- A queue (16 R335-R342). `since` is the cycle it became READY, `mappedAt` that of its mapping; `slot` the mapper slot;
`graph` its last graph packet; `line` the key of its armed monitor line (R339); `fromGraph` names the graph whose member's
completion sent the packet at a ring index (R338); `head` is the packet that blocks the queue. `bell` is a write index that
software has written and the device has not read yet (R337); `met` that a write left the condition of a blocked wait met and
the next write to its line did not remove it (R339). -/
structure Queue where
  pid      : Nat
  ring     : DWord
  size     : Nat
  prio     : Nat
  lat      : Bool
  rdidx    : DWord
  err      : DWord
  errsize  : Nat
  r        : Word
  widx     : Word
  state    : QState
  slot     : Option Nat
  since    : Nat
  mappedAt : Nat
  graph    : Option Nat
  line     : Option Nat
  head     : List Byte
  fromGraph : Cells Nat
  bell     : Option Word
  met      : Bool
  deriving DecidableEq, Repr

/-- A die dispatcher (16 R348-R350): waiting gangs as (partition, launch, gang number), the head's pass count and since
when it has been head. -/
structure DieDisp where
  list   : List (Nat × Nat × Nat)
  pass   : Nat
  headAt : Nat
  deriving DecidableEq, Repr

/-- A collective issued at this member (17 R371, R372): its number on the communicator, kind, parameters, completion object and issuer;
`stalls` are the chunks that wait for a replay, with the address of each (17 R373), `doomed` says that a fail command has named one while the
engine was stopped for the gang, and `chunks` counts those complete at this
member (19 R414). -/
structure CollOp where
  id     : Nat
  num    : Nat
  kind   : CollKind
  par    : List Word
  obj    : DWord
  fid    : Nat
  gid    : Nat
  launch : Nat
  core   : Nat
  sup    : Bool
  pc     : DWord
  seq    : Word
  stalls : List (Nat × DWord)
  doomed : Bool := false
  begun  : Bool
  chunks : Nat
  deriving DecidableEq, Repr

/-- A barrier instance joined at this member (17 R375), with its number on the communicator; `agree` marks one that completes only after
an agreement (R376). -/
structure CbarOp where
  id  : Nat
  num : Nat
  obj : DWord
  fid : Nat
  gid : Nat
  launch : Nat
  core : Nat
  pc  : DWord
  seq : Word
  agree : Bool
  deriving DecidableEq, Repr

/-- A put issued at this member and not yet acknowledged (17 R377, R378); `doomed` says that a fail command has named it while the engine was
stopped for the gang. -/
structure PutOp where
  id     : Nat
  frag   : Nat
  par    : List Word
  obj    : DWord
  fid    : Nat
  gid    : Nat
  launch : Nat
  core   : Nat
  sup    : Bool
  pc     : DWord
  seq    : Word
  sent   : Bool
  stall  : Option DWord
  doomed : Bool := false
  deriving DecidableEq, Repr

/-- A communicator of a partition (17 R358-R361): descriptor, the trees last derived (planes) and the table version they
came from, and its open operations. `running` holds the planes of the trees that the running collective travels on, which change only when
it is disturbed (R365). `agree` marks a running agreement, `restart` the chunks that the last one restarted, in
order (R365). `collNo` and `cbarNo` number the collectives and barrier instances issued here, and `failed` holds those that another
member has ended before this one joins them: whether a barrier, number and status (R373). -/
structure Comm where
  count    : Nat
  rank     : Nat
  maxtrees : Nat
  marks    : DWord
  members  : List (Nat × Nat)
  derived  : Option (List Nat × Word)
  running  : List Nat
  colls    : List CollOp
  cbars    : List CbarOp
  puts     : List PutOp
  agree    : Bool
  restart  : List Nat
  collNo   : Nat
  cbarNo   : Nat
  failed   : List (Bool × Nat × Nat)
  deriving DecidableEq, Repr

/-- A message the package has sent: to its host or firmware, or over the fabric. -/
inductive Msg where
  /-- A read of a register window returned a value (22 R448). -/
  | register (val : DWord)
  /-- A command's completion (22 R453). -/
  | completion (status : Nat)
  /-- queue create answers the handle (16 R335). -/
  | handle (h : DWord)
  /-- attest answers its report and signature (22 R451). -/
  | report (bytes : List Byte)
  /-- A new fault record raises a fault event (04 R95). -/
  | faultEvent (pid : Nat) (block : DWord)
  /-- An isolation fault is reported to firmware (04 R77). -/
  | isolation (pid : Nat) (va : DWord)
  /-- A double fault, or a PREEMPTMAX expiry, notifies firmware (19 R399, R406). -/
  | firmware (pid : Nat) (code : Nat)
  /-- The thermal shutdown notifies the host (22 R454). -/
  | thermal
  /-- A host write into the carve-out completes with a link error (22 R449). -/
  | linkError
  /-- What a host read returned (22 R447). -/
  | hostRead (bytes : List Byte)
  /-- A packet on its way to a queue of any package (15 R330). -/
  | packet (m : PacketMsg)
  /-- An error record for another package's queue (15 R331). -/
  | bounce (m : PacketMsg) (status : Nat)
  /-- A remote write to a page whose forwarding entry is gone is refused with a status (16 R354). -/
  | refused (pa : Nat) (status : Nat)
  /-- A link-state message (17 R357). -/
  | link (l : LinkId) (up : Bool) (seq : BitVec 16)
  /-- This member has issued a collective of a kind, or joined a barrier, under a number (17 R372, R375). -/
  | joined (pid comm num : Nat) (kind : Option CollKind) (par : List Word)
  /-- This member has left, or has ended one collective or barrier instance (whether a barrier, and its number), with a status (17 R359,
  R373). -/
  | ended (pid comm : Nat) (one : Option (Bool × Nat)) (status : Nat)
  /-- A put sent to another member (17 R377). -/
  | put (rank : Nat) (p : RemotePut)
  /-- The acknowledgement of a put that arrived here (17 R378). -/
  | ack (ok : Bool) (status : Nat)
  /-- A chunk this member sent on a tree to some ranks (17 R361, R363): in stage 0 the value of its subtree, in stage 1 the result. -/
  | chunk (pid comm chunk : Nat) (stage : Bool) (tree : Nat) (ranks : List Nat) (val : List Int)
  /-- What this member tells the others in an agreement (17 R366): its table's version, the link-state messages behind it, and the chunks
  whose stage-1 mark is 3. -/
  | exchange (pid comm : Nat) (version : Word) (links : List (LinkId × Bool × BitVec 16)) (chunks : List Nat)
  /-- A scan record (19 R415). -/
  | scan (bytes : List Byte)
  /-- A write forwarded to a migrated partition's new home (16 R354). -/
  | forward (pa : Nat) (data : List Byte)
  deriving DecidableEq, Repr

/-- A translation or cache sweep under way (04 R86, R87, 22 R453): partition, one page's address, or all, or the caches;
the fragment that waits for it, if an instruction began it. -/
structure Sweep where
  id     : Nat
  pid    : Nat
  icache : Bool
  page   : Option DWord
  waiter : Option (Nat × Nat)
  deriving DecidableEq, Repr

/-- A step that a DSTEP has asked for (20 R435): the halted fragment, the fragment that waits, and where its status goes. -/
structure Stepping where
  fid    : Nat
  frag   : Nat
  byFid  : Nat
  byFrag : Nat
  dst    : Opnd
  deriving DecidableEq, Repr

/-- Snapshot registers of a unit (19 R414): four values and the cycle stamp. -/
structure Snap where
  r0    : DWord
  r1    : DWord
  r2    : DWord
  r3    : DWord
  stamp : DWord
  deriving DecidableEq, Repr

/-- A command that the host has written into a ring and that is not complete (22 R453): the ring, named by a partition whose HCMD rings
it, the row of the opcode table that serves it, and whether its sweep has begun. -/
structure Command where
  ring  : Nat
  instr : Instr
  begun : Bool
  deriving DecidableEq, Repr

/-- An event that waits for a tender core (16 R344): a QNOTIFY write of a queue, a hit of its monitor, a ring of commands that HCMD has
rung, a fault record of a partition's block, or an end or a step of a launch, graph, phase or queue, named by the row that handles it. -/
inductive Pending where
  | bell (q : Nat)
  | monitor (q : Nat)
  | ring (r : Nat)
  | record (pid block : Nat)
  | row (i : Instr)
  deriving DecidableEq, Repr

/-- What reaches the machine or happens in it beside the rows of the opcode table. -/
inductive Other where
  /-- Software writes QNOTIFY of a queue, and the device has not read it yet (16 R337). -/
  | bell (pid q : Nat) (widx : Word)
  /-- A tender core that is free takes one of the twelve oldest events and runs it to completion (16 R344). -/
  | tender (k : Nat)
  /-- The host reads a register of a window (22 R448). -/
  | readRegister (w : Window) (off : Nat)
  /-- An aligned part of an access of a store's or load's lane is performed before the rest: `k` counts the accesses of the lane, its
  primary first (04 R100, 11 R283). -/
  | part (fid op lane k part : Nat)
  /-- The host writes a command into a ring (22 R453). -/
  | command (ring : Nat) (i : Instr)
  /-- A register's lane of a counted result is written before the rest (06 R155). -/
  | land (fid id reg lane : Nat)
  /-- The instruction cache of a core takes up the word at a key (02 R39). -/
  | prefetch (core key : Nat)
  /-- A line of a core's load cache suffers a parity error (04 R99). -/
  | parityError (core line : Nat)
  /-- The next atomic performs only so many of its lanes at its issue (11 R263, log 13). -/
  | burst (lanes : Nat)
  /-- The destination of a migration removes a page's forwarding entry (16 R354). -/
  | forwardEnd (page : Nat)
  /-- A chunk's stage goes a step on at this member: its inputs have been received, or it has been forwarded (17 R364). -/
  | chunkStep (pid comm chunk : Nat) (stage : Bool) (peers : List (Nat × List Nat))
  /-- Another package has bounced a packet of this one (15 R331). -/
  | bounced (m : PacketMsg) (status : Nat)
  deriving DecidableEq, Repr

/-- Which agent moves next: a slot of a core issues, an event or command happens, something else does, or cycles pass. The
MODEL's own (log 1). -/
inductive Move where
  | slot (core slot : Nat)
  | ev (i : Instr)
  | other (o : Other)
  | idle (n : Nat)
  deriving DecidableEq, Repr

/-- The package. -/
structure State where
  /-- The dies' arithmetic-clock cycle count (06 R160). -/
  cycle    : Nat
  /-- The moves to come: the MODEL's own (log 1). -/
  agenda   : List Move
  /-- Free values drawn so far: the MODEL's own (log 3). -/
  free     : Nat
  /-- The next internal name: the MODEL's own (log 1). -/
  nextId   : Nat
  /-- The issuing flight and fragment: the MODEL's own (log 1). -/
  cur      : Nat × Nat
  /-- Memory and the scratch slices (04 R75, 05 R105; log 4). -/
  mem      : List Host.Cell
  /-- Stretches whose bytes hold undefined values (05 R107, R119, R132): first key, end and the draw they are named by. -/
  undef    : List (Nat × Nat × Nat)
  /-- Full granules, as keys div 16 (05 R110). -/
  full     : List Nat
  /-- 32-byte units that hold an uncorrectable error, as keys div 32 (04 R97). -/
  poison   : List Nat
  /-- Cores, keyed die * 48 + core. -/
  cores    : Cells Core
  /-- The dies' TLBs (04 R83). -/
  dieTlb   : Cells (List TlbEntry)
  /-- The Bridle engine's translations (04 R86). -/
  bridTlb  : List TlbEntry
  /-- Accumulator tiles, keyed core * 128 + tile. -/
  tiles    : Cells Tile
  /-- Partitions 0-31. -/
  parts    : Cells Part
  /-- Launches, keyed pid * 2^32 + identifier (15 R311). -/
  launches : Cells Launch
  /-- Placed gangs. -/
  gangs    : Cells Gang
  /-- Flights of placed gangs. -/
  flights  : Cells Flight
  /-- Copy engines, keyed die * 8 + engine. -/
  engines  : Cells Engine
  /-- What engine operations touch until they are reported (05 R132, R133). -/
  work     : List Work
  /-- Queues by number (16 R335). -/
  queues   : Cells Queue
  /-- Queue generations (15 R328). -/
  qgen     : Cells Nat
  /-- Graphs (15 R323). -/
  graphs   : Cells Graph
  /-- Phases (15 R323). -/
  phases   : Cells Phase
  /-- Global dispatcher lists: latency, then priorities 0-3, of launch keys (16 R348). -/
  global   : List (List Nat)
  /-- Die dispatchers 0-3. -/
  dies     : Cells DieDisp
  /-- Communicators, keyed pid * 256 + number (17 R358). -/
  comms    : Cells Comm
  /-- This package's number in the pod (17 R355). -/
  package  : Nat
  /-- The live link table, of links that differ from up at sequence 0 (17 R357). -/
  links    : List (LinkId × Bool × BitVec 16)
  /-- Link-state messages applied (19 R414). -/
  linkMsgs : Nat
  /-- Sweeps under way (04 R86). -/
  sweeps   : List Sweep
  /-- Steps asked for (20 R435). -/
  steps    : List Stepping
  /-- Signal pages with a forwarding entry, as keys (16 R354). -/
  forwards : List Nat
  /-- Signal pages whose forwarding entry has been removed, as keys (16 R354). -/
  moved    : List Nat
  /-- Events that wait for a tender core, oldest first (16 R344). -/
  events   : List Pending
  /-- Commands in the host's rings, oldest first (22 R453). -/
  commands : List Command
  /-- The lanes that the next atomic performs at its issue; none for all of them: the MODEL's own (log 13). -/
  burst    : Option Nat
  /-- Snapshot registers by unit: core c at c, engine e at 256 + e, contraction unit c at 512 + c, the Bridle engine at
  1024, dispatcher d at 1025 + d (19 R414). -/
  snaps    : Cells Snap
  /-- BOOTCTL (22 R449). -/
  bootctl  : DWord
  /-- The measurement of the verified image (22 R449). -/
  measured : BitVec 256
  /-- PWRCTL.tmax, pnow, thr and plim (22 R454). -/
  tmax     : BitVec 16
  pnow     : BitVec 16
  thr      : Bool
  plim     : BitVec 12
  /-- Messages sent. -/
  outbox   : List Msg
  deriving DecidableEq, Repr

/-- The reasons the machine stops with a fault. -/
inductive Fault where
  /-- An instruction word is executed where no fragment issues: raised by every meaning of an instruction word. Safe: on
  the machine an instruction word is issued by a fragment (02 R39). -/
  | noIssuer
  deriving DecidableEq, Repr

/-- The reasons an instruction has no meaning. -/
inductive Refusal where
  /-- The instruction is not modelled yet: raised by `exec`'s refused arms alone. Safe: nothing is claimed of it. -/
  | notModelled (mnemonic : String)
  deriving DecidableEq, Repr

/-- A flight's trap set at its start (19 R391, R393, R394). -/
def TrapSet.start : TrapSet :=
  { cause := 0, pc := 0, region := 0, mask := 0, em := 0, addr := 0, seq := 0, cpc := 0, rpc := 0, te := true,
    rmask := 0, kept := none, skip := false, ss := [], vt := [], sch := [] }

/-- A core after reset: caches empty (log 6), beacons zero (20 R420), trace and sampler registers as their tables say. -/
def Core.reset : Core :=
  { lcache := [], parity := [], icache := [], tlb := [], bcn := [], trcctl := 0, trcfilt := 0, trchead := 0, trcLast := 0, trcN := 0,
    trcDrop := none, smpctl := 0x40, smphead := 0, smpPos := [], slots := [] }

/-- A tile after reset: +0.0 (log 8), generation 0 (09 R227). -/
def Tile.reset : Tile :=
  { elems := [], gen := 0, owner := none, aside := none, insts := [], deps := [], folds := [], todo := [] }

/-- The machine right after reset. -/
def State.reset : State :=
  { cycle := 0, agenda := [], free := 0, nextId := 0, cur := (0, 0), mem := [], undef := [], full := [], poison := [], cores := [],
    dieTlb := [], bridTlb := [], tiles := [], parts := [], launches := [], gangs := [], flights := [], engines := [],
    work := [], queues := [], qgen := [], graphs := [], phases := [], global := [[], [], [], [], []], dies := [], comms := [],
    package := 0, links := [], linkMsgs := 0, sweeps := [], steps := [], forwards := [], moved := [], events := [], commands := [],
    burst := none, snaps := [], bootctl := 0, measured := 0,
    tmax := Config.tmax 0, pnow := Config.pnow 0, thr := false, plim := 2800, outbox := [] }

end Sys2Proof.Machine
end

