-- ==== Sys2Proof/Machine/Cells.lean ====
section
/-!
DEFINITION. Finite maps and sets of numbers as rising lists, and the byte-order helpers over lists of bytes (00 R1).
-/
namespace Sys2Proof.Machine

/-- The value at a key. -/
def mget? {β : Type} : Cells β → Nat → Option β
  | [], _ => none
  | (k, v) :: r, n => if k = n then some v else mget? r n

/-- The value at a key, or a default. -/
def mgetD {β : Type} (m : Cells β) (n : Nat) (d : β) : β := (mget? m n).getD d

/-- Put a value at a key, keeping the keys rising. -/
def mset {β : Type} : Cells β → Nat → β → Cells β
  | [], n, b => [(n, b)]
  | (k, v) :: r, n, b =>
    if n < k then (n, b) :: (k, v) :: r else if n = k then (n, b) :: r else (k, v) :: mset r n b

/-- Remove a key. -/
def mdel {β : Type} : Cells β → Nat → Cells β
  | [], _ => []
  | (k, v) :: r, n => if k = n then mdel r n else (k, v) :: mdel r n

/-- Put a value at a key in a map whose unlisted keys read as `d`: writing `d` removes the entry. -/
def mput {β : Type} [DecidableEq β] (d : β) (m : Cells β) (n : Nat) (b : β) : Cells β :=
  if b = d then mdel m n else mset m n b

/-- Change the value at a key, if there is one. -/
def mmod {β : Type} (m : Cells β) (n : Nat) (f : β → β) : Cells β :=
  match mget? m n with
  | some v => mset m n (f v)
  | none => m

/-- Change every value. -/
def mmap {β : Type} (m : Cells β) (f : Nat → β → β) : Cells β := m.map fun x => (x.1, f x.1 x.2)

/-- The keys rise strictly. -/
def mSorted {β : Type} : Cells β → Bool
  | [] => true
  | [_] => true
  | (a, _) :: (b, y) :: r => decide (a < b) && mSorted ((b, y) :: r)

/-- Add a number to a rising set. -/
def sAdd : List Nat → Nat → List Nat
  | [], n => [n]
  | k :: r, n => if n < k then n :: k :: r else if n = k then k :: r else k :: sAdd r n

/-- Remove a number from a set. -/
def sDel (l : List Nat) (n : Nat) : List Nat := l.filter fun k => k != n

/-- Insert into a list ordered by a key, after the entries that do not exceed it. -/
def insBy {β : Type} (key : β → Nat) (x : β) : List β → List β
  | [] => [x]
  | y :: r => if key x < key y then x :: y :: r else y :: insBy key x r

/-- Order a list by a key. -/
def sortBy {β : Type} (key : β → Nat) (l : List β) : List β := l.foldl (fun acc x => insBy key x acc) []

/-- The first element with the least key. -/
def leastBy {β : Type} (key : β → Nat) : List β → Option β
  | [] => none
  | x :: r =>
    match leastBy key r with
    | none => some x
    | some y => if key y < key x then some y else some x

/-- The number whose bytes, lowest first, are given (00 R1). -/
def natOfBytes (bs : List Byte) : Nat := bs.foldr (fun b acc => b.toNat + 256 * acc) 0

/-- The lowest `n` bytes of a number, lowest first. -/
def bytesOfNat (n x : Nat) : List Byte := (List.range n).map fun i => BitVec.ofNat 8 (x / 256 ^ i)

/-- Bits [hi:lo] of a number. -/
def bitsOf (x hi lo : Nat) : Nat := x / 2 ^ lo % 2 ^ (hi + 1 - lo)

/-- Bit `i` of a number. -/
def bitOf (x i : Nat) : Bool := x / 2 ^ i % 2 == 1

/-- A field of a byte string: `n` bytes from offset `o`, as a number. -/
def fieldOf (bs : List Byte) (o n : Nat) : Nat := natOfBytes ((bs.drop o).take n)

/-- Every byte of a stretch is zero. -/
def zerosAt (bs : List Byte) (o n : Nat) : Bool := ((bs.drop o).take n).all fun b => b == 0

/-- A 64-bit number from a natural. -/
def dw (n : Nat) : DWord := BitVec.ofNat 64 n

/-- A 32-bit number from a natural. -/
def w32 (n : Nat) : Word := BitVec.ofNat 32 n

/-- A mask that holds the lanes of which a condition is true. -/
def lanesOf (p : Nat → Bool) : Lanes :=
  BitVec.ofNat 96 ((List.range 96).foldr (fun l acc => (if p l then 1 else 0) + 2 * acc) 0)

/-- Every lane. -/
def allLanes : Lanes := BitVec.allOnes 96

/-- The lowest lane of a mask. -/
def lowestLane (m : Lanes) : Option Nat := m.list.head?

/-- The mask is a subset of another. -/
def subLanes (a b : Lanes) : Bool := a &&& b == a

end Sys2Proof.Machine
end

