-- ==== Sys2Proof/Machine/Float.lean ====
section
/-!
DEFINITION. Number formats to the bit (07): the IEEE-style formats, exact values, rounding with its flags, the arithmetic of
08 R209-R217, the canonical tree (00 R5), FX64 (07 R193-R195) and the special functions (08 R218, R219).
-/
namespace Sys2Proof.Machine

/-- A format of 07 R178: fraction bits and exponent bits. -/
structure Fmt where
  p  : Nat
  eb : Nat
  deriving DecidableEq, Repr

/-- f32. -/
def f32 : Fmt := ⟨23, 8⟩
/-- f16. -/
def f16 : Fmt := ⟨10, 5⟩
/-- bf16. -/
def bf16 : Fmt := ⟨7, 8⟩
/-- f64. -/
def f64 : Fmt := ⟨52, 11⟩

/-- The bias of a format. -/
def Fmt.bias (f : Fmt) : Nat := 2 ^ (f.eb - 1) - 1
/-- The exponent field of infinities and NaNs. -/
def Fmt.emax (f : Fmt) : Nat := 2 ^ f.eb - 1
/-- The sign bit's weight. -/
def Fmt.sign (f : Fmt) : Nat := 2 ^ (f.p + f.eb)
/-- The canonical NaN (07 R180). -/
def Fmt.nan (f : Fmt) : Nat := f.emax * 2 ^ f.p + 2 ^ (f.p - 1)
/-- Infinity of a sign. -/
def Fmt.inf (f : Fmt) (neg : Bool) : Nat := f.emax * 2 ^ f.p + (if neg then f.sign else 0)
/-- The largest finite value of a sign. -/
def Fmt.maxFin (f : Fmt) (neg : Bool) : Nat := f.emax * 2 ^ f.p - 1 + (if neg then f.sign else 0)
/-- Zero of a sign. -/
def Fmt.zero (f : Fmt) (neg : Bool) : Nat := if neg then f.sign else 0

/-- An exact value: NaN, an infinity, or ±m × 2^e. -/
inductive FVal where
  | nan
  | inf (neg : Bool)
  | fin (neg : Bool) (m : Nat) (e : Int)
  deriving DecidableEq, Repr

/-- The value of a bit pattern (07 R178). -/
def Fmt.val (f : Fmt) (x : Nat) : FVal :=
  let neg := x / f.sign % 2 == 1
  let e := x / 2 ^ f.p % 2 ^ f.eb
  let m := x % 2 ^ f.p
  if e == f.emax then (if m == 0 then .inf neg else .nan)
  else if e == 0 then .fin neg m (1 - (f.bias : Int) - f.p)
  else .fin neg (m + 2 ^ f.p) ((e : Int) - f.bias - f.p)

/-- Flag bits, laid out as FPFLAGS (07 R186). -/
def fNv : Nat := 1
/-- Overflow. -/
def fOf : Nat := 2
/-- Underflow. -/
def fUf : Nat := 4
/-- Inexact. -/
def fNx : Nat := 8

/-- Bits of a result and the flags it raises. -/
abbrev FRes := Nat × Nat

/-- The rounding modes as FPMODE codes them (07 R184): 0 rne, 1 rtz, 2 rup, 3 rdn. -/
def rmCode2 (dyn : Nat) : Rm → Nat
  | .dyn => dyn | .rne => 0 | .rtz => 1 | .rup => 2 | .rdn => 3

/-- The number of significant bits of a number. -/
def bitLen (n : Nat) : Nat := if n == 0 then 0 else Nat.log2 n + 1

/-- num × 2^k / den as a quotient with its remainder and divisor. -/
def scaleDiv (num den : Nat) (k : Int) : Nat × Nat × Nat :=
  let n := if 0 ≤ k then num * 2 ^ k.toNat else num
  let d := if 0 ≤ k then den else den * 2 ^ (-k).toNat
  (n / d, n % d, d)

/-- Round a quotient with remainder r of divisor d to an integer (07 R182). -/
def roundQ (mode : Nat) (neg : Bool) (q r d : Nat) : Nat :=
  let up :=
    match mode with
    | 0 => d < 2 * r || (d == 2 * r && q % 2 == 1)
    | 1 => false
    | 2 => !neg && r != 0
    | _ => neg && r != 0
  if up then q + 1 else q

/-- The exponent of the leading bit of num / den × 2^e. -/
def leadExp (num den : Nat) (e : Int) : Int :=
  let l : Int := (bitLen num : Int) - bitLen den
  (if (scaleDiv num den (-l)).1 == 0 then l - 1 else l) + e

/-- Round the nonzero exact value ±num / den × 2^e to a format, with its flags (07 R182, R185). -/
def roundTo (f : Fmt) (mode : Nat) (neg : Bool) (num den : Nat) (e : Int) : FRes :=
  let sgn := if neg then f.sign else 0
  let t := leadExp num den e
  let emin : Int := 1 - (f.bias : Int)
  let q0 := t - f.p
  let qe := max q0 (emin - f.p)
  let (q, r, d) := scaleDiv num den (e - qe)
  let n := roundQ mode neg q r d
  let bits := ((qe + f.p + f.bias).toNat - 1) * 2 ^ f.p + n
  if f.emax * 2 ^ f.p ≤ bits then
    let res :=
      match mode with
      | 0 => f.inf neg
      | 1 => f.maxFin neg
      | 2 => if neg then f.maxFin neg else f.inf neg
      | _ => if neg then f.inf neg else f.maxFin neg
    (res, fOf + fNx)
  else if r == 0 then (bits + sgn, 0)
  else
    let tiny :=
      if emin ≤ t then false
      else
        let (q', r', d') := scaleDiv num den (e - q0)
        !(t + 1 == emin && roundQ mode neg q' r' d' == 2 ^ (f.p + 1))
    (bits + sgn, fNx + (if tiny then fUf else 0))

/-- Round an exact value to a format; a zero keeps its sign (07 R180, R182). -/
def roundVal (f : Fmt) (mode : Nat) : FVal → FRes
  | .nan => (f.nan, 0)
  | .inf neg => (f.inf neg, 0)
  | .fin neg m e => if m == 0 then (f.zero neg, 0) else roundTo f mode neg m 1 e

/-- The sum of two exact values rounded once (07 R182, 08 R209). -/
def fAdd (f : Fmt) (mode : Nat) (a b : FVal) : FRes :=
  match a, b with
  | .nan, _ => (f.nan, 0)
  | _, .nan => (f.nan, 0)
  | .inf x, .inf y => if x == y then (f.inf x, 0) else (f.nan, fNv)
  | .inf x, _ => (f.inf x, 0)
  | _, .inf y => (f.inf y, 0)
  | .fin x m e, .fin y n g =>
    let lo := min e g
    let av : Int := (m * 2 ^ (e - lo).toNat : Nat)
    let bv : Int := (n * 2 ^ (g - lo).toNat : Nat)
    let sum := (if x then -av else av) + (if y then -bv else bv)
    if sum == 0 then (f.zero (if x == y then x else mode == 3), 0)
    else roundTo f mode (decide (sum < 0)) sum.natAbs 1 lo

/-- The negation of a value. -/
def FVal.neg : FVal → FVal
  | .nan => .nan
  | .inf x => .inf (!x)
  | .fin x m e => .fin (!x) m e

/-- The exact product of two values; none for 0 × ∞ (08 R209). -/
def fProd (a b : FVal) : Option FVal :=
  match a, b with
  | .nan, _ => some .nan
  | _, .nan => some .nan
  | .inf x, .inf y => some (.inf (x != y))
  | .inf x, .fin y n _ => if n == 0 then none else some (.inf (x != y))
  | .fin x m _, .inf y => if m == 0 then none else some (.inf (x != y))
  | .fin x m e, .fin y n g => some (.fin (x != y) (m * n) (e + g))

/-- Multiply, rounding once. -/
def fMul (f : Fmt) (mode : Nat) (a b : FVal) : FRes :=
  match fProd a b with
  | none => (f.nan, fNv)
  | some v => roundVal f mode v

/-- Multiply and add with one rounding; 0 × ∞ raises nv even when the addend is a NaN (08 R209). -/
def fMa (f : Fmt) (mode : Nat) (a b c : FVal) : FRes :=
  match fProd a b with
  | none => (f.nan, fNv)
  | some v => fAdd f mode v c

/-- Divide, rounding once (07 R185). -/
def fDiv (f : Fmt) (mode : Nat) (a b : FVal) : FRes :=
  match a, b with
  | .nan, _ => (f.nan, 0)
  | _, .nan => (f.nan, 0)
  | .inf _, .inf _ => (f.nan, fNv)
  | .inf x, .fin y _ _ => (f.inf (x != y), 0)
  | .fin x _ _, .inf y => (f.zero (x != y), 0)
  | .fin x m e, .fin y n g =>
    if n == 0 then (if m == 0 then (f.nan, fNv) else (f.inf (x != y), 0))
    else if m == 0 then (f.zero (x != y), 0)
    else roundTo f mode (x != y) m n (e - g)

/-- Compare two finite or infinite values: −1, 0 or 1 as an integer; −0 equals +0. -/
def fCmpVal (a b : FVal) : Int :=
  let rank : FVal → Int := fun v => match v with | .inf true => -1 | .inf false => 1 | _ => 0
  match a, b with
  | .fin x m e, .fin y n g =>
    let lo := min e g
    let av : Int := (m * 2 ^ (e - lo).toNat : Nat)
    let bv : Int := (n * 2 ^ (g - lo).toNat : Nat)
    ((if x then -av else av) - (if y then -bv else bv)).sign
  | a, b => (rank a - rank b).sign

/-- A value is a NaN. -/
def FVal.isNan : FVal → Bool
  | .nan => true
  | _ => false

/-- The sign of a value. -/
def FVal.sgn : FVal → Bool
  | .nan => false
  | .inf x => x
  | .fin x _ _ => x

/-- The smaller or the larger of two patterns (08 R210): −0 lies below +0, a NaN loses to a number. -/
def fMinMax (f : Fmt) (mx : Bool) (x y : Nat) : Nat :=
  let a := f.val x
  let b := f.val y
  if a.isNan then (if b.isNan then f.nan else y)
  else if b.isNan then x
  else
    let c := fCmpVal a b
    let le := c < 0 || (c == 0 && (a.sgn || !b.sgn))
    if mx then (if le then y else x) else (if le then x else y)

/-- The comparisons of 08 R212. -/
def fCond (c : FCond) (a b : FVal) : Bool :=
  let un := a.isNan || b.isNan
  match c with
  | .uno => un
  | .ord => !un
  | .eq => !un && fCmpVal a b == 0
  | .ne => un || fCmpVal a b != 0
  | .lt => !un && fCmpVal a b < 0
  | .le => !un && fCmpVal a b ≤ 0
  | .gt => !un && 0 < fCmpVal a b
  | .ge => !un && 0 ≤ fCmpVal a b

/-- The class word of 08 R213. -/
def fClass (f : Fmt) (x : Nat) : Nat :=
  let e := x / 2 ^ f.p % 2 ^ f.eb
  match f.val x with
  | .nan => 256
  | .inf neg => if neg then 1 else 128
  | .fin neg m _ =>
    if m == 0 then (if neg then 8 else 16)
    else if e == 0 then (if neg then 4 else 32)
    else if neg then 2 else 64

/-- Round to an integral value in the same format (08 R214). -/
def fRnd (f : Fmt) (mode : Nat) (x : Nat) : FRes :=
  match f.val x with
  | .nan => (f.nan, 0)
  | .inf neg => (f.inf neg, 0)
  | .fin neg m e =>
    if m == 0 || 0 ≤ e then (x % (2 * f.sign), 0)
    else
      let (q, r, d) := scaleDiv m 1 e
      let n := roundQ mode neg q r d
      ((if n == 0 then f.zero neg else (roundTo f mode neg n 1 0).1), if r == 0 then 0 else fNx)

/-- Multiply by 2^n, rounding once (08 R215). -/
def fScl (f : Fmt) (mode : Nat) (x : Nat) (n : Int) : FRes :=
  match f.val x with
  | .nan => (f.nan, 0)
  | .inf neg => (f.inf neg, 0)
  | .fin neg m e => if m == 0 then (f.zero neg, 0) else roundTo f mode neg m 1 (e + max (-40000) (min 40000 n))

/-- Round an exact value to an integer in [lo, hi], saturating (08 R216): value and flags. -/
def toInt (mode : Nat) (lo hi : Int) : FVal → Int × Nat
  | .nan => (0, fNv)
  | .inf neg => (if neg then lo else hi, fNv)
  | .fin neg m e =>
    let big := 300 < e
    let (q, r, d) := scaleDiv m 1 (if big then 300 else if e < -40000 then -40000 else e)
    let n : Int := (roundQ mode neg q r d : Nat)
    let v := if neg then -n else n
    if v < lo then (lo, fNv) else if hi < v then (hi, fNv) else (v, if r == 0 then 0 else fNx)

/-- An integer as an exact value. -/
def ofInt (x : Int) (e : Int) : FVal := .fin (decide (x < 0)) x.natAbs e

/-- Add two f32 words under rne (00 R5). -/
def add32 (a b : Word) : Word × Nat :=
  let r := fAdd f32 0 (f32.val a.toNat) (f32.val b.toNat)
  (w32 r.1, r.2)

/-- One level of the canonical tree (00 R5): adjacent pairs are added, an odd last entry is carried. -/
def treeLevel : List Word → List Word × Nat
  | a :: b :: r =>
    let (s, f) := add32 a b
    let (t, g) := treeLevel r
    (s :: t, f ||| g)
  | l => (l, 0)

/-- The canonical tree over a list, with the flags of its nodes (00 R5). -/
def treeFuel : Nat → List Word → Word × Nat
  | 0, l => (l.headD 0, 0)
  | n + 1, l =>
    match l with
    | [] => (0, 0)
    | [a] => (a, 0)
    | l =>
      let (t, f) := treeLevel l
      let (s, g) := treeFuel n t
      (s, f ||| g)

/-- tree_sum(x, n) (00 R5). -/
def treeSum (l : List Word) : Word × Nat := treeFuel l.length l

/-- Convert an f32 pattern to FX64, always rne (07 R195). -/
def toFx (x : Nat) : DWord × Nat :=
  match f32.val x with
  | .fin neg m e =>
    let r := toInt 0 (-(2 ^ 63)) (2 ^ 63 - 1) (.fin neg m (e + 32))
    (BitVec.ofInt 64 r.1, r.2)
  | v => let r := toInt 0 (-(2 ^ 63)) (2 ^ 63 - 1) v; (BitVec.ofInt 64 r.1, r.2)

/-! ### Special functions (08 R218, R219)

Irrational results are computed to more than 200 bits past the result's precision and rounded once (log 15). -/

/-- Fraction bits of the fixed-point arithmetic. -/
def fxN : Nat := 704
/-- π × 2^704. -/
def fxPi : Nat := 0x3243F6A8885A308D313198A2E03707344A4093822299F31D0082EFA98EC4E6C89452821E638D01377BE5466CF34E90C6CC0AC29B7C97C50DD3F84D5B5B54709179216D5D98979FB1BD1310BA698DFB5AC2FFD72DBD01ADFB7
/-- ln 2 × 2^704. -/
def fxLn2 : Nat := 0xB17217F7D1CF79ABC9E3B39803F2F6AF40F343267298B62D8A0D175B8BAAFA2BE7B876206DEBAC98559552FB4AFA1B10ED2EAE35C138214427573B291169B8253E96CA16224AE8C51ACBDA11317C387EB9EA9BC3B136603B

/-- Σ y^j / j! from a term on, in fixed point. -/
def expSeries (y : Nat) : Nat → Nat → Nat → Nat
  | 0, _, acc => acc
  | n + 1, t, acc => expSeries y n (t * y / ((161 - (n + 1)) * 2 ^ fxN)) (acc + t)

/-- e^y for a fixed-point y below 1. -/
def fxExp (y : Nat) : Nat := expSeries y 160 (2 ^ fxN) 0

/-- The alternating series of sine from a term on: terms of even index add, of odd index subtract. -/
def sinSeries (y2 : Nat) : Nat → Nat → Nat → Int → Int
  | 0, _, _, acc => acc
  | n + 1, k, t, acc =>
    let acc := if k % 2 == 0 then acc + (t : Int) else acc - (t : Int)
    sinSeries y2 n (k + 1) (t * y2 / ((2 * k + 2) * (2 * k + 3) * 2 ^ fxN)) acc

/-- sin y for a fixed-point y in [0, π/2]. -/
def fxSin (y : Nat) : Nat := (sinSeries (y * y / 2 ^ fxN) 100 0 y 0).toNat

/-- The fraction bits of log2 of a fixed-point z in [1, 2), one squaring a bit. -/
def log2Bits : Nat → Nat → Nat → Nat
  | 0, _, acc => acc
  | n + 1, z, acc =>
    let y := z * z / 2 ^ fxN
    if 2 ^ (fxN + 1) ≤ y then log2Bits n (y / 2) (2 * acc + 1) else log2Bits n y (2 * acc)

/-- The integer square root by bits from `n` down. -/
def isqrtBits (x : Nat) : Nat → Nat → Nat
  | 0, r => r
  | n + 1, r => let c := r + 2 ^ n; isqrtBits x n (if c * c ≤ x then c else r)

/-- The integer square root. -/
def isqrt (x : Nat) : Nat := isqrtBits x (bitLen x / 2 + 1) 0

/-- Round an inexact positive fixed-point magnitude q / 2^n × 2^e. -/
def roundApprox (f : Fmt) (neg : Bool) (q n : Nat) (e : Int) : FRes := roundTo f 0 neg (2 * q + 1) (2 ^ (n + 1)) e

/-- √(num / den × 2^e) rounded, exactly when it is exact. -/
def roundSqrt (f : Fmt) (num den : Nat) (e : Int) : FRes :=
  let e1 := e - e % 2
  let n1 := if e % 2 == 0 then num else 2 * num
  let x := n1 * 2 ^ 800 / den
  let r := isqrt x
  if r * r * den == n1 * 2 ^ 800 then roundTo f 0 false r 1 (e1 / 2 - 400)
  else roundApprox f false r 400 (e1 / 2)

/-- VRCP. -/
def sRcp (f : Fmt) : FVal → FRes
  | .nan => (f.nan, 0)
  | .inf neg => (f.zero neg, 0)
  | .fin neg m e => if m == 0 then (f.inf neg, 0) else roundTo f 0 neg 1 m (-e)

/-- VRSQ. -/
def sRsq (f : Fmt) : FVal → FRes
  | .nan => (f.nan, 0)
  | .inf neg => if neg then (f.nan, fNv) else (f.zero false, 0)
  | .fin neg m e =>
    if m == 0 then (f.inf neg, 0) else if neg then (f.nan, fNv) else roundSqrt f 1 m (-e)

/-- VSQRT. -/
def sSqrt (f : Fmt) : FVal → FRes
  | .nan => (f.nan, 0)
  | .inf neg => if neg then (f.nan, fNv) else (f.inf false, 0)
  | .fin neg m e =>
    if m == 0 then (f.zero neg, 0) else if neg then (f.nan, fNv) else roundSqrt f m 1 e

/-- VEXP2. -/
def sExp2 (f : Fmt) : FVal → FRes
  | .nan => (f.nan, 0)
  | .inf neg => if neg then (f.zero false, 0) else (f.inf false, 0)
  | .fin neg m e =>
    if m == 0 then roundTo f 0 false 1 1 0
    else if 20 < (bitLen m : Int) + e then roundTo f 0 false 3 1 (if neg then -40000 else 40000)
    else
      let x : Int := if 0 ≤ e then ((m * 2 ^ (fxN + e.toNat) : Nat) : Int) else ((m * 2 ^ fxN / 2 ^ (-e).toNat : Nat) : Int)
      let v := if neg then -x else x
      let k := v / (2 ^ fxN : Nat)
      let fr := (v % (2 ^ fxN : Nat)).toNat
      if fr == 0 then roundTo f 0 false 1 1 k
      else roundApprox f false (fxExp (fr * fxLn2 / 2 ^ fxN)) fxN k

/-- VLOG2. -/
def sLog2 (f : Fmt) : FVal → FRes
  | .nan => (f.nan, 0)
  | .inf neg => if neg then (f.nan, fNv) else (f.inf false, 0)
  | .fin neg m e =>
    if m == 0 then (f.inf true, 0)
    else if neg then (f.nan, fNv)
    else
      let l := bitLen m - 1
      let k : Int := e + l
      let z := m * 2 ^ fxN / 2 ^ l
      if z == 2 ^ fxN then (if k == 0 then (f.zero false, 0) else roundVal f 0 (ofInt k 0))
      else
        let fr := 2 * log2Bits 300 z 0 + 1
        let v : Int := k * (2 ^ 301 : Nat) + (fr : Int)
        roundTo f 0 (decide (v < 0)) v.natAbs (2 ^ 301) 0

/-- sin(πt) for t = a / 2^n in [0, 1/2], not 0 or 1/2. -/
def sinPiFrac (f : Fmt) (neg : Bool) (a n : Nat) : FRes := roundApprox f neg (fxSin (a * fxPi / 2 ^ n)) fxN 0

/-- sin(π u / 2^n) for u reduced modulo 2, with `neg` the sign so far; zero takes the given sign (08 R219). -/
def sinPiRed (f : Fmt) (neg zneg : Bool) (u n : Nat) : FRes :=
  let one := 2 ^ n
  let u := u % (2 * one)
  let neg := if one ≤ u then !neg else neg
  let u := u % one
  let u := if one < 2 * u then one - u else u
  if u == 0 then (f.zero zneg, 0)
  else if 2 * u == one then roundTo f 0 neg 1 1 0
  else sinPiFrac f neg u n

/-- VSINPI. -/
def sSinPi (f : Fmt) : FVal → FRes
  | .nan => (f.nan, 0)
  | .inf _ => (f.nan, fNv)
  | .fin neg m e =>
    if m == 0 || 0 ≤ e then (f.zero neg, 0)
    else sinPiRed f neg neg (2 * m) ((-e).toNat + 1)

/-- VCOSPI: cos(πx) = sin(π(x + 1/2)), and cosine is even. -/
def sCosPi (f : Fmt) : FVal → FRes
  | .nan => (f.nan, 0)
  | .inf _ => (f.nan, fNv)
  | .fin _ m e =>
    if 0 ≤ e then roundTo f 0 (e == 0 && m % 2 == 1) 1 1 0
    else
      let n := (-e).toNat + 1
      sinPiRed f false false (2 * m + 2 ^ (n - 1)) n

/-- VTANH. -/
def sTanh (f : Fmt) : FVal → FRes
  | .nan => (f.nan, 0)
  | .inf neg => roundTo f 0 neg 1 1 0
  | .fin neg m e =>
    if m == 0 then (f.zero neg, 0)
    else
      let t := (bitLen m : Int) + e
      if t < -14 then roundTo f 0 neg (m * 2 ^ 200 - 1) 1 (e - 200)
      else if 4 < t then roundTo f 0 neg (2 ^ 200 - 1) (2 ^ 200) 0
      else
        let y := if 0 ≤ e + 1 then m * 2 ^ (fxN + (e + 1).toNat) else m * 2 ^ fxN / 2 ^ (-(e + 1)).toNat
        let k := y / fxLn2
        let ex := fxExp (y % fxLn2) * 2 ^ k
        roundTo f 0 neg (2 * (ex - 2 ^ fxN) + 1) (2 * (ex + 2 ^ fxN)) 0

end Sys2Proof.Machine
end

