-- ==== Sys2Proof/Machine/Geometry.lean ====
section
/-!
DEFINITION. Where a copy command's elements lie and how each is converted (05 R127-R130, R135, R142). The elements are
numbered in the order of their destination addresses, which is an order that R128 allows.
-/
namespace Sys2Proof.Machine

/-- The pair of two parameter words. -/
def parPair (par : List Word) (k : Nat) : DWord := pairOf (par.getD k 0) (par.getD (k + 1) 0)

/-- A field of a parameter word. -/
def parBits (par : List Word) (k hi lo : Nat) : Nat := bitsOf (par.getD k 0).toNat hi lo

/-- The CPY parameter block (05 R127). -/
structure CopyGeo where
  src   : DWord
  dst   : DWord
  n0    : Nat
  n1    : Nat
  n2    : Nat
  pitch : Nat
  nofe  : Bool
  t     : Bool
  conv  : Nat
  esz   : Nat
  st1   : DWord
  st2   : DWord
  deriving DecidableEq, Repr

/-- Read the parameter block. -/
def geoOf (par : List Word) : CopyGeo :=
  { src := parPair par 0, dst := parPair par 2, n0 := parBits par 4 15 0 + 1, n1 := parBits par 4 31 16 + 1,
    n2 := parBits par 5 11 0 + 1, pitch := parBits par 5 31 20, nofe := bitOf (par.getD 5 0).toNat 19,
    t := bitOf (par.getD 5 0).toNat 18, conv := parBits par 5 17 15, esz := parBits par 5 14 12,
    st1 := (par.getD 6 0).signExtend 64, st2 := (par.getD 7 0).signExtend 64 }

/-- The size of an element in the destination. -/
def CopyGeo.dsz (g : CopyGeo) : Nat :=
  match g.conv with
  | 1 => 1 | 2 => 2 | 3 => 2 | 4 => 4 | 5 => 4
  | _ => 2 ^ g.esz

/-- The bytes of a dense destination row. -/
def CopyGeo.rowlen (g : CopyGeo) : Nat := (if g.t then g.n1 else g.n0) * g.dsz

/-- The destination row pitch. -/
def CopyGeo.p (g : CopyGeo) : Nat := if g.pitch == 0 then g.rowlen else g.pitch * 16

/-- The elements. -/
def CopyGeo.total (g : CopyGeo) : Nat := g.n0 * g.n1 * g.n2

/-- The indices (i0, i1, i2) of element `k`. -/
def CopyGeo.index (g : CopyGeo) (k : Nat) : Nat × Nat × Nat :=
  if g.t then (k / g.n1 % g.n0, k % g.n1, k / (g.n0 * g.n1)) else (k % g.n0, k / g.n0 % g.n1, k / (g.n0 * g.n1))

/-- The destination address of an element (05 R128). -/
def CopyGeo.dstAt (g : CopyGeo) (k : Nat) : DWord :=
  let (i0, i1, i2) := g.index k
  let plane := g.p * (if g.t then g.n0 else g.n1)
  g.dst + dw (i2 * plane) + (if g.t then dw (i0 * g.p) + dw (i1 * g.dsz) else dw (i1 * g.p) + dw (i0 * g.dsz))

/-- The stretches of source bytes an element is read from (05 R128, R129); `stream` is the diagnostic sub-byte mode. -/
def CopyGeo.srcAt (g : CopyGeo) (stream : Bool) (k : Nat) : List (DWord × Nat) :=
  let (i0, i1, i2) := g.index k
  let row := g.src + dw i2 * g.st2 + dw i1 * g.st1
  match g.esz with
  | 5 => [(row + dw (i0 / 2), 1)]
  | 6 =>
    if stream then [(row + dw (6 * i0 / 8), if 6 * i0 % 8 ≤ 2 then 1 else 2)]
    else
      let row := g.src + dw i1 * g.st1
      [(row + dw (i0 / 2), 1), (g.src + g.st2 + dw i1 * g.st1.sshiftRight 1 + dw (i0 / 4), 1)]
  | _ => [(row + dw (i0 * 2 ^ g.esz), 2 ^ g.esz)]

/-- A sub-byte element expanded to a byte: sign, selector, magnitude (05 R129). -/
def expandByte (sign sel mag : Nat) : Nat := sign * 128 + sel * 64 + mag

/-- The expanded byte of a sub-byte element from the bytes it was read from. -/
def CopyGeo.expand (g : CopyGeo) (stream : Bool) (k : Nat) (bs : List (List Byte)) : Nat :=
  let i0 := (g.index k).1
  let x (n : Nat) : Nat := natOfBytes (bs.getD n [])
  match g.esz with
  | 5 => let b := x 0 / 16 ^ (i0 % 2) % 16; expandByte (b / 8) (b / 4 % 2) (b % 4)
  | _ =>
    if stream then let b := x 0 / 2 ^ (6 * i0 % 8) % 64; expandByte (b / 32) (b / 16 % 2) (b % 16)
    else
      let m := x 0 / 16 ^ (i0 % 2) % 16
      let p := x 1 / 4 ^ (i0 % 4) % 4
      expandByte (p / 2) (p % 2) m

/-! ### Gather and scatter (05 R135) -/

/-- Chunks of 16 bytes in a row. -/
def rowChunks (par : List Word) : Nat := parBits par 6 31 16

/-- The rows. -/
def rowCount (par : List Word) : Nat := parBits par 6 15 0 + 1

/-- The address of list entry `j`. -/
def listAt (par : List Word) (j : Nat) : DWord := parPair par 4 + dw (4 * j)

/-- The table address of chunk `q` of row `x`. -/
def tableAt (base : DWord) (par : List Word) (x q : Nat) : DWord := base + dw (x * (par.getD 7 0).toNat + q * 16)

/-- The dense address of chunk `k`. -/
def denseAt (base : DWord) (k : Nat) : DWord := base + dw (16 * k)

/-! ### Units -/

/-- The bytes of one element as the engine counts its progress: an element, a chunk of 16 bytes, a record, or a row of an
ACCST. -/
def stepBytes (kind : CopyKind) (par : List Word) : Nat :=
  match kind with
  | .cpy => (geoOf par).dsz
  | .cpyb => (geoOf par).dsz
  | .cpyg => 16
  | .cpys => 16
  | .sqfill => 4
  | .accst => 4

/-- The bytes a command has moved. -/
def Cmd.moved (c : Cmd) : Nat := c.done * stepBytes c.kind c.par

end Sys2Proof.Machine
end

