-- ==== Sys2Proof/Machine/Mem.lean ====
section
/-!
DEFINITION. Memory: bytes and granules, the load cache (04 R99), translation (04 R78-R84), isolation (04 R77), fault
records (04 R93-R95), the journal (16 R346, R347) and the update of a barrier object (05 R117).
-/
namespace Sys2Proof.Machine

/-- What a byte that nothing has written reads as (log 4). -/
def unlisted : Byte := 0

/-- The memory is in its canonical form: addresses rise and no entry equals what an unlisted address reads as. -/
def memWf (m : List Host.Cell) : Bool := mSorted m && m.all fun c => c.2 != unlisted

/-- The stretch of undefined bytes that holds an address. -/
def undefAt (u : List (Nat × Nat × Nat)) (a : Nat) : Option Nat :=
  (u.find? fun r => r.1 ≤ a && a < r.2.1).map fun r => r.2.2

/-- Read one byte; an undefined one is free (05 R107). -/
def readByte (s : State) (a : Nat) : Byte :=
  match undefAt s.undef a with
  | some d => Config.freeByte (d * 2 ^ 60 + a)
  | none => mgetD s.mem a unlisted

/-- Read `n` bytes, lowest address first. -/
def readBytes (s : State) (a n : Nat) : List Byte := (List.range n).map fun i => readByte s (a + i)

/-- Read a little-endian number of `n` bytes. -/
def readNat (s : State) (a n : Nat) : Nat := natOfBytes (readBytes s a n)

/-- Write bytes into a memory, lowest address first. -/
def putBytes : List Host.Cell → Nat → List Byte → List Host.Cell
  | m, _, [] => m
  | m, a, b :: r => putBytes (mput unlisted m a b) (a + 1) r

/-- Take the addresses from `a` up to `z` out of one stretch. -/
def cutOne (a z : Nat) (r : Nat × Nat × Nat) : List (Nat × Nat × Nat) :=
  (if r.1 < min r.2.1 a then [(r.1, min r.2.1 a, r.2.2)] else []) ++
  (if max r.1 z < r.2.1 then [(max r.1 z, r.2.1, r.2.2)] else [])

/-- Take the addresses from `a` up to `z` out of the undefined stretches. -/
def cut (u : List (Nat × Nat × Nat)) (a z : Nat) : List (Nat × Nat × Nat) := (u.map (cutOne a z)).flatten

/-- Let the bytes from `a` up to `z` hold undefined values (05 R107). -/
def forget (s : State) (a z : Nat) : State :=
  { s with
    mem := s.mem.filter fun c => c.1 < a || z ≤ c.1, undef := (a, z, s.free) :: cut s.undef a z, free := s.free + 1 }

/-- A page with a forwarding entry holds the address (16 R354). -/
def forwarded (s : State) (a : Nat) : Bool := s.forwards.any fun p => p ≤ a && a < p + 65536

/-- What a write sends on: for every page with a forwarding entry that it reaches, the bytes that lie there (16 R354). -/
def forwardMsgs (ps : List Nat) (a : Nat) (bs : List Byte) : List Msg :=
  (ps.filter fun p => p < a + bs.length && a < p + 65536).map fun p =>
    .forward (max a p) ((bs.drop (max a p - a)).take (p + 65536 - max a p))

/-- The value at a wait packet's signal meets its condition (16 R338). -/
def waitMet (s : State) (b : List Byte) (k : Nat) : Bool :=
  let m := readNat s k 8
  let v := fieldOf b 0x10 8
  match fieldOf b 1 1 with
  | 0 => v ≤ m
  | 1 => m == v
  | _ => m != v

/-- The aligned 64-byte line of a blocked wait's signal has a byte among some written ones (16 R339). -/
def Queue.monitors (q : Queue) (a n : Nat) : Bool := q.line.any fun k => k / 64 * 64 < a + n && a < k / 64 * 64 + 64

/-- An event of an object waits for a tender; one that waits already merges (16 R344). -/
def addEvent (l : List Pending) (e : Pending) : List Pending := if l.contains e then l else l ++ [e]

/-- A write from `s` to `t` raises the monitors on its line (16 R339). -/
def alert (s t : State) (a n : Nat) : State :=
  if t.queues.any fun q => q.2.monitors a n then
    { t with
      queues := mmap t.queues fun _ q =>
        if q.monitors a n then
          { q with met := q.met || q.line.any fun k => waitMet s q.head k && waitMet t q.head k }
        else q
      events := (t.queues.filter fun q => q.2.monitors a n).foldl (fun l q => addEvent l (.monitor q.1)) t.events }
  else t

/-- Write bytes. What reaches a page with a forwarding entry is also forwarded (16 R354). -/
def writeBytes (s : State) (a : Nat) (bs : List Byte) : State :=
  alert s { s with
    mem := putBytes s.mem a bs, undef := cut s.undef a (a + bs.length), outbox := s.outbox ++ forwardMsgs s.forwards a bs } a bs.length

/-- Write a little-endian number of `n` bytes. -/
def writeNat (s : State) (a n x : Nat) : State := writeBytes s a (bytesOfNat n x)

/-- The key of a scratch byte (04 R79): core as die * 48 + core. -/
def scratchKey (core off : Nat) : Nat :=
  Config.scratchBase + core / 48 * 2 ^ 30 + core % 48 * 2 ^ 22 + off

/-- The key lies in a scratch slice. -/
def isScratch (a : Nat) : Bool := Config.scratchBase ≤ a

/-- The granule of the key is full (05 R110). -/
def isFull (s : State) (a : Nat) : Bool := s.full.contains (a / 16)

/-- Set the granule of the key full or empty (05 R110). -/
def setFull (s : State) (a : Nat) (f : Bool) : State :=
  { s with full := if f then sAdd s.full (a / 16) else sDel s.full (a / 16) }

/-- The 32-byte unit of the key holds an uncorrectable error (04 R97). -/
def poisoned (s : State) (a : Nat) : Bool := s.poison.contains (a / 32)

/-- Some unit of a stretch holds an uncorrectable error. -/
def poisonedIn (s : State) (a n : Nat) : Bool := s.poison.any fun u => u * 32 < a + n && a < u * 32 + 32

/-- The state of a core. -/
def core (s : State) (c : Nat) : Core := mgetD s.cores c Core.reset

/-- Change a core. -/
def modCore (s : State) (c : Nat) (f : Core → Core) : State := { s with cores := mset s.cores c (f (core s c)) }

/-- The cache line of a key. -/
def lineOf (a : Nat) : Nat := a / 128

/-! ### Doorbell pages (16 R335, R337) -/

/-- The write index that QNOTIFY of a queue holds, read by the device or not (16 R337). -/
def Queue.index (q : Queue) : Word := q.bell.getD q.widx

/-- QNOTIFY of a queue is written: one that the device has not read yet is replaced, and one event waits for a tender (16 R337,
R344). -/
def ring (s : State) (k : Nat) (w : Word) : State :=
  { s with queues := mmod s.queues k fun q => { q with bell := some w }, events := addEvent s.events (.bell k) }

/-- The key belongs to a doorbell page. -/
def isDoor (k : Nat) : Bool := Config.doorBase ≤ k

/-- Bits [63:55] of an address are all equal (04 R78). -/
def canonical (va : DWord) : Bool := va.toNat / 2 ^ 55 == 0 || va.toNat / 2 ^ 55 == 511

/-- The address lies in the scratch window (04 R79). -/
def inWindow (va : DWord) : Bool := va.toNat / 2 ^ 32 == 0x7F00

/-- The page where firmware has mapped the doorbell page of a queue: a page of canonical addresses outside the scratch window (16 R335,
log 65). -/
def doorPage (pid q : Nat) : DWord :=
  let a : DWord := Config.doorbell pid q &&& 0xFFFF_FFFF_FFFF_F000
  if canonical a && !inWindow a then a else 0

/-- The key of an address in the doorbell page of one of a partition's queues, which firmware maps for it (16 R335, log 65). -/
def doorKey (s : State) (pid : Nat) (va : DWord) : Option Nat :=
  (s.queues.find? fun q => q.2.pid == pid && (va - doorPage pid q.1).toNat < Config.doorBytes).map fun q =>
    Config.doorBase + q.1 * Config.doorBytes + (va - doorPage pid q.1).toNat

/-- Read a doorbell page: QNOTIFY at offset 0, and 0 elsewhere (16 R337). -/
def doorRead (s : State) (k n : Nat) : List Byte :=
  let r := bytesOfNat 8 ((mget? s.queues ((k - Config.doorBase) / Config.doorBytes)).elim 0 fun q => q.index.toNat)
  (List.range n).map fun i => r.getD ((k - Config.doorBase) % Config.doorBytes + i) 0

/-- Write a doorbell page: the bytes of widx that are written ring the queue, and any others are ignored (16 R337). -/
def doorWrite (s : State) (k : Nat) (bs : List Byte) : State :=
  let q := (k - Config.doorBase) / Config.doorBytes
  let o := (k - Config.doorBase) % Config.doorBytes
  match mget? s.queues q with
  | some x =>
    if o < 4 && !bs.isEmpty then
      ring s q (w32 (natOfBytes ((List.range 4).map fun i =>
        if o ≤ i && i < o + bs.length then bs.getD (i - o) 0 else (bytesOfNat 4 x.index.toNat).getD i 0)))
    else s
  | none => s

/-! ### The load cache (04 R99) -/

/-- Drop every line of a core's load cache (04 R99). -/
def dropCache (s : State) (c : Nat) : State :=
  if (core s c).lcache.isEmpty then s else modCore s c fun k => { k with lcache := [], parity := [] }

/-- Drop one line of a core's load cache (04 R99). -/
def dropLine (s : State) (c a : Nat) : State :=
  if (core s c).lcache.isEmpty then s
  else modCore s c fun k => { k with lcache := k.lcache.filter fun l => l.1 != lineOf a }

/-- Replace the bytes of a list from an offset. -/
def patch (l : List Byte) (o : Nat) (bs : List Byte) : List Byte := l.take o ++ bs ++ l.drop (o + bs.length)

/-- A core's own store updates a line it hits (04 R99). -/
def storeLine (s : State) (c a : Nat) (bs : List Byte) : State :=
  if (core s c).lcache.isEmpty then s
  else modCore s c fun k =>
    { k with lcache := k.lcache.map fun l => if l.1 == lineOf a then (l.1, patch l.2 (a % 128) bs) else l }

/-- A core's own stores of a stretch update every line they hit (04 R99). -/
def storeLines (s : State) (c a : Nat) (bs : List Byte) : State :=
  if (core s c).lcache.isEmpty then s
  else modCore s c fun k =>
    { k with
      lcache := k.lcache.map fun l => (l.1, (List.range l.2.length).map fun i =>
        let x := l.1 * 128 + i
        if a ≤ x && x < a + bs.length then bs.getD (x - a) 0 else l.2.getD i 0) }

/-- The line of a key that a core's load cache holds; one with a parity error counts as a miss (04 R99). -/
def hitLine (k : Core) (a : Nat) : Option (Nat × List Byte) :=
  if k.parity.contains (lineOf a) then none else k.lcache.find? fun l => l.1 == lineOf a

/-- Take a line up into a load cache, in the place of a copy with a parity error. -/
def fillLine (k : Core) (a : Nat) (bs : List Byte) : Core :=
  { k with
    lcache := ((lineOf a, bs) :: k.lcache.filter fun l => l.1 != lineOf a).take Config.lcacheLines
    parity := k.parity.filter (· != lineOf a) }

/-- The physical address lies in the host window, which the load cache never holds (22 R447). -/
def isHost (a : Nat) : Bool := Config.hostBase ≤ a && a < Config.scratchBase

/-- Read for an LD or SLD of a core (04 R99): through the load cache unless `raw`, allocating a line on a miss unless
`nt` or some unit of the line holds an error. -/
def cacheRead (s : State) (c : Nat) (raw nt : Bool) (a n : Nat) : List Byte × State :=
  if raw then (readBytes s a n, s)
  else
    match hitLine (core s c) a with
    | some l => ((l.2.drop (a % 128)).take n, s)
    | none =>
      let bs := readBytes s a n
      if nt || poisonedIn s (lineOf a * 128) 128 then (bs, s)
      else
        (bs, modCore s c fun k => fillLine k a (readBytes s (lineOf a * 128) 128))

/-- Where a byte of HBM4 lies (04 R76): channel group, stack, pseudo-channel of the stack, and byte of the pseudo-channel. -/
structure Place where
  group : Nat
  stack : Nat
  pc    : Nat
  addr  : Nat
  deriving DecidableEq, Repr

/-- The interleave of a physical address below 576 GiB (04 R76). -/
def placeOf (pa : Nat) : Place :=
  let g := pa / Config.groupBytes
  let o := pa % Config.groupBytes
  let j := o / 512
  ⟨g, j % 12, 6 * g + j / 12 % 6, j / 72 * 512 + o % 512⟩

/-- A partition. -/
def part? (s : State) (pid : Nat) : Option Part := mget? s.parts pid

/-- The core belongs to the partition (22 R452). -/
def ownsCore (s : State) (pid c : Nat) : Bool :=
  match part? s pid with
  | some p => c < 192 && p.desc.cores.getLsbD c
  | none => false

/-- The key of a window address used on behalf of a core (04 R79): none for a reserved core, a wrong die with core 63, an
offset outside the slice, or a core outside the partition. -/
def windowKey (s : State) (pid c : Nat) (va : DWord) : Option Nat :=
  let n := va.toNat
  let die := n / 2 ^ 30 % 4
  let k := n / 2 ^ 22 % 256
  let off := n % 2 ^ 22
  let tgt := if k == 63 then c else die * 48 + k
  if (k == 63 && die != c / 48) || (k != 63 && 48 ≤ k) || Config.sliceBytes ≤ off || !ownsCore s pid tgt then none
  else some (scratchKey tgt off)

/-- The physical address lies in the locked firmware carve-out (22 R449). -/
def inCarveOut (s : State) (pa : Nat) : Bool :=
  let b := s.bootctl.toNat
  let base := bitsOf b 47 16 * 65536
  bitOf b 3 && base ≤ pa && pa < base + bitsOf b 15 4 * 65536

/-- The physical address belongs to the partition: its channel groups, or a granted host range, and not the carve-out
(04 R77, 22 R447, R449). -/
def ownsPa (s : State) (pid pa : Nat) : Bool :=
  match part? s pid with
  | none => false
  | some p =>
    !inCarveOut s pa &&
    if pa < Config.hbmBytes then p.desc.groups.getLsbD (placeOf pa).group
    else Config.hostBase ≤ pa && pa < Config.scratchBase &&
      p.desc.grants.any fun g => g.1 ≤ pa - Config.hostBase && pa - Config.hostBase < g.1 + g.2

/-- Kinds of access, for permissions and fault records (04 R81, R94). -/
inductive Acc where
  | read | write | atomic | fetch
  deriving DecidableEq, Repr

/-- A translation's outcome: an entry; the kind of page fault as detail 0x0B counts it: 1 not present, 2 permission,
4 malformed (19 R385); or a table in host memory that is not granted, or in the carve-out, which raises the isolation fault (22 R447,
R449). -/
inductive Look where
  | ok (e : TlbEntry)
  | page (kind : Nat)
  | outside
  deriving DecidableEq, Repr

/-- The permissions of a leaf allow an access (04 R81, 02 R34). -/
def TlbEntry.allows (e : TlbEntry) (sup : Bool) (a : Acc) : Bool :=
  (sup || e.u) &&
    match a with
    | .read => true
    | .fetch => e.x
    | _ => e.w

/-- The entry maps the address for the partition. -/
def TlbEntry.maps (e : TlbEntry) (pid va : Nat) : Bool := e.pid == pid && va / 2 ^ e.bits == e.vbase / 2 ^ e.bits

/-- The physical address an entry gives. -/
def TlbEntry.phys (e : TlbEntry) (va : Nat) : Nat := e.pbase + va % 2 ^ e.bits

/-- Bits that a level's index takes: lowest bit and width (04 R80). -/
def levelBits : Nat → Nat × Nat
  | 0 => (16, 6)
  | 1 => (22, 8)
  | 2 => (30, 13)
  | _ => (43, 13)

/-- A page-table entry is malformed at a level (04 R81). -/
def malformed (lvl e : Nat) : Bool :=
  bitsOf e 63 52 != 0 || bitsOf e 15 6 != 0 ||
  (bitOf e 1 && lvl == 3) || (!bitOf e 1 && lvl == 0) ||
  (bitOf e 1 && lvl == 1 && bitsOf e 21 16 != 0) || (bitOf e 1 && lvl == 2 && bitsOf e 29 16 != 0) ||
  (!bitOf e 1 && bitsOf e 5 2 != 0)

/-- A table's bytes are not refused to the device: they lie outside the locked carve-out, and in the host window only where a grant names
them (22 R447, R449). -/
def tableOpen (s : State) (pid a : Nat) : Bool := !inCarveOut s a && (!isHost a || ownsPa s pid a)

/-- Walk the tables from a level's table (04 R80-R82). An entry in a unit with an uncorrectable error is read as its bytes are
(log 5). -/
def walk (s : State) (pid va : Nat) : Nat → Nat → Look
  | lvl, base =>
    let (lo, w) := levelBits lvl
    let a := base + 8 * (va / 2 ^ lo % 2 ^ w)
    let e := readNat s a 8
    if !tableOpen s pid a then .outside
    else if !bitOf e 0 then .page 1
    else if malformed lvl e then .page 4
    else
      let pa := bitsOf e 51 16 * 65536
      if bitOf e 1 then
        .ok { pid := pid, vbase := va / 2 ^ lo * 2 ^ lo, bits := lo, pbase := pa, u := bitOf e 4, x := bitOf e 3,
              w := bitOf e 2, lcx := bitOf e 5 }
      else
        match lvl with
        | 0 => .page 4
        | l + 1 => walk s pid va l pa

/-- The significant part of an address (04 R78). -/
def vaOf (va : DWord) : Nat := va.toNat % 2 ^ 56

/-- The first of some held entries that maps the address with the permission (04 R84). -/
def held (es : List TlbEntry) (pid va : Nat) (sup : Bool) (a : Acc) : Option TlbEntry :=
  es.find? fun e => e.maps pid va && e.allows sup a

/-- The die's TLB. -/
def dieTlb (s : State) (d : Nat) : List TlbEntry := mgetD s.dieTlb d []

/-- Translate a canonical global address for the partition's core (04 R83, R84): last-page register, core TLB, die TLB,
walk; with the state that holds what the lookup passed through. -/
def translate (s : State) (pid c : Nat) (lp : Option TlbEntry) (sup : Bool) (a : Acc) (va : DWord) : Look × State :=
  let v := vaOf va
  match held lp.toList pid v sup a with
  | some e => (.ok e, s)
  | none =>
    match held (core s c).tlb pid v sup a with
    | some e => (.ok e, s)
    | none =>
      let fillCore (e : TlbEntry) (t : State) := modCore t c fun k => { k with tlb := (e :: k.tlb).take Config.coreTlbSize }
      match held (dieTlb s (c / 48)) pid v sup a with
      | some e => (.ok e, fillCore e s)
      | none =>
        let root := match part? s pid with | some p => p.desc.root | none => 0
        match walk s pid v 3 root with
        | .ok e =>
          if e.allows sup a then
            (.ok e, fillCore e { s with
              dieTlb := mset s.dieTlb (c / 48) ((e :: dieTlb s (c / 48)).take Config.dieTlbSize) })
          else (.page 2, s)
        | r => (r, s)

/-- Send a message. -/
def send (s : State) (m : Msg) : State := { s with outbox := s.outbox ++ [m] }

/-- A write that a unit of the partition makes to physical memory: an address that the partition does not own raises the isolation fault,
which is reported to firmware (04 R77, 22 R447, R449). -/
def devWrite (s : State) (pid a : Nat) (bs : List Byte) : State :=
  if ownsPa s pid a && ownsPa s pid (a + bs.length - 1) then writeBytes s a bs else send s (.isolation pid (dw a))

/-- Change a partition. -/
def modPart (s : State) (pid : Nat) (f : Part → Part) : State := { s with parts := mmod s.parts pid f }

/-- Replayable faults are recorded for the partition (04 R93). -/
def frEnabled (s : State) (pid : Nat) : Bool :=
  match part? s pid with
  | some p => p.frctl.getLsbD 0
  | none => false

/-- The first of the eight slots from `h` that satisfies a test (04 R95). -/
def probe (n h : Nat) (test : Nat → Bool) : Option Nat :=
  ((List.range 8).map fun i => (h + i) % n).find? test

/-- The record at an address of the area belongs to the partition (04 R93). -/
def recordOwned (s : State) (pid a : Nat) : Bool := ownsPa s pid a && ownsPa s pid (a + 31)

/-- Write or update the fault record of a 4 MiB block (04 R94, R95): page bitmap and the low 13 bits of the kinds word. A new one raises
an event (16 R344). A slot that the partition does not own is neither read nor written, and the isolation fault is reported to firmware
(R93, 22 R449). A unit with an
uncorrectable error is read as its bytes are and stays as it was (log 5). -/
def recordFault (s : State) (pid block bitmap kinds : Nat) : State :=
  match part? s pid with
  | none => s
  | some p =>
    let ctl := p.frctl.toNat
    let n := 2 ^ (bitsOf ctl 7 4 + 6)
    let base := bitsOf ctl 51 12 * 4096
    let adr (i : Nat) := base + 32 * i
    let w0 (i : Nat) := readNat s (adr i) 8
    let h := block / 2 ^ 22 % n
    match probe n h fun i => !recordOwned s pid (adr i) || (bitOf (w0 i) 0 && w0 i / 2 ^ 22 == block / 2 ^ 22) with
    | some i =>
      let bm := readNat s (adr i + 8) 8
      let k := readNat s (adr i + 16) 4
      let cnt := readNat s (adr i + 20) 4
      if !recordOwned s pid (adr i) then send s (.isolation pid (dw (adr i)))
      else
        writeNat (writeNat (writeNat s (adr i + 8) 8 (bm ||| bitmap)) (adr i + 16) 4 (k ||| kinds)) (adr i + 20) 4
          (if cnt == 0xFFFF_FFFF then cnt else cnt + 1)
    | none =>
      match probe n h fun i => !bitOf (w0 i) 0 with
      | some i =>
        let s1 := writeBytes s (adr i)
          (bytesOfNat 8 (block / 2 ^ 22 * 2 ^ 22 + 1) ++ bytesOfNat 8 bitmap ++ bytesOfNat 4 (pid * 256 ||| kinds) ++
            bytesOfNat 4 1 ++ bytesOfNat 8 s.cycle)
        { s1 with events := addEvent s1.events (.record pid block) }
      | none => modPart s pid fun q => { q with frctl := q.frctl ||| 8#64 }

/-- The kinds word of a fault record for a page-fault kind, an access and a level (04 R94). -/
def recordKinds (kind : Nat) (a : Acc) (sup : Bool) : Nat :=
  (match a with | .read => 1 | .fetch => 1 | .write => 2 | .atomic => 4) +
  (if bitOf kind 0 then 8 else 0) + (if bitOf kind 1 then 16 else 0) + (if bitOf kind 2 then 32 else 0) +
  (if sup then 128 else 64)

/-- The journal takes entries (16 R346). -/
def jnlOn (p : Part) : Bool := p.jnlctl.getLsbD 0

/-- At least four journal entries are free (16 R346). -/
def jnlRoom (p : Part) : Bool :=
  (p.jnlhead - p.jnltail).toNat + 4 ≤ 2 ^ (bitsOf p.jnlctl.toNat 4 1 + 8)

/-- Write a journal entry (16 R347). -/
def journal (s : State) (pid : Nat) (queue : Option Nat) (transition reason : Nat) (pidx : Word) (launch : Nat)
    (tag : Word) : State :=
  match part? s pid with
  | none => s
  | some p =>
    if !jnlOn p then s
    else
      let n := p.jnlhead.toNat
      let base := bitsOf p.jnlctl.toNat 51 12 * 4096
      let a := base + 32 * (n % 2 ^ (bitsOf p.jnlctl.toNat 4 1 + 8))
      let e := bytesOfNat 4 n ++ bytesOfNat 2 (queue.getD 0xFFFF) ++ bytesOfNat 1 transition ++ bytesOfNat 1 reason ++
        bytesOfNat 4 pidx.toNat ++ bytesOfNat 4 launch ++ bytesOfNat 4 tag.toNat ++ bytesOfNat 4 0 ++ bytesOfNat 8 s.cycle
      modPart (devWrite s pid a e) pid fun q => { q with jnlhead := q.jnlhead + 1 }

/-- An object's address passes the conditions of 05 R118: none, or the code of the first it fails. -/
def objKey (s : State) (pid cr : Nat) (va : DWord) : Sum Nat Nat :=
  if !inWindow va then .inl 0x0D
  else if va.toNat % 16 != 0 then .inl 0x07
  else
    match windowKey s pid cr va with
    | some k => .inr k
    | none => .inl 0x08

/-! ### Races with engines (05 R119, R132, R133) -/

/-- Two accesses touch a common byte. -/
def touch (a na b nb : Nat) : Bool := a < b + nb && b < a + na

/-- The operation has ended, its flips have come, and nothing that ran beside it is still running. -/
def Work.over (ws : List Work) (w : Work) : Bool :=
  w.objs.isEmpty && w.ended.any fun e => !(ws.any fun x => x.ended.isNone && x.began.any (· < e))

/-- Drop the operations that no race can concern any more. -/
def dropOver (ws : List Work) : List Work := ws.filter fun w => !w.over ws

/-- An object flips: it has reported the operations that count into it. -/
def reportWork (ws : List Work) (o : Nat) : List Work := dropOver (ws.map fun w => { w with objs := w.objs.filter (· != o) })

/-- Some bytes lie in a launch's spill reservation (11 R271). -/
def inReservation (l : Launch) (va : DWord) (n : Nat) : Bool := touch va.toNat n l.spill.toNat (l.desc.elim 0 (·.spill))

/-- An access to the spill reservation of a launch of the partition leaves the sums pending there undefined (11 R271). -/
def spoilAt (s : State) (pid : Nat) (va : DWord) (n : Nat) : State :=
  if s.launches.all fun l => l.2.contribs.isEmpty then s
  else
    { s with launches := mmap s.launches fun _ l =>
        if l.pid == pid && inReservation l va n then { l with contribs := l.contribs.map fun x => { x with lost := true } } else l }

/-- An access of a flight, if it is one that writes, comes in program order before what a flight issued as `since` (05 R132). -/
def comesAfter (fid since : Nat) (who : Option (Nat × Nat)) : Bool := who.any fun x => x.1 == fid && x.2 < since

/-- The operation comes after the access, and has waited for it. -/
def Work.after (w : Work) (who : Option (Nat × Nat)) : Bool := w.began.isNone && comesAfter w.fid w.since who

/-- The stretch of a write of `len` bytes at a key that is made from bytes which a write of a program has hit (05 R132). -/
def Source.lost (y : Source) (h : Nat × Nat) (key len : Nat) : Option (Nat × Nat) :=
  if !touch h.1 h.2 y.key y.n then none
  else if y.unit == 0 then some (key, key + len)
  else
    let lo := (max h.1 y.key - y.key) / y.unit * y.unit
    let hi := (min (h.1 + h.2) (y.key + y.n) - y.key + y.unit - 1) / y.unit * y.unit
    some (key + (y.off + lo).toNat, key + min len (y.off + hi).toNat)

/-- A program's write of some bytes races with an operation that has written `len` bytes at a key: those of them are undefined that it
writes too, and those that were made from bytes which it writes (05 R132). -/
def loseHit (key len : Nat) (src : List Source) (s : State) (h : Nat × Nat) : State :=
  let s1 := src.foldl (fun s y => match y.lost h key len with | some (a, z) => if a < z then forget s a z else s | none => s) s
  if touch h.1 h.2 key len then forget s1 (max h.1 key) (min (h.1 + h.2) (key + len)) else s1

/-- The barrier objects into which an update may be in flight: those of engine operations that do not come after an access, of contraction
arrivals, and of operations of communicators. -/
def updating (s : State) (who : Option (Nat × Nat)) : List Nat :=
  ((s.work.filter fun w => !w.after who).map (·.objs)).flatten ++
  (s.tiles.map fun t => (t.2.insts.map fun i => (i.arrs.filter fun a => !comesAfter a.fid a.ord who).filterMap fun a =>
    match (mget? s.flights a.fid).map fun f => objKey s f.pid f.core a.obj with | some (.inr k) => some k | _ => none).flatten).flatten ++
  (s.comms.map fun c => (c.2.cbars.filter fun o => !comesAfter o.fid o.id who).filterMap fun o =>
    match objKey s (c.1 / 256) o.core o.obj with | .inr k => some k | _ => none).flatten

/-- A program has written some bytes, by an access of a flight or otherwise. An object with an update in flight holds undefined counts
(05 R119); bytes that an operation has written since it issued, or has made from the written ones, are undefined until its flip, and it
remembers the write for those it has still to write (R132). An operation that comes after the access in program order waits for it, so
there is no race between them. -/
def noteWrite (s : State) (who : Option (Nat × Nat)) (a n : Nat) : State :=
  let s1 := (updating s who).foldl (fun s o => if touch a n o 16 then forget s o (o + 12) else s) s
  let ws := s1.work.filter fun w => !w.objs.isEmpty && !w.after who
  let s2 := ws.foldl (fun s w => w.wrote.foldl (fun s x => loseHit x.1 x.2.1 x.2.2 s (a, n)) s) s1
  { s2 with work := s2.work.map fun w => if w.objs.isEmpty || w.after who then w else { w with hits := (a, n) :: w.hits } }

/-- The firings queued on an armed copy when its trigger flips (05 R141): one that fires once, or up to 4; an arming whose
fifth firing is due is answered apart. -/
def fireArms (es : Cells Engine) (obj : Nat) : Cells Engine × List Arm :=
  let late := (es.map fun e => e.2.arms.filter fun a => a.trig == obj && a.every && 4 ≤ a.queued).flatten
  (mmap es fun _ e =>
    { e with arms := e.arms.map fun a =>
        if a.trig == obj && a.queued < (if a.every then 4 else 1) then { a with queued := a.queued + 1 } else a },
   late)

/-- What an object update did: failed, or succeeded with the phase as it stood before, and the armings whose fifth
firing was due. -/
structure BoRes where
  state : State
  fails : Bool
  phase : Bool
  late  : List Arm

/-- The phase bit of the object at a key (05 R116). -/
def boPhase (s : State) (o : Nat) : Bool := bitOf (readNat s (o + 12) 4) 0

/-- The fault bit of the object at a key (05 R116). -/
def boFault (s : State) (o : Nat) : Bool := bitOf (readNat s (o + 12) 4) 1

/-- Set bits of an object's control word. -/
def boSet (s : State) (o bits : Nat) : State := writeNat s (o + 12) 4 (readNat s (o + 12) 4 ||| bits)

/-- One update of a barrier object (05 R117, R141): expected bytes, arrived bytes, arrivals. A flip ends the reading of
registers that it reports (09 R242). -/
def boUpdate (s : State) (o eb ab n : Nat) : BoRes :=
  let expb := readNat s o 4
  let arrb := readNat s (o + 4) 4
  let expv := readNat s (o + 8) 2
  let arrv := readNat s (o + 10) 2
  let ctl := readNat s (o + 12) 4
  if arrv + n > expv then ⟨boSet s o 4, true, bitOf ctl 0, []⟩
  else
    let e := (expb + eb) % 2 ^ 32
    let a := (arrb + ab) % 2 ^ 32
    if arrv + n == expv && a == e then
      let s1 := writeBytes s o (bytesOfNat 4 0 ++ bytesOfNat 4 0 ++ bytesOfNat 2 expv ++ bytesOfNat 2 0 ++
        bytesOfNat 4 (ctl ^^^ 1))
      let (es, late) := fireArms s1.engines o
      let s2 := { s1 with
        engines := es
        work := reportWork s1.work o
        flights := mmap s1.flights fun _ f => { f with asyncR := f.asyncR.filter fun a => !(a.fin && a.obj == o) } }
      ⟨if late.isEmpty then s2 else boSet s2 o 4, false, bitOf ctl 0, late⟩
    else
      ⟨writeBytes s o (bytesOfNat 4 e ++ bytesOfNat 4 a ++ bytesOfNat 2 expv ++ bytesOfNat 2 (arrv + n) ++
        bytesOfNat 4 ctl), false, bitOf ctl 0, []⟩

end Sys2Proof.Machine
end

