-- ==== Sys2Proof/Machine/Ops.lean ====
section
/-!
DEFINITION. The named operations over flights, fragments and registers: reads and writes of every register file, regions,
trace packets, exits, merges, block barriers, closures of contraction instances, the freeze line, cancels, and taking an
exception (19 R390) and returning from one (R402) as one operation each.
-/
namespace Sys2Proof.Machine

/-! ### Flights and fragments -/

/-- The fragment of a flight with a number. -/
def frag? (f : Flight) (n : Nat) : Option Fragment := f.frags.find? fun g => g.num == n

/-- Put a fragment back into its flight. -/
def putFrag (f : Flight) (g : Fragment) : Flight :=
  { f with frags := f.frags.map fun h => if h.num == g.num then g else h }

/-- Change a flight. -/
def modFlight (s : State) (fid : Nat) (k : Flight → Flight) : State := { s with flights := mmod s.flights fid k }

/-- Change a fragment. -/
def modFrag (s : State) (fid n : Nat) (k : Fragment → Fragment) : State :=
  modFlight s fid fun f => { f with frags := f.frags.map fun g => if g.num == n then k g else g }

/-- A flight. -/
def flight? (s : State) (fid : Nat) : Option Flight := mget? s.flights fid

/-- The key of a launch. -/
def lkey (pid id : Nat) : Nat := pid * 2 ^ 32 + id

/-- The launch of a flight. -/
def launchOf (s : State) (f : Flight) : Option Launch := mget? s.launches (lkey f.pid f.launch)

/-- The descriptor of a flight's kernel. -/
def descOf (s : State) (f : Flight) : Option Desc := (launchOf s f).bind (·.desc)

/-- The gang of a flight. -/
def gangOf (s : State) (f : Flight) : Option Gang := mget? s.gangs f.gid

/-- Change a gang. -/
def modGang (s : State) (gid : Nat) (k : Gang → Gang) : State := { s with gangs := mmod s.gangs gid k }

/-- Change a launch. -/
def modLaunch (s : State) (key : Nat) (k : Launch → Launch) : State := { s with launches := mmod s.launches key k }

/-- The flights of a gang, by number. -/
def gangFlights (s : State) (gid : Nat) : List (Nat × Flight) := s.flights.filter fun x => x.2.gid == gid

/-- A flight has ended: all its lanes have exited (06 R152). -/
def ended (f : Flight) : Bool := f.exited == allLanes

/-- The core of a block rank of a gang (05 R105, 01 R7). -/
def rankCore (die quad rank : Nat) : Nat :=
  die * 48 + quad / 4 * 16 + quad % 4 * 2 + rank % 2 + rank / 2 * 8

/-! ### The issuing fragment -/

/-- What an instruction shows the beacons (20 R423): accesses (kind, lane, address, bytes), values (kind, lane, word), and
for each flag the lanes that raised it. -/
structure Obs where
  acc  : List (Nat × Nat × Nat × Nat)
  vals : List (Nat × Nat × Word)
  flg  : List Lanes
  deriving DecidableEq, Repr

/-- Nothing to examine. -/
def Obs.none : Obs := ⟨[], [], []⟩

/-- The issuing fragment with its flight and the state around them; `f` and `g` hold what the instruction has changed
until `commit` puts them back. -/
structure Ctx where
  st  : State
  f   : Flight
  g   : Fragment
  obs : Obs

/-- The issuing fragment. -/
def issuer? (s : State) : Option Ctx :=
  match flight? s s.cur.1 with
  | none => none
  | some f =>
    match frag? f s.cur.2 with
    | none => none
    | some g => some ⟨s, f, g, Obs.none⟩

/-- Put the issuing fragment and its flight back. -/
def commit (c : Ctx) : State := { c.st with flights := mset c.st.flights c.st.cur.1 (putFrag c.f c.g) }

/-- Take the issuing fragment again after its flight changed in the state. -/
def reload (c : Ctx) (s : State) : Ctx :=
  match issuer? s with
  | some d => { d with obs := c.obs }
  | none => { c with st := s }

/-! ### Register files -/

/-- The trap set of a level (19 R391). -/
def bank (f : Flight) (level : Nat) : TrapSet := if level == 2 then f.t2 else f.t1

/-- Replace the trap set of a level. -/
def setBank (f : Flight) (level : Nat) (t : TrapSet) : Flight :=
  if level == 2 then { f with t2 := t } else { f with t1 := t }

/-- The word of a row for a lane. -/
def rowAt (r : Row) (l : Nat) : Word := r.getD l 0

/-- A row with the lanes of a mask replaced. -/
def rowSet (r : Row) (m : Lanes) (val : Nat → Word) : Row :=
  (List.range 96).map fun l => if m.getLsbD l then val l else rowAt r l

/-- Word `k` of a mask (02 R22). -/
def maskWord (m : Lanes) (k : Nat) : Word := (m >>> (32 * k)).setWidth 32

/-- A mask with one word replaced. -/
def setMaskWord (m : Lanes) (k : Nat) (w : Word) : Lanes :=
  (m &&& ~~~((0xFFFF_FFFF#96) <<< (32 * k))) ||| ((w.setWidth 96) <<< (32 * k))

/-- A mask of three words. -/
def maskOfWords (a b c : Word) : Lanes :=
  a.setWidth 96 ||| ((b.setWidth 96) <<< 32) ||| ((c.setWidth 96) <<< 64)

/-- The value of scalar register `n`: em for s88-s90 (06 R144). -/
def getS (f : Flight) (g : Fragment) (n : Nat) : Word :=
  if 88 ≤ n ∧ n ≤ 90 then maskWord g.em (n - 88) else mgetD f.s n 0

/-- An issued memory instruction's destination group, if it has one: first register and count (02 R29, 11 R262). -/
def memDst : Instr → Option (Opnd × Nat)
  | .ld wd _ _ _ d _ => some (d, wd.regs)
  | .sld wd _ _ _ d _ => some (d, wd.regs)
  | _ => none

/-- Vector register `n`, or vt register `n - 192`, lies in a destination group. -/
def inGroupV (d : Option (Opnd × Nat)) (n : Nat) : Bool :=
  match d with
  | some (.v b, k) => b.val ≤ n && n < b.val + k
  | some (.vt b, k) => 192 + b.val ≤ n && n < 192 + b.val + k
  | _ => false

/-- Scalar register `n`, or ss register `n - 96`, lies in a destination group. -/
def inGroupS (d : Option (Opnd × Nat)) (n : Nat) : Bool :=
  match d with
  | some (.s b, k) => b.val ≤ n && n < b.val + k
  | some (.ss b, k) => 96 + b.val ≤ n && n < 96 + b.val + k
  | _ => false

/-- A write to vector register `n` reaches an outstanding access's destination (04 R103). -/
def Mop.hitV (n : Nat) (m : Lanes) (o : Mop) : Mop :=
  if inGroupV (memDst o.instr) n then { o with vhits := (n, m) :: o.vhits } else o

/-- A write to scalar register `n` reaches an outstanding access's destination (04 R103). -/
def Mop.hitS (n : Nat) (o : Mop) : Mop :=
  if inGroupS (memDst o.instr) n then { o with shits := n :: o.shits } else o

/-- A write to vector register `n` reaches an outstanding result's destination (06 R155). -/
def Pend.hitV (n : Nat) (m : Lanes) (p : Pend) : Pend :=
  if inGroupV (some (p.dst, p.rows.length)) n then { p with vhits := (n, m) :: p.vhits } else p

/-- A write of vt register `n` of a level reaches outstanding destinations there. -/
def hitVt (f : Flight) (level n : Nat) (m : Lanes) : Flight :=
  { f with
    mops := f.mops.map fun o => if o.level % 10 == level then o.hitV (192 + n) m else o
    pend := f.pend.map fun p => if p.level % 10 == level then p.hitV (192 + n) m else p }

/-- A write of ss register `n` of a level reaches outstanding destinations there. -/
def hitSs (f : Flight) (level n : Nat) : Flight :=
  { f with mops := f.mops.map fun o => if o.level % 10 == level then o.hitS (96 + n) else o }

/-- A write of em, scalar register `n`, reaches outstanding destinations of the fragment. -/
def hitEm (f : Flight) (frag n : Nat) : Flight :=
  { f with mops := f.mops.map fun o => if o.frag == frag then o.hitS n else o }

/-- The lanes of vector register `n` that an LCONA instance is reading (09 R242). -/
def asyncLanes (f : Flight) (n : Nat) : Lanes :=
  f.asyncR.foldl (fun acc a => if a.reg == n then acc ||| a.lanes else acc) 0

/-- A free value for lane `l` of register `n` in this step (log 3). -/
def freeAt (s : State) (n l : Nat) : Word := Config.freeWord (s.free * 65536 + n * 96 + l)

/-- The value of vector register `n` in lane `l`; while an LCONA reads it, undefined (09 R242). -/
def getV (s : State) (f : Flight) (n l : Nat) : Word :=
  if (asyncLanes f n).getLsbD l then freeAt s n l else rowAt (mgetD f.v n []) l

/-- Write the lanes of a mask of vector register `n`. A lane that an LCONA is reading is left undefined (09 R242); a
destination of an outstanding result is marked (04 R103). -/
def setV (s : State) (f : Flight) (n : Nat) (m : Lanes) (val : Nat → Word) : Flight :=
  let as := asyncLanes f n
  { f with
    v := mset f.v n (rowSet (mgetD f.v n []) m fun l => if as.getLsbD l then freeAt s n l else val l)
    mops := f.mops.map (Mop.hitV n m)
    pend := f.pend.map (Pend.hitV n m)
    dirty := mset f.dirty n ((m, mgetD f.v n []) :: mgetD f.dirty n [])
    asyncR := f.asyncR.map fun a => if a.reg == n then { a with hit := a.hit ||| (m &&& a.lanes) } else a }

/-- Write scalar register `n` (06 R144, R146). -/
def putScalar (c : Ctx) (n : Nat) (w : Word) : Ctx :=
  if 88 ≤ n ∧ n ≤ 90 then
    { c with f := hitEm c.f c.g.num n, g := { c.g with em := setMaskWord c.g.em (n - 88) w &&& c.g.owned } }
  else { c with f := { c.f with s := mset c.f.s n w, mops := c.f.mops.map (Mop.hitS n) } }

/-- The specifier `k` registers after an operand, in its own file. -/
def opAdd (o : Opnd) (k : Nat) : Opnd :=
  match o with
  | .v n => .v ⟨(n.val + k) % 192, Nat.mod_lt _ (by decide)⟩
  | .s n => .s ⟨(n.val + k) % 96, Nat.mod_lt _ (by decide)⟩
  | .ss n => .ss ⟨(n.val + k) % 16, Nat.mod_lt _ (by decide)⟩
  | .vt n => .vt ⟨(n.val + k) % 16, Nat.mod_lt _ (by decide)⟩
  | o => o

/-- Write a scalar destination (02 R19, 19 R391). -/
def putS (c : Ctx) (o : Opnd) (w : Word) : Ctx :=
  match o with
  | .s n => putScalar c n.val w
  | .ss n =>
    let t := bank c.f c.g.level
    { c with f := hitSs (setBank c.f c.g.level { t with ss := mset t.ss n.val w }) c.g.level n.val }
  | _ => c

/-- Write a 64-bit value to a scalar pair, low word first (06 R159). -/
def putS2 (c : Ctx) (o : Opnd) (x : DWord) : Ctx := putS (putS c o (loWord x)) (opAdd o 1) (hiWord x)

/-- Write the lanes of a mask of a vector destination (02 R19, 19 R391). -/
def putV (c : Ctx) (o : Opnd) (m : Lanes) (val : Nat → Word) : Ctx :=
  match o with
  | .v n => { c with f := setV c.st c.f n.val m val }
  | .vt n =>
    let t := bank c.f c.g.level
    { c with
      f := hitVt (setBank c.f c.g.level { t with vt := mset t.vt n.val (rowSet (mgetD t.vt n.val []) m val) }) c.g.level n.val m }
  | _ => c

/-- The mask s4k (02 R22). -/
def getMask (f : Flight) (g : Fragment) (m : Fin 24) : Lanes :=
  maskOfWords (getS f g (4 * m.val)) (getS f g (4 * m.val + 1)) (getS f g (4 * m.val + 2))

/-- Write the mask s4k; em keeps only owned lanes (06 R146). -/
def putMask (c : Ctx) (m : Fin 24) (x : Lanes) : Ctx :=
  putScalar (putScalar (putScalar c (4 * m.val) (maskWord x 0)) (4 * m.val + 1) (maskWord x 1)) (4 * m.val + 2)
    (maskWord x 2)

/-! ### Trace packets (20 R436-R439) -/

/-- The trace unit traces a fragment of a flight (20 R436). -/
def traced (k : Core) (f : Flight) (level : Nat) : Bool :=
  k.trcctl.getLsbD 0 && (bitsOf k.trcfilt.toNat 63 32 == 0 || bitsOf k.trcfilt.toNat 63 32 == f.launch) &&
    bitOf (k.trcfilt.toNat / 65536) f.idx && (level == 0 || k.trcctl.getLsbD 1)

/-- The resident flight number (20 R437). -/
def resident (f : Flight) : Nat := f.slot * 12 + f.pos

/-- The partition that a core belongs to (22 R452). -/
def coreOwner (s : State) (c : Nat) : Option Nat := (s.parts.find? fun p => ownsCore s p.1 c).map (·.1)

/-- Write one packet of a core's trace: 16 bytes, or 48 for a sync packet (20 R436, R437, R439). -/
def tracePut (s : State) (c typ res frag nfrag : Nat) (payload : List Nat) : State :=
  let k := core s c
  let size := 2 ^ (bitsOf k.trcctl.toNat 11 8 + 12)
  let base := bitsOf k.trcctl.toNat 51 12 * 4096
  let len := 8 + 8 * payload.length
  let head := k.trchead.toNat
  let pad := if head % size + len ≤ size then 0 else size - head % size
  if k.trcctl.getLsbD 4 && size < head + pad + len then
    modCore s c fun k => { k with trcctl := (k.trcctl ||| 32#64) &&& ~~~1#64 }
  else
    let gap := min (s.cycle - k.trcLast) 0xFFFF_FFFF
    let hdr := typ * 2 ^ 60 + res * 2 ^ 54 + frag * 2 ^ 47 + nfrag * 2 ^ 40 + gap
    let put (s : State) (a : Nat) (bs : List Byte) : State :=
      match coreOwner s c with
      | some pid => devWrite s pid a bs
      | none => writeBytes s a bs
    let s1 := if pad == 0 then s else put s (base + head % size) (List.replicate pad 0)
    let s2 := put s1 (base + (head + pad) % size)
      (bytesOfNat 8 hdr ++ (payload.map (bytesOfNat 8)).flatten)
    modCore s2 c fun k => { k with trchead := dw (head + pad + len), trcLast := s.cycle }

/-- The flights resident on a core, by resident number (16 R352). -/
def residents (s : State) (c : Nat) : List (Nat × Flight) :=
  sortBy (fun x => resident x.2) (s.flights.filter fun x => x.2.core == c && !ended x.2 &&
    match gangOf s x.2 with | some g => g.state != .saved | none => false)

/-- Emit a sync set (20 R438). -/
def traceSync (s : State) (c : Nat) : State :=
  let pk (_ : Flight) (g : Fragment) : List Nat :=
    let o := g.owned.toNat
    let e := g.em.toNat
    let all := o + e * 2 ^ 96
    [g.pc.toNat, g.region.toNat + g.level * 2 ^ 32, all % 2 ^ 64, all / 2 ^ 64 % 2 ^ 64, all / 2 ^ 128]
  let s1 := (residents s c).foldl (fun s x =>
    if traced (core s c) x.2 0 then
      (sortBy (·.num) x.2.frags).foldl (fun s g => tracePut s c 8 (resident x.2) g.num x.2.frags.length (pk x.2 g)) s
    else s) s
  modCore s1 c fun k => { k with trcN := 0 }

/-- The trace unit is to emit a packet of a type for a fragment (20 R436, R437): branch, merge and exit packets, and region packets,
as their fields ask, and a beacon's packet whenever it is enabled (R439). -/
def wantsPacket (k : Core) (f : Flight) (level typ : Nat) : Bool :=
  match typ with
  | 2 => traced k f level
  | 3 => traced k f level && k.trcctl.getLsbD 3
  | 7 => k.trcctl.getLsbD 0
  | _ => traced k f level && k.trcctl.getLsbD 2

/-- Emit a packet of a fragment, a sync set first when one is due; a unit that cannot keep up counts it as dropped, and one that the
sync set has stopped drops it (20 R437-R439). -/
def tracePacket (s : State) (f : Flight) (g : Fragment) (typ payload : Nat) : State :=
  let k := core s f.core
  if !wantsPacket k f g.level typ then s
  else
    match k.trcDrop with
    | some n => modCore s f.core fun k => { k with trcDrop := some (n + 1) }
    | none =>
      let s1 := if 256 ≤ k.trcN then traceSync s f.core else s
      if !(core s1 f.core).trcctl.getLsbD 0 then s1
      else modCore (tracePut s1 f.core typ (resident f) g.num 0 [payload]) f.core fun k => { k with trcN := k.trcN + 1 }

/-! ### Regions (06 R156, 19 R386) -/

/-- Enter a region whose first instruction is at `pc`. -/
def Fragment.enter (g : Fragment) (pc : DWord) : Fragment :=
  { g with region := g.region + 1, rpc := pc, rmask := g.em }

/-- The issuing fragment enters the region after its instruction, with its trace packet (20 R437). -/
def enterNext (c : Ctx) : Ctx :=
  let g := c.g.enter (c.g.pc + 8)
  { c with g := g, st := tracePacket c.st c.f g 3 g.region.toNat }

/-! ### Contraction instances: closure (09 R236-R238) -/

/-- Change a tile. -/
def modTile (s : State) (t : Nat) (k : Tile → Tile) : State :=
  { s with tiles := mset s.tiles t (k (mgetD s.tiles t Tile.reset)) }

/-- Every expected lane of an instance has arrived. -/
def Inst.full (i : Inst) : Bool := i.expected.all fun x => subLanes x.2 (mgetD i.arrived x.1 0)

/-- Release the fragments parked on an instance: they go on after their LCON (09 R237). -/
def releaseLcon (s : State) (t id : Nat) : State :=
  { s with flights := mmap s.flights fun _ (f : Flight) =>
      { f with frags := f.frags.map fun g =>
          if g.wait == .lcon t id then { g with wait := .run, pc := g.pc + 8 } else g } }

/-- The rows of a register group of a flight. -/
def groupRows (s : State) (fid base n : Nat) : List Row :=
  match flight? s fid with
  | some f => (List.range n).map fun k => (List.range 96).map fun l => getV s f (base + k) l
  | none => List.replicate n []

/-- Close an instance (09 R236): it becomes computing, at flight scope takes its operands (R238), and parked fragments
are released. -/
def closeInst (s : State) (t id : Nat) : State :=
  let s1 := modTile s t fun tl =>
    { tl with insts := tl.insts.map fun i =>
        if i.id == id then
          { i with
            closed := some s.nextId
            arrs := if i.scope == 0 then
                i.arrs.map fun a =>
                  { a with av := groupRows s a.fid a.a (aRegs i.ty i.sp), bv := groupRows s a.fid a.b 8 }
              else i.arrs }
        else i }
  releaseLcon { s1 with nextId := s1.nextId + 1 } t id

/-- Close every open instance of a tile whose expected lanes have all arrived. -/
def closeFull (s : State) (t : Nat) : State :=
  ((mgetD s.tiles t Tile.reset).insts.filter fun i => i.closed.isNone && i.full).foldl (fun s i => closeInst s t i.id) s

/-- Lanes of a flight exit: open instances no longer expect those that have not arrived, and may close (09 R236). -/
def exitInsts (s : State) (fid : Nat) (m : Lanes) : State :=
  let drop (i : Inst) : Inst :=
    match i.closed, mget? i.expected fid with
    | none, some e => { i with expected := mset i.expected fid (e &&& ~~~(m &&& ~~~(mgetD i.arrived fid 0))) }
    | _, _ => i
  let touched := s.tiles.filter fun t => t.2.insts.any fun i => i.closed.isNone && (mget? i.expected fid).isSome
  touched.foldl (fun s t => closeFull (modTile s t.1 fun tl => { tl with insts := tl.insts.map drop }) t.1) s

/-! ### JOIN and merges (06 R151) -/

/-- The fragments of a flight parked at a JOIN of the token; a halted one arrives when it is resumed (20 R427, R435). -/
def joined (f : Flight) (k : Nat) : List Fragment := f.frags.filter fun g => g.wait == .join k && !g.halted

/-- The union of some lane masks. -/
def unionLanes (ms : List Lanes) : Lanes := ms.foldl (· ||| ·) 0

/-- The merge of the fragments parked at a token (06 R151): the merged fragment. -/
def mergeFrags (gs : List Fragment) : Option Fragment :=
  match leastBy (·.num) gs, leastBy (fun g => (lowestLane g.owned).getD 96) gs with
  | some low, some first =>
    let em := unionLanes (gs.map (·.em))
    let reg := (gs.map fun g => g.region.toNat).foldl max 0
    some { low with
      owned := unionLanes (gs.map (·.owned)), em := em, pc := first.pc + 8, region := w32 (reg + 1), rpc := first.pc + 8,
      rmask := em, wait := .run, halted := gs.any (·.halted), stopped := gs.any (·.stopped),
      regionStop := gs.any (·.regionStop) }
  | _, _ => none

/-- Complete a token's merge if every expected lane has arrived or exited (06 R151); the merge packet names fragment `by'`, whose
instruction completed it (20 R437). -/
def tryMerge (s : State) (fid by' k : Nat) : State :=
  match flight? s fid with
  | none => s
  | some f =>
    match mget? f.tokens k with
    | none => s
    | some e =>
      let gs := joined f k
      if !subLanes e (unionLanes (gs.map (·.owned))) then s
      else
        match mergeFrags gs with
        | none => modFlight s fid fun f => { f with tokens := mdel f.tokens k }
        | some m =>
          let rest := f.frags.filter fun g => g.wait != .join k || g.halted
          let f1 := { f with tokens := mdel f.tokens k, frags := insBy (·.num) m rest }
          let s1 := modFlight s fid fun _ => f1
          tracePacket (tracePacket s1 f1 { m with num := by' } 4 (m.num + k * 128)) f1 m 3 m.region.toNat

/-- Complete every merge that an exit, or a resumption, of a fragment made complete. -/
def tryMerges (s : State) (fid by' : Nat) : State := (List.range 16).foldl (fun s k => tryMerge s fid by' k) s

/-! ### Block barriers (06 R172-R174) -/

/-- A fragment stands at barrier `n` without its flight's arrival. -/
def atBar (n : Nat) (g : Fragment) : Bool :=
  match g.wait with
  | .bar m _ _ false => m == n
  | _ => false

/-- The flights of a block that have not ended. -/
def blockLive (s : State) (gid rank : Nat) : Nat :=
  ((gangFlights s gid).filter fun x => x.2.rank == rank && !ended x.2).length

/-- The instance's count has been reached (06 R173). -/
def barDone (s : State) (gid rank : Nat) (b : Bar) : Bool :=
  if b.count == 0 then b.arrived == blockLive s gid rank else b.count ≤ b.arrived

/-- Release every fragment that waits at the barrier and reset it (06 R173). -/
def barRelease (s : State) (gid rank n : Nat) : State :=
  let s1 := modGang s gid fun g => { g with bars := mdel g.bars (rank * 16 + n) }
  { s1 with flights := mmap s1.flights fun _ f =>
      if f.gid == gid && f.rank == rank then
        { f with frags := f.frags.map fun g =>
            match g.wait with
            | .bar m _ true true => if m == n then { g with wait := .run, pc := g.pc + 8 } else g
            | _ => g }
      else f }

/-- Complete the open instance of a barrier if its count has been reached. -/
def barTry (s : State) (gid rank n : Nat) : State :=
  match (mget? s.gangs gid).bind fun g => mget? g.bars (rank * 16 + n) with
  | some b => if barDone s gid rank b then barRelease s gid rank n else s
  | none => s

/-- The flight's set of fragments at barrier `n` is complete (06 R173). -/
def barSet (f : Flight) (n : Nat) : Bool := !f.frags.isEmpty && f.frags.all (atBar n)

/-- The count that a complete set carries: that of its fragments. -/
def barCount (f : Flight) : Nat :=
  match f.frags with
  | g :: _ => (match g.wait with | .bar _ c _ _ => c | _ => 0)
  | [] => 0

/-- A flight whose set is complete arrives: its BARA fragments go on, its BARW fragments wait (06 R173, R174). Answers
whether the arrival was made; one whose count differs from the instance's is not. -/
def barArrive (s : State) (fid n : Nat) : State × Bool :=
  match flight? s fid with
  | none => (s, true)
  | some f =>
    let c := barCount f
    let key := f.rank * 16 + n
    let b := ((gangOf s f).bind fun g => mget? g.bars key).getD ⟨0, c⟩
    if b.count != c then (s, false)
    else
      let s1 := modGang s f.gid fun g => { g with bars := mset g.bars key ⟨b.arrived + 1, c⟩ }
      let s2 := modFlight s1 fid fun f =>
        { f with refused := f.refused.filter (· != n), frags := f.frags.map fun g =>
            match g.wait with
            | .bar m c true false => { g with wait := .bar m c true true }
            | .bar _ _ false false => { g with wait := .run, pc := g.pc + 8 }
            | _ => g }
      (barTry s2 f.gid f.rank n, true)

/-! ### The freeze line and snapshots (19 R412-R414) -/

/-- Assert the freeze line of a partition's job. -/
def assertFreeze (s : State) (pid : Nat) : State :=
  modPart s pid fun p => if p.freeze == .clear then { p with freeze := .asserted s.cycle } else p

/-- The freeze line of the partition is in effect. -/
def frozen (s : State) (pid : Nat) : Bool :=
  match part? s pid with
  | some p => p.freeze == .inEffect
  | none => false

/-- The snapshot registers of a core. -/
def snapCore (s : State) (c : Nat) : Snap :=
  let pc (k : Nat) : DWord := match mget? (core s c).slots k with | some x => x.pc | none => 0
  ⟨pc 0, pc 1, pc 2, pc 3, dw s.cycle⟩

/-- The address of the unit a copy command is at. -/
def Cmd.unitVa (c : Cmd) : DWord :=
  match c.kind with
  | .cpy => (geoOf c.par).dstAt c.done
  | .cpyb => (geoOf c.par).dstAt c.done
  | .cpyg => denseAt (parPair c.par 2) c.done
  | .cpys => denseAt (parPair c.par 0) c.done
  | .sqfill => parPair c.par 0 + dw (4 * c.done)
  | .accst => parPair c.par 0

/-- The commands that stand in an engine's queue (05 R123). -/
def Engine.queue (e : Engine) : List Cmd := e.cmds.filter fun c => c.kind != .accst

/-- The snapshot registers of a copy engine. -/
def snapEngine (s : State) (e : Nat) : Snap :=
  match (mget? s.engines e).map (·.queue) with
  | some (c :: r) =>
    ⟨c.pc, dw (c.seq.toNat + (r.length + 1) * 2 ^ 32), dw c.moved, c.unitVa, dw s.cycle⟩
  | _ => ⟨0, 0, 0, 0, dw s.cycle⟩

/-- The tiles of a core. -/
def coreTiles (s : State) (c : Nat) : List (Nat × Tile) := s.tiles.filter fun t => t.1 / 128 == c

/-- The partial sets destined for a tile (09 R245): those of flights of the gang it is allocated to. -/
def tilePsets (s : State) (t : Nat) : List PSet :=
  match (mgetD s.tiles t Tile.reset).owner with
  | some (gid, _) => ((s.flights.filter fun f => f.2.gid == gid).map fun f => f.2.psets.filter fun p => p.tile == t).flatten
  | none => []

/-- The snapshot registers of a contraction unit. -/
def snapContr (s : State) (c : Nat) : Snap :=
  let ts := coreTiles s c
  let is := (ts.map fun t => t.2.insts).flatten
  ⟨dw is.length, dw ((leastBy (·.id) is).elim 0 (·.progress)), dw ((ts.map fun t => (tilePsets s t.1).length).sum),
   dw (ts.filter fun t => t.2.owner.isSome).length, dw s.cycle⟩

/-- The live link table's version (17 R357). -/
def linkVersion (s : State) : Word := w32 ((s.links.map fun l => l.2.2.toNat).sum)

/-- The snapshot registers of the Bridle engine: its first running operation. -/
def snapBridle (s : State) : Snap :=
  match s.comms.find? fun c => !c.2.colls.isEmpty with
  | some (k, c) =>
    ⟨dw (k % 256 + ((c.colls.map fun (o : CollOp) => o.seq).headD 0).toNat * 2 ^ 32), dw ((c.colls.map (·.chunks)).headD 0), dw (linkVersion s).toNat, dw s.linkMsgs, dw s.cycle⟩
  | none => ⟨0, 0, dw (linkVersion s).toNat, dw s.linkMsgs, dw s.cycle⟩

/-- The snapshot registers of a die's dispatcher. -/
def snapDisp (s : State) (d : Nat) : Snap :=
  let x := mgetD s.dies d ⟨[], 0, 0⟩
  let (l, g) := match x.list with | (_, l, g) :: _ => (l, g) | [] => (0, 0)
  ⟨dw l, dw g, dw x.pass, dw (s.gangs.filter fun g => g.2.die == d).length, dw s.cycle⟩

/-- Latch every unit's snapshot registers in one cycle (19 R414). -/
def latch (s : State) : State :=
  { s with snaps :=
      ((List.range 192).map fun c => (c, snapCore s c)) ++ ((List.range 32).map fun e => (256 + e, snapEngine s e)) ++
      ((List.range 192).map fun c => (512 + c, snapContr s c)) ++ [(1024, snapBridle s)] ++
      ((List.range 4).map fun d => (1025 + d, snapDisp s d)) }

/-! ### Cancelling a launch (15 R325) -/

/-- Stop a gang for a cancel: its engines acknowledge and the gang goes; a saved one goes with its launch (16 R351). -/
def cancelGang (g : Gang) : Gang :=
  match g.state with
  | .stopping => if g.why == 2 then g else { g with why := 2, acks := [] }
  | .saved => { g with why := 2 }
  | _ => { g with state := .stopping, why := 2, acks := [], deadline := none }

/-- The queue that a launch's journal entries name: none for a device-side launch (16 R347). -/
def Launch.jq (l : Launch) : Option Nat := if l.device then none else l.queue

/-- The queue whose error ring takes a launch's bounced packets (15 R331), while it exists. -/
def Launch.errQueue (l : Launch) : Option Nat := if l.qlive then l.queue else none

/-- Take a launch's gangs from a die dispatcher's list; a new head starts with a pass count of 0 (16 R349). -/
def dropGangs (now key : Nat) (d : DieDisp) : DieDisp :=
  let l := d.list.filter fun x => lkey x.1 x.2.1 != key
  if l.head? == d.list.head? then { d with list := l } else ⟨l, 0, now⟩

/-- The lane stands parked or in a full-empty wait. -/
def LaneState.waits : LaneState → Bool
  | .parked _ => true
  | .feWait => true
  | _ => false

/-- Apply a cancel to a launch that has not ended (15 R325): gangs not yet placed never are, placed gangs stop, pending
contributions are discarded, and waits of every kind end without effect. -/
def cancelLaunch (s : State) (key : Nat) : State :=
  match mget? s.launches key with
  | none => s
  | some l =>
    if 2 ≤ l.state then s
    else
      { s with
        launches := mset s.launches key { l with cancel := true, contribs := [] }
        gangs := mmap s.gangs fun _ g => if lkey g.pid g.launch == key then cancelGang g else g
        flights := mmap s.flights fun _ f =>
          if lkey f.pid f.launch == key then
            { f with
              frags := f.frags.map fun g => { g with wait := .gone }
              mops := f.mops.map fun o => { o with lanes := o.lanes.filter fun l => !l.st.waits } }
          else f
        global := s.global.map fun q => q.filter (· != key)
        dies := mmap s.dies fun _ d => dropGangs s.cycle key d }

/-- The members of a spawn tree: the root and every launch it names (15 R322). -/
def treeKeys (s : State) (pid root : Nat) : List Nat :=
  (s.launches.filter fun l => l.2.pid == pid && (l.2.id == root || l.2.root == some root)).map (·.1)

/-- Cancel a whole spawn tree; later members are refused (15 R325). -/
def cancelTree (s : State) (pid root : Nat) : State :=
  let s1 := (treeKeys s pid root).foldl cancelLaunch s
  modLaunch s1 (lkey pid root) fun l => { l with treeEnd := true }

/-- Mark a launch faulted with its first fault (15 R321, 19 R403). -/
def markFault (s : State) (key code detail : Nat) (pc : DWord) : State :=
  modLaunch s key fun l => if l.fault.isNone then { l with fault := some (code, detail, pc) } else l

/-! ### Exits (06 R152) -/

/-- Take lanes from a flight: its fragments, tokens and masks lose them; a fragment without lanes ends. -/
def dropLanes (f : Flight) (m : Lanes) : Flight :=
  { f with
    frags := (f.frags.map fun g =>
      { g with owned := g.owned &&& ~~~m, em := g.em &&& ~~~m, rmask := g.rmask &&& ~~~m }).filter fun g => g.owned != 0
    tokens := f.tokens.map fun t => (t.1, t.2 &&& ~~~m)
    exited := f.exited ||| m
    t1 := { f.t1 with em := f.t1.em &&& ~~~m, rmask := f.t1.rmask &&& ~~~m }
    t2 := { f.t2 with em := f.t2.em &&& ~~~m, rmask := f.t2.rmask &&& ~~~m } }

/-- Discard the records an SQFILL of an ended flight has not pushed (05 R142). -/
def dropFills (s : State) (fid : Nat) : State :=
  let mine (c : Cmd) : Bool := c.kind == .sqfill && c.fid == fid
  let ids := (s.engines.map fun e => (e.2.cmds.filter mine).map (·.id)).flatten
  { s with
    engines := mmap s.engines fun _ e => { e with cmds := e.cmds.filter fun c => !mine c }
    work := dropOver (s.work.filter fun w => !ids.contains w.id) }

/-- A complete set whose count differs from the open instance's arrives nothing: its lowest-numbered fragment meets the block-barrier
fault at its BARW or BARA (06 R173). -/
def barRetry (s : State) (fid n : Nat) : State :=
  modFlight s fid fun f =>
    match leastBy (·.num) (f.frags.filter (atBar n)) with
    | some g => { putFrag f { g with wait := .barFault } with refused := n :: f.refused }
    | none => f

/-- An exit may complete a flight's set at a barrier (06 R173). -/
def exitBar (s : State) (fid n : Nat) : State :=
  match flight? s fid with
  | some f =>
    if barSet f n then
      match barArrive s fid n with
      | (s1, true) => s1
      | (s1, false) => barRetry s1 fid n
    else s
  | none => s

/-- An asynchronous fault whose flight has ended marks its launch faulted and is journalled (05 R138, 19 R396). -/
def deadFault (s : State) (pid launch : Nat) (a : AsyncFault) : State :=
  let l := mget? s.launches (lkey pid launch)
  journal (markFault s (lkey pid launch) a.code a.detail a.pc) pid (l.bind Launch.jq) 5 a.code (l.elim 0 (·.pidx)) launch
    (l.elim 0 (·.tag))

/-- The queued faults of a flight that has ended. -/
def flushFaults (s : State) (fid : Nat) : State :=
  match flight? s fid with
  | some f => f.afq.foldl (fun s a => deadFault s f.pid f.launch a) (modFlight s fid fun f => { f with afq := [] })
  | none => s

/-- A running gang all of whose flights have ended retires (16 R351). -/
def startRetiring (s : State) (gid : Nat) : State :=
  if (gangFlights s gid).all fun x => ended x.2 then
    modGang s gid fun g =>
      match g.state with
      | .running => { g with state := .retiring, ran := g.ran + (s.cycle - g.started) }
      | _ => g
  else s

/-- Lanes of a flight exit by an instruction of fragment `by'` (06 R152, 09 R236, 06 R173): merges, closures and
barriers they were missing from complete, and with the last flight its gang begins to retire. -/
def exitLanes (s : State) (fid by' : Nat) (m : Lanes) : State :=
  let s1 := exitInsts (tryMerges (modFlight s fid fun f => dropLanes f m) fid by') fid m
  let s2 := (List.range 16).foldl (fun s n => exitBar s fid n) s1
  match flight? s2 fid with
  | some f =>
    if ended f then
      startRetiring (flushFaults (dropFills ((List.range 16).foldl (fun s n => barTry s f.gid f.rank n) s2) fid) fid) f.gid
    else s2
  | none => s2

/-! ### What is in use on a core -/

/-- The flight's gang is saved: it holds no granules and no slot. -/
def isSaved (s : State) (f : Flight) : Bool := (gangOf s f).elim false fun g => g.state == .saved

/-- The flights that hold a slot of a core. -/
def slotFlightsOf (s : State) (core slot : Nat) : List Flight :=
  (s.flights.filter fun x => x.2.core == core && x.2.slot == slot && !isSaved s x.2).map (·.2)

/-- The gangs that stand on a quad with a block on a rank. -/
def gangsOn (s : State) (die quad rank : Nat) : List Gang :=
  (s.gangs.filter fun x => x.2.die == die && x.2.quad == quad && rank < x.2.nblock).map (·.2)

/-- Granules in use on a slot of a quad's core: those of flights, and those of pools (06 R143, R177). -/
def granulesUsed (s : State) (die quad rank slot : Nat) : Nat :=
  ((slotFlightsOf s (rankCore die quad rank) slot).map fun f => f.vregs / 8).sum +
  (((gangsOn s die quad rank).filter fun g => g.state != .saved).map fun g => mgetD g.pools (rank * 4 + slot) 0).sum

/-- Tiles of a core that are free and set aside for no block. -/
def freeTiles (s : State) (core : Nat) : List Nat :=
  ((List.range 128).map fun n => core * 128 + n).filter fun t => (mgetD s.tiles t Tile.reset).owner.isNone && (mgetD s.tiles t Tile.reset).aside.isNone

/-- The engine that serves a core of a partition (05 R123, 22 R452). -/
def engineFor (s : State) (pid cr : Nat) : Nat :=
  match (part? s pid).bind fun p => p.desc.engineOf.find? fun x => x.1 == cr with
  | some x => x.2
  | none => cr / 48 * 8 + cr % 48 / 6

/-! ### The scheduler state (20 R441, R443) -/

/-- The reason code of a stall (20 R441). -/
def Why.code : Why → Nat
  | .wait c => c
  | .counter => 7
  | .reggive => 27
  | .fence => 17
  | .opfence => 18
  | .engine => 19
  | .tile => 20
  | .fifth => 21
  | .sq => 22
  | .packets => 23
  | .coll => 24
  | _ => 31

/-- The reason code of a wait; one that may issue has none. -/
def Wait.code : Wait → Nat
  | .run => 1
  | .stall w => w.code
  | .park _ => 10
  | .packet _ _ => 10
  | .failPark _ => 10
  | .failPacket _ _ => 10
  | .replay _ => 10
  | .redo _ => 10
  | .perform _ => 31
  | .feWait _ => 11
  | .bowait .. => 12
  | .join _ => 13
  | .lcon _ _ => 14
  | .bar .. => 15
  | .barFault => 15
  | .claim _ _ => 16
  | .sweep _ => 30
  | .step => 31
  | .gone => 31

/-- The lane's access is over: performed, or not to be. -/
def LaneState.over (x : LaneState) : Bool := x == .done || x == .failed

/-- Every lane of the access is over. -/
def Mop.finished (o : Mop) : Bool := o.lanes.all fun l => l.st.over

/-- The result has been written: nothing of it is left. -/
def Pend.finished (p : Pend) : Bool := p.rows.isEmpty

/-- A watched flight waits until its load or special function has written all of its destinations (20 R424). -/
def watchedOpen (f : Flight) : Bool :=
  f.mops.any (fun o => o.late && !o.finished) || f.pend.any fun p => p.late && !p.finished

/-- A fragment that is ready and unissued for 1,024 cycles (16 R352). -/
def agedNow (s : State) (g : Fragment) : Bool := g.wait == .run && !g.halted && !g.stopped && g.ready + 1024 ≤ s.cycle

/-- Why a fragment that has not issued does not (20 R441): the first reason of the table that holds; one that beacons hold until a result
is written waits for that result (R424). -/
def waitReason (f : Flight) (g : Fragment) : Nat :=
  let own := (if g.wait == .run then [] else [g.wait.code]) ++ if watchedOpen f then [2] else []
  let sib := if g.level == 0 && f.frags.any fun h => h.num != g.num && h.level != 0 then [25] else []
  ((leastBy id (own ++ sib ++ (if g.halted then [26] else []) ++ if g.stopped then [29] else [])).getD 1)

/-- Why a fragment does not issue (20 R441): 0 when it issued in the cycle before. -/
def stallReason (now : Nat) (f : Flight) (g : Fragment) : Nat :=
  if g.last.any fun c => now ≤ c + 1 then 0 else waitReason f g

/-- The scheduler state registers of a flight at a trap of a fragment (20 R443), SCHSLOT to SCHUNITS. -/
def schWords (s : State) (f : Flight) (g : Fragment) : List Word :=
  let gg := gangOf s f
  let (die, quad) := gg.elim (0, 0) fun x => (x.die, x.quad)
  let free := Config.slotGranules - granulesUsed s die quad f.rank f.slot
  let age := gg.elim 0 fun x => x.ran + if x.state == .running then s.cycle - x.started else 0
  let ready := f.frags.filter fun h => h.wait == .run && !h.halted && !h.stopped && !watchedOpen f
  [w32 (f.slot + f.pos * 4 + (slotFlightsOf s f.core f.slot).length * 64 + free * 1024),
   w32 (f.frags.length + ready.length * 128 + (f.frags.filter fun h => h.aged || (agedNow s h && !watchedOpen f)).length * 2 ^ 14),
   w32 (stallReason s.cycle f g + min (s.cycle - g.ready) (2 ^ 27 - 1) * 32),
   loWord f.issued, hiWord f.issued, loWord (dw age), hiWord (dw age),
   w32 (((mget? s.engines (engineFor s f.pid f.core)).elim 0 fun e => e.queue.length) + (freeTiles s f.core).length * 256)]

/-! ### Taking an exception (19 R389-R399) -/

/-- What a fault carries into the trap registers (19 R390): code, detail, origin, PC, lanes when they are not em, address,
command PC and sequence number, and the accesses a partial fault leaves. -/
structure FaultInfo where
  code   : Nat
  detail : Nat
  origin : Nat
  pc     : DWord
  mask   : Option Lanes
  addr   : DWord
  cpc    : DWord
  seq    : Word
  kept   : Option Kept
  deriving DecidableEq, Repr

/-- A precise fault at an instruction. -/
def FaultInfo.precise (code detail : Nat) (pc : DWord) : FaultInfo :=
  ⟨code, detail, 0, pc, none, 0, 0, 0, none⟩

/-- TCAUSE (19 R393). -/
def causeWord (fi : FaultInfo) (more : Bool) : Word :=
  w32 (fi.code % 256 + fi.detail % 256 * 256 + fi.origin * 2 ^ 20 + (if more then 2 ^ 24 else 0))

/-- KILL of lanes of a fragment with its effects (19 R403): the lanes exit; when the flight ends its scale records and
partial sets go. With a cause, the launch is marked faulted and cancelled. -/
def killLanes (s : State) (fid n : Nat) (m : Lanes) (cause : Option (Nat × Nat × DWord)) : State :=
  match flight? s fid with
  | none => s
  | some f =>
    let own := match frag? f n with | some g => g.owned &&& m | none => 0
    let s1 := exitLanes s fid n own
    let s2 := match flight? s1 fid with
      | some f1 => if ended f1 then modFlight s1 fid fun f => { f with sq := [], psets := [] } else s1
      | none => s1
    match cause with
    | some (c, d, pc) => cancelLaunch (markFault s2 (lkey f.pid f.launch) c d pc) (lkey f.pid f.launch)
    | none => s2

/-- Write a halt record (20 R428, R429). -/
def haltRecord (s : State) (f : Flight) (g : Fragment) (cause scope bcns further : Nat) (pc resume : DWord) (seq tcause : Word)
    (lanes : Lanes) (bits : Nat) : State :=
  match part? s f.pid with
  | none => s
  | some p =>
    let ctl := p.hrctl.toNat
    if !bitOf ctl 0 then s
    else
      let a := bitsOf ctl 51 12 * 4096 + 64 * (p.hrhead.toNat % 2 ^ (bitsOf ctl 4 1 + 6))
      let num := (gangOf s f).elim 0 (·.num)
      let bs := bytesOfNat 1 (f.core / 48) ++ bytesOfNat 1 (f.core % 48) ++ bytesOfNat 1 f.rank ++ bytesOfNat 1 f.idx ++
        bytesOfNat 4 f.launch ++ bytesOfNat 8 (num % 2 ^ 48) ++ bytesOfNat 1 cause ++ bytesOfNat 1 scope ++
        bytesOfNat 2 bcns ++ bytesOfNat 1 further ++ bytesOfNat 1 g.num ++ bytesOfNat 2 g.level ++
        bytesOfNat 8 pc.toNat ++ bytesOfNat 4 seq.toNat ++ bytesOfNat 4 tcause.toNat ++ bytesOfNat 8 resume.toNat ++
        bytesOfNat 12 lanes.toNat ++ bytesOfNat 4 bits
      modPart (devWrite s f.pid a bs) f.pid fun q => { q with hrhead := q.hrhead + 1 }

/-- A queued halt has lost every lane it targets (19 R411). -/
def haltGone (f : Flight) (q : QHalt) : Bool :=
  ended f || (q.scope == 1 && !(f.frags.any fun g => g.num == q.frag && g.owned &&& q.lanes != 0))

/-- Report the queued halts whose target is gone (19 R411). -/
def reportGone (s : State) (fid : Nat) (g : Fragment) (tcause : Word) : State :=
  match flight? s fid with
  | none => s
  | some f =>
    let gone := f.haltq.filter (haltGone f)
    gone.foldl (fun s q => haltRecord s f g 5 q.scope q.beacons 0 q.pc g.pc q.seq tcause 0 (if q.withheld then 1 else 0))
      (modFlight s fid fun f => { f with haltq := f.haltq.filter fun q => !haltGone f q })

/-- The trace packet of an exit, written on the state after it (20 R437). -/
def exitPacket (s : State) (fid : Nat) (f : Flight) (g : Fragment) : State :=
  match flight? s fid with
  | some x =>
    tracePacket s f g 5 ((if (frag? x g.num).isNone then 1 else 0) + (if ended x then 2 else 0))
  | none => s

/-- KILL of lanes with what it reports (19 R403, R411, 20 R437): queued halts whose target is gone, with the TCAUSE given, and the exit's
trace packet. -/
def killReport (s : State) (fid : Nat) (f : Flight) (g : Fragment) (m : Lanes) (cause : Option (Nat × Nat × DWord)) (tcause : Word) :
    State :=
  exitPacket (reportGone (killLanes s fid g.num m cause) fid g tcause) fid f g

/-- A fault that cannot be taken (19 R399): the freeze line of the job is asserted, firmware is notified, and the fragment issues nothing
further. The trap registers of level 2 hold the first cause (log 58). -/
def doubleFault (s : State) (fid n : Nat) (code : Nat) : State :=
  match flight? s fid with
  | none => s
  | some f =>
    let first := (frag? f n).elim f.t2 fun g => bank f g.level
    let s1 := modFlight s fid fun f =>
      { f with
        dblFlt := some code
        t2 := { first with te := f.t2.te, ss := f.t2.ss, vt := f.t2.vt }
        frags := f.frags.map fun g => if g.num == n then { g with wait := .gone } else g }
    send (assertFreeze s1 f.pid) (.firmware f.pid 0x30)

/-- A trap may be taken at a fragment's level (19 R389). -/
def trapOpen (f : Flight) (level : Nat) : Bool := level == 0 || (level == 1 && f.t1.te)

/-- Pre-emption may stop a fragment at its level (19 R405, R406). -/
def stopOpen (f : Flight) (level : Nat) : Bool := level == 0 || (bank f level).te

/-- Outstanding results of an earlier handler at a level are no longer counted there (19 R395, R402); `level % 10` is still
the bank they were issued with. -/
def orphan (f : Flight) (n : Nat) : Flight :=
  { f with
    mops := f.mops.map fun o => if o.level == n then { o with level := n + 10 } else o
    pend := f.pend.map fun p => if p.level == n then { p with level := n + 10 } else p }

/-- The fragment enters the next level (19 R390); its TCAUSE has told of the faults that were dropped (R396). -/
def enterTrap (f : Flight) (g : Fragment) (fi : FaultInfo) (more : Bool) (sch : List Word) : Flight :=
  let n := g.level + 1
  let t := bank f n
  let t1 : TrapSet :=
    { t with
      cause := causeWord fi more, pc := fi.pc, region := g.region, mask := fi.mask.getD g.em, em := g.em, addr := fi.addr,
      seq := fi.seq, cpc := fi.cpc, rpc := g.rpc, te := false, rmask := g.rmask, kept := fi.kept,
      skip := g.skip, sch := sch }
  putFrag (orphan (setBank { f with afMore := false } n t1) n)
    { g with level := n, pc := f.tvec, region := 0, rpc := f.tvec, rmask := g.em, wait := .run, run := 0, skip := false }

/-- TAKING AN EXCEPTION: fragment `n` of flight `fid` takes a trap (19 R389, R390), or meets a double fault (R399), or, with
no handler, is killed with all its lanes (R390, R403). -/
def takeTrap (s : State) (fid n : Nat) (fi : FaultInfo) (more : Bool) : State :=
  match flight? s fid with
  | none => s
  | some f =>
    match frag? f n with
    | none => s
    | some g =>
      if !trapOpen f g.level then doubleFault s fid n fi.code
      else if g.level == 0 && f.tvec == 0 then killReport s fid f g g.owned (some (fi.code, fi.detail, fi.pc)) (causeWord fi more)
      else
        let f1 := enterTrap f g fi more (schWords s f g)
        let s1 := modFlight s fid fun _ => f1
        match frag? f1 n with
        | some g1 => tracePacket s1 f1 g1 2 f1.tvec.toNat
        | none => s1

/-- RETURNING FROM AN EXCEPTION (19 R402): the fragment leaves level `n` for `pc` with activity `em`, and, where it issues there the
instruction that it was to issue, with beacons not to examine it as before the trap (20 R426). -/
def leaveTrap (f : Flight) (g : Fragment) (pc : DWord) (em : Lanes) (same : Bool) : Flight :=
  let t := bank f g.level
  putFrag (setBank f g.level { t with kept := none })
    { g with level := g.level - 1, pc := pc, em := em &&& g.owned, region := t.region, rpc := t.rpc,
             rmask := t.rmask &&& g.owned, run := 0, skip := same && t.skip }

/-- Queue an asynchronous fault in a flight (19 R396); when the flight has ended or is gone, its launch is marked faulted
and the fault journalled (05 R138). -/
def asyncFault (s : State) (fid pid launch : Nat) (a : AsyncFault) : State :=
  let dead := match flight? s fid with | some f => ended f | none => true
  if dead then deadFault s pid launch a
  else
    modFlight s fid fun f =>
      if f.afq.length < 16 then { f with afq := f.afq ++ [a] } else { f with afMore := true }

/-- Raise the ovf bit's asynchronous fault in each flight whose armed copy was due a fifth firing (05 R141). -/
def lateFirings (s : State) (arms : List Arm) : State :=
  arms.foldl (fun s a => asyncFault s a.cmd.fid a.cmd.pid a.cmd.launch ⟨0x10, 0x0D, 0, a.trigVa, a.cmd.pc, a.cmd.seq, none⟩) s

/-! ### Answers of a meaning -/

/-- What a meaning answers. -/
abbrev Ans := Host.Outcome State Fault Refusal

/-- The instruction faults: the issuing fragment takes the trap and nothing else changes. -/
def trapNow (c : Ctx) (fi : FaultInfo) : State := takeTrap c.st c.st.cur.1 c.g.num fi c.f.afMore

/-- A precise fault of the issuing instruction. -/
def fault (c : Ctx) (code detail : Nat) : State := trapNow c (FaultInfo.precise code detail c.g.pc)

/-- A precise fault with a failing address. -/
def faultAt (c : Ctx) (code detail : Nat) (addr : DWord) : State :=
  trapNow c { FaultInfo.precise code detail c.g.pc with addr := addr }

/-- The instruction does not issue: it is tried again when it can (06 R153). -/
def stall (c : Ctx) (w : Why) : State := commit { c with g := { c.g with wait := .stall w } }

/-- Go to an address. -/
def goto (c : Ctx) (pc : DWord) : Ctx := { c with g := { c.g with pc := pc, wait := .run } }

/-- Go on at the next instruction. -/
def next (c : Ctx) : Ctx := goto c (c.g.pc + 8)

end Sys2Proof.Machine
end

