-- ==== Sys2Proof/Machine/Operands.lean ====
section
/-!
DEFINITION. Every operand form: inline constants (02 R20), registers of every class (02 R19, 08 R196, R197), pairs, and the
checks at issue of the privileged classes (02 R21) and of the register bound (02 R23).
-/
namespace Sys2Proof.Machine

/-- The format of one element of a floating-point type (02 R15). -/
def fmtOf : Ty → Fmt
  | .f16x2 => f16 | .f16 => f16 | .bf16x2 => bf16 | .bf16 => bf16 | .f64 => f64 | _ => f32

/-- The type holds two elements in a register. -/
def paired (t : Ty) : Bool := t == .f16x2 || t == .bf16x2

/-- The finite values of class C (02 R20): sign, numerator and exponent of two; an irrational value is cut after 120
fraction bits, its last bit set. -/
def cstTable : List (Bool × Nat × Int) :=
  [(false, 1, -1), (false, 1, 0), (false, 1, 1), (false, 1, 2), (true, 1, -1), (true, 1, 0), (true, 1, 1), (true, 1, 2),
   (false, 0xa2f9836e4e441529fc2757d1f534dd, -121), (false, 0x162e42fefa39ef35793c7673007e5ed, -121),
   (false, 1, -2), (false, 1, 3), (false, 1, 4), (false, 1, -3), (true, 1, -2), (true, 1, 3),
   (false, 0x6487ed5110b4611a62633145c06e0e7, -121), (false, 0xc90fdaa22168c234c4c6628b80dc1cd, -121),
   (false, 0x3243f6a8885a308d313198a2e037073, -121), (false, 0x56fc2a2c515da54d57ee2b10139e9e7, -121),
   (false, 0x2e2a8eca5705fc2eefa1ffb41a474fb, -121), (false, 0x6a4d3c25e68dc57f2495fb7fa6d7edb, -121),
   (false, 0x9a209a84fbcff7988f8959ac0b7c91, -121), (false, 0x2d413cccfe779921165f626cdd52afb, -121),
   (false, 0x16a09e667f3bcc908b2fb1366ea957d, -121)]

/-- The bits of class C constant `n` in a format (02 R20). -/
def cstBits (f : Fmt) (n : Nat) : Nat :=
  match cstTable[n]? with
  | some (neg, m, e) => (roundTo f 0 neg m 1 e).1
  | none =>
    match n with
    | 25 => f.zero false
    | 26 => f.zero true
    | 27 => f.inf false
    | 28 => f.inf true
    | 29 => f.maxFin false
    | 30 => 2 ^ f.p
    | _ => f.nan

/-- One element's bits in both halves of a paired type. -/
def both (t : Ty) (x : Nat) : Nat := if paired t then x * 2 ^ 16 + x else x

/-- The value an inline operand supplies in a type (02 R20). -/
def inlineBits (t : Ty) : Opnd → Nat
  | .imm n =>
    if t.isFp then both t (roundVal (fmtOf t) 0 (ofInt n.val 0)).1
    else if t == .fx64 then n.val * 2 ^ 32 else n.val
  | .cst n => both t (cstBits (fmtOf t) n.val)
  | _ => 0

/-- The operand is inline (class I or C). -/
def isInline : Opnd → Bool
  | .imm _ => true
  | .cst _ => true
  | _ => false

/-- Word `k` of a register operand's group, in a lane (02 R15, R19; a scalar is applied to every lane, 08 R196). -/
def regWord (c : Ctx) (o : Opnd) (k l : Nat) : Word :=
  match o with
  | .v n => getV c.st c.f (n.val + k) l
  | .s n => getS c.f c.g (n.val + k)
  | .ss n => mgetD (bank c.f c.g.level).ss (n.val + k) 0
  | .vt n => rowAt (mgetD (bank c.f c.g.level).vt (n.val + k) []) l
  | _ => 0

/-- The value of an operand of a type in a lane, as a number of 32 or 64 bits. -/
def src (c : Ctx) (t : Ty) (o : Opnd) (l : Nat) : Nat :=
  if isInline o then inlineBits t o
  else if t.regs == 2 then (regWord c o 0 l).toNat + (regWord c o 1 l).toNat * 2 ^ 32
  else (regWord c o 0 l).toNat

/-- A 32-bit integer operand in a lane. -/
def src32 (c : Ctx) (o : Opnd) (l : Nat) : Word := w32 (src c .u32 o l)

/-- A scalar 32-bit operand. -/
def srcS (c : Ctx) (o : Opnd) : Word := src32 c o 0

/-- A scalar 64-bit operand: a pair, or an inline integer zero-extended (06 R159). -/
def srcS2 (c : Ctx) (o : Opnd) : DWord := dw (src c .u64 o 0)

/-- Element `e` of a paired value. -/
def elemOf (x e : Nat) : Nat := x / 2 ^ (16 * e) % 2 ^ 16

/-- A value of one element as its format sees it: 16-bit types use bits [15:0] (08 R197). -/
def fval (t : Ty) (x : Nat) : FVal := (fmtOf t).val (x % (2 * (fmtOf t).sign))

/-- The operand groups of the instruction name a register of the trap banks (02 R21). -/
def usesBank (ops : List (Opnd × Nat)) : Bool := ops.any fun o => o.1.cls == .SS || o.1.cls == .VT

/-- The operand group reaches a vector register at or above the allocation (02 R23). -/
def outOfBound (vregs : Nat) (o : Opnd × Nat) : Bool :=
  match o.1 with
  | .v n => vregs < n.val + o.2
  | _ => false

/-- The operand groups of an optional destination. -/
def optGroup : Option Opnd → List (Opnd × Nat)
  | none => []
  | some o => [(o, 1)]

/-- The registers of a memory operand's base pair (02 R28). -/
def addrGroup (m : MAddr) : Opnd × Nat :=
  if m.vec then (.v ⟨2 * m.k.val, by have := m.k.isLt; omega⟩, 2)
  else (.s ⟨2 * m.k.val % 96, Nat.mod_lt _ (by decide)⟩, 2)

/-- The issue of an instruction word (02 R39, R40): a privileged form at level 0 is illegal with detail 6, a register at or
above the allocation is the register-bound fault, and then the instruction acts. -/
def issue (ops : List (Opnd × Nat)) (priv : Bool) (body : Ctx → State) (s : State) : Ans :=
  match issuer? s with
  | none => .fault .noIssuer
  | some c =>
    if c.g.level == 0 && (priv || usesBank ops) then .next (fault c 1 6)
    else if ops.any (outOfBound c.f.vregs) then .next (fault c 5 0)
    else .next (body c)

end Sys2Proof.Machine
end

