-- ==== Sys2Proof/Machine/Flags.lean ====
section
/-!
DEFINITION. The sticky flags (07 R185-R187): the four flags of each lane, FPFLAGS as their OR, and the raising and clearing
of them.
-/
namespace Sys2Proof.Machine

/-- The lanes of a mask whose flag bits, given for each lane, hold flag `i`. -/
def flagLanes (bits : Nat → Nat) (m : Lanes) (i : Nat) : Lanes := lanesOf fun l => m.getLsbD l && bitOf (bits l) i

/-- The four lane masks that flag bits raise in the lanes of a mask. -/
def flagMasks (bits : Nat → Nat) (m : Lanes) : List Lanes := (List.range 4).map (flagLanes bits m)

/-- OR flag masks into others; an absent mask is empty. -/
def orMasks (a b : List Lanes) : List Lanes := (List.range 4).map fun i => a.getD i 0 ||| b.getD i 0

/-- Raise flags, given as lane masks, in a flight (07 R185). -/
def Flight.raise (f : Flight) (ms : List Lanes) : Flight := { f with lflags := orMasks f.lflags ms }

/-- Raise flags in the issuing flight and show them to the beacons (20 R423). -/
def raise (c : Ctx) (ms : List Lanes) : Ctx :=
  { c with f := c.f.raise ms, obs := { c.obs with flg := orMasks c.obs.flg ms } }

/-- FPFLAGS: the OR over the 96 lanes (07 R186). -/
def fpflags (f : Flight) : Word :=
  w32 ((List.range 4).foldl (fun acc i => acc + (if f.lflags.getD i 0 == 0 then 0 else 2 ^ i)) 0)

/-- Clear the flags whose bits are set, in every lane (07 R186); an outstanding result may still raise them or not (R187). -/
def clearFlags (f : Flight) (w : Word) : Flight :=
  { f with
    lflags := (List.range 4).map fun i => if w.getLsbD i then 0 else f.lflags.getD i 0
    pend := f.pend.map fun p =>
      { p with cleared := (List.range 4).map fun i => if w.getLsbD i then allLanes else p.cleared.getD i 0 } }

/-- The flags of one lane, laid out as FPFLAGS. -/
def laneFlags (f : Flight) (l : Nat) : Nat :=
  (List.range 4).foldl (fun acc i => acc + (if (f.lflags.getD i 0).getLsbD l then 2 ^ i else 0)) 0

/-- Replace the flags of one lane (20 R430). -/
def setLaneFlags (f : Flight) (l x : Nat) : Flight :=
  { f with lflags := (List.range 4).map fun i =>
      if bitOf x i then f.lflags.getD i 0 ||| Lanes.one l else f.lflags.getD i 0 &&& ~~~(Lanes.one l) }

end Sys2Proof.Machine
end

