-- ==== Sys2Proof/Machine/Beacons.lean ====
section
/-!
DEFINITION. Beacons (20 R420-R424), their actions and halts (R425-R427), halt records (R428, R429), and the retirement of an
instruction, which shows the beacons what it did.
-/
namespace Sys2Proof.Machine

/-- A beacon's four registers (20 R421, R422). -/
structure Bcn where
  num  : Nat
  ctl  : Nat
  lo   : Nat
  hi   : Nat
  mask : Nat

/-- Beacon `b` among a core's beacon registers. -/
def bcn (rs : Cells DWord) (b : Nat) : Bcn :=
  let r (i : Nat) := (mgetD rs (4 * b + i) 0).toNat
  ⟨b, r 0, r 1, r 2, r 3⟩

/-- The beacon watches an instruction of a fragment (20 R421). -/
def Bcn.watches (f : Flight) (g : Fragment) (b : Bcn) : Bool :=
  bitOf b.ctl 0 && (bitsOf b.ctl 63 32 == 0 || bitsOf b.ctl 63 32 == f.launch) && bitOf (bitsOf b.ctl 31 16) f.idx &&
    match bitsOf b.ctl 15 14 with
    | 0 => true
    | 1 => g.level == 0
    | 2 => g.level != 0
    | _ => false

/-- The beacons, of those that some registers describe, that watch an instruction of a fragment. -/
def watching (rs : Cells DWord) (f : Flight) (g : Fragment) : List Bcn :=
  if rs.isEmpty then [] else ((List.range 16).map (bcn rs)).filter (Bcn.watches f g)

/-- A word lies between a value beacon's bounds (20 R422). -/
def Bcn.inRange (b : Bcn) (w : Word) : Bool :=
  let x : Word := w &&& w32 (bitsOf b.mask 31 0)
  let lo : Word := w32 (bitsOf b.lo 31 0)
  let hi : Word := w32 (bitsOf b.hi 31 0)
  match bitsOf b.ctl 6 5 with
  | 0 => lo.toNat ≤ x.toNat && x.toNat ≤ hi.toNat
  | 1 => lo.toInt ≤ x.toInt && x.toInt ≤ hi.toInt
  | 2 =>
    let v := f32.val x.toNat
    fCond .ge v (f32.val lo.toNat) && fCond .le v (f32.val hi.toNat)
  | _ => (f32.val x.toNat).isNan

/-- A beacon that is not chained matches a lane (20 R422, R423). -/
def Bcn.plain (b : Bcn) (o : Obs) (l : Nat) : Bool :=
  match bitsOf b.ctl 4 2 with
  | 0 => o.acc.any fun a => bitOf b.ctl (7 + a.1) && a.2.1 == l && max b.lo a.2.2.1 < min (b.hi + 1) (a.2.2.1 + a.2.2.2)
  | 1 => o.vals.any fun v => bitOf b.ctl (7 + v.1) && v.2.1 == l && b.inRange v.2.2
  | 2 => (List.range 4).any fun i => bitOf b.mask i && (o.flg.getD i 0).getLsbD l
  | _ => false

/-- Beacon `k` matches a lane; a chained beacon asks its partners (20 R422). -/
def laneHit (bs : List Bcn) (o : Obs) (l : Nat) : Nat → Nat → Bool
  | 0, _ => false
  | n + 1, k =>
    match bs.find? fun b => b.num == k with
    | none => false
    | some b =>
      if bitsOf b.ctl 4 2 == 3 then
        laneHit bs o l n (k + 1) &&
          (if bitOf b.hi 0 then laneHit bs o l n (k + 2)
           else
             let cnt := match bs.find? fun b => b.num == k + 1 with | some p => bitsOf p.mask 63 32 | none => 0
             bitsOf b.lo 31 0 ≤ min (cnt + 1) 0xFFFF_FFFF)
      else b.plain o l

/-- The matching beacons with their lanes, lowest number first. -/
def beaconHits (bs : List Bcn) (o : Obs) : List (Bcn × Lanes) :=
  (bs.map fun b => (b, lanesOf fun l => laneHit bs o l 16 b.num)).filter fun x => x.2 != 0

/-- The action of a beacon. -/
def Bcn.action (b : Bcn) : Nat := bitsOf b.ctl 13 11

/-- The strongest action that stops the fragment (20 R425): halt job, gang, flight, lane, then user debug trap. -/
def strongest (hs : List (Bcn × Lanes)) : Option Nat := [4, 3, 2, 1, 6].find? fun a => hs.any fun h => h.1.action == a

/-- The lanes of a once-made access as beacons count it (20 R423). -/
def onceLanes (g : Fragment) : List Nat := if g.em == 0 then (lowestLane g.owned).toList else g.em.list

/-! ### Halts -/

/-- The lowest fragment number not in use (06 R148). -/
def freshFrag (f : Flight) : Nat :=
  ((List.range 97).find? fun n => !(f.frags.any fun g => g.num == n)).getD 96

/-- Detach lanes of a fragment as a new one, owning and activating exactly them, at a PC (06 R149, 19 R386). -/
def detach (f : Flight) (g : Fragment) (m : Lanes) (pc : DWord) : Flight × Fragment :=
  let h : Fragment :=
    { g with num := freshFrag f, owned := m, em := m, pc := pc, rmask := g.rmask &&& m, wait := .run, last := none, run := 0,
             aged := false, skip := false }
  let g1 : Fragment := { g with owned := g.owned &&& ~~~m, em := g.em &&& ~~~m, rmask := g.rmask &&& ~~~m }
  ({ putFrag f g1 with frags := insBy (·.num) h (putFrag f g1).frags }, h)

/-- Halt lanes of a fragment at their resume PC: all of it, or the lanes detached, active as they were (20 R426). Answers the halted
fragment. -/
def haltLanes (f : Flight) (g : Fragment) (m : Lanes) (resume : DWord) : Flight × Fragment :=
  if subLanes g.owned m then
    let h := { g with halted := true, pc := resume }
    (putFrag f h, h)
  else
    let (f1, h) := detach f g m resume
    let h := { h with halted := true, em := g.em &&& m }
    (putFrag f1 h, h)

/-- Ask every other flight of a gang to halt within its skid (20 R426). Of such a request `pc` holds what the flight had
issued, and `seq` is 1 where one of its fragments is in a handler (R411). -/
def haltOthers (s : State) (f : Flight) (fid : Nat) : State :=
  { s with flights := mmap s.flights fun k (x : Flight) =>
      if x.gid == f.gid && k != fid && !ended x && x.frags.any (fun g => !g.halted) then
        let q : QHalt := ⟨3, 4, 0, 127, 0, x.issued, if x.frags.any fun g => g.level != 0 then 1 else 0, false⟩
        { x with haltq := x.haltq ++ [q] }
      else x }

/-- Halt at a fragment (20 R426): scope 1 lane, 2 flight, 3 gang, 4 job; with its record. `lanes` matter for a lane halt. -/
def applyHalt (s : State) (fid n scope cause bcns : Nat) (lanes : Lanes) (pc resume : DWord) (seq tcause : Word)
    (withheld : Bool) (further : Nat) : State :=
  match flight? s fid with
  | none => s
  | some f =>
    match frag? f n with
    | none => s
    | some g =>
      let wh := if withheld then 1 else 0
      if scope == 1 then
        let (f1, h) := haltLanes f g (lanes &&& g.owned) resume
        haltRecord (modFlight s fid fun _ => f1) f h cause scope bcns further pc resume seq tcause h.owned wh
      else
        let f1 := putFrag f { g with pc := resume }
        let f2 := { f1 with frags := f1.frags.map fun g => { g with halted := true } }
        haltRecord (modFlight s fid fun _ => f2) f g cause scope bcns further pc resume seq tcause
          (unionLanes (f.frags.map (·.owned))) (wh + if scope == 3 || scope == 4 then 2 else 0)

/-- What a beacon's halt does beyond its flight, at any level (20 R426, 21 R445): the other flights of the gang halt and the
collector stops its engine work, or the job's freeze line is asserted. -/
def haltBeyond (s : State) (f : Flight) (fid a : Nat) : State :=
  if a == 3 then modGang (haltOthers s f fid) f.gid fun x => { x with engStop := true }
  else if a == 4 then assertFreeze s f.pid
  else s

/-- The hit count that a beacon of a core holds now (20 R422). -/
def hitCount (rs : Cells DWord) (b : Nat) : Nat := bitsOf (mgetD rs (4 * b + 3) 0).toNat 63 32

/-- The beacon with the hit count that the core's registers hold now. -/
def Bcn.recount (rs : Cells DWord) (b : Bcn) : Bcn := { b with mask := bitsOf b.mask 31 0 + hitCount rs b.num * 2 ^ 32 }

/-- One hit is counted in a beacon's register (20 R422). -/
def countHit (rs : Cells DWord) (b : Nat) : Cells DWord :=
  if hitCount rs b == 0xFFFF_FFFF then rs else mput 0 rs (4 * b + 3) (mgetD rs (4 * b + 3) 0 + dw (2 ^ 32))

/-- Count the matches, latch snapshots and emit beacon packets (20 R425). -/
def countHits (s : State) (f : Flight) (g : Fragment) (seq : Word) (hs : List (Bcn × Lanes)) : State :=
  let s1 := hs.foldl (fun s h => modCore s f.core fun k => { k with bcn := countHit k.bcn h.1.num }) s
  let s2 := if hs.any fun h => bitOf h.1.ctl 10 then latch s1 else s1
  hs.foldl (fun s h =>
    if h.1.action == 5 then
      tracePacket s f g 7 (h.1.num + (lowestLane h.2).getD 0 * 16 + seq.toNat * 2 ^ 11)
    else s) s2

/-- Take the strongest action of some matches at a fragment (20 R425, R426). `i` names a withheld store or atomic. -/
def takeAction (s : State) (fid n : Nat) (hs : List (Bcn × Lanes)) (pc resume : DWord) (seq : Word) (i : Option Instr) : State :=
  match flight? s fid with
  | none => s
  | some f =>
    match frag? f n with
    | none => s
    | some g =>
      let names := (hs.map fun h => 2 ^ h.1.num).sum
      match strongest hs with
      | none => s
      | some a =>
        let lanes := unionLanes ((hs.filter fun h => h.1.action == a).map (·.2))
        if g.halted then s
        else if a == 6 then
          if g.level == 0 then
            let b := (hs.map (·.1.num)).headD 0
            takeTrap s fid n { FaultInfo.precise 0x22 b pc with seq := 0, kept := i.map fun x => .access x [] } f.afMore
          else s
        else
          let s1 := haltBeyond s f fid a
          if g.level == 0 then applyHalt s1 fid n a 1 names lanes pc resume seq 0 i.isSome 0
          else
            -- The fragment that asserted the line issues nothing further (19 R412).
            modFlight s1 fid fun f =>
              { (if a == 4 then putFrag f { g with wait := .gone } else f) with
                haltq := f.haltq ++ [⟨a, 1, names, n, lanes, pc, seq, i.isSome⟩] }

/-- Examine a completed instruction with the beacons that some registers describe, and the hit counts as they are now (20 R422,
R425). -/
def examine (s : State) (rs : Cells DWord) (fid n : Nat) (pc : DWord) (seq : Word) (obs : Obs) : State :=
  match flight? s fid with
  | none => s
  | some f =>
    match frag? f n with
    | none => s
    | some g =>
      match beaconHits ((watching rs f g).map (Bcn.recount (core s f.core).bcn)) obs with
      | [] => s
      | hs => takeAction (countHits s f g seq hs) fid n hs pc g.pc seq none

/-- A beacon of the value class for loads or results, or of the FP exception class, watches the fragment: it waits for its
results (20 R424). -/
def lateWatch (rs : Cells DWord) (f : Flight) (g : Fragment) : Bool :=
  (watching rs f g).any fun b =>
    (bitsOf b.ctl 4 2 == 1 && (bitOf b.ctl 7 || bitOf b.ctl 9)) || bitsOf b.ctl 4 2 == 2

/-! ### Retirement -/

/-- The issue is counted (20 R443, 16 R352, 06 R153). -/
def settled (c : Ctx) : Ctx :=
  { c with
    f := { c.f with issued := c.f.issued + 1 }
    g := { c.g with last := some c.st.cycle, run := c.g.run + 1, ready := c.st.cycle, aged := false, skip := false } }

/-- A store or atomic that a halt or trap match withholds (20 R425): the state after the action, or none when it is to be
performed. At level 1 and 2 a halt is queued and the fragment goes on after the store, which no lane performs (21 R445, R446); a trap
there is not taken, and the store is performed (R426). -/
def withhold (c : Ctx) (i : Instr) : Option State :=
  if c.g.skip || c.g.halted then none
  else
    let hs := beaconHits (watching (core c.st c.f.core).bcn c.f c.g) c.obs
    match strongest hs with
    | none => none
    | some a =>
      if c.g.level != 0 && a == 6 then none
      else
        let s := commit (if c.g.level == 0 then c else settled (next c))
        some (takeAction (countHits s c.f c.g c.f.seqNo hs) c.st.cur.1 c.g.num hs c.g.pc c.g.pc c.f.seqNo (some i))

/-- An instruction completes: `c0` is the context it issued in and `c` what it left, and the beacons examine it. -/
def retire (c0 c : Ctx) : State :=
  let s := commit (settled c)
  let rs := (core c0.st c.f.core).bcn
  if c0.g.skip || rs.isEmpty then s else examine s rs c0.st.cur.1 c0.g.num c0.g.pc c0.f.seqNo c.obs

/-- An instruction completes and the fragment goes on at the next one. -/
def retireNext (c0 c : Ctx) : State := retire c0 (next c)

end Sys2Proof.Machine
end

