-- ==== Sys2Proof/Machine/Alu.lean ====
section
/-!
DEFINITION. The computations of one lane or of the scalar unit: integer operations (06 R158, 08 R200-R202), floating point
(08 R209-R215), conversions (R216, R217), statistics (R221, R222), block formats (R223-R225), and reductions (R207, R211).
-/
namespace Sys2Proof.Machine

/-! ### Integers -/

/-- A shift left; 0 from 32 on. -/
def aShl (a b : Word) : Word := a <<< b.toNat
/-- A logical shift right; 0 from 32 on. -/
def aShr (a b : Word) : Word := a >>> b.toNat
/-- An arithmetic shift right; all sign bits from 32 on. -/
def aSar (a b : Word) : Word := a.sshiftRight b.toNat
/-- The high word of the exact product (06 R158). -/
def aMulh (sgn : Bool) (a b : Word) : Word :=
  if sgn then BitVec.ofInt 32 ((a.toInt * b.toInt) / 2 ^ 32) else w32 (a.toNat * b.toNat / 2 ^ 32)
/-- a lies below b, signed or unsigned. -/
def aLt (sgn : Bool) (a b : Word) : Bool := if sgn then a.slt b else a.ult b
/-- The smaller. -/
def aMin (sgn : Bool) (a b : Word) : Word := if aLt sgn b a then b else a
/-- The larger. -/
def aMax (sgn : Bool) (a b : Word) : Word := if aLt sgn a b then b else a
/-- An integer comparison (06 R158, 08 R201). -/
def aCond (sgn : Bool) (c : Cond) (a b : Word) : Bool :=
  match c with
  | .eq => a == b
  | .ne => a != b
  | .lt => aLt sgn a b
  | .le => !aLt sgn b a
  | .gt => aLt sgn b a
  | .ge => !aLt sgn a b
/-- Field extract (06 R158). -/
def aBfe (sgn : Bool) (a b x : Word) : Word :=
  let pos := b.toNat % 32
  let len := min x.toNat 32
  let f := a.toNat / 2 ^ pos % 2 ^ len
  if sgn && 0 < len && bitOf f (len - 1) then BitVec.ofInt 32 ((f : Int) - (2 ^ len : Nat)) else w32 f
/-- Field insert (08 R200). -/
def aBfi (a b c : Word) : Word :=
  let pos := bitsOf b.toNat 7 0
  let len := bitsOf b.toNat 15 8
  if 32 ≤ pos || len == 0 then c
  else
    let m : Word := w32 ((2 ^ min len (32 - pos) - 1) * 2 ^ pos)
    (c &&& ~~~m) ||| ((a <<< pos) &&& m)
/-- The number of set bits. -/
def aPopc (a : Word) : Word := w32 ((List.range 32).filter fun i => a.getLsbD i).length
/-- The number of leading zero bits; 32 for 0. -/
def aClz (a : Word) : Word := w32 (32 - bitLen a.toNat)
/-- |a| as two's complement (08 R200). -/
def aAbs (a : Word) : Word := if a.msb then 0 - a else a
/-- A branch condition on a signed word (02 R33). -/
def aCc (c : Cc) (a : Word) : Bool :=
  match c with
  | .eqz => a == 0
  | .nez => a != 0
  | .ltz => a.msb
  | .gez => !a.msb
  | .gtz => !a.msb && a != 0
  | .lez => a.msb || a == 0

/-! ### Floating point -/

/-- Apply an operation element by element: both halves of a paired type, with the flags ORed (08 R197). -/
def elems (t : Ty) (k : (Nat → Nat) → FRes) : FRes :=
  if paired t then
    let lo := k fun x => elemOf x 0
    let hi := k fun x => elemOf x 1
    (lo.1 + hi.1 * 2 ^ 16, lo.2 ||| hi.2)
  else k id

/-- VFADD of one lane. -/
def lFadd (t : Ty) (mode x y : Nat) : FRes := elems t fun e => fAdd (fmtOf t) mode (fval t (e x)) (fval t (e y))
/-- VFSUB of one lane. -/
def lFsub (t : Ty) (mode x y : Nat) : FRes := elems t fun e => fAdd (fmtOf t) mode (fval t (e x)) (fval t (e y)).neg
/-- VFMUL of one lane. -/
def lFmul (t : Ty) (mode x y : Nat) : FRes := elems t fun e => fMul (fmtOf t) mode (fval t (e x)) (fval t (e y))
/-- VFMA of one lane. -/
def lFma (t : Ty) (mode x y z : Nat) : FRes :=
  elems t fun e => fMa (fmtOf t) mode (fval t (e x)) (fval t (e y)) (fval t (e z))
/-- VFMIN or VFMAX of one lane (08 R210). -/
def lFmm (mx : Bool) (t : Ty) (x y : Nat) : FRes :=
  elems t fun e => (fMinMax (fmtOf t) mx (e x % (2 * (fmtOf t).sign)) (e y % (2 * (fmtOf t).sign)), 0)
/-- VFRND of one lane (08 R214). -/
def lFrnd (t : Ty) (mode x : Nat) : FRes := elems t fun e => fRnd (fmtOf t) mode (e x % (2 * (fmtOf t).sign))
/-- VFSCL of one lane (08 R215). -/
def lFscl (t : Ty) (mode x : Nat) (n : Int) : FRes :=
  elems t fun e =>
    match fval t (e x) with
    | .inf neg => ((fmtOf t).inf neg, 0)
    | _ => fScl (fmtOf t) mode (e x % (2 * (fmtOf t).sign)) n

/-- The bounds of an integer type (08 R216). -/
def intBounds : Ty → Int × Int
  | .u32 => (0, 2 ^ 32 - 1)
  | .s32 => (-(2 ^ 31), 2 ^ 31 - 1)
  | .u64 => (0, 2 ^ 64 - 1)
  | _ => (-(2 ^ 63), 2 ^ 63 - 1)

/-- The integer a pattern of an integer type stands for. -/
def intOf (t : Ty) (x : Nat) : Int :=
  match t with
  | .s32 => (w32 x).toInt
  | .s64 => (dw x).toInt
  | _ => x

/-- The exact value of a source of a conversion (08 R216, 07 R193). -/
def cvtVal (t : Ty) (x : Nat) : FVal :=
  match t with
  | .fx64 => ofInt (dw x).toInt (-32)
  | .u32 | .s32 | .u64 | .s64 => ofInt (intOf t x) 0
  | _ => fval t x

/-- An integer as a pattern of 64 bits. -/
def patOf (x : Int) : Nat := (BitVec.ofInt 64 x).toNat

/-- Convert a value to an integer type, saturating (08 R216). -/
def toIntTy (t : Ty) (mode : Nat) (v : FVal) : FRes :=
  let (lo, hi) := intBounds t
  let r := toInt mode lo hi v
  ((if t.regs == 2 then patOf r.1 else (BitVec.ofInt 32 r.1).toNat), r.2)

/-- VCVT of one lane (08 R216); `y` is the second source of a paired destination. -/
def lCvt (d s : Ty) (mode x y : Nat) : FRes :=
  match d with
  | .f16x2 | .bf16x2 =>
    let lo := roundVal (fmtOf d) mode (fval .f32 x)
    let hi := roundVal (fmtOf d) mode (fval .f32 y)
    (lo.1 + hi.1 * 2 ^ 16, lo.2 ||| hi.2)
  | .fx64 => let r := toFx x; (r.1.toNat, r.2)
  | .u32 | .s32 | .u64 | .s64 => toIntTy d mode (cvtVal s x)
  | _ => roundVal (fmtOf d) mode (cvtVal s x)

/-- A value scaled by a power of two; a huge scale is cut where nothing changes any more. -/
def scaleVal (v : FVal) (n : Int) : FVal :=
  match v with
  | .fin neg m e => .fin neg m (e + max (-40000) (min 40000 n))
  | v => v

/-- VF2I of one lane (08 R217). -/
def lF2i (t s : Ty) (mode x : Nat) (n : Int) : FRes := toIntTy t mode (scaleVal (fval s x) n)

/-- VI2F of one lane (08 R217). -/
def lI2f (t s : Ty) (mode x : Nat) (n : Int) : FRes := roundVal (fmtOf t) mode (scaleVal (ofInt (intOf s x) 0) (-n))

/-! ### Statistics (08 R220-R222) -/

/-- A statistics group: count, mean and m2 as f32 patterns. -/
abbrev Stat := Nat × Nat × Nat

/-- WELF of one lane; of an empty group it reads the mean and m2 that the registers hold (log 72). -/
def lWelf (mode : Nat) (g : Stat) (x : Nat) : Stat × Nat :=
  let (n, mean, m2) := g
  if n == 0xFFFF_FFFF then (g, fNv)
  else
    let n1 := n + 1
    let d := fAdd f32 mode (f32.val x) (f32.val mean).neg
    let q := fDiv f32 mode (f32.val d.1) (ofInt n1 0)
    let mean1 := fAdd f32 mode (f32.val mean) (f32.val q.1)
    let d2 := fAdd f32 mode (f32.val x) (f32.val mean1.1).neg
    let m21 := fMa f32 mode (f32.val d.1) (f32.val d2.1) (f32.val m2)
    ((n1, mean1.1, m21.1), d.2 ||| q.2 ||| mean1.2 ||| d2.2 ||| m21.2)

/-- An f32 result that is a NaN is the canonical one (07 R180). -/
def canon32 (x : Nat) : Nat := if (f32.val x).isNan then f32.nan else x

/-- WMRG of one lane: group B into group A. -/
def lWmrg (mode : Nat) (a b : Stat) : Stat × Nat :=
  let (na, ma, sa) := a
  let (nb, mb, sb) := b
  if nb == 0 then (a, 0)
  else if na == 0 then ((nb, canon32 mb, canon32 sb), 0)
  else if 0xFFFF_FFFF < na + nb then (a, fNv)
  else
    let n := na + nb
    let d := fAdd f32 mode (f32.val mb) (f32.val ma).neg
    let f := roundTo f32 mode false nb n 0
    let mean := fMa f32 mode (f32.val d.1) (f32.val f.1) (f32.val ma)
    let g := roundTo f32 mode false (na * nb) n 0
    let t := fMul f32 mode (f32.val d.1) (f32.val d.1)
    let s := fAdd f32 mode (f32.val sa) (f32.val sb)
    let m2 := fMa f32 mode (f32.val t.1) (f32.val g.1) (f32.val s.1)
    ((n, mean.1, m2.1), d.2 ||| f.2 ||| mean.2 ||| g.2 ||| t.2 ||| s.2 ||| m2.2)

/-! ### Block formats (07 R188-R191, 08 R223-R225) -/

/-- Magnitude bits of a block format. -/
def dxbW : Ty → Nat
  | .dxb8 => 6 | .dxb6 => 4 | _ => 2

/-- The magnitude limit. -/
def dxbMax (t : Ty) : Nat := 2 ^ dxbW t - 1

/-- The block-exponent rule for one beat (07 R189): E0 and E1 from the f32 patterns of the active lanes. -/
def blockExp (t : Ty) (d : Nat) (xs : List Nat) : Nat × Nat :=
  if xs.any fun x => (f32.val x).isNan then (0xFF, 0xFF)
  else
    let m := (xs.map fun x => min (x % 2 ^ 31) 0x7F7F_FFFF).foldl max 0
    let e0 : Nat :=
      match f32.val m with
      | .fin _ k e => if k == 0 then 0 else (max (leadExp k 1 e - ((dxbW t : Int) - 1) + 127) 0).toNat
      | _ => 0
    (e0, e0 - d)

/-- The quotient of |x| by 2^(E − 127), rounded rne to an integer (07 R189). -/
def blockQ (x e : Nat) : Nat :=
  match f32.val x with
  | .fin _ m k => let (q, r, d) := scaleDiv m 1 (k - (e : Int) + 127); roundQ 0 false q r d
  | .inf _ => 2 ^ 300
  | .nan => 0

/-- The element's magnitude differs from |x|. -/
def blockNx (x mag e : Nat) : Bool :=
  match f32.val x with
  | .fin _ m k => fCmpVal (.fin false m k) (.fin false mag ((e : Int) - 127)) != 0
  | _ => true

/-- Pack one element in its expanded form (07 R189, R191, 08 R224). A NaN with E1 0xFF and E0 another exponent, of which no rule speaks,
packs as bits 0 with nv (log 71). -/
def packElem (t : Ty) (e0 e1 x : Nat) : FRes :=
  let mx := dxbMax t
  let nan := (f32.val x).isNan
  let sign := x / 2 ^ 31 % 2 * 128
  let at0 : FRes :=
    let q := blockQ x e0
    let mag := min q mx
    (sign + mag, (if mx < q then fOf + fNx else 0) ||| (if blockNx x mag e0 then fNx else 0))
  if e0 == 0xFF && e1 == 0xFF then (0, if nan then fNv else 0)
  else if e0 == 0xFF then
    if nan then (sign, fNv)
    else
      let q := blockQ x e1
      if q ≤ mx then (sign + 64 + q, if blockNx x q e1 then fNx else 0) else (sign, fNv + fNx)
  else if nan then (0, fNv)
  else if e1 == 0xFF then at0
  else
    let q := blockQ x e1
    if q ≤ mx then (sign + 64 + q, if blockNx x q e1 then fNx else 0) else at0

/-- Convert an expanded element to f32 (07 R190). -/
def unpackElem (t : Ty) (e0 e1 b : Nat) : FRes :=
  let e := if bitOf b 6 then e1 else e0
  let m := b % 2 ^ dxbW t
  let neg := bitOf b 7
  if e == 0xFF then (f32.nan, 0)
  else if m == 0 then (f32.zero neg, 0)
  else
    let r := roundTo f32 0 neg m 1 ((e : Int) - 127)
    if bitOf r.2 1 then (f32.maxFin neg, fOf + fNx) else r

/-! ### Reductions (08 R207, R208, R211) -/

/-- The identity of a reduction (08 R207). -/
def redId (t : Ty) (op : RedOp) : Nat :=
  match op with
  | .add => 0
  | .min => match t with
    | .f32 => f32.inf false | .u32 => 2 ^ 32 - 1 | .s32 => 2 ^ 31 - 1 | .u64 => 2 ^ 64 - 1 | _ => 2 ^ 63 - 1
  | .max => match t with
    | .f32 => f32.inf true | .s32 => 2 ^ 31 | .s64 => 2 ^ 63 | .fx64 => 2 ^ 63 | _ => 0
  | .and => if t == .u32 then 2 ^ 32 - 1 else 2 ^ 64 - 1
  | .or => 0
  | .xor => 0

/-- One step of a reduction that is not an f32 sum. -/
def redStep (t : Ty) (op : RedOp) (x y : Nat) : Nat :=
  let bits := if t.regs == 2 then 2 ^ 64 else 2 ^ 32
  let ty : Ty := if t == .fx64 then .s64 else t
  let below := intOf ty x ≤ intOf ty y
  match op with
  | .add => (x + y) % bits
  | .min => if t == .f32 then fMinMax f32 false x y else if below then x else y
  | .max => if t == .f32 then fMinMax f32 true x y else if below then y else x
  | .and => x &&& y
  | .or => x ||| y
  | .xor => x ^^^ y

/-- The f32 sum over 96 values in its fixed order (08 R207); over 96 active lanes that hold −0.0 the tree gives −0.0 (log 73). -/
def redSum (x : Nat → Word) : Word × Nat :=
  let p (k : Nat) := treeSum ((List.range 32).map fun i => x (32 * k + i))
  let a := p 0
  let b := p 1
  let c := p 2
  let ab := add32 a.1 b.1
  let r := add32 ab.1 c.1
  (r.1, a.2 ||| b.2 ||| c.2 ||| ab.2 ||| r.2)

/-- Reduce the values of the lanes that take part: result and flags (08 R207, R211). -/
def reduce (t : Ty) (op : RedOp) (part : Nat → Bool) (x : Nat → Nat) : FRes :=
  if t == .f32 && op == .add then
    let r := redSum fun l => if part l then w32 (x l) else 0
    (r.1.toNat, r.2)
  else
    match (List.range 96).filter part with
    | [] => (redId t op, 0)
    | l :: r =>
      let first := if t == .f32 && (f32.val (x l)).isNan then f32.nan else x l
      (r.foldl (fun acc k => redStep t op acc (x k)) first, 0)

end Sys2Proof.Machine
end

