-- ==== Sys2Proof/Machine/Scalar.lean ====
section
/-!
DEFINITION. The scalar instructions (06 R157-R162), the mask instructions (R163), and the X-form immediates (R162).
-/
namespace Sys2Proof.Machine

/-- A scalar instruction of two sources. -/
def scalar2 (k : Word → Word → Word) (d a b : Opnd) : State → Ans :=
  issue [(d, 1), (a, 1), (b, 1)] false fun c => retireNext c (putS c d (k (srcS c a) (srcS c b)))

/-- A scalar instruction of one source. -/
def scalar1 (k : Word → Word) (d a : Opnd) : State → Ans :=
  issue [(d, 1), (a, 1)] false fun c => retireNext c (putS c d (k (srcS c a)))

/-- An immediate variant: imm25 is sign-extended (02 R17). -/
def scalarI (k : Word → Word → Word) (d a : Opnd) (imm : BitVec 25) : State → Ans :=
  issue [(d, 1), (a, 1)] false fun c => retireNext c (putS c d (k (srcS c a) (imm.signExtend 32)))

/-- The type is s32. -/
def isS (t : Ty) : Bool := t == .s32

/-- SADD (06 R158). -/
def execSadd (_ : Ty) (d a b : Opnd) (s : State) : Ans := scalar2 (· + ·) d a b s

/-- SSUB (06 R158). -/
def execSsub (_ : Ty) (d a b : Opnd) (s : State) : Ans := scalar2 (· - ·) d a b s

/-- SMUL (06 R158). -/
def execSmul (_ : Ty) (d a b : Opnd) (s : State) : Ans := scalar2 (· * ·) d a b s

/-- SAND (06 R158). -/
def execSand (_ : Ty) (d a b : Opnd) (s : State) : Ans := scalar2 (· &&& ·) d a b s

/-- SOR (06 R158). -/
def execSor (_ : Ty) (d a b : Opnd) (s : State) : Ans := scalar2 (· ||| ·) d a b s

/-- SXOR (06 R158). -/
def execSxor (_ : Ty) (d a b : Opnd) (s : State) : Ans := scalar2 (· ^^^ ·) d a b s

/-- SSHL (06 R158). -/
def execSshl (_ : Ty) (d a b : Opnd) (s : State) : Ans := scalar2 aShl d a b s

/-- SSHR (06 R158). -/
def execSshr (_ : Ty) (d a b : Opnd) (s : State) : Ans := scalar2 aShr d a b s

/-- SSAR (06 R158). -/
def execSsar (_ : Ty) (d a b : Opnd) (s : State) : Ans := scalar2 aSar d a b s

/-- SMULH (06 R158). -/
def execSmulh (t : Ty) (d a b : Opnd) (s : State) : Ans := scalar2 (aMulh (isS t)) d a b s

/-- SMIN (06 R158). -/
def execSmin (t : Ty) (d a b : Opnd) (s : State) : Ans := scalar2 (aMin (isS t)) d a b s

/-- SMAX (06 R158). -/
def execSmax (t : Ty) (d a b : Opnd) (s : State) : Ans := scalar2 (aMax (isS t)) d a b s

/-- SCMP (06 R158). -/
def execScmp (t : Ty) (q : Cond) (d a b : Opnd) (s : State) : Ans := 
  scalar2 (fun x y => if aCond (isS t) q x y then 1 else 0) d a b s

/-- SSEL (06 R158). -/
def execSsel (_ : Ty) (d a b x : Opnd) (s : State) : Ans := 
  issue [(d, 1), (a, 1), (b, 1), (x, 1)] false
    (fun c => retireNext c (putS c d (if srcS c x != 0 then srcS c a else srcS c b))) s

/-- SBFE (06 R158). -/
def execSbfe (t : Ty) (d a b x : Opnd) (s : State) : Ans := 
  issue [(d, 1), (a, 1), (b, 1), (x, 1)] false
    (fun c => retireNext c (putS c d (aBfe (isS t) (srcS c a) (srcS c b) (srcS c x)))) s

/-- SMOV (06 R158): with f32 an inline operand supplies its f32 bits. -/
def execSmov (t : Ty) (d a : Opnd) (s : State) : Ans := 
  issue [(d, 1), (a, 1)] false (fun c => retireNext c (putS c d (w32 (src c t a 0)))) s

/-- SPOPC (06 R158). -/
def execSpopc (d a : Opnd) (s : State) : Ans := scalar1 aPopc d a s

/-- SCLZ (06 R158). -/
def execSclz (d a : Opnd) (s : State) : Ans := scalar1 aClz d a s

/-- SADD64 (06 R159). -/
def execSadd64 (_ : Ty) (d a b : Opnd) (s : State) : Ans := 
  issue [(d, 2), (a, 2), (b, 2)] false (fun c => retireNext c (putS2 c d (srcS2 c a + srcS2 c b))) s

/-- SADD.i (02 R17). -/
def execSaddI (d a : Opnd) (imm : BitVec 25) (s : State) : Ans := scalarI (· + ·) d a imm s

/-- SSUB.i (02 R17). -/
def execSsubI (d a : Opnd) (imm : BitVec 25) (s : State) : Ans := scalarI (· - ·) d a imm s

/-- SMUL.i (02 R17). -/
def execSmulI (d a : Opnd) (imm : BitVec 25) (s : State) : Ans := scalarI (· * ·) d a imm s

/-- SAND.i (02 R17). -/
def execSandI (d a : Opnd) (imm : BitVec 25) (s : State) : Ans := scalarI (· &&& ·) d a imm s

/-- SOR.i (02 R17). -/
def execSorI (d a : Opnd) (imm : BitVec 25) (s : State) : Ans := scalarI (· ||| ·) d a imm s

/-- SXOR.i (02 R17). -/
def execSxorI (d a : Opnd) (imm : BitVec 25) (s : State) : Ans := scalarI (· ^^^ ·) d a imm s

/-- SSHL.i (02 R17). -/
def execSshlI (d a : Opnd) (imm : BitVec 25) (s : State) : Ans := scalarI aShl d a imm s

/-- SSHR.i (02 R17). -/
def execSshrI (d a : Opnd) (imm : BitVec 25) (s : State) : Ans := scalarI aShr d a imm s

/-- SSAR.i (02 R17). -/
def execSsarI (d a : Opnd) (imm : BitVec 25) (s : State) : Ans := scalarI aSar d a imm s

/-! ### Special registers (06 R160, R161) -/

/-- The gang number of a flight. -/
def gangNum (c : Ctx) : Nat := (gangOf c.st c.f).elim 0 (·.num)

/-- The value of special register `n` (06 R160). -/
def special (c : Ctx) (n : Nat) : Word :=
  match n with
  | 0x00 => w32 c.f.idx
  | 0x01 => w32 c.f.rank
  | 0x02 => w32 (gangNum c)
  | 0x03 => w32 (gangNum c / 2 ^ 32)
  | 0x04 => w32 c.f.launch
  | 0x05 => w32 (((descOf c.st c.f).elim [] (·.roles)).getD c.f.idx 0)
  | 0x06 => w32 ((gangOf c.st c.f).elim 0 (·.nflight))
  | 0x07 => w32 ((gangOf c.st c.f).elim 0 (·.nblock))
  | 0x08 => w32 (c.f.core % 48)
  | 0x09 => w32 (c.f.core / 48)
  | 0x0A => w32 c.st.cycle
  | 0x0B => c.f.clkhi
  | 0x0C => w32 c.f.vregs
  | 0x0D => c.g.region
  | 0x0E => w32 c.g.num
  | 0x0F => w32 ((launchOf c.st c.f).elim 0 (·.karg.toNat))
  | 0x10 => w32 ((launchOf c.st c.f).elim 0 (·.karg.toNat) / 2 ^ 32)
  | 0x11 => c.f.fpmode
  | 0x12 => fpflags c.f
  | _ => c.f.seqNo

/-- A read of CLKLO captures CLKHI (06 R160). -/
def captureClk (c : Ctx) (n : Nat) : Ctx :=
  if n == 0x0A then { c with f := { c.f with clkhi := w32 (c.st.cycle / 2 ^ 32) } } else c

/-- A value written to FPMODE or FPFLAGS sets a reserved bit (06 R161). -/
def reservedBits (n : Nat) (w : Word) : Bool := if n == 0x11 then w >>> 2 != 0 else w >>> 4 != 0

/-- Write FPMODE or FPFLAGS (06 R161, 07 R184, R186). -/
def putSpecial (f : Flight) (n : Nat) (w : Word) : Flight := if n == 0x11 then { f with fpmode := w } else clearFlags f w

/-- SMOVS (06 R161). -/
def execSmovs (d : Opnd) (n : BitVec 8) (s : State) : Ans :=
  issue [(d, 1)] false (fun c => retireNext c (putS (captureClk c n.toNat) d (special c n.toNat))) s

/-- SMOVW (06 R161). -/
def execSmovw (n : BitVec 8) (a : Opnd) (s : State) : Ans :=
  issue [(a, 1)] false (fun c =>
    let w := srcS c a
    if reservedBits n.toNat w then fault c 1 5
    else retireNext c { c with f := putSpecial c.f n.toNat w }) s

/-! ### Immediates (06 R162) -/

/-- SMOVI. -/
def execSmovi (d : Opnd) (v : Word) (s : State) : Ans := issue [(d, 1)] false (fun c => retireNext c (putS c d v)) s

/-- SADDI. -/
def execSaddi (d a : Opnd) (v : Word) (s : State) : Ans :=
  issue [(d, 1), (a, 1)] false (fun c => retireNext c (putS c d (srcS c a + v))) s

/-! ### Masks (06 R163) -/

/-- A mask instruction of two masks. -/
def mask2 (k : Lanes → Lanes → Lanes) (m ma mb : Fin 24) : State → Ans :=
  issue [] false fun c => retireNext c (putMask c m (k (getMask c.f c.g ma) (getMask c.f c.g mb)))

/-- MAND (06 R163). -/
def execMand (m ma mb : Fin 24) (s : State) : Ans := mask2 (· &&& ·) m ma mb s

/-- MOR (06 R163). -/
def execMor (m ma mb : Fin 24) (s : State) : Ans := mask2 (· ||| ·) m ma mb s

/-- MXOR (06 R163). -/
def execMxor (m ma mb : Fin 24) (s : State) : Ans := mask2 (· ^^^ ·) m ma mb s

/-- MANDN (06 R163). -/
def execMandn (m ma mb : Fin 24) (s : State) : Ans := mask2 (fun x y => x &&& ~~~y) m ma mb s

/-- MPOPC (06 R163). -/
def execMpopc (d : Opnd) (ma : Fin 24) (s : State) : Ans := 
  issue [(d, 1)] false (fun c => retireNext c (putS c d (w32 (getMask c.f c.g ma).count))) s

/-- MFIRST (06 R163). -/
def execMfirst (d : Opnd) (ma : Fin 24) (s : State) : Ans := 
  issue [(d, 1)] false (fun c => retireNext c (putS c d ((lowestLane (getMask c.f c.g ma)).elim 0xFFFF_FFFF w32))) s

/-- MLANE (06 R163). -/
def execMlane (m : Fin 24) (a : Opnd) (s : State) : Ans := 
  issue [(a, 1)] false (fun c => retireNext c (putMask c m (Lanes.one (srcS c a).toNat))) s

end Sys2Proof.Machine
end

