-- ==== Sys2Proof/Machine/Vector.lean ====
section
/-!
DEFINITION. The vector instructions (08): integers, moves, cross-lane operations, floating point, conversions, statistics,
block formats, and the immediate moves of 06 R162.
-/
namespace Sys2Proof.Machine

/-- Show the beacons the words an instruction wrote to a register (20 R423). -/
def seeVals (c : Ctx) (m : List Nat) (val : Nat → Word) : Ctx :=
  { c with obs := { c.obs with vals := c.obs.vals ++ m.map fun l => (2, l, val l) } }

/-- Write one register's words in the active lanes (08 R198). -/
def vecWord (c : Ctx) (d : Opnd) (val : Nat → Word) : Ctx := seeVals (putV c d c.g.em val) c.g.em.list val

/-- Write results of one or two registers, given for each lane, in the active lanes. -/
def vecPut (c : Ctx) (t : Ty) (d : Opnd) (r : Nat → Nat) : Ctx :=
  if t.regs == 2 then vecWord (vecWord c d fun l => w32 (r l)) (opAdd d 1) fun l => w32 (r l / 2 ^ 32)
  else vecWord c d fun l => w32 (r l)

/-- The results of the active lanes, computed once. -/
def laneResults (c : Ctx) (r : Nat → FRes) : List FRes := (List.range 96).map fun l => if c.g.em.getLsbD l then r l else (0, 0)

/-- Write floating-point results with their flags (07 R185, R187). -/
def vecFlt (c : Ctx) (t : Ty) (d : Opnd) (r : Nat → FRes) : Ctx :=
  let rs := laneResults c r
  let at' (l : Nat) : FRes := rs.getD l (0, 0)
  vecPut (raise c (flagMasks (fun l => (at' l).2) c.g.em)) t d fun l => (at' l).1

/-- The dynamic rounding mode resolved (07 R183). -/
def modeOf (c : Ctx) (rm : Rm) : Nat := rmCode2 (bitsOf c.f.fpmode.toNat 1 0) rm

/-- A vector integer instruction of two sources. -/
def vec2 (k : Word → Word → Word) (d a b : Opnd) : State → Ans :=
  issue [(d, 1), (a, 1), (b, 1)] false fun c => retireNext c (vecWord c d fun l => k (src32 c a l) (src32 c b l))

/-- A vector integer instruction of one source. -/
def vec1 (k : Word → Word) (d a : Opnd) : State → Ans :=
  issue [(d, 1), (a, 1)] false fun c => retireNext c (vecWord c d fun l => k (src32 c a l))

/-- A vector integer instruction of three sources. -/
def vec3 (k : Word → Word → Word → Word) (d a b x : Opnd) : State → Ans :=
  issue [(d, 1), (a, 1), (b, 1), (x, 1)] false fun c =>
    retireNext c (vecWord c d fun l => k (src32 c a l) (src32 c b l) (src32 c x l))

/-- An immediate variant (02 R17). -/
def vecI (k : Word → Word → Word) (d a : Opnd) (imm : BitVec 25) : State → Ans :=
  issue [(d, 1), (a, 1)] false fun c => retireNext c (vecWord c d fun l => k (src32 c a l) (imm.signExtend 32))

/-- A floating-point instruction of two sources under a rounding mode. -/
def flt2 (k : Ty → Nat → Nat → Nat → FRes) (t : Ty) (rm : Rm) (d a b : Opnd) : State → Ans :=
  issue [(d, t.regs), (a, t.regs), (b, t.regs)] false fun c =>
    retireNext c (vecFlt c t d fun l => k t (modeOf c rm) (src c t a l) (src c t b l))

/-- VADD (08 R200). -/
def execVadd (_ : Ty) (d a b : Opnd) (s : State) : Ans := vec2 (· + ·) d a b s

/-- VSUB (08 R200). -/
def execVsub (_ : Ty) (d a b : Opnd) (s : State) : Ans := vec2 (· - ·) d a b s

/-- VMUL (08 R200). -/
def execVmul (_ : Ty) (d a b : Opnd) (s : State) : Ans := vec2 (· * ·) d a b s

/-- VAND (08 R200). -/
def execVand (_ : Ty) (d a b : Opnd) (s : State) : Ans := vec2 (· &&& ·) d a b s

/-- VOR (08 R200). -/
def execVor (_ : Ty) (d a b : Opnd) (s : State) : Ans := vec2 (· ||| ·) d a b s

/-- VXOR (08 R200). -/
def execVxor (_ : Ty) (d a b : Opnd) (s : State) : Ans := vec2 (· ^^^ ·) d a b s

/-- VANDN (08 R200). -/
def execVandn (_ : Ty) (d a b : Opnd) (s : State) : Ans := vec2 (fun x y => x &&& ~~~y) d a b s

/-- VSHL (08 R200). -/
def execVshl (_ : Ty) (d a b : Opnd) (s : State) : Ans := vec2 aShl d a b s

/-- VSHR (08 R200). -/
def execVshr (_ : Ty) (d a b : Opnd) (s : State) : Ans := vec2 aShr d a b s

/-- VSAR (08 R200). -/
def execVsar (_ : Ty) (d a b : Opnd) (s : State) : Ans := vec2 aSar d a b s

/-- VMULH (08 R200). -/
def execVmulh (t : Ty) (d a b : Opnd) (s : State) : Ans := vec2 (aMulh (isS t)) d a b s

/-- VMIN (08 R200). -/
def execVmin (t : Ty) (d a b : Opnd) (s : State) : Ans := vec2 (aMin (isS t)) d a b s

/-- VMAX (08 R200). -/
def execVmax (t : Ty) (d a b : Opnd) (s : State) : Ans := vec2 (aMax (isS t)) d a b s

/-- VMAD (08 R200). -/
def execVmad (_ : Ty) (d a b x : Opnd) (s : State) : Ans := vec3 (fun p q r => p * q + r) d a b x s

/-- VABS (08 R200). -/
def execVabs (d a : Opnd) (s : State) : Ans := vec1 aAbs d a s

/-- VCLZ (08 R200). -/
def execVclz (d a : Opnd) (s : State) : Ans := vec1 aClz d a s

/-- VPOPC (08 R200). -/
def execVpopc (d a : Opnd) (s : State) : Ans := vec1 aPopc d a s

/-- VBFE (08 R200). -/
def execVbfe (t : Ty) (d a b x : Opnd) (s : State) : Ans := vec3 (aBfe (isS t)) d a b x s

/-- VBFI (08 R200). -/
def execVbfi (d a b x : Opnd) (s : State) : Ans := vec3 aBfi d a b x s

/-- VADD.i (02 R17). -/
def execVaddI (d a : Opnd) (imm : BitVec 25) (s : State) : Ans := vecI (· + ·) d a imm s

/-- VSUB.i (02 R17). -/
def execVsubI (d a : Opnd) (imm : BitVec 25) (s : State) : Ans := vecI (· - ·) d a imm s

/-- VMUL.i (02 R17). -/
def execVmulI (d a : Opnd) (imm : BitVec 25) (s : State) : Ans := vecI (· * ·) d a imm s

/-- VAND.i (02 R17). -/
def execVandI (d a : Opnd) (imm : BitVec 25) (s : State) : Ans := vecI (· &&& ·) d a imm s

/-- VOR.i (02 R17). -/
def execVorI (d a : Opnd) (imm : BitVec 25) (s : State) : Ans := vecI (· ||| ·) d a imm s

/-- VXOR.i (02 R17). -/
def execVxorI (d a : Opnd) (imm : BitVec 25) (s : State) : Ans := vecI (· ^^^ ·) d a imm s

/-- VSHL.i (02 R17). -/
def execVshlI (d a : Opnd) (imm : BitVec 25) (s : State) : Ans := vecI aShl d a imm s

/-- VSHR.i (02 R17). -/
def execVshrI (d a : Opnd) (imm : BitVec 25) (s : State) : Ans := vecI aShr d a imm s

/-- VSAR.i (02 R17). -/
def execVsarI (d a : Opnd) (imm : BitVec 25) (s : State) : Ans := vecI aSar d a imm s

/-- The mask that a scalar specifier names (02 R22). -/
def maskOpnd (n : Fin 96) : Fin 24 := ⟨n.val / 4, by omega⟩

/-- Write a comparison's result (08 R201): 1 or 0 in each active lane, or the whole mask triple once. -/
def putCmp (c : Ctx) (d : Opnd) (p : Nat → Bool) : Ctx :=
  match d with
  | .s n =>
    let m := lanesOf fun l => c.g.em.getLsbD l && p l
    let c1 := putMask c (maskOpnd n) m
    (List.range 3).foldl (fun c k => seeVals c (onceLanes c.g) fun _ => maskWord m k) c1
  | _ => vecWord c d fun l => if p l then 1 else 0

/-- VCMP (08 R201). -/
def execVcmp (t : Ty) (q : Cond) (d a b : Opnd) (s : State) : Ans :=
  issue [(d, 1), (a, 1), (b, 1)] false
    (fun c => retireNext c (putCmp c d fun l => aCond (isS t) q (src32 c a l) (src32 c b l))) s

/-- VSEL (08 R203): bits are copied as they are. -/
def execVsel (t : Ty) (d a b x : Opnd) (s : State) : Ans :=
  issue [(d, t.regs), (a, t.regs), (b, t.regs), (x, 1)] false
    (fun c => retireNext c (vecPut c t d fun l => if src32 c x l != 0 then src c t a l else src c t b l)) s

/-- VMOV (08 R203). -/
def execVmov (t : Ty) (d a : Opnd) (s : State) : Ans :=
  issue [(d, t.regs), (a, t.regs)] false (fun c => retireNext c (vecPut c t d fun l => src c t a l)) s

/-- VADD64 (08 R202). -/
def execVadd64 (t : Ty) (d a b : Opnd) (s : State) : Ans :=
  issue [(d, 2), (a, 2), (b, 2)] false (fun c => retireNext c (vecPut c t d fun l => src c t a l + src c t b l)) s

/-- VMAD64 (08 R202): single registers, signed for s64, and a pair. -/
def execVmad64 (t : Ty) (d a b x : Opnd) (s : State) : Ans :=
  issue [(d, 2), (a, 1), (b, 1), (x, 2)] false (fun c => retireNext c (vecPut c t d fun l =>
    let p := src32 c a l
    let q := src32 c b l
    let prod : DWord := if t == .s64 then p.signExtend 64 * q.signExtend 64 else p.setWidth 64 * q.setWidth 64
    (prod + dw (src c t x l)).toNat)) s

/-- The lane that VSHFL reads for lane `l`, if it lies in 0-95 (08 R205). -/
def shflLane (mode : ShMode) (l : Nat) (b : Word) : Option Nat :=
  let j : Int :=
    match mode with
    | .idx => b.toNat
    | .up => (l : Int) - b.toNat
    | .down => l + b.toNat
    | .xor => (w32 l ^^^ b).toNat
  if 0 ≤ j ∧ j < 96 then some j.toNat else none

/-- VSHFL (08 R205). -/
def execVshfl (t : Ty) (mode : ShMode) (d a b : Opnd) (s : State) : Ans :=
  issue [(d, t.regs), (a, t.regs), (b, 1)] false (fun c => retireNext c (vecPut c t d fun l =>
    match shflLane mode l (src32 c b l) with
    | some j => if c.g.em.getLsbD j then src c t a j else src c t a l
    | none => src c t a l)) s

/-- Write one value to a vector destination in every active lane, or once to a scalar or a pair (08 R206, R207). -/
def putAny (c : Ctx) (t : Ty) (d : Opnd) (x : Nat) : Ctx :=
  if d.cls == .S || d.cls == .SS then
    let c1 := seeVals (putS c d (w32 x)) (onceLanes c.g) fun _ => w32 x
    if t.regs == 2 then seeVals (putS c1 (opAdd d 1) (w32 (x / 2 ^ 32))) (onceLanes c.g) fun _ => w32 (x / 2 ^ 32) else c1
  else vecPut c t d fun _ => x

/-- VBCAST (08 R206). -/
def execVbcast (t : Ty) (d a b : Opnd) (s : State) : Ans :=
  issue [(d, t.regs), (a, t.regs), (b, 1)] false (fun c =>
    let n := (srcS c b).toNat
    retireNext c (putAny c t d (if n < 96 && c.g.em.getLsbD n then src c t a n else 0))) s

/-- VREDU (08 R207): the flags of the f32 tree go to every active lane. -/
def execVredu (t : Ty) (op : RedOp) (d a : Opnd) (s : State) : Ans :=
  issue [(d, t.regs), (a, t.regs)] false (fun c =>
    let r := reduce t op (fun l => c.g.em.getLsbD l) fun l => src c t a l
    retireNext c (putAny (raise c (flagMasks (fun _ => r.2) c.g.em)) t d r.1)) s

/-- VSCAN (08 R208). -/
def execVscan (t : Ty) (op : RedOp) (excl : Bool) (d a : Opnd) (s : State) : Ans :=
  issue [(d, t.regs), (a, t.regs)] false (fun c => retireNext c (vecFlt c t d fun l =>
    reduce t op (fun j => c.g.em.getLsbD j && (if excl then j < l else j ≤ l)) fun j => src c t a j)) s

/-- The value of a per-lane special register (08 R204). -/
def laneSpecial (c : Ctx) (n l : Nat) : Word :=
  match n with
  | 0 => w32 l
  | 1 => w32 (c.f.idx * 96 + l)
  | _ => rowAt (c.f.pts.getD (n - 2) []) l

/-- VMOVS (08 R204). -/
def execVmovs (d : Opnd) (n : BitVec 8) (s : State) : Ans :=
  issue [(d, 1)] false (fun c => retireNext c (vecWord c d fun l => laneSpecial c n.toNat l)) s

/-- VMOVI (06 R162). -/
def execVmovi (d : Opnd) (v : Word) (s : State) : Ans :=
  issue [(d, 1)] false (fun c => retireNext c (putV c d c.g.em fun _ => v)) s

/-- VADDI (06 R162). -/
def execVaddi (d a : Opnd) (v : Word) (s : State) : Ans :=
  issue [(d, 1), (a, 1)] false (fun c => retireNext c (putV c d c.g.em fun l => src32 c a l + v)) s

/-! ### Floating point -/

/-- VFADD (08 R209). -/
def execVfadd (t : Ty) (rm : Rm) (d a b : Opnd) (s : State) : Ans := flt2 lFadd t rm d a b s

/-- VFSUB (08 R209). -/
def execVfsub (t : Ty) (rm : Rm) (d a b : Opnd) (s : State) : Ans := flt2 lFsub t rm d a b s

/-- VFMUL (08 R209). -/
def execVfmul (t : Ty) (rm : Rm) (d a b : Opnd) (s : State) : Ans := flt2 lFmul t rm d a b s

/-- VFMA (08 R209). -/
def execVfma (t : Ty) (rm : Rm) (d a b x : Opnd) (s : State) : Ans :=
  issue [(d, t.regs), (a, t.regs), (b, t.regs), (x, t.regs)] false (fun c => retireNext c (vecFlt c t d fun l =>
    lFma t (modeOf c rm) (src c t a l) (src c t b l) (src c t x l))) s

/-- VFMIN (08 R210). -/
def execVfmin (t : Ty) (d a b : Opnd) (s : State) : Ans := flt2 (fun t _ x y => lFmm false t x y) t .dyn d a b s

/-- VFMAX (08 R210). -/
def execVfmax (t : Ty) (d a b : Opnd) (s : State) : Ans := flt2 (fun t _ x y => lFmm true t x y) t .dyn d a b s

/-- VFCMP (08 R212). -/
def execVfcmp (t : Ty) (q : FCond) (d a b : Opnd) (s : State) : Ans :=
  issue [(d, 1), (a, t.regs), (b, t.regs)] false
    (fun c => retireNext c (putCmp c d fun l => fCond q (fval t (src c t a l)) (fval t (src c t b l)))) s

/-- VFCLASS (08 R213). -/
def execVfclass (t : Ty) (d a : Opnd) (s : State) : Ans :=
  issue [(d, 1), (a, t.regs)] false (fun c => retireNext c (vecWord c d fun l =>
    w32 (fClass (fmtOf t) (src c t a l % (2 * (fmtOf t).sign))))) s

/-- VFRND (08 R214). -/
def execVfrnd (t : Ty) (rm : Rm) (d a : Opnd) (s : State) : Ans :=
  issue [(d, t.regs), (a, t.regs)] false (fun c => retireNext c (vecFlt c t d fun l => lFrnd t (modeOf c rm) (src c t a l))) s

/-- VFSCL (08 R215). -/
def execVfscl (t : Ty) (rm : Rm) (d a b : Opnd) (s : State) : Ans :=
  issue [(d, t.regs), (a, t.regs), (b, 1)] false (fun c => retireNext c (vecFlt c t d fun l =>
    lFscl t (modeOf c rm) (src c t a l) (src32 c b l).toInt)) s

/-- VCVT (08 R216). -/
def execVcvt (t : Ty) (rm : Rm) (f : Ty) (d a b : Opnd) (s : State) : Ans :=
  issue ([(d, t.regs), (a, f.regs)] ++ if paired t then [(b, 1)] else []) false (fun c => retireNext c (vecFlt c t d fun l =>
    lCvt t f (modeOf c rm) (src c f a l) (if paired t then src c f b l else 0))) s

/-- VF2I (08 R217). -/
def execVf2i (t : Ty) (rm : Rm) (f : Ty) (d a b : Opnd) (s : State) : Ans :=
  issue [(d, 1), (a, 1), (b, 1)] false (fun c => retireNext c (vecFlt c t d fun l =>
    lF2i t f (modeOf c rm) (src c f a l) (src32 c b l).toInt)) s

/-- VI2F (08 R217). -/
def execVi2f (t : Ty) (rm : Rm) (f : Ty) (d a b : Opnd) (s : State) : Ans :=
  issue [(d, 1), (a, 1), (b, 1)] false (fun c => retireNext c (vecFlt c t d fun l =>
    lI2f t f (modeOf c rm) (src c f a l) (src32 c b l).toInt)) s

/-! ### Statistics (08 R220-R222) -/

/-- A lane's statistics group. -/
def statAt (c : Ctx) (o : Opnd) (l : Nat) : Stat :=
  ((regWord c o 0 l).toNat, (regWord c o 1 l).toNat, (regWord c o 2 l).toNat)

/-- Write the groups of the active lanes with the flags of their steps. -/
def putStats (c : Ctx) (d : Opnd) (r : Nat → Stat × Nat) : Ctx :=
  let rs := (List.range 96).map fun l => if c.g.em.getLsbD l then r l else ((0, 0, 0), 0)
  let at' (l : Nat) : Stat × Nat := rs.getD l ((0, 0, 0), 0)
  let c1 := raise c (flagMasks (fun l => (at' l).2) c.g.em)
  vecWord (vecWord (vecWord c1 d fun l => w32 (at' l).1.1) (opAdd d 1) fun l => w32 (at' l).1.2.1) (opAdd d 2)
    fun l => w32 (at' l).1.2.2

/-- WELF (08 R221). -/
def execWelf (rm : Rm) (d a : Opnd) (s : State) : Ans :=
  issue [(d, 4), (a, 1)] false (fun c => retireNext c (putStats c d fun l =>
    lWelf (modeOf c rm) (statAt c d l) (src c .f32 a l))) s

/-- WMRG (08 R222). -/
def execWmrg (rm : Rm) (d a : Opnd) (s : State) : Ans :=
  issue [(d, 4), (a, 4)] false (fun c => retireNext c (putStats c d fun l =>
    lWmrg (modeOf c rm) (statAt c d l) (statAt c a l))) s

/-! ### Block formats (08 R223-R225) -/

/-- The offset d that q2 holds: N − 4 modulo 16. -/
def dOff (n : Nat) : Nat := (n + 4) % 16

/-- VBEXP (08 R223). -/
def execVbexp (t : Ty) (n : Fin 16) (d a : Opnd) (s : State) : Ans :=
  issue [(d, 1), (a, 1)] false (fun c =>
    let e (k : Nat) : Word :=
      let r := blockExp t (dOff n.val)
        (((List.range 32).filter fun i => c.g.em.getLsbD (32 * k + i)).map fun i => src c .f32 a (32 * k + i))
      w32 (r.1 + r.2 * 256)
    let es := (List.range 3).map e
    retireNext c (vecWord c d fun l => es.getD (l / 32) 0)) s

/-- The exponents of component `k` in a lane (08 R224). -/
def expAt (c : Ctx) (o : Opnd) (k l : Nat) : Nat × Nat :=
  let w := (regWord c o k l).toNat
  (bitsOf w 7 0, bitsOf w 15 8)

/-- VPKX (08 R224). -/
def execVpkx (t : Ty) (d a b : Opnd) (s : State) : Ans :=
  issue [(d, 1), (a, 4), (b, 4)] false (fun c => retireNext c (vecFlt c t d fun l =>
    (List.range 4).foldl (fun (acc : FRes) k =>
      let e := expAt c b k l
      let r := packElem t e.1 e.2 (regWord c a k l).toNat
      (acc.1 + r.1 * 256 ^ k, acc.2 ||| r.2)) (0, 0))) s

/-- VUNPKX (08 R225). -/
def execVunpkx (t : Ty) (d a b : Opnd) (s : State) : Ans :=
  issue [(d, 4), (a, 1), (b, 4)] false (fun c =>
    retireNext c ((List.range 4).foldl (fun acc k => vecFlt acc t (opAdd d k) fun l =>
      let e := expAt c b k l
      unpackElem t e.1 e.2 (bitsOf (regWord c a 0 l).toNat (8 * k + 7) (8 * k))) c)) s

end Sys2Proof.Machine
end

