-- ==== Sys2Proof/Machine/Counters.lean ====
section
/-!
DEFINITION. The wait counters (06 R155, 04 R103, 19 R395): counts of each level and their fall in issue order.
-/
namespace Sys2Proof.Machine

/-- The four counters. -/
inductive Counter where
  | ld | sld | sfu | acc
  deriving DecidableEq, Repr

/-- The stall limit of a counter (06 R155). -/
def Counter.limit : Counter → Nat
  | .ld => 63 | .sld => 15 | .sfu => 15 | .acc => 3

/-- The counter of a memory instruction. -/
def mopCounter : Instr → Option Counter
  | .ld _ _ _ _ _ _ => some .ld
  | .sld _ _ _ _ _ _ => some .sld
  | _ => none

/-- The lane's access is not performed yet. -/
def LaneState.waiting : LaneState → Bool
  | .parked _ => true | .feWait => true | .todo => true | _ => false

/-- The counter of a result. -/
def Pend.counter (p : Pend) : Counter := if p.acc then .acc else .sfu

/-- A counter of a level (06 R155, 19 R395). -/
def count (f : Flight) (level : Nat) (k : Counter) : Nat :=
  (f.mops.filter fun o => o.level == level && mopCounter o.instr == some k).length +
  (f.pend.filter fun p => p.level == level && p.counter == k).length

/-- Registers that a program wrote while an instruction's result was outstanding (04 R103), of the banks of a level. -/
structure Hits where
  level : Nat
  frag  : Nat
  v     : List (Nat × Lanes)
  s     : List Nat

/-- Drop finished accesses, each counted one once every earlier one of its counter has finished (04 R103), and answer what was written
early of those dropped. -/
def pruneMops : List (Option Counter × Nat) → List Mop → List Mop × List Hits
  | _, [] => ([], [])
  | op, o :: r =>
    let k := mopCounter o.instr
    if o.finished && (k.isNone || !op.contains (k, o.level)) then
      let (ms, hs) := pruneMops op r
      (ms, ⟨o.level % 10, o.frag, o.vhits, o.shits⟩ :: hs)
    else
      let (ms, hs) := pruneMops (if o.finished then op else (k, o.level) :: op) r
      (o :: ms, hs)

/-- Drop written results, each once every earlier one of its counter has been written (06 R155), and answer what was written early of
those dropped. -/
def prunePend : List (Counter × Nat) → List Pend → List Pend × List Hits
  | _, [] => ([], [])
  | op, p :: r =>
    if p.finished && !op.contains (p.counter, p.level) then
      let (ps, hs) := prunePend op r
      (ps, ⟨p.level % 10, p.frag, p.vhits, []⟩ :: hs)
    else
      let (ps, hs) := prunePend (if p.finished then op else (p.counter, p.level) :: op) r
      (p :: ps, hs)

/-- Lanes of a vector register, or of a vt register of a level, hold undefined values. -/
def loseV (s : State) (level : Nat) (f : Flight) (h : Nat × Lanes) : Flight :=
  if h.1 < 192 then { f with v := mset f.v h.1 (rowSet (mgetD f.v h.1 []) h.2 (freeAt s h.1)) }
  else
    let t := bank f level
    setBank f level { t with vt := mset t.vt (h.1 - 192) (rowSet (mgetD t.vt (h.1 - 192) []) h.2 (freeAt s (h.1 + 112))) }

/-- A scalar register, a word of a fragment's em, or an ss register of a level, holds an undefined value. -/
def loseS (s : State) (level frag : Nat) (f : Flight) (n : Nat) : Flight :=
  let w := freeAt s (n + 192) 0
  if 96 ≤ n then
    let t := bank f level
    setBank f level { t with ss := mset t.ss (n - 96) w }
  else if 88 ≤ n then
    { f with frags := f.frags.map fun g => if g.num == frag then { g with em := setMaskWord g.em (n - 88) w &&& g.owned } else g }
  else { f with s := mset f.s n w }

/-- Registers that were written early hold undefined values from now on (04 R103, 06 R155). -/
def lose (s : State) (f : Flight) (h : Hits) : Flight :=
  h.s.foldl (loseS s h.level h.frag) (h.v.foldl (loseV s h.level) f)

/-- Let the counters fall: a register that was written before its counter fell is undefined afterwards. -/
def prune (s : State) (f : Flight) : Flight :=
  let (ms, h1) := pruneMops [] f.mops
  let (ps, h2) := prunePend [] f.pend
  (h1 ++ h2).foldl (lose s) { f with mops := ms, pend := ps }

/-- The four counts in the layout of WAIT (06 R171, 19 R393 TCOUNT). -/
def countsWord (f : Flight) (level : Nat) : Word :=
  w32 (count f level .ld * 1024 + count f level .sld * 64 + count f level .sfu * 4 + count f level .acc)

/-- Issue a result that is written later (06 R155). -/
def pendResult (c : Ctx) (acc : Bool) (d : Opnd) (rows : List Row) (flags : List Lanes) : Ctx :=
  let p : Pend :=
    { id := c.st.nextId, acc := acc, frag := c.g.num, level := c.g.level, dst := d, rows := rows, lanes := c.g.em,
      flags := flags, pc := c.g.pc, seq := c.f.seqNo, vhits := [], cleared := [],
      late := !acc && lateWatch (core c.st c.f.core).bcn c.f c.g, watch := (core c.st c.f.core).bcn
      held := false }
  { c with st := { c.st with nextId := c.st.nextId + 1 }, f := { c.f with pend := c.f.pend ++ [p] } }

/-- A lane of a destination register was written while its result was outstanding. -/
def wasHit (hits : List (Nat × Lanes)) (n l : Nat) : Bool := hits.any fun h => h.1 == n && h.2.getLsbD l

/-- Write lanes of vector register `n` with the result of an instruction issued as `id`. Lanes written meanwhile are undefined (04 R103);
so are those that an LCONA reads, unless the instruction issued before it: then it may still supply the old value (09 R242). Other
outstanding destinations are marked. -/
def landV (s : State) (f : Flight) (id n : Nat) (m : Lanes) (hits : List (Nat × Lanes)) (val : Nat → Word) : Flight :=
  let later := unionLanes ((f.asyncR.filter fun a => a.reg == n && a.made ≤ id).map (·.lanes))
  let old := mgetD f.v n []
  { f with
    v := mset f.v n (rowSet old m fun l => if wasHit hits n l || later.getLsbD l then freeAt s n l else val l)
    mops := f.mops.map fun o => if o.id == id then o else o.hitV n m
    pend := f.pend.map fun p => if p.id == id then p else p.hitV n m
    dirty := mset f.dirty n ((m, old) :: mgetD f.dirty n [])
    asyncR := f.asyncR.map fun a =>
      if a.reg != n then a
      else if a.made ≤ id then { a with hit := a.hit ||| (m &&& a.lanes) }
      else { a with olds := (m &&& a.lanes, old) :: a.olds } }

/-- Write lanes of a register with the result of an instruction issued as `id` at a level: a lane written early is undefined afterwards
(06 R155, 04 R103). A vt register is that of the level the result was issued at. -/
def landReg (s : State) (f : Flight) (id level : Nat) (d : Opnd) (m : Lanes) (hits : List (Nat × Lanes)) (val : Nat → Word) :
    Flight :=
  match d with
  | .v n => landV s f id n.val m hits val
  | .vt n =>
    let t := bank f (level % 10)
    setBank f (level % 10)
      { t with vt := mset t.vt n.val (rowSet (mgetD t.vt n.val []) m fun l =>
          if wasHit hits (192 + n.val) l then freeAt s (304 + n.val) l else val l) }
  | _ => f

/-- A result may land: its tile has been read, and none of a lower level issued before it is outstanding (19 R395, 09 R243). -/
def pendReady (f : Flight) (p : Pend) : Bool :=
  !p.finished && !p.held && !((f.pend.takeWhile fun q => q.id != p.id).any fun q =>
    !q.finished && q.acc == p.acc && q.level % 10 < p.level % 10)

/-- The flags that a landing result raises: where an SMOVW has cleared a flag since the issue, it is raised or left clear (07 R187). -/
def Pend.raised (s : State) (p : Pend) : List Lanes :=
  (List.range p.flags.length).map fun k =>
    p.flags.getD k 0 &&& ~~~(lanesOf fun l => (p.cleared.getD k 0).getLsbD l && Config.freeBool (s.free * 65536 + k * 96 + l))

/-- A counted result lands (06 R155, 07 R187): its registers and flags are written, its counter falls, and beacons that wait
for it examine it (20 R424). -/
def landPend (s : State) (fid : Nat) (p : Pend) : State :=
  let s1 := modFlight s fid fun f =>
    let f1 := (List.range p.rows.length).foldl
      (fun f k => landReg s f p.id p.level (opAdd p.dst k) p.lanes p.vhits (rowAt (p.rows.getD k []))) f
    let f2 := f1.raise (p.raised s)
    prune s { f2 with pend := f2.pend.map fun q => if q.id == p.id then { q with rows := [] } else q }
  let obs : Obs :=
    ⟨[], (p.rows.map fun r => p.lanes.list.map fun l => (2, l, rowAt r l)).flatten, p.flags⟩
  let s2 := { s1 with free := s1.free + 1 }
  if p.late then examine s2 p.watch fid p.frag p.pc p.seq obs else s2

/-- One lane of one register of a counted result is written before the rest: until the counter falls a read finds, per register and lane,
the old value or the new one (06 R155). -/
def landEarly (s : State) (fid id reg lane : Nat) : State :=
  modFlight s fid fun f =>
    match f.pend.find? fun p => p.id == id with
    | some p =>
      if pendReady f p && reg < p.rows.length && p.lanes.getLsbD lane then
        landReg s f p.id p.level (opAdd p.dst reg) (Lanes.one lane) p.vhits (rowAt (p.rows.getD reg []))
      else f
    | none => f

/-! ### Outstanding accesses of lanes (13 R287) -/

/-- The lanes in whose program order an access stands. -/
def agents (o : Mop) (l : LaneOp) : Lanes := if l.lane < 96 then Lanes.one l.lane else o.owned

/-- Some issued access in the program order of a lane of the mask is not performed (13 R294, R298). -/
def openFor (f : Flight) (m : Lanes) : Bool :=
  f.mops.any fun o => o.lanes.any fun l => l.st.waiting && agents o l &&& m != 0

end Sys2Proof.Machine
end

