-- ==== Sys2Proof/Machine/Images.lean ====
section
/-!
DEFINITION. The symmetry group of a launch (11 R276-R278), its points, and image addresses (R279-R282).
-/
namespace Sys2Proof.Machine

/-- One axis of an element: it is coordinate `from` of the point, reflected or not, plus a constant, modulo its extent. -/
structure Axis where
  src : Nat
  neg : Bool
  add : Nat
  deriving DecidableEq, Repr

/-- An element of the group with its character −1 (11 R277). -/
structure Elem where
  axes : List Axis
  neg  : Bool
  deriving DecidableEq, Repr

/-- Extent of an axis. -/
def extent (ext : List Nat) (p : Nat) : Nat := ext.getD p 1

/-- An axis in the one form that stands for its action on every point: on an extent of 1 everything is alike, and on an
extent of 2 a reflection is a sum. -/
def normAxis (ext : List Nat) (p : Nat) (a : Axis) : Axis :=
  let e := extent ext p
  if e ≤ 1 then ⟨p, false, 0⟩ else if e == 2 then { a with neg := false, add := a.add % 2 } else { a with add := a.add % e }

/-- An axis of an element. -/
def axisAt (x : Elem) (p : Nat) : Axis := x.axes.getD p ⟨p, false, 0⟩

/-- The identity. -/
def Elem.id (ext : List Nat) : Elem := ⟨(List.range 3).map fun p => normAxis ext p ⟨p, false, 0⟩, false⟩

/-- The element followed by a generator (11 R276, R277). -/
def Elem.then (ext : List Nat) (x : Elem) (g : Gen) : Elem :=
  let act (p : Nat) : Axis :=
    match g.kind with
    | 1 => axisAt x (if p == g.p then g.q else if p == g.q then g.p else p)
    | 2 =>
      let a := axisAt x p
      if p == g.p then { a with neg := !a.neg, add := 2 * extent ext p - 1 - a.add } else a
    | _ =>
      let a := axisAt x p
      if p == g.p then { a with add := a.add + extent ext p / g.m } else a
  ⟨(List.range 3).map fun p => normAxis ext p (act p), x.neg != g.neg⟩

/-- Extend the elements of one length by every generator, keeping those that are new (11 R277). -/
def extend (ext : List Nat) (gens : List Gen) (seen : List Elem) (last : List Elem) : List Elem :=
  ((last.map fun x => gens.map fun g => x.then ext g).flatten).foldl
    (fun new y => if (seen ++ new).any fun z => z.axes == y.axes then new else new ++ [y]) []

/-- The group by length, up to a length. -/
def groupFrom (ext : List Nat) (gens : List Gen) : Nat → List Elem → List Elem → List Elem
  | 0, seen, _ => seen
  | n + 1, seen, last =>
    match extend ext gens seen last with
    | [] => seen
    | new => if 48 < (seen ++ new).length then seen ++ new else groupFrom ext gens n (seen ++ new) new

/-- The elements of the group in shortlex order (11 R277); more than 48 where it has more. -/
def group (ext : List Nat) (gens : List Gen) : List Elem := groupFrom ext gens 49 [Elem.id ext] [Elem.id ext]

/-- The characters are consistent (11 R277). -/
def charsOk (ext : List Nat) (gens : List Gen) (es : List Elem) : Bool :=
  es.all fun x => gens.all fun g =>
    let y := x.then ext g
    es.all fun z => z.axes != y.axes || z.neg == y.neg

/-- The action of an element on a point. -/
def Elem.apply (ext : List Nat) (x : Elem) (pt : List Nat) : List Nat :=
  (List.range 3).map fun p =>
    let a := axisAt x p
    let e := extent ext p
    let v := pt.getD a.src 0
    if e == 0 then 0 else ((if a.neg then e - v % e else v) + a.add) % e

/-- The distinct images of a point: element number, image and negation (11 R280). -/
def images (ext : List Nat) (es : List Elem) (pt : List Nat) : List (Nat × List Nat × Bool) :=
  (List.range es.length).filterMap fun k =>
    if k == 0 then none
    else
      let y := (es.getD k (Elem.id ext)).apply ext pt
      if y == pt || ((es.take k).any fun z => z.apply ext pt == y) then none
      else some (k, y, (es.getD k (Elem.id ext)).neg)

/-- The point is antisymmetric-fixed (11 R282). -/
def antiFixed (ext : List Nat) (es : List Elem) (pt : List Nat) : Bool :=
  es.any fun z => z.neg && z.apply ext pt == pt

/-- The group of a flight's launch with its extents: of one element where the launch declares none (11 R278). -/
def symOf (s : State) (f : Flight) : List Nat × List Elem :=
  match launchOf s f with
  | some l =>
    match l.desc with
    | some d => (l.ext, if d.sym then group l.ext d.gens else [Elem.id l.ext])
    | none => (l.ext, [Elem.id l.ext])
  | none => ([1, 1, 1], [Elem.id [1, 1, 1]])

/-- The point of a lane (08 R204); a lane without one reads 0xFFFF_FFFF (15 R315). -/
def pointOf (f : Flight) (l : Nat) : List Nat := (List.range 3).map fun p => (rowAt (f.pts.getD p []) l).toNat

/-- The lane has a point (15 R315): its ORBIT is not 0. -/
def hasPoint (f : Flight) (l : Nat) : Bool := rowAt (f.pts.getD 3 []) l != 0

/-- The launch declares an image map (11 R279). -/
def mapDeclared (s : State) (f : Flight) (j : Nat) : Bool := (descOf s f).elim false fun d => bitOf d.maps j

/-- base + Σ x_i × t_i under map `j` (11 R279, R284). -/
def mapAddr (s : State) (f : Flight) (j : Nat) (base : DWord) (x : List Nat) : DWord :=
  let ts := (descOf s f).elim [] (·.strides)
  (List.range 3).foldl (fun acc p => acc + dw (x.getD p 0) * (ts.getD (3 * j + p) 0).signExtend 64) base

/-- IMGQ (11 R284). -/
def execImgq (map : Fin 4) (d a b : Opnd) (s : State) : Ans :=
  issue [(d, 4), (a, 2), (b, 1)] false (fun c =>
    if c.g.em != 0 && !mapDeclared c.st c.f map.val then fault c 0x0C map.val
    else
      let (ext, es) := symOf c.st c.f
      let at' (l : Nat) : DWord × Word :=
        let x := pointOf c.f l
        let k := (src32 c b l).toNat
        let base := dw (src c .u64 a l)
        let g := es.length * 256
        if !hasPoint c.f l then (mapAddr c.st c.f map.val base x, w32 g)
        else
          let y := if k < es.length then (es.getD k (Elem.id ext)).apply ext x else x
          let st := (if (images ext es x).any fun i => i.1 == k then 1 else 0) +
            (if k < es.length && (es.getD k (Elem.id ext)).neg then 2 else 0) + (if antiFixed ext es x then 4 else 0)
          (mapAddr c.st c.f map.val base y, w32 (st + g))
      let rs := (List.range 96).map fun l => if c.g.em.getLsbD l then at' l else (0, 0)
      let r (l : Nat) : DWord × Word := rs.getD l (0, 0)
      let w (c : Ctx) (k : Nat) (v : Nat → Word) : Ctx := putV c (opAdd d k) c.g.em v
      retireNext c (w (w (w (w c 0 fun l => loWord (r l).1) 1 fun l => hiWord (r l).1) 2 fun l => (r l).2) 3 fun _ => 0)) s

end Sys2Proof.Machine
end

