-- ==== Sys2Proof/Machine/Access.lean ====
section
/-!
DEFINITION. Memory instructions in general: addresses (02 R29, 11 R279), the checks of 04 R89, parks and partial faults
(R90-R93), the order in which the accesses of lanes are performed (13 R291-R295), and what each does when it is performed.
-/
namespace Sys2Proof.Machine

/-! ### What a memory instruction is -/

/-- What a memory instruction asks for: bytes and alignment, kind of access, beacon kind (20 R423), whether its address must
lie in the scratch window or must not (02 R30, 11 R264), whether it makes one access for the fragment, and its operand. -/
structure MSpec where
  size  : Nat
  align : Nat
  acc   : Acc
  kind  : Nat
  inWin : Bool
  noWin : Bool
  once  : Bool
  img   : Bool
  sc    : Scope
  nt    : Bool
  m     : MAddr

/-- The common part of an atomic. -/
def atSpec (n : Nat) (sc : Scope) (img nt : Bool) (m : MAddr) : MSpec :=
  ⟨n, n, .atomic, 2, false, false, false, img, sc, nt, m⟩

/-- The memory instructions. -/
def mspec? : Instr → Option MSpec
  | .ld wd sc fe nt _ m => some ⟨wd.bytes, wd.bytes, .read, 0, fe != .none, false, false, false, sc, nt, m⟩
  | .st wd sc sf img nt _ m => some ⟨wd.bytes, wd.bytes, .write, 1, sf, false, false, img, sc, nt, m⟩
  | .sld wd sc fe nt _ m => some ⟨wd.bytes, wd.bytes, .read, 0, fe != .none, false, true, false, sc, nt, m⟩
  | .sst wd sc sf nt _ m => some ⟨wd.bytes, wd.bytes, .write, 1, sf, false, true, false, sc, nt, m⟩
  | .fest sc _ m => some ⟨16, 16, .write, 1, true, false, false, false, sc, false, m⟩
  | .feq sc _ m => some ⟨16, 16, .read, 0, true, false, false, false, sc, false, m⟩
  | .aadd t sc img nt _ m => some (atSpec t.bytes sc img nt m)
  | .aaddOrd sc img nt _ m => some { atSpec 4 sc img nt m with noWin := true }
  | .aand t sc img nt _ m => some (atSpec t.bytes sc img nt m)
  | .aor t sc img nt _ m => some (atSpec t.bytes sc img nt m)
  | .axor t sc img nt _ m => some (atSpec t.bytes sc img nt m)
  | .amin t sc img nt _ m => some (atSpec t.bytes sc img nt m)
  | .amax t sc img nt _ m => some (atSpec t.bytes sc img nt m)
  | .axchg t sc img nt _ m => some (atSpec t.bytes sc img nt m)
  | .acas t sc nt _ m => some (atSpec t.bytes sc false nt m)
  | .aincb sc nt _ m => some (atSpec 4 sc false nt m)
  | .depdec sc _ m => some { atSpec 4 sc false false m with align := 128, noWin := true }
  | .aseal sc m => some { atSpec 4 sc false false m with noWin := true }
  | _ => none

/-- A memory instruction's facts; any other instruction has those of an access of no bytes. -/
def mspec (i : Instr) : MSpec :=
  (mspec? i).getD ⟨0, 1, .read, 0, false, false, false, false, .relaxed, false, ⟨false, 0, 0⟩⟩

/-- An access with a scope other than relaxed synchronises (02 R29). -/
def MSpec.sync (m : MSpec) : Bool := m.sc != .relaxed

/-- The instruction releases (13, the table of operations). -/
def releases (i : Instr) : Bool :=
  (mspec i).sync && match i with | .ld .. => false | .sld .. => false | .feq .. => false | _ => true

/-- The instruction acquires. -/
def acquires (i : Instr) : Bool :=
  (mspec i).sync && match i with | .st .. => false | .sst .. => false | .fest .. => false | _ => true

/-- An acquire at the scope invalidates the load cache (04 R99). -/
def wideScope (sc : Scope) : Bool := sc != .flight && sc != .block && sc != .relaxed

/-- A fragment enters a region after the instruction (06 R156). -/
def endsRegion (i : Instr) : Bool := (mspec i).acc == .atomic

/-! ### Addresses -/

/-- The base pair of a memory operand in a lane (02 R28). -/
def baseAt (c : Ctx) (m : MAddr) (l : Nat) : DWord :=
  if m.vec then pairOf (getV c.st c.f (2 * m.k.val) l) (getV c.st c.f (2 * m.k.val + 1) l)
  else pairOf (getS c.f c.g (2 * m.k.val)) (getS c.f c.g (2 * m.k.val + 1))

/-- The image map that an .img operand selects (02 R31). -/
def imgMap (m : MAddr) : Nat := bitsOf m.off.toNat 23 22

/-- The offset of an .img operand (02 R31). -/
def imgOff (m : MAddr) : DWord := (m.off.setWidth 22).signExtend 64

/-- One address of a lane: primary or image `img`, with whether its operand is negated. -/
structure Tgt where
  lane : Nat
  va   : DWord
  img  : Nat
  neg  : Bool
  deriving DecidableEq, Repr

/-- The effective address of a lane (02 R29, 11 R279). -/
def addrAt (c : Ctx) (ms : MSpec) (l : Nat) : DWord :=
  if ms.img then mapAddr c.st c.f (imgMap ms.m) (baseAt c ms.m l + imgOff ms.m) (pointOf c.f l)
  else baseAt c ms.m l + ms.m.off.signExtend 64

/-- The addresses of a lane: its primary, then its distinct images in element order (11 R279, R280). -/
def laneTgts (c : Ctx) (ms : MSpec) (l : Nat) : List Tgt :=
  let prim : Tgt := ⟨l, addrAt c ms l, 0, false⟩
  if ms.img && hasPoint c.f l then
    let (ext, es) := symOf c.st c.f
    prim :: (images ext es (pointOf c.f l)).map fun x =>
      ⟨l, mapAddr c.st c.f (imgMap ms.m) (baseAt c ms.m l + imgOff ms.m) x.2.1, x.1, x.2.2⟩
  else [prim]

/-- Every address of the instruction, lanes in ascending order. -/
def allTgts (c : Ctx) (ms : MSpec) : List Tgt :=
  if ms.once then [⟨96, addrAt c ms 0, 0, false⟩] else (c.g.em.list.map (laneTgts c ms)).flatten

/-! ### The checks of R89 -/

/-- The outcome of the checks of one address: its key, whether it keeps to memory and not the cache, and the address bits of the page it
passed, 0 for scratch; a trap (its place in the table of R89 and its code); or a replayable page fault of a kind. -/
inductive Chk where
  | ok (key : Nat) (raw : Bool) (leaf : Nat)
  | trap (rank code : Nat)
  | page (kind : Nat)
  deriving DecidableEq, Repr

/-- Translate and check isolation (04 R77, R83), for a fragment of a partition on a core. The load cache holds nothing of host memory
(22 R447). -/
def checkGlobal (s : State) (pid cr : Nat) (sup : Bool) (lp : Option TlbEntry) (a : Acc) (size : Nat) (va : DWord) :
    Chk × Option TlbEntry × State :=
  match translate s pid cr lp sup a va with
  | (.page k, s1) => (.page k, lp, s1)
  | (.outside, s1) => (.trap 5 0x0A, lp, s1)
  | (.ok e, s1) =>
    let pa := e.phys (vaOf va)
    if ownsPa s pid pa && ownsPa s pid (pa + size - 1) then (.ok pa (e.lcx || isHost pa) e.bits, some e, s1)
    else (.trap 5 0x0A, lp, s1)

/-- The checks of one address in their order (04 R89). Firmware has mapped the doorbell pages of the partition's queues (16 R335). -/
def checkOne (s : State) (pid cr : Nat) (sup : Bool) (lp : Option TlbEntry) (ms : MSpec) (va : DWord) :
    Chk × Option TlbEntry × State :=
  if !canonical va then (.trap 1 0x06, lp, s)
  else if va.toNat % ms.align != 0 then (.trap 2 0x07, lp, s)
  else if inWindow va then
    match if ms.noWin then none else windowKey s pid cr va with
    | some k => (.ok k true 0, lp, s)
    | none => (.trap 3 0x08, lp, s)
  else if ms.inWin then (.trap 4 0x09, lp, s)
  else
    match if ms.noWin then none else doorKey s pid va with
    | some k => (.ok k true 0, lp, s)
    | none => checkGlobal s pid cr sup lp ms.acc ms.size va

/-- The last-page register a lane's access uses: its own with a vector base, else the flight's scalar one (04 R83). -/
def lastPage (f : Flight) (vec : Bool) (l : Nat) : Option TlbEntry := if vec then mget? f.lpr l else f.slpr

/-- Load the last-page register of a lane's access. -/
def setLastPage (f : Flight) (vec : Bool) (l : Nat) (e : Option TlbEntry) : Flight :=
  match e with
  | none => f
  | some e => if vec then { f with lpr := mset f.lpr l e } else { f with slpr := some e }

/-- Check every address, with the lookups' effects: the outcome of each beside it. -/
def checkAll (s : State) (f : Flight) (sup : Bool) (ms : MSpec) : List Tgt → List (Tgt × Chk) × Flight × State
  | [] => ([], f, s)
  | t :: r =>
    let (k, e, s1) := checkOne s f.pid f.core sup (lastPage f ms.m.vec t.lane) ms t.va
    let (ks, f2, s2) := checkAll s1 (setLastPage f ms.m.vec t.lane e) sup ms r
    ((t, k) :: ks, f2, s2)

/-- The trap that the checks raise (04 R89): the first condition in the table's order that some lane met, its lanes, and the
address of the lowest of them. -/
def trapOf (ks : List (Tgt × Chk)) : Option (Nat × Lanes × DWord) :=
  let traps := ks.filterMap fun x => match x.2 with | .trap r c => some (r, c, x.1) | _ => none
  match leastBy (fun x => x.1) traps with
  | none => none
  | some (r, c, t) =>
    some (c, unionLanes ((traps.filter fun x => x.1 == r).map fun x => Lanes.one x.2.2.lane), t.va)

/-- The kind of page fault of an outcome; 0 for none. -/
def Chk.kind : Chk → Nat
  | .page k => k
  | _ => 0

/-- The kinds of page fault that a lane's addresses met, ORed; 0 for none. -/
def pageKinds (ks : List (Tgt × Chk)) (l : Nat) : Nat :=
  ks.foldl (fun acc x => match x.2 with | .page k => if x.1.lane == l then acc ||| k else acc | _ => acc) 0

/-- Record the page faults of one instruction, one update for each 4 MiB block (04 R90, R94). -/
def recordFaults (s : State) (pid : Nat) (a : Acc) (sup : Bool) (faults : List (Nat × Nat)) : State :=
  ((faults.map fun x => x.1 / 2 ^ 22).eraseDups).foldl (fun s b =>
    let mine := faults.filter fun x => x.1 / 2 ^ 22 == b
    recordFault s pid (b * 2 ^ 22) (mine.foldl (fun acc x => acc ||| 2 ^ (x.1 / 65536 % 64)) 0)
      (mine.foldl (fun acc x => acc ||| recordKinds x.2 a sup) 0)) s

/-- The page faults among some outcomes. -/
def faultsOf (ks : List (Tgt × Chk)) : List (Nat × Nat) :=
  ks.filterMap fun x => match x.2 with | .page k => some (x.1.va.toNat, k) | _ => none

/-! ### Data -/

/-- The registers that supply an access's operand in each lane (04 R103, 11 R262). -/
def dataGroup : Instr → Option (Opnd × Nat)
  | .st wd _ _ _ _ d _ => some (d, wd.regs)
  | .sst wd _ _ _ d _ => some (d, wd.regs)
  | .aadd t _ _ _ d _ | .aand t _ _ _ d _ | .aor t _ _ _ d _ | .axor t _ _ _ d _ | .amin t _ _ _ d _ | .amax t _ _ _ d _
  | .axchg t _ _ _ d _ => some (d, t.regs)
  | .acas t _ _ d _ => some (d, 2 * t.regs)
  | .aaddOrd _ _ _ d _ | .aincb _ _ d _ => some (d, 1)
  | _ => none

/-- The registers that receive an atomic's old value (11 R262). -/
def oldGroup : Instr → Option (Opnd × Nat)
  | .aadd t _ _ _ d _ | .aand t _ _ _ d _ | .aor t _ _ _ d _ | .axor t _ _ _ d _ | .amin t _ _ _ d _ | .amax t _ _ _ d _
  | .axchg t _ _ _ d _ => some (d, t.regs)
  | .acas t _ _ d _ => some (d, t.regs)
  | .aincb _ _ d _ | .depdec _ d _ => some (d, 1)
  | _ => none

/-- The type of an atomic's value. -/
def atomType : Instr → AType
  | .aadd t _ _ _ _ _ | .aand t _ _ _ _ _ | .aor t _ _ _ _ _ | .axor t _ _ _ _ _ | .amin t _ _ _ _ _ | .amax t _ _ _ _ _
  | .axchg t _ _ _ _ _ => t
  | .acas t _ _ _ _ => t
  | .aaddOrd .. => .f32
  | _ => .u32

/-- Negate an operand for an image of character −1 (11 R281). -/
def negData (i : Instr) (ws : List Word) : List Word :=
  match i with
  | .st wd .. =>
    match wd with
    | .b => ws.map (· ^^^ 0x80#32)
    | .h => ws.map (· ^^^ 0x8000#32)
    | .d => [ws.getD 0 0, ws.getD 1 0 ^^^ 0x8000_0000#32]
    | _ => ws.map (· ^^^ 0x8000_0000#32)
  | _ =>
    if atomType i == .f32 then ws.map (· ^^^ 0x8000_0000#32)
    else if (atomType i).regs == 2 then
      let x := 0 - pairOf (ws.getD 0 0) (ws.getD 1 0)
      [loWord x, hiWord x]
    else ws.map (0 - ·)

/-- The operand of an access counts as nonzero (11 R282). -/
def nonzero (i : Instr) (ws : List Word) : Bool :=
  match i with
  | .st wd .. =>
    match wd with
    | .b => ws.any fun w => w &&& 0x7F#32 != 0
    | .h => ws.any fun w => w &&& 0x7FFF#32 != 0
    | .d => ws.getD 0 0 != 0 || ws.getD 1 0 &&& 0x7FFF_FFFF#32 != 0
    | _ => ws.any fun w => w &&& 0x7FFF_FFFF#32 != 0
  | _ => if atomType i == .f32 then ws.any fun w => w &&& 0x7FFF_FFFF#32 != 0 else ws.any (· != 0)

/-- The words an access's lane supplies, read at issue (04 R103). -/
def dataAt (c : Ctx) (i : Instr) (l : Nat) : List Word :=
  match dataGroup i with
  | some (d, n) => (List.range n).map fun k => regWord c d k l
  | none => []

/-- The bytes of some words, cut to a size. -/
def bytesOfWords (n : Nat) (ws : List Word) : List Byte := ((ws.map fun w => bytesOfNat 4 w.toNat).flatten).take n

/-- The words of some bytes; a byte or a halfword is zero-extended (04 R100). -/
def wordsOfBytes (n : Nat) (bs : List Byte) : List Word := (List.range n).map fun k => w32 (fieldOf bs (4 * k) 4)

/-- The access of one address. An acquire at gang scope or wider reads memory and not the cache (04 R99). -/
def laneOp (c : Ctx) (i : Instr) (ms : MSpec) (ks : List (Tgt × Chk)) (x : Tgt × Chk) : LaneOp :=
  let ws := dataAt c i x.1.lane
  let data := if x.1.neg then negData i ws else ws
  let fe : Bool := match i with | .ld _ _ fe _ _ _ => fe == .wf || fe == .wfc | .sld _ _ fe _ _ _ => fe == .wf || fe == .wfc | _ => false
  match x.2 with
  | .ok key raw leaf =>
    ⟨x.1.lane, x.1.va, key, leaf, raw || (acquires i && wideScope ms.sc), x.1.neg, data, [],
      if pageKinds ks x.1.lane != 0 then .parked 0 else if fe then .feWait else .todo⟩
  | _ => ⟨x.1.lane, x.1.va, 0, 0, false, x.1.neg, data, [], .parked x.2.kind⟩

/-! ### The order of accesses (13 R291-R295) -/

/-- The access is the first of its lane: the others are images, which are relaxed (11 R283). -/
def primary (o : Mop) (l : LaneOp) : Bool := (o.lanes.find? fun y => y.lane == l.lane) == some l

/-- An access is a release (13, the table of operations); a write to a doorbell page is one too (16 R337). -/
def releasing (o : Mop) (l : LaneOp) : Bool := (releases o.instr && primary o l) || isDoor l.pa

/-- An earlier access keeps a later one of `n` bytes of a common lane, a release or not, from being performed. -/
def blocks (early : Mop) (y : LaneOp) (release : Bool) (n : Nat) (l : LaneOp) : Bool :=
  y.st.waiting && (release || acquires early.instr || touch y.pa (mspec early.instr).size l.pa n)

/-- No earlier access of a common lane keeps an access from being performed. -/
def clearOf (before : List Mop) (o : Mop) (l : LaneOp) : Bool :=
  !(before.any fun p => p.lanes.any fun y =>
    agents p y &&& agents o l != 0 && blocks p y (releasing o l) (mspec o.instr).size l)

/-- The issued instructions before one. -/
def earlier (f : Flight) (id : Nat) : List Mop := f.mops.takeWhile fun p => p.id != id

/-- Some access in the program order of a lane of the mask, issued before another, is not performed. -/
def openBefore (f : Flight) (id : Nat) (m : Lanes) : Bool :=
  (earlier f id).any fun o => o.lanes.any fun l => l.st.waiting && agents o l &&& m != 0

/-- A lane's access may be performed: no earlier one of a common lane keeps it, and no lower lane of its own instruction
that touches its bytes. -/
def mayPerform (f : Flight) (o : Mop) (l : LaneOp) : Bool :=
  let n := (mspec o.instr).size
  clearOf (earlier f o.id) o l &&
  !((o.lanes.takeWhile fun y => y != l).any fun y => y.lane != l.lane && y.st.waiting && touch y.pa n l.pa n)

/-! ### Beacons -/

/-- What a memory instruction shows the beacons: a match on an access made once for the fragment, and on one of FEST or FEQ, counts in
every lane that was active at issue; of a store's words those of its register group, not those it negates for an image (20 R423). -/
def obsOf (o : Mop) : Obs :=
  let ms := mspec o.instr
  let once : Bool := match o.instr with | .fest .. => true | .feq .. => true | _ => false
  let lanes (l : LaneOp) : List Nat := if l.lane < 96 && !once then [l.lane] else o.once
  let words := match o.instr with | .ld .. => true | .sld .. => true | .st .. => true | .sst .. => true | _ => false
  ⟨(o.lanes.map fun l => (lanes l).map fun k => (ms.kind, k, l.va.toNat, ms.size)).flatten,
   if words then ((o.lanes.filter fun l => !l.neg).map fun l => ((lanes l).map fun k => l.data.map fun w => (ms.kind, k, w)).flatten).flatten else [],
   []⟩

/-! ### Loads -/

/-- The data group overlaps the base pair: no lane is written before every lane is performed (04 R91). -/
def overlapsBase : Instr → Bool
  | .ld wd _ _ _ (.v d) m => m.vec && d.val < 2 * m.k.val + 2 && 2 * m.k.val < d.val + wd.regs
  | .sld wd _ _ _ (.s d) m => d.val < 2 * m.k.val + 2 && 2 * m.k.val < d.val + wd.regs
  | _ => false

/-- How many aligned parts of at most 8 bytes an access has (04 R100). -/
def partCount (i : Instr) : Nat := ((mspec i).size + 7) / 8

/-- The parts of an access that are not performed yet. -/
def partsLeft (i : Instr) (l : LaneOp) : List Nat := (List.range (partCount i)).filter fun p => !l.parts.contains p

/-- Read `n` of a lane's bytes (04 R99): none where the unit read from memory holds an error (R97). An acquire at gang scope or wider drops
the cache first. -/
def readSome (s : State) (f : Flight) (o : Mop) (l : LaneOp) (off n : Nat) : Option (List Byte) × State :=
  let ms := mspec o.instr
  let s1 := if acquires o.instr && wideScope ms.sc then dropCache s f.core else s
  if isDoor l.pa then (some (doorRead s1 (l.pa + off) n), s1)
  else
    let hit := !l.raw && (hitLine (core s1 f.core) (l.pa + off)).isSome
    if !hit && poisonedIn s1 (l.pa + off) n then (none, s1)
    else
      let (bs, s2) := cacheRead s1 f.core l.raw ms.nt (l.pa + off) n
      (some bs, s2)

/-- The words of a load with those of one part put in: a byte or a halfword is zero-extended (04 R100). -/
def putPart (i : Instr) (data : List Word) (p : Nat) (bs : List Byte) : List Word :=
  (List.range ((memDst i).elim 0 (·.2))).map fun k => if k / 2 == p then w32 (fieldOf bs (4 * (k - 2 * p)) 4) else data.getD k 0

/-- Read a lane's words, or what is left of them: none where a unit read from memory holds an error (04 R97). -/
def readLane (s : State) (f : Flight) (o : Mop) (l : LaneOp) : Option (List Word) × State :=
  let n := (mspec o.instr).size
  if l.parts.isEmpty then
    let (r, s1) := readSome s f o l 0 n
    (r.map (wordsOfBytes ((memDst o.instr).elim 0 (·.2))), s1)
  else
    (partsLeft o.instr l).foldl (fun (acc : Option (List Word) × State) p =>
      match acc with
      | (none, s) => (none, s)
      | (some d, s) =>
        let (r, s1) := readSome s f o l (8 * p) (min 8 n)
        (r.map (putPart o.instr d p), s1)) (some l.data, s)

/-- Write a landing scalar register of an instruction (04 R103): one written early is undefined afterwards; em keeps owned lanes
(06 R146). Other outstanding destinations are marked. -/
def landScalar (s : State) (f : Flight) (o : Mop) (d : Opnd) (w : Word) : Flight :=
  let others (k : Mop → Mop) : List Mop := f.mops.map fun p => if p.id == o.id then p else k p
  match d with
  | .s n =>
    let w := if o.shits.contains n.val then freeAt s (n.val + 192) 0 else w
    if 88 ≤ n.val ∧ n.val ≤ 90 then
      { f with
        mops := others fun p => if p.frag == o.frag then p.hitS n.val else p
        frags := f.frags.map fun g =>
          if g.num == o.frag then { g with em := setMaskWord g.em (n.val - 88) w &&& g.owned } else g }
    else { f with s := mset f.s n.val w, mops := others (Mop.hitS n.val) }
  | .ss n =>
    let w := if o.shits.contains (96 + n.val) then freeAt s (n.val + 288) 0 else w
    let t := bank f (o.level % 10)
    { setBank f (o.level % 10) { t with ss := mset t.ss n.val w } with
      mops := others fun p => if p.level % 10 == o.level % 10 then p.hitS (96 + n.val) else p }
  | _ => f

/-- Write one register of a load's group in a lane (04 R102). -/
def landWord (s : State) (o : Mop) (l : LaneOp) (d : Opnd) (f : Flight) (k : Nat) : Flight :=
  if l.lane < 96 then landReg s f o.id o.level (opAdd d k) (Lanes.one l.lane) o.vhits fun _ => l.data.getD k 0
  else landScalar s f o (opAdd d k) (l.data.getD k 0)

/-- Write a load's data to the group of a lane (04 R102). -/
def landData (s : State) (f : Flight) (o : Mop) (l : LaneOp) : Flight :=
  match memDst o.instr with
  | none => f
  | some (d, n) => (List.range n).foldl (landWord s o l d) f

/-- Change the accesses of an issued instruction. -/
def modMop (f : Flight) (id : Nat) (k : Mop → Mop) : Flight :=
  { f with mops := f.mops.map fun o => if o.id == id then k o else o }

/-- Change the access of a lane. -/
def modLane (f : Flight) (id lane : Nat) (k : LaneOp → LaneOp) : Flight :=
  modMop f id fun o => { o with lanes := o.lanes.map fun l => if l.lane == lane then k l else l }

/-- An access of a flight. -/
def mop? (f : Flight) (id : Nat) : Option Mop := f.mops.find? fun o => o.id == id

/-- The lanes that the failure of an access stands for: its own, or all that the fragment owned at issue. -/
def failLanes (o : Mop) (l : LaneOp) : Lanes := if l.lane < 96 then Lanes.one l.lane else o.owned

/-- A lane meets a unit with an uncorrectable error (04 R97, R98): it is over, and the instruction's memory-error fault is queued. While
that fault is still queued a further lane of the instruction joins it, and its address is that of the lowest. -/
def memError (s : State) (fid : Nat) (o : Mop) (l : LaneOp) : State :=
  let s1 := modFlight s fid fun f => modLane f o.id l.lane fun x => { x with st := .failed }
  let m := failLanes o l
  let isOne (a : AsyncFault) : Bool := a.code == 0x04 && a.op == some o.id
  match flight? s1 fid with
  | none => s1
  | some f =>
    if f.afq.any isOne then
      modFlight s1 fid fun f =>
        { f with
          afq := f.afq.map fun a =>
            if isOne a then
              { a with mask := a.mask ||| m, addr := if l.lane < (lowestLane a.mask).getD 96 then l.va else a.addr }
            else a }
    else asyncFault s1 fid f.pid f.launch ⟨0x04, 0, m, l.va, o.pc, o.seq, some o.id⟩

/-- When an instruction's last lane is over, beacons that waited examine it, as they were at its issue, and counters fall. -/
def finishMop (s : State) (fid id : Nat) : State :=
  match flight? s fid with
  | none => s
  | some f =>
    match mop? f id with
    | none => s
    | some o =>
      if !o.finished then s
      else
        let s1 := if o.late then examine s o.watch fid o.frag o.pc o.seq (obsOf o) else s
        modFlight { s1 with free := s1.free + 1 } fid (prune s1)

/-- A load's lane lands: it reads memory if it has not, and its registers are written (04 R102, R103). -/
def landLane (s : State) (fid : Nat) (o : Mop) (l : LaneOp) : State :=
  match flight? s fid with
  | none => s
  | some f =>
    let write (s : State) (l : LaneOp) : State :=
      modFlight { s with free := s.free + 1 } fid fun f =>
        modLane (landData s f o l) o.id l.lane fun x => { x with data := l.data, st := .done }
    match l.st with
    | .todo =>
      if !mayPerform f o l then s
      else
        match readLane s f o l with
        | (none, s1) => finishMop (memError s1 fid o l) fid o.id
        | (some ws, s1) =>
          let fill : Bool := match o.instr with | .ld _ _ fe _ _ _ => fe == .sf | .sld _ _ fe _ _ _ => fe == .sf | _ => false
          let s2 := if fill then setFull s1 l.pa true else s1
          let l1 := { l with data := ws, st := .read }
          if overlapsBase o.instr then modFlight s2 fid fun f => modLane f o.id l.lane fun _ => l1
          else finishMop (write s2 l1) fid o.id
    | .read =>
      if overlapsBase o.instr && o.lanes.any fun x => x.st.waiting then s else finishMop (write s l) fid o.id
    | _ => s

/-- The lane's access takes part in no full-empty operation. -/
def noFe (i : Instr) : Bool := match i with | .ld _ _ fe _ _ _ => fe == .none | .sld _ _ fe _ _ _ => fe == .none | _ => true

/-- A part of a load's access reads memory before the rest (04 R100, 13 R297). -/
def loadPart (s : State) (fid : Nat) (f : Flight) (o : Mop) (l : LaneOp) (p : Nat) : State :=
  if noFe o.instr && !isDoor l.pa && l.st == .todo && (partsLeft o.instr l).contains p && mayPerform f o l then
    match readSome s f o l (8 * p) (min 8 (mspec o.instr).size) with
    | (none, _) => s
    | (some bs, s1) =>
      modFlight s1 fid fun f => modLane f o.id l.lane fun x => { x with data := putPart o.instr x.data p bs, parts := p :: x.parts }
  else s

/-- All that a load's lane reads has been read. -/
def hasRead (o : Mop) (l : LaneOp) : Bool := l.st == .read || (l.st == .todo && (partsLeft o.instr l).isEmpty)

/-- One register of a load's lane is written before the rest: until the counter falls a read finds, per register and lane, the old value
or the loaded one (04 R103). -/
def landEarlyWord (s : State) (fid id reg lane : Nat) : State :=
  match (flight? s fid).bind fun f => mop? f id with
  | none => s
  | some o =>
    match memDst o.instr, o.lanes.find? fun l => l.lane == lane with
    | some (d, n), some l =>
      if reg < n && hasRead o l && (!overlapsBase o.instr || o.lanes.all fun x => !x.st.waiting || hasRead o x) then
        modFlight s fid fun f => landWord s o l d f reg
      else s
    | _, _ => s

/-! ### Stores -/

/-- An access narrower than its unit meets an uncorrectable error (04 R98). -/
def badUnit (s : State) (n : Nat) (l : LaneOp) : Bool := n != 32 && poisonedIn s l.pa n

/-- Some bytes of an access of a store become visible (04 R99, R102); image writes invalidate the line they address. -/
def storeBytes (s : State) (who : Option (Nat × Nat)) (cr : Nat) (image : Bool) (a : Nat) (bs : List Byte) : State :=
  let s1 := noteWrite (writeBytes s a bs) who a bs.length
  if isScratch a then s1 else if image then dropLine s1 cr a else storeLine s1 cr a bs

/-- Perform one access of a store, or what is left of it (04 R98, R102, 05 R110). -/
def storeOne (s : State) (fid : Nat) (f : Flight) (o : Mop) (image : Bool) (l : LaneOp) : State :=
  let n := (mspec o.instr).size
  let bs := bytesOfWords n l.data
  if isDoor l.pa then doorWrite s l.pa bs
  else
    let s1 :=
      if l.parts.isEmpty then storeBytes s (some (fid, o.id)) f.core image l.pa bs
      else (partsLeft o.instr l).foldl (fun s p =>
        storeBytes s (some (fid, o.id)) f.core image (l.pa + 8 * p) ((bs.drop (8 * p)).take 8)) s
    let s2 := if n == 32 then { s1 with poison := s1.poison.filter (· != l.pa / 32) } else s1
    let fill : Bool := match o.instr with | .st _ _ sf _ _ _ _ => sf | .sst _ _ sf _ _ _ => sf | _ => false
    if fill then setFull s2 l.pa true else s2

/-- The access of a store's lane that keeps the lane from being performed, because its unit holds an error; none once part of the lane has
been performed. -/
def badStore (s : State) (o : Mop) (mine : List LaneOp) : Option LaneOp :=
  if mine.all fun l => l.parts.isEmpty then mine.find? (badUnit s (mspec o.instr).size) else none

/-- Perform a store's lane: its primary, then its images, or none of them (11 R280, R283). -/
def storeLane (s : State) (fid : Nat) (o : Mop) (lane : Nat) : State :=
  match flight? s fid with
  | none => s
  | some f =>
    let mine := o.lanes.filter fun l => l.lane == lane
    if mine.isEmpty || !(mine.all fun l => l.st == .todo && mayPerform f o l) then s
    else
      match badStore s o mine with
      | some l => finishMop (memError s fid o l) fid o.id
      | none =>
        let s1 := (mine.foldl (fun (acc : State × Bool) l => (storeOne acc.1 fid f o acc.2 l, true)) (s, false)).1
        finishMop (modFlight s1 fid fun f => modLane f o.id lane fun y => { y with st := .done }) fid o.id

/-- A part of an access of a store's lane becomes visible before the rest (04 R100): of the `k`-th of the lane, whose images no release by
the primary orders (11 R283), after those before it that touch its bytes (R291). -/
def storePart (s : State) (fid : Nat) (f : Flight) (o : Mop) (lane k p : Nat) : State :=
  let mine := o.lanes.filter fun l => l.lane == lane
  match mine[k]? with
  | none => s
  | some l =>
    let n := (mspec o.instr).size
    if !isDoor l.pa && (mine.all fun x => x.st == .todo) && (partsLeft o.instr l).contains p && mayPerform f o l &&
        (badStore s o mine).isNone && (mine.take k).all fun x => !touch x.pa n l.pa n || (partsLeft o.instr x).isEmpty then
      let s1 := storeBytes s (some (fid, o.id)) f.core (k != 0) (l.pa + 8 * p) (((bytesOfWords n l.data).drop (8 * p)).take 8)
      modFlight s1 fid fun f => modMop f o.id fun o =>
        { o with lanes := o.lanes.map fun x => if x == l then { x with parts := p :: x.parts } else x }
    else s

/-- A lane of a store has been performed in part. -/
def partDone (o : Mop) : Bool := o.lanes.any fun l => l.st == .todo && !l.parts.isEmpty

/-! ### Parks (04 R90-R93) -/

/-- A fragment of a flight as the one that acts in an event; `cur` is put back by `back`. -/
def ctxAt (s : State) (fid n : Nat) : Option Ctx := issuer? { s with cur := (fid, n) }

/-- Put back which fragment issues in this step. -/
def back (s t : State) : State := { t with cur := s.cur }

/-- The instruction of access `o` has completed in its fragment: it goes on at the next one, in a new region where the
instruction ends one (06 R156), and beacons that do not wait for its data examine it. -/
def completeMop (s : State) (fid : Nat) (o : Mop) : State :=
  match ctxAt s fid o.frag with
  | none => s
  | some c =>
    let s1 := back s (commit (settled (next (if endsRegion o.instr then enterNext c else c))))
    let s2 := if o.late || c.g.skip then s1 else examine s1 o.watch fid o.frag o.pc o.seq (obsOf o)
    finishMop s2 fid o.id

/-- The instruction's accesses are performed while its fragment waits (06 R154): atomics, FEST and FEQ. -/
def performsAtOnce (i : Instr) : Bool :=
  match i with
  | .ld .. => false
  | .sld .. => false
  | .st .. => false
  | .sst .. => false
  | _ => true

/-- Set what the fragment of an access waits for, or let it go on: lanes parked, lanes in a full-empty wait, lanes of an atomic still to
perform, or none. -/
def advanceMop (s : State) (fid id : Nat) : State :=
  match (flight? s fid).bind fun f => mop? f id with
  | none => s
  | some o =>
    if o.lanes.any fun l => match l.st with | .parked _ => true | _ => false then
      modFrag s fid o.frag fun g => { g with wait := .park id }
    else if o.lanes.any fun l => l.st == .feWait then modFrag s fid o.frag fun g => { g with wait := .feWait id }
    else if performsAtOnce o.instr && o.lanes.any fun l => l.st == .todo then
      modFrag s fid o.frag fun g => { g with wait := .perform id }
    else completeMop s fid o

/-- The lanes of an access still parked, with the kinds of their faults. -/
def parkedLanes (o : Mop) : List LaneOp := o.lanes.filter fun l => match l.st with | .parked _ => true | _ => false

/-- The kinds of fault of parked lanes, ORed. -/
def parkKinds (ls : List LaneOp) : Nat := ls.foldl (fun acc l => match l.st with | .parked k => acc ||| k | _ => acc) 0

/-- The first address of parked lanes that met a fault (19 R390). -/
def parkVa (ls : List LaneOp) : DWord :=
  ((ls.find? fun l => match l.st with | .parked k => k != 0 | _ => false).map (·.va)).getD ((ls.map (·.va)).headD 0)

/-- The mask of some accesses' lanes; none where the access is the fragment's own. -/
def laneMask (ls : List LaneOp) : Option Lanes :=
  if ls.any fun l => 96 ≤ l.lane then none else some (unionLanes (ls.map fun l => Lanes.one l.lane))

/-- A park ends in a partial fault: the performed lanes keep their effects and the others are kept with their addresses
(04 R92, 19 R384, R390). -/
def failPark (s : State) (fid n id : Nat) : State :=
  match flight? s fid with
  | none => s
  | some f =>
    match mop? f id with
    | none => s
    | some o =>
      let ls := parkedLanes o
      let fi : FaultInfo :=
        { FaultInfo.precise 0x0B (parkKinds ls) o.pc with
          origin := 1, mask := laneMask ls, addr := parkVa ls, kept := some (.access o.instr ls) }
      let s1 := modFlight s fid fun f => prune s (modMop f id fun o =>
        { o with lanes := o.lanes.filter fun l => match l.st with | .parked _ => false | _ => true })
      takeTrap s1 fid n fi f.afMore

/-- Check the parked lanes of an access again with their kept addresses (04 R90): the access with what became of them, the
flight and the state with the lookups' effects, and the faults met. -/
def recheck (s : State) (f : Flight) (sup : Bool) (o : Mop) : Mop × Flight × State × Option (Nat × Lanes × DWord) × List (Nat × Nat) :=
  let ms := mspec o.instr
  let ts := (parkedLanes o).map fun l => (⟨l.lane, l.va, 0, false⟩ : Tgt)
  let (ks, f1, s1) := checkAll s f sup ms ts
  let renew (l : LaneOp) : LaneOp :=
    match l.st with
    | .parked _ =>
      match ks.find? fun x => x.1.lane == l.lane && x.1.va == l.va with
      | some (_, .ok key raw leaf) =>
        { l with
          pa := key, leaf := leaf, raw := raw || (acquires o.instr && wideScope ms.sc)
          st := if pageKinds ks l.lane != 0 then .parked 0 else .todo }
      | x => { l with st := .parked (x.elim 0 fun x => x.2.kind) }
    | _ => l
  ({ o with lanes := o.lanes.map renew }, f1, s1, trapOf ks, faultsOf ks)

end Sys2Proof.Machine
end

