-- ==== Sys2Proof/Machine/Atom.lean ====
section
/-!
DEFINITION. What an access that is performed when it issues does: the atomics (11 R262-R265), ordered contributions and
seals (R266-R271), dependence counters (R274), and FEST and FEQ (05 R113-R115).
-/
namespace Sys2Proof.Machine

/-! ### One value (11 R265) -/

/-- The smaller or larger of two values of a type. -/
def atomMinMax (t : AType) (mx : Bool) (m v : Nat) : Nat :=
  match t with
  | .f32 => fMinMax f32 mx m v
  | .s32 => if ((w32 m).toInt < (w32 v).toInt) == mx then v else m
  | .s64 => if ((dw m).toInt < (dw v).toInt) == mx then v else m
  | _ => if decide (m < v) == mx then v else m

/-- The new memory value of an atomic, from the old one `m`, the operand `v` and, for ACAS, the compared value `k`
(11 R265). -/
def atomNew (i : Instr) (m v k : Nat) : Nat :=
  let size := 2 ^ (8 * (atomType i).bytes)
  match i with
  | .aadd t .. => if t == .f32 then (fAdd f32 0 (f32.val m) (f32.val v)).1 else (m + v) % size
  | .aand .. => m &&& v
  | .aor .. => m ||| v
  | .axor .. => m ^^^ v
  | .amin t .. => atomMinMax t false m v
  | .amax t .. => atomMinMax t true m v
  | .axchg .. => v
  | .acas .. => if m == k then v else m
  | .aincb .. => if m < v then m + 1 else m
  | _ => m

/-- The number that some words of an operand hold. -/
def wordsNat (ws : List Word) (o n : Nat) : Nat :=
  (ws.getD o 0).toNat + if n == 2 then (ws.getD (o + 1) 0).toNat * 2 ^ 32 else 0

/-- The operand of an atomic's access: for ACAS the compared value comes first. -/
def atomOperand (i : Instr) (ws : List Word) : Nat × Nat :=
  let n := (atomType i).regs
  match i with
  | .acas .. => (wordsNat ws n n, wordsNat ws 0 n)
  | _ => (wordsNat ws 0 n, 0)

/-- Read an aligned number at a key: of memory, or of a doorbell page (16 R337). -/
def keyNat (s : State) (a n : Nat) : Nat := if isDoor a then natOfBytes (doorRead s a n) else readNat s a n

/-- Write a number at a key by an access of a flight, which may race with an engine's operation (05 R132). -/
def putKey (s : State) (who : Option (Nat × Nat)) (a n v : Nat) : State :=
  if isDoor a then doorWrite s a (bytesOfNat n v) else noteWrite (writeNat s a n v) who a n

/-- One access of an atomic: the old value and the state with the new one; the load-cache line goes (04 R99). -/
def atomOne (s : State) (fid c : Nat) (o : Mop) (l : LaneOp) : Nat × State :=
  let n := (mspec o.instr).size
  let m := keyNat s l.pa n
  let x := atomOperand o.instr l.data
  let s1 := putKey s (some (fid, o.id)) l.pa n (atomNew o.instr m x.1 x.2)
  (m, if isScratch l.pa then s1 else dropLine s1 c l.pa)

/-- The words of an old value. -/
def oldWords (n m : Nat) : List Word := (List.range n).map fun k => w32 (m / 2 ^ (32 * k))

/-- An atomic's lane: the primary, then the images; the primary's old value is returned (11 R263, R280). -/
def atomLane (s : State) (fid : Nat) (f : Flight) (o : Mop) (mine : List LaneOp) : State × List Word :=
  match mine with
  | [] => (s, [])
  | p :: r =>
    let (m, s1) := atomOne s fid f.core o p
    (r.foldl (fun s l => (atomOne s fid f.core o l).2) s1, oldWords ((oldGroup o.instr).elim 0 (·.2)) m)

/-! ### Ordered sums (11 R266-R271) -/

/-- The channel group whose on-chip entries hold contributions to a word (11 R271). -/
def entryGroup (s : State) (pid pa : Nat) : Nat :=
  if pa < Config.hbmBytes then pa / Config.groupBytes
  else ((part? s pid).bind fun p => (List.range 32).find? fun g => p.desc.groups.getLsbD g).getD 0

/-- The on-chip entries of a group in use. -/
def entriesUsed (s : State) (g : Nat) : Nat :=
  (s.launches.map fun l => (l.2.contribs.filter fun x => x.chip && entryGroup s l.2.pid x.pa == g).length).sum

/-- Give the contributions to some words of a launch their places: on-chip entries while the group has them, then slots of
32 bytes in the spill reservation; none where they do not fit. `done` are the groups of entries just given, `out` the slots. -/
def entryPlaces (s : State) (pid slots : Nat) : List Nat → List Nat → Nat → Option (List Bool)
  | [], _, _ => some []
  | pa :: r, given, out =>
    let g := entryGroup s pid pa
    if entriesUsed s g + (given.filter (· == g)).length < Config.groupEntries then
      (entryPlaces s pid slots r (g :: given) out).map (true :: ·)
    else if out < slots then (entryPlaces s pid slots r given (out + 1)).map (false :: ·)
    else none

/-- The places of contributions that a flight enters. -/
def placesFor (s : State) (f : Flight) (pas : List Nat) : Option (List Bool) :=
  match launchOf s f with
  | some l =>
    let slots := (l.desc.elim 0 (·.spill)) / 32
    entryPlaces s f.pid slots pas [] (l.contribs.filter fun x => !x.chip).length
  | none => none

/-- The active lanes of an ordered add can all be given their places; any other access needs none (11 R271). -/
def ordRoom (s : State) (f : Flight) (o : Mop) : Bool :=
  match o.instr with
  | .aaddOrd .. => (placesFor s f ((o.lanes.filter fun l => l.st == .todo).map (·.pa))).isSome
  | _ => true

/-- The key's order (11 R266) as one number. -/
def Contrib.key (x : Contrib) : Nat := (((x.gang * 4 + x.rank) * 2048 + x.blane) * 2 ^ 32 + x.lseq) * 64 + x.img

/-- The index among the group's elements of each image a lane's accesses address: 0, then the distinct images' numbers. -/
def imageNums (s : State) (f : Flight) (i : Instr) (l : Nat) : List Nat :=
  if (mspec i).img && hasPoint f l then
    let (ext, es) := symOf s f
    0 :: (images ext es (pointOf f l)).map (·.1)
  else [0]

/-- A lane of an ordered add, whose lanes have been given their places, enters its contributions (11 R266, R280); its
lane sequence counts one, and the load-cache lines it addresses go, as for any atomic (04 R99). -/
def enterLane (s : State) (_ : Nat) (f : Flight) (o : Mop) (mine : List LaneOp) : State × List Word :=
  match placesFor s f (mine.map (·.pa)) with
  | none => (s, [])
  | some chips =>
    let lane := (mine.map (·.lane)).headD 0
    let nums := imageNums s f o.instr lane
    let seq := (rowAt f.lseq lane).toNat
    let num := (gangOf s f).elim 0 (·.num)
    let cs := (List.range mine.length).filterMap fun k =>
      mine[k]?.map fun l =>
        ({ gang := num, rank := f.rank, blane := f.idx * 96 + lane, lseq := seq, img := nums.getD k 0, pa := l.pa,
           val := l.data.getD 0 0, chip := chips.getD k true, lost := false } : Contrib)
    let s1 := modLaunch s (lkey f.pid f.launch) fun l => { l with contribs := l.contribs ++ cs }
    (mine.foldl (fun s l => dropLine s f.core l.pa) s1, [])

/-- Seal a pair of a launch and a word (11 R267): its contributions are added in key order; the sum of lost ones is undefined (R271). -/
def sealWord (s : State) (key pa : Nat) : State :=
  match mget? s.launches key with
  | none => s
  | some l =>
    let mine := sortBy Contrib.key (l.contribs.filter fun x => x.pa == pa)
    let x := mine.foldl (fun x c => (fAdd f32 0 (f32.val x) (f32.val c.val.toNat)).1) (readNat s pa 4)
    let x := if mine.any (·.lost) then (freeAt s 0 0).toNat else x
    modLaunch { noteWrite (writeNat s pa 4 x) none pa 4 with free := s.free + 1 } key fun l => { l with contribs := l.contribs.filter fun x => x.pa != pa }

/-- ASEAL's lane (11 R269). -/
def sealLane (s : State) (_ : Nat) (f : Flight) (_ : Mop) (mine : List LaneOp) : State × List Word :=
  (mine.foldl (fun s l => dropLine (sealWord s (lkey f.pid f.launch) l.pa) f.core l.pa) s, [])

/-! ### Dependence counters (11 R273, R274) -/

/-- The successor's packet of a dependence record, sent by a flight or a completing launch. -/
def successor (s : State) (pa pid launch : Nat) (queue graph : Option Nat) (pc : DWord) (seq : Word) : PacketMsg :=
  { handle := dw (readNat s (pa + 8) 8), bytes := readBytes s (pa + 64) 64, outside := false, spid := pid,
    squeue := queue.getD 0xFFFF, sgen := queue.elim 0 fun q => mgetD s.qgen q 0, slaunch := launch, pc := pc, seq := seq,
    graph := graph }

/-- Decrement a dependence record, by an access of a flight or otherwise; the decrement that reads 1 sends the successor (11 R274). -/
def decrement (s : State) (who : Option (Nat × Nat)) (pa pid launch : Nat) (queue graph : Option Nat) (pc : DWord) (seq : Word) : Nat × State :=
  let old := readNat s pa 4
  let s1 := if old == 0 then s else noteWrite (writeNat s pa 4 (old - 1)) who pa 4
  (old, if old == 1 then send s1 (.packet (successor s pa pid launch queue graph pc seq)) else s1)

/-- DEPDEC's lane. -/
def depLane (s : State) (fid : Nat) (f : Flight) (o : Mop) (mine : List LaneOp) : State × List Word :=
  match mine with
  | [] => (s, [])
  | l :: _ =>
    let (old, s1) := decrement s (some (fid, o.id)) l.pa f.pid f.launch ((launchOf s f).bind (·.errQueue)) none o.pc o.seq
    (dropLine s1 f.core l.pa, [w32 old])

/-! ### FEST -/

/-- FEST's lane (05 R114). -/
def festLane (s : State) (_ : Nat) (_ : Flight) (o : Mop) (mine : List LaneOp) : State × List Word :=
  let full : Bool := match o.instr with | .fest _ b _ => b | _ => false
  (mine.foldl (fun s l => setFull s l.pa full) s, [])

/-! ### The accesses performed at issue -/

/-- What performing a lane's accesses does, for an instruction that performs them when it issues: the state and the value
returned. -/
abbrev Act := State → Nat → Flight → Mop → List LaneOp → State × List Word

/-- The instructions that perform their accesses when they issue. -/
def actOf : Instr → Option Act
  | .aadd .. | .aand .. | .aor .. | .axor .. | .amin .. | .amax .. | .axchg .. | .acas .. | .aincb .. => some atomLane
  | .aaddOrd .. => some enterLane
  | .aseal .. => some sealLane
  | .depdec .. => some depLane
  | .fest .. => some festLane
  | .feq .. => some fun s _ _ _ _ => (s, [])
  | _ => none

/-- The bytes a lane's access touches that must hold no uncorrectable error (04 R98): FEST and FEQ touch none, and a DEPDEC
that reads 1 reads its record. -/
def touched (s : State) (i : Instr) (l : LaneOp) : Nat :=
  match i with
  | .fest .. => 0
  | .feq .. => 0
  | .depdec .. => if readNat s l.pa 4 == 1 then 128 else 4
  | _ => (mspec i).size

/-- Perform some accesses of a lane of an instruction; the old value that the primary returns is written to the lane's registers. -/
def performSome (k : Act) (s : State) (fid : Nat) (f : Flight) (o : Mop) (lane : Nat) (mine : List LaneOp) (primary : Bool) : State :=
  let (s1, ws) := k s fid f o mine
  let put (f : Flight) : Flight :=
    match primary, oldGroup o.instr with
    | true, some (.v d, n) =>
      (List.range n).foldl (fun f j => setV s1 f (d.val + j) (Lanes.one lane) fun _ => ws.getD j 0) f
    | _, _ => f
  let count (f : Flight) : Flight :=
    match o.instr with
    | .aaddOrd .. => { f with lseq := rowSet f.lseq (Lanes.one lane) fun l => rowAt f.lseq l + 1 }
    | _ => f
  modFlight { s1 with free := s1.free + 1 } fid fun f =>
    modMop (count (put f)) o.id fun o => { o with lanes := o.lanes.map fun y => if mine.contains y then { y with st := .done } else y }

/-- The state in which a lane of an atomic is performed: an acquire at gang scope or wider has invalidated the load cache. -/
def acquired (s : State) (f : Flight) (o : Mop) : State :=
  if acquires o.instr && wideScope (mspec o.instr).sc then dropCache s f.core else s

/-- An access of a lane touches a unit with an uncorrectable error (04 R98). -/
def badAtom (s : State) (i : Instr) (l : LaneOp) : Bool := touched s i l != 0 && poisonedIn s l.pa (touched s i l)

/-- Perform one lane of an access, all of it or, where a unit is bad, nothing (04 R98, 11 R283). -/
def performLane (k : Act) (s : State) (fid id lane : Nat) : State :=
  match flight? s fid with
  | none => s
  | some f =>
    match mop? f id with
    | none => s
    | some o =>
      let mine := o.lanes.filter fun l => l.lane == lane
      if mine.isEmpty || !(mine.all fun l => l.st == .todo) then s
      else
        let s0 := acquired s f o
        match mine.find? (badAtom s0 o.instr) with
        | some l => memError s0 fid o l
        | none => performSome k s0 fid f o lane mine true

/-- A DEPDEC's lane is to read 1: its enqueue is a release of the lane's accesses (11 R275), whatever the scope. -/
def sendsAt (s : State) (o : Mop) (l : LaneOp) : Bool :=
  match o.instr with
  | .depdec .. =>
    readNat s l.pa 4 == ((o.lanes.takeWhile fun y => y != l).filter fun y => y.pa == l.pa && y.st == .todo).length + 1
  | _ => false

/-- Perform the next access of the lowest lane that has one left, its primary or its next image (11 R263, R283, R381). A DEPDEC's lane
that is to read 1 waits for the lane's earlier accesses (11 R275). -/
def performNext (k : Act) (s : State) (fid id : Nat) : State :=
  match flight? s fid with
  | none => s
  | some f =>
    match mop? f id with
    | none => s
    | some o =>
      match o.lanes.find? fun l => l.st == .todo with
      | none => s
      | some l =>
        if sendsAt s o l && openBefore f id (agents o l) then s
        else
          let mine := o.lanes.filter fun x => x.lane == l.lane
          let fresh := mine.all fun x => x.st == .todo
          let s0 := if fresh then acquired s f o else s
          match if fresh then mine.find? (badAtom s0 o.instr) else none with
          | some x => memError s0 fid o x
          | none => performSome k s0 fid f o l.lane (if (oldGroup o.instr).isSome then [l] else mine) fresh

end Sys2Proof.Machine
end

