-- ==== Sys2Proof/Machine/LoadStore.lean ====
section
/-!
DEFINITION. The memory instructions (04 R101-R104, 05 R113-R115), the events that perform and land their accesses, the
full-empty waits (05 R111), and replays (04 R90-R92).
-/
namespace Sys2Proof.Machine

/-! ### Full-empty waits (05 R111) -/

/-- Lanes whose accesses act only for a full granule, and clear it. -/
def clears : Instr → Bool
  | .ld _ _ fe _ _ _ => fe == .wfc
  | .sld _ _ fe _ _ _ => fe == .wfc
  | _ => false

/-- Try a waiting lane: it reads when its granule is full. Lower lanes of the instruction that wait for the same bytes come first
(13 R291), with wfc those that wait on the same granule, and then the granule becomes empty in the same step. -/
def tryFe (s : State) (fid id lane : Nat) : State :=
  match flight? s fid with
  | none => s
  | some f =>
    match mop? f id with
    | none => s
    | some o =>
      match o.lanes.find? fun l => l.lane == lane with
      | none => s
      | some l =>
        let n := (mspec o.instr).size
        let first := !((o.lanes.takeWhile fun y => y != l).any fun y =>
          y.st == .feWait && if clears o.instr then y.pa / 16 == l.pa / 16 else touch y.pa n l.pa n)
        if l.st != .feWait || !isFull s l.pa || !clearOf (earlier f id) o l || !first then s
        else
          match readLane s f o l with
          | (none, s1) => memError s1 fid o l
          | (some ws, s1) =>
            let s2 := if clears o.instr then setFull s1 l.pa false else s1
            modFlight s2 fid fun f => modLane f id lane fun x => { x with data := ws, st := .read }

/-! ### Issue -/

/-- The lanes of an access, each once. -/
def Mop.laneNums (o : Mop) : List Nat := (o.lanes.map (·.lane)).eraseDups

/-- Perform what an issued or replayed access performs at once: its lanes in ascending order, as many as the next burst allows
(log 13), or all lanes of an ordered add, which have been given their places together (11 R271); or waiting lanes whose granules are full. -/
def performNow (s : State) (fid id : Nat) : State :=
  match (flight? s fid).bind fun f => mop? f id with
  | none => s
  | some o =>
    match actOf o.instr with
    | some k =>
      let s1 := { s with burst := none }
      let all : Bool := match o.instr with | .aaddOrd .. => true | _ => false
      (o.laneNums.take (if all then 97 else s.burst.getD 97)).foldl (fun s l => performLane k s fid id l) s1
    | none => o.laneNums.foldl (fun s l => tryFe s fid id l) s

/-- Settle what the fragment of an access waits for. With recording off, lanes that would park end in the non-replayable
page fault (04 R93). -/
def settleMop (s : State) (fid pid n id : Nat) : State :=
  let parked := ((flight? s fid).bind fun f => mop? f id).elim false fun o => !(parkedLanes o).isEmpty
  let s1 := advanceMop s fid id
  if parked && !frEnabled s pid then failPark s1 fid n id else s1

/-- A memory instruction traps (04 R89): an isolation fault is reported to firmware too (04 R77). -/
def memTrap (s : State) (f : Flight) (g : Fragment) (fid code : Nat) (m : Option Lanes) (va : DWord) (pc : DWord) : State :=
  let s1 := if code == 0x0A then send s (.isolation f.pid va) else s
  takeTrap s1 fid g.num { FaultInfo.precise code 0 pc with mask := m, addr := va } f.afMore

/-- The issued access of a memory instruction. -/
def newMop (c : Ctx) (i : Instr) (ks : List (Tgt × Chk)) : Mop :=
  { id := c.st.nextId, instr := i, pc := c.g.pc, seq := c.f.seqNo, frag := c.g.num, level := c.g.level, owned := c.g.owned,
    lanes := ks.map (laneOp c i (mspec i) ks), vhits := [], shits := [],
    late := (memDst i).isSome && lateWatch (core c.st c.f.core).bcn c.f c.g, watch := (core c.st c.f.core).bcn
    once := onceLanes c.g }

/-- An .img access sets ANTISYM_FIXED_NONZERO by one of its lanes (11 R282). -/
def setsAntisym (c : Ctx) (i : Instr) (ls : List Nat) : Bool :=
  (mspec i).img && ls.any fun l =>
    hasPoint c.f l && nonzero i (dataAt c i l) &&
      (let (ext, es) := symOf c.st c.f; antiFixed ext es (pointOf c.f l))

/-- The launch's flag is set. -/
def markAntisym (c : Ctx) (i : Instr) (ls : List Nat) : State :=
  if setsAntisym c i ls then modLaunch c.st (lkey c.f.pid c.f.launch) fun l => { l with antisym := true } else c.st

/-- The access writes: a store or an atomic, which a halt or trap match withholds (20 R425). -/
def writes (i : Instr) : Bool := (mspec i).kind != 0

/-- An access to the spill reservation of a launch of its partition leaves the sums pending there undefined (11 R271). -/
def spoilSums (s : State) (pid : Nat) (i : Instr) (ks : List (Tgt × Chk)) : State :=
  ks.foldl (fun s x => spoilAt s pid x.1.va (mspec i).size) s

/-- Earlier accesses of its lanes keep an access that is performed at once from issuing (13 R291-R295). -/
def mustWait (s : State) (f : Flight) (o : Mop) : Bool :=
  (actOf o.instr).isSome && o.lanes.any fun l =>
    l.st == .todo && (!clearOf f.mops o l || (sendsAt s o l && openFor f (agents o l)))

/-- The instruction has issued: its accesses are outstanding, its page faults recorded, and what it performs at once is
performed. -/
def memStart (c : Ctx) (i : Instr) (ks : List (Tgt × Chk)) (o : Mop) : State :=
  let fid := c.st.cur.1
  let st := { spoilSums (markAntisym c i c.g.em.list) c.f.pid i ks with nextId := c.st.nextId + 1 }
  let s1 := commit { c with st := st, f := { c.f with mops := c.f.mops ++ [o] } }
  let s2 := if frEnabled s1 c.f.pid then recordFaults s1 c.f.pid (mspec i).acc (c.g.level != 0) (faultsOf ks) else s1
  settleMop (performNow s2 fid o.id) fid c.f.pid c.g.num o.id

/-- A memory instruction (04 R89-R91, R102): the limits of its counter, its image map (which an instruction with em zero does not ask for:
log 66), the checks of every address, the room of ordered contributions, the order that an access performed at once must keep, the beacons, and its start. -/
def memIssue (ops : List (Opnd × Nat)) (i : Instr) (pre : Mop → Ctx → Ctx) : State → Ans :=
  issue ops false fun c =>
    let ms := mspec i
    if (mopCounter i).any fun k => Counter.limit k ≤ count c.f c.g.level k then stall c .counter
    else if ms.img && c.g.em != 0 && !mapDeclared c.st c.f (imgMap ms.m) then fault c 0x0C (imgMap ms.m)
    else
      let (ks, f1, s1) := checkAll c.st c.f (c.g.level != 0) ms (allTgts c ms)
      let c1 : Ctx := { c with st := s1, f := f1 }
      match trapOf ks with
      | some (code, m, va) => memTrap (commit c1) c1.f c1.g c.st.cur.1 code (if ms.once then none else some m) va c.g.pc
      | none =>
        let o := newMop c1 i ks
        if !ordRoom s1 c1.f o then fault c 0x17 0
        else if mustWait s1 c1.f o then stall c .order
        else
          match if writes i then withhold { c1 with obs := obsOf o } i else none with
          | some s => s
          | none => memStart (pre o c1) i ks o

/-! ### The instructions -/

/-- LD (04 R101, R102). -/
def execLd (wd : Width) (sc : Scope) (fe : Fe) (nt : Bool) (d : Opnd) (m : MAddr) (s : State) : Ans :=
  memIssue [(d, wd.regs), addrGroup m] (.ld wd sc fe nt d m) (fun _ c => c) s

/-- ST (04 R101, R102, 11 R279-R283). -/
def execSt (wd : Width) (sc : Scope) (sf img nt : Bool) (d : Opnd) (m : MAddr) (s : State) : Ans :=
  memIssue [(d, wd.regs), addrGroup m] (.st wd sc sf img nt d m) (fun _ c => c) s

/-- SLD (04 R101, R102). -/
def execSld (wd : Width) (sc : Scope) (fe : Fe) (nt : Bool) (d : Opnd) (m : MAddr) (s : State) : Ans :=
  memIssue [(d, wd.regs), addrGroup m] (.sld wd sc fe nt d m) (fun _ c => c) s

/-- SST (04 R101, R102). -/
def execSst (wd : Width) (sc : Scope) (sf nt : Bool) (d : Opnd) (m : MAddr) (s : State) : Ans :=
  memIssue [(d, wd.regs), addrGroup m] (.sst wd sc sf nt d m) (fun _ c => c) s

/-- FEST (05 R113, R114). -/
def execFest (sc : Scope) (full : Bool) (m : MAddr) (s : State) : Ans :=
  memIssue [addrGroup m] (.fest sc full m) (fun _ c => c) s

/-- The mask that FEQ writes (05 R115). -/
def feqMask (s : State) (o : Mop) : Lanes := unionLanes ((o.lanes.filter fun l => isFull s l.pa).map fun l => Lanes.one l.lane)

/-- FEQ (05 R113, R115). -/
def execFeq (sc : Scope) (d : Fin 24) (m : MAddr) (s : State) : Ans :=
  memIssue [addrGroup m] (.feq sc d m) (fun o c => putMask c d (feqMask c.st o)) s

/-- One lane of PF (04 R104). -/
def prefetch (nt vec sup : Bool) (s : State) (f : Flight) (l : Nat) (va : DWord) : Flight × State :=
  if !canonical va || va.toNat % 4 != 0 || inWindow va then (f, s)
  else
    match checkGlobal s f.pid f.core sup (lastPage f vec l) .read 4 va with
    | (.ok key raw _, e, s1) =>
      let f1 := setLastPage f vec l e
      (f1, if nt || raw then s1 else (cacheRead s1 f.core false false key 4).2)
    | (_, _, s1) => (f, s1)

/-- PF (04 R104). A base register at or above the allocation raises the register-bound fault of 02 R23, which is no fault of the access
(log 62). -/
def execPf (nt : Bool) (m : MAddr) (s : State) : Ans :=
  issue [addrGroup m] false (fun c =>
    let r := c.g.em.list.foldl (fun (x : Flight × State) l =>
      prefetch nt m.vec (c.g.level != 0) x.2 x.1 l (baseAt c m l + m.off.signExtend 64)) (c.f, c.st)
    retireNext c { c with f := r.1, st := r.2 }) s

/-! ### Events -/

/-- Work of a flight goes on: its gang is not saved and its job not frozen (19 R405, R412). -/
def moving (s : State) (f : Flight) : Bool :=
  !frozen s f.pid && match gangOf s f with | some g => g.state != .saved | none => false

/-- An access of a flight that moves. -/
def movingMop (s : State) (fid op : Nat) : Option (Flight × Mop) :=
  match flight? s fid with
  | some f => if moving s f then (mop? f op).map fun o => (f, o) else none
  | none => none

/-- LOAD_RESULT_WRITE (04 R102, R103): a load's lane reads memory and is written. -/
def execLoadResultWrite (fid op lane : Nat) (s : State) : Ans :=
  match movingMop s fid op with
  | none => .next s
  | some (_, o) =>
    match memDst o.instr, o.lanes.find? fun l => l.lane == lane with
    | some _, some l => .next (landLane s fid o l)
    | _, _ => .next s

/-- STORE_PERFORMED (04 R102, 05 R110, 11 R263, 13 R293): a store's lane, or the next access of an atomic that has not performed all of
its lanes at issue; that of a cancelled launch completes nothing after it (15 R325, 19 R407). -/
def execStorePerformed (fid op lane : Nat) (s : State) : Ans :=
  match (flight? s fid).bind fun f => (mop? f op).map fun o => (f, o) with
  | none => .next s
  | some (f, o) =>
    match o.instr with
    | .st .. => .next (storeLane s fid o lane)
    | .sst .. => .next (storeLane s fid o lane)
    | i =>
      match actOf i, frag? f o.frag with
      | some k, some g =>
        if !moving s f then .next s
        else if g.wait == .perform op then .next (advanceMop (performNext k s fid op) fid op)
        else if g.wait == .gone then .next (finishMop (performNext k s fid op) fid op)
        else .next s
      | _, _ => .next s

/-- FE_WAIT_SATISFIED (05 R111): a waiting lane finds its granule full. A stopped or halted fragment's waits are stopped
(R112). -/
def execFeWaitSatisfied (fid op lane : Nat) (s : State) : Ans :=
  match movingMop s fid op with
  | none => .next s
  | some (f, o) =>
    match frag? f o.frag with
    | some g =>
      if g.halted || g.stopped then .next s
      else
        let s1 := tryFe s fid op lane
        if g.wait == .feWait op then .next (advanceMop s1 fid op) else .next s1
    | none => .next s

/-! ### Replay (04 R90, R92) -/

/-- Lanes of an access that a handler keeps or a replay resumes end in the partial fault with a code: its mask is that of all the lanes
that are not performed (19 R390). -/
def partialFault (s : State) (fid n : Nat) (o : Mop) (code : Nat) (va : DWord) : State :=
  match flight? s fid with
  | none => s
  | some f =>
    let ls := parkedLanes o
    let fi : FaultInfo :=
      { FaultInfo.precise code 0 o.pc with origin := 1, mask := laneMask ls, addr := va, kept := some (.access o.instr ls) }
    let s1 := modFlight s fid fun f => prune s (modMop f o.id fun o =>
      { o with lanes := o.lanes.filter fun l => match l.st with | .parked _ => false | _ => true })
    takeTrap (if code == 0x0A then send s1 (.isolation f.pid va) else s1) fid n fi f.afMore

/-- Replay a parked access: its unfinished lanes are checked again with their kept addresses; those served are performed and
the others park again (04 R90). An access performed at once waits for earlier ones of its lanes. -/
def replayMop (s : State) (fid n id : Nat) : State :=
  match flight? s fid with
  | none => s
  | some f =>
    match mop? f id with
    | none => s
    | some o =>
      let sup := o.level % 10 != 0
      let lanes := unionLanes (o.lanes.map (agents o))
      if (actOf o.instr).isSome && (earlier f id).any fun p => p.lanes.any fun l => l.st.waiting && agents p l &&& lanes != 0 then s
      else
        let (o1, f1, s1, trap, faults) := recheck s f sup o
        match trap with
        | some (code, _, va) => partialFault s1 fid n o code va
        | none =>
          if !ordRoom s1 f1 o1 then partialFault s1 fid n o 0x17 0
          else
            let s2 := modFlight s1 fid fun _ => modMop f1 id fun _ => o1
            let s3 := if frEnabled s2 f.pid then recordFaults s2 f.pid (mspec o.instr).acc sup faults else s2
            settleMop (performNow s3 fid id) fid f.pid n id

/-- Resume accesses that a partial fault kept (19 R402): a new access of the same instruction for the lanes of a mask, with
the data its registers hold now. -/
def resumeKept (c : Ctx) (i : Instr) (ls : List LaneOp) (m : Lanes) : State :=
  let mine := (ls.filter fun l => 96 ≤ l.lane || m.getLsbD l.lane).map fun l =>
    let ws := dataAt c i l.lane
    { l with data := if l.neg then negData i ws else ws, st := .parked 0 }
  let o : Mop := { newMop c i [] with lanes := mine }
  let st := { markAntisym c i (mine.map (·.lane)) with nextId := c.st.nextId + 1 }
  let c1 : Ctx := { c with st := st, f := { c.f with mops := c.f.mops ++ [o] } }
  let c2 := { c1 with g := { c1.g with wait := .park o.id } }
  replayMop (commit c2) c.st.cur.1 c.g.num o.id

end Sys2Proof.Machine
end

