-- ==== Sys2Proof/Machine/Atomics.lean ====
section
/-!
DEFINITION. The atomics (11 R262-R275), each a memory instruction that is performed when it issues.
-/
namespace Sys2Proof.Machine

/-- AADD (11 R265). -/
def execAadd (t : AType) (sc : Scope) (img nt : Bool) (d : Opnd) (m : MAddr) (s : State) : Ans :=
  memIssue [(d, t.regs), addrGroup m] (.aadd t sc img nt d m) (fun _ c => c) s

/-- AAND (11 R265). -/
def execAand (t : AType) (sc : Scope) (img nt : Bool) (d : Opnd) (m : MAddr) (s : State) : Ans :=
  memIssue [(d, t.regs), addrGroup m] (.aand t sc img nt d m) (fun _ c => c) s

/-- AOR (11 R265). -/
def execAor (t : AType) (sc : Scope) (img nt : Bool) (d : Opnd) (m : MAddr) (s : State) : Ans :=
  memIssue [(d, t.regs), addrGroup m] (.aor t sc img nt d m) (fun _ c => c) s

/-- AXOR (11 R265). -/
def execAxor (t : AType) (sc : Scope) (img nt : Bool) (d : Opnd) (m : MAddr) (s : State) : Ans :=
  memIssue [(d, t.regs), addrGroup m] (.axor t sc img nt d m) (fun _ c => c) s

/-- AMIN (11 R265). -/
def execAmin (t : AType) (sc : Scope) (img nt : Bool) (d : Opnd) (m : MAddr) (s : State) : Ans :=
  memIssue [(d, t.regs), addrGroup m] (.amin t sc img nt d m) (fun _ c => c) s

/-- AMAX (11 R265). -/
def execAmax (t : AType) (sc : Scope) (img nt : Bool) (d : Opnd) (m : MAddr) (s : State) : Ans :=
  memIssue [(d, t.regs), addrGroup m] (.amax t sc img nt d m) (fun _ c => c) s

/-- AXCHG (11 R265). -/
def execAxchg (t : AType) (sc : Scope) (img nt : Bool) (d : Opnd) (m : MAddr) (s : State) : Ans :=
  memIssue [(d, t.regs), addrGroup m] (.axchg t sc img nt d m) (fun _ c => c) s

/-- AADD.ord (11 R266-R271). -/
def execAaddOrd (sc : Scope) (img nt : Bool) (d : Opnd) (m : MAddr) (s : State) : Ans :=
  memIssue [(d, 1), addrGroup m] (.aaddOrd sc img nt d m) (fun _ c => c) s

/-- ACAS (11 R265). -/
def execAcas (t : AType) (sc : Scope) (nt : Bool) (d : Opnd) (m : MAddr) (s : State) : Ans :=
  memIssue [(d, 2 * t.regs), addrGroup m] (.acas t sc nt d m) (fun _ c => c) s

/-- AINCB (11 R265). -/
def execAincb (sc : Scope) (nt : Bool) (d : Opnd) (m : MAddr) (s : State) : Ans :=
  memIssue [(d, 1), addrGroup m] (.aincb sc nt d m) (fun _ c => c) s

/-- DEPDEC (11 R274). -/
def execDepdec (sc : Scope) (d : Opnd) (m : MAddr) (s : State) : Ans :=
  memIssue [(d, 1), addrGroup m] (.depdec sc d m) (fun _ c => c) s

/-- ASEAL (11 R269). -/
def execAseal (sc : Scope) (m : MAddr) (s : State) : Ans := memIssue [addrGroup m] (.aseal sc m) (fun _ c => c) s

end Sys2Proof.Machine
end

