-- ==== Sys2Proof/Machine/Control.lean ====
section
/-!
DEFINITION. Control flow (06 R149-R152, R164-R171), the block barriers (R172-R174), register re-division (R175-R177), and the
fences (13 R298, R301).
-/
namespace Sys2Proof.Machine

/-- A branch target (02 R34). -/
def target (c : Ctx) (off : Word) : DWord := c.g.pc + 8 + 8 * off.signExtend 64

/-- A branch packet (20 R437). -/
def branchPacket (c : Ctx) (taken split : Bool) (num : Nat) : Ctx :=
  { c with st := tracePacket c.st c.f c.g 1 ((if taken then 1 else 0) + (if split then 2 else 0) + num * 4) }

/-- A uniform conditional branch (06 R164, R165). -/
def branch (c : Ctx) (taken : Bool) (off : Word) : State :=
  let c1 := branchPacket c taken false 0
  retire c (if taken then goto c1 (target c off) else next c1)

/-- Arm a token with every lane a fragment owns (06 R150). -/
def arm (f : Flight) (k : Nat) (m : Lanes) : Flight := { f with tokens := mset f.tokens k (mgetD f.tokens k 0 ||| m) }

/-- A divergent branch of which the lanes `t` of em take the target (06 R149, R150). -/
def diverge (c : Ctx) (t : Lanes) (tok : Nat) (off : Word) : State :=
  let n := c.g.em &&& ~~~t
  let dest := target c off
  let fall := c.g.pc + 8
  if t == 0 then branch c false off
  else if n == 0 then branch c true off
  else
    let taken := decide (n.count ≤ t.count)
    let (f1, h) := detach (arm c.f tok c.g.owned) c.g (if taken then n else t) (if taken then fall else dest)
    let g1 := (frag? f1 c.g.num).getD c.g
    let c1 := branchPacket c taken true h.num
    retire c (goto { c1 with f := f1, g := g1 } (if taken then dest else fall))

/-- BRA (06 R165). -/
def execBra (off : Word) (s : State) : Ans := issue [] false (fun c => retire c (goto c (target c off))) s

/-- BRC (06 R165). -/
def execBrc (q : Cc) (a : Opnd) (off : Word) (s : State) : Ans :=
  issue [(a, 1)] false (fun c => branch c (aCc q (srcS c a)) off) s

/-- BRV (06 R149, R165). -/
def execBrv (q : Cc) (a : Opnd) (tok : Fin 16) (off : Word) (s : State) : Ans :=
  issue [(a, 1)] false (fun c =>
    diverge c (lanesOf fun l => c.g.em.getLsbD l && aCc q (src32 c a l)) tok.val off) s

/-- BRM.lanes (06 R149, R165). -/
def execBrmLanes (m : Fin 24) (tok : Fin 16) (off : Word) (s : State) : Ans :=
  issue [] false (fun c => diverge c (c.g.em &&& getMask c.f c.g m) tok.val off) s

/-- The condition of a uniform BRM (06 R165). -/
def brmTaken (mode : BrmMode) (em m : Lanes) : Bool :=
  match mode with
  | .all => em &&& ~~~m == 0
  | .any => em &&& m != 0
  | .none => em &&& m == 0

/-- BRM.all, BRM.any and BRM.none (06 R165). -/
def execBrm (mode : BrmMode) (m : Fin 24) (off : Word) (s : State) : Ans :=
  issue [] false (fun c => branch c (brmTaken mode c.g.em (getMask c.f c.g m)) off) s

/-- JOIN (06 R151, R167). -/
def execJoin (tok : Fin 16) (s : State) : Ans :=
  issue [] false (fun c =>
    if c.g.owned &&& mgetD c.f.tokens tok.val 0 == 0 then retireNext c c
    else
      let c1 := settled c
      tryMerge (commit { c1 with g := { c1.g with wait := .join tok.val } }) c.st.cur.1 c.g.num tok.val) s

/-- Scalar register `n` as an operand. -/
def sReg (n : Nat) : Opnd := .s ⟨n % 96, Nat.mod_lt _ (by decide)⟩

/-- CALL (06 R166). -/
def execCall (k : Fin 48) (off : Word) (s : State) : Ans :=
  issue [] false (fun c => retire c (goto (putS2 c (sReg (2 * k.val)) (c.g.pc + 8)) (target c off))) s

/-- RET (06 R166). -/
def execRet (a : Opnd) (s : State) : Ans :=
  issue [(a, 2)] false (fun c =>
    let dest := srcS2 c a
    retire c (goto { c with st := tracePacket c.st c.f c.g 2 dest.toNat } dest)) s

/-! ### Flight control (06 R168-R171) -/

/-- NOP (06 R168). -/
def execNop (s : State) : Ans := issue [] false (fun c => retireNext c c) s

/-- EXIT (06 R152, R168), with the stream check of a flight's end (09 R249). -/
def execExit (s : State) : Ans :=
  issue [] false (fun c =>
    if c.f.exited ||| c.g.em == allLanes && c.f.sq.length != c.f.psets.length then fault c 0x15 0
    else exitPacket (exitLanes (commit (settled (next c))) c.st.cur.1 c.g.num c.g.em) c.st.cur.1 c.f c.g) s

/-- A pre-emption request is pending for the flight's gang (06 R169, 19 R404), and is not held (20 R427). -/
def preemptPending (c : Ctx) : Bool :=
  match gangOf c.st c.f with
  | some g => g.state == .stopping && g.why == 1 && !g.held
  | none => false

/-- YIELD (06 R169): a stopping point for pre-emption, and a stall for 06 R153. -/
def execYield (s : State) : Ans :=
  issue [] false (fun c =>
    let c1 := settled (next c)
    commit { c1 with g := { c1.g with run := 64, stopped := preemptPending c, regionStop := false } }) s

/-- REGN (06 R156). -/
def execRegn (s : State) : Ans := issue [] false (fun c => retireNext c (enterNext c)) s

/-- BRKPT (06 R170): a NOP when the job has breakpoint traps disabled (19 R394). -/
def execBrkpt (a : Opnd) (s : State) : Ans :=
  issue [(a, 1)] false (fun c => if c.f.bp then fault c 0x21 (srcS c a).toNat else retireNext c c) s

/-- The first counter above its limit, by its reason code (06 R171, 20 R441). -/
def overLimit (f : Flight) (level : Nat) (lim : Nat) : Option Nat :=
  if bitsOf lim 15 10 < count f level .ld then some 3
  else if bitsOf lim 9 6 < count f level .sld then some 4
  else if bitsOf lim 5 2 < count f level .sfu then some 5
  else if bitsOf lim 1 0 < count f level .acc then some 6
  else none

/-- WAIT (06 R171). -/
def execWait (limits : BitVec 16) (s : State) : Ans :=
  issue [] false (fun c =>
    match overLimit c.f c.g.level limits.toNat with
    | some code => stall c (.wait code)
    | none => retireNext c c) s

/-! ### Block barriers (06 R172-R174) -/

/-- The count that the flight's first fragment at barrier `n` named. -/
def barNamed (f : Flight) (n : Nat) : Option Nat :=
  (f.frags.find? (atBar n)).bind fun g => match g.wait with | .bar _ c _ _ => some c | _ => none

/-- The fragments of a flight that stand at barrier `n` without an arrival, with the count of the set's next one. -/
def renamed (f : Flight) (n k : Nat) : Flight :=
  { f with
    refused := f.refused.filter (· != n)
    frags := f.frags.map fun g =>
      match g.wait with
      | .bar m _ w false => if m == n then { g with wait := .bar n k w false } else g
      | _ => g }

/-- BARW and BARA. An arrival is a release at block scope: the fragment's accesses are performed first (06 R174). Where the arrival of the
flight's set has been refused, the fragment that issues again names the count anew for all of them (R173). -/
def barrier (waits : Bool) (a b : Opnd) : State → Ans :=
  issue [(a, 1), (b, 1)] false fun c =>
    let n := (srcS c a).toNat
    let k := (srcS c b).toNat
    let again := c.f.refused.contains n
    if 15 < n || 16 < k || (!again && (barNamed c.f n).any (· != k)) then fault c 0x11 0
    else if openFor c.f c.g.owned then stall c .order
    else
      let c1 := settled c
      let f0 := if again then renamed c1.f n k else c1.f
      let f1 := putFrag f0 { c.g with wait := .bar n k waits false }
      let s1 := commit { c1 with f := f0, g := { c1.g with wait := .bar n k waits false } }
      if barSet f1 n then
        match barArrive s1 c.st.cur.1 n with
        | (s2, true) => s2
        | (_, false) => fault { c with f := { c.f with refused := n :: c.f.refused.filter (· != n) } } 0x11 0
      else s1

/-- BARW. -/
def execBarw (a b : Opnd) (s : State) : Ans := barrier true a b s

/-- BARA. -/
def execBara (a b : Opnd) (s : State) : Ans := barrier false a b s

/-! ### Fences (13 R298, R301) -/

/-- FENCE: it waits for its fragment's earlier accesses, and an acquiring kind at gang scope or wider invalidates the load
cache (04 R99). -/
def execFence (kind : FenceKind) (sc : Scope) (s : State) : Ans :=
  issue [] false (fun c =>
    if openFor c.f c.g.owned then stall c .fence
    else if kind != .rel && sc != .flight && sc != .block then retireNext c { c with st := dropCache c.st c.f.core }
    else retireNext c c) s

/-- The flight's results outstanding at any level. -/
def anyCount (f : Flight) (k : Counter) : Bool :=
  (f.mops.any fun o => mopCounter o.instr == some k) || f.pend.any fun p => p.counter == k

/-- OPFENCE: every register write of the flight has been performed, those of instructions issued at any level with them (13 R301). -/
def execOpfence (s : State) : Ans :=
  issue [] false (fun c =>
    if [.ld, .sld, .sfu, .acc].any (anyCount c.f) then stall c .opfence
    else retireNext c { c with f := { c.f with dirty := [] } }) s

/-! ### Register re-division (06 R175-R177) -/

/-- A new allocation that the instructions refuse (06 R175). -/
def badAlloc (n : Nat) : Bool := n % 8 != 0 || n < 8 || 192 < n

/-- The key of a block's pool on a slot. -/
def poolKey (f : Flight) : Nat := f.rank * 4 + f.slot

/-- The granules of the flight's pool. -/
def poolOf (s : State) (f : Flight) : Nat := (gangOf s f).elim 0 fun g => mgetD g.pools (poolKey f) 0

/-- Add granules to a pool. -/
def modPool (s : State) (f : Flight) (k : Nat → Nat) : State :=
  modGang s f.gid fun g => { g with pools := mset g.pools (poolKey f) (k (mgetD g.pools (poolKey f) 0)) }

/-- A contraction still reads registers of the flight (06 R176, 09 R238, R242). -/
def readsRegs (s : State) (f : Flight) (fid : Nat) : Bool :=
  f.asyncR.any (fun a => !a.fin) ||
  s.tiles.any fun t => t.2.insts.any fun i => (i.closed.isNone || i.scope != 0) && i.arrs.any fun a => a.fid == fid

/-- Set the allocation; registers at or above the smaller of the two hold nothing (06 R176). -/
def setVregs (f : Flight) (n : Nat) : Flight := { f with vregs := n, v := f.v.filter fun r => r.1 < min n f.vregs }

/-- REGGIVE (06 R176). -/
def execReggive (a : Opnd) (s : State) : Ans :=
  issue [(a, 1)] false (fun c =>
    let n := (srcS c a).toNat
    if badAlloc n then fault c 0x12 0
    else if c.f.vregs ≤ n then retireNext c c
    else if anyCount c.f .ld || anyCount c.f .sfu || anyCount c.f .acc || readsRegs c.st c.f c.st.cur.1 then stall c .reggive
    else
      retireNext c { c with st := modPool c.st c.f (· + (c.f.vregs - n) / 8), f := setVregs c.f n }) s

/-- The stalled claims of the flight's pool: flight, fragment, allocation and order. -/
def claims (s : State) (gid rank slot : Nat) : List (Nat × Nat × Nat × Nat) :=
  ((s.flights.filter fun x => x.2.gid == gid && x.2.rank == rank && x.2.slot == slot).map fun x =>
    x.2.frags.filterMap fun g => match g.wait with | .claim n o => some (x.1, g.num, n, o) | _ => none).flatten

/-- The pool can serve an allocation: it holds the granules and no earlier claim of it is stalled (06 R176). -/
def canClaim (c : Ctx) (n : Nat) : Bool :=
  (n - c.f.vregs) / 8 ≤ poolOf c.st c.f && (claims c.st c.f.gid c.f.rank c.f.slot).isEmpty

/-- Take the granules of an allocation (06 R176). -/
def takeClaim (c : Ctx) (n : Nat) : Ctx :=
  { c with st := modPool c.st c.f (· - (n - c.f.vregs) / 8), f := setVregs c.f n }

/-- REGCLAIM (06 R176). -/
def execRegclaim (a : Opnd) (s : State) : Ans :=
  issue [(a, 1)] false (fun c =>
    let n := (srcS c a).toNat
    if badAlloc n then fault c 0x12 0
    else if n ≤ c.f.vregs then retireNext c c
    else if canClaim c n then retireNext c (takeClaim c n)
    else
      commit { c with st := { c.st with nextId := c.st.nextId + 1 }, g := { c.g with wait := .claim n c.st.nextId } }) s

/-- REGCLAIM.try (06 R176). -/
def execRegclaimTry (d a : Opnd) (s : State) : Ans :=
  issue [(d, 1), (a, 1)] false (fun c =>
    let n := (srcS c a).toNat
    if badAlloc n then fault c 0x12 0
    else if n ≤ c.f.vregs then retireNext c (putS c d 1)
    else if canClaim c n then retireNext c (putS (takeClaim c n) d 1)
    else retireNext c (putS c d 0)) s

/-- A claim that is neither halted nor stopped for pre-emption (06 R176, 19 R405). -/
def openClaim (s : State) (x : Nat × Nat × Nat × Nat) : Bool :=
  ((flight? s x.1).bind fun f => frag? f x.2.1).elim false fun g => !g.halted && !g.stopped

/-- REGCLAIM_GRANT (06 R176): the first stalled claim of a pool takes its granules and its fragment goes on. Nothing is granted in a
saved gang (R177) or a frozen job (19 R412). -/
def execRegclaimGrant (gid rank slot : Nat) (s : State) : Ans :=
  match leastBy (fun x => x.2.2.2) (claims s gid rank slot) with
  | none => .next s
  | some (fid, num, n, o) =>
    match flight? s fid with
    | none => .next s
    | some f =>
      if poolOf s f < (n - f.vregs) / 8 || !openClaim s (fid, num, n, o) || isSaved s f || frozen s f.pid then .next s
      else
        let s1 := if n ≤ f.vregs then s else
          modFlight (modPool s f (· - (n - f.vregs) / 8)) fid fun f => setVregs f n
        .next (modFrag s1 fid num fun g => { g with wait := .run, pc := g.pc + 8 })

end Sys2Proof.Machine
end

