-- ==== Sys2Proof/Machine/Engine.lean ====
section
/-!
DEFINITION. Accesses that an engine makes on behalf of a command: translation through the engine's own translations (04 R79,
R86, R94), the conditions that stop a command (05 R138) or stall it (R137), full bits (R131), and updates of its object.
-/
namespace Sys2Proof.Machine

/-- What an engine acts for: the engine (none for the Bridle engine), partition, core and level of a command. -/
structure Agent where
  eng  : Option Nat
  pid  : Nat
  core : Nat
  sup  : Bool
  deriving DecidableEq, Repr

/-- The outcome of an engine's access: what it got, or why it stops: a condition's code (05 R138), where a page fault
(code 0x0B) has a kind and an access. -/
inductive Got (α : Type) where
  | got (x : α)
  | stop (code kind : Nat) (a : Acc) (va : DWord)
  deriving DecidableEq, Repr

/-- An engine of a copy engine's key. -/
def engine (s : State) (e : Nat) : Engine := mgetD s.engines e ⟨[], [], []⟩

/-- Change a copy engine. -/
def modEngine (s : State) (e : Nat) (k : Engine → Engine) : State := { s with engines := mset s.engines e (k (engine s e)) }

/-- The translations an engine holds. -/
def unitTlb (s : State) : Option Nat → List TlbEntry
  | some e => (engine s e).tlb
  | none => s.bridTlb

/-- An engine holds one more translation. -/
def holdTlb (s : State) (u : Option Nat) (t : TlbEntry) : State :=
  match u with
  | some e => modEngine s e fun x => { x with tlb := (t :: x.tlb).take Config.coreTlbSize }
  | none => { s with bridTlb := (t :: s.bridTlb).take Config.coreTlbSize }

/-- The translation an engine uses. -/
def engLook (s : State) (g : Agent) (a : Acc) (va : DWord) : Look × State :=
  match held (unitTlb s g.eng) g.pid (vaOf va) g.sup a with
  | some e => (.ok e, s)
  | none =>
    match walk s g.pid (vaOf va) 3 ((part? s g.pid).elim 0 fun p => p.desc.root) with
    | .ok e => if e.allows g.sup a then (.ok e, holdTlb s g.eng e) else (.page 2, s)
    | r => (r, s)

/-- The key of an address an engine accesses, or why the command stops. An access to a spill reservation spoils its sums (11 R271). -/
def engKey (s : State) (g : Agent) (a : Acc) (n : Nat) (va : DWord) : Got Nat × State :=
  if !canonical va then (.stop 0x06 0 a va, s)
  else if inWindow va then
    match windowKey s g.pid g.core va with
    | some k => (.got k, s)
    | none => (.stop 0x08 0 a va, s)
  else
    match engLook s g a va with
    | (.page k, s1) => (.stop 0x0B k a va, s1)
    | (.outside, s1) => (.stop 0x0A 0 a va, s1)
    | (.ok e, s1) =>
      let pa := e.phys (vaOf va)
      if ownsPa s g.pid pa && ownsPa s g.pid (pa + n - 1) then (.got pa, spoilAt s1 g.pid va n) else (.stop 0x0A 0 a va, s1)

/-- Read bytes for a command: a unit with an uncorrectable error stops it. A stretch that crosses a page is read in two
parts. -/
def engRead (s : State) (g : Agent) (va : DWord) (n : Nat) : Got (List Byte) × State :=
  let part (s : State) (va : DWord) (n : Nat) : Got (List Byte) × State :=
    match engKey s g .read n va with
    | (.got k, s1) => (if poisonedIn s1 k n then .stop 0x04 0 .read va else .got (readBytes s1 k n), s1)
    | (.stop c k a v, s1) => (.stop c k a v, s1)
  let room := 65536 - va.toNat % 65536
  if n ≤ room then part s va n
  else
    match part s va room with
    | (.got x, s1) =>
      (match part s1 (va + dw room) (n - room) with
      | (.got y, s2) => (.got (x ++ y), s2)
      | (.stop c k a v, s2) => (.stop c k a v, s2))
    | (.stop c k a v, s1) => (.stop c k a v, s1)

/-- Read several stretches. -/
def engReads (s : State) (g : Agent) : List (DWord × Nat) → Got (List (List Byte)) × State
  | [] => (.got [], s)
  | (va, n) :: r =>
    match engRead s g va n with
    | (.stop c k a v, s1) => (.stop c k a v, s1)
    | (.got b, s1) =>
      match engReads s1 g r with
      | (.stop c k a v, s2) => (.stop c k a v, s2)
      | (.got bs, s2) => (.got (b :: bs), s2)

/-- A stretch that has been read as the source of a write, from the place `off` of its bytes on, cut where it crosses a page. -/
def sources (s : State) (g : Agent) (unit off : Nat) (x : DWord × Nat) : List Source :=
  let part (va : DWord) (n off : Nat) : List Source :=
    match engKey s g .read n va with
    | (.got k, _) => [⟨k, n, off, unit⟩]
    | _ => []
  let room := 65536 - x.1.toNat % 65536
  if x.2 ≤ room then part x.1 x.2 off else part x.1 room off ++ part (x.1 + dw room) (x.2 - room) (off + room)

/-- A write an engine has prepared: key, bytes, address, and the stretches of memory its bytes were made from. -/
structure Put where
  key   : Nat
  bytes : List Byte
  va    : DWord
  src   : List Source
  deriving DecidableEq, Repr

/-- A write with its sources, whose places count from the byte at `dst`. -/
def Put.from (p : Put) (dst : DWord) (ys : List Source) : Put :=
  { p with src := ys.map fun y => { y with off := y.off - (p.va - dst).toNat } }

/-- Prepare a write of a command. One that crosses a page is made in two parts. -/
def engPut (s : State) (g : Agent) (va : DWord) (bs : List Byte) : Got (List Put) × State :=
  let part (s : State) (va : DWord) (bs : List Byte) : Got (List Put) × State :=
    match engKey s g .write bs.length va with
    | (.got k, s1) => (.got [⟨k, bs, va, []⟩], s1)
    | (.stop c k a v, s1) => (.stop c k a v, s1)
  let room := 65536 - va.toNat % 65536
  if bs.length ≤ room then part s va bs
  else
    match part s va (bs.take room) with
    | (.got x, s1) =>
      (match part s1 (va + dw room) (bs.drop room) with
      | (.got y, s2) => (.got (x ++ y), s2)
      | (.stop c k a v, s2) => (.stop c k a v, s2))
    | (.stop c k a v, s1) => (.stop c k a v, s1)

/-- Prepare some writes of a command, up to the first that stops. -/
def engPuts (s : State) (g : Agent) : List (DWord × List Byte) → Got (List Put) × State
  | [] => (.got [], s)
  | (va, bs) :: r =>
    match engPut s g va bs with
    | (.stop x y z v, s1) => (.stop x y z v, s1)
    | (.got p, s1) =>
      match engPuts s1 g r with
      | (.stop x y z v, s2) => (.stop x y z v, s2)
      | (.got ps, s2) => (.got (p ++ ps), s2)

/-- A byte is among some writes. -/
def putsByte (ps : List Put) (a : Nat) : Bool := ps.any fun p => p.key ≤ a && a < p.key + p.bytes.length

/-- The first write that touches a unit with an uncorrectable error which the writes do not cover whole (04 R98). -/
def badPut (s : State) (ps : List Put) : Option Put :=
  if s.poison.isEmpty then none
  else
    let bad := s.poison.filter fun u => !((List.range 32).all fun i => putsByte ps (u * 32 + i))
    ps.find? fun p => bad.any fun u => u * 32 < p.key + p.bytes.length && p.key < u * 32 + 32

/-- Make prepared writes; a unit written whole is repaired (04 R98). -/
def doPuts (s : State) (ps : List Put) : State :=
  let s1 := ps.foldl (fun s p => writeBytes s p.key p.bytes) s
  if s.poison.isEmpty then s1
  else { s1 with poison := s1.poison.filter fun u => !((List.range 32).all fun i => putsByte ps (u * 32 + i)) }

/-! ### What operations touch (05 R132, R133, 17 R372) -/

/-- An operation of a flight has been issued or fired, with the objects that will report it. -/
def openWork (s : State) (id gid fid since : Nat) (objs : List Nat) : State :=
  { s with work := s.work ++ [⟨id, gid, fid, since, objs, none, none, [], []⟩] }

/-- An operation has ended. -/
def endWork (s : State) (id : Nat) : State :=
  { s with
    work := dropOver (s.work.map fun w => if w.id == id then { w with began := some (w.began.getD s.free), ended := some s.free } else w)
    free := s.free + 1 }

/-- An operation has stopped: nothing reports it any more. -/
def cutWork (s : State) (id : Nat) : State := { s with work := dropOver (s.work.filter fun w => w.id != id) }

/-- Another operation runs at the same time as one that began at a draw (05 R133). -/
def Work.beside (w : Work) (id began : Nat) : Bool := w.id != id && w.began.isSome && w.ended.all fun e => began ≤ e

/-- What decides for a granule of 16 bytes which of the operations that write it at the same time it ends with (05 R133): the greater of
two. -/
def granuleOrder (began a : Nat) : Nat := (Config.freeWord ((began + 1) * 2 ^ 60 + a / 16)).toNat * 2 ^ 60 + began

/-- What a write leaves of a byte that an operation running at the same time has written too: the one value or the other, by one choice
for each granule of 16 bytes (05 R133). -/
def oneOf (s : State) (id began : Nat) (p : Put) : Put :=
  let others := s.work.filter fun w => w.beside id began
  { p with bytes := (List.range p.bytes.length).map fun i =>
      let a := p.key + i
      if others.any fun w => (w.wrote.any fun x => x.1 ≤ a && a < x.1 + x.2.1) && granuleOrder began a < granuleOrder (w.began.getD 0) a
      then readByte s a
      else p.bytes.getD i 0 }

/-- The bytes that an operation has made from, or written to, what a program has written since its issue are undefined (05 R132). -/
def loseRaced (w : Work) (s : State) (p : Put) : State := w.hits.foldl (loseHit p.key p.bytes.length p.src) s

/-- Make prepared writes of an operation. -/
def workPuts (s : State) (id : Nat) (ps : List Put) : State :=
  match s.work.find? fun w => w.id == id with
  | none => doPuts s ps
  | some w =>
    let began := w.began.getD s.free
    let s1 := ps.foldl (loseRaced w) (doPuts s (ps.map (oneOf s id began)))
    { s1 with
      work := s1.work.map fun x =>
        if x.id == id then { x with began := some began, wrote := ps.map (fun p => (p.key, p.bytes.length, p.src)) ++ x.wrote } else x
      free := s1.free + 1 }

/-- The address is that of an object an engine may update (05 R118). -/
def objOk (s : State) (pid cr : Nat) (va : DWord) : Bool := match objKey s pid cr va with | .inr _ => true | .inl _ => false

/-- Count bytes into an object at a key (05 R117): the code of a failure. -/
def countBytes (s : State) (o n : Nat) : Option Nat × State :=
  if poisonedIn s o 16 then (some 0x04, s)
  else
    let r := boUpdate s o 0 n 0
    (if r.fails then some 0x0D else none, lateFirings r.state r.late)

/-- Set the fault bit of the object at an address, if there is one (05 R138). -/
def failObj (s : State) (pid cr : Nat) (va : DWord) : State :=
  match objKey s pid cr va with
  | .inr k => if poisonedIn s k 16 then s else boSet s k 2
  | .inl _ => s

end Sys2Proof.Machine
end

