-- ==== Sys2Proof/Machine/BarrierObj.lean ====
section
/-!
DEFINITION. The barrier-object instructions (05 R116-R122). They act once for the issuing fragment.
-/
namespace Sys2Proof.Machine

/-- An earlier access of the fragment keeps it from an object: one that touches its bytes, or an acquire. -/
def objBusy (c : Ctx) (o : Nat) : Bool :=
  c.f.mops.any fun p => p.lanes.any fun l =>
    l.st.waiting && agents p l &&& c.g.owned != 0 && (acquires p.instr || touch l.pa (mspec p.instr).size o 16)

/-- A store, or an atomic, that another fragment or flight has issued and that is not performed touches the object at a key. -/
def storeOpen (s : State) (who : Option (Nat × Nat)) (o : Nat) : Bool :=
  s.flights.any fun x => x.2.mops.any fun p =>
    (mspec p.instr).kind != 0 && who != some (x.1, p.frag) && p.lanes.any fun l => l.st == .todo && touch l.pa (mspec p.instr).size o 16

/-- An update by a fragment, or by no flight, that such a store races with finds undefined counts (05 R119). -/
def racedObj (s : State) (who : Option (Nat × Nat)) (o : Nat) : State := if storeOpen s who o then forget s o (o + 12) else s

/-- An object's instruction reads a unit with an uncorrectable error (04 R97): it has no effect, and its flight takes the
memory-error fault. -/
def objBad (c : Ctx) (va : DWord) : State :=
  asyncFault (retireNext c c) c.st.cur.1 c.f.pid c.f.launch ⟨0x04, 0, c.g.em, va, c.g.pc, c.f.seqNo, none⟩

/-- An instruction on the object at the pair `a` (05 R118, R120): the address's conditions, the accesses it must follow
(all of the fragment's for a release), and its action on the object's key. -/
def objIssue (ops : List (Opnd × Nat)) (a : Opnd) (rel : Bool) (act : Ctx → DWord → Nat → State) : State → Ans :=
  issue (ops ++ [(a, 2)]) false fun c =>
    let va := srcS2 c a
    match objKey c.st c.f.pid c.f.core va with
    | .inl code => faultAt c code 0 va
    | .inr o =>
      if objBusy c o || (rel && openFor c.f c.g.owned) then stall c .order
      else if poisonedIn c.st o 16 then objBad c va
      else act c va o

/-- BOINIT (05 R121). -/
def execBoinit (a b : Opnd) (s : State) : Ans :=
  objIssue [(b, 1)] a false (fun c va o =>
    let n := (srcS c b).toNat
    if n == 0 || 65535 < n then faultAt c 0x0D 0 va
    else
      retireNext c { c with st := writeBytes c.st o (bytesOfNat 8 0 ++ bytesOfNat 2 n ++ bytesOfNat 2 0 ++ bytesOfNat 4 0) }) s

/-- Apply an update of the issuing fragment to an object (05 R117, R118): a failed one sets ovf and faults. `put` writes the
phase as it stood before. Where another fragment or flight stores to the object meanwhile, the counts are undefined (R119). -/
def objUpdate (c : Ctx) (va : DWord) (o eb n : Nat) (put : Ctx → Bool → Ctx) : State :=
  let r := boUpdate (racedObj c.st (some (c.st.cur.1, c.g.num)) o) o eb 0 n
  if r.fails then faultAt { c with st := r.state } 0x0D 0 va
  else lateFirings (retireNext c (put (reload c r.state) r.phase)) r.late

/-- BOEXP (05 R121). -/
def execBoexp (arr : Bool) (_ : Scope) (a b : Opnd) (s : State) : Ans :=
  objIssue [(b, 1)] a arr (fun c va o => objUpdate c va o (srcS c b).toNat (if arr then 1 else 0) fun c _ => c) s

/-- BOARR (05 R121). -/
def execBoarr (lanes : Bool) (_ : Scope) (d : Option Opnd) (a : Opnd) (s : State) : Ans :=
  objIssue (optGroup d) a true (fun c va o =>
    objUpdate c va o 0 (if lanes then c.g.em.count else 1) fun c ph =>
      match d with
      | some d => putS c d (if ph then 1 else 0)
      | none => c) s

/-- BOWAIT (05 R121): it invalidates the load cache (04 R99). -/
def execBowait (bs : Scope) (a b : Opnd) (s : State) : Ans :=
  objIssue [(b, 1)] a false (fun c va o =>
    let p := (srcS c b).getLsbD 0
    if boFault c.st o then faultAt c 0x0E 0 va
    else if boPhase c.st o != p then retireNext c { c with st := dropCache c.st c.f.core }
    else commit { c with g := { c.g with wait := .bowait va o p bs } }) s

/-- BOTRY (05 R121). -/
def execBotry (_ : Scope) (d a b : Opnd) (s : State) : Ans :=
  objIssue [(d, 1), (b, 1)] a false (fun c va o =>
    if boFault c.st o then faultAt c 0x0E 0 va
    else if boPhase c.st o != (srcS c b).getLsbD 0 then
      retireNext c (putS { c with st := dropCache c.st c.f.core } d 1)
    else retireNext c (putS c d 0)) s

/-- BOWAIT_WAKE (05 R121): the waiting fragment finds the phase flipped and goes on, or the object faulted, and issues its
BOWAIT again, which faults. -/
def execBowaitWake (fid n : Nat) (s : State) : Ans :=
  match ctxAt s fid n with
  | none => .next s
  | some c =>
    match c.g.wait with
    | .bowait _ o p _ =>
      if !moving s c.f || c.g.halted || c.g.stopped || (c.f.frags.any fun g => g.num != n && g.level != 0) then .next s
      else if boFault s o || poisonedIn s o 16 then .next (modFrag s fid n fun g => { g with wait := .run })
      else if boPhase s o != p then
        .next (back s (commit (settled (next { c with st := dropCache c.st c.f.core }))))
      else .next s
    | _ => .next s

end Sys2Proof.Machine
end

