-- ==== Sys2Proof/Machine/Copy.lean ====
section
/-!
DEFINITION. The copy commands (05 R123-R142): their checks and capture at issue, armed copies, and the events that move their
units.
-/
namespace Sys2Proof.Machine

/-! ### Parameters (05 R126-R129) -/

/-- The block passes the checks of 05 R126-R129 under a sub-byte mode. -/
def CopyGeo.ok (g : CopyGeo) (stream : Bool) : Bool :=
  let e := 2 ^ g.esz
  g.conv ≤ 5 && g.esz ≤ 6 && ((g.conv == 1) == decide (5 ≤ g.esz)) &&
  (!(g.conv == 2 || g.conv == 3) || g.esz == 2) && (!(g.conv == 4 || g.conv == 5) || g.esz == 1) &&
  (!g.t || g.dsz == 1 || g.dsz == 2 || g.dsz == 4) && g.rowlen ≤ g.p && g.dst.toNat % g.dsz == 0 &&
  (match g.esz with
    | 5 => g.n0 % 2 == 0
    | 6 => g.n0 % 4 == 0 && (stream || (g.n2 == 1 && g.st1.toNat % 2 == 0))
    | _ => g.src.toNat % e == 0 && g.st1.toNat % e == 0 && g.st2.toNat % e == 0)

/-- The gather and scatter block passes the checks of 05 R126, R135; `scatter` tells which pair is the table. -/
def rowsOk (par : List Word) : Bool :=
  (parPair par 0).toNat % 16 == 0 && (parPair par 2).toNat % 16 == 0 && (par.getD 7 0).toNat % 16 == 0 &&
  (parPair par 4).toNat % 4 == 0 && rowChunks par != 0

/-- The parameters of a command pass their checks. -/
def parOk (s : State) (f : Flight) (kind : CopyKind) (par : List Word) : Bool :=
  let stream := (part? s f.pid).elim false fun p => p.desc.stream
  match kind with
  | .cpy => (geoOf par).ok stream
  | .cpyb => (geoOf par).ok stream && inWindow (geoOf par).dst
  | .cpyg => rowsOk par
  | .cpys => rowsOk par
  | .sqfill =>
    (parPair par 0).toNat % 4 == 0 && 1 ≤ (par.getD 2 0).toNat && (par.getD 2 0).toNat ≤ 65535 &&
      (descOf s f).elim false fun d => d.sqDepth != 0
  | .accst => true

/-! ### Issue -/

/-- The rounding mode of FPMODE. -/
def rmOf (w : Word) : Rm :=
  match bitsOf w.toNat 1 0 with
  | 0 => .rne | 1 => .rtz | 2 => .rup | _ => .rdn

/-- The eight words of the block at an operand. -/
def blockAt (c : Ctx) (a : Opnd) : List Word := (List.range 8).map fun k => regWord c a k 0

/-- The command that the issuing fragment gives (05 R124, R125). -/
def newCmd (c : Ctx) (kind : CopyKind) (par : List Word) (obj : DWord) : Cmd :=
  { id := c.st.nextId, kind := kind, gid := c.f.gid, fid := c.st.cur.1, pid := c.f.pid, launch := c.f.launch, rank := c.f.rank,
    pc := c.g.pc, seq := c.f.seqNo, sup := c.g.level != 0, core := c.f.core, par := par, obj := obj, rm := rmOf c.f.fpmode,
    stream := (part? c.st c.f.pid).elim false fun p => p.desc.stream, done := 0, stall := none, firing := none, data := [] }

/-- The command is numbered and its number written (05 R124). -/
def numbered (c : Ctx) (d : Option Opnd) : Ctx :=
  let c1 : Ctx := { c with st := { c.st with nextId := c.st.nextId + 1 }, f := { c.f with seqNo := c.f.seqNo + 1 } }
  match d with
  | some d => putS c1 d c.f.seqNo
  | none => c1

/-- The same slice offset in the slice of every block of a gang (05 R136), as keys with the scratch address's own. -/
def everySlice (s : State) (gid : Nat) (va : DWord) : List Nat :=
  match mget? s.gangs gid with
  | some g => (List.range g.nblock).map fun r => scratchKey (rankCore g.die g.quad r) (va.toNat % 2 ^ 22)
  | none => []

/-- The objects a command counts into, as keys. -/
def cmdObjs (s : State) (c : Cmd) : List Nat :=
  if c.kind == .cpyb then everySlice s c.gid c.obj
  else match objKey s c.pid c.core c.obj with | .inr k => [k] | .inl _ => []

/-- The internal name under which a command was issued; for a firing that of its CPYT. -/
def Cmd.since (c : Cmd) : Nat := c.firing.getD c.id

/-- A command enters an engine's queue (05 R123); from now on its races count (R132). -/
def giveCmd (s : State) (e : Nat) (c : Cmd) : State :=
  modEngine (openWork s c.id c.gid c.fid c.since (cmdObjs s c)) e fun x => { x with cmds := x.cmds ++ [c] }

/-- A copy command with its parameters (05 R126, R134): a failed check faults, with the object's address where only that has failed
(log 70); a full queue stalls. -/
def copyIssue (kind : CopyKind) (d : Option Opnd) (par : Ctx → List Word) (ops : List (Opnd × Nat)) (b : Opnd) : State → Ans :=
  issue (optGroup d ++ (b, 2) :: ops) false fun c =>
    let obj := srcS2 c b
    let e := engineFor c.st c.f.pid c.f.core
    let ps := par c
    if !parOk c.st c.f kind ps then fault c 0x0F 0
    else if !objOk c.st c.f.pid c.f.core obj then faultAt c 0x0F 0 obj
    else if Config.engineQueue ≤ (engine c.st e).queue.length then stall c .engine
    else
      let cmd := newCmd c kind ps obj
      let c1 := numbered c d
      retireNext c { c1 with st := giveCmd c1.st e cmd }

/-- CPY (05 R134, R135). -/
def execCpy (d : Option Opnd) (a b : Opnd) (s : State) : Ans := copyIssue .cpy d (fun c => blockAt c a) [(a, 8)] b s

/-- CPYG (05 R135). -/
def execCpyg (d : Option Opnd) (a b : Opnd) (s : State) : Ans := copyIssue .cpyg d (fun c => blockAt c a) [(a, 8)] b s

/-- CPYS (05 R135). -/
def execCpys (d : Option Opnd) (a b : Opnd) (s : State) : Ans := copyIssue .cpys d (fun c => blockAt c a) [(a, 8)] b s

/-- CPYB (05 R136). -/
def execCpyb (d : Option Opnd) (a b : Opnd) (s : State) : Ans := copyIssue .cpyb d (fun c => blockAt c a) [(a, 8)] b s

/-- SQFILL (05 R142): the block holds the source pair and the count. -/
def execSqfill (d : Option Opnd) (a b o : Opnd) (s : State) : Ans :=
  copyIssue .sqfill d (fun c => [loWord (srcS2 c a), hiWord (srcS2 c a), srcS c b]) [(a, 2), (b, 1)] o s

/-! ### CPYT (05 R140, R141) -/

/-- CPYT (05 R140). -/
def execCpyt (every : Bool) (d : Option Opnd) (a b t : Opnd) (s : State) : Ans :=
  issue (optGroup d ++ [(a, 8), (b, 2), (t, 2)]) false (fun c =>
    let obj := srcS2 c b
    let tva := srcS2 c t
    let e := engineFor c.st c.f.pid c.f.core
    let ps := blockAt c a
    if !parOk c.st c.f .cpy ps then fault c 0x0F 0
    else if !objOk c.st c.f.pid c.f.core obj then faultAt c 0x0F 0 obj
    else
      match objKey c.st c.f.pid c.f.core tva with
      | .inl _ => faultAt c 0x0F 0 tva
      | .inr k =>
        if Config.armSlots ≤ (engine c.st e).arms.length then fault c 0x0F 0
        else
          let arm : Arm :=
            { id := c.st.nextId, cmd := newCmd c .cpy ps obj, trig := k, trigVa := tva, every := every, queued := 0 }
          let c1 := numbered c d
          retireNext c { c1 with st := modEngine c1.st e fun x => { x with arms := x.arms ++ [arm] } }) s

/-- CPYT.cancel: the issuing gang's armings on the trigger go (05 R140). It takes no sequence number, and one whose trigger's address fails
the conditions of R118 does nothing (log 68). -/
def execCpytCancel (t : Opnd) (s : State) : Ans :=
  issue [(t, 2)] false (fun c =>
    match objKey c.st c.f.pid c.f.core (srcS2 c t) with
    | .inl _ => retireNext c c
    | .inr k =>
      retireNext c { c with st := { c.st with engines := mmap c.st.engines fun _ e =>
        { e with arms := e.arms.filter fun a => !(a.trig == k && a.cmd.gid == c.f.gid) } } }) s

/-! ### Running commands -/

/-- A gang's engines of a class work: the gang is not saved, the class has not stopped for it, and no halt holds it (19 R405,
R407, 20 R426). -/
def unitRuns (s : State) (pid gid : Nat) (u : StopUnit) : Bool :=
  !frozen s pid &&
    match mget? s.gangs gid with
    | some g => g.state != .saved && !g.acks.contains u && !g.engStop
    | none => false

/-- Earlier accesses of the issuing flight that the command must see, or must not overtake, are performed (05 R132). -/
def issuerDone (s : State) (c : Cmd) : Bool :=
  match flight? s c.fid with
  | some f => !(f.mops.any fun o => o.id < c.since && o.lanes.any fun l => l.st == .todo)
  | none => true

/-- The command has started, or may. Commands of one flight start in issue order (05 R123); a start moves nothing, so every command of
the queue may have started, and they complete in any order. -/
def startsNow (e : Engine) (c : Cmd) : Bool := e.cmds.any fun x => x.id == c.id

/-- The command of an engine. -/
def cmd? (s : State) (e id : Nat) : Option Cmd := (engine s e).cmds.find? fun c => c.id == id

/-- Change a command. -/
def modCmd (s : State) (e id : Nat) (k : Cmd → Cmd) : State :=
  modEngine s e fun x => { x with cmds := x.cmds.map fun c => if c.id == id then k c else c }

/-- Remove a command. -/
def dropCmd (s : State) (e id : Nat) : State := modEngine s e fun x => { x with cmds := x.cmds.filter fun c => c.id != id }

/-- A command has ended. -/
def endCmd (s : State) (e id : Nat) : State := endWork (dropCmd s e id) id

/-- The agent of a command. -/
def Cmd.agent (c : Cmd) (e : Nat) : Agent := ⟨some e, c.pid, c.core, c.sup⟩

/-- A command stops (05 R138): it goes, its objects fault, and its flight takes the asynchronous fault. -/
def stopCmd (s : State) (e : Nat) (c : Cmd) (code : Nat) (va : DWord) : State :=
  let s1 := (cmdObjs s c).foldl (fun s k => if poisonedIn s k 16 then s else boSet s k 2) (cutWork (dropCmd s e c.id) c.id)
  let s2 := if code == 0x0A then send s1 (.isolation c.pid va) else s1
  asyncFault s2 c.fid c.pid c.launch ⟨if c.kind == .accst then 0x16 else 0x10, code, 0, va, c.pc, c.seq, none⟩

/-- A command meets a condition (05 R137, R138): a page fault is recorded and it waits for a replay, unless recording is off;
anything else stops it. -/
def haltCmd (s : State) (e : Nat) (c : Cmd) (code kind : Nat) (a : Acc) (va : DWord) : State :=
  if code == 0x0B && frEnabled s c.pid then
    recordFaults (modCmd s e c.id fun x => { x with stall := some va }) c.pid a c.sup [(va.toNat, kind)]
  else stopCmd s e c code va

/-- Convert an element (05 R130). -/
def convert (g : CopyGeo) (c : Cmd) (k : Nat) (bs : List (List Byte)) : List Byte :=
  let x := natOfBytes (bs.getD 0 [])
  let m := rmCode2 0 c.rm
  match g.conv with
  | 0 => bs.getD 0 []
  | 1 => bytesOfNat 1 (g.expand c.stream k bs)
  | 2 => bytesOfNat 2 (roundVal f16 m (f32.val x)).1
  | 3 => bytesOfNat 2 (roundVal bf16 m (f32.val x)).1
  | 4 => bytesOfNat 4 (roundVal f32 0 (f16.val x)).1
  | _ => bytesOfNat 4 (roundVal f32 0 (bf16.val x)).1

/-- Elements of a command. -/
def Cmd.total (c : Cmd) : Nat :=
  match c.kind with
  | .cpy => (geoOf c.par).total
  | .cpyb => (geoOf c.par).total
  | .cpyg => rowCount c.par * rowChunks c.par
  | .cpys => rowCount c.par * rowChunks c.par
  | .sqfill => (c.par.getD 2 0).toNat
  | .accst => 1

/-- The write of a broadcast's element: the same offset of every slice, or the scratch address fault of an offset outside
them. -/
def castPuts (s : State) (c : Cmd) (va : DWord) (bs : List Byte) : Got (List Put) :=
  if Config.sliceBytes < va.toNat % 2 ^ 22 + bs.length then .stop 0x08 0 .write va
  else .got ((everySlice s c.gid va).map fun k => ⟨k, bs, va, []⟩)

/-- What element `k` of a command writes: its bytes depend on their own source bytes where it is copied as it is, else on all of them, and
on the index that names its row (05 R132, R135). -/
def element (s : State) (g : Agent) (c : Cmd) (k : Nat) : Got (List Put) × State :=
  let copy (s : State) (list : List Source) (unit : Nat) (src : List (DWord × Nat)) (dst : DWord)
      (conv : List (List Byte) → List Byte) : Got (List Put) × State :=
    match engReads s g src with
    | (.stop x y z v, s1) => (.stop x y z v, s1)
    | (.got bs, s1) =>
      match if c.kind == .cpyb then (castPuts s1 c dst (conv bs), s1) else engPut s1 g dst (conv bs) with
      | (.stop x y z v, s2) => (.stop x y z v, s2)
      | (.got ps, s2) => (.got (ps.map fun p => p.from dst (list ++ (src.map (sources s1 g unit 0)).flatten)), s2)
  let rows (scatter : Bool) : Got (List Put) × State :=
    let j := k / rowChunks c.par
    let q := k % rowChunks c.par
    match engRead s g (listAt c.par j) 4 with
    | (.stop x y z v, s1) => (.stop x y z v, s1)
    | (.got ix, s1) =>
      let x := natOfBytes ix
      let ys := sources s1 g 0 0 (listAt c.par j, 4)
      if scatter then
        copy s1 ys 1 [(denseAt (parPair c.par 0) k, 16)] (tableAt (parPair c.par 2) c.par x q) fun bs => bs.getD 0 []
      else copy s1 ys 1 [(tableAt (parPair c.par 0) c.par x q, 16)] (denseAt (parPair c.par 2) k) fun bs => bs.getD 0 []
  match c.kind with
  | .cpyg => rows false
  | .cpys => rows true
  | _ =>
    let geo := geoOf c.par
    copy s [] (if geo.conv == 0 then 1 else 0) (geo.srcAt c.stream k) (geo.dstAt k) (convert geo c k)

/-- What a run of elements writes, up to the first that stops. -/
def elements (g : Agent) (c : Cmd) : Nat → State → Nat → Got (List Put) × State
  | 0, s, _ => (.got [], s)
  | n + 1, s, k =>
    match element s g c k with
    | (.stop x y z v, s1) => (.stop x y z v, s1)
    | (.got ps, s1) =>
      match elements g c n s1 (k + 1) with
      | (.stop x y z v, s2) => (.stop x y z v, s2)
      | (.got r, s2) => (.got (ps ++ r), s2)

/-- The granule of a write still has bytes of its command to come (05 R131): those of the next element, or, for a scatter,
of a later entry whose row lies there too. -/
def granuleOpen (s : State) (c : Cmd) (upto : Nat) (p : Put) : Bool :=
  match c.kind with
  | .cpyg => false
  | .cpys =>
    let n := rowChunks c.par
    (List.range (rowCount c.par)).any fun j =>
      match engRead s ⟨none, c.pid, c.core, c.sup⟩ (listAt c.par j) 4 with
      | (.got ix, _) =>
        let d := (p.va - tableAt (parPair c.par 2) c.par (natOfBytes ix) 0).toNat
        d % 16 == 0 && d / 16 < n && upto ≤ j * n + d / 16
      | _ => false
  | _ => upto < c.total && ((geoOf c.par).dstAt upto).toNat / 16 == p.va.toNat / 16

/-- The granules of scratch that become full after some writes (05 R131); an element lies in one granule. -/
def fillGranules (s : State) (c : Cmd) (upto : Nat) (ps : List Put) : State :=
  if (c.kind == .cpy || c.kind == .cpyb) && (geoOf c.par).nofe then s
  else ps.foldl (fun s p => if isScratch p.key && !granuleOpen s c upto p then setFull s p.key true else s) s

/-- Count moved bytes into a command's objects; the first failure stops it. -/
def countAll (s : State) (e : Nat) (c : Cmd) (n : Nat) : State × Bool :=
  (cmdObjs s c).foldl (fun (x : State × Bool) o =>
    if x.2 then x
    else
      match countBytes x.1 o n with
      | (none, s1) => (s1, false)
      | (some code, s1) => (stopCmd s1 e c code c.obj, true)) (s, false)

/-- Move the next unit of a copy command: elements of at most 4 KiB of its destination (05 R123, R128). -/
def moveUnit (s : State) (e : Nat) (c : Cmd) : State :=
  let z := stepBytes c.kind c.par
  let n := min (4096 / z) (c.total - c.done)
  match elements (c.agent e) c n s c.done with
  | (.stop code kind a va, s1) => haltCmd s1 e c code kind a va
  | (.got ps, s1) =>
    match badPut s1 ps with
    | some p => haltCmd s1 e c 0x04 0 .write p.va
    | none =>
      let s2 := fillGranules (workPuts s1 c.id ps) c (c.done + n) ps
      let s3 := modCmd s2 e c.id fun x => { x with done := x.done + n }
      match countAll s3 e c (n * z) with
      | (s4, true) => s4
      | (s4, false) => if c.done + n == c.total then endCmd s4 e c.id else s4

/-- COPY_UNIT_DONE (05 R123, R128-R138). -/
def execCopyUnitDone (e id : Nat) (s : State) : Ans :=
  match cmd? s e id with
  | none => .next s
  | some c =>
    if c.kind == .sqfill || c.kind == .accst || c.stall.isSome || !unitRuns s c.pid c.gid .copy || !issuerDone s c ||
        !startsNow (engine s e) c then .next s
    else .next (moveUnit s e c)

/-- CPYT_FIRING (05 R141): a queued firing of an armed copy starts, after the one before it has ended; an arming that fires
once goes. The firing is one of the engine's commands, and enters its queue even where that is full (log 69). -/
def execCpytFiring (e arm : Nat) (s : State) : Ans :=
  match (engine s e).arms.find? fun a => a.id == arm with
  | none => .next s
  | some a =>
    if a.queued == 0 || !unitRuns s a.cmd.pid a.cmd.gid .copy || (engine s e).cmds.any fun c => c.firing == some arm then .next s
    else
      let c := { a.cmd with id := s.nextId, firing := some arm }
      .next (modEngine (giveCmd { s with nextId := s.nextId + 1 } e c) e fun x =>
        { x with
          arms := if a.every then x.arms.map fun b => if b.id == arm then { b with queued := b.queued - 1 } else b
            else x.arms.filter fun b => b.id != arm })

/-- SQFILL_PUSH (05 R142): the next record enters the flight's scale queue, when it has room, and counts 4 bytes. -/
def execSqfillPush (e id : Nat) (s : State) : Ans :=
  match cmd? s e id with
  | none => .next s
  | some c =>
    if c.kind != .sqfill || c.stall.isSome || !unitRuns s c.pid c.gid .copy || !issuerDone s c || !startsNow (engine s e) c then
      .next s
    else
      match flight? s c.fid with
      | none => .next (cutWork (dropCmd s e id) id)
      | some f =>
        if (descOf s f).elim 0 (·.sqDepth) ≤ f.sq.length then .next s
        else
          match engRead s (c.agent e) (parPair c.par 0 + dw (4 * c.done)) 4 with
          | (.stop code kind a va, s1) => .next (haltCmd s1 e c code kind a va)
          | (.got b, s1) =>
            let s2 := modFlight s1 c.fid fun f => { f with sq := f.sq ++ [w32 (natOfBytes b)] }
            let s3 := modCmd s2 e id fun x => { x with done := x.done + 1 }
            match countAll s3 e c 4 with
            | (s4, true) => .next s4
            | (s4, false) => .next (if c.done + 1 == c.total then endCmd s4 e id else s4)

end Sys2Proof.Machine
end

