-- ==== Sys2Proof/Machine/Contraction.lean ====
section
/-!
DEFINITION. The contraction unit's arithmetic and events (09 R230, R236, R240-R248, R252, R256): operands, the order of
instances on a tile, steps, adds, partial sets, folds and completions.
-/
namespace Sys2Proof.Machine

/-! ### Formats (09 R230) -/

/-- Elements of an a-vector and of a b-vector. -/
def vecLens : Ty → Nat × Nat
  | .f32 => (8, 8)
  | .f16 => (16, 16)
  | .bf16 => (16, 16)
  | .dxb8 => (16, 32)
  | _ => (32, 32)

/-- The entry indices of the output region. -/
def region (t : Ty) : List Nat :=
  let (m, n) := vecLens t
  ((List.range m).map fun i => (List.range n).map fun j => 32 * i + j).flatten

/-- Element `k` of a vector in a group of rows, in a lane. -/
def vecElem (t : Ty) (word : Nat → Word) (k : Nat) : Nat :=
  match t with
  | .f32 => (word k).toNat
  | .f16 => (word (k / 2)).toNat / 2 ^ (16 * (k % 2)) % 2 ^ 16
  | .bf16 => (word (k / 2)).toNat / 2 ^ (16 * (k % 2)) % 2 ^ 16
  | _ => (word (k / 4)).toNat / 2 ^ (8 * (k % 4)) % 2 ^ 8

/-- The positions of a group's two stored elements (09 R252). -/
def genPos (seed blane g : Nat) : Nat × Nat :=
  let m := 2 ^ 32
  let h := ((seed * 0x9E37_79B1 % m) ^^^ (blane * 0x85EB_CA77 % m)) ^^^ (g * 0xC2B2_AE3D % m)
  let h := h ^^^ (h / 2 ^ 15)
  [(0, 1), (0, 2), (0, 3), (1, 2), (1, 3), (2, 3)].getD (h / 2 ^ 28 % 6) (0, 1)

/-- Element `i` of a sparse a-vector: none at the positions it leaves empty. -/
def sparseElem (seed blane : Nat) (stored : Nat → Nat) (i : Nat) : Option Nat :=
  let (p, q) := genPos seed blane (i / 4)
  if i % 4 == p then some (stored (2 * (i / 4))) else if i % 4 == q then some (stored (2 * (i / 4) + 1)) else none

/-- Seed of an operand header (09 R232). -/
def hdrSeed (h : Word) : Nat := bitsOf h.toNat 31 12

/-! ### Operands of an instance -/

/-- The block ranks and flight indices an instance's sums run over (09 R241). -/
def instRanks (g : Gang) (i : Inst) : List Nat := if i.scope == 2 then List.range g.nblock else [i.rank]

/-- The flight of a gang with a rank and an index. -/
def flightAt (s : State) (gid rank idx : Nat) : Option (Nat × Flight) :=
  (gangFlights s gid).find? fun x => x.2.rank == rank && x.2.idx == idx

/-- The flight at position `f` of block `r` of an instance: the issuing flight at flight scope. -/
def instFlight (s : State) (gid : Nat) (i : Inst) (r f : Nat) : Option (Nat × Flight) :=
  if i.scope == 0 then (flight? s i.own).map fun x => (i.own, x) else flightAt s gid r f

/-- Flight positions of a block. -/
def instNF (g : Gang) (i : Inst) : Nat := if i.scope == 0 then 1 else g.nflight

/-- Some lane of a flight has arrived at an instance. -/
def Inst.reached (i : Inst) (fid : Nat) : Bool := mgetD i.arrived fid 0 != 0

/-- The steps of an instance in their order (09 R256), each with the index of its flight: every beat of every flight position (R241), of a
block format's instance of those whose flight has arrived (R245). -/
def instPlan (s : State) (gid : Nat) (g : Gang) (i : Inst) : List (Nat × Nat × Nat) :=
  ((instRanks g i).map fun r => ((List.range (instNF g i)).map fun f =>
    if !i.ty.isDxb || (instFlight s gid i r f).any (fun x => i.reached x.1) then (List.range 3).map fun k => (r, f, k) else []).flatten).flatten

/-- The number of steps of an instance. -/
def instSteps (s : State) (gid : Nat) (g : Gang) (i : Inst) : Nat := (instPlan s gid g i).length

/-- The arrival that brings a lane of a flight. -/
def arrOf (i : Inst) (fid l : Nat) : Option Arr := i.arrs.find? fun a => a.fid == fid && a.part.getLsbD l

/-- The value a register supplies in a lane, of those it held since the last OPFENCE before the arrival: the one it holds or one that a
write has replaced (09 R242). `k` tells the draws apart. -/
def oldOrNew (s : State) (n l : Nat) : Nat → Word → List (Lanes × Row) → Word
  | _, w, [] => w
  | k, w, (m, r) :: rest =>
    if !m.getLsbD l || Config.freeBool ((s.free * 65536 + n * 96 + l) * 2 ^ 32 + k) then oldOrNew s n l (k + 1) w rest
    else oldOrNew s n l (k + 1) (rowAt r l) rest

/-- The word an asynchronous operand register supplies in a lane (09 R242): undefined where it was written since the arrival, or where an
earlier arrival whose object has not flipped names it too, and its old value or its new one where it was written without an OPFENCE. -/
def asyncWord (s : State) (f : Flight) (t inst n l : Nat) : Word :=
  match f.asyncR.find? fun a => a.tile == t && a.inst == inst && a.reg == n && a.lanes.getLsbD l with
  | some a =>
    if a.hit.getLsbD l || f.asyncR.any (fun b => b.reg == n && b.lanes.getLsbD l && b.made < a.made) then freeAt s n l
    else oldOrNew s n l 0 (rowAt (mgetD f.v n []) l) a.olds
  | none => rowAt (mgetD f.v n []) l

/-- Word `k` of an operand group of a lane: captured at closure for flight scope (09 R238), read from the registers
otherwise (R239, R242), undefined where a restored record names no registers (log 23). -/
def operandWord (s : State) (t : Nat) (i : Inst) (fid : Nat) (f : Flight) (l : Nat) (isB : Bool) (k : Nat) : Word :=
  match arrOf i fid l with
  | none => freeAt s (k + if isB then 8 else 0) l
  | some a =>
    if i.scope == 0 then rowAt ((if isB then a.bv else a.av).getD k []) l
    else asyncWord s f t i.id ((if isB then a.b else a.a) + k) l

/-- A lane's a-vector and b-vector. -/
def operandVecs (s : State) (t : Nat) (i : Inst) (fid : Nat) (f : Flight) (l : Nat) : List (Option Nat) × List Nat :=
  let (m, n) := vecLens i.ty
  let a := vecElem i.ty (operandWord s t i fid f l false)
  let b := vecElem i.ty (operandWord s t i fid f l true)
  ((List.range m).map fun k => if i.sp then sparseElem (hdrSeed i.header) (f.idx * 96 + l) a k else some (a k),
   (List.range n).map b)

/-- The operands of a beat: for each of its 32 lanes, the vectors of a participating one. -/
def beatVecs (s : State) (t : Nat) (i : Inst) (x : Option (Nat × Flight)) (k : Nat) :
    List (Option (List (Option Nat) × List Nat)) :=
  (List.range 32).map fun n =>
    match x with
    | some (fid, f) =>
      if (mgetD i.part fid 0).getLsbD (32 * k + n) then some (operandVecs s t i fid f (32 * k + n)) else none
    | none => none

/-! ### Sums (09 R241) -/

/-- The exact product of two elements; a NaN for 0 × ∞. -/
def product (t : Ty) (x : Option Nat) (y : Nat) : FVal :=
  match x with
  | none => .fin false 0 0
  | some x => (fProd (fval t x) (fval t y)).getD .nan

/-- Add exact values in pairs, each sum rounded once: the first level of the tree. -/
def pairSums : List FVal → List Word
  | a :: b :: r => w32 (fAdd f32 0 a b).1 :: pairSums r
  | [a] => [w32 (roundVal f32 0 a).1]
  | [] => []

/-- B[k] of one output element. -/
def beatSum (t : Ty) (vs : List (Option (List (Option Nat) × List Nat))) (i j : Nat) : Word :=
  (treeSum (pairSums (vs.map fun v =>
    match v with
    | some (a, b) => product t (a.getD i none) (b.getD j 0)
    | none => .fin false 0 0))).1

/-- Add two f32 words, rne. -/
def plus32 (a b : Word) : Word := (add32 a b).1

/-- One step of a floating-point instance: beat `k` of flight position `f` of block `r`. -/
def floatStep (s : State) (t gid : Nat) (g : Gang) (i : Inst) (r f k : Nat) : Inst :=
  let vs := beatVecs s t i (instFlight s gid i r f) k
  let frun := (region i.ty).foldl (fun m e =>
    let b := beatSum i.ty vs (e / 32) (e % 32)
    mset m e (if k == 0 then b else plus32 (mgetD i.frun e 0) b)) []
  if k < 2 then { i with frun := frun, progress := i.progress + 1 }
  else
    let krun := if f == 0 then frun else (region i.ty).foldl (fun m e => mset m e (plus32 (mgetD i.krun e 0) (mgetD frun e 0))) []
    if f + 1 == instNF g i then
      { i with frun := frun, krun := krun, staged := i.staged ++ [krun], progress := i.progress + 1 }
    else { i with frun := frun, krun := krun, progress := i.progress + 1 }

/-- S of an output element. -/
def stagedSum (i : Inst) (e : Nat) : Word :=
  match i.staged with
  | [] => 0
  | k :: r => r.foldl (fun acc k => plus32 acc (mgetD k e 0)) (mgetD k e 0)

/-- Put an element of a tile. -/
def putElem (tl : Tile) (e : Nat) (w : Word) : Tile := { tl with elems := mput 0 tl.elems e w }

/-- An element of a tile. -/
def Tile.elem (tl : Tile) (e : Nat) : Word := mgetD tl.elems e 0

/-! ### Partial sets (09 R245) -/

/-- The term of a lane: selector pair and value. -/
def psTerm (t : Ty) (a b : Nat) : Nat × Int :=
  let m : Int := (a % 2 ^ dxbW t * (b % 2 ^ dxbW t) : Nat)
  (a / 64 % 2 * 2 + b / 64 % 2, if (a / 128 + b / 128) % 2 == 1 then -m else m)

/-- The terms of one output element. -/
def psTerms (t : Ty) (vs : List (Option (List (Option Nat) × List Nat))) (i j : Nat) : List (Nat × Int) :=
  vs.filterMap fun v =>
    match v with
    | some (a, b) => (a.getD i none).map fun x => psTerm t x (b.getD j 0)
    | none => none

/-- The partial set of one beat of a flight. -/
def partialSet (s : State) (t : Nat) (i : Inst) (r f k : Nat) (x : Nat × Flight) : PSet :=
  let vs := beatVecs s t i (some x) k
  let cells := ((region i.ty).map fun e => (psTerms i.ty vs (e / 32) (e % 32)).map fun c => (4 * e + c.1, c.2)).flatten
  { inst := i.id, tile := t, ty := i.ty, rank := r, f := f, k := k,
    p := cells.foldl (fun m c => mput 0 m c.1 (mgetD m c.1 0 + c.2)) [],
    n := cells.foldl (fun m c => sAdd m c.1) [] }

/-- The folds an instance of a block format will have, in order, with the indices of their flights: one for each step. -/
def instFolds (s : State) (gid : Nat) (g : Gang) (i : Inst) : List (Nat × Nat × Nat) :=
  (instPlan s gid g i).map fun x => (x.1, (instFlight s gid i x.1 x.2.1).elim x.2.1 fun y => y.2.idx, x.2.2)

/-- One step of a block-format instance: it deposits the beat's partial set in its flight's list. -/
def blockStep (s : State) (t gid : Nat) (g : Gang) (i : Inst) (r f k : Nat) : State :=
  let s1 := if i.progress == 0 then
      modTile { s with nextId := s.nextId + 1 } t fun tl =>
        { tl with deps := tl.deps ++ [⟨i.id, i.ty, s.nextId, instFolds s gid g i⟩] }
    else s
  let s2 := match instFlight s gid i r f with
    | some (fid, x) => modFlight s1 fid fun y => { y with psets := y.psets ++ [partialSet s t i r x.idx k (fid, x)] }
    | none => s1
  modTile s2 t fun tl => { tl with insts := tl.insts.map fun j => if j.id == i.id then { j with progress := j.progress + 1 } else j }

/-! ### The order of instances (09 R240) -/

/-- The place of a flight's first arrival at an instance. -/
def firstArr (i : Inst) (fid : Nat) : Option Nat := (leastBy (·.ord) (i.arrs.filter fun a => a.fid == fid)).map (·.ord)

/-- Some flight arrived at `i` before it arrived at `j`. -/
def directly (i j : Inst) : Bool :=
  i.id != j.id && i.arrs.any fun a =>
    match firstArr i a.fid, firstArr j a.fid with
    | some x, some y => x < y
    | _, _ => false

/-- `i` is to be added before `j` through the flights' orders. -/
def before (is : List Inst) : Nat → Inst → Inst → Bool
  | 0, i, j => directly i j
  | n + 1, i, j => directly i j || is.any fun k => directly i k && before is n k j

/-- The instance that is added first: of those that no flight orders after another, the one that closed first; open ones come last. -/
def firstToAdd (is : List Inst) : Option Inst :=
  leastBy (fun (i : Inst) => i.closed.getD (2 ^ 64 + i.id)) (is.filter fun i => is.all fun j => !before is 3 j i)

/-- A closed instance may be added next. -/
def mayAdd (is : List Inst) (i : Inst) : Bool := i.closed.isSome && (firstToAdd is).any fun j => j.id == i.id

/-- The instances of a tile in the order of R240: closed ones in the order of closure, open ones last, as arrivals order
them. -/
def instOrder : Nat → List Inst → List Inst
  | 0, _ => []
  | n + 1, is =>
    match firstToAdd is with
    | some i => i :: instOrder n (is.filter fun j => j.id != i.id)
    | none => []

/-- The block-format instances of one tile deposit in the order of its adds; those of different tiles in any order (log 22). -/
def depositsNext (tl : Tile) (i : Inst) : Bool := !(tl.insts.any fun j => j.closed.isSome && j.ty.isDxb && directly j i)

/-! ### Folds (09 R247, R248) -/

/-- t of one output element. -/
def foldTerm (p : PSet) (scale : Word) (e : Nat) : Word :=
  let byte (k : Nat) : Nat := scale.toNat / 2 ^ (8 * k) % 256
  let u (x y : Nat) : Word :=
    let c := 4 * e + 2 * x + y
    if !p.n.contains c then 0
    else if byte x == 255 || byte (2 + y) == 255 then w32 f32.nan
    else w32 (roundVal f32 0 (ofInt (mgetD p.p c 0) ((byte x : Int) + byte (2 + y) - 254))).1
  plus32 (plus32 (plus32 (u 0 0) (u 0 1)) (u 1 0)) (u 1 1)

/-- The released fold that may be applied next on a tile: the first to come of its oldest deposit. -/
def nextFold (tl : Tile) : Option (Dep × Fold) :=
  match leastBy (·.order) tl.deps with
  | none => none
  | some d =>
    match d.todo with
    | [] => none
    | (r, f, k) :: _ =>
      (tl.folds.find? fun x => x.ps.inst == d.inst && x.ps.rank == r && x.ps.f == f && x.ps.k == k).map fun x => (d, x)

/-- Apply a fold to its tile. -/
def applyFold (tl : Tile) (d : Dep) (x : Fold) : Tile :=
  let t1 := (region x.ps.ty).foldl (fun tl e => putElem tl e (plus32 (tl.elem e) (foldTerm x.ps x.scale e))) tl
  { t1 with
    folds := t1.folds.filter (· != x)
    deps := (t1.deps.map fun y => if y.inst == d.inst then { y with todo := y.todo.drop 1 } else y).filter fun y => !y.todo.isEmpty }

/-- Apply the released folds of a tile that may be applied, up to a number. -/
def applyFolds : Nat → Tile → Tile
  | 0, tl => tl
  | n + 1, tl =>
    match nextFold tl with
    | some (d, x) => applyFolds n (applyFold tl d x)
    | none => tl

/-! ### Adds and completions (09 R241, R243, R244) -/

/-- Add a finished instance's sum to its tile, or leave the region of one whose tile was used meanwhile undefined (09
R243). -/
def addSum (s : State) (tl : Tile) (i : Inst) : Tile :=
  let t1 := if i.ty.isDxb then tl
    else (region i.ty).foldl (fun tl e => putElem tl e (plus32 (tl.elem e) (stagedSum i e))) tl
  if i.undef then (region i.ty).foldl (fun tl e => putElem tl e (Config.freeWord (s.free * 65536 + e))) t1 else t1

/-- Apply one arrival to the completion object of an LCONA's arrival (09 R244). -/
def completeArr (s : State) (a : Arr) : State :=
  match flight? s a.fid with
  | none => s
  | some f =>
    let fail (s : State) (code : Nat) : State := asyncFault s a.fid f.pid f.launch ⟨0x16, code, 0, a.obj, a.pc, a.seq, none⟩
    match objKey s f.pid f.core a.obj with
    | .inl code => fail s code
    | .inr k =>
      if poisonedIn s k 16 then fail s 0x04
      else
        let r := boUpdate s k 0 0 1
        if r.fails then fail (boSet r.state k 2) 0x0D else lateFirings r.state r.late

/-- The order in which an instance's completions are applied: rank, flight, fragment. -/
def arrKey (s : State) (a : Arr) : Nat :=
  match flight? s a.fid with
  | some f => (f.rank * 16 + f.idx) * 128 + a.frag
  | none => a.frag

/-- The tile at a key. -/
def tileAt (s : State) (t : Nat) : Tile := mgetD s.tiles t Tile.reset

/-- The released folds that may be applied to a tile have been (09 R243: the flight's SCACCs precede). -/
def settleFolds (s : State) (t : Nat) : State :=
  if (tileAt s t).folds.isEmpty then s else modTile s t fun tl => applyFolds tl.folds.length tl

/-- The output regions of the asynchronous instances of a tile (09 R243). -/
def asyncRegion (tl : Tile) (e : Nat) : Bool := tl.insts.any fun i => i.scope != 0 && (region i.ty).contains e

/-- The element an instruction reads: undefined in the region of an asynchronous instance (09 R243). -/
def readElem (s : State) (tl : Tile) (e : Nat) : Word :=
  if asyncRegion tl e then Config.freeWord (s.free * 65536 + e) else tl.elem e

/-- Every element of a tile as an instruction reads it. -/
def readTile (s : State) (tl : Tile) : Cells Word := (List.range 1024).foldl (fun m e => mput 0 m e (readElem s tl e)) []

/-- Eight elements for each lane from its entry on. -/
def readRows (s : State) (tl : Tile) (es : List (Nat × Nat)) : List Row :=
  (List.range 8).map fun m => (List.range 96).map fun l => (mget? es l).elim 0 fun e => readElem s tl (e + m)

/-- The effect of an instruction on a tile. -/
def tileAct (s : State) (t : Nat) : TileAct → State
  | .zero => modTile s t fun tl => { tl with elems := [] }
  | .put ws => modTile s t fun tl => ws.foldl (fun tl w => putElem tl w.1 w.2) tl
  | .fold x => modTile s t fun tl => { tl with folds := tl.folds ++ [x] }
  | .read fid id es =>
    modFlight s fid fun f =>
      { f with pend := f.pend.map fun p => if p.id == id then { p with rows := readRows s (tileAt s t) es, held := false } else p }
  | .capture e id => modCmd s e id fun c => { c with data := readTile s (tileAt s t) }

/-- The effects on a tile that no instance keeps back any more take place, in their order (09 R243). -/
def runTodo (s : State) (t : Nat) : State :=
  (tileAt s t).todo.foldl (fun s o =>
    if o.after.any fun n => (tileAt s t).insts.any fun i => i.id == n then s
    else modTile (tileAct { settleFolds s t with free := s.free + 1 } t o.act) t fun tl => { tl with todo := tl.todo.erase o }) s

/-- An instance ends: its sum is added, it goes, the effects that waited for it take place, its operands have been read, and its
completions are applied. -/
def endInst (s : State) (t : Nat) (i : Inst) : State :=
  let s1 := modTile s t fun tl => let t1 := addSum s tl i; { t1 with insts := t1.insts.filter fun j => j.id != i.id }
  let s2 := { s1 with
    free := s1.free + 1
    flights := mmap s1.flights fun _ f =>
      { f with asyncR := f.asyncR.map fun a => if a.tile == t && a.inst == i.id then { a with fin := true } else a } }
  let s3 := if (tileAt s2 t).todo.isEmpty then s2 else runTodo s2 t
  if i.scope == 0 then s3 else (sortBy (arrKey s3) i.arrs).foldl completeArr s3

/-- Advance a closed instance of a tile: one step, or its end (09 R256). -/
def contractionStep (s : State) (t gid : Nat) (g : Gang) (tl : Tile) (i : Inst) : State :=
  match (instPlan s gid g i)[i.progress]? with
  | some (r, f, k) =>
    let s0 := { s with free := s.free + 1 }
    if i.ty.isDxb then (if mayAdd tl.insts i && depositsNext tl i then blockStep s0 t gid g i r f k else s)
    else modTile s0 t fun tl => { tl with insts := tl.insts.map fun j => if j.id == i.id then floatStep s t gid g i r f k else j }
  | none => if mayAdd tl.insts i then endInst s t i else s

/-- CONTRACTION_STEP (09 R241, R245, R256). -/
def execContractionStep (t id : Nat) (s : State) : Ans :=
  match mget? s.tiles t with
  | none => .next s
  | some tl =>
    match tl.owner, tl.insts.find? fun i => i.id == id with
    | some (gid, _), some i =>
      (match mget? s.gangs gid with
      | some g =>
        if i.closed.isSome && unitRuns s g.pid gid .contraction then .next (contractionStep s t gid g tl i) else .next s
      | none => .next s)
    | _, _ => .next s

/-- FOLD_APPLY (09 R248). -/
def execFoldApply (t : Nat) (s : State) : Ans :=
  match mget? s.tiles t with
  | none => .next s
  | some tl =>
    match tl.owner.bind fun o => mget? s.gangs o.1, tl.owner with
    | some g, some (gid, _) =>
      if unitRuns s g.pid gid .contraction then .next (modTile s t fun tl => applyFolds 1 tl) else .next s
    | _, _ => .next s

end Sys2Proof.Machine
end

