-- ==== Sys2Proof/Machine/Tiles.lean ====
section
/-!
DEFINITION. The instructions of the contraction unit (09 R226-R255): tiles and handles, arrivals, the scale queue, reads,
writes and stores of tiles.
-/
namespace Sys2Proof.Machine

/-! ### Handles (09 R227) -/

/-- The tile that a handle names, if it is live for the issuing flight. -/
def liveTile (c : Ctx) (o : Opnd) : Option Nat :=
  let h := (srcS c o).toNat
  match gangOf c.st c.f with
  | none => none
  | some g =>
    let rank := bitsOf h 25 24
    let t := rankCore g.die g.quad rank * 128 + h % 128
    let tl := mgetD c.st.tiles t Tile.reset
    if bitOf h 31 && bitsOf h 30 26 == 0 && bitsOf h 23 16 == 0 && !bitOf h 7 && rank < g.nblock &&
        (tl.owner.map (·.1)) == some c.f.gid && tl.gen == bitsOf h 15 8 then some t
    else none

/-- An instance of flight scope of the flight holds an instruction that names its tile back (09 R238): a computing one, and, for one that
cannot go on before its effect on the tile (R257), an open one too (R243). -/
def heldBy (tl : Tile) (fid : Nat) (all : Bool) : Bool :=
  tl.insts.any fun i => i.scope == 0 && i.own == fid && (all || i.closed.isSome)

/-- The open instances of flight scope of a flight, after whose adds its tile instructions take effect (09 R243). -/
def openOwn (tl : Tile) (fid : Nat) : List Nat :=
  (tl.insts.filter fun i => i.scope == 0 && i.own == fid && i.closed.isNone).map (·.id)

/-- A tile instruction makes the regions of asynchronous instances undefined (09 R243). -/
def spoil (s : State) (t : Nat) : State :=
  if (tileAt s t).insts.isEmpty then s
  else modTile s t fun tl => { tl with insts := tl.insts.map fun i => if i.scope != 0 then { i with undef := true } else i }

/-- A flight's instruction that is not an arrival acts on a tile, now or after the adds of its flight's open instances (09 R243). -/
def actOn (s : State) (t fid : Nat) (a : TileAct) : State :=
  match openOwn (tileAt s t) fid with
  | [] => tileAct (spoil s t) t a
  | is => modTile (spoil s t) t fun tl => { tl with todo := tl.todo ++ [⟨is, a⟩] }

/-- The flight's stream check fails (09 R249). -/
def streamBad (f : Flight) : Bool := f.sq.length != f.psets.length

/-- The issue of an instruction that names a tile: its handle is live, and no instance holds it back. -/
def tileIssue (ops : List (Opnd × Nat)) (acc : Opnd) (act : Ctx → Nat → State) : State → Ans :=
  issue ((acc, 1) :: ops) false fun c =>
    match liveTile c acc with
    | none => fault c 0x13 0
    | some t => if heldBy (tileAt c.st t) c.st.cur.1 false then stall c .tile else act { c with st := settleFolds c.st t } t

/-! ### ACCGET, ACCPUT, ACCZ (09 R228, R229) -/

/-- The tile an allocation by a block takes. -/
def freeTile (s : State) (f : Flight) (reserve : Nat) : Option Nat :=
  let mine := (f.gid, f.rank)
  let ts := (List.range 128).map fun n => f.core * 128 + n
  let heldN := (ts.filter fun t => (tileAt s t).owner == some mine).length
  if heldN < reserve then ts.find? fun t => (tileAt s t).owner.isNone && (tileAt s t).aside == some mine
  else ts.find? fun t => (tileAt s t).owner.isNone && (tileAt s t).aside.isNone

/-- ACCGET (09 R229). -/
def execAccget (d : Opnd) (s : State) : Ans :=
  issue [(d, 1)] false (fun c =>
    match freeTile c.st c.f ((gangOf c.st c.f).elim 0 (·.tiles)) with
    | none => retireNext c (putS c d 0)
    | some t =>
      let gen := ((tileAt c.st t).gen + 1) % 256
      let s1 := modTile c.st t fun tl =>
        { Tile.reset with gen := gen, owner := some (c.f.gid, c.f.rank), aside := tl.aside }
      retireNext c (putS { c with st := s1 } d (w32 (2 ^ 31 + c.f.rank * 2 ^ 24 + gen * 256 + t % 128)))) s

/-- Free a tile. -/
def freeIt (s : State) (t : Nat) : State :=
  modTile s t fun tl => { Tile.reset with gen := tl.gen, aside := tl.aside }

/-- ACCPUT (09 R229). -/
def execAccput (acc : Opnd) (s : State) : Ans :=
  tileIssue [] acc (fun c t =>
    if streamBad c.f then fault c 0x15 0
    else if !(tileAt c.st t).insts.isEmpty || !(tilePsets c.st t).isEmpty then fault c 0x14 0
    else retireNext c { c with st := freeIt c.st t }) s

/-- ACCZ (09 R229). -/
def execAccz (acc : Opnd) (s : State) : Ans :=
  tileIssue [] acc (fun c t => retireNext c { c with st := actOn c.st t c.st.cur.1 .zero }) s

/-! ### Arrivals (09 R231-R237) -/

/-- The open instance an arrival joins (09 R234). -/
def openInst (tl : Tile) (f : Flight) (fid scope tag : Nat) : Option Inst :=
  tl.insts.find? fun i => i.closed.isNone && i.scope == scope && i.tag == tag &&
    match scope with
    | 0 => i.own == fid
    | 1 => i.rank == f.rank
    | _ => true

/-- The lanes an instance expects when it opens: those of its scope that have not exited (09 R236). -/
def expectedLanes (s : State) (f : Flight) (fid scope : Nat) : Cells Lanes :=
  let fs := (gangFlights s f.gid).filter fun x =>
    match scope with
    | 0 => x.1 == fid
    | 1 => x.2.rank == f.rank
    | _ => true
  fs.map fun x => (x.1, ~~~x.2.exited)

/-- Partial sets that a flight holds or will get, with those of the instance it arrives at (09 R235). -/
def psetLoad (s : State) (f : Flight) (fid : Nat) (cur : Option Nat) : Nat :=
  f.psets.length + 3 +
    3 * ((s.tiles.map fun t => (t.2.insts.filter fun i => some i.id != cur && i.arrs.any fun a => a.fid == fid).length).sum)

/-- Another instance of the tile at which the flight has arrived would come both before and after this one (09 R240). -/
def orderBreaks (tl : Tile) (fid : Nat) (i : Inst) : Bool :=
  (firstArr i fid).isNone &&
    tl.insts.any fun j => j.id != i.id && (firstArr j fid).isSome && before tl.insts 3 i j

/-- Registers of an LCONA arrival, issued when the next internal name was `made`, are read while its instance computes (09 R242). A
register written since the last OPFENCE may still supply a value from before the write. -/
def readAsync (f : Flight) (t inst : Nat) (regs : List Nat) (m : Lanes) (obj made : Nat) : Flight :=
  { f with asyncR := f.asyncR ++ regs.map fun n => ⟨t, inst, n, m, 0, mgetD f.dirty n [], obj, false, made⟩ }

/-- An arrival (09 R233-R237). `obj` is the completion object of an LCONA with its key. -/
def arrive (c : Ctx) (t : Nat) (ty : Ty) (sp : Bool) (scope : Nat) (hdr : Word) (a b : Opnd) (obj : Option (DWord × Nat)) : State :=
  let fid := c.st.cur.1
  let tl := tileAt c.st t
  let cur := openInst tl c.f fid scope (bitsOf hdr.toNat 7 0)
  let bad := match cur with
    | some i =>
      i.ty != ty || i.header.toNat / 256 != hdr.toNat / 256 || mgetD i.arrived fid 0 &&& c.g.owned != 0 || orderBreaks tl fid i
    | none => false
  if bad || (ty.isDxb && 6 < psetLoad c.st c.f fid (cur.map (·.id))) then fault c 0x14 0
  else if cur.isNone && 4 ≤ tl.insts.length then stall c .fifth
  else
    let s0 := { c.st with nextId := c.st.nextId + 2 }
    let i := cur.getD
      { id := c.st.nextId, scope := scope, own := fid, rank := c.f.rank, tag := bitsOf hdr.toNat 7 0, header := hdr, ty := ty,
        sp := sp, expected := expectedLanes c.st c.f fid scope, arrived := [], part := [], arrs := [], closed := none,
        progress := 0, frun := [], krun := [], staged := [], undef := false }
    let arr : Arr :=
      { fid := fid, frag := c.g.num, part := c.g.em, a := a.idx, b := b.idx, obj := obj.elim 0 (·.1), pc := c.g.pc,
        seq := c.f.seqNo, av := [], bv := [], ord := c.st.nextId + 1 }
    let i1 : Inst :=
      { i with
        arrived := mset i.arrived fid (mgetD i.arrived fid 0 ||| c.g.owned)
        part := mset i.part fid (mgetD i.part fid 0 ||| c.g.em)
        arrs := i.arrs ++ [arr] }
    let s1 := modTile s0 t fun tl => { tl with insts := (tl.insts.filter fun j => j.id != i.id) ++ [i1] }
    match obj with
    | some (_, k) =>
      let regs := (List.range (aRegs ty sp)).map (a.idx + ·) ++ (List.range 8).map (b.idx + ·)
      let f1 := readAsync { c.f with seqNo := c.f.seqNo + 1 } t i.id regs c.g.em k c.st.nextId
      let s2 := retireNext c (enterNext { c with st := s1, f := f1 })
      if i1.full then closeInst s2 t i.id else s2
    | none =>
      let c1 := settled { c with st := s1 }
      let s2 := commit { c1 with g := { c1.g with wait := .lcon t i.id } }
      if i1.full then closeInst s2 t i.id else s2

/-- The header agrees with the qualifier (09 R232). -/
def hdrOk (sp : Bool) (h : Word) : Bool := bitsOf h.toNat 11 8 == if sp then 1 else 0

/-- LCON (09 R231-R237). -/
def execLcon (ty : Ty) (sp : Bool) (acc a b x : Opnd) (s : State) : Ans :=
  tileIssue [(a, aRegs ty sp), (b, 8), (x, 1)] acc (fun c t =>
    let h := srcS c x
    if !hdrOk sp h then fault c 0x14 0 else arrive c t ty sp 0 h a b none) s

/-- LCONA (09 R231-R237, R242). -/
def execLcona (ty : Ty) (gang sp : Bool) (acc a b x : Opnd) (s : State) : Ans :=
  tileIssue [(a, aRegs ty sp), (b, 8), (x, 4)] acc (fun c t =>
    let h := srcS c x
    let va := srcS2 c (opAdd x 2)
    if !hdrOk sp h || srcS c (opAdd x 1) != 0 then fault c 0x14 0
    else
      match objKey c.st c.f.pid c.f.core va with
      | .inl _ => faultAt c 0x14 0 va
      | .inr k => arrive c t ty sp (if gang then 2 else 1) h a b (some (va, k))) s

/-! ### The scale queue (09 R246-R251) -/

/-- An SQFILL of the flight is still pushing. -/
def filling (s : State) (fid : Nat) : Bool := s.engines.any fun e => e.2.cmds.any fun c => c.kind == .sqfill && c.fid == fid

/-- The flight's records and unfolded partial sets disagree with an SCACC (09 R247). -/
def psetOk (f : Flight) (t : Nat) (ty : Ty) : Bool :=
  match f.psets with
  | p :: _ => p.tile == t && p.ty == ty
  | [] => false

/-- SCACC (09 R247). -/
def execScacc (ty : Ty) (acc : Opnd) (s : State) : Ans :=
  tileIssue [] acc (fun c t =>
    if !psetOk c.f t ty then fault c 0x15 0
    else
      match c.f.psets, c.f.sq with
      | p :: ps, r :: rs =>
        retireNext c { c with
          st := actOn c.st t c.st.cur.1 (.fold ⟨p, r⟩), f := { c.f with psets := ps, sq := rs } }
      | _, _ => if filling c.st c.st.cur.1 then stall c .record else fault c 0x15 0) s

/-- SQPUSH (09 R250). -/
def execSqpush (a : Opnd) (s : State) : Ans :=
  issue [(a, 1)] false (fun c =>
    let depth := (descOf c.st c.f).elim 0 (·.sqDepth)
    if depth == 0 then fault c 0x15 0
    else if depth ≤ c.f.sq.length then stall c .sq
    else retireNext c { c with f := { c.f with sq := c.f.sq ++ [srcS c a] } }) s

/-- SQCNT (09 R251). -/
def execSqcnt (d : Opnd) (s : State) : Ans :=
  issue [(d, 1)] false (fun c => retireNext c (putS c d (w32 (c.f.sq.length + c.f.psets.length * 65536)))) s

/-! ### Reading, writing and storing tiles (09 R253-R255) -/

/-- Some active lane names no entry group (09 R253). -/
def badEntry (c : Ctx) (b : Opnd) : Bool :=
  c.g.em.list.any fun l => let e := (src32 c b l).toNat; e % 8 != 0 || 1016 < e

/-- ACCRD (09 R253). -/
def execAccrd (d acc b : Opnd) (s : State) : Ans :=
  tileIssue [(d, 8), (b, 1)] acc (fun c t =>
    if Counter.limit .acc ≤ count c.f c.g.level .acc then stall c .counter
    else if streamBad c.f then fault c 0x15 0
    else if badEntry c b then fault c 0x14 0
    else
      let tl := tileAt c.st t
      let es := c.g.em.list.map fun l => (l, (src32 c b l).toNat)
      match openOwn tl c.st.cur.1 with
      | [] => retireNext c (pendResult { c with st := spoil c.st t } true d (readRows c.st tl es) [])
      | _ =>
        let c1 := pendResult { c with st := actOn c.st t c.st.cur.1 (.read c.st.cur.1 c.st.nextId es) } true d (List.replicate 8 []) []
        retireNext c { c1 with f := { c1.f with pend := c1.f.pend.map fun p => if p.id == c.st.nextId then { p with held := true } else p } }) s

/-- ACCRD_RESULT_WRITE (09 R253, 06 R155). -/
def execAccrdResultWrite (fid id : Nat) (s : State) : Ans :=
  match flight? s fid with
  | none => .next s
  | some f =>
    match f.pend.find? fun p => p.id == id && p.acc with
    | some p => if pendReady f p && !frozen s f.pid then .next (landPend s fid p) else .next s
    | none => .next s

/-- The elements that the active lanes write, their groups in ascending order (09 R253). -/
def entryWords (c : Ctx) (a b : Opnd) : List (Nat × Word) :=
  (c.g.em.list.map fun l => (List.range 8).map fun m => ((src32 c b l).toNat + m, regWord c a m l)).flatten

/-- ACCWR (09 R253). -/
def execAccwr (acc a b : Opnd) (s : State) : Ans :=
  tileIssue [(a, 8), (b, 1)] acc (fun c t =>
    if badEntry c b then fault c 0x14 0
    else retireNext c { c with st := actOn c.st t c.st.cur.1 (.put (entryWords c a b)) }) s

/-- The parameters of an ACCST pass the checks of 09 R255. -/
def storeOk (par : List Word) : Bool :=
  let w := (par.getD 5 0).toNat
  let z := if w % 4 == 0 then 4 else 2
  w < 8 && w % 4 != 3 && par.getD 6 0 == 0 && par.getD 7 0 == 0 && (parPair par 0).toNat % z == 0 && (par.getD 2 0).toNat % z == 0

/-- ACCST (09 R254, R255): it captures the tile, at its place in the tile's order (R243), numbers its command and goes on. -/
def execAccst (acc a b : Opnd) (s : State) : Ans :=
  tileIssue [(a, 8), (b, 2)] acc (fun c t =>
    let par := blockAt c a
    let obj := srcS2 c b
    if streamBad c.f then fault c 0x15 0
    else if !storeOk par then fault c 0x14 0
    else if !objOk c.st c.f.pid c.f.core obj then faultAt c 0x14 0 obj
    else
      let tl := tileAt c.st t
      let e := engineFor c.st c.f.pid c.f.core
      match openOwn tl c.st.cur.1 with
      | [] =>
        let c1 := numbered { c with st := spoil c.st t } none
        retireNext c { c1 with st := giveCmd c1.st e { newCmd c .accst par obj with data := readTile c.st tl } }
      | _ =>
        let c1 := numbered { c with st := actOn c.st t c.st.cur.1 (.capture e c.st.nextId) } none
        retireNext c { c1 with st := giveCmd c1.st e (newCmd c .accst par obj) }) s

/-- A command's tile is still to be captured (09 R243). -/
def capturing (s : State) (e id : Nat) : Bool := s.tiles.any fun t => t.2.todo.any fun o => o.act == .capture e id

/-- One element of an ACCST converted (09 R255). -/
def storeElem (conv : Nat) (w : Word) : List Byte :=
  match conv with
  | 1 => bytesOfNat 2 (roundVal f16 0 (f32.val w.toNat)).1
  | 2 => bytesOfNat 2 (roundVal bf16 0 (f32.val w.toNat)).1
  | _ => bytesOfNat 4 w.toNat

/-- The writes of an ACCST: address and bytes of each selected element. -/
def storeWrites (c : Cmd) : List (DWord × List Byte) :=
  let conv := parBits c.par 5 1 0
  let z := if conv == 0 then 4 else 2
  ((List.range 32).map fun i =>
    if (c.par.getD 3 0).getLsbD i then
      (List.range 32).filterMap fun j =>
        if (c.par.getD 4 0).getLsbD j then
          some (parPair c.par 0 + dw (i * (c.par.getD 2 0).toNat) + dw (j * z), storeElem conv (mgetD c.data (32 * i + j) 0))
        else none
    else []).flatten

/-- ACCST_STORE_DONE (09 R255): the selected elements are written and counted. -/
def execAccstStoreDone (e id : Nat) (s : State) : Ans :=
  match cmd? s e id with
  | none => .next s
  | some c =>
    if c.kind != .accst || c.stall.isSome || capturing s e id || !unitRuns s c.pid c.gid .copy || !issuerDone s c then .next s
    else
      let ws := storeWrites c
      match engPuts s (c.agent e) ws with
      | (.stop code kind a va, s1) => .next (haltCmd s1 e c code kind a va)
      | (.got ps, s1) =>
        match badPut s1 ps with
        | some p => .next (haltCmd s1 e c 0x04 0 .write p.va)
        | none =>
          let s2 := workPuts s1 id ps
          let s3 := if bitOf (c.par.getD 5 0).toNat 2 then s2
            else ps.foldl (fun s p => if isScratch p.key then setFull s p.key true else s) s2
          match countAll s3 e c ((ws.map fun w => w.2.length).sum) with
          | (s4, true) => .next s4
          | (s4, false) => .next (endCmd s4 e id)

end Sys2Proof.Machine
end

