-- ==== Sys2Proof/Machine/TileSave.lean ====
section
/-!
DEFINITION. ACCSV and ACCLD (09 R257, R258): the save record of a tile, written and read back. The same checks serve every
instruction that reads or writes a block of memory at once for its fragment (15 R326).
-/
namespace Sys2Proof.Machine

/-! ### Blocks of memory (04 R89, R90) -/

/-- What a check of a block of memory asks for. -/
def blockSpec (align : Nat) (a : Acc) : MSpec := ⟨1, align, a, 0, false, false, true, false, .system, false, ⟨false, 0, 0⟩⟩

/-- Cut a block into stretches that lie in one page each. -/
def pieces : Nat → DWord → Nat → List (DWord × Nat)
  | 0, _, _ => []
  | k + 1, va, n =>
    let room := 65536 - va.toNat % 65536
    if n ≤ room then [(va, n)] else (va, room) :: pieces k (va + dw room) (n - room)

/-- Check a block, which may spoil the sums of a spill reservation (11 R271): the alignment of its address, then each
stretch; the keys, or the first outcome that fails. -/
def checkBlock (c : Ctx) (align : Nat) (a : Acc) (va : DWord) (n : Nat) :
    List (Nat × Nat) × Option (Chk × DWord) × Ctx :=
  (pieces (n / 65536 + 2) va n).foldl (fun (acc : List (Nat × Nat) × Option (Chk × DWord) × Ctx) p =>
    match acc with
    | (ks, some x, c) => (ks, some x, c)
    | (ks, none, c) =>
      let sup := c.g.level != 0
      match checkOne c.st c.f.pid c.f.core sup c.f.slpr { blockSpec align a with size := p.2, align := if p.1 == va then align else 1 } p.1 with
      | (.ok k _ _, e, s1) => (ks ++ [(k, p.2)], none, { c with st := spoilAt s1 c.f.pid p.1 p.2, f := { c.f with slpr := e } })
      | (x, _, s1) => (ks, some (x, p.1), { c with st := s1 })) ([], none, c)

/-- The page fault of an instruction that cannot park, or whose park a fail command has ended: a partial fault that keeps the
address (04 R92, R93, 19 R388). -/
def packetFault (c : Ctx) (va : DWord) (k : Nat) : State :=
  trapNow c { FaultInfo.precise 0x0B k c.g.pc with origin := 1, addr := va, kept := some (.packet va) }

/-- A block access meets a condition (04 R89-R93): a trap, or a page fault that parks the fragment at its instruction, which
issues again at a replay; with recording off the page fault is taken. -/
def blockFails (c : Ctx) (x : Chk) (va : DWord) (a : Acc) : State :=
  match x with
  | .page k =>
    if frEnabled c.st c.f.pid then
      recordFaults (commit { c with g := { c.g with wait := .packet va k } }) c.f.pid a (c.g.level != 0) [(va.toNat, k)]
    else packetFault c va k
  | .trap _ code => memTrap (commit c) c.f c.g c.st.cur.1 code none va c.g.pc
  | .ok _ _ _ => commit c

/-- The bytes of checked stretches. -/
def readPieces (s : State) (ks : List (Nat × Nat)) : List Byte := (ks.map fun k => readBytes s k.1 k.2).flatten

/-- A unit with an uncorrectable error that checked stretches cover in part only (04 R98). -/
def badPiece (s : State) (ks : List (Nat × Nat)) : Bool :=
  s.poison.any fun u => ks.any (fun k => u * 32 < k.1 + k.2 && k.1 < u * 32 + 32) && !(ks.any fun k => k.1 ≤ u * 32 && u * 32 + 32 ≤ k.1 + k.2)

/-- Write bytes over checked stretches, for a flight on a core: they update the lines they hit, and a unit written whole is repaired (04 R98, R99). -/
def writePieces (s : State) (fid c : Nat) : List (Nat × Nat) → List Byte → State
  | [], _ => s
  | (k, n) :: r, bs =>
    let s1 := noteWrite (writeBytes s k (bs.take n)) (some (fid, s.nextId)) k n
    let s2 := { s1 with poison := s1.poison.filter fun u => !(k ≤ u * 32 && u * 32 + 32 ≤ k + n) }
    writePieces (if isScratch k then s2 else storeLines s2 c k (bs.take n)) fid c r (bs.drop n)

/-! ### The record (09 R258) -/

/-- The code of a contraction format. -/
def tyCode : Ty → Nat
  | .f32 => 4 | .f16 => 0xC | .bf16 => 0xD | .dxb8 => 8 | .dxb6 => 9 | _ => 0xA

/-- The format of a code. -/
def codeTy : Nat → Option Ty
  | 4 => some .f32 | 0xC => some .f16 | 0xD => some .bf16 | 8 => some .dxb8 | 9 => some .dxb6 | 0xA => some .dxb4 | _ => none

/-- The 1,024 words of an element map. -/
def elemBytes (m : Cells Word) : List Byte := ((List.range 1024).map fun e => bytesOfNat 4 (mgetD m e 0).toNat).flatten

/-- An instance entry. -/
def instBytes (s : State) (gid : Nat) (i : Inst) : List Byte :=
  let own := (flight? s i.own).elim 0 (·.idx)
  let key := i.tag + i.scope * 256 + (if i.scope == 0 then own * 1024 else 0) + (if i.scope == 2 then 0 else i.rank * 16384)
  let masks := ((List.range 64).map fun p =>
    match flightAt s gid (p / 16) (p % 16) with
    | some (fid, _) => bytesOfNat 12 (mgetD i.arrived fid 0).toNat ++ bytesOfNat 4 (mgetD i.part fid 0).count
    | none => bytesOfNat 16 0).flatten
  bytesOfNat 4 key ++ bytesOfNat 4 i.header.toNat ++ bytesOfNat 1 (tyCode i.ty) ++
    bytesOfNat 1 (if i.closed.isSome then 1 else 0) ++
    bytesOfNat 1 (2 ^ i.staged.length - 1 + if i.sp then 16 else 0) ++ bytesOfNat 5 0 ++ bytesOfNat 4 i.progress ++
    bytesOfNat 44 0 ++ masks ++ elemBytes i.frun ++ elemBytes i.krun ++
    ((List.range 4).map fun r => elemBytes (i.staged.getD r [])).flatten

/-- A partial-set entry. -/
def psetBytes (p : PSet) : List Byte :=
  bytesOfNat 16 (p.f + p.rank * 256 + p.k * 1024 + tyCode p.ty * 4096) ++
    ((List.range 4096).map fun c => bytesOfNat 4 ((mgetD p.p c 0) % 2 ^ 32).toNat).flatten ++
    ((List.range 512).map fun b => bytesOfNat 1 ((List.range 8).foldl (fun acc k => acc + if p.n.contains (8 * b + k) then 2 ^ k else 0) 0)).flatten

/-- The save record of a tile. -/
def tileRecord (s : State) (handle : Word) (t gid : Nat) : List Byte :=
  let tl := tileAt s t
  let is := instOrder 4 tl.insts
  let ps := tilePsets s t
  bytesOfNat 4 handle.toNat ++ bytesOfNat 2 1 ++ bytesOfNat 1 is.length ++ bytesOfNat 2 ps.length ++ bytesOfNat 7 0 ++
    bytesOfNat 4 (0x1040 + is.length * 0x6440 + ps.length * 0x4210) ++ bytesOfNat 44 0 ++ elemBytes tl.elems ++
    (is.map (instBytes s gid)).flatten ++ (ps.map psetBytes).flatten

/-- ACCSV (09 R257): it takes its place in the tile's order (R243), and the fragment goes on when every byte is visible, so it first
waits for its earlier accesses. -/
def execAccsv (acc a : Opnd) (s : State) : Ans :=
  issue [(acc, 1), (a, 2)] true (fun c =>
    match liveTile c acc with
    | none => fault c 0x13 0
    | some t =>
      if heldBy (tileAt c.st t) c.st.cur.1 true then stall c .tile else
      let va := srcS2 c a
      let c0 : Ctx := { c with st := settleFolds c.st t }
      let rec' := tileRecord c0.st (srcS c acc) t c.f.gid
      match checkBlock c0 256 .write va rec'.length with
      | (_, some (x, v), c1) => blockFails c1 x v .write
      | (ks, none, c1) =>
        if openFor c.f c.g.owned then stall c .order
        else if badPiece c1.st ks then objBad c1 va
        else retireNext c { c1 with st := spoil (writePieces c1.st c.st.cur.1 c.f.core ks rec') t }) s

/-- The words of a stretch of a record as an element map. -/
def elemsOf (bs : List Byte) (o : Nat) : Cells Word :=
  (List.range 1024).foldl (fun m e => mput 0 m e (w32 (fieldOf bs (o + 4 * e) 4))) []

/-- The instance of a tile that an entry restores: one with the entry's key, else one whose operand registers and completion
objects the record does not name (log 23). -/
def restoreInst (s : State) (gid : Nat) (tl : Tile) (bs : List Byte) (id : Nat) : Option Inst :=
  let key := fieldOf bs 0 4
  match codeTy (fieldOf bs 8 1) with
  | none => none
  | some ty =>
    let scope := bitsOf key 9 8
    let rank := bitsOf key 15 14
    let own := ((flightAt s gid rank (bitsOf key 13 10)).elim 0 (·.1))
    let old := tl.insts.find? fun i =>
      i.scope == scope && i.tag == key % 256 && i.ty == ty && (scope != 0 || i.own == own) && (scope == 2 || i.rank == rank) &&
        i.closed.isSome == (fieldOf bs 9 1 == 1)
    let at' (p : Nat) : Option (Nat × Lanes × Nat) :=
      (flightAt s gid (p / 16) (p % 16)).map fun x =>
        (x.1, BitVec.ofNat 96 (fieldOf bs (0x40 + 16 * p) 12), fieldOf bs (0x40 + 16 * p + 12) 4)
    let masks := (List.range 64).filterMap at'
    let arrived := (masks.filter fun x => x.2.1 != 0).map fun x => (x.1, x.2.1)
    let guess := (masks.filter fun x => x.2.1 != 0).map fun (x : Nat × Lanes × Nat) =>
      (x.1, if x.2.2 == x.2.1.count then x.2.1
        else x.2.1 &&& maskOfWords (freeAt s 0 x.1) (freeAt s 1 x.1) (freeAt s 2 x.1))
    let new : Inst :=
      { id := id, scope := scope, own := own, rank := rank, tag := key % 256, header := w32 (fieldOf bs 4 4), ty := ty,
        sp := bitOf (fieldOf bs 10 1) 4, expected := [], arrived := [], part := guess, arrs := [], closed := none, progress := 0,
        frun := [], krun := [], staged := [], undef := false }
    let b := old.getD new
    some
      { b with
        header := w32 (fieldOf bs 4 4)
        sp := bitOf (fieldOf bs 10 1) 4
        arrived := arrived
        expected := if old.isSome then b.expected else
          ((gangFlights s gid).filter fun x =>
            if scope == 0 then x.1 == own else scope == 2 || x.2.rank == rank).map fun x => (x.1, ~~~x.2.exited)
        closed := if fieldOf bs 9 1 == 1 then some (b.closed.getD id) else none
        progress := fieldOf bs 16 4
        frun := elemsOf bs 0x440
        krun := elemsOf bs 0x1440
        staged := ((List.range 4).filter fun r => bitOf (fieldOf bs 10 1) r).map fun r => elemsOf bs (0x2440 + 4096 * r) }

/-- A partial set of a record, for the deposit `inst`. -/
def restorePset (bs : List Byte) (t inst : Nat) : Option PSet :=
  let h := fieldOf bs 0 16
  (codeTy (bitsOf h 15 12)).map fun ty =>
    { inst := inst, tile := t, ty := ty, rank := bitsOf h 9 8, f := h % 256, k := bitsOf h 11 10,
      p := (List.range 4096).foldl (fun m c => mput 0 m c (w32 (fieldOf bs (16 + 4 * c) 4)).toInt) [],
      n := (List.range 4096).filter fun c => bitOf (fieldOf bs (0x4010 + c / 8) 1) (c % 8) }

/-- The record agrees with its own counts and holds zero where it must (09 R257). -/
def recordOk (bs : List Byte) (n p : Nat) : Bool :=
  fieldOf bs 4 2 == 1 && n ≤ 4 && fieldOf bs 8 1 < 256 && zerosAt bs 9 7 && zerosAt bs 0x14 44 &&
  fieldOf bs 16 4 == 0x1040 + n * 0x6440 + p * 0x4210 &&
  (List.range n).all (fun k =>
    let e := bs.drop (0x1040 + k * 0x6440)
    fieldOf e 2 2 == 0 && bitsOf (fieldOf e 0 2) 9 8 ≤ 2 && fieldOf e 9 1 ≤ 1 && fieldOf e 10 1 < 32 && zerosAt e 11 5 &&
      zerosAt e 20 44 && (codeTy (fieldOf e 8 1)).isSome) &&
  (List.range p).all fun k =>
    let e := bs.drop (0x1040 + n * 0x6440 + k * 0x4210)
    zerosAt e 2 14 && (codeTy (bitsOf (fieldOf e 0 16) 15 12)).any Ty.isDxb

/-- Beats of a flight of a block that an instance has deposited. -/
def beatsDone (s : State) (gid : Nat) (g : Gang) (i : Inst) (rank f : Nat) : Nat :=
  min 3 (i.progress - (instFolds s gid g i).idxOf (rank, f, 0))

/-- Partial sets of a flight after one in a list of some, those of one beat or of every beat. -/
def laterSets (ps : List PSet) (k : Nat) (all : Bool) : Nat :=
  match ps[k]? with
  | some p => ((ps.drop (k + 1)).filter fun q => q.rank == p.rank && q.f == p.f && (all || q.k == p.k)).length
  | none => 0

/-- The deposit that a record's partial set belongs to (log 23): the instance that has deposited part of its beats, to which the last
sets of each flight belong, or else one of those before it, counted from the last. -/
def psetOwner (s : State) (gid : Nat) (g : Gang) (cur : Option Inst) (base : Nat) (ps : List PSet) (k : Nat) : Nat :=
  match ps[k]? with
  | none => base
  | some p =>
    let done := cur.elim 0 fun i => beatsDone s gid g i p.rank p.f
    if laterSets ps k true < done then cur.elim base (·.id)
    else base + 7 - min 7 (laterSets ps k false - if p.k < done then 1 else 0)

/-- Replace a tile's contents by a record's (09 R257). An instance that was depositing goes on, and its folds are those of the sets it has
left and of the beats to come. -/
def restoreTile (s : State) (t gid : Nat) (g : Gang) (bs : List Byte) (n p : Nat) : State :=
  let tl := tileAt s t
  let is := (List.range n).filterMap fun k => restoreInst s gid tl ((bs.drop (0x1040 + k * 0x6440)).take 0x6440) (s.nextId + k)
  let raw := (List.range p).filterMap fun k => restorePset ((bs.drop (0x1040 + n * 0x6440 + k * 0x4210)).take 0x4210) t 0
  let base := s.nextId + 8
  let cur := is.find? fun i => i.ty.isDxb && i.closed.isSome && i.progress != 0
  let ps := (List.range raw.length).filterMap fun k => raw[k]?.map fun q => { q with inst := psetOwner s gid g cur base raw k }
  let places (id : Nat) : List (Nat × Nat × Nat) :=
    (sortBy (fun (q : PSet) => (q.rank * 256 + q.f) * 4 + q.k) (ps.filter fun q => q.inst == id)).map fun q => (q.rank, q.f, q.k)
  let older := (List.range 8).filterMap fun r =>
    (ps.find? fun q => q.inst == base + r).map fun q => ({ inst := base + r, ty := q.ty, order := base + r, todo := places (base + r) } : Dep)
  let now := cur.toList.map fun i =>
    ({ inst := i.id, ty := i.ty, order := base + 8
       todo := (instFolds s gid g i).filter fun x => (places i.id).contains x || beatsDone s gid g i x.1 x.2.1 ≤ x.2.2 } : Dep)
  let s1 := modTile { s with nextId := base + 16, free := s.free + 1 } t fun tl =>
    { tl with elems := elemsOf bs 0x40, insts := is, deps := (older ++ now).filter fun d => !d.todo.isEmpty, folds := [] }
  { s1 with flights := mmap s1.flights fun _ f =>
      if f.gid == gid then
        { f with psets := (f.psets.filter fun q => q.tile != t) ++ ps.filter fun q => q.rank == f.rank && q.f == f.idx }
      else f }

/-- ACCLD (09 R257). -/
def execAccld (acc a : Opnd) (s : State) : Ans :=
  issue [(acc, 1), (a, 2)] true (fun c =>
    match liveTile c acc with
    | none => fault c 0x13 0
    | some t =>
      if heldBy (tileAt c.st t) c.st.cur.1 true then stall c .tile else
      let va := srcS2 c a
      match checkBlock c 256 .read va 64 with
      | (_, some (x, v), c1) => blockFails c1 x v .read
      | (k0, none, c1) =>
        let head := readPieces c1.st k0
        let n := fieldOf head 6 1
        let p := fieldOf head 7 2
        let size := 0x1040 + n * 0x6440 + p * 0x4210
        if openFor c.f c.g.owned then stall c .order
        else if n > 4 || 384 < p then fault c1 0x14 0
        else
          match checkBlock c1 256 .read va size with
          | (_, some (x, v), c2) => blockFails c2 x v .read
          | (ks, none, c2) =>
            if ks.any fun k => poisonedIn c2.st k.1 k.2 then objBad c2 va
            else
              let bs := readPieces c2.st ks
              if recordOk bs n p then
                match gangOf c2.st c.f with
                | some g => retireNext c (reload c2 (restoreTile (commit c2) t c.f.gid g bs n p))
                | none => retireNext c c2
              else fault c2 0x14 0) s

end Sys2Proof.Machine
end

