-- ==== Sys2Proof/Machine/Launches.lean ====
section
/-!
DEFINITION. Launches (15 R309-R325): the front end's reads and writes, kernel descriptors (03 R71), acceptance and refusal,
the index space and its points, the end of a launch, spawn trees, graphs, phases, and cancels.
-/
namespace Sys2Proof.Machine

/-! ### The front end's accesses -/

/-- The key of an address that the front end or a tender core accesses for a partition: none where translation or isolation
fails. -/
def feKey (s : State) (pid : Nat) (a : Acc) (va : DWord) (n : Nat) : Option Nat :=
  if !canonical va || inWindow va then none
  else
    match walk s pid (vaOf va) 3 ((part? s pid).elim 0 fun p => p.desc.root) with
    | .ok e =>
      let pa := e.phys (vaOf va)
      if e.allows true a && ownsPa s pid pa && ownsPa s pid (pa + n - 1) then some pa else none
    | .page _ => none
    | .outside => none

/-- The access of the front end or a tender core meets the isolation fault (04 R77, 22 R447, R449). -/
def feOutside (s : State) (pid : Nat) (a : Acc) (va : DWord) (n : Nat) : Bool :=
  canonical va && !inWindow va &&
    match walk s pid (vaOf va) 3 ((part? s pid).elim 0 fun p => p.desc.root) with
    | .ok e =>
      let pa := e.phys (vaOf va)
      e.allows true a && !(ownsPa s pid pa && ownsPa s pid (pa + n - 1))
    | .page _ => false
    | .outside => true

/-- An isolation fault that such an access met is reported to firmware (04 R77). -/
def feTell (s : State) (pid : Nat) (a : Acc) (va : DWord) (n : Nat) : State :=
  if feOutside s pid a va n then send s (.isolation pid va) else s

/-- Read bytes as the front end does: none where the access fails or meets a memory error. -/
def feRead (s : State) (pid : Nat) (va : DWord) (n : Nat) : Option (List Byte) :=
  (feKey s pid .read va n).bind fun k => if poisonedIn s k n then none else some (readBytes s k n)

/-- Write bytes as the front end does; an access that fails writes nothing, and an isolation fault is reported. -/
def feWrite (s : State) (pid : Nat) (va : DWord) (bs : List Byte) : State :=
  match feKey s pid .write va bs.length with
  | some k => if poisonedIn s k bs.length then s else writeBytes s k bs
  | none => feTell s pid .write va bs.length

/-! ### Kernel descriptors (03 R71) -/

/-- A generator's encoding (03 R64). -/
def parseGen (x : Nat) : Gen := ⟨bitsOf x 15 13, bitsOf x 12 11, bitsOf x 10 9, bitsOf x 8 1, bitOf x 0⟩

/-- What a descriptor's bytes say. -/
def parseDesc (b : List Byte) : Desc :=
  { entry := dw (fieldOf b 0 8), resident := bitOf (fieldOf b 0x0E 2) 0, sym := bitOf (fieldOf b 0x0E 2) 1,
    nflight := fieldOf b 0x10 1, nblock := fieldOf b 0x11 1, vregs := fieldOf b 0x12 2, sregs := fieldOf b 0x14 1,
    tiles := fieldOf b 0x15 1, sqDepth := fieldOf b 0x16 1,
    roles := (List.range 16).map fun k => fieldOf b (0x28 + k) 1,
    scratch := fieldOf b 0x18 4, spill := fieldOf b 0x20 8,
    gens := (List.range (fieldOf b 0x3E 1)).map fun k => parseGen (fieldOf b (0x38 + 2 * k) 2),
    maps := fieldOf b 0x3F 1, strides := (List.range 12).map fun k => w32 (fieldOf b (0x40 + 4 * k) 4) }

/-- A descriptor's bytes keep the limits of 03 R71. -/
def descOk (b : List Byte) : Bool :=
  let d := parseDesc b
  fieldOf b 0x0C 2 == 1 && fieldOf b 0x0E 2 < 4 && 1 ≤ d.nflight && d.nflight ≤ 16 && 1 ≤ d.nblock && d.nblock ≤ 4 &&
  8 ≤ d.vregs && d.vregs ≤ 192 && d.vregs % 8 == 0 && 1 ≤ d.sregs && d.sregs ≤ 96 && d.tiles ≤ 128 && d.sqDepth ≤ 16 &&
  1 ≤ fieldOf b 0x17 1 && fieldOf b 0x17 1 ≤ 16 && zerosAt b 0x1C 4 && zerosAt b (0x28 + d.nflight) (16 - d.nflight) &&
  fieldOf b 0x3E 1 ≤ 3 && zerosAt b (0x38 + 2 * fieldOf b 0x3E 1) (6 - 2 * fieldOf b 0x3E 1) && d.maps < 16 &&
  (List.range 4).all (fun j => bitOf d.maps j || zerosAt b (0x40 + 12 * j) 12) && zerosAt b 0x70 16 &&
  d.sym == (fieldOf b 0x3E 1 != 0)

/-! ### The index space (15 R313-R315, 11 R276-R278) -/

/-- A generator is accepted (11 R276). A `q` of 3 is refused in every generator, one that has no `q` too, as R276 asks of an axis; what
else stands in a field that the generator does not use is ignored (log 64). -/
def genOk (ext : List Nat) (g : Gen) : Bool :=
  g.p < 3 && g.q < 3 &&
    match g.kind with
    | 1 => g.p != g.q && extent ext g.p == extent ext g.q
    | 2 => true
    | 3 => 1 ≤ g.m && extent ext g.p % g.m == 0
    | _ => false

/-- A symmetry declaration is accepted (11 R276, R277). -/
def symAccepted (ext : List Nat) (gens : List Gen) : Bool :=
  gens.all (genOk ext) &&
    (let es := group ext gens
     es.length ≤ 48 && charsOk ext gens es)

/-- The linear number of a point (15 R313). -/
def linear (ext pt : List Nat) : Nat := pt.getD 2 0 + extent ext 2 * (pt.getD 1 0 + extent ext 1 * pt.getD 0 0)

/-- The point with a linear number. -/
def pointOfLinear (ext : List Nat) (n : Nat) : List Nat :=
  [n / (extent ext 2 * extent ext 1), n / extent ext 2 % extent ext 1, n % extent ext 2]

/-- Points of the whole index space. -/
def pointCount (ext : List Nat) : Nat := extent ext 0 * extent ext 1 * extent ext 2

/-- A point is its orbit's canonical representative (11 R278). -/
def isCanon (ext : List Nat) (es : List Elem) (pt : List Nat) : Bool :=
  es.all fun z => linear ext pt ≤ linear ext (z.apply ext pt)

/-- The canonical points in linear order, by number. -/
def canonPoints (ext : List Nat) (es : List Elem) : List Nat :=
  (List.range (pointCount ext)).filter fun n => isCanon ext es (pointOfLinear ext n)

/-- The size of a point's orbit (11 R278). -/
def orbitSize (ext : List Nat) (es : List Elem) (pt : List Nat) : Nat := (images ext es pt).length + 1

/-- Issued point `n` of a launch with its orbit size (15 R313). -/
def issuedPoint (d : Desc) (ext : List Nat) (n : Nat) : Option (List Nat × Nat) :=
  if d.sym then
    let es := group ext d.gens
    (canonPoints ext es)[n]?.map fun k => (pointOfLinear ext k, orbitSize ext es (pointOfLinear ext k))
  else if n < pointCount ext then some (pointOfLinear ext n, 1)
  else none

/-- Lanes of one gang (15 R314). -/
def Desc.lanes (d : Desc) : Nat := d.nflight * d.nblock * 96

/-- Gangs that hold some points. -/
def Desc.gangsFor (d : Desc) (points : Nat) : Nat := (points + d.lanes - 1) / d.lanes

/-! ### What an empty partition holds (15 R312, R316, R319) -/

/-- Flights of a block that issue from a slot (06 R143). -/
def Desc.onSlot (d : Desc) (slot : Nat) : Nat := (d.nflight + 3 - slot) / 4

/-- Granules of a block on a slot. -/
def Desc.granules (d : Desc) (slot : Nat) : Nat := d.onSlot slot * (d.vregs / 8)

/-- Bytes of a block's reservation (05 R105). -/
def Desc.reservation (d : Desc) : Nat := (d.scratch + 4095) / 4096 * 4096

/-- Every core that a gang would take on a quad belongs to the partition. -/
def quadOwned (s : State) (pid : Nat) (d : Desc) (die quad : Nat) : Bool :=
  (List.range d.nblock).all fun r => ownsCore s pid (rankCore die quad r)

/-- How many times an amount goes into what there is; without a bound when nothing is needed. -/
def goesInto (need room : Nat) : Nat := if need == 0 then 2 ^ 60 else room / need

/-- Gangs that an empty quad holds. -/
def quadHolds (s : State) (pid : Nat) (d : Desc) (die quad : Nat) : Nat :=
  if !quadOwned s pid d die quad then 0
  else
    min (min (goesInto (d.granules 0) Config.slotGranules) (goesInto (d.onSlot 0) Config.slotFlights))
      (min (goesInto d.tiles 128) (goesInto d.reservation Config.sliceBytes))

/-- Gangs that the empty partition holds at once. -/
def partHolds (s : State) (pid : Nat) (d : Desc) : Nat :=
  ((List.range 48).map fun q => quadHolds s pid d (q / 12) (q % 12)).sum

/-! ### Acceptance and refusal (15 R311, R312) -/

/-- The packet fails the first check of 15 R312. -/
def packetBad (b : List Byte) : Bool :=
  !(fieldOf b 0 1 == 1 || fieldOf b 0 1 == 2) || 2 ≤ fieldOf b 1 1 || !zerosAt b 2 2 || !zerosAt b 0x1C 4 ||
  fieldOf b 8 8 % 128 != 0 || fieldOf b 0x28 8 % 128 != 0 || fieldOf b 0x30 8 % 65536 != 0 || fieldOf b 0x38 8 % 8 != 0

/-- The extents of a packet. -/
def packetExt (b : List Byte) : List Nat := [fieldOf b 0x10 4, fieldOf b 0x14 4, fieldOf b 0x18 4]

/-- The checks of 15 R312 in their order: the refusal reason, or 0, with descriptor, points and gangs. -/
def checkLaunch (s : State) (pid : Nat) (b : List Byte) (treeOver : Bool) : Nat × Option Desc × Nat × Nat :=
  if packetBad b then (1, none, 0, 0)
  else
    match feRead s pid (dw (fieldOf b 8 8)) 128 with
    | none => (2, none, 0, 0)
    | some db =>
      if !descOk db then (3, none, 0, 0)
      else
        let d := parseDesc db
        let ext := packetExt b
        let seed := fieldOf b 0 1 == 2
        if ext.any (· == 0) then (4, none, 0, 0)
        else if !seed && 2 ^ 48 < d.gangsFor (pointCount ext) then (5, none, 0, 0)
        else if partHolds s pid d == 0 then (6, none, 0, 0)
        else
          let symOk := !d.sym || symAccepted ext d.gens
          let points := if d.sym && symOk then (canonPoints ext (group ext d.gens)).length else pointCount ext
          let gangs := if seed then 1 else d.gangsFor points
          if d.resident && partHolds s pid d < gangs then (7, none, 0, 0)
          else if !symOk then (8, none, 0, 0)
          else if (d.spill == 0) != (fieldOf b 0x30 8 == 0) then (9, none, 0, 0)
          else if treeOver then (10, none, 0, 0)
          else (0, some d, points, gangs)

/-! ### The end of a launch (15 R310, R320-R324) -/

/-- Seal every pair of a launch that still holds contributions (11 R267). -/
def sealAll (s : State) (key : Nat) : State :=
  match mget? s.launches key with
  | some l => ((l.contribs.map (·.pa)).eraseDups).foldl (fun s pa => sealWord s key pa) s
  | none => s

/-- The final status word (15 R310). -/
def statusWord (l : Launch) (st reason : Nat) : Nat :=
  l.id * 2 ^ 32 + reason % 65536 * 65536 + (if l.antisym then 256 else 0) + st

/-- The reason a launch ends with (15 R310). -/
def endReason (l : Launch) (st : Nat) : Nat :=
  match st with
  | 4 => match l.fault with | some f => f.1 | none => l.treeFlt.getD 0
  | 5 => l.reason
  | _ => 0

/-- Launches of a graph that have been accepted and have not ended. -/
def graphRunning (s : State) (g : Nat) : Nat :=
  (s.launches.filter fun l => l.2.graph == some g && l.2.state < 2).length

/-- A phase of the job has ended: the job's counter falls, and at 0 the job ends, journalled as the last phase's end is (15 R324, log 59). -/
def jobStep (p : Part) (faulted : Bool) : Part :=
  { p with
    jobCount := p.jobCount - 1, jobFault := p.jobFault || faulted, jobEnds := if p.jobCount ≤ 1 then p.jobEnds + 1 else p.jobEnds }

/-- No queue of a partition has a packet announced and not accepted, and no root of a graph waits for acceptance. -/
def nothingAnnounced (s : State) (pid : Nat) : Bool :=
  (s.queues.all fun q => q.2.pid != pid || q.2.state == .error || q.2.r == q.2.index) && (part? s pid).elim true fun p => p.offers.isEmpty

/-- A phase ends when its counter is 0 and no further graph joins it (15 R324): a packet has closed it, or no packet of its partition is
announced any more (log 59). -/
def phaseEnd (s : State) (k : Nat) : State :=
  match mget? s.phases k with
  | some p =>
    if p.count == 0 && (p.closed || nothingAnnounced s p.pid) && !p.ended then
      modPart (journal { s with phases := mset s.phases k { p with ended := true } } p.pid none 8 0 0 0 0) p.pid
        fun x => { jobStep x p.fault with phase := x.phase.filter (· != k) }
    else s
  | none => s

/-- The phase that a partition's graphs join may have ended. -/
def phaseStep (s : State) (pid : Nat) : State :=
  match (part? s pid).bind (·.phase) with
  | some k => phaseEnd s k
  | none => s

/-- A graph ends when its counter is 0 (15 R324, 16 R338). -/
def graphEnd (s : State) (k : Nat) : State :=
  match mget? s.graphs k with
  | some g =>
    if g.count == 0 && !g.ended then
      let s1 := journal { s with graphs := mset s.graphs k { g with ended := true } } g.pid (some g.queue) 7 0 g.pidx 0 g.tag
      phaseEnd { s1 with phases := mmod s1.phases g.phase fun p =>
        { p with count := p.count - 1, fault := p.fault || g.fault } } g.phase
    else s
  | none => s

/-- A launch of a graph has ended: the counter falls, and a fault cancels the members not yet accepted, of which none is
counted any more (15 R324). -/
def graphStep (s : State) (k : Nat) (faulted : Bool) : State :=
  match mget? s.graphs k with
  | some g =>
    let n := if faulted then graphRunning s k else if g.fault then graphRunning s k else g.count - 1
    graphEnd { s with graphs := mset s.graphs k { g with count := n, fault := g.fault || faulted } } k
  | none => s

/-- The decrement of a completed launch's next record (15 R320). It reads the counter, and the rest of the record where that is 1
(11 R274). -/
def nextStep (s : State) (l : Launch) : State :=
  if l.next == 0 then s
  else
    match feKey s l.pid .atomic l.next 128 with
    | some k =>
      if poisonedIn s k (if readNat s k 4 == 1 then 128 else 4) then s else (decrement s none k l.pid l.id l.errQueue l.graph 0 0).2
    | none => feTell s l.pid .atomic l.next 128

/-- A launch ends with a state, apart from its spawn tree (15 R320). -/
def finishOne (s : State) (key st : Nat) : State :=
  match mget? s.launches key with
  | none => s
  | some l =>
    if 2 ≤ l.state then s
    else
      let s0 := if st == 2 then sealAll s key else s
      let s1 := { s0 with
        launches := mmod s0.launches key fun l => { l with state := st, contribs := [] }
        global := s0.global.map fun q => q.filter (· != key)
        dies := mmap s0.dies fun _ d => dropGangs s0.cycle key d }
      let s2 := if l.status == 0 then s1 else feWrite s1 l.pid l.status (bytesOfNat 8 (statusWord l st (endReason l st)))
      let s3 := journal s2 l.pid l.jq (st + 1) (endReason l st) l.pidx l.id l.tag
      let s4 := if st == 2 then nextStep s3 l else s3
      match l.graph with
      | some g => graphStep s4 g (st == 4)
      | none => s4

/-- The spawn-tree counter of a root falls by one (15 R322); at 0 the root ends, cancelled where a cancel has named it (R325). -/
def treeStep (s : State) (pid root : Nat) (flt : Option Nat) : State :=
  let key := lkey pid root
  let s1 := modLaunch s key fun l => { l with tree := l.tree - 1, treeFlt := l.treeFlt.or flt }
  match mget? s1.launches key with
  | some l => if l.tree == 0 && l.state < 2 then finishOne s1 key (if l.fault.isSome then 4 else if l.cancel then 3 else if l.treeFlt.isSome then 4 else 2) else s1
  | none => s1

/-- A launch ends with a state (15 R320-R322): 2 completed, 3 cancelled, 4 faulted, 5 refused. -/
def finish (s : State) (key st : Nat) : State :=
  match mget? s.launches key with
  | none => s
  | some l =>
    if 2 ≤ l.state then s
    else
      let s1 := finishOne s key st
      match l.root with
      | some r => treeStep s1 l.pid r (if st == 4 then some (endReason l st) else none)
      | none => s1

/-! ### Acceptance -/

/-- The graph a packet joins, and whether the graph has cancelled it (15 R324, 16 R338). -/
def joinGraph (s : State) (o : Offer) : Option Nat × Bool :=
  match o.graph.bind fun k => (mget? s.graphs k).map fun g => (k, g) with
  | some (k, g) => if g.fault then (none, true) else if g.ended || g.count == 0 then (none, false) else (some k, false)
  | none => (none, false)

/-- The record of an accepted packet. -/
def newLaunch (s : State) (pid id : Nat) (o : Offer) (device qlive : Bool) (prio : Nat) : Launch :=
  let b := o.bytes
  let closed := (o.root.bind fun r => mget? s.launches (lkey pid r)).elim false (·.treeEnd)
  let (reason, d, points, gangs) := checkLaunch s pid b closed
  let seed := fieldOf b 0 1 == 2
  { pid := pid, id := id, kind := fieldOf b 0 1, compat := bitOf (fieldOf b 1 1) 0, tag := w32 (fieldOf b 4 4), desc := d,
    ext := packetExt b, karg := dw (fieldOf b 0x20 8), next := dw (fieldOf b 0x28 8), spill := dw (fieldOf b 0x30 8),
    status := if fieldOf b 0x38 8 % 8 == 0 then dw (fieldOf b 0x38 8) else 0, points := points, gangs := gangs, handed := 0,
    placed := 0, retired := 0, state := 0, reason := reason, fault := none, antisym := false,
    root := if closed then none else o.root, isRoot := seed && o.root.isNone, tree := if seed && o.root.isNone then 1 else 0,
    treeFlt := none, treeEnd := false, graph := (joinGraph s o).1, queue := o.queue, qlive := qlive, device := device,
    prio := prio, pidx := o.pidx, cancel := false, order := s.nextId, contribs := [] }

/-- The identifier after one (15 R311). -/
def afterId (id : Word) : Word := if id + 1 == 0 then 1 else id + 1

/-- The front end accepts a packet (15 R311, R312, R322, R327): it is numbered, journalled, counted in its tree, and then
refused, cancelled with its graph, or put into its list. Answers the identifier. -/
def accept (s : State) (pid : Nat) (o : Offer) (device qlive : Bool) (prio : Nat) : Word × State :=
  match part? s pid with
  | none => (0, s)
  | some p =>
    let id := p.nextId
    let key := lkey pid id.toNat
    let l := newLaunch s pid id.toNat o device qlive prio
    let s1 := modPart { s with launches := mset s.launches key l, nextId := s.nextId + 1 } pid fun p =>
      { p with nextId := afterId id }
    let s2 := journal (if l.reason == 2 then feTell s1 pid .read (dw (fieldOf o.bytes 8 8)) 128 else s1) pid l.jq 1 0 l.pidx l.id l.tag
    let s3 := match l.root with
      | some r => modLaunch s2 (lkey pid r) fun l => { l with tree := l.tree + 1 }
      | none => s2
    (id,
      if l.reason != 0 then finish s3 key 5
      else if (joinGraph s o).2 then finish s3 key 3
      else { s3 with global := (List.range s3.global.length).map fun k =>
        if k == prio then s3.global.getD k [] ++ [key] else s3.global.getD k [] })

/-- Acceptance may go on: the partition's journal is on with room (16 R346). -/
def acceptOpen (s : State) (pid : Nat) : Bool := (part? s pid).elim false fun p => jnlOn p && jnlRoom p && !p.destroyed

/-- LAUNCH_ACCEPT (15 R311, R312): the front end takes the partition's oldest packet waiting for it. -/
def execLaunchAccept (pid : Nat) (s : State) : Ans :=
  match part? s pid with
  | none => .next s
  | some p =>
    match p.offers with
    | [] => .next s
    | o :: r =>
      if !acceptOpen s pid || frozen s pid then .next s
      else
        let q := o.queue.bind fun q => mget? s.queues q
        .next (accept (modPart s pid fun p => { p with offers := r }) pid o false q.isSome
          (q.elim 1 fun q => if q.lat then 0 else q.prio + 1)).2

/-! ### Cancels by name (15 R325, R333) -/

/-- The front end knows a launch: it is among the 65,536 accepted last (15 R311). -/
def knownLaunch (s : State) (pid id : Nat) : Option Launch :=
  match part? s pid, mget? s.launches (lkey pid id) with
  | some p, some l =>
    let n := p.nextId.toNat
    let back := if id < n then n - id else n + 2 ^ 32 - 1 - id
    if back ≤ 65536 then some l else none
  | _, _ => none

/-- Cancel a launch, or the tree of a seed launch: 0 took effect, 1 already ended, 2 unknown or no seed launch. -/
def cancelNamed (s : State) (pid id : Nat) (tree : Bool) : Nat × State :=
  match knownLaunch s pid id with
  | none => (2, s)
  | some l =>
    if tree && !l.isRoot then (2, s)
    else if tree then
      if (treeKeys s pid id).all fun k => (mget? s.launches k).elim true fun l => 2 ≤ l.state then (1, s)
      else (0, cancelTree s pid id)
    else if 2 ≤ l.state then (1, s)
    else (0, cancelLaunch s (lkey pid id))

/-- The issuing flight's own launch is among those that a cancel names. -/
def cancelsOwn (c : Ctx) (id : Nat) (tree : Bool) : Bool :=
  if tree then (treeKeys c.st c.f.pid id).contains (lkey c.f.pid c.f.launch) else c.f.launch == id

/-- LCANCEL and LCANCEL.tree: a release at device scope (15 R332, R333). -/
def cancelBy (tree : Bool) (d a : Opnd) : State → Ans :=
  issue [(d, 1), (a, 1)] false fun c =>
    let id := (srcS c a).toNat
    if openFor c.f c.g.owned then stall c .order
    else
      match cancelNamed c.st c.f.pid id tree with
      | (0, s1) =>
        if cancelsOwn c id tree then
          (cancelNamed (commit (settled (next c))) c.f.pid id tree).2
        else retireNext c (putS { c with st := s1 } d 0)
      | (r, s1) => retireNext c (putS { c with st := s1 } d (w32 r))

/-- LCANCEL (15 R333). -/
def execLcancel (d a : Opnd) (s : State) : Ans := cancelBy false d a s

/-- LCANCEL.tree (15 R333). -/
def execLcancelTree (d a : Opnd) (s : State) : Ans := cancelBy true d a s

/-- A count of a launch, read by its identifier (15 R334). -/
def countOf (acquire : Bool) (k : Launch → Nat) (d a : Opnd) : State → Ans :=
  issue [(d, 1), (a, 1)] false fun c =>
    match knownLaunch c.st c.f.pid (srcS c a).toNat with
    | none => retireNext c (putS c d 0xFFFF_FFFF)
    | some l =>
      let c1 : Ctx := if acquire && 2 ≤ l.state then { c with st := dropCache c.st c.f.core } else c
      retireNext c (putS c1 d (w32 (k l)))

/-- Gangs of a launch that have not retired: those that a cancel has discarded no longer count (15 R334). -/
def Launch.gangsLeft (l : Launch) : Nat := if 2 ≤ l.state then 0 else (if l.cancel then l.placed else l.gangs) - l.retired

/-- LCNT.gangs (15 R334). -/
def execLcntGangs (d a : Opnd) (s : State) : Ans := countOf false (fun l => min 0xFFFF_FFFF l.gangsLeft) d a s

/-- LCNT.tree (15 R334). -/
def execLcntTree (d a : Opnd) (s : State) : Ans := countOf false (fun l => if l.isRoot then l.tree else 0) d a s

/-- LCNT.state: a read of an ended launch's state acquires at device scope (15 R334, 04 R99). -/
def execLcntState (d a : Opnd) (s : State) : Ans := countOf true (fun l => l.state) d a s

/-! ### Device-side enqueue (15 R326-R329) -/

/-- Some access of a flight is issued and not performed, which a read of a packet must see (05 R132, 15 R326). -/
def flightOpen (f : Flight) : Bool := f.mops.any fun o => o.lanes.any fun l => l.st == .todo

/-- Some write in the program order of a lane of the mask is issued and not performed. -/
def writesOpen (f : Flight) (m : Lanes) : Bool :=
  f.mops.any fun o => (mspec o.instr).acc != .read && o.lanes.any fun l => l.st.waiting && agents o l &&& m != 0

/-- Accesses that an enqueue waits for: it releases those of its lanes, or, from a launch with the compatibility flag, their writes alone
(13 R302, R303); and it reads its packet after the flight's writes (05 R132). -/
def enqueueWaits (c : Ctx) : Bool :=
  if (launchOf c.st c.f).any (·.compat) then writesOpen c.f c.g.owned else openFor c.f c.g.owned || flightOpen c.f

/-- Device-side launches of a partition that wait for placement (15 R327). -/
def waitingDevice (s : State) (pid : Nat) : Nat :=
  (s.launches.filter fun l => l.2.pid == pid && l.2.device && l.2.state == 0 && !l.2.cancel).length

/-- The root of the tree that the children of a launch join (15 R322). -/
def Launch.treeRoot (l : Launch) : Option Nat := if l.isRoot then some l.id else l.root

/-- The address of a packet: the one kept from the first issue when the instruction is performed again (04 R90). -/
def packetVa (c : Ctx) (a : Opnd) : DWord :=
  match c.g.wait with
  | .redo va => va
  | _ => srcS2 c a

/-- An enqueue that cannot issue yet; one that is performed again keeps its address. -/
def hold (c : Ctx) (w : Why) : State :=
  match c.g.wait with
  | .redo _ => commit c
  | _ => stall c w

/-- Read the packet at an address for the issuing fragment (15 R326), then act on its bytes. One that holds a memory error
raises the memory-error fault (04 R97) and nothing is enqueued. -/
def withPacket (c : Ctx) (va : DWord) (act : Ctx → List Byte → State) : State :=
  match checkBlock c 64 .read va 64 with
  | (_, some (x, v), c1) => blockFails c1 x v .read
  | (ks, none, c1) =>
    if enqueueWaits c then hold c .order
    else if ks.any fun k => poisonedIn c1.st k.1 k.2 then objBad c1 va
    else act c1 (readPieces c1.st ks)

/-- ENQ (15 R326, R327). -/
def execEnq (detach : Bool) (d : Option Opnd) (a : Opnd) (s : State) : Ans :=
  issue (optGroup d ++ [(a, 2)]) false (fun c =>
    withPacket c (packetVa c a) fun c b =>
      let l := launchOf c.st c.f
      let busy := (part? c.st c.f.pid).elim true fun p => !p.offers.isEmpty
      if Config.packetListSize ≤ waitingDevice c.st c.f.pid || busy || !acceptOpen c.st c.f.pid then hold c .packets
      else
        let o : Offer :=
          { bytes := b, queue := l.bind (·.queue), pidx := 0, root := if detach then none else l.bind Launch.treeRoot, graph := none }
        let (id, s1) := accept c.st c.f.pid o true (l.elim false (·.qlive)) (l.elim 1 (·.prio))
        let c1 : Ctx := { c with st := s1 }
        retireNext c (enterNext (match d with | some d => putS c1 d id | none => c1))) s

/-- A handle's zero bits or device field are bad (15 R328, R329). -/
def badHandle (h : DWord) : Bool := bitsOf h.toNat 18 0 != 0 || 2048 ≤ bitsOf h.toNat 63 52

/-- ENQR (15 R329): the handle, the packet, its number, and the packet is on its way. -/
def execEnqr (d : Option Opnd) (a b : Opnd) (s : State) : Ans :=
  issue (optGroup d ++ [(a, 2), (b, 2)]) false (fun c =>
    let h := srcS2 c b
    if badHandle h then fault c 0x18 0
    else
      withPacket c (packetVa c a) fun c bs =>
        let m : PacketMsg :=
          { handle := h, bytes := bs, outside := false, spid := c.f.pid,
            squeue := ((launchOf c.st c.f).bind (·.errQueue)).getD 0xFFFF,
            sgen := ((launchOf c.st c.f).bind (·.errQueue)).elim 0 fun q => mgetD c.st.qgen q 0, slaunch := c.f.launch, pc := c.g.pc,
            seq := c.f.seqNo, graph := none }
        let c1 := enterNext (numbered c d)
        retireNext c { c1 with st := send c1.st (.packet m) }) s

end Sys2Proof.Machine
end

