-- ==== Sys2Proof/Machine/Links.lean ====
section
/-!
DEFINITION. The pod's links (17 R355-R357): the live link table, its messages, and the trees that are derived from it (R360,
R361).
-/
namespace Sys2Proof.Machine

/-- The entry of a link: up at sequence 0 until a message says otherwise. -/
def linkState (s : State) (l : LinkId) : Bool × BitVec 16 :=
  match s.links.find? fun x => x.1 == l with
  | some x => x.2
  | none => (true, 0)

/-- A link is up. -/
def linkUp (s : State) (l : LinkId) : Bool := (linkState s l).1

/-- Set a link's entry; one that is up at sequence 0 is not listed. -/
def setLink (ls : List (LinkId × Bool × BitVec 16)) (l : LinkId) (up : Bool) (seq : BitVec 16) :
    List (LinkId × Bool × BitVec 16) :=
  let r := ls.filter fun x => x.1 != l
  if up && seq == 0 then r else (l, up, seq) :: r

/-- Apply a link-state message when it is newer (17 R357). -/
def applyLink (s : State) (l : LinkId) (up : Bool) (seq : BitVec 16) : State :=
  if 0 < (seq - (linkState s l).2).toInt then
    { s with links := setLink s.links l up seq, linkMsgs := s.linkMsgs + 1 }
  else s

/-- The leaves under which some packages lie (17 R355). -/
def leavesOf (ps : List Nat) : List Nat := (ps.map (· / 512)).eraseDups

/-- A plane is usable for some packages (17 R360). -/
def planeUsable (s : State) (ps : List Nat) (p : Nat) : Bool :=
  ps.all (fun n => linkUp s (.pkg n p)) &&
    ((leavesOf ps).length == 1 ||
      (List.range 2).any fun sp => (leavesOf ps).all fun l => (List.range 256).any fun k => linkUp s (.trunk p l sp k))

/-- The planes of the trees derived for some packages (17 R360). -/
def derivePlanes (s : State) (ps : List Nat) (maxtrees : Nat) : List Nat :=
  ((List.range 36).filter (planeUsable s ps)).take maxtrees

/-- Another package can be reached. -/
def reachable (s : State) (n : Nat) : Bool := n == s.package || !(derivePlanes s [s.package, n] 36).isEmpty

/-- The rank at a position of a tree of `m` members (17 R361). -/
def rankAt (m t j : Nat) : Nat := (j + t) % m

/-- The position of a rank in a tree. -/
def positionOf (m t r : Nat) : Nat := (r + m - t % m) % m

/-- A link belongs to the package. -/
def ownLink (s : State) : LinkId → Bool
  | .pkg n _ => n == s.package
  | .trunk .. => false

end Sys2Proof.Machine
end

