-- ==== Sys2Proof/Machine/Queues.lean ====
section
/-!
DEFINITION. Queues (16 R335-R342): announcements, the mapper, the packets of every kind, blocked queues, deliveries of ENQR
(15 R330, R331), forwarded writes (16 R354), and which event a tender core may take (16 R344, R345).
-/
namespace Sys2Proof.Machine

/-! ### Announcements (16 R336, R337) -/

/-- Replace a queue. -/
def putQueue (s : State) (k : Nat) (q : Queue) : State := { s with queues := mset s.queues k q }

/-- A queue of a partition. -/
def queue? (s : State) (pid k : Nat) : Option Queue := (mget? s.queues k).bind fun q => if q.pid == pid then some q else none

/-- The address of a ring entry (16 R336). -/
def Queue.entry (q : Queue) (i : Word) : DWord := q.ring + dw (64 * (i.toNat % 2 ^ q.size))

/-- An event of a queue does not wait any more. -/
def dropEvent (s : State) (e : Pending) : State := { s with events := s.events.filter (· != e) }

/-- The device reads a write of the index, which announces packets, or overruns the ring (16 R337, R340). -/
def notify (s : State) (k : Nat) (w : Word) : State :=
  match mget? s.queues k with
  | none => s
  | some q =>
    let q := { q with bell := none, widx := w }
    let s := dropEvent s (.bell k)
    if q.state == .error then putQueue s k q
    else if 2 ^ q.size < (w - q.r).toNat then
      journal (putQueue s k { q with state := .error, slot := none, line := none }) q.pid (some k) 9 0 q.r 0 0
    else if q.state == .idle && w != q.r then putQueue s k { q with state := .ready, since := s.cycle }
    else putQueue s k q

/-- A tender core takes the write of a queue's QNOTIFY that waits for it (16 R344). -/
def takeBell (s : State) (k : Nat) : State :=
  match (mget? s.queues k).bind (·.bell) with
  | some w => notify s k w
  | none => dropEvent s (.bell k)

/-- QNOTIFY_WRITE (16 R337): the write waits, with one event, for a tender core (R344). -/
def execQnotifyWrite (pid q : Nat) (widx : Word) (s : State) : Ans :=
  .next (if (queue? s pid q).isSome then ring s q widx else s)

/-! ### The mapper (16 R341, R342) -/

/-- The queue mapped to a slot. -/
def mappedTo (s : State) (slot : Nat) : Option (Nat × Queue) :=
  s.queues.find? fun x => x.2.state == .mapped && x.2.slot == some slot

/-- Slots 56-63 serve queues of class 1, the others those of class 0. -/
def slotFits (lat : Bool) (slot : Nat) : Bool := slot < 64 && lat == decide (56 ≤ slot)

/-- Slots 0-55 that a partition's queues hold. -/
def slotsUsed (s : State) (pid : Nat) : Nat :=
  (s.queues.filter fun x => x.2.state == .mapped && !x.2.lat && x.2.pid == pid).length

/-- A queue may take one more slot of its class: a slot is free, and the shares guaranteed to other partitions are left. -/
def mayTake (s : State) (q : Queue) : Bool :=
  let n := (s.queues.filter fun x => x.2.state == .mapped && x.2.lat == q.lat).length
  if q.lat then n < 8
  else
    let owed := (s.parts.map fun p => if p.1 == q.pid then 0 else p.2.desc.slots - slotsUsed s p.1).sum
    n < 56 && (slotsUsed s q.pid < (part? s q.pid).elim 0 (·.desc.slots) || owed < 56 - n)

/-- The READY queue of a class that comes first: highest priority, then longest READY. -/
def firstReady (s : State) (lat : Bool) (p : Queue → Bool) : Option (Nat × Queue) :=
  leastBy (fun x => x.2.prio * 2 ^ 64 + x.2.since)
    (s.queues.filter fun x => x.2.state == .ready && x.2.lat == lat && mayTake s x.2 && p x.2)

/-- Map a queue. -/
def mapTo (s : State) (k slot : Nat) : State :=
  { s with queues := mmod s.queues k fun q => { q with state := .mapped, slot := some slot, mappedAt := s.cycle } }

/-- A mapped queue gives up its slot. -/
def unmap (s : State) (k : Nat) : State :=
  { s with queues := mmod s.queues k fun q => { q with state := .ready, slot := none, since := s.cycle } }

/-- QUEUE_MAP (16 R341). -/
def execQueueMap (pid q slot : Nat) (s : State) : Ans :=
  match queue? s pid q with
  | some x =>
    .next (if x.state == .ready && slotFits x.lat slot && (mappedTo s slot).isNone &&
      (firstReady s x.lat fun _ => true).any (fun y => y.1 == q) then mapTo s q slot else s)
  | none => .next s

/-- The queue that one displaces: of the lowest priority below its own, mapped longest (16 R342). -/
def victim (s : State) (q : Queue) : Option (Nat × Queue) :=
  leastBy (fun x => (3 - x.2.prio) * 2 ^ 64 + x.2.mappedAt)
    (s.queues.filter fun x => x.2.state == .mapped && x.2.lat == q.lat && q.prio < x.2.prio)

/-- QUEUE_DISPLACE (16 R342): the queue is the one that the mapper takes among the READY ones (R341). -/
def execQueueDisplace (pid q slot : Nat) (s : State) : Ans :=
  match queue? s pid q with
  | some x =>
    if x.state != .ready || mayTake s x then .next s
    else
      match victim s x with
      | some (k, v) =>
        let s1 := unmap s k
        .next (if v.slot == some slot && (firstReady s1 x.lat fun _ => true).any (fun y => y.1 == q) then mapTo s1 q slot else s)
      | none => .next s
  | none => .next s

/-- QUEUE_QUANTUM_EXPIRY (16 R342): 100 µs are 240,000 cycles. -/
def execQueueQuantumExpiry (slot : Nat) (s : State) : Ans :=
  match mappedTo s slot with
  | some (k, v) =>
    if s.cycle < v.mappedAt + 240000 then .next s
    else
      let s1 := unmap s k
      match firstReady { s1 with queues := mdel s1.queues k } v.lat fun x => x.prio == v.prio with
      | some (q, x) => .next (if mayTake s1 x then mapTo s1 q slot else s)
      | none => .next s
  | none => .next s

/-! ### Packets (16 R338) -/

/-- The head packet of a mapped queue whose acceptance may go on (16 R338, R346). -/
def headOf (s : State) (pid k : Nat) : Option (Queue × List Byte) :=
  match queue? s pid k with
  | some q =>
    let busy := (part? s pid).elim true fun p => !p.offers.isEmpty
    if q.state == .mapped && q.r != q.widx && acceptOpen s pid && !frozen s pid && !busy then
      (feRead s pid (q.entry q.r) 64).map fun b => (q, b)
    else none
  | none => none

/-- The packet's kind. -/
def kindOf (b : List Byte) : Nat := fieldOf b 0 1

/-- The packet's tag. -/
def tagOf (b : List Byte) : Word := w32 (fieldOf b 4 4)

/-- R advances and is written (16 R336, R340). With the last packet announced the phase may end (15 R324). -/
def advance (s : State) (k : Nat) : State :=
  match mget? s.queues k with
  | none => s
  | some q =>
    let r := q.r + 1
    let q1 := { q with r := r, fromGraph := mdel q.fromGraph q.r.toNat, line := none, met := false, head := [] }
    let q2 := if r == q.widx then { q1 with state := .idle, slot := none } else q1
    phaseStep (feWrite (putQueue s k q2) q.pid q.rdidx (bytesOfNat 8 r.toNat)) q.pid

/-- A packet that is no launch is accepted. -/
def acceptPacket (s : State) (k : Nat) (q : Queue) (b : List Byte) : State :=
  advance (journal s q.pid (some k) 1 0 q.r 0 (tagOf b)) k

/-- A packet is refused: it is journalled, and the queue goes on (16 R338). -/
def refusePacket (s : State) (k : Nat) (q : Queue) (b : List Byte) (reason : Nat) : State :=
  advance (journal s q.pid (some k) 6 reason q.r 0 (tagOf b)) k

/-- The head packet blocks its queue (16 R340). -/
def blockQueue (s : State) (k : Nat) (b : List Byte) (line : Option Nat) : State :=
  { s with queues := mmod s.queues k fun q => { q with state := .blocked, slot := none, head := b, line := line, met := false } }

/-- A packet event: the head packet of the event's kind. A ring that lies outside the partition's memory is reported (04 R77). -/
def onHead (pid k : Nat) (kind : Nat → Bool) (act : State → Queue → List Byte → State) (s : State) : Ans :=
  match headOf s pid k with
  | some (q, b) => .next (if kind (kindOf b) then act s q b else s)
  | none =>
    match queue? s pid k with
    | some q => .next (if q.state == .mapped && q.r != q.widx then feTell s pid .read (q.entry q.r) 64 else s)
    | none => .next s

/-- PACKET_LAUNCH (16 R338): a launch is accepted; a packet of kind 0 or 8-255 is refused. -/
def execPacketLaunch (pid q : Nat) (s : State) : Ans :=
  onHead pid q (fun n => n < 3 || 7 < n) (fun s x b =>
    if kindOf b == 1 || kindOf b == 2 then
      let o : Offer := { bytes := b, queue := some q, pidx := x.r, root := none, graph := mget? x.fromGraph x.r.toNat }
      advance (accept s pid o false true (if x.lat then 0 else x.prio + 1)).2 q
    else refusePacket s q x b 1) s

/-! ### Graph packets -/

/-- A graph packet's form is good. -/
def graphForm (b : List Byte) : Bool :=
  fieldOf b 1 1 < 2 && zerosAt b 2 2 && fieldOf b 8 8 % 64 == 0 && 1 ≤ fieldOf b 0x10 4 && fieldOf b 0x10 4 ≤ 65535 &&
  1 ≤ fieldOf b 0x14 4 && zerosAt b 0x18 40

/-- The graph has ended. -/
def graphOver (s : State) (g : Option Nat) : Bool := (g.bind fun k => mget? s.graphs k).elim true (·.ended)

/-- The graph that must end before a graph packet is accepted has ended: the queue's previous one, and the others of the
phase it joins (15 R323, 16 R338). -/
def graphReady (s : State) (q : Queue) (b : List Byte) : Bool :=
  graphOver s q.graph &&
    (bitOf (fieldOf b 1 1) 0 ||
      match (part? s q.pid).bind fun p => p.phase.bind fun k => mget? s.phases k with
      | some p => p.count == 0
      | none => true)

/-- The root packets of a list. -/
def readRoots (s : State) (pid : Nat) (va : DWord) : Nat → Option (List (List Byte))
  | 0 => some []
  | n + 1 =>
    match readRoots s pid va n, feRead s pid (va + dw (64 * n)) 64 with
    | some l, some b => some (l ++ [b])
    | _, _ => none

/-- The phase that a graph joins, opened where it must be. -/
def joinPhase (s : State) (pid : Nat) (new : Bool) : Nat × State :=
  match (part? s pid).bind (·.phase), new with
  | some k, false => (k, s)
  | old, _ =>
    let k := s.nextId
    let s1 := { s with nextId := s.nextId + 1, phases := mset s.phases k ⟨pid, 0, false, false, false⟩ }
    let s2 := modPart s1 pid fun p =>
      { p with phase := some k, jobCount := p.jobCount + 1, jobFault := p.jobFault && p.jobCount != 0 }
    (k, match old with
      | some o => phaseEnd { s2 with phases := mmod s2.phases o fun p => { p with closed := true } } o
      | none => s2)

/-- The first of some root packets that lies outside the partition's memory is reported (04 R77). -/
def tellRoots (s : State) (pid : Nat) (va : DWord) (n : Nat) : State :=
  match (List.range n).find? fun k => feOutside s pid .read (va + dw (64 * k)) 64 with
  | some k => send s (.isolation pid (va + dw (64 * k)))
  | none => s

/-- A graph packet is accepted: its graph opens and its roots wait for acceptance. -/
def acceptGraph (s : State) (k : Nat) (q : Queue) (b : List Byte) : State :=
  match readRoots s q.pid (dw (fieldOf b 8 8)) (fieldOf b 0x10 4) with
  | none => refusePacket (tellRoots s q.pid (dw (fieldOf b 8 8)) (fieldOf b 0x10 4)) k q b 2
  | some roots =>
    let (ph, s1) := joinPhase s q.pid (bitOf (fieldOf b 1 1) 0)
    let g := s1.nextId
    let s2 := { s1 with
      nextId := s1.nextId + 1
      graphs := mset s1.graphs g ⟨q.pid, k, q.r, tagOf b, fieldOf b 0x14 4, false, false, ph⟩
      phases := mmod s1.phases ph fun p => { p with count := p.count + 1 } }
    let s3 := modPart s2 q.pid fun p =>
      { p with offers := p.offers ++ roots.map fun r => ⟨r, some k, q.r, none, some g⟩ }
    let s4 := acceptPacket s3 k q b
    { s4 with queues := mmod s4.queues k fun q => { q with graph := some g } }

/-- PACKET_GRAPH (16 R338). -/
def execPacketGraph (pid q : Nat) (s : State) : Ans :=
  onHead pid q (· == 3) (fun s x b =>
    if !graphForm b then refusePacket s q x b 1
    else if graphReady s x b then acceptGraph s q x b
    else blockQueue s q b none) s

/-! ### Signal, wait, barrier and cancel packets -/

/-- PACKET_SIGNAL (16 R338). -/
def execPacketSignal (pid q : Nat) (s : State) : Ans :=
  onHead pid q (· == 4) (fun s x b =>
    if 2 ≤ fieldOf b 1 1 || !zerosAt b 2 2 || fieldOf b 8 8 % 8 != 0 || !zerosAt b 0x18 40 then refusePacket s q x b 1
    else
      match feKey s pid .atomic (dw (fieldOf b 8 8)) 8 with
      | some k =>
        if poisonedIn s k 8 then refusePacket s q x b 2
        else
          let v := fieldOf b 0x10 8
          acceptPacket (writeNat s k 8 (if fieldOf b 1 1 == 1 then (readNat s k 8 + v) % 2 ^ 64 else v)) q x b
      | none => refusePacket (feTell s pid .atomic (dw (fieldOf b 8 8)) 8) q x b 2) s

/-- PACKET_WAIT (16 R338, R339). -/
def execPacketWait (pid q : Nat) (s : State) : Ans :=
  onHead pid q (· == 5) (fun s x b =>
    if 3 ≤ fieldOf b 1 1 || !zerosAt b 2 2 || fieldOf b 8 8 % 8 != 0 || !zerosAt b 0x18 40 then refusePacket s q x b 1
    else
      match feKey s pid .read (dw (fieldOf b 8 8)) 8 with
      | some k =>
        if poisonedIn s k 8 then refusePacket s q x b 2
        else if waitMet s b k then acceptPacket s q x b
        else blockQueue s q b (some k)
      | none => refusePacket (feTell s pid .read (dw (fieldOf b 8 8)) 8) q x b 2) s

/-- A queue whose block is satisfied is READY, or IDLE where nothing is announced any more (16 R340). -/
def Queue.unblocked (now : Nat) (q : Queue) : Queue :=
  { q with state := if q.r == q.widx then .idle else .ready, since := now, head := [], line := none, met := false }

/-- The block of a queue is satisfied: its packet is accepted and the queue becomes READY, or IDLE (16 R340). A packet that is no longer
announced is not accepted (log 60). -/
def unblock (s : State) (k : Nat) (q : Queue) : State :=
  let s1 := { s with queues := mmod s.queues k (Queue.unblocked s.cycle) }
  if q.r == q.widx then s1 else acceptPacket s1 k q q.head

/-- A tender core takes the hit of a queue's monitor, and the blocked wait is checked again: it is satisfied where the value meets the
condition, or where one that met it outlasted a write (16 R339, R344). -/
def takeHit (s : State) (k : Nat) : State :=
  match mget? s.queues k with
  | some x =>
    match x.line with
    | some a =>
      if x.state == .blocked && !acceptOpen s x.pid then s
      else
        let s1 := dropEvent s (.monitor k)
        if x.state == .blocked && (x.met || waitMet s x.head a) then unblock s1 k x else s1
    | none => dropEvent s (.monitor k)
  | none => dropEvent s (.monitor k)

/-- The queue that an event is for (16 R345). -/
def Pending.queue : Pending → Option Nat
  | .bell q => some q
  | .monitor q => some q
  | .row (.queueUnblock _ q) => some q
  | _ => none

/-- Event `k` of the twelve oldest, which a tender core that is free may take: the events of one queue are handled in their order (16 R344,
R345). -/
def taken (s : State) (k : Nat) : Option Pending :=
  match (s.events.take 12)[k]? with
  | some e => if e.queue.isSome && (s.events.take k).any fun x => x.queue == e.queue then none else some e
  | none => none

/-- WAIT_MONITOR_HIT (16 R339): one of the twelve tenders takes the hit that a write to a blocked wait's line has raised. -/
def execWaitMonitorHit (pid q : Nat) (s : State) : Ans :=
  .next (if (queue? s pid q).isSome && taken s (s.events.idxOf (.monitor q)) == some (.monitor q) then takeHit s q else s)

/-- Every launch and graph accepted earlier from a queue has ended (16 R338). -/
def queueQuiet (s : State) (k : Nat) (q : Queue) : Bool :=
  graphOver s q.graph && !(s.launches.any fun l => l.2.queue == some k && l.2.qlive && !l.2.device && l.2.state < 2)

/-- PACKET_BARRIER (16 R338). -/
def execPacketBarrier (pid q : Nat) (s : State) : Ans :=
  onHead pid q (· == 6) (fun s x b =>
    if !zerosAt b 1 3 || !zerosAt b 8 56 then refusePacket s q x b 1
    else if queueQuiet s q x then acceptPacket s q x b
    else blockQueue s q b none) s

/-- QUEUE_UNBLOCK (16 R340): what a barrier, or a graph packet, waits for has ended. -/
def execQueueUnblock (pid q : Nat) (s : State) : Ans :=
  match queue? s pid q with
  | some x =>
    if x.state != .blocked || x.line.isSome then .next s
    else if kindOf x.head == 6 then .next (if acceptOpen s pid && queueQuiet s q x then unblock s q x else s)
    else
      .next (if graphReady s x x.head then putQueue s q (x.unblocked s.cycle) else s)
  | none => .next s

/-- PACKET_CANCEL (16 R338). -/
def execPacketCancel (pid q : Nat) (s : State) : Ans :=
  onHead pid q (· == 7) (fun s x b =>
    if 2 ≤ fieldOf b 1 1 || !zerosAt b 2 2 || !zerosAt b 0xC 4 || fieldOf b 0x10 8 % 8 != 0 || !zerosAt b 0x18 40 then
      refusePacket s q x b 1
    else
      let (r, s1) := cancelNamed s pid (fieldOf b 8 4) (bitOf (fieldOf b 1 1) 0)
      let s2 := if fieldOf b 0x10 8 == 0 then s1 else feWrite s1 pid (dw (fieldOf b 0x10 8)) (bytesOfNat 8 r)
      acceptPacket s2 q x b) s

/-! ### Deliveries (15 R330, R331) -/

/-- Write an error record (15 R331), here or on its way to the sender's package. A queue that is created under the number of the one that
submitted the sender's launch takes none. -/
def bounce (s : State) (m : PacketMsg) (status : Nat) : State :=
  if m.outside then send s (.bounce m status)
  else
    match (queue? s m.spid m.squeue).filter fun _ => mgetD s.qgen m.squeue 0 == m.sgen with
    | none => s
    | some q =>
      match feRead s q.pid q.err 4 with
      | none => feTell s q.pid .read q.err 4
      | some n =>
        let n := natOfBytes n
        let rec' := bytesOfNat 8 m.handle.toNat ++ bytesOfNat 8 m.pc.toNat ++ bytesOfNat 4 m.seq.toNat ++ bytesOfNat 2 status ++
          bytesOfNat 2 0 ++ bytesOfNat 4 m.slaunch ++ bytesOfNat 4 0
        feWrite (feWrite s q.pid (q.err + 32 + dw (32 * (n % 2 ^ q.errsize))) rec') q.pid q.err (bytesOfNat 4 (n + 1))

/-- The queue number of a handle. -/
def handleQueue (h : DWord) : Nat := bitsOf h.toNat 51 40

/-- The partition of a handle. -/
def handlePart (h : DWord) : Nat := bitsOf h.toNat 23 19

/-- The checks of a delivery at its destination (15 R330): 0, or the status it fails with. -/
def deliveryStatus (s : State) (m : PacketMsg) : Nat :=
  let pid := handlePart m.handle
  let k := handleQueue m.handle
  if badHandle m.handle then 2
  else if !((!m.outside && m.spid == pid) || (part? s pid).elim false fun p => p.desc.admits.getLsbD m.spid) then 3
  else
    match queue? s pid k with
    | none => 1
    | some q =>
      if mgetD s.qgen k 0 != bitsOf m.handle.toNat 39 24 then 1
      else if 2 ^ q.size ≤ (q.index - q.r).toNat then 4
      else if (feKey s pid .write (q.entry q.index) 64).isNone then 2
      else 0

/-- A packet is delivered: written to the ring, then announced by a write of QNOTIFY (15 R330, 16 R337). -/
def deliver (s : State) (m : PacketMsg) : State :=
  let pid := handlePart m.handle
  let k := handleQueue m.handle
  match queue? s pid k with
  | none => s
  | some q =>
    let s1 := feWrite s pid (q.entry q.index) m.bytes
    let s2 := match m.graph with
      | some g => { s1 with queues := mmod s1.queues k fun q => { q with fromGraph := mset q.fromGraph q.index.toNat g } }
      | none => s1
    ring s2 k (q.index + 1)

/-- A delivery ends with a status: at its queue, or as a bounce. A ring outside its partition's memory is reported (04 R77). -/
def settleDelivery (s : State) (m : PacketMsg) (status : Nat) : State :=
  if status == 0 then deliver s m
  else
    let pid := handlePart m.handle
    bounce (if status == 2 then
      (queue? s pid (handleQueue m.handle)).elim s fun q => feTell s pid .write (q.entry q.index) 64 else s) m status

/-- ENQR_DELIVERY (15 R330): a packet of this package, or one from outside, arrives at its queue or bounces. One for another
package that can be reached stays with the fabric. -/
def execEnqrDelivery (m : PacketMsg) (s : State) : Ans :=
  let dev := bitsOf m.handle.toNat 63 52
  if m.outside then
    if dev != s.package then .next s
    else .next (settleDelivery s m (deliveryStatus s m))
  else if !s.outbox.contains (.packet m) then .next s
  else
    let s1 := { s with outbox := s.outbox.erase (.packet m) }
    if badHandle m.handle || (dev != s.package && !reachable s dev) then .next (bounce s1 m 2)
    else if dev != s.package then .next s
    else .next (settleDelivery s1 m (deliveryStatus s1 m))

/-! ### Migrated signal pages (16 R354) -/

/-- A page's forwarding entry has been removed. -/
def closed (s : State) (a : Nat) : Bool := s.moved.any fun p => p ≤ a && a < p + 65536

/-- FORWARDED_WRITE: a remote write into the locked carve-out is refused with a link error (22 R449); one to a page
with a forwarding entry is applied there and forwarded. Once the entry is gone it is refused, and bounces to its
writer with status NOROUTE, of which only the address is known here (R331). -/
def execForwardedWrite (addr : Nat) (data : List Byte) (s : State) : Ans :=
  .next (if inCarveOut s addr || inCarveOut s (addr + data.length - 1) then send s .linkError
    else if forwarded s addr then writeBytes s addr data else if closed s addr then send s (.refused addr 2) else s)

/-- The destination's wait has been satisfied: the page's entry goes. -/
def forwardEnd (s : State) (page : Nat) : State :=
  if s.forwards.contains page then { s with forwards := s.forwards.filter (· != page), moved := page :: s.moved } else s

end Sys2Proof.Machine
end

