-- ==== Sys2Proof/Machine/Reduce.lean ====
section
/-!
DEFINITION. The arithmetic of collectives (17 R367-R370): element types, the fast mode along a tree, and the exact mode.
-/
namespace Sys2Proof.Machine

/-- The element types of a collective (17 R371). -/
inductive CTy where
  | u32 | s32 | u64 | s64 | f32 | dxbp | fx64 | bf16
  deriving DecidableEq, Repr

/-- The type of a code. -/
def cty? : Nat → Option CTy
  | 0 => some .u32
  | 1 => some .s32
  | 2 => some .u64
  | 3 => some .s64
  | 4 => some .f32
  | 8 => some .dxbp
  | 0xB => some .fx64
  | 0xD => some .bf16
  | _ => none

/-- Bytes of an element. -/
def CTy.size : CTy → Nat
  | .bf16 => 2
  | .u32 | .s32 | .f32 => 4
  | _ => 8

/-- A dxbp element: P and e (17 R370). -/
structure Dxbp where
  p : Int
  e : Int
  deriving DecidableEq, Repr

/-- The value of a dxbp element's bits. -/
def Dxbp.read (x : Nat) : Dxbp := ⟨(w32 x).toInt, (BitVec.ofNat 16 (x / 2 ^ 32)).toInt⟩

/-- The bits of a dxbp element. -/
def Dxbp.write (d : Dxbp) : Nat := (d.p % 2 ^ 32).toNat + (d.e % 2 ^ 16).toNat * 2 ^ 32

/-- The NaN of dxbp. -/
def Dxbp.nan : Dxbp := ⟨0, 0x7FFF⟩

/-- An exponent above 32,766 saturates (17 R369). -/
def Dxbp.sat (d : Dxbp) : Dxbp := if d.p == 0 then ⟨0, 0⟩ else if 32766 < d.e then ⟨if d.p < 0 then -(2 ^ 31 - 1) else 2 ^ 31 - 1, 32766⟩ else d

/-- Halve P towards zero until it is below 2^31 in magnitude. -/
def narrow : Nat → Int → Int → Dxbp
  | 0, p, e => ⟨p, e⟩
  | n + 1, p, e => if 2 ^ 31 ≤ p.natAbs then narrow n (p.tdiv 2) (e + 1) else ⟨p, e⟩

/-- P × 2^(−k) cut towards zero. -/
def cutDown (p : Int) (k : Int) : Int := p.tdiv (2 ^ k.toNat)

/-- round(x + y) of dxbp in fast mode (17 R368). -/
def dxbpAdd (x y : Dxbp) : Dxbp :=
  if x.e == 0x7FFF || y.e == 0x7FFF then .nan
  else if x.p == 0 && y.p == 0 then ⟨0, 0⟩
  else if x.p == 0 then y
  else if y.p == 0 then x
  else
    let e := max x.e y.e
    (narrow 40 (cutDown x.p (e - x.e) + cutDown y.p (e - y.e)) e).sat

/-- One step of a sum in fast mode (17 R367, R368). -/
def fastAdd (t : CTy) (x y : Nat) : Nat :=
  match t with
  | .f32 => (fAdd f32 0 (f32.val x) (f32.val y)).1
  | .bf16 => (fAdd bf16 0 (bf16.val x) (bf16.val y)).1
  | .dxbp => (dxbpAdd (Dxbp.read x) (Dxbp.read y)).write
  | _ => (x + y) % 2 ^ (8 * t.size)

/-- Min and max (17 R367). -/
def collMinMax (t : CTy) (mx : Bool) (x y : Nat) : Nat :=
  match t with
  | .f32 => fMinMax f32 mx x y
  | .bf16 => fMinMax bf16 mx x y
  | .s32 => if ((w32 x).toInt < (w32 y).toInt) == mx then y else x
  | .s64 => if ((dw x).toInt < (dw y).toInt) == mx then y else x
  | .fx64 => if ((dw x).toInt < (dw y).toInt) == mx then y else x
  | _ => if decide (x < y) == mx then y else x

/-- One step of an operation: 0 sum, 1 min, 2 max. -/
def collStep (t : CTy) (op : Nat) (x y : Nat) : Nat :=
  match op with
  | 0 => fastAdd t x y
  | 1 => collMinMax t false x y
  | _ => collMinMax t true x y

/-- The values that the positions of a tree of `m` members compute from the members' own values by position (17 R361, R368). -/
def treeValues (step : Nat → Nat → Nat) (m : Nat) (own : Nat → Nat) : Cells Nat :=
  (List.range m).foldr (fun j (acc : Cells Nat) =>
    let v := own j
    let v1 := match mget? acc (2 * j + 1) with | some x => step v x | none => v
    let v2 := match mget? acc (2 * j + 2) with | some x => step v1 x | none => v1
    mset acc j v2) []

/-- The value that position 0 of a tree of `m` members computes. -/
def treeValue (step : Nat → Nat → Nat) (m : Nat) (own : Nat → Nat) : Nat := mgetD (treeValues step m own) 0 0

/-- A term of the exact mode: sign, m and e (17 R369). -/
structure Term where
  neg : Bool
  m   : Nat
  e   : Int
  deriving DecidableEq, Repr

/-- The term of an element. -/
def termOf (t : CTy) (x : Nat) : Term :=
  match t with
  | .f32 =>
    let ex := x / 2 ^ 23 % 256
    ⟨bitOf x 31, x % 2 ^ 23 + (if ex != 0 then 2 ^ 23 else 0), ((max ex 1 : Nat) : Int) - 150⟩
  | .bf16 =>
    let ex := x / 2 ^ 7 % 256
    ⟨bitOf x 15, x % 2 ^ 7 + (if ex != 0 then 2 ^ 7 else 0), ((max ex 1 : Nat) : Int) - 134⟩
  | _ =>
    let d := Dxbp.read x
    ⟨decide (d.p < 0), d.p.natAbs, d.e⟩

/-- The number of bits of a number. -/
def bitlen (n : Nat) : Nat := if n == 0 then 0 else Nat.log2 n + 1

/-- floor(m × 2^k). -/
def scaleFloor (m : Nat) (k : Int) : Nat := if k < 0 then m / 2 ^ (-k).toNat else m * 2 ^ k.toNat

/-- The greatest of some exponents. -/
def maxInt : List Int → Option Int
  | [] => none
  | x :: r => some ((maxInt r).elim x (max x))

/-- Bring a dxbp result's exponent up to −32,768. -/
def raiseExp : Nat → Int → Int → Dxbp
  | 0, p, e => ⟨p, e⟩
  | n + 1, p, e => if e < -32768 then raiseExp n (p.tdiv 2) (e + 1) else ⟨p, e⟩

/-- A × 2^(g − 84) converted to a type (17 R369). -/
def convertExact (t : CTy) (a : Int) (k : Int) : Nat :=
  match t with
  | .dxbp =>
    let d := narrow 80 a k
    ((raiseExp 400 d.p d.e).sat).write
  | .bf16 => if a == 0 then 0 else (roundTo bf16 0 (decide (a < 0)) a.natAbs 1 k).1
  | _ => if a == 0 then 0 else (roundTo f32 0 (decide (a < 0)) a.natAbs 1 k).1

/-- The value of an element where the exact mode treats it specially: NaN, or an infinity's sign (17 R370). -/
def special? (t : CTy) (x : Nat) : Option (Option Bool) :=
  let of (f : Fmt) : Option (Option Bool) :=
    match f.val x with
    | .nan => some none
    | .inf neg => some (some neg)
    | _ => none
  match t with
  | .f32 => of f32
  | .bf16 => of bf16
  | _ => if (Dxbp.read x).e == 0x7FFF then some none else none

/-- The canonical NaN and the infinities of a type. -/
def specialBits (t : CTy) : Option Bool → Nat
  | none => match t with | .f32 => f32.nan | .bf16 => bf16.nan | _ => Dxbp.nan.write
  | some neg => match t with | .bf16 => bf16.inf neg | _ => f32.inf neg

/-- The exponent g that the first pass of the exact mode finds (17 R369). -/
def topExp (ts : List Term) : Option Int := maxInt ((ts.filter fun x => x.m != 0).map fun x => x.e + bitlen x.m)

/-- The integer sum that the second pass forms of some terms (17 R369). -/
def alignedSum (g : Int) (ts : List Term) : Int :=
  (ts.map fun x => (if x.neg then (-1 : Int) else 1) * (scaleFloor x.m (x.e - g + 84) : Int)).sum

/-- The exact sum of some elements (17 R369, R370). -/
def exactSum (t : CTy) (xs : List Nat) : Nat :=
  let sp := xs.filterMap (special? t)
  if sp.contains none || (sp.contains (some true) && sp.contains (some false)) then specialBits t none
  else
    match sp with
    | x :: _ => specialBits t x
    | [] =>
      let ts := xs.map (termOf t)
      match topExp ts with
      | none => 0
      | some g => convertExact t (alignedSum g ts) (g - 84)

/-- The types whose sums have an exact mode (17 R367). -/
def CTy.inexact (t : CTy) : Bool := t == .f32 || t == .bf16 || t == .dxbp

/-- A result that is a NaN is the canonical one, also where a single member's element meets no other (07 R180). -/
def canonNan (t : CTy) (x : Nat) : Nat :=
  match t with
  | .f32 => if (f32.val x).isNan then f32.nan else x
  | .bf16 => if (bf16.val x).isNan then bf16.nan else x
  | _ => x

/-- The reduction of the members' elements, by rank, on tree `tr` (17 R367-R370). -/
def reduceElem (t : CTy) (op : Nat) (exact : Bool) (m tr : Nat) (own : Nat → Nat) : Nat :=
  if exact && op == 0 && t.inexact then exactSum t ((List.range m).map own)
  else canonNan t (treeValue (collStep t op) m fun j => own (rankAt m tr j))

/-- The value that the member at position `j` of tree `tr` sends to its parent (17 R361, R368, R369): in exact mode the integer sum of its
subtree `below`. -/
def subtreeElem (t : CTy) (op : Nat) (exact : Bool) (m tr j : Nat) (below : List Nat) (own : Nat → Nat) : Int :=
  if exact && op == 0 && t.inexact then
    ((topExp ((List.range m).map fun r => termOf t (own r))).elim 0 fun g => alignedSum g (below.map fun r => termOf t (own r)))
  else (mgetD (treeValues (collStep t op) m fun k => own (rankAt m tr k)) j 0 : Nat)

end Sys2Proof.Machine
end

