-- ==== Sys2Proof/Machine/Fabric.lean ====
section
/-!
DEFINITION. The Bridle engine (17 R357-R380): collectives, pod barriers, remote puts, the queries of trees, link-state changes
and agreement.
-/
namespace Sys2Proof.Machine

/-! ### Communicators -/

/-- The key of a communicator (17 R358). -/
def ckey (pid n : Nat) : Nat := pid * 256 + n

/-- A communicator of a partition. -/
def comm? (s : State) (pid n : Nat) : Option Comm := mget? s.comms (ckey pid n)

/-- Change a communicator. -/
def modComm (s : State) (pid n : Nat) (k : Comm → Comm) : State := { s with comms := mmod s.comms (ckey pid n) k }

/-- The packages of the members. -/
def Comm.packages (c : Comm) : List Nat := c.members.map (·.1)

/-- The most trees a communicator uses (17 R358). -/
def Comm.trees (c : Comm) : Nat := if c.maxtrees == 0 then 36 else c.maxtrees

/-- Derive a communicator's trees from the live link table (17 R360). -/
def derive' (s : State) (c : Comm) : Comm :=
  { c with derived := some (derivePlanes s c.packages c.trees, linkVersion s) }

/-- The planes of the trees last derived. -/
def Comm.planes (c : Comm) : List Nat := (c.derived.elim [] (·.1))

/-- A communicator whose trees have been derived at least once (17 R380). -/
def derivedOnce (s : State) (c : Comm) : Comm := if c.derived.isSome then c else derive' s c

/-! ### Failures (17 R373) -/

/-- An operation of a flight fails with a status: its object's fault bit is set and the flight gets the asynchronous
collective fault. -/
def failOp (s : State) (fid pid launch core : Nat) (obj pc : DWord) (seq : Word) (status : Nat) : State :=
  asyncFault (failObj s pid core obj) fid pid launch ⟨0x1A, status, 0, obj, pc, seq, none⟩

/-- Apply one arrival to an operation's object; a failed one is status 5. -/
def arriveObj (s : State) (fid pid launch core : Nat) (obj pc : DWord) (seq : Word) : State :=
  match objKey s pid core obj with
  | .inl _ => failOp s fid pid launch core obj pc seq 5
  | .inr k =>
    if poisonedIn s k 16 then failOp s fid pid launch core obj pc seq 5
    else
      let r := boUpdate s k 0 0 1
      if r.fails then failOp r.state fid pid launch core obj pc seq 5 else lateFirings r.state r.late

/-- A collective ends with a status at this member. One that was running takes its agreement with it (17 R365). -/
def dropColl (s : State) (pid n : Nat) (o : CollOp) (status : Nat) : State :=
  let s1 := modComm s pid n fun c =>
    let head := c.colls.head?.any fun x => x.id == o.id
    { c with
      colls := c.colls.filter fun x => x.id != o.id, agree := c.agree && !head, restart := if head then [] else c.restart }
  failOp (cutWork s1 o.id) o.fid pid o.launch o.core o.obj o.pc o.seq status

/-- A collective ends with a status at every member. -/
def endColl (s : State) (pid n : Nat) (o : CollOp) (status : Nat) : State :=
  send (dropColl s pid n o status) (.ended pid n (some (false, o.num)) status)

/-- A barrier instance ends with a status at this member (17 R375). -/
def dropCbar (s : State) (pid n : Nat) (o : CbarOp) (status : Nat) : State :=
  failOp (modComm s pid n fun c => { c with cbars := c.cbars.filter fun x => x.id != o.id }) o.fid pid o.launch o.core o.obj o.pc
    o.seq status

/-- A barrier instance ends with a status at every member. -/
def endCbar (s : State) (pid n : Nat) (o : CbarOp) (status : Nat) : State :=
  send (dropCbar s pid n o status) (.ended pid n (some (true, o.num)) status)

/-- A put ends with a status. -/
def endPut (s : State) (pid n : Nat) (o : PutOp) (status : Nat) : State :=
  failOp (cutWork (modComm s pid n fun c => { c with puts := c.puts.filter fun x => x.id != o.id }) o.id) o.fid pid o.launch o.core
    o.obj o.pc o.seq status

/-- Every open collective and barrier instance of a communicator ends with a status at this member (17 R359). -/
def endInstances (s : State) (pid n status : Nat) : State :=
  match comm? s pid n with
  | none => s
  | some c => c.cbars.foldl (fun s o => dropCbar s pid n o status) (c.colls.foldl (fun s o => dropColl s pid n o status) s)

/-- Every open operation of a communicator ends with a status (17 R359). -/
def endOpen (s : State) (pid n status : Nat) : State :=
  match comm? s pid n with
  | none => s
  | some c => c.puts.foldl (fun s o => endPut s pid n o status) (endInstances s pid n status)

/-- The operations of a cancelled gang end with status 4, and the other members are told (17 R374, R375). -/
def endGangOps (s : State) (gid : Nat) : State :=
  s.comms.foldl (fun s x =>
    let pid := x.1 / 256
    let n := x.1 % 256
    let s1 := (x.2.colls.filter fun o => o.gid == gid).foldl (fun s o => endColl s pid n o 4) s
    let s2 := (x.2.cbars.filter fun o => o.gid == gid).foldl (fun s o => endCbar s pid n o 4) s1
    modComm s2 pid n fun c => { c with puts := c.puts.filter fun o => o.gid != gid }) s

/-- Another member has ended a collective or barrier instance before this one joins it, with a status. -/
def Comm.goneWith (c : Comm) (bar : Bool) (num : Nat) : Option Nat :=
  (c.failed.find? fun x => x.1 == bar && x.2.1 == num).map (·.2.2)

/-- An instance that another member has ended has been joined here. -/
def Comm.joinedGone (c : Comm) (bar : Bool) (num : Nat) : Comm :=
  { c with failed := c.failed.filter fun x => !(x.1 == bar && x.2.1 == num) }

/-- Another member has left, which ends every open collective and barrier instance here, or has ended one instance (17 R359, R373). -/
def peerEnd (s : State) (pid n status : Nat) (one : Option (Bool × Nat)) : State :=
  match comm? s pid n with
  | none => s
  | some c =>
    match one with
    | none => endInstances s pid n status
    | some (bar, k) =>
      if k < (if bar then c.cbarNo else c.collNo) then
        if bar then (c.cbars.filter fun o => o.num == k).foldl (fun s o => dropCbar s pid n o status) s
        else (c.colls.filter fun o => o.num == k).foldl (fun s o => dropColl s pid n o status) s
      else modComm s pid n fun c => { c with failed := (bar, k, status) :: (c.joinedGone bar k).failed }

/-- The objects that an operation of a communicator counts into, as keys. -/
def opObjs (s : State) (pid core : Nat) (obj : DWord) : List Nat :=
  match objKey s pid core obj with | .inr k => [k] | .inl _ => []

/-! ### COLL (17 R371, R372) -/

/-- The number of a communicator that a parameter block names (17 R371). -/
def collComm (par : List Word) : Nat := parBits par 5 31 24

/-- Bytes of a segment. -/
def segBytes (par : List Word) : Nat := (par.getD 4 0).toNat * ((cty? (parBits par 5 23 20)).elim 1 CTy.size)

/-- Bytes of a chunk (17 R362). -/
def chunkBytes (par : List Word) : Nat := 2 ^ (12 + parBits par 6 3 0)

/-- Chunks of a segment. -/
def segChunks (par : List Word) : Nat := (segBytes par + chunkBytes par - 1) / chunkBytes par

/-- Segments of a collective (17 R362). -/
def segments (kind : CollKind) (m : Nat) : Nat := match kind with | .redscat => m | .allgather => m | _ => 1

/-- Chunks of a collective. -/
def chunkCount (kind : CollKind) (m : Nat) (par : List Word) : Nat := segments kind m * segChunks par

/-- The parameters pass the checks of 17 R371. -/
def collOk (kind : CollKind) (c : Comm) (par : List Word) : Bool :=
  match cty? (parBits par 5 23 20) with
  | none => false
  | some t =>
    let op := parBits par 5 19 18
    let root := parBits par 5 10 0
    1 ≤ (par.getD 4 0).toNat && op ≤ 2 && (t != .dxbp || op == 0) && parBits par 5 16 11 == 0 && parBits par 6 31 4 == 0 &&
      parBits par 6 3 0 ≤ 8 && par.getD 7 0 == 0 && (parPair par 0).toNat % t.size == 0 && (parPair par 2).toNat % t.size == 0 &&
      (if kind == .bcast || kind == .reduce then root < c.count else root == 0) && chunkCount kind c.count par ≤ 1048576

/-- COLL (17 R371, R372). -/
def execColl (kind : CollKind) (d : Option Opnd) (a b : Opnd) (s : State) : Ans :=
  issue (optGroup d ++ [(a, 8), (b, 2)]) false (fun c =>
    let par := blockAt c a
    let obj := srcS2 c b
    let n := collComm par
    match comm? c.st c.f.pid n with
    | none => fault c 0x19 0
    | some cm =>
      if !collOk kind cm par then fault c 0x19 0
      else if !objOk c.st c.f.pid c.f.core obj then faultAt c 0x19 0 obj
      else if 4 ≤ cm.colls.length then stall c .coll
      else if openFor c.f c.g.owned || flightOpen c.f then stall c .order
      else
        let o : CollOp :=
          { id := c.st.nextId, num := cm.collNo, kind := kind, par := par, obj := obj, fid := c.st.cur.1, gid := c.f.gid,
            launch := c.f.launch, core := c.f.core, sup := c.g.level != 0, pc := c.g.pc, seq := c.f.seqNo, stalls := [], begun := false,
            chunks := 0 }
        let c1 := enterNext (numbered c d)
        let s1 := modComm c1.st c.f.pid n fun cm =>
          { cm.joinedGone false o.num with colls := cm.colls ++ [o], collNo := cm.collNo + 1 }
        let s2 := openWork s1 o.id o.gid o.fid o.id (opObjs s1 c.f.pid o.core obj)
        let s3 := retireNext c { c1 with st := send s2 (.joined c.f.pid n o.num (some kind) par) }
        match cm.goneWith false o.num with
        | some status => dropColl s3 c.f.pid n o status
        | none => s3) s

/-! ### Chunks and marks (17 R362-R364) -/

/-- The Bridle engine acting for a collective. -/
def CollOp.agent (o : CollOp) (pid : Nat) : Agent := ⟨none, pid, o.core, o.sup⟩

/-- Cut a stretch into pieces of at most 4 KiB (17 R373). -/
def units (va : DWord) (n : Nat) : List (DWord × Nat) :=
  (List.range ((n + 4095) / 4096)).map fun k => (va + dw (4096 * k), min 4096 (n - 4096 * k))

/-- Where a chunk lies: its segment, its offset in the segment, and its bytes. -/
def chunkAt (par : List Word) (i : Nat) : Nat × Nat × Nat :=
  let off := i % segChunks par * chunkBytes par
  (i / segChunks par, off, min (chunkBytes par) (segBytes par - off))

/-- The address of a member's own source bytes of a chunk. -/
def chunkSrc (o : CollOp) (i : Nat) : DWord :=
  let (seg, off, _) := chunkAt o.par i
  parPair o.par 0 + dw ((if o.kind == .redscat then seg * segBytes o.par else 0) + off)

/-- The address of a chunk's destination bytes. -/
def chunkDst (o : CollOp) (i : Nat) : DWord :=
  let (seg, off, _) := chunkAt o.par i
  parPair o.par 2 + dw ((if o.kind == .allgather then seg * segBytes o.par else 0) + off)

/-- The ranks whose source bytes a chunk combines. -/
def chunkFrom (o : CollOp) (m i : Nat) : List Nat :=
  match o.kind with
  | .allgather => [(chunkAt o.par i).1]
  | .bcast => [parBits o.par 5 10 0]
  | _ => List.range m

/-- A rank writes a chunk's destination bytes. -/
def chunkTo (o : CollOp) (rank i : Nat) : Bool :=
  match o.kind with
  | .redscat => (chunkAt o.par i).1 == rank
  | .reduce => parBits o.par 5 10 0 == rank
  | _ => true

/-- A chunk's mark of a stage (17 R364). -/
def mark (s : State) (g : Agent) (marks : DWord) (i : Nat) (stage : Bool) : Nat :=
  match engRead s g (marks + dw (i / 2)) 1 with
  | (.got b, _) => bitsOf (natOfBytes b) (4 * (i % 2) + (if stage then 3 else 1)) (4 * (i % 2) + (if stage then 2 else 0))
  | _ => 0

/-- The agent that reads and writes marks: it acts at the issuing fragment's level (04 R94). -/
def markAgent (o : CollOp) (pid : Nat) : Agent := ⟨none, pid, o.core, o.sup⟩

/-- Set a chunk's mark of a stage. -/
def setMark (s : State) (g : Agent) (marks : DWord) (i : Nat) (stage : Bool) (v : Nat) : State :=
  let va := marks + dw (i / 2)
  let lo := 4 * (i % 2) + if stage then 2 else 0
  match engRead s g va 1 with
  | (.got b, s1) =>
    let x := natOfBytes b
    match engPut s1 g va (bytesOfNat 1 (x - bitsOf x (lo + 1) lo * 2 ^ lo + v * 2 ^ lo)) with
    | (.got ps, s2) => doPuts s2 ps
    | (_, s2) => s2
  | (_, s1) => s1

/-- Why a chunk's marks cannot be written, if they cannot: an access of a member that fails (17 R373). -/
def markStop (s : State) (g : Agent) (marks : DWord) (i : Nat) : Option (Nat × Nat × Acc × DWord) :=
  match engRead s g (marks + dw (i / 2)) 1 with
  | (.stop code kind a va, _) => some (code, kind, a, va)
  | (.got b, _) =>
    match engPut s g (marks + dw (i / 2)) b with
    | (.stop code kind a va, _) => some (code, kind, a, va)
    | _ => none

/-- Set both marks of some chunks to 0. -/
def clearMarks (s : State) (g : Agent) (marks : DWord) (is : List Nat) : State :=
  is.foldl (fun s i => setMark (setMark s g marks i false 0) g marks i true 0) s

/-- The tree that carries a chunk (17 R362, R365). -/
def chunkTree (c : Comm) (i : Nat) : Nat :=
  let k := if c.restart.contains i then c.restart.idxOf i else i
  k % c.running.length

/-- The elements of some bytes. -/
def elemsOfBytes (z : Nat) (b : List Byte) : List Nat := (List.range (b.length / z)).map fun k => fieldOf b (z * k) z

/-- Set the granules of scratch that some writes touch full (05 R131). -/
def fillTouched (s : State) (ps : List Put) : State :=
  ps.foldl (fun s p =>
    if isScratch p.key then
      (List.range ((p.key + p.bytes.length - 1) / 16 - p.key / 16 + 1)).foldl (fun s k => setFull s (p.key + 16 * k) true) s
    else s) s

/-- A chunk meets a condition (17 R373): a page fault is recorded and the chunk waits for a replay; anything else ends the
collective with status 3. -/
def haltChunk (s : State) (pid n : Nat) (o : CollOp) (i code kind : Nat) (a : Acc) (va : DWord) : State :=
  if code == 0x0B && frEnabled s pid then
    recordFaults (modComm s pid n fun c =>
      { c with colls := c.colls.map fun x => if x.id == o.id then { x with stalls := (i, va) :: x.stalls } else x })
      pid a o.sup [(va.toNat, kind)]
  else endColl (if code == 0x0A then send s (.isolation pid va) else s) pid n o 3

/-- Set the marks of some chunks of a collective to 0; where one cannot be written, its chunk halts. -/
def clearChunks (s : State) (pid n : Nat) (o : CollOp) (c : Comm) (is : List Nat) : State × Bool :=
  match is.findSome? fun i => (markStop s (markAgent o pid) c.marks i).map fun x => (i, x) with
  | some (i, code, kind, a, va) => (haltChunk s pid n o i code kind a va, false)
  | none => (clearMarks s (markAgent o pid) c.marks is, true)

/-- The collective starts: the trees are derived and its marks cleared (17 R360, R364); with the state, whether it could. -/
def beginColl (s : State) (pid n : Nat) (o : CollOp) (c : Comm) : State × Bool :=
  match clearChunks s pid n o c (List.range (chunkCount o.kind c.count o.par)) with
  | (s1, false) => (s1, false)
  | (s1, true) =>
    (modComm s1 pid n fun c =>
      let d := derive' s1 c
      { d with
        running := d.planes, restart := [], agree := false
        colls := c.colls.map fun x => if x.id == o.id then { x with begun := true } else x }, true)

/-! ### The stages of a chunk (17 R361, R363) -/

/-- Position `k` of a tree lies under position `j`, or is it. -/
def below (j : Nat) : Nat → Nat → Bool
  | 0, k => k == j
  | fuel + 1, k => k == j || (k != 0 && below j fuel ((k - 1) / 2))

/-- This member's position in the tree that carries a chunk. -/
def ownPosition (c : Comm) (i : Nat) : Nat := positionOf c.count (chunkTree c i) c.rank

/-- The ranks of a subtree of the tree that carries a chunk. -/
def subtree (c : Comm) (i j : Nat) : List Nat :=
  ((List.range c.count).filter fun k => below j c.count k).map (rankAt c.count (chunkTree c i))

/-- The collective's sums are exact ones (17 R367). -/
def CollOp.exactSums (o : CollOp) : Bool :=
  parBits o.par 5 17 17 == 1 && parBits o.par 5 19 18 == 0 && (cty? (parBits o.par 5 23 20)).any CTy.inexact &&
    match o.kind with | .allgather | .bcast => false | _ => true

/-- The ranks that a member sends a stage's value to: in stage 0 its parent, when its subtree has one to send; in stage 1 those of its
children under which a rank receives the result. -/
def sendsTo (o : CollOp) (c : Comm) (i : Nat) (stage : Bool) : List Nat :=
  let j := ownPosition c i
  if stage then
    ([2 * j + 1, 2 * j + 2].filter fun k => k < c.count && (subtree c i k).any fun r => chunkTo o r i).map
      (rankAt c.count (chunkTree c i))
  else if j != 0 && (subtree c i j).any fun r => (chunkFrom o c.count i).contains r then
    [rankAt c.count (chunkTree c i) ((j - 1) / 2)]
  else []

/-- The ranks whose elements a stage needs at this member: in stage 0 those of its subtree, or, where the pass for the exponent comes
first (17 R369), all; in stage 1, where it writes or forwards the result, all. -/
def stageNeeds (o : CollOp) (c : Comm) (i : Nat) (stage : Bool) : List Nat :=
  let all := chunkFrom o c.count i
  if stage then (if chunkTo o c.rank i || !(sendsTo o c i true).isEmpty then all else [])
  else if o.exactSums then all
  else all.filter fun r => (subtree c i (ownPosition c i)).contains r

/-- The peers' elements are those a stage needs at this member: its inputs have been received. -/
def peersOk (o : CollOp) (c : Comm) (i : Nat) (stage : Bool) (peers : List (Nat × List Nat)) : Bool :=
  match cty? (parBits o.par 5 23 20) with
  | none => false
  | some t =>
    let cnt := (chunkAt o.par i).2.2 / t.size
    (stageNeeds o c i stage).all fun r =>
      r == c.rank || (peers.find? fun x => x.1 == r).any fun x => x.2.length == cnt && x.2.all fun v => v < 2 ^ (8 * t.size)

/-- This member's own source bytes of a chunk, where the stage needs them. -/
def ownBytes (s : State) (pid : Nat) (o : CollOp) (c : Comm) (i : Nat) (stage : Bool) : Got (List Byte) × State :=
  if (stageNeeds o c i stage).contains c.rank then
    match engReads s (o.agent pid) (units (chunkSrc o i) (chunkAt o.par i).2.2) with
    | (.got bs, s1) => (.got bs.flatten, s1)
    | (.stop code kind a va, s1) => (.stop code kind a va, s1)
  else (.got [], s)

/-- The members' elements of a chunk, by rank. -/
def elemsBy (c : Comm) (z : Nat) (mine : List Byte) (peers : List (Nat × List Nat)) (r : Nat) : List Nat :=
  if r == c.rank then elemsOfBytes z mine else (peers.find? fun x => x.1 == r).elim [] (·.2)

/-- The result of a chunk from the members' elements, by rank. -/
def chunkVals (o : CollOp) (c : Comm) (i : Nat) (elems : Nat → List Nat) (t : CTy) : List Nat :=
  if o.kind == .allgather || o.kind == .bcast then elems ((chunkFrom o c.count i).headD 0)
  else (List.range ((chunkAt o.par i).2.2 / t.size)).map fun k =>
    reduceElem t (parBits o.par 5 19 18) (parBits o.par 5 17 17 == 1) c.count (chunkTree c i) fun r => (elems r).getD k 0

/-- The bytes of a chunk's result. -/
def chunkResult (o : CollOp) (c : Comm) (i : Nat) (elems : Nat → List Nat) (t : CTy) : List Byte :=
  ((chunkVals o c i elems t).map (bytesOfNat t.size)).flatten

/-- What this member sends in a stage: in stage 0 of a reduction the value of its subtree, else the result or the owner's bytes. -/
def stageVals (o : CollOp) (c : Comm) (i : Nat) (stage : Bool) (elems : Nat → List Nat) (t : CTy) : List Int :=
  if stage || o.kind == .allgather || o.kind == .bcast then (chunkVals o c i elems t).map Int.ofNat
  else (List.range ((chunkAt o.par i).2.2 / t.size)).map fun k =>
    subtreeElem t (parBits o.par 5 19 18) (parBits o.par 5 17 17 == 1) c.count (chunkTree c i) (ownPosition c i)
      (subtree c i (ownPosition c i)) fun r => (elems r).getD k 0

/-- Send a stage's value on, unless the chunk's mark says that it has been (17 R364). -/
def forwardChunk (s : State) (pid n : Nat) (o : CollOp) (c : Comm) (i : Nat) (stage : Bool) (elems : Nat → List Nat) (t : CTy) : State :=
  if 2 ≤ mark s (markAgent o pid) c.marks i stage || (sendsTo o c i stage).isEmpty then s
  else send s (.chunk pid n i stage (chunkTree c i) (sendsTo o c i stage) (stageVals o c i stage elems t))

/-- The own source bytes that a chunk's result is made from at this member, element by element where it reduces (17 R372). -/
def chunkSources (s : State) (pid : Nat) (o : CollOp) (c : Comm) (i : Nat) : List Source :=
  let unit := if o.kind == .allgather || o.kind == .bcast then 1 else (cty? (parBits o.par 5 23 20)).elim 1 CTy.size
  if (chunkFrom o c.count i).contains c.rank then
    ((units (chunkSrc o i) (chunkAt o.par i).2.2).map fun u => sources s (o.agent pid) unit (u.1 - chunkSrc o i).toNat u).flatten
  else []

/-- What the result of a chunk writes at this member, with the own source bytes that each write was made from. -/
def chunkPuts (s : State) (pid : Nat) (o : CollOp) (c : Comm) (i : Nat) (out : List Byte) : Got (List Put) × State :=
  let dst := chunkDst o i
  match engPuts s (o.agent pid) ((units dst (chunkAt o.par i).2.2).map fun u => (u.1, (out.drop (u.1 - dst).toNat).take u.2)) with
  | (.stop code kind a va, s1) => (.stop code kind a va, s1)
  | (.got ps, s1) => (.got (ps.map fun p => p.from dst (chunkSources s1 pid o c i)), s1)

/-- A chunk's stage is complete at this member. -/
def stageDone (s : State) (pid n : Nat) (o : CollOp) (c : Comm) (i : Nat) (stage : Bool) : State :=
  let s1 := setMark s (markAgent o pid) c.marks i stage 3
  if stage then
    modComm s1 pid n fun c => { c with colls := c.colls.map fun x => if x.id == o.id then { x with chunks := x.chunks + 1 } else x }
  else s1

/-- Stage 0 of a chunk completes at this member: the value of its subtree has gone to its parent. -/
def stage0 (s : State) (pid n : Nat) (o : CollOp) (c : Comm) (i : Nat) (peers : List (Nat × List Nat)) (t : CTy) : State :=
  match ownBytes s pid o c i false with
  | (.stop code kind a va, s1) => haltChunk s1 pid n o i code kind a va
  | (.got bs, s1) => stageDone (forwardChunk s1 pid n o c i false (elemsBy c t.size bs peers) t) pid n o c i false

/-- Stage 1 of a chunk completes at this member: the result has gone to its children and, where it writes, stands in its destination. -/
def stage1 (s : State) (pid n : Nat) (o : CollOp) (c : Comm) (i : Nat) (peers : List (Nat × List Nat)) (t : CTy) : State :=
  match ownBytes s pid o c i true with
  | (.stop code kind a va, s1) => haltChunk s1 pid n o i code kind a va
  | (.got bs, s1) =>
    let elems := elemsBy c t.size bs peers
    let s2 := forwardChunk s1 pid n o c i true elems t
    if !chunkTo o c.rank i then stageDone s2 pid n o c i true
    else
      match chunkPuts s2 pid o c i (chunkResult o c i elems t) with
      | (.stop code kind a va, s3) => haltChunk s3 pid n o i code kind a va
      | (.got ps, s3) =>
        match badPut s3 ps with
        | some p => haltChunk s3 pid n o i 0x04 0 .write p.va
        | none => stageDone (fillTouched (workPuts s3 o.id ps) ps) pid n o c i true

/-- Every chunk is complete at this member: the collective ends with its arrival (17 R372), but for one in agreement, which may have to
restart chunks that are not complete elsewhere (R365). -/
def endIfDone (s : State) (pid n : Nat) (o : CollOp) : State :=
  match comm? s pid n with
  | none => s
  | some c =>
    if !c.agree && c.colls.any (fun x => x.id == o.id) && (List.range (chunkCount o.kind c.count o.par)).all fun i =>
        mark s (markAgent o pid) c.marks i false == 3 && mark s (markAgent o pid) c.marks i true == 3 then
      let s1 := modComm s pid n fun c => { c with colls := c.colls.filter fun x => x.id != o.id, restart := [] }
      arriveObj (endWork s1 o.id) o.fid pid o.launch o.core o.obj o.pc o.seq
    else s

/-- A transfer of a stage of a chunk is under way: its inputs have been received and it has not finished. Where the collective is in
agreement, one on a tree that has lost a link is not (17 R365). -/
def underWay (s : State) (pid : Nat) (o : CollOp) (c : Comm) (i : Nat) (stage : Bool) : Bool :=
  let m := mark s (markAgent o pid) c.marks i stage
  (m == 1 || m == 2) && !(o.stalls.any fun x => x.1 == i) &&
    (!c.agree || c.running[chunkTree c i]?.any (planeUsable s c.packages))

/-- The oldest collective of a communicator stands at a chunk boundary: no transfer of its own is under way (17 R365, R374). -/
def atBoundary (s : State) (pid : Nat) (c : Comm) : Bool :=
  match c.colls with
  | o :: _ =>
    !o.begun || (List.range (chunkCount o.kind c.count o.par)).all fun i => !underWay s pid o c i false && !underWay s pid o c i true
  | [] => true

/-- A step of a chunk's stage of the oldest collective, which begins the collective where it must, and ends it where no tree is left. In
agreement nothing new starts, and what is under way on a live tree finishes (17 R365). -/
def onChunk (pid comm chunk : Nat) (stage : Bool) (s : State) (act : State → CollOp → Comm → CTy → State) : State :=
  match comm? s pid comm with
  | none => s
  | some c0 =>
    match c0.colls, cty? (parBits ((c0.colls.head?).elim [] (·.par)) 5 23 20) with
    | o :: _, some t =>
      if !unitRuns s pid o.gid .bridle || (c0.agree && !underWay s pid o c0 chunk stage) ||
          o.stalls.any (fun x => x.1 == chunk) || chunkCount o.kind c0.count o.par ≤ chunk
      then s
      else
        match if o.begun then (s, true) else beginColl s pid comm o c0 with
        | (s1, false) => s1
        | (s1, true) =>
          match comm? s1 pid comm with
          | none => s
          | some c =>
            if c.running.isEmpty then endColl s1 pid comm o 2
            else
              match markStop s1 (markAgent o pid) c.marks chunk with
              | some (code, kind, a, va) => haltChunk s1 pid comm o chunk code kind a va
              | none => act s1 o c t
    | _, _ => s

/-- A stage of a chunk may go on: stage 1 comes after stage 0, and its inputs have been received. -/
def stageOpen (s : State) (pid : Nat) (o : CollOp) (c : Comm) (i : Nat) (stage : Bool) (peers : List (Nat × List Nat)) : Bool :=
  mark s (markAgent o pid) c.marks i stage != 3 && (!stage || mark s (markAgent o pid) c.marks i false == 3) && peersOk o c i stage peers

/-- COLL_CHUNK_STAGE (17 R363): a chunk of the oldest collective completes a stage at this member. -/
def execCollChunkStage (pid comm chunk : Nat) (stage : Bool) (peers : List (Nat × List Nat)) (s : State) : Ans :=
  .next (onChunk pid comm chunk stage s fun s o c t =>
    if !stageOpen s pid o c chunk stage peers then s
    else endIfDone (if stage then stage1 s pid comm o c chunk peers t else stage0 s pid comm o c chunk peers t) pid comm o)

/-- A chunk's stage goes a step on (17 R364): its inputs have been received (mark 1), or its value has been sent on (mark 2). -/
def chunkStep (pid comm chunk : Nat) (stage : Bool) (peers : List (Nat × List Nat)) (s : State) : State :=
  onChunk pid comm chunk stage s fun s o c t =>
    let g := markAgent o pid
    if !stageOpen s pid o c chunk stage peers then s
    else
      match mark s g c.marks chunk stage with
      | 0 => setMark s g c.marks chunk stage 1
      | 1 =>
        (match ownBytes s pid o c chunk stage with
        | (.stop code kind a va, s1) => haltChunk s1 pid comm o chunk code kind a va
        | (.got bs, s1) => setMark (forwardChunk s1 pid comm o c chunk stage (elemsBy c t.size bs peers) t) g c.marks chunk stage 2)
      | _ => s

/-- The chunks of a collective that are complete at this member. -/
def chunksDone (s : State) (pid : Nat) (o : CollOp) (c : Comm) : List Nat :=
  (List.range (chunkCount o.kind c.count o.par)).filter fun i => mark s (markAgent o pid) c.marks i true == 3

/-- A gang's collective goes on after its restoration: each incomplete chunk restarts from its stage 0 (17 R374). -/
def resumeColls (s : State) (gid : Nat) : State :=
  s.comms.foldl (fun s x =>
    match x.2.colls with
    | o :: _ =>
      if o.gid == gid && o.begun then
        let pid := x.1 / 256
        (clearChunks s pid (x.1 % 256) o x.2 ((List.range (chunkCount o.kind x.2.count o.par)).filter fun i =>
          !(chunksDone s pid o x.2).contains i)).1
      else s
    | [] => s) s

/-! ### CBAR (17 R375) -/

/-- Some link of the pod is down in the live table. -/
def linksDown (s : State) : Bool := s.links.any fun l => !l.2.1

/-- CBAR. -/
def execCbar (d : Option Opnd) (a b : Opnd) (s : State) : Ans :=
  issue (optGroup d ++ [(a, 1), (b, 2)]) false (fun c =>
    let n := (srcS c a).toNat
    let obj := srcS2 c b
    match if 256 ≤ n then none else comm? c.st c.f.pid n with
    | none => fault c 0x19 0
    | some cm =>
    if !objOk c.st c.f.pid c.f.core obj then faultAt c 0x19 0 obj
    else if openFor c.f c.g.owned then stall c .order
    else
      let o : CbarOp :=
        { id := c.st.nextId, num := cm.cbarNo, obj := obj, fid := c.st.cur.1, gid := c.f.gid, launch := c.f.launch, core := c.f.core,
          pc := c.g.pc, seq := c.f.seqNo, agree := linksDown c.st }
      let c1 := numbered c d
      let s1 := modComm c1.st c.f.pid n fun cm =>
        { cm.joinedGone true o.num with cbars := cm.cbars ++ [o], cbarNo := cm.cbarNo + 1 }
      let s2 := retireNext c { c1 with st := send s1 (.joined c.f.pid n o.num none []) }
      match cm.goneWith true o.num with
      | some status => dropCbar s2 c.f.pid n o status
      | none => s2) s

/-- The gang is saved: its scratch, and so its objects, may be another's until its restoration (05 R106). -/
def savedGang (s : State) (gid : Nat) : Bool := (mget? s.gangs gid).elim false fun g => g.state == .saved

/-- CBAR_INSTANCE_DONE (17 R375): every member has joined the oldest instance. With links down it waits for an agreement (R376), and
while its gang is saved for the restoration (R374). -/
def execCbarInstanceDone (pid comm : Nat) (s : State) : Ans :=
  match comm? s pid comm with
  | none => .next s
  | some c =>
    match c.cbars with
    | [] => .next s
    | o :: r =>
      if frozen s pid || savedGang s o.gid || o.agree then .next s
      else
        .next (arriveObj (modComm s pid comm fun c => { c with cbars := r }) o.fid pid o.launch o.core o.obj o.pc o.seq)

/-! ### CPUT (17 R377-R379) -/

/-- The communicator of a put. -/
def putComm (par : List Word) : Nat := parBits par 5 18 11

/-- A window address names a core by its own number. -/
def namesCore (va : DWord) : Bool := inWindow va && va.toNat / 2 ^ 22 % 256 != 63

/-- The parameters of a put pass their checks (17 R377). -/
def putOk (c : Comm) (par : List Word) : Bool :=
  let n := (par.getD 4 0).toNat
  (parPair par 0).toNat % 16 == 0 && (parPair par 2).toNat % 16 == 0 && n % 16 == 0 && 16 ≤ n && n ≤ 16777216 &&
  parBits par 5 31 20 == 0 && parBits par 5 10 0 < c.count && namesCore (parPair par 6) &&
  (!inWindow (parPair par 2) || namesCore (parPair par 2))

/-- Read a put's source and send it (17 R377): a page fault stalls it, anything else ends it. -/
def sendPut (s : State) (pid n : Nat) (c : Comm) (o : PutOp) : State :=
  match engReads s ⟨none, pid, o.core, o.sup⟩ (units (parPair o.par 0) (o.par.getD 4 0).toNat) with
  | (.stop code kind a va, s1) =>
    if code == 0x0B && frEnabled s1 pid then
      recordFaults (modComm s1 pid n fun c =>
        { c with puts := c.puts.map fun x => if x.id == o.id then { x with stall := some va } else x }) pid a o.sup [(va.toNat, kind)]
    else endPut (if code == 0x0A then send s1 (.isolation pid va) else s1) pid n o 3
  | (.got bs, s1) =>
    let rank := parBits o.par 5 10 0
    let p : RemotePut :=
      { pid := (c.members.getD rank (0, 0)).2, rdst := parPair o.par 2, robj := parPair o.par 6, data := bs.flatten,
        nofe := parBits o.par 5 19 19 == 1 }
    send (modComm s1 pid n fun c =>
      { c with puts := c.puts.map fun x => if x.id == o.id then { x with sent := true, stall := none } else x }) (.put rank p)

/-- The communicators of a partition, by number. -/
def commsOf (s : State) (pid : Nat) : List (Nat × Comm) := (s.comms.filter fun c => c.1 / 256 == pid).map fun c => (c.1 % 256, c.2)

/-- The package that a put goes to. -/
def Comm.putPackage (c : Comm) (o : PutOp) : Nat := (c.members.getD (parBits o.par 5 10 0) (0, 0)).1

/-- An earlier put of the same fragment to the same package has not been sent: this one's update must not overtake its data (17 R379). -/
def putWaits (s : State) (pid : Nat) (c : Comm) (o : PutOp) : Bool :=
  (commsOf s pid).any fun x => x.2.puts.any fun y =>
    y.id < o.id && !y.sent && y.fid == o.fid && y.frag == o.frag && x.2.putPackage y == c.putPackage o

/-- Send the puts of a partition that wait for no replay and no earlier put, in the order of their issue, but for those of a gang that the
engine has stopped for (19 R407). -/
def sendPuts (s : State) (pid : Nat) : State :=
  let all := sortBy (·.2) ((commsOf s pid).map fun x => x.2.puts.map fun o => (x.1, o.id)).flatten
  all.foldl (fun s x =>
    match comm? s pid x.1 with
    | none => s
    | some c =>
      match c.puts.find? fun o => o.id == x.2 with
      | some o =>
        if o.sent || o.stall.isSome || putWaits s pid c o || !unitRuns s pid o.gid .bridle then s else sendPut s pid x.1 c o
      | none => s) s

/-- What a fail command has named while its engine was stopped for it ends, once the engine goes on (04 R92, 05 R137, 17 R373). -/
def failDoomed (s : State) (pid : Nat) : State :=
  let s1 := (s.engines.map fun e => (e.2.cmds.filter fun c => c.pid == pid && c.doomed).map fun c => (e.1, c)).flatten.foldl (fun s x =>
    if unitRuns s pid x.2.gid .copy then stopCmd s x.1 x.2 0x0B (x.2.stall.getD 0) else s) s
  (commsOf s1 pid).foldl (fun s x =>
    let s2 := (x.2.colls.filter (·.doomed)).foldl (fun s o => if unitRuns s pid o.gid .bridle then endColl s pid x.1 o 3 else s) s
    (x.2.puts.filter (·.doomed)).foldl (fun s o => if unitRuns s pid o.gid .bridle then endPut s pid x.1 o 3 else s) s2) s1

/-- The engines of a partition take up what waits for no replay: failed operations end and puts are sent. -/
def takeUp (s : State) (pid : Nat) : State := sendPuts (failDoomed s pid) pid

/-- CPUT. -/
def execCput (d : Option Opnd) (a b : Opnd) (s : State) : Ans :=
  issue (optGroup d ++ [(a, 8), (b, 2)]) false (fun c =>
    let par := blockAt c a
    let obj := srcS2 c b
    let n := putComm par
    match comm? c.st c.f.pid n with
    | none => fault c 0x19 0
    | some cm0 =>
      if !putOk cm0 par then fault c 0x19 0
      else if !objOk c.st c.f.pid c.f.core obj then faultAt c 0x19 0 obj
      else if openFor c.f c.g.owned || flightOpen c.f then stall c .order
      else
        let cm := derivedOnce c.st cm0
        let o : PutOp :=
          { id := c.st.nextId, frag := c.g.num, par := par, obj := obj, fid := c.st.cur.1, gid := c.f.gid, launch := c.f.launch,
            core := c.f.core, sup := c.g.level != 0, pc := c.g.pc, seq := c.f.seqNo, sent := false, stall := none }
        let c1 := enterNext (numbered c d)
        let s0 := openWork c1.st o.id o.gid o.fid o.id (opObjs c1.st c.f.pid o.core obj)
        let s1 := retireNext c { c1 with st := modComm s0 c.f.pid n fun _ => { cm with puts := cm.puts ++ [o] } }
        if cm.planes.isEmpty then endPut s1 c.f.pid n o 2
        else if putWaits s1 c.f.pid cm o || !unitRuns s1 c.f.pid o.gid .bridle then s1
        else sendPut s1 c.f.pid n cm o) s

/-- Write a put's bytes at its destination, one unit after another, up to the first that fails (17 R378). -/
def landPut (s : State) (g : Agent) (nofe : Bool) : List (DWord × List Byte) → State × Bool
  | [] => (s, true)
  | (va, bs) :: r =>
    match engPut s g va bs with
    | (.stop code _ _ va, s1) => (if code == 0x0A then send s1 (.isolation g.pid va) else s1, false)
    | (.got ps, s1) =>
      if (badPut s1 ps).isSome then (s1, false)
      else
        let s2 := doPuts s1 ps
        landPut (if nofe then s2 else fillTouched s2 ps) g nofe r

/-- CPUT_REMOTE_ARRIVAL (17 R378): one for a partition that does not exist is refused like one for a core that it has not. -/
def execCputRemoteArrival (p : RemotePut) (s : State) : Ans :=
  if frozen s p.pid then .next s
  else
    let key := if !namesCore p.robj || p.robj.toNat % 16 != 0 then none else windowKey s p.pid 0 p.robj
    match key with
    | none => .next (send s (.ack false 3))
    | some k =>
      let core := p.robj.toNat / 2 ^ 30 % 4 * 48 + p.robj.toNat / 2 ^ 22 % 256
      let ws := (units p.rdst p.data.length).map fun u => (u.1, (p.data.drop (u.1 - p.rdst).toNat).take u.2)
      match landPut s ⟨none, p.pid, core, false⟩ p.nofe ws with
      | (s1, false) => .next (send s1 (.ack false 3))
      | (s1, true) =>
        if poisonedIn s1 k 16 then .next (send s1 (.ack false 3))
        else
          let r := boUpdate (racedObj s1 none k) k p.data.length p.data.length 1
          if r.fails then .next (send (boSet r.state k 2) (.ack false 5))
          else .next (send (lateFirings r.state r.late) (.ack true 0))

/-- CPUT_ACK (17 R378); that of a saved gang's put waits for the restoration. -/
def execCputAck (pid comm id : Nat) (ok : Bool) (status : Nat) (s : State) : Ans :=
  match (comm? s pid comm).bind fun c => c.puts.find? fun o => o.id == id with
  | none => .next s
  | some o =>
    if !o.sent || frozen s pid || savedGang s o.gid then .next s
    else if ok then
      .next (arriveObj (endWork (modComm s pid comm fun c => { c with puts := c.puts.filter fun x => x.id != id }) id) o.fid pid o.launch
        o.core o.obj o.pc o.seq)
    else .next (endPut s pid comm o status)

/-! ### CTREE (17 R380) -/

/-- The answer of a query. -/
def treeQuery (q : TreeQuery) (c : Comm) (t : Nat) : Word :=
  let m := c.count
  match q with
  | .count => w32 c.planes.length
  | .version => c.derived.elim 0 (·.2)
  | .plane => (c.planes[t]?).elim 0xFFFF_FFFF w32
  | .parent =>
    let j := positionOf m t c.rank
    if c.planes.length ≤ t || j == 0 then 0xFFFF_FFFF else w32 (rankAt m t ((j - 1) / 2))

/-- CTREE. -/
def execCtree (q : TreeQuery) (d a b : Opnd) (s : State) : Ans :=
  issue [(d, 1), (a, 1), (b, 1)] false (fun c =>
    let n := (srcS c a).toNat
    match if 256 ≤ n then none else comm? c.st c.f.pid n with
    | none => fault c 0x19 0
    | some cm0 =>
      let cm := derivedOnce c.st cm0
      retireNext c (putS { c with st := modComm c.st c.f.pid n fun _ => cm } d (treeQuery q cm (srcS c b).toNat))) s

/-! ### Links and agreement (17 R357, R365, R366) -/

/-- A tree of the running collective uses a link (17 R365). -/
def usesLink (c : Comm) : LinkId → Bool
  | .pkg n p => c.running.contains p && c.packages.contains n
  | .trunk p l _ _ => c.running.contains p && 1 < (leavesOf c.packages).length && (leavesOf c.packages).contains l

/-- Running collectives whose trees use a link that has changed stop and enter agreement (17 R365); barrier instances that are open while
a link is down wait for one (R376). -/
def disturb (s : State) (l : LinkId) : State :=
  { s with comms := mmap s.comms fun _ c =>
      { c with
        agree := c.agree || ((c.colls.any (·.begun)) && usesLink c l)
        cbars := c.cbars.map fun o => { o with agree := o.agree || linksDown s } } }

/-- Apply a message and disturb what it bears on. -/
def linkMessage (s : State) (l : LinkId) (up : Bool) (seq : BitVec 16) : State :=
  let s1 := applyLink s l up seq
  if linkUp s1 l != linkUp s l then disturb s1 l else s1

/-- LINK_STATE_CHANGE (17 R357): this package owns its package links. -/
def execLinkStateChange (l : LinkId) (up : Bool) (s : State) : Ans :=
  let (old, seq) := linkState s l
  if !ownLink s l || old == up then .next s
  else
    let s1 := { s with links := setLink s.links l up (seq + 1) }
    .next (send (disturb s1 l) (.link l up (seq + 1)))

/-- LINK_STATE_MESSAGE (17 R357). -/
def execLinkStateMessage (l : LinkId) (up : Bool) (seq : BitVec 16) (s : State) : Ans := .next (linkMessage s l up seq)

/-- The communicator is in agreement: its running collective, or some barrier instance. -/
def Comm.agreeing (c : Comm) : Bool := c.agree || c.cbars.any (·.agree)

/-- What this member tells the others in an exchange (17 R366). -/
def exchangeMsg (s : State) (pid n : Nat) (c : Comm) : Msg :=
  .exchange pid n (linkVersion s) s.links (match c.colls with | o :: _ => chunksDone s pid o c | [] => [])

/-- An agreement has ended without a usable plane (17 R366): what was in it ends with status 2. -/
def endAgreed (s : State) (pid n : Nat) (c : Comm) : State :=
  let s1 := match c.agree, c.colls with
    | true, o :: _ => endColl s pid n o 2
    | _, _ => s
  (c.cbars.filter (·.agree)).foldl (fun s o => endCbar s pid n o 2) s1

/-- An agreement has ended with usable planes: the disturbed collective travels on the new trees and restarts every chunk that is not
complete at every member (17 R365); one that was not disturbed keeps its trees. -/
def agreed (s : State) (pid n : Nat) (c : Comm) (peersDone : List Nat) : State :=
  let calm (x : Comm) : Comm := { x with agree := false, cbars := x.cbars.map fun o => { o with agree := false } }
  match c.agree, c.colls with
  | true, o :: _ =>
    let done := (chunksDone s pid o c).filter peersDone.contains
    let left := (List.range (chunkCount o.kind c.count o.par)).filter fun i => !done.contains i
    (match clearChunks s pid n o c left with
    | (s1, false) => s1
    | (s1, true) =>
      let s2 := modComm s1 pid n fun x =>
        { calm x with
          running := c.planes, restart := left
          colls := x.colls.map fun y => if y.id == o.id then { y with chunks := done.length } else y }
      endIfDone s2 pid n o)
  | _, _ => modComm s pid n calm

/-- The exchange tells a version of every other member (17 R366). -/
def wholeExchange (x : Exchange) (c : Comm) : Bool := x.vers.length + 1 == c.count

/-- AGREEMENT (17 R365, R366): an exchange, in which the messages are applied; it repeats until every member holds the same version, from
which the trees are then derived (R360). It waits for the transfers that are under way on live trees. -/
def execAgreement (pid comm : Nat) (x : Exchange) (peersDone : List Nat) (s : State) : Ans :=
  match comm? s pid comm with
  | none => .next s
  | some c0 =>
    if !c0.agreeing || frozen s pid || (c0.agree && (!atBoundary s pid c0 || c0.colls.head?.any fun o => !unitRuns s pid o.gid .bridle))
    then .next s
    else
      let s1 := x.msgs.foldl (fun s m => linkMessage s m.1 m.2.1 m.2.2) s
      match comm? s1 pid comm with
      | none => .next s1
      | some c1 =>
        let s2 := send s1 (exchangeMsg s1 pid comm c1)
        if !wholeExchange x c1 || x.vers.any (· != linkVersion s1) then .next s2
        else
          let c := derive' s2 c1
          let s3 := modComm s2 pid comm fun _ => c
          .next (if c.planes.isEmpty then endAgreed s3 pid comm c else agreed s3 pid comm c peersDone)

/-- Another member's end may be one that a member of this communicator can tell: one with status 1 comes from descriptors that differ, in
which the rank and the count may too (17 R358). -/
def endFits (peer : PeerEnd) (c : Comm) : Bool :=
  peer.status == 1 || (peer.rank < c.count && peer.rank != c.rank && 2 ≤ peer.status && peer.status ≤ 5)

/-- MEMBER_LEFT (17 R359, R373): another member has left, or has ended one instance, with a status. -/
def execMemberLeft (pid comm : Nat) (peer : PeerEnd) (s : State) : Ans :=
  match comm? s pid comm with
  | some c =>
    .next (
      if endFits peer c && !frozen s pid then
        peerEnd s pid comm peer.status peer.one
      else s)
  | none => .next s

end Sys2Proof.Machine
end

