-- ==== Sys2Proof/Machine/Placement.lean ====
section
/-!
DEFINITION. The dispatchers (15 R314-R319, 16 R348, R349): what a quad holds, the start of a gang's flights (06 R145), the
handing over and placing of gangs, and their retirement.
-/
namespace Sys2Proof.Machine

/-! ### What fits -/

/-- A reservation at an offset of a rank's slice meets one that stands there; a saved gang has given its own up (log 21). -/
def scratchClash (s : State) (die quad rank off size : Nat) : Bool :=
  (gangsOn s die quad rank).any fun g => g.state != .saved && off < g.offset + g.scratch && g.offset < off + size

/-- A gang's reservations fit at an offset (05 R106). -/
def offsetFits (s : State) (d : Desc) (die quad off : Nat) : Bool :=
  off + d.reservation ≤ Config.sliceBytes && (List.range d.nblock).all fun r => !scratchClash s die quad r off d.reservation

/-- The lowest common offset at which a gang's reservations fit (05 R106). -/
def lowestOffset (s : State) (d : Desc) (die quad : Nat) : Option Nat :=
  let ends := (s.gangs.filter fun x => x.2.die == die && x.2.quad == quad && x.2.state != .saved).map fun x => x.2.offset + x.2.scratch
  (sortBy id (0 :: ends)).find? fun o => offsetFits s d die quad o

/-- A quad's slots have granules and flights for a gang (06 R143, 15 R316). -/
def slotsFit (s : State) (d : Desc) (die quad : Nat) : Bool :=
  (List.range d.nblock).all fun r => (List.range 4).all fun k =>
    granulesUsed s die quad r k + d.granules k ≤ Config.slotGranules &&
      (slotFlightsOf s (rankCore die quad r) k).length + d.onSlot k ≤ Config.slotFlights

/-- A gang fits on a quad (15 R316): the offset of its reservations. -/
def fitsQuad (s : State) (pid : Nat) (d : Desc) (die quad : Nat) : Option Nat :=
  if quadOwned s pid d die quad && slotsFit s d die quad &&
      (List.range d.nblock).all fun r => d.tiles ≤ (freeTiles s (rankCore die quad r)).length then
    lowestOffset s d die quad
  else none

/-- The lowest quad of a die on which a gang fits, with the offset. -/
def fitsDie (s : State) (pid : Nat) (d : Desc) (die : Nat) : Option (Nat × Nat) :=
  (List.range 12).findSome? fun q => (fitsQuad s pid d die q).map fun o => (q, o)

/-- Gangs that a die's free slot capacity holds (16 R348). -/
def slotRoom (s : State) (pid : Nat) (d : Desc) (die : Nat) : Nat :=
  ((List.range 12).map fun q =>
    if !quadOwned s pid d die q then 0
    else
      ((List.range d.nblock).map fun r => ((List.range 4).map fun k =>
        min (goesInto (d.granules k) (Config.slotGranules - granulesUsed s die q r k))
          (goesInto (d.onSlot k) (Config.slotFlights - (slotFlightsOf s (rankCore die q r) k).length))).foldl min (2 ^ 60)).foldl
            min (2 ^ 60)).sum

/-- Free granules in a die's slots. -/
def freeGranules (s : State) (die : Nat) : Nat :=
  ((List.range 12).map fun q => ((List.range 4).map fun r => ((List.range 4).map fun k =>
    Config.slotGranules - granulesUsed s die q r k).sum).sum).sum

/-- The die with the most free granules among some, the lowest among equals (16 R348). -/
def roomiest (s : State) (ds : List Nat) : Option Nat := leastBy (fun d => 2 ^ 20 - freeGranules s d) ds

/-! ### The start of a gang (06 R145, 15 R315, R316) -/

/-- The points that the lanes of a flight receive, lane 0 first (15 R314). -/
def flightPoints (d : Desc) (ext : List Nat) (n0 : Nat) : List (Option (List Nat × Nat)) :=
  if d.sym then
    let es := group ext d.gens
    let cs := canonPoints ext es
    (List.range 96).map fun l => cs[n0 + l]?.map fun k => (pointOfLinear ext k, orbitSize ext es (pointOfLinear ext k))
  else (List.range 96).map fun l => issuedPoint d ext (n0 + l)

/-- The rows IDX0, IDX1, IDX2 and ORBIT of a flight (15 R315). -/
def pointRows (ps : List (Option (List Nat × Nat))) : List Row :=
  ((List.range 3).map fun k => ps.map fun p => p.elim 0xFFFF_FFFF fun x => w32 (x.1.getD k 0)) ++
    [ps.map fun p => p.elim 0 fun x => w32 x.2]

/-- The lowest position of a slot that no resident flight has (20 R437). -/
def freePos (s : State) (core slot : Nat) : Nat :=
  ((List.range 12).find? fun k => !((slotFlightsOf s core slot).any fun f => f.pos == k)).getD 0

/-- A flight at its start (06 R145). -/
def startFlight (s : State) (l : Launch) (d : Desc) (gid num die quad off rank idx : Nat) : Flight :=
  let core := rankCore die quad rank
  let ps := flightPoints d l.ext (num * d.lanes + (rank * d.nflight + idx) * 96)
  let em := lanesOf fun k => (ps.getD k none).isSome
  let p := part? s l.pid
  let g : Fragment :=
    { num := 0, owned := allLanes, em := em, pc := d.entry, region := 0, rpc := d.entry, rmask := em, level := 0, wait := .run,
      halted := false, stopped := false, regionStop := false, skip := false, ready := s.cycle, last := none, run := 0,
      aged := false }
  { gid := gid, pid := l.pid, launch := l.id, rank := rank, idx := idx, core := core, slot := idx % 4,
    pos := freePos s core (idx % 4), frags := [g], exited := 0, vregs := d.vregs,
    s := mput 0 [] 91 (w32 (die * 2 ^ 30 + rankCore die quad 0 % 48 * 2 ^ 22 + off)), v := [], tokens := [], pend := [],
    mops := [], seqNo := 0, fpmode := 0, lflags := [], clkhi := 0, lseq := [], pts := pointRows ps, t1 := TrapSet.start,
    t2 := TrapSet.start, tvec := p.elim 0 (·.desc.vector), bp := p.elim false (·.desc.bp), sq := [], psets := [], afq := [],
    afMore := false, timer := false, haltq := [], lpr := [], slpr := none, dirty := [], asyncR := [], issued := 0,
    dblFlt := none, refused := [] }

/-- A stretch of scratch becomes a new reservation: its granules are empty and its bytes undefined (05 R107). -/
def newReservation (s : State) (core off size : Nat) : State :=
  if size == 0 then s
  else
    let a := scratchKey core off
    forget { s with full := s.full.filter fun k => k * 16 < a || a + size ≤ k * 16 } a (a + size)

/-- Set tiles aside for a block (09 R228). -/
def setAside (s : State) (gid rank core n : Nat) : State :=
  ((freeTiles s core).take n).foldl (fun s t => modTile s t fun tl => { tl with aside := some (gid, rank) }) s

/-- Start the flights of a block. -/
def startBlock (s : State) (l : Launch) (d : Desc) (gid num die quad off rank : Nat) : State :=
  let core := rankCore die quad rank
  let s1 := dropCache (setAside (newReservation s core off d.reservation) gid rank core d.tiles) core
  (List.range d.nflight).foldl (fun s idx =>
    { s with
      nextId := s.nextId + 1
      flights := mset s.flights s.nextId (startFlight s l d gid num die quad off rank idx) }) s1

/-- Place gang `num` of a launch on a quad (15 R316, 16 R351). -/
def placeGang (s : State) (l : Launch) (d : Desc) (num die quad off : Nat) : State :=
  let gid := s.nextId
  let g : Gang :=
    { pid := l.pid, launch := l.id, num := num, die := die, quad := quad, offset := off, scratch := d.reservation,
      tiles := d.tiles, nflight := d.nflight, nblock := d.nblock, state := .running, why := 0, acks := [], deadline := none,
      held := false, engStop := false, pmaxAt := [], bars := [], pools := [], order := gid, ran := 0, started := s.cycle, savedT := [] }
  let s1 := { s with nextId := s.nextId + 1, gangs := mset s.gangs gid g }
  let s2 := (List.range d.nblock).foldl (fun s r => startBlock s l d gid num die quad off r) s1
  let s3 := modLaunch s2 (lkey l.pid l.id) fun l => { l with placed := l.placed + 1, state := max l.state 1 }
  if l.placed == 0 then journal s3 l.pid l.jq 2 0 l.pidx l.id l.tag else s3

/-! ### Handing over and placing (16 R348, R349) -/

/-- The launch at the head of the highest non-empty list, of those whose job is not frozen. -/
def globalHead (s : State) : Option Nat :=
  ((s.global.map fun q => q.filter fun k => !frozen s (k / 2 ^ 32)).find? fun q => !q.isEmpty).bind (·.head?)

/-- A waiting gang may be placed now: every lower one of its launch has been, and none of them is stopping or saved (15
R317). -/
def eligible (s : State) (x : Nat × Nat × Nat) : Bool :=
  match mget? s.launches (lkey x.1 x.2.1) with
  | some l => l.placed == x.2.2 && !l.cancel && !frozen s x.1 &&
      !(s.gangs.any fun g => g.2.pid == x.1 && g.2.launch == x.2.1 && (g.2.state == .saved || g.2.state == .stopping))
  | none => false

/-- Where a waiting gang can be placed on its die now. -/
def spot (s : State) (die : Nat) (x : Nat × Nat × Nat) : Option (Launch × Desc × Nat × Nat) :=
  match mget? s.launches (lkey x.1 x.2.1) with
  | none => none
  | some l =>
    match l.desc with
    | none => none
    | some d => if eligible s x then (fitsDie s x.1 d die).map fun q => (l, d, q) else none

/-- A gang that waits on no die's list may be placed on the die: its list is empty, or its head does not fit and the die does not drain
(16 R349). -/
def passable (s : State) (die : Nat) : Bool :=
  match mget? s.dies die with
  | some d => d.list.head?.all fun h => (spot s die h).isNone && d.pass < 8
  | none => true

/-- A placement ahead of the head of a die's list counts as passing it (16 R349). -/
def passHead (s : State) (die : Nat) : State :=
  { s with dies := mmod s.dies die fun d => if d.list.isEmpty then d else { d with pass := d.pass + 1 } }

/-- Every gang of a resident launch placed in one step, or none (15 R319); no die that drains takes one (16 R349). -/
def placeAll (d : Desc) (key : Nat) : Nat → Nat → State → Option State
  | 0, _, s => some s
  | n + 1, num, s =>
    match mget? s.launches key with
    | none => none
    | some l =>
      match roomiest s ((List.range 4).filter fun die => passable s die && (fitsDie s l.pid d die).isSome) with
      | none => none
      | some die =>
        match fitsDie s l.pid d die with
        | some (q, o) => placeAll d key n (num + 1) (passHead (placeGang s l d num die q o) die)
        | none => none

/-- Take a launch from the global lists. -/
def dropGlobal (s : State) (key : Nat) : State := { s with global := s.global.map fun q => q.filter (· != key) }

/-- Put gangs at the end of a die dispatcher's list. -/
def handOver (s : State) (die pid launch first n : Nat) : State :=
  let d := mgetD s.dies die ⟨[], 0, 0⟩
  let d1 : DieDisp :=
    { d with
      list := d.list ++ (List.range n).map fun k => (pid, launch, first + k)
      headAt := if d.list.isEmpty then s.cycle else d.headAt }
  { s with dies := mset s.dies die d1 }

/-- GLOBAL_DISPATCH (16 R348): the next gangs of the launch at the head are handed to the die with the most free granules that
has room, or a resident launch is placed whole. -/
def execGlobalDispatch (pid launch die count : Nat) (s : State) : Ans :=
  let key := lkey pid launch
  match mget? s.launches key with
  | none => .next s
  | some l =>
    match l.desc with
    | none => .next s
    | some d =>
      if globalHead s != some key || l.cancel then .next s
      else if d.resident then
        match placeAll d key l.gangs 0 s with
        | some s1 => .next (dropGlobal (modLaunch s1 key fun l => { l with handed := l.gangs }) key)
        | none => .next s
      else if roomiest s ((List.range 4).filter fun k => 1 ≤ slotRoom s pid d k) != some die || count == 0 || 64 < count ||
          slotRoom s pid d die < count || l.gangs < l.handed + count then .next s
      else
        let s1 := modLaunch (handOver s die pid launch l.handed count) key fun l => { l with handed := l.handed + count }
        .next (if l.handed + count == l.gangs then dropGlobal s1 key else s1)

/-- GANG_PLACE (15 R316, 16 R349): the head of a die's list is placed, or a gang of another launch ahead of a head that does
not fit, at most eight times. -/
def execGangPlace (die idx : Nat) (s : State) : Ans :=
  match mget? s.dies die with
  | none => .next s
  | some dd =>
    match dd.list[idx]?, dd.list.head? with
    | some x, some h =>
      (match spot s die x with
      | none => .next s
      | some (l, d, q, o) =>
        let s1 := placeGang s l d x.2.2 die q o
        if idx == 0 then .next { s1 with dies := mset s1.dies die ⟨dd.list.drop 1, 0, s.cycle⟩ }
        else if (x.1, x.2.1) == (h.1, h.2.1) || (spot s die h).isSome || 8 ≤ dd.pass then .next s
        else .next { s1 with dies := mset s1.dies die { dd with list := dd.list.eraseIdx idx, pass := dd.pass + 1 } })
    | _, _ => .next s

/-! ### Retirement (15 R318, R320) -/

/-- Some command of a gang is on a copy engine. -/
def gangCopies (s : State) (gid : Nat) : Bool := s.engines.any fun e => e.2.cmds.any fun c => c.gid == gid

/-- Some operation of a gang is on the Bridle engine. -/
def gangColls (s : State) (gid : Nat) : Bool :=
  s.comms.any fun c => c.2.colls.any (·.gid == gid) || c.2.cbars.any (·.gid == gid) || c.2.puts.any (·.gid == gid)

/-- The tiles of a gang: those it holds and those set aside for it. -/
def gangTiles (s : State) (gid : Nat) : List (Nat × Tile) :=
  s.tiles.filter fun t => t.2.owner.map (·.1) == some gid || t.2.aside.map (·.1) == some gid

/-- Every operation that a gang's flights issued has completed or stopped (15 R318). -/
def gangQuiet (s : State) (gid : Nat) : Bool :=
  (gangFlights s gid).all (fun x => ended x.2 && x.2.mops.all Mop.finished && x.2.pend.all Pend.finished) &&
    !gangCopies s gid && !gangColls s gid && (gangTiles s gid).all fun t => t.2.insts.isEmpty

/-- A tile becomes free and set aside for none; its generation stays (09 R227). -/
def Tile.freed (t : Tile) : Tile := { Tile.reset with gen := t.gen }

/-- Take a gang away with everything it holds: tiles, armings, commands and what they touch, flights (15 R318, R325). -/
def removeGang (s : State) (gid : Nat) : State :=
  { s with
    tiles := mmap s.tiles fun _ t => if t.owner.map (·.1) == some gid || t.aside.map (·.1) == some gid then t.freed else t
    engines := mmap s.engines fun _ e =>
      { e with cmds := e.cmds.filter fun c => c.gid != gid, arms := e.arms.filter fun a => a.cmd.gid != gid }
    work := dropOver (s.work.filter fun w => w.gid != gid)
    flights := s.flights.filter fun x => x.2.gid != gid
    gangs := mdel s.gangs gid }

/-- GANG_RETIRE (15 R318, R320, 16 R351). -/
def execGangRetire (gid : Nat) (s : State) : Ans :=
  match mget? s.gangs gid with
  | none => .next s
  | some g =>
    if g.state != .retiring || frozen s g.pid || !gangQuiet s gid then .next s
    else
      let key := lkey g.pid g.launch
      let s1 := modLaunch (removeGang s gid) key fun l => { l with retired := l.retired + 1 }
      match mget? s1.launches key with
      | none => .next s1
      | some l =>
        if l.isRoot then .next (treeStep s1 l.pid l.id none)
        else if l.retired == l.gangs then .next (finish s1 key (if l.fault.isSome then 4 else 2))
        else .next s1

end Sys2Proof.Machine
end

