-- ==== Sys2Proof/Machine/Preempt.lean ====
section
/-!
DEFINITION. Pre-emption (16 R350, R351, R353, 19 R404-R411): requests, queued halts, yield deadlines, the stops of the engine classes
and their collector, the saved gang and its restoration; the end of a cancel (15 R325).
-/
namespace Sys2Proof.Machine

/-! ### Requests (19 R404, 16 R353) -/

/-- Cycles of the yield deadline: PREEMPTDL microseconds of 2,400 cycles (16 R353, 00 R2). -/
def deadlineCycles (s : State) (pid : Nat) : Nat := (part? s pid).elim 0 fun p => p.preemptdl.toNat % 65536 * 2400

/-- Some fragment of the gang is halted (20 R427). -/
def gangHalted (s : State) (gid : Nat) : Bool := (gangFlights s gid).any fun x => x.2.frags.any (·.halted)

/-- The gangs of a launch. -/
def launchGangs (s : State) (pid launch : Nat) : List (Nat × Gang) :=
  s.gangs.filter fun g => g.2.pid == pid && g.2.launch == launch

/-- A request reaches a running gang: its deadline starts, or is held while a fragment of it is halted. -/
def requestGang (s : State) (gid : Nat) : State :=
  modGang s gid fun g =>
    match g.state with
    | .running =>
      let h := gangHalted s gid
      { g with
        state := .stopping, why := 1, acks := [], held := h, pmaxAt := [], ran := g.ran + (s.cycle - g.started)
        deadline := if h then none else some (s.cycle + deadlineCycles s g.pid) }
    | _ => g

/-- A request reaches every placed gang of a launch (15 R317). -/
def requestLaunch (s : State) (pid launch : Nat) : State :=
  (launchGangs s pid launch).foldl (fun s g => requestGang s g.1) s

/-- PREEMPT_REQUEST (19 R404). -/
def execPreemptRequest (pid launch : Nat) (s : State) : Ans :=
  match mget? s.launches (lkey pid launch) with
  | some l => .next (if l.cancel || 2 ≤ l.state || frozen s pid then s else requestLaunch s pid launch)
  | none => .next s

/-- The list a waiting gang's launch belongs to. -/
def prioOf (s : State) (pid launch : Nat) : Nat := (mget? s.launches (lkey pid launch)).elim 0 (·.prio)

/-- The launch that a die dispatcher asks to pre-empt for its head (16 R350): of the lowest priority and latest acceptance
among those that hold gangs of a lower priority on the die. -/
def preemptVictim (s : State) (die prio : Nat) : Option Launch :=
  leastBy (fun l => (8 - l.prio) * 2 ^ 64 + (2 ^ 63 - l.order))
    ((s.launches.map (·.2)).filter fun l =>
      prio < l.prio && !l.cancel && (launchGangs s l.pid l.id).any fun g => g.2.die == die && g.2.state == .running)

/-- PREEMPT_WAIT_TIMEOUT (16 R350): 200 µs are 480,000 cycles. -/
def execPreemptWaitTimeout (die : Nat) (s : State) : Ans :=
  match mget? s.dies die with
  | none => .next s
  | some d =>
    match d.list with
    | [] => .next s
    | (pid, launch, _) :: _ =>
      if s.cycle < d.headAt + 480000 || frozen s pid then .next s
      else
        match preemptVictim s die (prioOf s pid launch) with
        | some l => .next (requestLaunch s l.pid l.id)
        | none => .next s

/-! ### Queued halts (19 R411, 20 R426) -/

/-- A queued halt takes effect before the fragment's next instruction: it is the fragment's own, or the flight's, and the
fragment stands at level 0; or the flight has issued its four further instructions. -/
def haltDue (f : Flight) (g : Fragment) (q : QHalt) : Bool :=
  g.level == 0 &&
    if q.cause == 4 then q.seq == 1 || 4 ≤ f.issued.toNat - q.pc.toNat
    else q.frag == g.num || q.frag == 127 || (2 ≤ q.scope && (frag? f q.frag).isNone)

/-- A queued halt takes effect at a fragment. -/
def takeHalt (s : State) (fid n : Nat) (q : QHalt) (further : Nat) : State :=
  match flight? s fid with
  | none => s
  | some f =>
    match frag? f n with
    | none => s
    | some g =>
      let s1 := modFlight s fid fun f => { f with haltq := f.haltq.filter (· != q) }
      let tcause := if q.cause == 4 && q.seq == 0 then 0 else f.t1.cause
      if q.scope == 1 && q.lanes &&& g.owned == 0 then
        haltRecord s1 f g 5 q.scope q.beacons 0 q.pc g.pc q.seq tcause 0 (if q.withheld then 1 else 0)
      else
        applyHalt s1 fid n q.scope q.cause q.beacons q.lanes (if q.cause == 1 then q.pc else g.pc) g.pc
          (if q.cause == 1 then q.seq else f.seqNo) tcause q.withheld further

/-- Every queued halt that is due at a fragment takes effect, in the order queued, until the fragment is halted. -/
def takeHalts (s : State) (fid n : Nat) : State :=
  match flight? s fid with
  | none => s
  | some f =>
    f.haltq.foldl (fun s q =>
      match (flight? s fid).bind fun f => (frag? f n).map fun g => (f, g) with
      | some (f, g) =>
        if !g.halted && haltDue f g q then
          takeHalt s fid n q (if q.cause == 4 then min 4 (f.issued.toNat - q.pc.toNat) else 0)
        else s
      | none => s) s

/-! ### Stops (19 R405, R406) -/

/-- A fragment that is saved at the instruction it is parked or waits at (19 R405). -/
def savedAtWait (g : Fragment) : Bool :=
  match g.wait with
  | .park _ | .packet _ _ | .failPark _ | .failPacket _ _ | .replay _ | .redo _ | .feWait _ | .join _ | .lcon _ _ | .bowait .. | .bar ..
  | .barFault | .claim _ _ => true
  | .stall .sq => true
  | .stall .fence => true
  | _ => false

/-- The fragment's atomic has lanes still to perform: it stops once they are (19 R407). -/
def performing (g : Fragment) : Bool := match g.wait with | .perform _ => true | _ => false

/-- A fragment stops: at its wait, or at its region boundary (19 R386, R405). -/
def stopFrag (g : Fragment) : Fragment :=
  if g.stopped || g.wait == .gone || performing g then g
  else if savedAtWait g then { g with stopped := true, regionStop := false }
  else { g with pc := g.rpc, em := g.rmask &&& g.owned, wait := .run, stopped := true, regionStop := true }

/-- The deadline of a flight's gang has passed; a halt that took effect first holds it (19 R411, 20 R427). -/
def deadlinePassed (s : State) (f : Flight) : Bool :=
  match gangOf s f with
  | some g => g.state == .stopping && g.why == 1 && !g.held && !gangHalted s f.gid && g.deadline.any (· ≤ s.cycle)
  | none => false

/-- The fragment stops when the deadline has passed and traps are open at its level (19 R405, R406). -/
def stopIfDue (s : State) (fid n : Nat) : State :=
  match flight? s fid with
  | some f =>
    if deadlinePassed s f then modFrag s fid n fun g => if stopOpen f g.level then stopFrag g else g else s
  | none => s

/-- A fragment of the flight goes on at a level whose handler has not opened pre-emption (19 R406). -/
def maskedFlight (f : Flight) : Bool := f.frags.any fun h => !h.stopped && !stopOpen f h.level

/-- The halts that are due at a fragment come before its stop (19 R411). -/
def haltThenStop (s : State) (fid n : Nat) : State := stopIfDue (takeHalts s fid n) fid n

/-- PREEMPT_DEADLINE (19 R405, R406, R411): every fragment stops that may; a flight with a masked handler gets PREEMPTMAX cycles
more. A halt that is due holds the deadline. -/
def execPreemptDeadline (gid : Nat) (s : State) : Ans :=
  match mget? s.gangs gid with
  | none => .next s
  | some g =>
    if g.state != .stopping || g.why != 1 || g.held || gangHalted s gid || frozen s g.pid || !g.deadline.any (· ≤ s.cycle) then .next s
    else
      let s1 := (gangFlights s gid).foldl (fun s x => x.2.frags.foldl (fun s h => haltThenStop s x.1 h.num) s) s
      let masked := (gangFlights s1 gid).filter fun x => maskedFlight x.2
      let pmax := (part? s g.pid).elim 0 (·.desc.pmax)
      if gangHalted s1 gid then .next s1
      else
        .next (modGang s1 gid fun g =>
          { g with pmaxAt := masked.foldl (fun m x => if (mget? m x.1).isSome then m else mset m x.1 (s.cycle + pmax)) g.pmaxAt })

/-- A pre-emption that cannot complete is to end as a frozen save (19 R406, 11 R272): the freeze line is asserted, and firmware, which
saves the job through the scan path, is told. -/
def frozenSave (s : State) (pid : Nat) : State :=
  let s1 := { s with gangs := mmap s.gangs fun _ g =>
    if g.pid == pid && g.state == .stopping && g.why == 1 then { g with why := 4 } else g }
  send (assertFreeze s1 pid) (.firmware pid 0)

/-- PREEMPTMAX_EXPIRY (19 R406): the freeze line is asserted and firmware saves the job. -/
def execPreemptmaxExpiry (fid : Nat) (s : State) : Ans :=
  match flight? s fid with
  | none => .next s
  | some f =>
    let due := (gangOf s f).elim false fun g => g.state == .stopping && g.why == 1 && (mget? g.pmaxAt fid).any (· ≤ s.cycle)
    if due && !frozen s f.pid && maskedFlight f then .next (frozenSave s f.pid) else .next s

/-! ### Engine stops and the collector (19 R407, R408) -/

/-- A contribution of a launch of a partition holds an on-chip entry of a die, which fronts the word's channel group (11 R271). -/
def onDie (s : State) (pid die : Nat) (x : Contrib) : Bool := x.chip && entryGroup s pid x.pa / 8 == die

/-- A unit of a class holds work of a gang (19 R408). -/
def holdsWork (s : State) (gid : Nat) (u : StopUnit) : Bool :=
  match u with
  | .vector => (gangFlights s gid).any fun x => !ended x.2 || x.2.mops.any (!·.finished) || x.2.pend.any (!·.finished)
  | .contraction => (gangTiles s gid).any fun t => !t.2.insts.isEmpty || !t.2.folds.isEmpty
  | .copy => gangCopies s gid
  | .bridle => s.comms.any fun c => c.2.colls.any (·.gid == gid) || c.2.puts.any (·.gid == gid)
  | .fresnel => (gangFlights s gid).any fun x => x.2.mops.any fun o => (mspec o.instr).img && !o.finished
  | .ordered die =>
    (mget? s.gangs gid).elim false fun g =>
      (mget? s.launches (lkey g.pid g.launch)).elim false fun l => l.contribs.any (onDie s g.pid die)

/-- The engine classes. -/
def stopUnits : List StopUnit :=
  [.vector, .contraction, .copy, .bridle, .fresnel] ++ (List.range 4).map .ordered

/-- The collector holds an acknowledgement of every unit with work of the gang. -/
def collected (s : State) (gid : Nat) (g : Gang) : Bool := stopUnits.all fun u => g.acks.contains u || !holdsWork s gid u

/-- A lane's access keeps vector issue from acknowledging: one issued and not performed, parked or waiting; or, but for a
cancel, read and not yet written. -/
def laneBusy (cancel : Bool) (o : Mop) (l : LaneOp) : Bool :=
  match l.st with
  | .todo => !cancel || writes o.instr
  | .read => !cancel
  | _ => false

/-- No flight of the launch's gangs enters another ordered contribution before the gangs are restored: vector issue has stopped for them
(11 R272). A halt stops one gang alone. -/
def noneEnters (s : State) (g : Gang) : Bool :=
  if g.why == 3 then g.acks.contains .vector
  else (launchGangs s g.pid g.launch).all fun h => h.2.state == .saved || h.2.state == .retiring || h.2.acks.contains .vector

/-- A unit may acknowledge (19 R407). -/
def unitStopped (s : State) (gid : Nat) (g : Gang) (u : StopUnit) : Bool :=
  match u with
  | .vector =>
    (gangFlights s gid).all fun x =>
      ((g.why != 1 && g.why != 4) || x.2.frags.all (·.stopped)) && (g.why != 3 || x.2.frags.all (·.halted)) &&
        x.2.mops.all (fun o => o.lanes.all fun l => !laneBusy (g.why == 2) o l) && (g.why == 2 || x.2.pend.all Pend.finished)
  | .contraction => g.acks.contains .vector
  | .fresnel => g.acks.contains .vector
  | .ordered _ => noneEnters s g
  | .bridle => (commsOf s g.pid).all fun x => (x.2.colls.head?.all fun o => o.gid != gid) || atBoundary s g.pid x.2
  | .copy => true

/-- At gang scope the work on a block's sum that is not staged is given up at the stop (09 R256). -/
def rollBack (g : Gang) (owner : Nat) (i : Inst) : Inst :=
  let n := 3 * instNF g i
  if i.scope == 2 && i.closed.isSome && !i.ty.isDxb && i.progress % n != 0 && i.progress / n != owner then
    { i with progress := i.progress / n * n, frun := [], krun := [] }
  else i

/-- The entries that a launch holds on a die are spilled (11 R272); none where its reservation does not hold them. -/
def spillDie (s : State) (die : Nat) (l : Launch) : Option Launch :=
  let cs := l.contribs.map fun c => if onDie s l.pid die c then { c with chip := false } else c
  if (cs.filter fun c => !c.chip).length ≤ (l.desc.elim 0 (·.spill)) / 32 then some { l with contribs := cs } else none

/-- What a unit does when it stops; none where a die's entries of the launch do not fit its reservation. -/
def stopUnit (s : State) (gid : Nat) (g : Gang) (u : StopUnit) : Option State :=
  match u with
  | .contraction =>
    some ((gangTiles s gid).foldl (fun s t =>
      modTile s t.1 fun tl => { tl with insts := tl.insts.map (rollBack g (tl.owner.elim 0 (·.2))) }) s)
  | .ordered die =>
    let key := lkey g.pid g.launch
    ((mget? s.launches key).bind (spillDie s die)).map fun l => { s with launches := mset s.launches key l }
  | _ => some s

/-- The gangs whose collectors count an acknowledgement: the gang's own, and for a die's ordered entries those of every gang of its
launch that stops (19 R407). -/
def ackGangs (s : State) (gid : Nat) (g : Gang) (u : StopUnit) : List Nat :=
  match u with
  | .ordered _ => gid :: (((launchGangs s g.pid g.launch).filter fun h => h.1 != gid && h.2.state == .stopping).map (·.1))
  | _ => [gid]

/-- The context of a gang is saved (19 R404, R415): its tiles leave the cores, its scratch stays. -/
def saveGang (s : State) (gid : Nat) : State :=
  let ts := gangTiles s gid
  { s with
    gangs := mmod s.gangs gid fun g => { g with state := .saved, deadline := none, pmaxAt := [], savedT := ts }
    tiles := ts.foldl (fun m t => mset m t.1 t.2.freed) s.tiles }

/-- A cancelled gang goes, and counts as retired (15 R325, R334, 16 R351). -/
def discardGang (s : State) (gid : Nat) : State :=
  let s1 := removeGang (endGangOps s gid) gid
  match mget? s.gangs gid with
  | some g => modLaunch s1 (lkey g.pid g.launch) fun l => { l with retired := l.retired + 1 }
  | none => s1

/-- The collector of a gang completes (19 R408). -/
def collect (s : State) (gid : Nat) : State :=
  match mget? s.gangs gid with
  | none => s
  | some g =>
    if g.state == .stopping && !g.held && collected s gid g then
      match g.why with
      | 1 => saveGang s gid
      | 2 => discardGang s gid
      | _ => s
    else s

/-- ENGINE_STOP_ACK (19 R407, R408). A halted gang's engines stop in the same way, and its state stays in place; a request that is held
stops none (20 R427). Where ordered entries
do not fit the reservation, the pre-emption ends as a frozen save (11 R272). -/
def execEngineStopAck (gid : Nat) (u : StopUnit) (s : State) : Ans :=
  match mget? s.gangs gid with
  | none => .next s
  | some g0 =>
    let asked := g0.state == .stopping && !g0.held
    let g := if asked then g0 else { g0 with why := 3 }
    if !(asked || g0.engStop) || g.acks.contains u || frozen s g.pid || !unitStopped s gid g u then .next s
    else
      match stopUnit s gid g u with
      | none => .next (frozenSave s g.pid)
      | some s1 =>
        let gs := ackGangs s gid g u
        .next (gs.foldl collect (gs.foldl (fun s k => modGang s k fun g => { g with acks := u :: g.acks.filter (· != u) }) s1))

/-! ### Restoration (16 R351, 05 R106, 06 R177, 09 R228) -/

/-- Granules that a saved gang takes again on a slot of a block: those of its flights and of its pool. -/
def savedGranules (s : State) (gid : Nat) (g : Gang) (rank slot : Nat) : Nat :=
  (((gangFlights s gid).filter fun x => x.2.rank == rank && x.2.slot == slot).map fun x => x.2.vregs / 8).sum +
    mgetD g.pools (rank * 4 + slot) 0

/-- A saved gang's granules, slots and tiles are free, and its reservations' offset is (05 R106, 06 R177, 09 R228). -/
def restorable (s : State) (gid : Nat) (g : Gang) : Bool :=
  ((List.range g.nblock).all fun r => (List.range 4).all fun k =>
    granulesUsed s g.die g.quad r k + savedGranules s gid g r k ≤ Config.slotGranules &&
      (slotFlightsOf s (rankCore g.die g.quad r) k).length +
        ((gangFlights s gid).filter fun x => x.2.rank == r && x.2.slot == k).length ≤ Config.slotFlights) &&
  ((List.range g.nblock).all fun r => !scratchClash s g.die g.quad r g.offset g.scratch) &&
  g.savedT.all fun t => (tileAt s t.1).owner.isNone && (tileAt s t.1).aside.isNone

/-- A fragment of a restored context: stalls and waits that pre-emption stopped without effect issue again; parks, merges and
barriers are as they were (06 R167, 05 R112, R121). -/
def restoreFrag (now : Nat) (g : Fragment) : Fragment :=
  { g with
    stopped := false, regionStop := false, ready := now, aged := false
    wait := match g.wait with
      | .bowait .. => .run
      | .claim _ _ => .run
      | .stall _ => .run
      | w => w }

/-- The positions that some flights take in their slots, lowest first (20 R437). -/
def newPositions (s : State) (fs : List (Nat × Flight)) : Cells Nat :=
  fs.foldl (fun acc x =>
    let near := (fs.filter fun y => y.2.core == x.2.core && y.2.slot == x.2.slot).filterMap fun y => mget? acc y.1
    let taken := (slotFlightsOf s x.2.core x.2.slot).map (·.pos) ++ near
    mset acc x.1 (((List.range 12).find? fun k => !taken.contains k).getD 0)) []

/-- Restore a gang: its tiles return, its flights go on, their last-page registers empty (04 R84), and so do its collectives (17 R374). -/
def restoreGang (s : State) (gid : Nat) (g : Gang) : State :=
  let ps := newPositions s (gangFlights s gid)
  let s1 := { s with
    tiles := g.savedT.foldl (fun m t => mset m t.1 t.2) s.tiles
    gangs := mset s.gangs gid { g with state := .running, why := 0, acks := [], started := s.cycle, savedT := [] }
    flights := mmap s.flights fun k f =>
      if f.gid == gid then
        { f with lpr := [], slpr := none, pos := mgetD ps k 0, frags := f.frags.map (restoreFrag s.cycle) }
      else f }
  startRetiring (takeUp (resumeColls s1 gid) g.pid) gid

/-- Restore some gangs together, or none (15 R317). -/
def restoreAll : List Nat → State → Option State
  | [], s => some s
  | gid :: r, s =>
    match mget? s.gangs gid with
    | some g => if restorable s gid g then restoreAll r (restoreGang s gid g) else none
    | none => none

/-- GANG_RESTORE (16 R351, 15 R317): the gangs of the launch, all saved, are restored together; a frozen save is resumed by a scan
restore alone (19 R406). -/
def execGangRestore (gid : Nat) (s : State) : Ans :=
  match mget? s.gangs gid with
  | none => .next s
  | some g =>
    let gs := launchGangs s g.pid g.launch
    if g.why == 2 || g.why == 4 || frozen s g.pid || !gs.all fun x => x.2.state == .saved then .next s
    else
      match restoreAll (gs.map (·.1)) s with
      | some s1 => .next s1
      | none => .next s

/-! ### The end of a cancel (15 R325) -/

/-- CANCEL_COMPLETE: every gang of a cancelled launch has been collected, or was saved; the launch ends. A root whose own gang had not retired
lowers its tree's counter (15 R322). -/
def execCancelComplete (pid launch : Nat) (s : State) : Ans :=
  let key := lkey pid launch
  match mget? s.launches key with
  | none => .next s
  | some l =>
    let gs := launchGangs s pid launch
    if !l.cancel || 2 ≤ l.state || frozen s pid || !gs.all fun g => g.2.state == .saved || collected s g.1 g.2 then .next s
    else
      let s1 := gs.foldl (fun s g => discardGang s g.1) s
      let s2 := finish s1 key (if l.fault.isSome then 4 else 3)
      .next (if l.isRoot && l.retired == 0 then treeStep s2 pid launch none else s2)

end Sys2Proof.Machine
end

