-- ==== Sys2Proof/Machine/Schedule.lean ====
section
/-!
DEFINITION. What a slot issues: the fetch of an instruction word (01 R9, 02 R12, R34, R40), the order in which a slot tries its
fragments (06 R153, 16 R352), and the events of that order.
-/
namespace Sys2Proof.Machine

/-! ### Fetching -/

/-- The outcome of a fetch: the word, or the fault's code and detail (19 R385). -/
inductive Fetched where
  | word (w : DWord)
  | bad (code detail : Nat)
  deriving DecidableEq, Repr

/-- Words that a core's instruction and constant cache holds: 256 KiB (01 R8). -/
def icacheWords : Nat := 32768

/-- A core's instruction cache takes up a word at a key, beside what it holds of it (01 R9). -/
def icacheFill (s : State) (cr k : Nat) (w : DWord) : State :=
  modCore s cr fun c => { c with icache := ((k, w) :: c.icache.filter (· != (k, w))).take icacheWords }

/-- The contents of the word at a key that a core may still issue and that memory no longer has (01 R9, 02 R41). -/
def staleWords (s : State) (cr k : Nat) : List DWord :=
  ((core s cr).icache.filter fun x => x.1 == k && x.2 != dw (readNat s k 8)).map (·.2)

/-- The word at a key, through the core's instruction cache (01 R9), whose unit here is one word (log 6). Until an invalidation every
content held may be issued or read, or memory's; which of them is free (log 3). A unit of memory with an uncorrectable error gives the
memory-error fault. -/
def fetchAt (s : State) (cr k : Nat) : Fetched × State :=
  let mem : DWord := dw (readNat s k 8)
  let new (s : State) : Fetched × State := if poisonedIn s k 8 then (.bad 0x04 1, s) else (.word mem, icacheFill s cr k mem)
  match staleWords s cr k with
  | [] => if (core s cr).icache.contains (k, mem) then (.word mem, s) else new s
  | ws =>
    let s1 := { s with free := s.free + 1 }
    match ws[(Config.freeWord (s.free * 65536)).toNat % (ws.length + 1)]? with
    | some w => (.word w, s1)
    | none => new s1

/-- The instruction cache of a core takes up a word of its partition's memory that no fragment has fetched (02 R39). -/
def icachePrefetch (s : State) (cr k : Nat) : State :=
  if k % 8 == 0 && !poisonedIn s k 8 && (coreOwner s cr).any fun pid => ownsPa s pid k then icacheFill s cr k (dw (readNat s k 8)) else s

/-- Fetch the word at a PC for a fragment of a flight (02 R12, R34). A window address that names no slice of the gang, for which R34 lists no
reason, has that of an address outside the partition (log 67). -/
def fetch (s : State) (f : Flight) (g : Fragment) : Fetched × State :=
  if g.pc.toNat % 8 != 0 then (.bad 0x02 0, s)
  else if !canonical g.pc then (.bad 0x03 0, s)
  else if inWindow g.pc then
    match windowKey s f.pid f.core g.pc with
    | some k => fetchAt s f.core k
    | none => (.bad 0x03 4, s)
  else
    match translate s f.pid f.core none (g.level != 0) .fetch g.pc with
    | (.page k, s1) => (.bad 0x03 (if bitOf k 2 then 3 else if bitOf k 1 then 2 else 1), s1)
    | (.outside, s1) => (.bad 0x03 4, s1)
    | (.ok e, s1) =>
      let pa := e.phys (vaOf g.pc)
      if ownsPa s1 f.pid pa then fetchAt s1 f.core pa else (.bad 0x03 4, s1)

/-- A fetch that failed is the fragment's fault, with the PC that failed (19 R390). -/
def fetchFault (c : Ctx) (code detail : Nat) : State := faultAt c code detail c.g.pc

/-- INSTRUCTION_FETCH_FAULT (02 R34): the issuing fragment's PC is misaligned or its word cannot be fetched. -/
def execInstructionFetchFault (s : State) : Ans :=
  match issuer? s with
  | none => .next s
  | some c =>
    match fetch s c.f c.g with
    | (.bad code d, s1) => .next (fetchFault { c with st := s1 } code d)
    | (.word _, _) => .next s

/-! ### The order of fragments (06 R153, 16 R352, 19 R392) -/

/-- The fragment waits for a sweep that its INVLP began (04 R86). -/
def sweeping (g : Fragment) : Bool := match g.wait with | .sweep _ => true | _ => false

/-- A step is asked for of the fragment (20 R435). -/
def stepAsked (s : State) (fid n : Nat) : Bool := s.steps.any fun x => x.fid == fid && x.frag == n

/-- The fragment may be tried: it is not halted or stopped, or is to be stepped; it is not parked or waiting; no sibling is in
a handler, no fragment of the flight waits for a sweep, and no instruction that beacons watch is still to be decided. -/
def mayTry (s : State) (fid : Nat) (f : Flight) (g : Fragment) : Bool :=
  ((!g.halted && !g.stopped) || stepAsked s fid g.num) &&
    !(f.frags.any fun h => (h.num != g.num && h.level != 0) || sweeping h) &&
    match g.wait with
    | .run => !watchedOpen f
    | .stall _ => !watchedOpen f
    | .failPark _ => true
    | .failPacket _ _ => true
    | .replay _ => true
    | .redo _ => !watchedOpen f
    | .barFault => !watchedOpen f
    | .step => true
    | _ => false

/-- The fragment of a flight that issued last. -/
def current (f : Flight) : Option Nat :=
  (leastBy (fun g => 2 ^ 64 - g.last.getD 0) (f.frags.filter fun g => g.last.isSome)).map (·.num)

/-- The place of a fragment among those of its flight (06 R153): the one that issued last goes on for at most 64 instructions;
otherwise the one whose last issue lies furthest back. -/
def turnKey (f : Flight) (g : Fragment) : Nat :=
  if current f == some g.num && g.run < 64 then 0
  else ((g.last.elim 0 fun c => c + 1) + 1) * 128 + g.num

/-- The flights of a slot that may issue, oldest first (16 R352). -/
def slotOrder (s : State) (core slot : Nat) : List (Nat × Flight) :=
  sortBy (fun x => ((gangOf s x.2).elim 0 (·.order)) * 64 + x.2.rank * 16 + x.2.idx)
    (s.flights.filter fun x => x.2.core == core && x.2.slot == slot && !isSaved s x.2 && !frozen s x.2.pid)

/-- The fragments that a slot tries, in order: aged ones, longest first, then by flight and turn (16 R352). -/
def candidates (s : State) (core slot : Nat) : List (Nat × Nat) :=
  let all := ((slotOrder s core slot).map fun x =>
    (sortBy (turnKey x.2) (x.2.frags.filter (mayTry s x.1 x.2))).map fun g => (x.1, g)).flatten
  let old (x : Nat × Fragment) : Bool := x.2.aged || agedNow s x.2
  (sortBy (fun x => x.2.ready) (all.filter old) ++ all.filter fun x => !old x).map fun x => (x.1, x.2.num)

/-- FRAGMENT_AGED (16 R352): a fragment ready and unissued for 1,024 cycles. -/
def execFragmentAged (fid frag : Nat) (s : State) : Ans :=
  .next (modFrag s fid frag fun g => if agedNow s g then { g with aged := true } else g)

/-- FRAGMENT_SWITCH (06 R153): after 64 instructions of one fragment the slot turns to another that is ready. -/
def execFragmentSwitch (core slot : Nat) (s : State) : Ans :=
  match mget? (Machine.core s core).slots slot with
  | none => .next s
  | some x =>
    match flight? s x.fid with
    | none => .next s
    | some f =>
      match frag? f x.frag, leastBy (turnKey f) (f.frags.filter fun g => g.num != x.frag && mayTry s x.fid f g && g.wait == .run) with
      | some g, some h =>
        if g.run < 64 || isSaved s f || frozen s f.pid then .next s
        else .next (modCore s core fun k => { k with slots := mset k.slots slot { x with frag := h.num } })
      | _, _ => .next s

end Sys2Proof.Machine
end

