-- ==== Sys2Proof/Machine/Traps.lean ====
section
/-!
DEFINITION. The supervisor's instructions (19 R400-R403, R413, 04 R86), the traps taken before an issue (19 R396, R397), the
timer (20 R442), sweeps (04 R86, R87), and the freeze line's events (19 R412, R414).
-/
namespace Sys2Proof.Machine

/-- ILLEGAL_WORD (02 R38): an unassigned opcode. -/
def execIllegalWord (_ : DWord) (s : State) : Ans := issue [] false (fun c => fault c 1 1) s

/-- TRAP (19 R400). -/
def execTrap (a : Opnd) (s : State) : Ans :=
  issue [(a, 1)] false (fun c => fault c 0x20 ((srcS c a).toNat % 256)) s

/-! ### TRET (19 R402) -/

/-- The origin of the cause in a trap set (19 R393). -/
def TrapSet.origin (t : TrapSet) : Nat := bitsOf t.cause.toNat 23 20

/-- The code of the cause in a trap set. -/
def TrapSet.code (t : TrapSet) : Nat := bitsOf t.cause.toNat 7 0

/-- Leave the fragment's level for an address with an activity (19 R402), with the trace packet of the new PC. `same` says that the
interrupted instruction issues there. -/
def returnTo (c : Ctx) (pc shown : DWord) (em : Lanes) (same : Bool) : Ctx :=
  let c1 := settled { c with st := tracePacket c.st c.f c.g 2 shown.toNat }
  let f1 := leaveTrap c1.f c1.g pc em same
  goto { c1 with f := f1, g := (frag? f1 c.g.num).getD c1.g } pc

/-- TRET.retry: a partial fault performs its kept accesses for the lanes of TMASK; otherwise the instruction issues again, and a
store or atomic that a user debug trap withheld is then not examined (20 R426). -/
def execTretRetry (s : State) : Ans :=
  issue [] true (fun c =>
    let t := bank c.f c.g.level
    match t.kept with
    | some (.packet va) =>
      if t.origin == 1 then
        let c1 := returnTo c t.pc t.pc t.em true
        commit { c1 with g := { c1.g with wait := .redo va } }
      else commit (returnTo c t.pc t.pc t.em true)
    | some (.access i []) =>
      let c1 := returnTo c t.pc t.pc t.em true
      commit { c1 with g := { c1.g with skip := c1.g.skip || (t.code == 0x22 && writes i) } }
    | some (.access i ls) =>
      if t.origin == 1 then resumeKept (returnTo c t.pc (t.pc + 8) t.em false) i ls t.mask
      else commit (returnTo c t.pc t.pc t.em true)
    | none => commit (returnTo c t.pc t.pc t.em true)) s

/-- TRET.skip: after the instruction, or at it where the trap was asynchronous or the timer's. -/
def execTretSkip (s : State) : Ans :=
  issue [] true (fun c =>
    let t := bank c.f c.g.level
    let before := t.origin == 2 || t.origin == 3
    let dest := if before then t.pc else t.pc + 8
    commit (returnTo c dest dest t.em before)) s

/-- TRET.region: a region restart (19 R386). -/
def execTretRegion (s : State) : Ans :=
  issue [] true (fun c =>
    let t := bank c.f c.g.level
    commit (returnTo c t.rpc t.rpc t.rmask false)) s

/-! ### KILL (19 R403) -/

/-- KILL and KILL.fault. -/
def killBy (flt : Bool) (m : Fin 24) : State → Ans :=
  issue [] true fun c =>
    let fid := c.st.cur.1
    let t := bank c.f c.g.level
    let cause := if flt then some (t.code, bitsOf t.cause.toNat 15 8, t.pc) else none
    killReport (commit (settled (next c))) fid c.f c.g (getMask c.f c.g m) cause t.cause

/-- KILL (19 R403). -/
def execKill (m : Fin 24) (s : State) : Ans := killBy false m s

/-- KILL.fault (19 R403). -/
def execKillFault (m : Fin 24) (s : State) : Ans := killBy true m s

/-! ### SMOVP and SMOVQ (19 R393, R394, R401, 20 R420-R422, R443) -/

/-- TENABLE of the fragment's level (19 R394). -/
def tenable (f : Flight) (level : Nat) : Word :=
  (if level == 0 || (bank f level).te then 1 else 0) + if f.bp then 2 else 0

/-- Half of a 64-bit register. -/
def half (x : DWord) (hi : Bool) : Word := if hi then hiWord x else loWord x

/-- A 64-bit register with a half replaced. -/
def setHalf (x : DWord) (hi : Bool) (w : Word) : DWord := if hi then pairOf (loWord x) w else pairOf w (hiWord x)

/-- The value of a privileged register, as seen from a level of a flight. -/
def privReg (s : State) (f : Flight) (level n : Nat) : Word :=
  let t := bank f level
  if 0x40 ≤ n && n ≤ 0xBF then half (mgetD (core s f.core).bcn ((n - 0x40) / 2) 0) (n % 2 == 1)
  else if 0xC0 ≤ n then t.sch.getD (n - 0xC0) 0
  else
    match n with
    | 0x00 => t.cause
    | 0x01 => loWord t.pc
    | 0x02 => hiWord t.pc
    | 0x03 => t.region
    | 0x04 => maskWord t.mask 0
    | 0x05 => maskWord t.mask 1
    | 0x06 => maskWord t.mask 2
    | 0x07 => maskWord t.em 0
    | 0x08 => maskWord t.em 1
    | 0x09 => maskWord t.em 2
    | 0x0A => loWord t.addr
    | 0x0B => hiWord t.addr
    | 0x0C => t.seq
    | 0x0D => loWord t.cpc
    | 0x0E => hiWord t.cpc
    | 0x0F => loWord t.rpc
    | 0x10 => hiWord t.rpc
    | 0x11 => w32 level
    | 0x12 => tenable f level
    | 0x13 => loWord f.tvec
    | 0x14 => hiWord f.tvec
    | 0x15 => countsWord f (level - 1)
    | _ => w32 ((part? s f.pid).elim 0 (·.desc.pmax))

/-- A word written to a privileged register sets a reserved bit, or a reserved value of BCNCTL (19 R401, 20 R421). -/
def privReserved (n : Nat) (w : Word) : Bool :=
  if n == 0x12 then w >>> 2 != 0
  else
    0x40 ≤ n && n ≤ 0xBF && (n - 0x40) % 8 == 0 &&
      (bitOf w.toNat 1 || bitsOf w.toNat 15 14 == 3 || bitsOf w.toNat 13 11 == 7 || 4 ≤ bitsOf w.toNat 4 2)

/-- A trap set with another TPC: beacons are not to examine the interrupted instruction alone (20 R426). -/
def trapMoved (t : TrapSet) (pc : DWord) : TrapSet := { t with pc := pc, skip := t.skip && pc == t.pc }

/-- A trap set with a register written (19 R393). -/
def TrapSet.put (t : TrapSet) (n : Nat) (w : Word) : TrapSet :=
  match n with
  | 0x01 => trapMoved t (setHalf t.pc false w)
  | 0x02 => trapMoved t (setHalf t.pc true w)
  | 0x04 => { t with mask := setMaskWord t.mask 0 w }
  | 0x05 => { t with mask := setMaskWord t.mask 1 w }
  | 0x06 => { t with mask := setMaskWord t.mask 2 w }
  | 0x07 => { t with em := setMaskWord t.em 0 w }
  | 0x08 => { t with em := setMaskWord t.em 1 w }
  | 0x09 => { t with em := setMaskWord t.em 2 w }
  | 0x0F => { t with rpc := setHalf t.rpc false w }
  | 0x10 => { t with rpc := setHalf t.rpc true w }
  | 0x12 => { t with te := w.getLsbD 0 }
  | _ => t

/-- A flight with a privileged register of a level written. -/
def putPriv (f : Flight) (level n : Nat) (w : Word) : Flight :=
  let f1 := if level == 0 then f else setBank f level ((bank f level).put n w)
  match n with
  | 0x12 => { f1 with bp := w.getLsbD 1 }
  | 0x13 => { f1 with tvec := setHalf f1.tvec false w }
  | 0x14 => { f1 with tvec := setHalf f1.tvec true w }
  | _ => f1

/-- A half of a beacon register written (20 R420). -/
def putBcn (s : State) (cr n : Nat) (w : Word) : State :=
  modCore s cr fun k =>
    { k with bcn := mput 0 k.bcn ((n - 0x40) / 2) (setHalf (mgetD k.bcn ((n - 0x40) / 2) 0) (n % 2 == 1) w) }

/-- SMOVP (19 R401). -/
def execSmovp (d : Opnd) (n : BitVec 8) (s : State) : Ans :=
  issue [(d, 1)] true (fun c =>
    if !pregOk n.toNat then fault c 1 5
    else retireNext c (putS c d (privReg c.st c.f c.g.level n.toNat))) s

/-- SMOVQ (19 R401). -/
def execSmovq (n : BitVec 8) (a : Opnd) (s : State) : Ans :=
  issue [(a, 1)] true (fun c =>
    let w := srcS c a
    let k := n.toNat
    if !pregRw k || privReserved k w then fault c 1 5
    else if 0x40 ≤ k then retireNext c { c with st := putBcn c.st c.f.core k w }
    else retireNext c { c with f := putPriv c.f c.g.level k w }) s

/-! ### INVLP and sweeps (04 R86-R88, 22 R453) -/

/-- Begin a sweep that the issuing fragment waits for. -/
def sweepBy (icache : Bool) (page : Ctx → Option DWord) (ops : List (Opnd × Nat)) : State → Ans :=
  issue ops true fun c =>
    let c1 := settled c
    let sw : Sweep := ⟨c.st.nextId, c.f.pid, icache, page c, some (c.st.cur.1, c.g.num)⟩
    let s1 := { c1.st with nextId := c1.st.nextId + 1, sweeps := c1.st.sweeps ++ [sw] }
    commit { c1 with st := s1, g := { c1.g with wait := .sweep sw.id } }

/-- INVLP (04 R86). -/
def execInvlp (a : Opnd) (s : State) : Ans := sweepBy false (fun c => some (srcS2 c a)) [(a, 2)] s

/-- INVLP.all (04 R86). -/
def execInvlpAll (s : State) : Ans := sweepBy false (fun _ => none) [] s

/-- INVLP.icache (04 R86). -/
def execInvlpIcache (s : State) : Ans := sweepBy true (fun _ => none) [] s

/-- A held translation that a sweep of a page, or of every page, invalidates. -/
def swept (pid : Nat) (page : Option DWord) (e : TlbEntry) : Bool :=
  e.pid == pid && match page with | some va => e.maps pid (vaOf va) | none => true

/-- Drop what a sweep invalidates from some held translations. -/
def sweepOut (pid : Nat) (page : Option DWord) (es : List TlbEntry) : List TlbEntry := es.filter fun e => !swept pid page e

/-- Every place a sweep reaches loses the translations it invalidates (04 R86). -/
def sweepAll (s : State) (pid : Nat) (page : Option DWord) : State :=
  let out := sweepOut pid page
  { s with
    cores := mmap s.cores fun _ k => { k with tlb := out k.tlb }
    dieTlb := mmap s.dieTlb fun _ es => out es
    bridTlb := out s.bridTlb
    engines := mmap s.engines fun _ e => { e with tlb := out e.tlb }
    flights := mmap s.flights fun _ f =>
      { f with lpr := f.lpr.filter fun x => !swept pid page x.2, slpr := f.slpr.filter fun e => !swept pid page e } }

/-- Every core of a partition drops its instruction and constant cache (01 R9). -/
def dropIcaches (s : State) (pid : Nat) : State :=
  { s with cores := mmap s.cores fun c k => if ownsCore s pid c then { k with icache := [] } else k }

/-- The access of a lane has passed translation by a leaf that a sweep of a page, or of every page, invalidates (04 R86), whether or not
anything still holds that translation. -/
def sweptLane (page : Option DWord) (l : LaneOp) : Bool :=
  l.leaf != 0 && page.all fun va => vaOf va / 2 ^ l.leaf == vaOf l.va / 2 ^ l.leaf

/-- An access that has passed translation by a swept leaf is not performed yet (04 R86). -/
def sweepBusy (s : State) (pid : Nat) (page : Option DWord) : Bool :=
  s.flights.any fun x => x.2.pid == pid && x.2.mops.any fun o => o.lanes.any fun l => l.st == .todo && sweptLane page l

/-- INVALIDATION_SWEEP_DONE (04 R86, R87, 22 R453): the sweep completes, and the fragment that began it goes on. -/
def execInvalidationSweepDone (id : Nat) (s : State) : Ans :=
  match s.sweeps.find? fun w => w.id == id with
  | none => .next s
  | some w =>
    if !w.icache && sweepBusy s w.pid w.page || (w.waiter.isSome && frozen s w.pid) then .next s
    else
      let s1 := if w.icache then dropIcaches s w.pid else sweepAll s w.pid w.page
      let s2 := { s1 with sweeps := s1.sweeps.filter fun x => x.id != id }
      match w.waiter with
      | some (fid, n) =>
        .next (modFrag s2 fid n fun g => if g.wait == .sweep id then { g with wait := .run, pc := g.pc + 8 } else g)
      | none => .next (send s2 (.completion 0))

/-- A command of the partition waits for a sweep. -/
def inSweep (s : State) (pid : Nat) : Bool := s.sweeps.any fun w => w.pid == pid && w.waiter.isNone

/-- An earlier command of the partition that waits for a sweep, or for the stop of a migration, has not completed: two commands of one
partition complete in ring order (22 R453), so a later one waits. -/
def inTurn (s : State) (pid : Nat) : Bool := inSweep s pid || (part? s pid).any fun p => p.moving.isSome

/-- A command of a partition, in its turn. -/
def served (s : State) (pid : Nat) (act : State → Ans) : Ans := if inTurn s pid then .next s else act s

/-! ### The freeze line (19 R412-R414) -/

/-- FRZ (19 R413): the snapshot registers are latched, the line is asserted, and the fragment issues nothing further. -/
def execFrz (s : State) : Ans :=
  issue [] true (fun c =>
    let c1 := settled (next c)
    assertFreeze (latch (commit { c1 with g := { c1.g with wait := .gone } })) c.f.pid) s

/-- FRZ.snap (19 R413). -/
def execFrzSnap (s : State) : Ans := issue [] true (fun c => retireNext c { c with st := latch c.st }) s

/-- FREEZE_TAKES_EFFECT (19 R412, R414): the line's own trigger latches the snapshot registers. -/
def execFreezeTakesEffect (pid : Nat) (s : State) : Ans :=
  match part? s pid with
  | none => .next s
  | some p =>
    match p.freeze with
    | .asserted _ => .next (latch (modPart s pid fun p => { p with freeze := .inEffect }))
    | _ => .next s

/-- FREEZE_COMMAND (19 R412): a firmware command asserts the line. -/
def execFreezeCommand (pid : Nat) (s : State) : Ans := .next (assertFreeze s pid)

/-- SNAPSHOT_TRIGGER_COMMAND (19 R414). -/
def execSnapshotTriggerCommand (s : State) : Ans := .next (latch s)

/-! ### Traps taken before an issue (19 R396, R397) -/

/-- The issuing fragment, where it may take a trap before its next instruction: at level 0, free to issue, in a running gang of a
job that is not frozen. -/
def taker? (s : State) : Option Ctx :=
  match issuer? s with
  | some c => if c.g.level == 0 && mayTry s s.cur.1 c.f c.g && !isSaved s c.f && !frozen s c.f.pid then some c else none
  | none => none

/-- ASYNC_FAULT_TAKEN (19 R396): the oldest queued fault is taken by the fragment that would issue. -/
def execAsyncFaultTaken (s : State) : Ans :=
  match taker? s with
  | none => .next s
  | some c =>
    match c.f.afq with
    | [] => .next s
    | a :: r =>
      let fi : FaultInfo :=
        { code := a.code, detail := a.detail, origin := 2, pc := c.g.pc, mask := if a.mask == 0 then none else some a.mask,
          addr := a.addr, cpc := a.pc, seq := a.seq, kept := none }
      .next (takeTrap (modFlight s s.cur.1 fun f => { f with afq := r }) s.cur.1 c.g.num fi c.f.afMore)

/-- A pending timer trap may be taken: the fragment is at level 0 and the flight has a trap vector, without which it would be killed (20
R442). -/
def timerDue (c : Ctx) : Bool := c.g.level == 0 && c.f.timer && c.f.tvec != 0

/-- TIMER_TRAP_TAKEN (19 R397): the pending timer trap is taken by the fragment that would issue. -/
def execTimerTrapTaken (s : State) : Ans :=
  match taker? s with
  | none => .next s
  | some c =>
    if !timerDue c then .next s
    else
      let fi : FaultInfo := { FaultInfo.precise 0x23 0 c.g.pc with origin := 3 }
      .next (takeTrap (modFlight s s.cur.1 fun f => { f with timer := false }) s.cur.1 c.g.num fi c.f.afMore)

/-- TIMER_PERIOD_END (20 R442): every resident flight of the partition with a trap vector gets a pending timer trap. -/
def execTimerPeriodEnd (pid : Nat) (s : State) : Ans :=
  match part? s pid with
  | none => .next s
  | some p =>
    if !p.tmrctl.getLsbD 0 || bitsOf p.tmrctl.toNat 39 16 == 0 || frozen s pid then .next s
    else
      .next { s with flights := mmap s.flights fun _ f =>
        if f.pid == pid && !ended f && !isSaved s f && f.tvec != 0 then { f with timer := true } else f }

end Sys2Proof.Machine
end

