-- ==== Sys2Proof/Machine/Debug.lean ====
section
/-!
DEFINITION. The halt command (20 R426-R429), and the inspection of halted flights: DBGRD, DBGWR and DSTEP (20
R430-R435).
-/
namespace Sys2Proof.Machine

/-! ### Halt commands (20 R426-R429) -/

/-- GANG_HALT_OTHER_FLIGHT (20 R426): the flight halts at an instruction boundary, having issued at most four more. -/
def execGangHaltOtherFlight (fid further : Nat) (s : State) : Ans :=
  match flight? s fid with
  | none => .next s
  | some f =>
    match f.haltq.find? (fun q => q.cause == 4), leastBy (·.num) f.frags with
    | some q, some g =>
      if frozen s f.pid || isSaved s f || f.frags.any (·.level != 0) || f.issued.toNat - q.pc.toNat != further || 4 < further then
        .next s
      else .next (takeHalt s fid g.num q further)
    | _, _ => .next s

/-- The flight of a launch, gang, rank and index. -/
def findFlight (s : State) (pid launch gang rank idx : Nat) : Option (Nat × Flight) :=
  s.flights.find? fun x =>
    x.2.pid == pid && x.2.launch == launch && (gangOf s x.2).elim false (fun g => g.num == gang) && x.2.rank == rank && x.2.idx == idx

/-- A flight is halted by a command; one with a fragment in a handler halts when that fragment is back at level 0 (R411). -/
def haltFlight (scope : Nat) (s : State) (fid : Nat) : State :=
  match flight? s fid with
  | none => s
  | some f =>
    if f.frags.all (·.halted) then s
    else
      match f.frags.find? (·.level != 0), leastBy (·.num) f.frags with
      | some g, _ => modFlight s fid fun f => { f with haltq := f.haltq ++ [⟨scope, 2, 0, g.num, 0, g.pc, f.seqNo, false⟩] }
      | none, some g => applyHalt s fid g.num scope 2 0 0 g.pc g.pc f.seqNo 0 false 0
      | none, none => s

/-- HALT_COMMAND (20 R427-R429, 19 R411): the host halts a flight, or a gang with its engine work. -/
def execHaltCommand (pid launch gang rank flight : Nat) (whole : Bool) (s : State) : Ans :=
  match findFlight s pid launch gang rank flight with
  | none => .next s
  | some (fid, f) =>
    if frozen s pid || isSaved s f then .next s
    else if whole then
      let s1 := (gangFlights s f.gid).foldl (fun s x => haltFlight 3 s x.1) s
      .next (modGang s1 f.gid fun g => { g with engStop := true })
    else .next (haltFlight 2 s fid)

/-! ### Targets and selectors (20 R430, R431) -/

/-- A target (20 R430). -/
structure Target where
  launch : Nat
  gang   : Nat
  rank   : Nat
  idx    : Nat
  frag   : Nat
  lane   : Nat
  clean  : Bool

/-- The target at an operand. -/
def targetAt (c : Ctx) (a : Opnd) : Target :=
  let w (k : Nat) : Nat := (regWord c a k 0).toNat
  { launch := w 0, gang := w 1 + bitsOf (w 2) 15 0 * 2 ^ 32, rank := bitsOf (w 2) 17 16, idx := bitsOf (w 2) 21 18,
    frag := bitsOf (w 3) 6 0, lane := bitsOf (w 3) 14 8, clean := bitsOf (w 2) 31 22 == 0 && bitsOf (w 3) 31 15 == 0 }

/-- The space of a selector. -/
def selSpace (sel : Nat) : Nat := bitsOf sel 31 28

/-- The index of a selector. -/
def selIdx (sel : Nat) : Nat := bitsOf sel 11 0

/-- The item is one of a lane. -/
def needsLane (sel : Nat) : Bool :=
  match selSpace sel with
  | 1 => true
  | 6 => 0x100 ≤ selIdx sel
  | 7 => 0x100 ≤ selIdx sel
  | 8 => true
  | _ => false

/-- The item is one of a fragment. -/
def needsFrag (sel : Nat) : Bool :=
  let i := selIdx sel
  match selSpace sel with
  | 0 => 88 ≤ i && i ≤ 90
  | 2 => i == 0x0D || i == 0x0E
  | 3 => i < 15
  | 4 => i == 0x11
  | 5 => i == 0x11
  | _ => false

/-- The fragments that a target names: one, or every one of its flight. -/
def targetFrags (f : Flight) (t : Target) : List Fragment :=
  if t.frag == 0x7F then f.frags else (frag? f t.frag).toList

/-- Every fragment that the target names is halted, and its job is not frozen (20 R431). -/
def targetHalted (s : State) (f : Flight) (t : Target) : Bool :=
  !frozen s f.pid && !(targetFrags f t).isEmpty && (targetFrags f t).all (·.halted)

/-- The lanes that the target's fragment, or flight, owns. -/
def targetOwned (f : Flight) (t : Target) : Lanes := unionLanes ((targetFrags f t).map (·.owned))

/-- The target flight has results outstanding (20 R432). -/
def targetBusy (f : Flight) : Bool := anyCount f .ld || anyCount f .sld || anyCount f .sfu || anyCount f .acc

/-- Word `k` of three masks in a row: owned lanes, em, restart mask. -/
def maskItem (g : Fragment) (k : Nat) : Word :=
  maskWord (match k / 3 with | 0 => g.owned | 1 => g.em | _ => g.rmask) (k % 3)

/-- The fragment's own items (20 R430, space 3). -/
def fragItem (g : Fragment) (i : Nat) : Word :=
  match i with
  | 0 => loWord g.pc
  | 1 => hiWord g.pc
  | 2 => g.region
  | 3 => loWord g.rpc
  | 4 => hiWord g.rpc
  | 14 => w32 ((if g.halted then 1 else 0) + g.level * 16)
  | 15 => 0
  | _ => maskItem g (i - 5)

/-- Read an item (20 R430); none where the selector is not admitted. -/
def readItem (s : State) (f : Flight) (g : Fragment) (lane sel : Nat) : Option Word :=
  let i := selIdx sel
  if bitsOf sel 27 12 != 0 then none
  else
    match selSpace sel with
    | 0 => if i < 96 then some (getS f g i) else none
    | 1 => if i < 192 then some (getV s f i lane) else none
    | 2 => if i ≤ 0x13 then some (special ⟨s, f, g, Obs.none⟩ i) else none
    | 3 => if i ≤ 15 then some (fragItem g i) else none
    | 4 => if i ≤ 0x16 then some (if i == 0x11 then w32 g.level else privReg s f 1 i) else none
    | 5 => if i ≤ 0x16 then some (if i == 0x11 then w32 g.level else privReg s f 2 i) else none
    | 6 => if i < 16 then some (mgetD f.t1.ss i 0) else if 0x100 ≤ i && i < 0x110 then some (rowAt (mgetD f.t1.vt (i - 0x100) []) lane) else none
    | 7 => if i < 16 then some (mgetD f.t2.ss i 0) else if 0x100 ≤ i && i < 0x110 then some (rowAt (mgetD f.t2.vt (i - 0x100) []) lane) else none
    | 8 => if i == 0 then some (w32 (laneFlags f lane)) else none
    | _ => none

/-- The item can be written with a value (20 R430). -/
def writable (f : Flight) (sel : Nat) (w : Word) : Bool :=
  let i := selIdx sel
  bitsOf sel 27 12 == 0 &&
    match selSpace sel with
    | 0 => i < 96
    | 1 => i < f.vregs
    | 2 => (i == 0x11 || i == 0x12) && !reservedBits i w
    | 3 => i ≤ 1 || (i == 15 && w.toNat ≤ 1)
    | 4 => i ≤ 0x16 && pregRw i && !privReserved i w
    | 5 => i ≤ 0x16 && pregRw i && !privReserved i w
    | 6 => i < 16 || (0x100 ≤ i && i < 0x110)
    | 7 => i < 16 || (0x100 ≤ i && i < 0x110)
    | 8 => i == 0 && w >>> 4 == 0
    | _ => false

/-- A word of a trap bank written. -/
def putBank (t : TrapSet) (i lane : Nat) (w : Word) : TrapSet :=
  if i < 16 then { t with ss := mset t.ss i w }
  else { t with vt := mset t.vt (i - 0x100) (rowSet (mgetD t.vt (i - 0x100) []) (Lanes.one lane) fun _ => w) }

/-! ### Resuming (20 R433) -/

/-- A gang none of whose fragments is halted: its engines go on, and a held pre-emption's deadline runs (20 R427, R433). -/
def unhalt (s : State) (gid : Nat) : State :=
  match mget? s.gangs gid with
  | none => s
  | some g =>
    if gangHalted s gid then s
    else
      takeUp (modGang s gid fun g =>
        { g with
          engStop := false
          acks := if g.state == .stopping && !g.held then g.acks else []
          held := false
          deadline := if g.held then some (s.cycle + deadlineCycles s g.pid) else g.deadline }) g.pid

/-- Resume some fragments of a flight; one that stands at a JOIN arrives there (06 R151). -/
def resumeFrags (s : State) (fid : Nat) (ns : List Nat) : State :=
  match flight? s fid with
  | none => s
  | some f =>
    let s1 := modFlight s fid fun f =>
      { f with frags := f.frags.map fun g => if ns.contains g.num then { g with halted := false, ready := s.cycle, run := 0 } else g }
    unhalt (tryMerges s1 fid (ns.headD 0)) f.gid

/-- Write an item that is writable (20 R430, R433). -/
def writeItem (s : State) (fid : Nat) (f : Flight) (g : Fragment) (t : Target) (sel : Nat) (w : Word) : State :=
  let i := selIdx sel
  let put (f : Flight) : State := modFlight s fid fun _ => f
  match selSpace sel with
  | 0 =>
    let c := putScalar ⟨s, f, g, Obs.none⟩ i w
    put (putFrag c.f c.g)
  | 1 => put (setV s f i (Lanes.one t.lane) fun _ => w)
  | 2 => put (putSpecial f i w)
  | 3 =>
    if i == 15 then (if w == 1 then resumeFrags s fid ((targetFrags f t).map (·.num)) else s)
    else put (putFrag f { g with pc := setHalf g.pc (i == 1) w })
  | 4 => put (putPriv f 1 i w)
  | 5 => put (putPriv f 2 i w)
  | 6 => put { f with t1 := putBank f.t1 i t.lane w }
  | 7 => put { f with t2 := putBank f.t2 i t.lane w }
  | _ => put (setLaneFlags f t.lane w.toNat)

/-! ### DBGRD and DBGWR (20 R431, R432) -/

/-- What an inspection finds before it acts: a status, a wait for the target's counters, or the flight, a fragment and its
item. -/
inductive Found where
  | status (n : Nat)
  | wait
  | at' (fid : Nat) (f : Flight) (g : Fragment)

/-- Find the target of an inspection, in the order of R431; `ok` tells whether the selector and a written value are admitted. -/
def findTarget (c : Ctx) (t : Target) (sel : Nat) (ok : Flight → Fragment → Bool) : Found :=
  if !t.clean || (needsLane sel && t.lane == 0x7F) || (needsFrag sel && t.frag == 0x7F) then .status 3
  else
    match findFlight c.st c.f.pid t.launch t.gang t.rank t.idx with
    | none => .status 1
    | some (fid, f) =>
      if targetBusy f then .wait
      else if !targetHalted c.st f t then .status 2
      else
        match targetFrags f t with
        | [] => .status 2
        | g :: _ =>
          if !ok f g then .status 3
          else if t.lane != 0x7F && !(targetOwned f t).getLsbD t.lane then .status 4
          else .at' fid f g

/-- DBGRD. -/
def execDbgrd (d a b : Opnd) (s : State) : Ans :=
  issue [(d, 2), (a, 4), (b, 1)] true (fun c =>
    let t := targetAt c a
    let sel := (srcS c b).toNat
    match findTarget c t sel fun f g => (readItem c.st f g t.lane sel).isSome with
    | .status n => retireNext c (putS (putS c d 0) (opAdd d 1) (w32 n))
    | .wait => stall c .target
    | .at' _ f g => retireNext c (putS (putS c d ((readItem c.st f g t.lane sel).getD 0)) (opAdd d 1) 0)) s

/-- DBGWR. -/
def execDbgwr (d a b x : Opnd) (s : State) : Ans :=
  issue [(d, 1), (a, 4), (b, 1), (x, 1)] true (fun c =>
    let t := targetAt c a
    let sel := (srcS c b).toNat
    let w := srcS c x
    match findTarget c t sel fun f _ => writable f sel w with
    | .status n => retireNext c (putS c d (w32 n))
    | .wait => stall c .target
    | .at' fid f g => retireNext c (putS (reload c (writeItem c.st fid f g t sel w)) d 0)) s

/-! ### DSTEP (20 R435) -/

/-- A halted fragment whose next instruction can be tried; one that is parked or waits stays so, with status 5. -/
def stepReady (g : Fragment) : Bool :=
  match g.wait with
  | .run => true
  | .stall _ => true
  | .failPark _ => true
  | .failPacket _ _ => true
  | .replay _ => true
  | .redo _ => true
  | .bowait .. => true
  | .claim _ _ => true
  | .barFault => true
  | _ => false

/-- Ask for a step of a fragment: a BOWAIT or REGCLAIM that waits is tried again. -/
def askStep (c : Ctx) (fid n : Nat) (d : Opnd) : State :=
  let s1 := modFrag (commit (settled { c with g := { c.g with wait := .step } })) fid n fun g =>
    match g.wait with
    | .bowait .. => { g with wait := .run }
    | .claim _ _ => { g with wait := .run }
    | _ => g
  { s1 with steps := s1.steps ++ [⟨fid, n, c.st.cur.1, c.g.num, d⟩] }

/-- Detach a lane as a singleton that a token re-merges (20 R435, 06 R150): its number. -/
def isolate (s : State) (fid : Nat) (f : Flight) (g : Fragment) (lane tok : Nat) : Nat × State :=
  let f1 := { f with tokens := mset f.tokens tok (mgetD f.tokens tok 0 ||| g.owned) }
  if g.owned == Lanes.one lane then (g.num, modFlight s fid fun _ => f1)
  else
    let (f2, h) := detach f1 g (Lanes.one lane) g.pc
    (h.num, modFlight s fid fun _ => f2)

/-- DSTEP and DSTEP.isolate with a token. -/
def stepBy (tok : Ctx → Option Nat) (ops : List (Opnd × Nat)) (d a : Opnd) : State → Ans :=
  issue ((d, 1) :: (a, 4) :: ops) true fun c =>
    let t := targetAt c a
    let fail (n : Nat) : State := retireNext c (putS c d (w32 n))
    let iso := tok c
    if !t.clean || t.frag == 0x7F || (iso.isSome && t.lane == 0x7F) then fail 3
    else
      match findFlight c.st c.f.pid t.launch t.gang t.rank t.idx with
      | none => fail 1
      | some (fid, f) =>
        match frag? f t.frag with
        | none => fail 2
        | some g =>
          if !targetHalted c.st f t then fail 2
          else if iso.any (15 < ·) then fail 3
          else if t.lane != 0x7F && !g.owned.getLsbD t.lane || (iso.isSome && !g.em.getLsbD t.lane) then fail 4
          else if stepAsked c.st fid g.num then stall c .target
          else if !stepReady g then fail 5
          else
            match iso with
            | none => askStep c fid g.num d
            | some k =>
              let (n, s1) := isolate c.st fid f g t.lane k
              askStep (reload c s1) fid n d

/-- DSTEP (20 R435). -/
def execDstep (d a : Opnd) (s : State) : Ans := stepBy (fun _ => none) [] d a s

/-- DSTEP.isolate (20 R435). -/
def execDstepIsolate (d a b : Opnd) (s : State) : Ans := stepBy (fun c => some (srcS c b).toNat) [(b, 1)] d a s

/-- The fragment that waits for a step gets the status and goes on. -/
def stepAnswer (s : State) (x : Stepping) (st : Nat) : State :=
  let s1 := { s with steps := s.steps.filter (· != x) }
  match ctxAt s1 x.byFid x.byFrag with
  | none => s1
  | some c => if c.g.wait == .step then back s1 (commit (next (putS c x.dst (w32 st)))) else s1

/-- The status of a step from the fragment before it, and the flight and the fragment after it (20 R431, R435): 6 where lanes of the
fragment have exited, 7 where it trapped, 5 where it waits. A merge takes a fragment away without an exit. -/
def stepStatus (g : Fragment) (f1 : Flight) (after : Option Fragment) : Nat :=
  if g.owned &&& f1.exited != 0 then 6
  else
    match after with
    | none => 0
    | some h =>
      if g.level < h.level || f1.dblFlt.isSome then 7 else if h.wait == .run || h.wait == .gone then 0 else 5

/-- A step has been made: its halt record, which shows the fragment as the step left it (20 R429), and the answer (R435). -/
def stepDone (s : State) (f : Flight) (g : Fragment) (x : Stepping) : State :=
  match flight? s x.fid with
  | none => stepAnswer s x 6
  | some f1 =>
    let h := frag? f1 x.frag
    let s1 := haltRecord s f1 (h.getD g) 3 1 0 0 g.pc (h.elim g.pc (·.pc)) f.seqNo 0 (h.elim 0 (·.owned)) 0
    stepAnswer s1 x (stepStatus g f1 h)

/-- A fragment waits for a step: it goes on with status 6 when its target is gone. -/
def stepGone (s : State) (fid n : Nat) : State :=
  match s.steps.find? fun x => x.byFid == fid && x.byFrag == n with
  | some x => if ((flight? s x.fid).bind fun f => frag? f x.frag).isSome then s else stepAnswer s x 6
  | none => modFrag s fid n fun g => { g with wait := .run }

end Sys2Proof.Machine
end

