-- ==== Sys2Proof/Machine/Trace.lean ====
section
/-!
DEFINITION. The events of the trace unit (20 R438, R439) and the sampler (R440, R441).
-/
namespace Sys2Proof.Machine

/-- The core's clock is gated by its job's freeze line (19 R412). -/
def coreFrozen (s : State) (c : Nat) : Bool := (coreOwner s c).any (frozen s)

/-- TRACE_SYNC_SET (20 R438): a sync set that is due is emitted. -/
def execTraceSyncSet (c : Nat) (s : State) : Ans :=
  let k := core s c
  if k.trcctl.getLsbD 0 && 256 ≤ k.trcN && k.trcDrop.isNone && !coreFrozen s c then .next (traceSync s c) else .next s

/-- TRACE_LOST_PACKET (20 R438, R439): a unit that falls behind drops packets and counts them; when it keeps up again it emits
the lost packet, and a sync set after it. -/
def execTraceLostPacket (c : Nat) (s : State) : Ans :=
  let k := core s c
  if !k.trcctl.getLsbD 0 || coreFrozen s c then .next s
  else
    match k.trcDrop with
    | none => .next (modCore s c fun k => { k with trcDrop := some 0 })
    | some 0 => .next (modCore s c fun k => { k with trcDrop := none })
    | some n =>
      let s1 := tracePut (modCore s c fun k => { k with trcDrop := none }) c 6 0 0 0 [min n 0xFFFF_FFFF]
      .next (traceSync s1 c)

/-! ### Sampling -/

/-- What a slot issued of a flight in this cycle. -/
def issuedNow (s : State) (cr slot fid : Nat) : Option SlotCur :=
  (mget? (core s cr).slots slot).filter fun x => x.fid == fid && x.cycle == s.cycle

/-- The fragment that a sample of a flight which has not issued names: the one that 06 R153 would select (20 R440). -/
def sampleFrag (s : State) (fid : Nat) (f : Flight) : Option Fragment :=
  (leastBy (turnKey f) (f.frags.filter fun g => mayTry s fid f g && g.wait == .run)).or (leastBy (turnKey f) f.frags)

/-- What a sample of a flight shows (20 R440): the event name and place of what issued in the cycle, or of the fragment that would, with
the number of fragments. -/
def sampleOf (s : State) (cr slot fid : Nat) (f : Flight) : Option SlotCur :=
  (issuedNow s cr slot fid).or
    ((sampleFrag s fid f).map fun g => ⟨fid, g.num, g.pc, f.seqNo, s.cycle, g.region, f.frags.length⟩)

/-- The reason that a sample gives (20 R441): 0 when the flight issued. -/
def sampleReason (s : State) (cr slot fid : Nat) (f : Flight) : Nat :=
  if (issuedNow s cr slot fid).isSome then 0 else (sampleFrag s fid f).elim 0 (waitReason f)

/-- The record of a sample (20 R440, R441). -/
def sampleRecord (s : State) (cr slot fid : Nat) (f : Flight) (x : SlotCur) : List Byte :=
  let issued := if (issuedNow s cr slot fid).isSome then 32 else 0
  bytesOfNat 8 x.pc.toNat ++ bytesOfNat 4 f.launch ++ bytesOfNat 1 (sampleReason s cr slot fid f + issued + slot * 64) ++
    bytesOfNat 1 (resident f + f.rank * 64) ++ bytesOfNat 1 x.frag ++ bytesOfNat 1 x.frags ++ bytesOfNat 4 x.seq.toNat ++
    bytesOfNat 4 x.region.toNat ++ bytesOfNat 8 s.cycle

/-- The next flight of a slot in rotation (20 R440): positions ascend and wrap. -/
def nextSample (s : State) (cr slot : Nat) : Option (Nat × Flight) :=
  let fs := (residents s cr).filter fun x => x.2.slot == slot
  let from' := mgetD (core s cr).smpPos slot 0
  (fs.find? fun x => from' ≤ x.2.pos).or fs.head?

/-- A slot writes its record, where the core's partition may write (22 R447). -/
def sampleSlot (s : State) (cr slot : Nat) : State :=
  match nextSample s cr slot with
  | none => s
  | some (fid, f) =>
    match sampleOf s cr slot fid f with
    | none => s
    | some x =>
      let ctl := (core s cr).smpctl.toNat
      let a := bitsOf ctl 51 12 * 4096 + 32 * ((core s cr).smphead.toNat % 2 ^ (bitsOf ctl 11 8 + 7))
      modCore (devWrite s f.pid a (sampleRecord s cr slot fid f x)) cr fun k =>
        { k with smphead := k.smphead + 1, smpPos := mset k.smpPos slot (f.pos + 1) }

/-- SAMPLE_TICK (20 R440): every slot with resident flights writes one record. -/
def execSampleTick (c : Nat) (s : State) : Ans :=
  if !(core s c).smpctl.getLsbD 0 || coreFrozen s c then .next s
  else .next ((List.range 4).foldl (fun s k => sampleSlot s c k) s)

end Sys2Proof.Machine
end

