-- ==== Sys2Proof/Machine/Scan.lean ====
section
/-!
DEFINITION. The scan path (19 R415-R418): the records of a frozen job, and their return.
-/
namespace Sys2Proof.Machine

/-! ### Records (19 R416) -/

/-- A record: its header, and its body filled up with zero bytes to a multiple of 16. -/
def record (typ die core rank idx launch : Nat) (body : List Byte) : List Byte :=
  let len := (body.length + 15) / 16 * 16
  bytesOfNat 2 typ ++ bytesOfNat 2 1 ++ bytesOfNat 4 (len + 16) ++ bytesOfNat 1 die ++ bytesOfNat 1 core ++ bytesOfNat 1 rank ++
    bytesOfNat 1 idx ++ bytesOfNat 4 launch ++ body ++ bytesOfNat (len - body.length) 0

/-- The rows of a bank or of the registers, lane by lane (19 R417). -/
def rowsBytes (m : Cells Row) (n : Nat) : List Byte :=
  ((List.range n).map fun k => ((List.range 96).map fun l => bytesOfNat 4 (rowAt (mgetD m k []) l).toNat).flatten).flatten

/-- The TCAUSE that a flight record shows for a level: for level 2 of a double fault code 0x30 with the second fault's code as detail (19
R399, log 58). -/
def shownCause (s : State) (f : Flight) (lvl : Nat) : Word :=
  match lvl, f.dblFlt with
  | 2, some d => w32 (0x30 + d % 256 * 256)
  | _, _ => privReg s f lvl 0

/-- The body of one level (19 R417). -/
def levelBytes (s : State) (f : Flight) (lvl : Nat) : List Byte :=
  let t := bank f lvl
  bytesOfNat 4 (shownCause s f lvl).toNat ++ ((List.range 0x16).map fun n => bytesOfNat 4 (privReg s f lvl (n + 1)).toNat).flatten ++
    bytesOfNat 0x24 0 ++ ((List.range 16).map fun n => bytesOfNat 4 (mgetD t.ss n 0).toNat).flatten ++ rowsBytes t.vt 16

/-- The deepest level in use of a flight; a double fault shows level 2 (19 R399). -/
def deepest (f : Flight) : Nat := if f.dblFlt.isSome then 2 else f.frags.foldl (fun m g => max m g.level) 0

/-- The body of a flight record (19 R417). -/
def flightBody (s : State) (f : Flight) : List Byte :=
  bytesOfNat 4 (2 + deepest f * 4 + if f.dblFlt.isSome then 16 else 0) ++ bytesOfNat 4 f.vregs ++ bytesOfNat 4 f.seqNo.toNat ++
    bytesOfNat 4 f.fpmode.toNat ++ bytesOfNat 4 (countsWord f 0).toNat ++ bytesOfNat 4 (f.sq.length + f.psets.length * 65536) ++
    bytesOfNat 4 f.frags.length ++ bytesOfNat 4 f.afq.length ++
    ((List.range 96).map fun n => bytesOfNat 4 (mgetD f.s n 0).toNat).flatten ++
    ((List.range 16).map fun k => bytesOfNat 4 (f.sq.getD k 0).toNat).flatten ++
    ((List.range 48).map fun k => bytesOfNat 1 (laneFlags f (2 * k) + laneFlags f (2 * k + 1) * 16)).flatten ++
    ((List.range 96).map fun l => bytesOfNat 4 (rowAt f.lseq l).toNat).flatten ++
    ((List.range 16).map fun k =>
      bytesOfNat 16 ((mgetD f.tokens k 0).toNat + if (mget? f.tokens k).isSome then 2 ^ 96 else 0)).flatten ++
    levelBytes s f 1 ++ levelBytes s f 2 ++ rowsBytes f.v f.vregs

/-- The stop code of a fragment (19 R418). -/
def stopCode (g : Fragment) : Nat :=
  if g.regionStop then 6
  else
    match g.wait with
    | .run => 0
    | .stall _ => 5
    | .park _ => 1
    | .packet _ _ => 1
    | .failPark _ => 1
    | .failPacket _ _ => 1
    | .replay _ => 1
    | .redo _ => 1
    | .feWait _ => 2
    | .join _ => 3
    | .lcon _ _ => 4
    | .gone => 0
    | _ => 5

/-- What a fragment's parked or waiting instruction has not performed: lanes, and the address kept for each. An instruction that acts once
stands for the active lanes, or with none for the lowest owned one (19 R418, log 40). -/
def unperformed (f : Flight) (g : Fragment) : Lanes × (Nat → DWord) :=
  let once : Lanes := if g.em == 0 then (lowestLane g.owned).elim 0 Lanes.one else g.em
  let ofMop (op : Nat) : Lanes × (Nat → DWord) :=
    let us := (mop? f op).elim [] fun o => o.lanes.filter fun l => l.st.waiting
    (unionLanes (us.map fun l => if l.lane < 96 then Lanes.one l.lane else once),
      fun k => (us.find? fun x => x.lane == k || 96 ≤ x.lane).elim 0 (·.va))
  match g.wait with
  | .park op => ofMop op
  | .replay op => ofMop op
  | .failPark op => ofMop op
  | .feWait op => ofMop op
  | .perform op => ofMop op
  | .packet va _ => (once, fun _ => va)
  | .failPacket va _ => (once, fun _ => va)
  | .redo va => (once, fun _ => va)
  | .bowait va _ _ _ => (once, fun _ => va)
  | .run => (0, fun _ => 0)
  | .gone => (0, fun _ => 0)
  | _ => (once, fun _ => 0)

/-- The body of a fragment record (19 R418). -/
def fragBody (f : Flight) (g : Fragment) : List Byte :=
  let (m, at') := unperformed f g
  bytesOfNat 4 g.num ++ bytesOfNat 4 g.region.toNat ++ bytesOfNat 8 g.pc.toNat ++ bytesOfNat 8 g.rpc.toNat ++
    bytesOfNat 12 g.owned.toNat ++ bytesOfNat 12 g.em.toNat ++ bytesOfNat 12 g.rmask.toNat ++
    bytesOfNat 4 (stopCode g + g.level * 16) ++ bytesOfNat 12 m.toNat ++ bytesOfNat 4 0 ++
    ((List.range 96).map fun l => bytesOfNat 8 (if m.getLsbD l then (at' l).toNat else 0)).flatten

/-- The die and core of a unit: cores, copy engines, contraction units and dispatchers (19 R414). -/
def unitPlace (u : Nat) : Nat × Nat :=
  if u < 192 then (u / 48, u % 48)
  else if 256 ≤ u && u < 288 then ((u - 256) / 8, 0)
  else if 512 ≤ u && u < 704 then ((u - 512) / 48, (u - 512) % 48)
  else if 1025 ≤ u then (u - 1025, 0)
  else (0, 0)

/-- The record of a unit's snapshot registers (19 R414, R416), with the unit's number (log 40). -/
def snapRecord (u : Nat) (x : Snap) : List Byte :=
  record 9 (unitPlace u).1 (unitPlace u).2 0 0 0 (bytesOfNat 8 x.r0.toNat ++ bytesOfNat 8 x.r1.toNat ++ bytesOfNat 8 x.r2.toNat ++
    bytesOfNat 8 x.r3.toNat ++ bytesOfNat 8 x.stamp.toNat ++ bytesOfNat 8 u)

/-- The body of a block record: pools and barriers of a rank. The manual gives it no layout (log 40). -/
def blockBody (g : Gang) (rank : Nat) : List Byte :=
  ((List.range 4).map fun k => bytesOfNat 4 (mgetD g.pools (rank * 4 + k) 0)).flatten ++
    ((List.range 16).map fun n => match mget? g.bars (rank * 16 + n) with
      | some b => bytesOfNat 4 (1 + b.arrived * 256 + b.count * 65536)
      | none => bytesOfNat 4 0).flatten

/-- The records of a block of a gang: its own, and its scratch; a saved gang's stays in its slice (19 R415). -/
def blockRecords (s : State) (g : Gang) (rank : Nat) : List (List Byte) :=
  let c := rankCore g.die g.quad rank
  record 3 g.die (c % 48) rank 0 g.launch (blockBody g rank) ::
    (if g.scratch == 0 || g.state == .saved then [] else
      [record 8 g.die (c % 48) rank 0 g.launch (readBytes s (scratchKey c g.offset) g.scratch)])

/-- The records of a flight and its fragments. -/
def flightRecords (s : State) (f : Flight) : List (List Byte) :=
  record 1 (f.core / 48) (f.core % 48) f.rank f.idx f.launch (flightBody s f) ::
    (sortBy (·.num) f.frags).map fun g => record 2 (f.core / 48) (f.core % 48) f.rank f.idx f.launch (fragBody f g)

/-- The save records of a gang's tiles (09 R258); those of a saved gang come from its context. -/
def tileRecords (s : State) (gid : Nat) (g : Gang) : List (List Byte) :=
  let s1 : State := { s with tiles := g.savedT.foldl (fun m t => mset m t.1 t.2) s.tiles }
  (s1.tiles.filter fun t => t.2.owner.map (·.1) == some gid).map fun t =>
    let rank := t.2.owner.elim 0 (·.2)
    let h := w32 (2 ^ 31 + rank * 2 ^ 24 + t.2.gen * 256 + t.1 % 128)
    record 4 (t.1 / 128 / 48) (t.1 / 128 % 48) rank 0 g.launch (tileRecord s1 h t.1 gid)

/-- A record of a flight's command: its event name and progress. The manual gives it no layout (log 40). -/
def cmdRecord (s : State) (typ core launch fid : Nat) (pc : DWord) (seq : Word) (n : Nat) : List Byte :=
  let (rank, idx) := (flight? s fid).elim (0, 0) fun f => (f.rank, f.idx)
  record typ (core / 48) (core % 48) rank idx launch (bytesOfNat 8 pc.toNat ++ bytesOfNat 4 seq.toNat ++ bytesOfNat 4 n)

/-- The placed gangs of a partition, in order of placement. -/
def placedGangs (s : State) (pid : Nat) : List (Nat × Gang) := sortBy (fun g => g.2.order) (s.gangs.filter fun g => g.2.pid == pid)

/-- A gang's records: its blocks', and its flights'. -/
def gangRecords (s : State) (gid : Nat) (g : Gang) : List (List Byte) :=
  ((List.range g.nblock).map fun r => blockRecords s g r).flatten ++ ((gangFlights s gid).map fun x => flightRecords s x.2).flatten

/-- The scratch of a gang's block holds a unit with an uncorrectable error, at which a scan stops (04 R97, log 40). -/
def badBlock (s : State) (g : Gang) : Bool :=
  g.state != .saved && (List.range g.nblock).any fun r => poisonedIn s (scratchKey (rankCore g.die g.quad r) g.offset) g.scratch

/-- The records of a job's commands, armings and collectives. -/
def cmdRecords (s : State) (pid : Nat) : List (List Byte) :=
  let cs := (s.engines.map fun e => e.2.cmds.filter fun c => c.pid == pid).flatten
  let as := (s.engines.map fun e => e.2.arms.filter fun a => a.cmd.pid == pid).flatten
  let os := (s.comms.map fun c => if c.1 / 256 == pid then c.2.colls else []).flatten
  cs.map (fun c => cmdRecord s 5 c.core c.launch c.fid c.pc c.seq c.done) ++
  as.map (fun a => cmdRecord s 6 a.cmd.core a.cmd.launch a.cmd.fid a.cmd.pc a.cmd.seq a.queued) ++
  os.map (fun o => cmdRecord s 7 o.core o.launch o.fid o.pc o.seq o.chunks)

/-- The end record (19 R416). -/
def endRecord (truncated : Bool) : List Byte := record 0xFF 0 0 0 0 0 (bytesOfNat 16 (if truncated then 1 else 0))

/-- The records of a frozen job, in their order (19 R415); an error stops the scan, and the end record says so. -/
def scanRecords (s : State) (pid : Nat) : List (List Byte) :=
  let gs := placedGangs s pid
  let good := gs.takeWhile fun g => !badBlock s g.2
  let first := (s.snaps.map fun x => snapRecord x.1 x.2) ++ (good.map fun g => gangRecords s g.1 g.2).flatten
  if good.length < gs.length then first ++ [endRecord true]
  else first ++ (gs.map fun g => tileRecords s g.1 g.2).flatten ++ cmdRecords s pid ++ [endRecord false]

/-- The gangs of a job whose pre-emption ends as a frozen save are saved once the job has been scanned (19 R406). -/
def saveFrozen (s : State) (pid : Nat) : State :=
  ((placedGangs s pid).filter fun g => g.2.state == .stopping && g.2.why == 4).foldl (fun s g => saveGang s g.1) s

/-- SCAN (19 R415, R406): the records of a frozen job. -/
def execScan (pid : Nat) (s : State) : Ans :=
  served s pid fun s =>
    if (part? s pid).isNone || !frozen s pid then .next (send s (.completion 3))
    else .next (send (saveFrozen ((scanRecords s pid).foldl (fun s r => send s (.scan r)) s) pid) (.completion 0))

/-! ### The return of records (19 R415) -/

/-- Words of a stretch. -/
def wordsAt (b : List Byte) (o n : Nat) : List Word := (List.range n).map fun k => w32 (fieldOf b (o + 4 * k) 4)

/-- Words of a stretch as a register file. -/
def fileAt (b : List Byte) (o n : Nat) : Cells Word :=
  (List.range n).foldl (fun m k => mput 0 m k (w32 (fieldOf b (o + 4 * k) 4))) []

/-- Rows of a stretch. -/
def rowsAt (b : List Byte) (o n : Nat) : Cells Row := (List.range n).map fun k => (k, wordsAt b (o + 384 * k) 96)

/-- A record is as long as its type says (19 R417, R418, 09 R258), where the manual gives no layout as the records that the scan writes
(log 40); a scratch record is as long as its header and the reservation. -/
def lengthOk (r : List Byte) : Bool :=
  match fieldOf r 0 2 with
  | 1 => r.length == 0x3620 + fieldOf r 0x14 4 * 384
  | 2 => r.length == 0x360
  | 3 => r.length == 96
  | 4 => r.length == 16 + 0x1040 + fieldOf r 22 1 * 0x6440 + fieldOf r 23 2 * 0x4210
  | 5 => r.length == 32
  | 6 => r.length == 32
  | 7 => r.length == 32
  | 9 => r.length == 64
  | 0xFF => r.length == 32
  | _ => 16 ≤ r.length

/-- Version, type and length of a record are right. -/
def headerOk (r : List Byte) : Bool :=
  16 ≤ r.length && fieldOf r 2 2 == 1 && fieldOf r 4 4 == r.length && r.length % 16 == 0 &&
    (let t := fieldOf r 0 2; (1 ≤ t && t ≤ 9) || t == 0xFF) && lengthOk r

/-- The flights that a record may name, in order of placement: gangs of one launch may share a core. -/
def recFlights (s : State) (pid : Nat) (r : List Byte) : List (Nat × Flight) :=
  sortBy (fun x => (gangOf s x.2).elim 0 (·.order)) (s.flights.filter fun x =>
    x.2.pid == pid && x.2.launch == fieldOf r 12 4 && x.2.core == fieldOf r 8 1 * 48 + fieldOf r 9 1 && x.2.rank == fieldOf r 10 1 &&
      x.2.idx == fieldOf r 11 1)

/-- The flight that a record names. -/
def recFlight (s : State) (pid : Nat) (r : List Byte) : Option (Nat × Flight) := (recFlights s pid r).head?

/-- The gangs that a block's record may name, in order of placement. -/
def recGangs (s : State) (pid : Nat) (r : List Byte) : List (Nat × Gang) :=
  (placedGangs s pid).filter fun g =>
    g.2.launch == fieldOf r 12 4 && rankCore g.2.die g.2.quad (fieldOf r 10 1) == fieldOf r 8 1 * 48 + fieldOf r 9 1

/-- A scratch record holds what the reservation of its block does. -/
def scratchFits (s : State) (pid : Nat) (r : List Byte) : Bool :=
  fieldOf r 0 2 != 8 || (recGangs s pid r).all fun g => r.length == 16 + (g.2.scratch + 15) / 16 * 16

/-- A level's registers and banks from a flight record; what it shows of a double fault's cause is not level 2's own (log 58). -/
def loadLevel (f : Flight) (lvl : Nat) (b : List Byte) (o : Nat) : Flight :=
  let w (n : Nat) : Word := w32 (fieldOf b (o + 4 * n) 4)
  let t := bank f lvl
  let t1 : TrapSet :=
    { t with
      cause := if lvl == 2 && f.dblFlt.isSome then t.cause else w 0, pc := pairOf (w 1) (w 2), region := w 3, mask := maskOfWords (w 4) (w 5) (w 6),
      em := maskOfWords (w 7) (w 8) (w 9), addr := pairOf (w 10) (w 11), seq := w 12, cpc := pairOf (w 13) (w 14),
      rpc := pairOf (w 15) (w 16), te := (w 18).getLsbD 0, ss := fileAt b (o + 0x80) 16, vt := rowsAt b (o + 0xC0) 16 }
  { setBank f lvl t1 with bp := (w 18).getLsbD 1, tvec := pairOf (w 19) (w 20) }

/-- A flight from its record (19 R417); its fragments follow in records of their own. -/
def loadFlight (f : Flight) (r : List Byte) : Flight :=
  let vregs := fieldOf r 0x14 4
  let f1 : Flight :=
    { f with
      vregs := vregs, seqNo := w32 (fieldOf r 0x18 4), fpmode := w32 (fieldOf r 0x1C 4), s := fileAt r 0x30 96,
      sq := wordsAt r 0x1B0 (min 16 (fieldOf r 0x24 2)), lseq := wordsAt r 0x220 96
      lflags := (List.range 4).map fun i => lanesOf fun l => bitOf (fieldOf r (0x1F0 + l / 2) 1) (l % 2 * 4 + i)
      tokens := (List.range 16).filterMap fun k =>
        if bitOf (fieldOf r (0x3A0 + 16 * k) 16) 96 then some (k, BitVec.ofNat 96 (fieldOf r (0x3A0 + 16 * k) 12)) else none
      v := rowsAt r 0x3620 vregs
      dblFlt := if bitOf (fieldOf r 0x10 1) 4 then some (fieldOf r (0x4A0 + 0x18C0 + 1) 1) else none }
  loadLevel (loadLevel f1 1 r 0x4A0) 2 r (0x4A0 + 0x18C0)

/-- The accesses of a parked or waiting instruction from its fragment's record (19 R418): the unperformed lanes, with their kept
addresses. -/
def loadMop (r : List Byte) (o : Mop) : Mop :=
  let m : Lanes := BitVec.ofNat 96 (fieldOf r 0x50 12)
  { o with lanes := o.lanes.map fun l =>
      let k := if l.lane < 96 then l.lane else (lowestLane m).getD 0
      if !l.st.waiting then l
      else if !m.getLsbD k then { l with st := .done }
      else
        match l.st with
        | .parked _ => if (mspec o.instr).img then l else { l with va := dw (fieldOf r (0x60 + 8 * k) 8) }
        | _ => l }

/-- The fragment that a record shows stands where one stood before: with its stop code, level and PC, and with no lane unperformed that
was not so. -/
def sameStop (f0 : Flight) (r : List Byte) (g : Fragment) : Bool :=
  let x := fieldOf r 0x4C 4
  stopCode g == x % 16 && g.level == bitsOf x 5 4 && g.pc == dw (fieldOf r 0x18 8) &&
    subLanes (BitVec.ofNat 96 (fieldOf r 0x50 12)) (unperformed f0 g).1

/-- The wait of a fragment from its record: one that stands as before goes on with the kept address; an instruction that parked, or waited
for a full bit, and is not known any more issues again with it. -/
def loadWait (old : Option Fragment) (r : List Byte) : Wait :=
  let m : Lanes := BitVec.ofNat 96 (fieldOf r 0x50 12)
  let va := dw (fieldOf r (0x60 + 8 * (lowestLane m).getD 0) 8)
  let code := fieldOf r 0x4C 1 % 16
  match old.map Fragment.wait with
  | some (.packet _ k) => .packet va k
  | some (.failPacket _ k) => .failPacket va k
  | some (.redo _) => .redo va
  | some w => w
  | none => if (code == 1 || code == 2) && m != 0 then .redo va else .run

/-- The access that a fragment's wait names. -/
def waitOp : Wait → Option Nat
  | .park op => some op
  | .replay op => some op
  | .failPark op => some op
  | .feWait op => some op
  | _ => none

/-- A flight with a fragment written back from its record (19 R418): a park or wait that it had, it keeps. `f0` is the flight before the
restore. -/
def loadFrag (f0 f : Flight) (r : List Byte) : Flight :=
  let n := fieldOf r 0x10 4
  let x := fieldOf r 0x4C 4
  let pc := dw (fieldOf r 0x18 8)
  let owned : Lanes := BitVec.ofNat 96 (fieldOf r 0x28 12)
  let em : Lanes := BitVec.ofNat 96 (fieldOf r 0x34 12)
  let old := (frag? f0 n).filter (sameStop f0 r)
  let b : Fragment := old.getD
    { num := n, owned := owned, em := em, pc := pc, region := 0, rpc := pc, rmask := em, level := 0, wait := .run, halted := false,
      stopped := false, regionStop := false, skip := false, ready := 0, last := none, run := 0, aged := false }
  let g : Fragment :=
    { b with
      owned := owned, em := em, pc := pc, region := w32 (fieldOf r 0x14 4), rpc := dw (fieldOf r 0x20 8), wait := loadWait old r
      rmask := BitVec.ofNat 96 (fieldOf r 0x40 12), level := bitsOf x 5 4 }
  { f with
    frags := insBy (·.num) g f.frags
    mops := f.mops.map fun o => if (waitOp g.wait) == some o.id then loadMop r o else o }

/-- A fragment that does not stand as before has given up the accesses it parked or waited on. -/
def giveUpPark (s : State) (f0 : Flight) (fid n : Nat) : State :=
  match (frag? f0 n).bind fun g => waitOp g.wait with
  | some op => modFlight s fid fun f => prune s (modMop f op fun o => { o with lanes := o.lanes.filter fun l => !l.st.waiting })
  | none => s

/-- The unperformed accesses of a memory instruction that parked or waited and is not known any more, with their kept addresses: they are
checked and performed as after a replay. -/
def parkAgain (s0 : State) (f0 : Flight) (fid : Nat) (r : List Byte) : State :=
  let n := fieldOf r 0x10 4
  let m : Lanes := BitVec.ofNat 96 (fieldOf r 0x50 12)
  let same := (frag? f0 n).any (sameStop f0 r)
  let s := if same then s0 else giveUpPark s0 f0 fid n
  match same, issuer? { s with cur := (fid, n) } with
  | false, some c =>
    (match c.g.wait, fetch s c.f c.g with
    | .redo va, (.word w, _) =>
      (match decode (c.g.level != 0) w with
      | .ok i =>
        if (mspec? i).isSome then
          let ts := (allTgts c (mspec i)).filter fun t => 96 ≤ t.lane || m.getLsbD t.lane
          let kept (t : Tgt) : Tgt :=
            if (mspec i).img then t else { t with va := if t.lane < 96 then dw (fieldOf r (0x60 + 8 * t.lane) 8) else va }
          let o := newMop c i (ts.map fun t => (kept t, .page 0))
          let s1 := modFlight { s with nextId := s.nextId + 1 } fid fun f => { f with mops := f.mops ++ [o] }
          modFrag s1 fid n fun g => { g with wait := if fieldOf r 0x4C 1 % 16 == 1 then .park o.id else .replay o.id }
        else s
      | .error _ => s)
    | _, _ => s)
  | _, _ => s

/-- A block's pools and barriers from its record, in a gang (log 40). -/
def loadBlock (r : List Byte) (g : Gang) : Gang :=
  let rank := fieldOf r 10 1
  { g with
    pools := (List.range 4).foldl (fun m k => mset m (rank * 4 + k) (fieldOf r (16 + 4 * k) 4)) g.pools
    bars := (List.range 16).foldl (fun m n =>
      let o := 32 + 4 * n
      if fieldOf r o 1 == 1 then mset m (rank * 16 + n) ⟨fieldOf r (o + 1) 1, fieldOf r (o + 2) 2⟩ else mdel m (rank * 16 + n)) g.bars }

/-- The command, arming or collective of a record: its core, launch and event name. -/
def recNames (r : List Byte) (core launch : Nat) (pc : DWord) (seq : Word) : Bool :=
  core == fieldOf r 8 1 * 48 + fieldOf r 9 1 && launch == fieldOf r 12 4 && pc.toNat == fieldOf r 16 8 && seq.toNat == fieldOf r 24 4

/-- A command's, an arming's or a collective's progress from its record (log 40). -/
def loadCmd (s : State) (pid : Nat) (r : List Byte) : State :=
  let n := fieldOf r 28 4
  let cmds (c : Cmd) : Cmd := if c.pid == pid && recNames r c.core c.launch c.pc c.seq then { c with done := n } else c
  let arms (a : Arm) : Arm :=
    if a.cmd.pid == pid && recNames r a.cmd.core a.cmd.launch a.cmd.pc a.cmd.seq then { a with queued := n } else a
  let colls (o : CollOp) : CollOp := if recNames r o.core o.launch o.pc o.seq then { o with chunks := n } else o
  match fieldOf r 0 2 with
  | 5 => { s with engines := mmap s.engines fun _ e => { e with cmds := e.cmds.map cmds } }
  | 6 => { s with engines := mmap s.engines fun _ e => { e with arms := e.arms.map arms } }
  | _ => { s with comms := mmap s.comms fun k c => if k / 256 == pid then { c with colls := c.colls.map colls } else c }

/-- A tile that the launch of the record still holds, from its save record (09 R257). -/
def loadTile (s : State) (pid : Nat) (r : List Byte) : State :=
  let core := fieldOf r 8 1 * 48 + fieldOf r 9 1
  let bs := r.drop 16
  let t := core * 128 + fieldOf bs 0 4 % 128
  let n := fieldOf bs 6 1
  let p := fieldOf bs 7 2
  match (tileAt s t).owner with
  | some (gid, _) =>
    (match mget? s.gangs gid with
    | some g => if g.pid == pid && g.launch == fieldOf r 12 4 && recordOk bs n p then restoreTile s t gid g bs n p else s
    | none => s)
  | none => s

/-- The registers of a unit's snapshot from their record. -/
def loadSnap (s : State) (r : List Byte) : State :=
  let w (k : Nat) : DWord := dw (fieldOf r (16 + 8 * k) 8)
  { s with snaps := mset s.snaps (w 5).toNat ⟨w 0, w 1, w 2, w 3, w 4⟩ }

/-- Write one record back (19 R415); `s0` is the state before the restore, `k` how many records before it name the same place, and `last`
the flight whose record came last, to which fragment records belong. -/
def loadRecord (s0 s : State) (pid k : Nat) (last : Option Nat) (r : List Byte) : State :=
  match fieldOf r 0 2 with
  | 1 =>
    (match (recFlights s0 pid r)[k]? with
    | some (fid, _) => modFlight s fid fun f => { loadFlight f r with frags := [] }
    | none => s)
  | 2 =>
    (match last.bind fun fid => (flight? s0 fid).map fun f => (fid, f) with
    | some (fid, f0) => parkAgain (modFlight s fid fun f => loadFrag f0 f r) f0 fid r
    | none => s)
  | 3 =>
    (match (recGangs s0 pid r)[k]? with
    | some (gid, _) => modGang s gid (loadBlock r)
    | none => s)
  | 4 => loadTile s pid r
  | 8 =>
    (match (recGangs s0 pid r)[k]? with
    | some (_, g) => writeBytes s (scratchKey (rankCore g.die g.quad (fieldOf r 10 1)) g.offset) ((r.drop 16).take g.scratch)
    | none => s)
  | 9 => loadSnap s r
  | 0xFF => s
  | _ => loadCmd s pid r

/-- The flight whose fragments follow a record. -/
def flightAfter (s0 : State) (pid k : Nat) (last : Option Nat) (r : List Byte) : Option Nat :=
  if fieldOf r 0 2 == 1 then ((recFlights s0 pid r)[k]?).map (·.1) else last

/-- Write records back while they are right; the first that is wrong stops the restore. `seen` are the places that the records before
named. -/
def loadRecords (s0 : State) (pid : Nat) : List (List Byte) → List (List Byte) → Option Nat → State → State × Bool
  | [], _, _, s => (s, true)
  | r :: rest, seen, last, s =>
    if headerOk r && scratchFits s0 pid r then
      let place := r.take 2 ++ (r.drop 8).take 8
      let k := (seen.filter (· == place)).length
      loadRecords s0 pid rest (place :: seen) (flightAfter s0 pid k last r) (loadRecord s0 s pid k last r)
    else (s, false)

/-- A restore begins with the gangs that a frozen save has taken from their cores; none where they do not fit (19 R406). -/
def unfreezeSaved (s : State) (pid : Nat) : Option State :=
  restoreAll (((placedGangs s pid).filter fun g => g.2.state == .saved && g.2.why == 4).map (·.1)) s

end Sys2Proof.Machine
end

