-- ==== Sys2Proof/Machine/Host.lean ====
section
/-!
DEFINITION. The host's side (22 R447-R454): accesses over the link, the register windows, boot, partitions, the commands of the
host and of the firmware, power and temperature.
-/
namespace Sys2Proof.Machine

/-- A command's completion (22 R453). -/
def done (s : State) (status : Nat) : State := send s (.completion status)

/-- A partition that commands may name: one not being destroyed (22 R453). -/
def live? (s : State) (pid : Nat) : Option Part := (part? s pid).filter fun p => !p.destroyed

/-- The status of BOOTCTL (22 R449). -/
def bootStat (s : State) : Nat := bitsOf s.bootctl.toNat 2 0

/-! ### Accesses over the link (22 R447, R449) -/

/-- The addresses that the host's accesses reach: HBM outside a locked carve-out, and its own memory. -/
def hostReach (s : State) (a n : Nat) : Bool :=
  (a + n ≤ Config.hbmBytes || (Config.hostBase ≤ a && a + n ≤ Config.scratchBase)) &&
    !(List.range n).any fun i => inCarveOut s (a + i)

/-- HOST_ACCESS. A unit with an uncorrectable error gives the host undefined bytes (log 3). -/
def execHostAccess (write : Bool) (a : Nat) (data : List Byte) (s : State) : Ans :=
  if !hostReach s a data.length then .next (send s .linkError)
  else if write then .next (doPuts s [⟨a, data, dw a, []⟩])
  else
    let bs := (List.range data.length).map fun i =>
      if poisoned s (a + i) then Config.freeByte (s.free * 2 ^ 60 + a + i) else readByte s (a + i)
    .next (send { s with free := s.free + 1 } (.hostRead bs))

/-! ### Register windows (22 R448, R449, R454, 00 R3) -/

/-- A register with bits [hi:lo] taken from a written value. -/
def take (old new : DWord) (hi lo : Nat) : DWord :=
  dw (old.toNat - bitsOf old.toNat hi lo * 2 ^ lo + bitsOf new.toNat hi lo * 2 ^ lo)

/-- A field taken when its written value is admitted. -/
def takeIf (ok : Nat → Bool) (old new : DWord) (hi lo : Nat) : DWord :=
  if ok (bitsOf new.toNat hi lo) then take old new hi lo else old

/-- A bit that writing 1 clears. -/
def clearBit (old new : DWord) (i : Nat) : DWord := if new.getLsbD i then old &&& ~~~(BitVec.twoPow 64 i) else old

/-- Writes to FRCTL (04 R93). -/
def putFrctl (r v : DWord) : DWord :=
  clearBit (take (takeIf (· < 11) (take r v 51 12) v 7 4) v 0 0) v 3

/-- Writes to JNLCTL (16 R346). -/
def putJnlctl (r v : DWord) : DWord := take (takeIf (· < 13) (take r v 51 12) v 4 1) v 0 0

/-- Writes to HRCTL (20 R428). -/
def putHrctl (r v : DWord) : DWord := take (take (take r v 51 12) v 4 1) v 0 0

/-- Writes to TMRCTL (20 R442); a period of 0, which lies outside the field's range, leaves the field unchanged (log 63). -/
def putTmrctl (r v : DWord) : DWord := take (takeIf (1 ≤ ·) r v 39 16) v 0 0

/-- Writes to TRCCTL (20 R436). -/
def putTrcctl (r v : DWord) : DWord := clearBit (take (take (take r v 51 12) v 11 8) v 4 0) v 5

/-- Writes to SMPCTL (20 R440). -/
def putSmpctl (r v : DWord) : DWord :=
  take (takeIf (fun k => 8 ≤ k && k ≤ 24) (take (take r v 51 12) v 11 8) v 7 3) v 0 0

/-- Writes to BCNCTL (20 R421). -/
def putBcnctl (r v : DWord) : DWord :=
  take (takeIf (· < 4) (takeIf (· != 7) (takeIf (· != 3) (take (take r v 63 16) v 10 5) v 15 14) v 13 11) v 4 2) v 0 0

/-- A write to a core's registers in the management window. -/
def putCoreReg (s : State) (c off : Nat) (v : DWord) : State :=
  let k := core s c
  if off == 0x00 then
    let s1 := modCore s c fun k => { k with trcctl := putTrcctl k.trcctl v }
    if !k.trcctl.getLsbD 0 && v.getLsbD 0 then traceSync s1 c else s1
  else if off == 0x08 then modCore s c fun k => { k with trcfilt := take k.trcfilt v 63 16 }
  else if off == 0x18 then
    modCore s c fun k =>
      { k with smpctl := putSmpctl k.smpctl v, smpPos := if !k.smpctl.getLsbD 0 && v.getLsbD 0 then [] else k.smpPos }
  else if 0x200 ≤ off && off < 0x400 && off % 8 == 0 then
    let n := (off - 0x200) / 8
    modCore s c fun k =>
      { k with bcn := mput 0 k.bcn n (if n % 4 == 0 then putBcnctl (mgetD k.bcn n 0) v else v) }
  else s

/-- HCMD of a partition is rung: an event waits for the commands of its ring (22 R453, 16 R344). -/
def ringCommands (s : State) (r : Nat) : State := { s with events := addEvent s.events (.ring r) }

/-- A write to a partition's management window. PREEMPTDL takes bits 15:0, and keeps its value where they are 0 (16 R353, log 63). -/
def putMgmt (s : State) (pid off : Nat) (v : DWord) : State :=
  let upd (k : Part → Part) : State := modPart s pid k
  if (part? s pid).isNone then s
  else if off == 0x00 then upd fun p => { p with frctl := putFrctl p.frctl v }
  else if off == 0x08 then upd fun p => { p with jnlctl := putJnlctl p.jnlctl v }
  else if off == 0x18 then upd fun p => { p with jnltail := loWord v }
  else if off == 0x20 then upd fun p => { p with hrctl := putHrctl p.hrctl v }
  else if off == 0x30 then upd fun p => { p with tmrctl := putTmrctl p.tmrctl v }
  else if off == 0x38 then upd fun p => { p with preemptdl := takeIf (1 ≤ ·) p.preemptdl v 15 0 }
  else if off == 0x40 then ringCommands (upd fun p => { p with hcmd := v }) pid
  else if 0x1000 ≤ off && off < 0x31000 && ownsCore s pid ((off - 0x1000) / 0x400) then
    putCoreReg s ((off - 0x1000) / 0x400) ((off - 0x1000) % 0x400) v
  else s

/-- The carve-out lies in HBM (22 R449). -/
def carveOk (b : DWord) : Bool :=
  1 ≤ bitsOf b.toNat 15 4 && bitsOf b.toNat 47 16 * 65536 + bitsOf b.toNat 15 4 * 65536 ≤ Config.hbmBytes

/-- Set lock: the carve-out is closed and the measurement starts (22 R449). -/
def lockBoot (s : State) : State :=
  if s.bootctl.getLsbD 3 then s
  else
    let b := s.bootctl ||| 8#64
    { s with bootctl := take b (if carveOk b then 1 else 3) 2 0 }

/-- A write to BOOTCTL (22 R449). -/
def putBootctl (s : State) (v : DWord) : State :=
  let s1 := if s.bootctl.getLsbD 3 then s else { s with bootctl := take s.bootctl v 47 4 }
  if v.getLsbD 3 then lockBoot s1 else s1

/-- A write to PWRCTL (22 R454). -/
def putPwrctl (s : State) (v : DWord) : State :=
  let n := bitsOf v.toNat 11 0
  { s with plim := BitVec.ofNat 12 (if n < 500 then 500 else if 2800 < n then 2800 else n), thr := s.thr && !v.getLsbD 16 }

/-- A register of a core in the management window (22 R448). -/
def coreReg (s : State) (c off : Nat) : DWord :=
  let k := core s c
  match off with
  | 0x00 => k.trcctl
  | 0x08 => k.trcfilt
  | 0x10 => k.trchead
  | 0x18 => k.smpctl
  | 0x20 => k.smphead.setWidth 64
  | n => if 0x200 ≤ n && n < 0x400 && n % 8 == 0 then mgetD k.bcn ((n - 0x200) / 8) 0 else 0

/-- A register of a partition's management window; an offset that is not listed reads 0 (22 R448). -/
def mgmtReg (s : State) (pid off : Nat) : DWord :=
  match part? s pid with
  | none => 0
  | some p =>
    match off with
    | 0x00 => p.frctl
    | 0x08 => p.jnlctl
    | 0x10 => p.jnlhead.setWidth 64
    | 0x18 => p.jnltail.setWidth 64
    | 0x20 => p.hrctl
    | 0x28 => p.hrhead.setWidth 64
    | 0x30 => p.tmrctl
    | 0x38 => p.preemptdl
    | 0x40 => p.hcmd
    | n =>
      if 0x1000 ≤ n && n < 0x31000 && ownsCore s pid ((n - 0x1000) / 0x400) then
        coreReg s ((n - 0x1000) / 0x400) ((n - 0x1000) % 0x400)
      else 0

/-- PWRCTL (22 R454). -/
def pwrctlReg (s : State) : DWord :=
  dw (s.tmax.toNat * 2 ^ 48 + s.pnow.toNat * 2 ^ 32 + (if s.thr then 2 ^ 16 else 0) + s.plim.toNat)

/-- The value of a register of a window (16 R337, 22 R448, R449, R454). -/
def windowReg (s : State) (w : Window) (off : Nat) : DWord :=
  match w with
  | .mgmt pid => mgmtReg s pid off
  | .doorbell pid q => if off == 0 then (queue? s pid q).elim 0 fun x => x.index.setWidth 64 else 0
  | .bootctl => s.bootctl
  | .pwrctl => pwrctlReg s

/-- Software writes QNOTIFY of a queue, and the device reads it later (16 R337). -/
def ringBell (s : State) (pid q : Nat) (w : Word) : State := if (queue? s pid q).isSome then ring s q w else s

/-- REGISTER_WRITE. -/
def execRegisterWrite (w : Window) (off : Nat) (val : DWord) (s : State) : Ans :=
  match w with
  | .doorbell pid q => .next (if off == 0 then ringBell s pid q (loWord val) else s)
  | .mgmt pid => .next (putMgmt s pid off val)
  | .bootctl => .next (putBootctl s val)
  | .pwrctl => .next (putPwrctl s val)

/-! ### Boot (22 R449-R451) -/

/-- BOOT_LOCK. -/
def execBootLock (s : State) : Ans := .next (lockBoot s)

/-- The image header is right (22 R450). -/
def headerRight (h : List Byte) (len : Nat) : Bool :=
  h.take 4 == [0x47, 0x46, 0x57, 0x33] && fieldOf h 4 4 == 1 && fieldOf h 8 8 ≤ len * 65536 - 4096 && zerosAt h 0xEA4 348

/-- BOOT_VERIFY_DONE (22 R449, R450): SHA3-256 and ML-DSA-44 are the published functions (log 14). -/
def execBootVerifyDone (s : State) : Ans :=
  if bootStat s != 1 then .next s
  else
    let base := bitsOf s.bootctl.toNat 47 16 * 65536
    let h := readBytes s base 4096
    let answer (n : Nat) : State := { s with bootctl := take s.bootctl (dw n) 2 0 }
    if !headerRight h (bitsOf s.bootctl.toNat 15 4) then .next (answer 4)
    else
      let m := Config.sha3 (readBytes s (base + 4096) (fieldOf h 8 8))
      let key := (h.drop 0x10).take 1312
      if Config.sha3 key != Config.fusedKeyHash ||
          !Config.mldsaVerify key ((h.drop 0x530).take 2420) (bytesOfNat 32 m.toNat) then .next (answer 5)
      else .next { answer 2 with measured := m }

/-- RESET (22 R449): every unit is as after reset; the host's memory, the package's number and what it has sent stay. -/
def execReset (s : State) : Ans :=
  .next { State.reset with
    agenda := s.agenda, free := s.free, nextId := s.nextId, package := s.package, outbox := s.outbox
    mem := s.mem.filter fun c => Config.hostBase ≤ c.1 && c.1 < Config.scratchBase
    poison := s.poison.filter fun u => Config.hostBase ≤ u * 32 && u * 32 < Config.scratchBase }

/-- ATTEST (22 R451). -/
def execAttest (nonce : List Byte) (s : State) : Ans :=
  if bootStat s != 2 then .next s
  else if nonce.length != 32 then .next (done s 1)
  else
    let parts := (s.parts.map fun p => 2 ^ p.1).sum
    let r := bytesOfNat 32 s.measured.toNat ++ bytesOfNat 32 Config.fusedKeyHash.toNat ++ nonce ++ bytesOfNat 4 Config.stepping ++
      bytesOfNat 4 parts ++ bytesOfNat 24 0
    .next (done (send s (.report (r ++ Config.mldsaSign r))) 0)

/-! ### Partitions (22 R452) -/

/-- The resources of a create command are well formed. -/
def createOk (d : CreateDesc) : Bool :=
  d.pid < 32 && d.slots ≤ 56 && d.root % 65536 == 0 && d.grants.length ≤ 16 && 1024 ≤ d.pmax && d.pmax ≤ 1048576 &&
    (d.grants.all fun g => g.1 + g.2 ≤ 2 ^ 51) && (d.engineOf.all fun x => x.2 < 32 && d.engines.getLsbD x.2) &&
    (List.range 192).all fun c => !d.cores.getLsbD c || d.engineOf.any fun x => x.1 == c

/-- Two ranges meet. -/
def meets (a b : Nat × Nat) : Bool := a.1 < b.1 + b.2 && b.1 < a.1 + a.2

/-- The resources of two partitions are disjoint. -/
def disjoint (a b : CreateDesc) : Bool :=
  a.cores &&& b.cores == 0 && a.groups &&& b.groups == 0 && a.engines &&& b.engines == 0 &&
    !a.grants.any fun g => b.grants.any (meets g)

/-- A partition after its creation: every register of its window at its reset value. -/
def newPart (d : CreateDesc) : Part :=
  { desc := d, frctl := 0, jnlctl := 0, jnlhead := 0, jnltail := 0, hrctl := 0, hrhead := 0, tmrctl := 0, preemptdl := 50,
    hcmd := 0, nextId := 1, offers := [], phase := none, jobCount := 0, jobFault := false, jobEnds := 0, freeze := .clear,
    destroyed := false, moving := none }

/-- A core of a new partition: its registers at their reset values, beacons at zero (20 R420), and its caches as they were, which only an
invalidation empties (01 R9, log 6). -/
def Core.given (k : Core) : Core := { Core.reset with lcache := k.lcache, parity := k.parity, icache := k.icache, tlb := k.tlb }

/-- CREATE (22 R452). -/
def execCreate (d : CreateDesc) (s : State) : Ans :=
  if bootStat s != 2 || inTurn s d.pid then .next s
  else if (part? s d.pid).any (·.destroyed) then .next (done s 3)
  else if !createOk d then .next (done s 1)
  else if (part? s d.pid).isSome || !(s.parts.all fun p => disjoint d p.2.desc) ||
      56 < d.slots + (s.parts.map fun p => p.2.desc.slots).sum then .next (done s 2)
  else
    let s1 := { s with
      parts := mset s.parts d.pid (newPart d)
      cores := mmap s.cores fun c k => if c < 192 && d.cores.getLsbD c then k.given else k }
    .next (done s1 0)

/-- A queue goes (16 R340, 15 R328): its packets not accepted and its events go with it, its launches go on. -/
def dropQueue (s : State) (pid q : Nat) : State :=
  let s1 := modPart s pid fun p => { p with offers := p.offers.filter fun o => o.queue != some q }
  { s1 with
    queues := mdel s1.queues q
    events := s1.events.filter fun e => e != .bell q && e != .monitor q
    qgen := mset s1.qgen q ((mgetD s1.qgen q 0 + 1) % 65536)
    launches := mmap s1.launches fun _ l => if l.queue == some q && l.pid == pid then { l with qlive := false } else l }

/-- A communicator goes (17 R359). -/
def dropComm (s : State) (pid n : Nat) : State :=
  let s1 := endOpen s pid n 4
  sendPuts (send { s1 with comms := mdel s1.comms (ckey pid n) } (.ended pid n none 4)) pid

/-- The key belongs to a partition's HBM outside the carve-out, or to a slice of one of its cores. -/
def partKey (s : State) (d : CreateDesc) (a : Nat) : Bool :=
  if a < Config.hbmBytes then d.groups.getLsbD (a / Config.groupBytes) && !inCarveOut s a
  else
    let o := a - Config.scratchBase
    Config.scratchBase ≤ a && o / 2 ^ 30 < 4 && o / 2 ^ 22 % 256 < 48 &&
      d.cores.getLsbD (o / 2 ^ 30 * 48 + o / 2 ^ 22 % 256)

/-- Zero is written to a partition's HBM, slices and tiles, which repairs its units; its translations go, and what its load caches hold of
what was written. An instruction cache keeps its words (01 R9). -/
def wipe (s : State) (pid : Nat) (d : CreateDesc) : State :=
  let s1 := sweepAll s pid none
  let gone (a : Nat) : Bool := partKey s d a
  { s1 with
    mem := s1.mem.filter fun c => !gone c.1
    undef := s1.undef.filter fun r => !gone r.1
    full := s1.full.filter fun k => !gone (k * 16)
    poison := s1.poison.filter fun u => !gone (u * 32)
    cores := mmap s1.cores fun c k => if c < 192 && d.cores.getLsbD c then { k.given with lcache := [], parity := [] } else k
    tiles := mmap s1.tiles fun t x => if t / 128 < 192 && d.cores.getLsbD (t / 128) then x.freed else x }

/-- Every launch of a partition has ended and every gang is gone. -/
def partIdle (s : State) (pid : Nat) : Bool :=
  (s.launches.all fun l => l.2.pid != pid || 2 ≤ l.2.state) && s.gangs.all fun g => g.2.pid != pid

/-- The end of a destroy (22 R452). -/
def endDestroy (s : State) (pid : Nat) (d : CreateDesc) : State :=
  let s1 := (s.queues.filter fun q => q.2.pid == pid).foldl (fun s q => dropQueue s pid q.1) s
  let s2 := (s1.comms.filter fun c => c.1 / 256 == pid).foldl (fun s c => dropComm s pid (c.1 % 256)) s1
  let s3 := wipe s2 pid d
  { s3 with
    parts := mdel s3.parts pid
    launches := s3.launches.filter fun l => l.2.pid != pid
    graphs := s3.graphs.filter fun g => g.2.pid != pid
    phases := s3.phases.filter fun p => p.2.pid != pid
    sweeps := s3.sweeps.filter fun w => w.pid != pid }

/-- DESTROY (22 R452): every launch is cancelled; when their collectors have completed the partition goes. The event is also the
firmware's going on with a destroy that waits (log 41). -/
def execDestroy (pid : Nat) (s : State) : Ans :=
  served s pid fun s =>
    match part? s pid with
    | none => .next (done s 3)
    | some p =>
      if p.destroyed then
        if partIdle s pid then .next (done (endDestroy s pid p.desc) 0) else .next (done s 3)
      else
        let s1 := (s.launches.filter fun l => l.2.pid == pid).foldl (fun s l => cancelLaunch s l.1) s
        let s2 := modPart s1 pid fun p => { p with destroyed := true, offers := [], freeze := .clear }
        if partIdle s2 pid then .next (done (endDestroy s2 pid p.desc) 0) else .next s2

/-! ### Queues (16 R335, R340) -/

/-- A queue descriptor is in range (16 R335). -/
def queueOk (b : List Byte) : Bool :=
  b.length == 64 && fieldOf b 0 8 % 4096 == 0 && 4 ≤ fieldOf b 8 1 && fieldOf b 8 1 ≤ 16 && fieldOf b 9 1 ≤ 3 &&
    fieldOf b 0x0A 1 ≤ 1 && zerosAt b 0x0B 5 && fieldOf b 0x10 8 % 8 == 0 && fieldOf b 0x18 8 % 32 == 0 &&
    4 ≤ fieldOf b 0x20 1 && fieldOf b 0x20 1 ≤ 12 && zerosAt b 0x21 31

/-- The queue of a descriptor, IDLE with nothing accepted. -/
def newQueue (pid : Nat) (b : List Byte) : Queue :=
  { pid := pid, ring := dw (fieldOf b 0 8), size := fieldOf b 8 1, prio := fieldOf b 9 1, lat := fieldOf b 0x0A 1 == 1,
    rdidx := dw (fieldOf b 0x10 8), err := dw (fieldOf b 0x18 8), errsize := fieldOf b 0x20 1, r := 0, widx := 0, state := .idle,
    slot := none, since := 0, mappedAt := 0, graph := none, line := none, head := [], fromGraph := [], bell := none, met := false }

/-- The handle of a queue (15 R328). -/
def handleOf (s : State) (pid q : Nat) : DWord :=
  dw (s.package * 2 ^ 52 + q * 2 ^ 40 + mgetD s.qgen q 0 * 2 ^ 24 + pid * 2 ^ 19)

/-- QUEUE_CREATE (16 R335): `q` is a number that the firmware has chosen. -/
def execQueueCreate (pid q : Nat) (desc : List Byte) (s : State) : Ans :=
  served s pid fun s =>
    if (live? s pid).isNone then .next (done s 3)
    else if !queueOk desc then .next (done s 1)
    else if 4096 ≤ q || (mget? s.queues q).isSome ||
        (fieldOf desc 0x0A 1 == 1 && 8 ≤ (s.queues.filter fun x => x.2.lat).length) then .next (done s 2)
    else
      .next (done (send { s with queues := mset s.queues q (newQueue pid desc) } (.handle (handleOf s pid q))) 0)

/-- QUEUE_DESTROY (16 R340). -/
def execQueueDestroy (pid q : Nat) (s : State) : Ans :=
  served s pid fun s =>
    if (live? s pid).isNone || (queue? s pid q).isNone then .next (done s 3) else .next (done (dropQueue s pid q) 0)

/-- A queue in ERROR becomes IDLE, with R at its write index; no write of it waits any more (16 R340). -/
def clearQueue (s : State) (q : Nat) (x : Queue) : State :=
  let w := x.index
  let s1 := putQueue s q
    { x with state := .idle, r := w, widx := w, slot := none, line := none, head := [], fromGraph := [], bell := none, met := false }
  { s1 with events := s1.events.filter fun e => e != .bell q && e != .monitor q }

/-- QUEUE_RESET (16 R340). -/
def execQueueReset (pid q : Nat) (s : State) : Ans :=
  served s pid fun s =>
    match queue? s pid q with
    | none => .next (done s 3)
    | some x =>
      if (live? s pid).isNone then .next (done s 3)
      else if x.state == .error then .next (done (clearQueue s q x) 0)
      else .next (done s 0)

/-! ### Communicators (17 R358, R359) -/

/-- A communicator descriptor is in range (17 R358). -/
def commOk (b : List Byte) : Bool :=
  b.length == 64 && 1 ≤ fieldOf b 0 4 && fieldOf b 0 4 ≤ 2048 && fieldOf b 4 2 < fieldOf b 0 4 && fieldOf b 6 1 ≤ 36 &&
    fieldOf b 7 1 == 0 && fieldOf b 8 8 % 65536 == 0 && zerosAt b 0x18 40

/-- The address of the entry of a rank in the member list of a descriptor. -/
def memberAt (b : List Byte) (k : Nat) : DWord := dw (fieldOf b 0x10 8 + 4 * k)

/-- The members of a descriptor, as package and partition, from the list at its address. -/
def commMembers (s : State) (pid : Nat) (b : List Byte) : Option (List (Nat × Nat)) :=
  let m := fieldOf b 0 4
  let es := (List.range m).map fun k => (feRead s pid (memberAt b k) 4).map natOfBytes
  if es.all fun e => e.any fun x => x < 65536 then some (es.map fun e => (e.getD 0 % 2048, e.getD 0 / 2048)) else none

/-- COMMUNICATOR_CREATE (17 R358). -/
def execCommunicatorCreate (pid comm : Nat) (desc : List Byte) (s : State) : Ans :=
  served s pid fun s =>
    if (live? s pid).isNone then .next (done s 3)
    else if 256 ≤ comm then .next (done s 1)
    else if (comm? s pid comm).isSome then .next (done s 2)
    else if !commOk desc then .next (done s 1)
    else
      match commMembers s pid desc with
      | none =>
        let k := ((List.range (fieldOf desc 0 4)).find? fun k => (feRead s pid (memberAt desc k) 4).isNone).getD 0
        .next (done (feTell s pid .read (memberAt desc k) 4) 1)
      | some ms =>
        let c : Comm :=
          { count := fieldOf desc 0 4, rank := fieldOf desc 4 2, maxtrees := fieldOf desc 6 1, marks := dw (fieldOf desc 8 8),
            members := ms, derived := none, running := [], colls := [], cbars := [], puts := [], agree := false, restart := [],
            collNo := 0, cbarNo := 0, failed := [] }
        .next (done { s with comms := mset s.comms (ckey pid comm) c } 0)

/-- COMMUNICATOR_DESTROY (17 R359). -/
def execCommunicatorDestroy (pid comm : Nat) (s : State) : Ans :=
  served s pid fun s =>
    if (live? s pid).isNone || 256 ≤ comm || (comm? s pid comm).isNone then .next (done s 3) else .next (done (dropComm s pid comm) 0)

/-! ### Sweeps asked for by the host (04 R87, 22 R453) -/

/-- Begin a sweep whose end is a command's completion. -/
def hostSweep (s : State) (pid : Nat) (icache : Bool) (page : Option DWord) : State :=
  if (live? s pid).isNone then done s 3
  else { s with nextId := s.nextId + 1, sweeps := s.sweeps ++ [⟨s.nextId, pid, icache, page, none⟩] }

/-- CODE_INVALIDATE (22 R453). -/
def execCodeInvalidate (pid : Nat) (s : State) : Ans :=
  served s pid fun s => .next (hostSweep s pid true none)

/-- SHOOTDOWN (04 R87). -/
def execShootdown (pid : Nat) (all : Bool) (va : DWord) (s : State) : Ans :=
  served s pid fun s =>
    .next (hostSweep s pid false (if all then none else some va))

/-! ### Replay and fail (04 R92, 05 R137, 17 R373) -/

/-- The address lies in the 4 MiB block, or any will do. -/
def inBlock (block : Option Nat) (va : DWord) : Bool := block.all fun b => va.toNat / 2 ^ 22 == b

/-- What a replay makes of a fragment's wait. -/
def replayWait (f : Flight) (block : Option Nat) (w : Wait) : Wait :=
  match w with
  | .park op => if ((mop? f op).elim [] parkedLanes).any fun l => inBlock block l.va then .replay op else w
  | .packet va _ => if inBlock block va then .redo va else w
  | _ => w

/-- What a fail makes of a fragment's wait. -/
def failWait (f : Flight) (block : Option Nat) (w : Wait) : Wait :=
  match w with
  | .park op => if ((mop? f op).elim [] parkedLanes).any fun l => inBlock block l.va then .failPark op else w
  | .packet va k => if inBlock block va then .failPacket va k else w
  | _ => w

/-- Change the waits of a partition's fragments. -/
def modWaits (s : State) (pid : Nat) (k : Flight → Wait → Wait) : State :=
  { s with flights := mmap s.flights fun _ f =>
      if f.pid == pid then { f with frags := f.frags.map fun g => { g with wait := k f g.wait } } else f }

/-- Change the copy commands, collectives and puts of a partition. -/
def modOps (s : State) (pid : Nat) (cmd : Cmd → Cmd) (coll : CollOp → CollOp) (put : PutOp → PutOp) : State :=
  { s with
    engines := mmap s.engines fun _ e => { e with cmds := e.cmds.map fun c => if c.pid == pid then cmd c else c }
    comms := mmap s.comms fun k c => if k / 256 == pid then { c with colls := c.colls.map coll, puts := c.puts.map put } else c }

/-- A replay reaches everything of a partition that waits for a page of the block, and puts that waited for theirs are sent. -/
def replayAll (s : State) (pid : Nat) (block : Option Nat) : State :=
  takeUp
    (modOps (modWaits s pid fun f w => replayWait f block w) pid
      (fun c => if c.stall.any (inBlock block) && !c.doomed then { c with stall := none } else c)
      (fun o => { o with stalls := o.stalls.filter fun y => !inBlock block y.2 })
      (fun o => if o.stall.any (inBlock block) && !o.doomed then { o with stall := none } else o)) pid

/-- A fail reaches the same; what an engine has stopped for ends once it goes on. -/
def failAll (s : State) (pid : Nat) (block : Option Nat) : State :=
  takeUp
    (modOps (modWaits s pid fun f w => failWait f block w) pid
      (fun c => { c with doomed := c.doomed || c.stall.any (inBlock block) })
      (fun o => { o with doomed := o.doomed || o.stalls.any fun y => inBlock block y.2 })
      (fun o => { o with doomed := o.doomed || o.stall.any (inBlock block) })) pid

/-- A command of a partition that exists. -/
def onLive (s : State) (pid : Nat) (act : State → State) : Ans :=
  served s pid fun s => .next (if (live? s pid).isNone then done s 3 else done (act s) 0)

/-- REPLAY_PARTITION (04 R92). -/
def execReplayPartition (pid : Nat) (s : State) : Ans := onLive s pid fun s => replayAll s pid none

/-- REPLAY_BLOCK (04 R92): `block` is the number of a 4 MiB block. -/
def execReplayBlock (pid block : Nat) (s : State) : Ans := onLive s pid fun s => replayAll s pid (some block)

/-- FAIL_BLOCK (04 R92). -/
def execFailBlock (pid block : Nat) (s : State) : Ans := onLive s pid fun s => failAll s pid (some block)

/-! ### The end of a frozen job, thaw and restore (19 R399, R406, R412, R415) -/

/-- Every launch of a job that has not ended ends as faulted with a cause (19 R399), and its line is clear. -/
def endJob (s : State) (pid code detail : Nat) : State :=
  let ls := (s.launches.filter fun l => l.2.pid == pid && l.2.state < 2).map (·.1)
  let s1 := (s.gangs.filter fun g => g.2.pid == pid).foldl (fun s g => discardGang s g.1) s
  let s2 := ls.foldl (fun s k => finish (modLaunch s k fun l => { l with fault := some (code, detail, 0) }) k 4) s1
  { modPart s2 pid (fun p => { p with freeze := .clear }) with
    sweeps := s2.sweeps.filter fun w => !(w.pid == pid && w.waiter.isSome) }

/-- The code of the second fault of a double fault in a job. -/
def dblOf (s : State) (pid : Nat) : Option Nat := s.flights.findSome? fun x => if x.2.pid == pid then x.2.dblFlt else none

/-- FIRMWARE_ENDS_JOB (19 R399). -/
def execFirmwareEndsJob (pid : Nat) (s : State) : Ans :=
  match dblOf s pid with
  | some d => .next (if frozen s pid then endJob s pid 0x30 d else s)
  | none => .next s

/-- A pre-emption that was to end as a frozen save goes on from its deadline when the job is thawed before it was saved (19 R406). -/
def retryGang (g : Gang) : Gang :=
  if g.state == .stopping && g.why == 4 then { g with why := 1, acks := [], pmaxAt := [] } else g

/-- A fragment that its own freeze or double fault kept from issuing goes on; one of a cancelled launch does not. -/
def thawFrags (s : State) (f : Flight) : Flight :=
  if (launchOf s f).elim true (·.cancel) then f
  else { f with dblFlt := none, frags := f.frags.map fun g => if g.wait == .gone then { g with wait := .run } else g }

/-- Thaw a job (19 R412); a gang that the scan path has saved stays saved until a scan restore (R406). -/
def thawJob (s : State) (pid : Nat) : State :=
  let s0 := modPart s pid fun p => { p with freeze := .clear }
  let s1 := { s0 with gangs := mmap s0.gangs fun _ g => if g.pid == pid then retryGang g else g }
  takeUp { s1 with flights := mmap s1.flights fun _ f => if f.pid == pid then thawFrags s1 f else f } pid

/-- THAW (19 R412). -/
def execThaw (pid : Nat) (s : State) : Ans := onLive s pid fun s => thawJob s pid

/-- SCAN_RESTORE (19 R415, R406): the gangs of a frozen save return to their cores, or, where they do not fit, status 2; then records
are written back into the frozen job; one that is wrong stops the restore, and firmware ends the job faulted, with a cause that the
manual does not name (log 3). -/
def execScanRestore (pid : Nat) (recs : List (List Byte)) (s : State) : Ans :=
  served s pid fun s =>
    if (live? s pid).isNone || !frozen s pid then .next (done s 3)
    else
      match unfreezeSaved s pid with
      | none => .next (done s 2)
      | some s0 =>
        match loadRecords s0 pid recs [] none s0 with
        | (s1, true) => .next (done s1 0)
        | (s1, false) =>
          .next (done (endJob { s1 with free := s1.free + 1 } pid ((Config.freeWord (s1.free * 65536)).toNat % 256) 0) 1)

/-! ### Migration (16 R354) -/

/-- MIGRATION: the job's launches are stopped as by pre-emption; once they are, the pages that stay get their forwarding entries, and the
command completes. The copies to the other package are its own matter (log 42). -/
def execMigration (pid : Nat) (pages : List Nat) (s : State) : Ans :=
  if inSweep s pid || (part? s pid).any (fun p => p.moving.any (· != pages)) then .next s
  else if (live? s pid).isNone then .next (done (modPart s pid fun p => { p with moving := none }) 3)
  else if s.gangs.all fun g => g.2.pid != pid || g.2.state == .saved then
    .next (done (modPart { s with forwards := s.forwards ++ pages.map fun p => p / 65536 * 65536 } pid fun p => { p with moving := none }) 0)
  else if frozen s pid then .next s
  else
    .next ((s.launches.filter fun l => l.2.pid == pid && l.2.state < 2 && !l.2.cancel).foldl (fun s l => requestLaunch s pid l.2.id)
      (modPart s pid fun p => { p with moving := some pages }))

/-! ### Power and temperature (22 R454) -/

/-- What was measured: the clock is lowered at 105 °C, which are 840 units, or above the power limit; at 115 °C, 920 units, every job's
freeze line is asserted and the host is told. -/
def measure (s : State) (power temp : BitVec 16) : State :=
  let s1 := { s with
    tmax := temp, pnow := power, thr := s.thr || decide (s.plim.toNat < power.toNat) || decide (840 ≤ temp.toNat) }
  if temp.toNat < 920 then s1 else send (s1.parts.foldl (fun s p => assertFreeze s p.1) s1) .thermal

/-- THERMAL_POWER_LIMIT. -/
def execThermalPowerLimit (power temp : BitVec 16) (s : State) : Ans := .next (measure s power temp)

/-- THERMAL_SHUTDOWN: a temperature of 115 °C or more. -/
def execThermalShutdown (temp : BitVec 16) (s : State) : Ans :=
  .next (if temp.toNat < 920 then s else measure s s.pnow temp)

end Sys2Proof.Machine
end

