-- ==== Sys2Proof/Machine/PForm.lean ====
section
/-!
DEFINITION. The P form (02 R24-R27): two halves that read all of their operands before either writes.
-/
namespace Sys2Proof.Machine

/-- What a half computes for each lane: bits and flags; none for NOP (02 R25). -/
def halfOut (c : Ctx) (h : PHalf) : Option (Opnd × (Nat → FRes)) :=
  match h.dst with
  | none => none
  | some d =>
    let i2 (k : Word → Word → Word) (l : Nat) : FRes := ((k (src32 c d l) (src32 c h.x.s l)).toNat, 0)
    let f2 (k : Ty → Nat → Nat → Nat → FRes) (l : Nat) : FRes :=
      k h.x.ty (modeOf c (rmOf (h.x.pq.val / 2))) (src c h.x.ty d l) (src c h.x.ty h.x.s l)
    match h.op with
    | .nop => none
    | .vadd => some (d, i2 (· + ·))
    | .vsub => some (d, i2 (· - ·))
    | .vmul => some (d, i2 (· * ·))
    | .vand => some (d, i2 (· &&& ·))
    | .vor => some (d, i2 (· ||| ·))
    | .vxor => some (d, i2 (· ^^^ ·))
    | .vshl => some (d, i2 aShl)
    | .vshr => some (d, i2 aShr)
    | .vsar => some (d, i2 aSar)
    | .vmin => some (d, i2 (aMin (isS h.x.ty)))
    | .vmax => some (d, i2 (aMax (isS h.x.ty)))
    | .vmov => some (d, i2 fun _ y => y)
    | .vfadd => some (d, f2 lFadd)
    | .vfsub => some (d, f2 lFsub)
    | .vfmul => some (d, f2 lFmul)
    | .vfmin => some (d, f2 fun t _ x y => lFmm false t x y)
    | .vfmax => some (d, f2 fun t _ x y => lFmm true t x y)
    | .vcvt => some (d, fun l => lCvt h.x.ty (tyV h.x.pq.val) (modeOf c .dyn) (src c (tyV h.x.pq.val) h.x.s l) 0)
    | .sadd => some (d, i2 (· + ·))
    | .ssub => some (d, i2 (· - ·))
    | .smov => some (d, i2 fun _ y => y)
    | .sand => some (d, i2 (· &&& ·))
    | .sor => some (d, i2 (· ||| ·))

/-- Write a half's result: a scalar once, a vector in the active lanes with its flags. -/
def putHalf (c : Ctx) (r : Option (Opnd × (Nat → FRes))) : Ctx :=
  match r with
  | none => c
  | some (d, k) => if d.cls == .S then putS c d (w32 (k 0).1) else vecFlt c .u32 d k

/-- The registers a half names (02 R23). -/
def halfGroups (h : PHalf) : List (Opnd × Nat) := if h.op == .nop then [] else optGroup h.dst ++ [(h.x.s, 1)]

/-- A P-form word (02 R27). -/
def pair (a b : PHalf) : State → Ans :=
  issue (halfGroups a ++ halfGroups b) false fun c =>
    let ra := halfOut c a
    let rb := halfOut c b
    retireNext c (putHalf (putHalf c ra) rb)

/-- P_NOP in slot A (02 R25). -/
def execPNop (x : PArgs) (b : PHalf) (s : State) : Ans := pair ⟨.nop, x⟩ b s

/-- P_VADD in slot A (02 R25). -/
def execPVadd (x : PArgs) (b : PHalf) (s : State) : Ans := pair ⟨.vadd, x⟩ b s

/-- P_VSUB in slot A (02 R25). -/
def execPVsub (x : PArgs) (b : PHalf) (s : State) : Ans := pair ⟨.vsub, x⟩ b s

/-- P_VMUL in slot A (02 R25). -/
def execPVmul (x : PArgs) (b : PHalf) (s : State) : Ans := pair ⟨.vmul, x⟩ b s

/-- P_VAND in slot A (02 R25). -/
def execPVand (x : PArgs) (b : PHalf) (s : State) : Ans := pair ⟨.vand, x⟩ b s

/-- P_VOR in slot A (02 R25). -/
def execPVor (x : PArgs) (b : PHalf) (s : State) : Ans := pair ⟨.vor, x⟩ b s

/-- P_VXOR in slot A (02 R25). -/
def execPVxor (x : PArgs) (b : PHalf) (s : State) : Ans := pair ⟨.vxor, x⟩ b s

/-- P_VSHL in slot A (02 R25). -/
def execPVshl (x : PArgs) (b : PHalf) (s : State) : Ans := pair ⟨.vshl, x⟩ b s

/-- P_VSHR in slot A (02 R25). -/
def execPVshr (x : PArgs) (b : PHalf) (s : State) : Ans := pair ⟨.vshr, x⟩ b s

/-- P_VSAR in slot A (02 R25). -/
def execPVsar (x : PArgs) (b : PHalf) (s : State) : Ans := pair ⟨.vsar, x⟩ b s

/-- P_VMIN in slot A (02 R25). -/
def execPVmin (x : PArgs) (b : PHalf) (s : State) : Ans := pair ⟨.vmin, x⟩ b s

/-- P_VMAX in slot A (02 R25). -/
def execPVmax (x : PArgs) (b : PHalf) (s : State) : Ans := pair ⟨.vmax, x⟩ b s

/-- P_VMOV in slot A (02 R25). -/
def execPVmov (x : PArgs) (b : PHalf) (s : State) : Ans := pair ⟨.vmov, x⟩ b s

/-- P_VFADD in slot A (02 R25). -/
def execPVfadd (x : PArgs) (b : PHalf) (s : State) : Ans := pair ⟨.vfadd, x⟩ b s

/-- P_VFSUB in slot A (02 R25). -/
def execPVfsub (x : PArgs) (b : PHalf) (s : State) : Ans := pair ⟨.vfsub, x⟩ b s

/-- P_VFMUL in slot A (02 R25). -/
def execPVfmul (x : PArgs) (b : PHalf) (s : State) : Ans := pair ⟨.vfmul, x⟩ b s

/-- P_VFMIN in slot A (02 R25). -/
def execPVfmin (x : PArgs) (b : PHalf) (s : State) : Ans := pair ⟨.vfmin, x⟩ b s

/-- P_VFMAX in slot A (02 R25). -/
def execPVfmax (x : PArgs) (b : PHalf) (s : State) : Ans := pair ⟨.vfmax, x⟩ b s

/-- P_VCVT in slot A (02 R25). -/
def execPVcvt (x : PArgs) (b : PHalf) (s : State) : Ans := pair ⟨.vcvt, x⟩ b s

/-- P_SADD in slot A (02 R25). -/
def execPSadd (x : PArgs) (b : PHalf) (s : State) : Ans := pair ⟨.sadd, x⟩ b s

/-- P_SSUB in slot A (02 R25). -/
def execPSsub (x : PArgs) (b : PHalf) (s : State) : Ans := pair ⟨.ssub, x⟩ b s

/-- P_SMOV in slot A (02 R25). -/
def execPSmov (x : PArgs) (b : PHalf) (s : State) : Ans := pair ⟨.smov, x⟩ b s

/-- P_SAND in slot A (02 R25). -/
def execPSand (x : PArgs) (b : PHalf) (s : State) : Ans := pair ⟨.sand, x⟩ b s

/-- P_SOR in slot A (02 R25). -/
def execPSor (x : PArgs) (b : PHalf) (s : State) : Ans := pair ⟨.sor, x⟩ b s

end Sys2Proof.Machine
end

