-- ==== Sys2Proof/Machine/Sfu.lean ====
section
/-!
DEFINITION. The special-function instructions (08 R218, R219): each issues a result that SFU_RESULT_WRITE writes later.
-/
namespace Sys2Proof.Machine

/-- A special-function instruction: the exact value rounded once to the type under rne. -/
def special1 (k : Fmt → FVal → FRes) (t : Ty) (d a : Opnd) : State → Ans :=
  issue [(d, 1), (a, 1)] false fun c =>
    if Counter.limit .sfu ≤ count c.f c.g.level .sfu then stall c .counter
    else
      let rs := laneResults c fun l => k (fmtOf t) (fval t (src c t a l))
      retireNext c (pendResult c false d [rs.map fun r => w32 r.1] (flagMasks (fun l => (rs.getD l (0, 0)).2) c.g.em))

/-- VRCP (08 R219). -/
def execVrcp (t : Ty) (_ : Rm) (d a : Opnd) (s : State) : Ans := special1 sRcp t d a s

/-- VRSQ (08 R219). -/
def execVrsq (t : Ty) (_ : Rm) (d a : Opnd) (s : State) : Ans := special1 sRsq t d a s

/-- VSQRT (08 R219). -/
def execVsqrt (t : Ty) (_ : Rm) (d a : Opnd) (s : State) : Ans := special1 sSqrt t d a s

/-- VEXP2 (08 R219). -/
def execVexp2 (t : Ty) (_ : Rm) (d a : Opnd) (s : State) : Ans := special1 sExp2 t d a s

/-- VLOG2 (08 R219). -/
def execVlog2 (t : Ty) (_ : Rm) (d a : Opnd) (s : State) : Ans := special1 sLog2 t d a s

/-- VSINPI (08 R219). -/
def execVsinpi (t : Ty) (_ : Rm) (d a : Opnd) (s : State) : Ans := special1 sSinPi t d a s

/-- VCOSPI (08 R219). -/
def execVcospi (t : Ty) (_ : Rm) (d a : Opnd) (s : State) : Ans := special1 sCosPi t d a s

/-- VTANH (08 R219). -/
def execVtanh (t : Ty) (_ : Rm) (d a : Opnd) (s : State) : Ans := special1 sTanh t d a s

/-- SFU_RESULT_WRITE (08 R218, 07 R187); nothing is written in a frozen job (19 R412). -/
def execSfuResultWrite (fid id : Nat) (s : State) : Ans :=
  match flight? s fid with
  | none => .next s
  | some f =>
    match f.pend.find? fun p => p.id == id && !p.acc with
    | some p => if pendReady f p && !frozen s f.pid then .next (landPend s fid p) else .next s
    | none => .next s

end Sys2Proof.Machine
end

