-- ==== Sys2Proof/Machine/Dispatch.lean ====
section
/-!
DEFINITION. One arm for each constructor of Instr: a direct call of its meaning.
-/
namespace Sys2Proof.Machine

def exec (i : Instr) (s : State) : Host.Outcome State Fault Refusal :=
  match i with
  | .nop => Sys2Proof.Machine.execNop s
  | .sadd ty d a b => Sys2Proof.Machine.execSadd ty d a b s
  | .ssub ty d a b => Sys2Proof.Machine.execSsub ty d a b s
  | .smul ty d a b => Sys2Proof.Machine.execSmul ty d a b s
  | .smulh ty d a b => Sys2Proof.Machine.execSmulh ty d a b s
  | .sand ty d a b => Sys2Proof.Machine.execSand ty d a b s
  | .sor ty d a b => Sys2Proof.Machine.execSor ty d a b s
  | .sxor ty d a b => Sys2Proof.Machine.execSxor ty d a b s
  | .sshl ty d a b => Sys2Proof.Machine.execSshl ty d a b s
  | .sshr ty d a b => Sys2Proof.Machine.execSshr ty d a b s
  | .ssar ty d a b => Sys2Proof.Machine.execSsar ty d a b s
  | .smin ty d a b => Sys2Proof.Machine.execSmin ty d a b s
  | .smax ty d a b => Sys2Proof.Machine.execSmax ty d a b s
  | .scmp ty c d a b => Sys2Proof.Machine.execScmp ty c d a b s
  | .ssel ty d a b x => Sys2Proof.Machine.execSsel ty d a b x s
  | .smov ty d a => Sys2Proof.Machine.execSmov ty d a s
  | .smovs d n => Sys2Proof.Machine.execSmovs d n s
  | .smovw n a => Sys2Proof.Machine.execSmovw n a s
  | .sbfe ty d a b x => Sys2Proof.Machine.execSbfe ty d a b x s
  | .spopc d a => Sys2Proof.Machine.execSpopc d a s
  | .sclz d a => Sys2Proof.Machine.execSclz d a s
  | .sadd64 ty d a b => Sys2Proof.Machine.execSadd64 ty d a b s
  | .saddI d a imm => Sys2Proof.Machine.execSaddI d a imm s
  | .ssubI d a imm => Sys2Proof.Machine.execSsubI d a imm s
  | .smulI d a imm => Sys2Proof.Machine.execSmulI d a imm s
  | .sandI d a imm => Sys2Proof.Machine.execSandI d a imm s
  | .sorI d a imm => Sys2Proof.Machine.execSorI d a imm s
  | .sxorI d a imm => Sys2Proof.Machine.execSxorI d a imm s
  | .sshlI d a imm => Sys2Proof.Machine.execSshlI d a imm s
  | .sshrI d a imm => Sys2Proof.Machine.execSshrI d a imm s
  | .ssarI d a imm => Sys2Proof.Machine.execSsarI d a imm s
  | .exit => Sys2Proof.Machine.execExit s
  | .ret a => Sys2Proof.Machine.execRet a s
  | .yield => Sys2Proof.Machine.execYield s
  | .regn => Sys2Proof.Machine.execRegn s
  | .brkpt a => Sys2Proof.Machine.execBrkpt a s
  | .wait limits => Sys2Proof.Machine.execWait limits s
  | .barw a b => Sys2Proof.Machine.execBarw a b s
  | .bara a b => Sys2Proof.Machine.execBara a b s
  | .fence kind scope => Sys2Proof.Machine.execFence kind scope s
  | .opfence => Sys2Proof.Machine.execOpfence s
  | .reggive a => Sys2Proof.Machine.execReggive a s
  | .regclaim a => Sys2Proof.Machine.execRegclaim a s
  | .regclaimTry d a => Sys2Proof.Machine.execRegclaimTry d a s
  | .mand m ma mb => Sys2Proof.Machine.execMand m ma mb s
  | .mor m ma mb => Sys2Proof.Machine.execMor m ma mb s
  | .mxor m ma mb => Sys2Proof.Machine.execMxor m ma mb s
  | .mandn m ma mb => Sys2Proof.Machine.execMandn m ma mb s
  | .mpopc d ma => Sys2Proof.Machine.execMpopc d ma s
  | .mfirst d ma => Sys2Proof.Machine.execMfirst d ma s
  | .mlane m a => Sys2Proof.Machine.execMlane m a s
  | .vadd ty d a b => Sys2Proof.Machine.execVadd ty d a b s
  | .vsub ty d a b => Sys2Proof.Machine.execVsub ty d a b s
  | .vmul ty d a b => Sys2Proof.Machine.execVmul ty d a b s
  | .vmulh ty d a b => Sys2Proof.Machine.execVmulh ty d a b s
  | .vmad ty d a b x => Sys2Proof.Machine.execVmad ty d a b x s
  | .vand ty d a b => Sys2Proof.Machine.execVand ty d a b s
  | .vor ty d a b => Sys2Proof.Machine.execVor ty d a b s
  | .vxor ty d a b => Sys2Proof.Machine.execVxor ty d a b s
  | .vandn ty d a b => Sys2Proof.Machine.execVandn ty d a b s
  | .vshl ty d a b => Sys2Proof.Machine.execVshl ty d a b s
  | .vshr ty d a b => Sys2Proof.Machine.execVshr ty d a b s
  | .vsar ty d a b => Sys2Proof.Machine.execVsar ty d a b s
  | .vmin ty d a b => Sys2Proof.Machine.execVmin ty d a b s
  | .vmax ty d a b => Sys2Proof.Machine.execVmax ty d a b s
  | .vabs d a => Sys2Proof.Machine.execVabs d a s
  | .vclz d a => Sys2Proof.Machine.execVclz d a s
  | .vpopc d a => Sys2Proof.Machine.execVpopc d a s
  | .vbfe ty d a b x => Sys2Proof.Machine.execVbfe ty d a b x s
  | .vbfi d a b x => Sys2Proof.Machine.execVbfi d a b x s
  | .vcmp ty c d a b => Sys2Proof.Machine.execVcmp ty c d a b s
  | .vsel ty d a b x => Sys2Proof.Machine.execVsel ty d a b x s
  | .vmov ty d a => Sys2Proof.Machine.execVmov ty d a s
  | .vadd64 ty d a b => Sys2Proof.Machine.execVadd64 ty d a b s
  | .vmad64 ty d a b x => Sys2Proof.Machine.execVmad64 ty d a b x s
  | .vshfl ty mode d a b => Sys2Proof.Machine.execVshfl ty mode d a b s
  | .vbcast ty d a b => Sys2Proof.Machine.execVbcast ty d a b s
  | .vredu ty op d a => Sys2Proof.Machine.execVredu ty op d a s
  | .vscan ty op excl d a => Sys2Proof.Machine.execVscan ty op excl d a s
  | .vmovs d n => Sys2Proof.Machine.execVmovs d n s
  | .vaddI d a imm => Sys2Proof.Machine.execVaddI d a imm s
  | .vsubI d a imm => Sys2Proof.Machine.execVsubI d a imm s
  | .vmulI d a imm => Sys2Proof.Machine.execVmulI d a imm s
  | .vandI d a imm => Sys2Proof.Machine.execVandI d a imm s
  | .vorI d a imm => Sys2Proof.Machine.execVorI d a imm s
  | .vxorI d a imm => Sys2Proof.Machine.execVxorI d a imm s
  | .vshlI d a imm => Sys2Proof.Machine.execVshlI d a imm s
  | .vshrI d a imm => Sys2Proof.Machine.execVshrI d a imm s
  | .vsarI d a imm => Sys2Proof.Machine.execVsarI d a imm s
  | .vfadd ty rm d a b => Sys2Proof.Machine.execVfadd ty rm d a b s
  | .vfsub ty rm d a b => Sys2Proof.Machine.execVfsub ty rm d a b s
  | .vfmul ty rm d a b => Sys2Proof.Machine.execVfmul ty rm d a b s
  | .vfma ty rm d a b x => Sys2Proof.Machine.execVfma ty rm d a b x s
  | .vfmin ty d a b => Sys2Proof.Machine.execVfmin ty d a b s
  | .vfmax ty d a b => Sys2Proof.Machine.execVfmax ty d a b s
  | .vfcmp ty c d a b => Sys2Proof.Machine.execVfcmp ty c d a b s
  | .vfclass ty d a => Sys2Proof.Machine.execVfclass ty d a s
  | .vfrnd ty rm d a => Sys2Proof.Machine.execVfrnd ty rm d a s
  | .vcvt ty rm src d a b => Sys2Proof.Machine.execVcvt ty rm src d a b s
  | .vf2i ty rm src d a b => Sys2Proof.Machine.execVf2i ty rm src d a b s
  | .vi2f ty rm src d a b => Sys2Proof.Machine.execVi2f ty rm src d a b s
  | .vfscl ty rm d a b => Sys2Proof.Machine.execVfscl ty rm d a b s
  | .vrcp ty rm d a => Sys2Proof.Machine.execVrcp ty rm d a s
  | .vrsq ty rm d a => Sys2Proof.Machine.execVrsq ty rm d a s
  | .vsqrt ty rm d a => Sys2Proof.Machine.execVsqrt ty rm d a s
  | .vexp2 ty rm d a => Sys2Proof.Machine.execVexp2 ty rm d a s
  | .vlog2 ty rm d a => Sys2Proof.Machine.execVlog2 ty rm d a s
  | .vsinpi ty rm d a => Sys2Proof.Machine.execVsinpi ty rm d a s
  | .vcospi ty rm d a => Sys2Proof.Machine.execVcospi ty rm d a s
  | .vtanh ty rm d a => Sys2Proof.Machine.execVtanh ty rm d a s
  | .welf rm d a => Sys2Proof.Machine.execWelf rm d a s
  | .wmrg rm d a => Sys2Proof.Machine.execWmrg rm d a s
  | .vbexp ty n d a => Sys2Proof.Machine.execVbexp ty n d a s
  | .vpkx ty d a b => Sys2Proof.Machine.execVpkx ty d a b s
  | .vunpkx ty d a b => Sys2Proof.Machine.execVunpkx ty d a b s
  | .imgq map d a b => Sys2Proof.Machine.execImgq map d a b s
  | .cpy d a b => Sys2Proof.Machine.execCpy d a b s
  | .cpyt every d a b t => Sys2Proof.Machine.execCpyt every d a b t s
  | .cpytCancel t => Sys2Proof.Machine.execCpytCancel t s
  | .cpyg d a b => Sys2Proof.Machine.execCpyg d a b s
  | .cpys d a b => Sys2Proof.Machine.execCpys d a b s
  | .cpyb d a b => Sys2Proof.Machine.execCpyb d a b s
  | .sqfill d a b o => Sys2Proof.Machine.execSqfill d a b o s
  | .boinit a b => Sys2Proof.Machine.execBoinit a b s
  | .boexp arr bs a b => Sys2Proof.Machine.execBoexp arr bs a b s
  | .boarr lanes bs d a => Sys2Proof.Machine.execBoarr lanes bs d a s
  | .bowait bs a b => Sys2Proof.Machine.execBowait bs a b s
  | .botry bs d a b => Sys2Proof.Machine.execBotry bs d a b s
  | .lcon ty sp acc a b x => Sys2Proof.Machine.execLcon ty sp acc a b x s
  | .lcona ty gang sp acc a b x => Sys2Proof.Machine.execLcona ty gang sp acc a b x s
  | .accget acc => Sys2Proof.Machine.execAccget acc s
  | .accput acc => Sys2Proof.Machine.execAccput acc s
  | .accz acc => Sys2Proof.Machine.execAccz acc s
  | .accrd d acc b => Sys2Proof.Machine.execAccrd d acc b s
  | .accwr acc a b => Sys2Proof.Machine.execAccwr acc a b s
  | .accst acc a b => Sys2Proof.Machine.execAccst acc a b s
  | .scacc ty acc => Sys2Proof.Machine.execScacc ty acc s
  | .sqpush a => Sys2Proof.Machine.execSqpush a s
  | .sqcnt d => Sys2Proof.Machine.execSqcnt d s
  | .accsv acc a => Sys2Proof.Machine.execAccsv acc a s
  | .accld acc a => Sys2Proof.Machine.execAccld acc a s
  | .ld wd sc fe nt d m => Sys2Proof.Machine.execLd wd sc fe nt d m s
  | .st wd sc sf img nt d m => Sys2Proof.Machine.execSt wd sc sf img nt d m s
  | .sld wd sc fe nt d m => Sys2Proof.Machine.execSld wd sc fe nt d m s
  | .sst wd sc sf nt d m => Sys2Proof.Machine.execSst wd sc sf nt d m s
  | .pf nt m => Sys2Proof.Machine.execPf nt m s
  | .fest sc full m => Sys2Proof.Machine.execFest sc full m s
  | .feq sc d m => Sys2Proof.Machine.execFeq sc d m s
  | .aadd t sc img nt d m => Sys2Proof.Machine.execAadd t sc img nt d m s
  | .aaddOrd sc img nt d m => Sys2Proof.Machine.execAaddOrd sc img nt d m s
  | .aand t sc img nt d m => Sys2Proof.Machine.execAand t sc img nt d m s
  | .aor t sc img nt d m => Sys2Proof.Machine.execAor t sc img nt d m s
  | .axor t sc img nt d m => Sys2Proof.Machine.execAxor t sc img nt d m s
  | .amin t sc img nt d m => Sys2Proof.Machine.execAmin t sc img nt d m s
  | .amax t sc img nt d m => Sys2Proof.Machine.execAmax t sc img nt d m s
  | .axchg t sc img nt d m => Sys2Proof.Machine.execAxchg t sc img nt d m s
  | .acas t sc nt d m => Sys2Proof.Machine.execAcas t sc nt d m s
  | .aincb sc nt d m => Sys2Proof.Machine.execAincb sc nt d m s
  | .depdec sc d m => Sys2Proof.Machine.execDepdec sc d m s
  | .aseal sc m => Sys2Proof.Machine.execAseal sc m s
  | .bra off => Sys2Proof.Machine.execBra off s
  | .brc cc c off => Sys2Proof.Machine.execBrc cc c off s
  | .brv cc c tok off => Sys2Proof.Machine.execBrv cc c tok off s
  | .brmLanes m tok off => Sys2Proof.Machine.execBrmLanes m tok off s
  | .brm mode m off => Sys2Proof.Machine.execBrm mode m off s
  | .join tok => Sys2Proof.Machine.execJoin tok s
  | .call k off => Sys2Proof.Machine.execCall k off s
  | .smovi d v => Sys2Proof.Machine.execSmovi d v s
  | .vmovi d v => Sys2Proof.Machine.execVmovi d v s
  | .saddi d a v => Sys2Proof.Machine.execSaddi d a v s
  | .vaddi d a v => Sys2Proof.Machine.execVaddi d a v s
  | .pNop x b => Sys2Proof.Machine.execPNop x b s
  | .pVadd x b => Sys2Proof.Machine.execPVadd x b s
  | .pVsub x b => Sys2Proof.Machine.execPVsub x b s
  | .pVmul x b => Sys2Proof.Machine.execPVmul x b s
  | .pVand x b => Sys2Proof.Machine.execPVand x b s
  | .pVor x b => Sys2Proof.Machine.execPVor x b s
  | .pVxor x b => Sys2Proof.Machine.execPVxor x b s
  | .pVshl x b => Sys2Proof.Machine.execPVshl x b s
  | .pVshr x b => Sys2Proof.Machine.execPVshr x b s
  | .pVsar x b => Sys2Proof.Machine.execPVsar x b s
  | .pVmin x b => Sys2Proof.Machine.execPVmin x b s
  | .pVmax x b => Sys2Proof.Machine.execPVmax x b s
  | .pVmov x b => Sys2Proof.Machine.execPVmov x b s
  | .pVfadd x b => Sys2Proof.Machine.execPVfadd x b s
  | .pVfsub x b => Sys2Proof.Machine.execPVfsub x b s
  | .pVfmul x b => Sys2Proof.Machine.execPVfmul x b s
  | .pVfmin x b => Sys2Proof.Machine.execPVfmin x b s
  | .pVfmax x b => Sys2Proof.Machine.execPVfmax x b s
  | .pVcvt x b => Sys2Proof.Machine.execPVcvt x b s
  | .pSadd x b => Sys2Proof.Machine.execPSadd x b s
  | .pSsub x b => Sys2Proof.Machine.execPSsub x b s
  | .pSmov x b => Sys2Proof.Machine.execPSmov x b s
  | .pSand x b => Sys2Proof.Machine.execPSand x b s
  | .pSor x b => Sys2Proof.Machine.execPSor x b s
  | .enq detach d a => Sys2Proof.Machine.execEnq detach d a s
  | .enqr d a b => Sys2Proof.Machine.execEnqr d a b s
  | .lcancel d a => Sys2Proof.Machine.execLcancel d a s
  | .lcancelTree d a => Sys2Proof.Machine.execLcancelTree d a s
  | .lcntGangs d a => Sys2Proof.Machine.execLcntGangs d a s
  | .lcntTree d a => Sys2Proof.Machine.execLcntTree d a s
  | .lcntState d a => Sys2Proof.Machine.execLcntState d a s
  | .coll kind d a b => Sys2Proof.Machine.execColl kind d a b s
  | .cbar d a b => Sys2Proof.Machine.execCbar d a b s
  | .cput d a b => Sys2Proof.Machine.execCput d a b s
  | .ctree q d a b => Sys2Proof.Machine.execCtree q d a b s
  | .trap a => Sys2Proof.Machine.execTrap a s
  | .tretRetry => Sys2Proof.Machine.execTretRetry s
  | .tretSkip => Sys2Proof.Machine.execTretSkip s
  | .tretRegion => Sys2Proof.Machine.execTretRegion s
  | .kill m => Sys2Proof.Machine.execKill m s
  | .killFault m => Sys2Proof.Machine.execKillFault m s
  | .smovp d n => Sys2Proof.Machine.execSmovp d n s
  | .smovq n a => Sys2Proof.Machine.execSmovq n a s
  | .invlp a => Sys2Proof.Machine.execInvlp a s
  | .invlpAll => Sys2Proof.Machine.execInvlpAll s
  | .invlpIcache => Sys2Proof.Machine.execInvlpIcache s
  | .frz => Sys2Proof.Machine.execFrz s
  | .frzSnap => Sys2Proof.Machine.execFrzSnap s
  | .dbgrd d a b => Sys2Proof.Machine.execDbgrd d a b s
  | .dbgwr d a b x => Sys2Proof.Machine.execDbgwr d a b x s
  | .dstep d a => Sys2Proof.Machine.execDstep d a s
  | .dstepIsolate d a b => Sys2Proof.Machine.execDstepIsolate d a b s
  | .illegalWord w => Sys2Proof.Machine.execIllegalWord w s
  | .regclaimGrant gid rank slot => Sys2Proof.Machine.execRegclaimGrant gid rank slot s
  | .sfuResultWrite fid id => Sys2Proof.Machine.execSfuResultWrite fid id s
  | .copyUnitDone e cmd => Sys2Proof.Machine.execCopyUnitDone e cmd s
  | .cpytFiring e arm => Sys2Proof.Machine.execCpytFiring e arm s
  | .sqfillPush e cmd => Sys2Proof.Machine.execSqfillPush e cmd s
  | .bowaitWake fid frag => Sys2Proof.Machine.execBowaitWake fid frag s
  | .contractionStep tile inst => Sys2Proof.Machine.execContractionStep tile inst s
  | .accrdResultWrite fid id => Sys2Proof.Machine.execAccrdResultWrite fid id s
  | .accstStoreDone e cmd => Sys2Proof.Machine.execAccstStoreDone e cmd s
  | .foldApply tile => Sys2Proof.Machine.execFoldApply tile s
  | .loadResultWrite fid op lane => Sys2Proof.Machine.execLoadResultWrite fid op lane s
  | .feWaitSatisfied fid op lane => Sys2Proof.Machine.execFeWaitSatisfied fid op lane s
  | .enqrDelivery m => Sys2Proof.Machine.execEnqrDelivery m s
  | .collChunkStage pid comm chunk stage peers => Sys2Proof.Machine.execCollChunkStage pid comm chunk stage peers s
  | .cbarInstanceDone pid comm => Sys2Proof.Machine.execCbarInstanceDone pid comm s
  | .cputRemoteArrival p => Sys2Proof.Machine.execCputRemoteArrival p s
  | .cputAck pid comm id ok status => Sys2Proof.Machine.execCputAck pid comm id ok status s
  | .linkStateChange l up => Sys2Proof.Machine.execLinkStateChange l up s
  | .linkStateMessage l up seq => Sys2Proof.Machine.execLinkStateMessage l up seq s
  | .agreement pid comm x peersDone => Sys2Proof.Machine.execAgreement pid comm x peersDone s
  | .invalidationSweepDone id => Sys2Proof.Machine.execInvalidationSweepDone id s
  | .freezeTakesEffect pid => Sys2Proof.Machine.execFreezeTakesEffect pid s
  | .gangHaltOtherFlight fid further => Sys2Proof.Machine.execGangHaltOtherFlight fid further s
  | .asyncFaultTaken => Sys2Proof.Machine.execAsyncFaultTaken s
  | .timerPeriodEnd pid => Sys2Proof.Machine.execTimerPeriodEnd pid s
  | .timerTrapTaken => Sys2Proof.Machine.execTimerTrapTaken s
  | .fragmentAged fid frag => Sys2Proof.Machine.execFragmentAged fid frag s
  | .fragmentSwitch core slot => Sys2Proof.Machine.execFragmentSwitch core slot s
  | .preemptRequest pid launch => Sys2Proof.Machine.execPreemptRequest pid launch s
  | .preemptDeadline gid => Sys2Proof.Machine.execPreemptDeadline gid s
  | .preemptmaxExpiry fid => Sys2Proof.Machine.execPreemptmaxExpiry fid s
  | .engineStopAck gid u => Sys2Proof.Machine.execEngineStopAck gid u s
  | .gangRestore gid => Sys2Proof.Machine.execGangRestore gid s
  | .preemptWaitTimeout die => Sys2Proof.Machine.execPreemptWaitTimeout die s
  | .launchAccept pid => Sys2Proof.Machine.execLaunchAccept pid s
  | .globalDispatch pid launch die count => Sys2Proof.Machine.execGlobalDispatch pid launch die count s
  | .gangPlace die idx => Sys2Proof.Machine.execGangPlace die idx s
  | .gangRetire gid => Sys2Proof.Machine.execGangRetire gid s
  | .cancelComplete pid launch => Sys2Proof.Machine.execCancelComplete pid launch s
  | .qnotifyWrite pid q widx => Sys2Proof.Machine.execQnotifyWrite pid q widx s
  | .queueMap pid q slot => Sys2Proof.Machine.execQueueMap pid q slot s
  | .queueDisplace pid q slot => Sys2Proof.Machine.execQueueDisplace pid q slot s
  | .queueQuantumExpiry slot => Sys2Proof.Machine.execQueueQuantumExpiry slot s
  | .packetLaunch pid q => Sys2Proof.Machine.execPacketLaunch pid q s
  | .packetGraph pid q => Sys2Proof.Machine.execPacketGraph pid q s
  | .packetSignal pid q => Sys2Proof.Machine.execPacketSignal pid q s
  | .packetWait pid q => Sys2Proof.Machine.execPacketWait pid q s
  | .packetBarrier pid q => Sys2Proof.Machine.execPacketBarrier pid q s
  | .packetCancel pid q => Sys2Proof.Machine.execPacketCancel pid q s
  | .waitMonitorHit pid q => Sys2Proof.Machine.execWaitMonitorHit pid q s
  | .queueUnblock pid q => Sys2Proof.Machine.execQueueUnblock pid q s
  | .forwardedWrite addr data => Sys2Proof.Machine.execForwardedWrite addr data s
  | .hostAccess write addr data => Sys2Proof.Machine.execHostAccess write addr data s
  | .registerWrite w off val => Sys2Proof.Machine.execRegisterWrite w off val s
  | .bootLock => Sys2Proof.Machine.execBootLock s
  | .bootVerifyDone => Sys2Proof.Machine.execBootVerifyDone s
  | .reset => Sys2Proof.Machine.execReset s
  | .create p => Sys2Proof.Machine.execCreate p s
  | .destroy pid => Sys2Proof.Machine.execDestroy pid s
  | .queueCreate pid q desc => Sys2Proof.Machine.execQueueCreate pid q desc s
  | .queueDestroy pid q => Sys2Proof.Machine.execQueueDestroy pid q s
  | .queueReset pid q => Sys2Proof.Machine.execQueueReset pid q s
  | .communicatorCreate pid comm desc => Sys2Proof.Machine.execCommunicatorCreate pid comm desc s
  | .communicatorDestroy pid comm => Sys2Proof.Machine.execCommunicatorDestroy pid comm s
  | .codeInvalidate pid => Sys2Proof.Machine.execCodeInvalidate pid s
  | .replayPartition pid => Sys2Proof.Machine.execReplayPartition pid s
  | .replayBlock pid block => Sys2Proof.Machine.execReplayBlock pid block s
  | .failBlock pid block => Sys2Proof.Machine.execFailBlock pid block s
  | .shootdown pid all va => Sys2Proof.Machine.execShootdown pid all va s
  | .scan pid => Sys2Proof.Machine.execScan pid s
  | .scanRestore pid recs => Sys2Proof.Machine.execScanRestore pid recs s
  | .thaw pid => Sys2Proof.Machine.execThaw pid s
  | .migration pid pages => Sys2Proof.Machine.execMigration pid pages s
  | .attest nonce => Sys2Proof.Machine.execAttest nonce s
  | .traceSyncSet core => Sys2Proof.Machine.execTraceSyncSet core s
  | .traceLostPacket core => Sys2Proof.Machine.execTraceLostPacket core s
  | .sampleTick core => Sys2Proof.Machine.execSampleTick core s
  | .thermalPowerLimit power temp => Sys2Proof.Machine.execThermalPowerLimit power temp s
  | .thermalShutdown temp => Sys2Proof.Machine.execThermalShutdown temp s
  | .instructionFetchFault => Sys2Proof.Machine.execInstructionFetchFault s
  | .storePerformed fid op lane => Sys2Proof.Machine.execStorePerformed fid op lane s
  | .memberLeft pid comm peer => Sys2Proof.Machine.execMemberLeft pid comm peer s
  | .haltCommand pid launch gang rank flight whole => Sys2Proof.Machine.execHaltCommand pid launch gang rank flight whole s
  | .freezeCommand pid => Sys2Proof.Machine.execFreezeCommand pid s
  | .snapshotTriggerCommand => Sys2Proof.Machine.execSnapshotTriggerCommand s
  | .firmwareEndsJob pid => Sys2Proof.Machine.execFirmwareEndsJob pid s

end Sys2Proof.Machine
end

