-- ==== Sys2Proof/Machine/Turn.lean ====
section
/-!
DEFINITION. A slot's turn: what a fragment does when its slot tries it, in the order of 02 R40 and 19 R396, R411, and how the
slot goes from one fragment to the next (06 R153). Machine/Step.lean calls these.
-/
namespace Sys2Proof.Machine

/-- An instruction that stands for something the machine, the host or the firmware does of itself, not for a word that a fragment
fetches nor for what a fragment meets in its turn. -/
def happens (i : Instr) : Bool :=
  match i with
  | .asyncFaultTaken => false
  | .timerTrapTaken => false
  | .instructionFetchFault => false
  | i => (encodeNat i).isNone

/-- A fragment's wait. -/
def waitOf (s : State) (fid n : Nat) : Option Wait := ((flight? s fid).bind fun f => frag? f n).map (·.wait)

/-- The slot takes a fragment's instruction: a turn begins when another fragment of the flight issued last (06 R153), and the
slot remembers the event name (20 R419, 19 R414) and what a sample of the cycle shows (20 R440). -/
def begin (c : Ctx) : State :=
  let s1 := if current c.f == some c.g.num then c.st else modFrag c.st c.st.cur.1 c.g.num fun g => { g with run := 0 }
  modCore s1 c.f.core fun k => { k with slots := mset k.slots c.f.slot ⟨c.st.cur.1, c.g.num, c.g.pc, c.f.seqNo, s1.cycle, c.g.region, c.f.frags.length⟩ }

/-- An instruction that did not issue is not the slot's last one. -/
def unissued (s : State) (c : Ctx) (t : State) : State :=
  let undo : State := modCore t c.f.core fun k =>
    { k with slots := match mget? (core s c.f.core).slots c.f.slot with
      | some x => mset k.slots c.f.slot x
      | none => mdel k.slots c.f.slot }
  match waitOf t c.st.cur.1 c.g.num with
  | some (.stall _) => undo
  | some (.redo _) => undo
  | _ => t

/-- Apply a change to the next state of an answer. -/
def onNext (a : Ans) (k : State → State) : Ans :=
  match a with
  | .next s => .next (k s)
  | a => a

/-- Issue a decoded instruction for the fragment that `cur` names. -/
def issueInstr (i : Instr) (s : State) : Ans :=
  match issuer? s with
  | none => .next s
  | some c => onNext (exec i (begin c)) (unissued s c)

/-- Fetch, decode and issue the instruction at the PC of the fragment that `cur` names (02 R38, R40). -/
def fetchIssue (s : State) : Ans :=
  match issuer? s with
  | none => .next s
  | some c =>
    match fetch s c.f c.g with
    | (.bad _ _, _) => execInstructionFetchFault s
    | (.word w, s1) =>
      match decode (c.g.level != 0) w with
      | .error d => .next (fault { c with st := s1 } 1 d)
      | .ok i => issueInstr i s1

/-- A fragment that may issue ends a park, takes a queued trap, or issues (04 R90, R92, 19 R396, R397). -/
def proceed (s : State) : Ans :=
  match issuer? s with
  | none => .next s
  | some c =>
    match c.g.wait with
    | .replay op => .next (replayMop s s.cur.1 c.g.num op)
    | .failPark op => .next (failPark s s.cur.1 c.g.num op)
    | .failPacket va k => .next (packetFault c va k)
    | .barFault => .next (fault c 0x11 0)
    | .redo _ => fetchIssue s
    | _ =>
      if c.g.level == 0 && !c.f.afq.isEmpty then execAsyncFaultTaken s
      else if timerDue c then execTimerTrapTaken s
      else fetchIssue s

/-- The fragment that `cur` names issues a YIELD in the very cycle in which its gang's deadline expires: the yield takes effect and the
deadline does not (06 R169, 16 R353). -/
def yieldsFirst (s : State) : Bool :=
  match issuer? s with
  | none => false
  | some c =>
    (gangOf s c.f).any (fun x => x.deadline == some s.cycle) &&
      (match c.g.wait with | .run => true | .stall _ => true | _ => false) &&
      !(c.g.level == 0 && !c.f.afq.isEmpty) && !timerDue c &&
      match fetch s c.f c.g with
      | (.word w, _) => (match decode (c.g.level != 0) w with | .ok i => i == .yield | .error _ => false)
      | _ => false

/-- Queued halts come before a stop for pre-emption (19 R411), and both before anything else; a halted fragment that makes a
step meets neither. -/
def halts (s : State) (g : Fragment) : State :=
  if g.halted then s
  else
    let s1 := takeHalts s s.cur.1 g.num
    if yieldsFirst s1 then s1 else stopIfDue s1 s.cur.1 g.num

/-- The fragment that `cur` names may act, after the halts and stops that were due. -/
def stillRuns (s : State) (g : Fragment) : Bool :=
  match issuer? s with
  | some c => (g.halted || !c.g.halted) && !c.g.stopped && c.g.wait != .gone
  | none => false

/-- One fragment's turn; one that may not be tried any more does nothing. -/
def turn (s0 : State) (fid n : Nat) : Ans :=
  let s := { s0 with cur := (fid, n) }
  match issuer? s with
  | none => .next s
  | some c =>
    if !mayTry s fid c.f c.g then .next s
    else if c.g.wait == .step then .next (stepGone s fid n)
    else
      let s1 := halts s c.g
      if !stillRuns s1 c.g then .next s1
      else
        match s1.steps.find? fun x => x.fid == fid && x.frag == n with
        | some x => onNext (proceed s1) fun t => stepDone t c.f c.g x
        | none => proceed s1

/-- After its turn the fragment still waits to issue, so that the slot tries another one (06 R153). -/
def triesOn (s : State) (fid n : Nat) : Bool :=
  match (flight? s fid).bind fun f => frag? f n with
  | some g =>
    !g.halted && !g.stopped &&
      match g.wait with
      | .stall _ => true
      | .step => true
      | .replay _ => true
      | .redo _ => true
      | _ => false
  | none => false

/-- The slot tries some fragments in order until one of them acts. -/
def tryEach : List (Nat × Nat) → State → Ans
  | [], s => .next s
  | (fid, n) :: r, s =>
    match turn s fid n with
    | .next t => if triesOn t fid n then tryEach r t else .next t
    | a => a

/-- A fragment's hold has ended: its next instruction could not issue when the slot tried it, and now can (16 R352). -/
def freed (s : State) (fid : Nat) (f : Flight) (g : Fragment) : Bool :=
  match g.wait with
  | .stall _ =>
    mayTry s fid f g &&
      (match fetchIssue { s with cur := (fid, g.num) } with
      | .next t => (match waitOf t fid g.num with | some (.stall _) => false | _ => true)
      | _ => true)
  | _ => false

/-- A fragment whose hold has ended is ready (16 R352); one whose wait has changed is ready, or waits, since this cycle (20 R443). -/
def stamp (s t : State) : State :=
  { t with flights := mmap t.flights fun fid f =>
      { f with frags := f.frags.map fun g =>
          let w := if freed t fid f g then .run else g.wait
          if waitOf s fid g.num == some w then g else { g with wait := w, ready := t.cycle } } }

/-- One move of a slot: a cycle passes and the slot tries its fragments. -/
def slotMove (s : State) (core slot : Nat) : Ans :=
  let s1 := { s with cycle := s.cycle + 1, free := s.free + 1 }
  onNext (tryEach (candidates s1 core slot) s1) (stamp s1)

/-! ### Events that wait for a tender core (16 R344, 22 R453) -/

/-- The ring that the host writes a command into, where HCMD of the named partition rings it; attest names none, and has a ring of its own
(22 R453). -/
def commandRing (i : Instr) : Option Nat :=
  match i with
  | .create d => some d.pid
  | .destroy pid => some pid
  | .queueCreate pid _ _ => some pid
  | .queueDestroy pid _ => some pid
  | .queueReset pid _ => some pid
  | .communicatorCreate pid _ _ => some pid
  | .communicatorDestroy pid _ => some pid
  | .codeInvalidate pid => some pid
  | .replayPartition pid => some pid
  | .replayBlock pid _ => some pid
  | .failBlock pid _ => some pid
  | .shootdown pid _ _ => some pid
  | .scan pid => some pid
  | .scanRestore pid _ => some pid
  | .thaw pid => some pid
  | .migration pid _ => some pid
  | .attest _ => some 32
  | _ => none

/-- The host writes a command into a ring. -/
def writeCommand (s : State) (r : Nat) (i : Instr) : State :=
  if (commandRing i).isSome then { s with commands := s.commands ++ [⟨r, i, false⟩] } else s

/-- Some launch has ended between two states. -/
def endsLaunch (s t : State) : Bool :=
  s.launches.any fun l => l.2.state < 2 && (mget? t.launches l.1).any fun x => 2 ≤ x.state

/-- A row that a tender core handles: the end of a launch, with the steps of its graph and phase, or a step of a queue (16 R344). -/
def tended (s : State) (i : Instr) : Bool :=
  match i with
  | .gangRetire _ => (match exec i s with | .next t => endsLaunch s t | _ => false)
  | .cancelComplete _ _ => (match exec i s with | .next t => endsLaunch s t | _ => false)
  | .queueUnblock _ _ => true
  | _ => false

/-- An event or a command happens: a command is written into its ring, and an event that is a tender core's waits for one. -/
def eventMove (s : State) (i : Instr) : Ans :=
  let s1 := { s with free := s.free + 1 }
  if !happens i then .next s1
  else
    match commandRing i with
    | some r => .next (ringCommands (writeCommand s1 r i) r)
    | none => if tended s1 i then .next { s1 with events := addEvent s1.events (.row i) } else onNext (exec i s1) (stamp s1)

end Sys2Proof.Machine
end

