-- ==== Sys2Proof/Machine/Outside.lean ====
section
/-!
DEFINITION. What reaches the machine or happens in it beside the rows of the opcode table: doorbells, commands and reads of register
windows (16 R337, 22 R448, R453), events that a tender core takes (16 R344), the freedom of accesses, counted results, fetches and
atomics (04 R100, 06 R155, 02 R39, 11 R263), parity errors (04 R99), and messages of other packages (15 R331, 16 R354, 17 R364). Machine/Step.lean calls `otherMove`.
-/
namespace Sys2Proof.Machine

/-- The host reads a register of a window (22 R448). -/
def readRegister (s : State) (w : Window) (off : Nat) : State := send s (.register (windowReg s w off))

/-- A line that a core's load cache holds suffers a parity error; a hit on it is then a miss (04 R99). -/
def parityError (s : State) (c line : Nat) : State :=
  modCore s c fun k =>
    if (k.lcache.any fun x => x.1 == line) && !k.parity.contains line then { k with parity := line :: k.parity } else k

/-- A flight that moves (19 R405, R412) does something. -/
def onMoving (s : State) (fid : Nat) (act : Flight → State) : State :=
  match flight? s fid with
  | some f => if moving s f then act f else s
  | none => s

/-- A lane of a counted result, or of what a load has read, is written before the rest (06 R155, 04 R103). -/
def landOne (s : State) (fid id reg lane : Nat) : State :=
  onMoving s fid fun f => if (mop? f id).isSome then landEarlyWord s fid id reg lane else landEarly s fid id reg lane

/-- A part of an access of a load's or store's lane is performed before the rest (04 R100). -/
def partOne (s : State) (fid op lane k part : Nat) : State :=
  onMoving s fid fun f =>
    match mop? f op with
    | none => s
    | some o =>
      match o.instr, o.lanes.find? fun l => l.lane == lane with
      | .ld .., some l => loadPart s fid f o l part
      | .sld .., some l => loadPart s fid f o l part
      | .st .., some _ => storePart s fid f o lane k part
      | .sst .., some _ => storePart s fid f o lane k part
      | _, _ => s

/-! ### The tender cores (16 R344, R345, 22 R453) -/

/-- A command has written its completion. -/
def completed (s t : State) : Bool :=
  (t.outbox.drop s.outbox.length).any fun m => match m with | .completion _ => true | _ => false

/-- A command that has begun may go on: a destroy waits for its partition's launches to end. -/
def mayGoOn (s : State) (i : Instr) : Bool := match i with | .destroy pid => partIdle s pid | _ => true

/-- What a command that has begun waits for a sweep of. -/
def sweepOf (i : Instr) : Option Nat := match i with | .codeInvalidate pid => some pid | .shootdown pid _ _ => some pid | _ => none

/-- A command waits for an earlier one of its partition, on another ring. -/
def inLine (s : State) (i : Instr) : Bool := (commandRing i).any (inTurn s)

/-- Take the head of a ring away. -/
def popRing (s : State) (r : Nat) : State := { s with commands := s.commands.eraseP fun c => c.ring == r }

/-- A tender core serves the head of a ring of commands: it begins it where no earlier command of its partition is open, and where it
takes time goes on with it at the ring's next event. -/
def serveHead (s : State) (r : Nat) (c : Command) : Ans :=
  let run : Ans := onNext (exec c.instr s) fun t =>
    if completed s t then popRing t r
    else { t with commands := t.commands.map fun x => if x == c then { x with begun := true } else x }
  if c.begun then
    match sweepOf c.instr with
    | some pid => .next (if inSweep s pid then s else popRing s r)
    | none => if mayGoOn s c.instr then run else .next s
  else if inLine s c.instr then .next s
  else run

/-- The event of a ring: its head is served, and while commands are left the event waits again. -/
def serveRing (s : State) (r : Nat) : Ans :=
  match s.commands.find? fun c => c.ring == r with
  | none => .next s
  | some c => onNext (serveHead s r c) fun t => if t.commands.any fun x => x.ring == r then ringCommands t r else t

/-- A tender core that is free takes event `k` of the twelve oldest, where it may, and handles it. -/
def tender (s : State) (k : Nat) : Ans :=
  match taken s k with
  | none => .next s
  | some e =>
    match e with
    | .bell q => .next (takeBell s q)
    | .monitor q => .next (takeHit s q)
    | .ring r => serveRing (dropEvent s e) r
    | .record pid block => .next (send (dropEvent s e) (.faultEvent pid (dw block)))
    | .row i => exec i (dropEvent s e)

/-- What a happening of its own does. -/
def otherDoes (o : Other) (s : State) : Ans :=
  match o with
  | .bell pid q widx => .next (ringBell s pid q widx)
  | .tender k => tender s k
  | .command r i => .next (writeCommand s r i)
  | .readRegister w off => .next (readRegister s w off)
  | .part fid op lane k part => .next (partOne s fid op lane k part)
  | .land fid id reg lane => .next (landOne s fid id reg lane)
  | .prefetch core key => .next (if coreFrozen s core then s else icachePrefetch s core key)
  | .parityError core line => .next (parityError s core line)
  | .burst lanes => .next { s with burst := some lanes }
  | .forwardEnd page => .next (forwardEnd s page)
  | .chunkStep pid comm chunk stage peers => .next (chunkStep pid comm chunk stage peers s)
  | .bounced m status => .next (bounce s { m with outside := false } status)

/-- A happening of its own takes place. -/
def otherMove (s : State) (o : Other) : Ans :=
  let s1 := { s with free := s.free + 1 }
  onNext (otherDoes o s1) (stamp s1)

end Sys2Proof.Machine
end

