-- ==== Sys2Proof/Machine/Step.lean ====
section
/-!
DEFINITION. One step of the package: the next move of the agenda, or a cycle that passes (log 1); and the placing of one
instruction where the next step fetches it.
-/
namespace Sys2Proof.Machine

/-- One step. -/
def step (s : State) : Host.Outcome State Fault Refusal :=
  match s.agenda with
  | [] => .next { s with cycle := s.cycle + 1 }
  | .slot core slot :: r => slotMove { s with agenda := r } core slot
  | .ev i :: r => eventMove { s with agenda := r } i
  | .other o :: r => otherMove { s with agenda := r } o
  | .idle n :: r => .next { s with agenda := r, cycle := s.cycle + n }

/-- `s` with an instruction stored where the next step fetches it (log 16): a partition whose tables map the first GiB, its one
launch with one gang of one flight on core 0, slot 0, a fragment of all lanes at level 1 before the word, and a turn of that
slot. -/
def State.withFetchWord (s : State) (nbits w : Nat) : State :=
  let pc := 0x10_0000
  let desc : CreateDesc :=
    { pid := 0, cores := 1, groups := 1, engines := 1, engineOf := [(0, 0)], slots := 1, root := 0x1_0000, grants := [],
      admits := 1, stream := false, vector := 0x20_0000, bp := true, pmax := 1024 }
  let part : Part :=
    { desc := desc, frctl := 0, jnlctl := 0, jnlhead := 0, jnltail := 0, hrctl := 0, hrhead := 0, tmrctl := 0,
      preemptdl := 0, hcmd := 0, nextId := 1, offers := [], phase := none, jobCount := 0, jobFault := false, jobEnds := 0, freeze := .clear,
      destroyed := false, moving := none }
  let kern : Desc :=
    { entry := 0x10_0000, resident := false, sym := false, nflight := 1, nblock := 1, vregs := 192, sregs := 96, tiles := 0,
      sqDepth := 0, roles := [], scratch := 0, spill := 0, gens := [], maps := 0, strides := [] }
  let launch : Launch :=
    { pid := 0, id := 0, kind := 1, compat := false, tag := 0, desc := some kern, ext := [96, 1, 1], karg := 0, next := 0,
      spill := 0, status := 0, points := 96, gangs := 1, handed := 1, placed := 1, retired := 0, state := 1, reason := 0,
      fault := none, antisym := false, root := none, isRoot := false, tree := 0, treeFlt := none, treeEnd := false,
      graph := none, queue := none, qlive := false, device := false, prio := 1, pidx := 0, cancel := false, order := 0,
      contribs := [] }
  let gang : Gang :=
    { pid := 0, launch := 0, num := 0, die := 0, quad := 0, offset := 0, scratch := 0, tiles := 0, nflight := 1, nblock := 1,
      state := .running, why := 0, acks := [], deadline := none, held := false, engStop := false, pmaxAt := [], bars := [],
      pools := [], order := 0, ran := 0, started := s.cycle, savedT := [] }
  let frag : Fragment :=
    { num := 0, owned := allLanes, em := allLanes, pc := dw pc, region := 0, rpc := dw pc, rmask := allLanes, level := 1,
      wait := .run, halted := false, stopped := false, regionStop := false, skip := false, ready := s.cycle, last := none,
      run := 0, aged := false }
  let flight : Flight :=
    { gid := 0, pid := 0, launch := 0, rank := 0, idx := 0, core := 0, slot := 0, pos := 0, frags := [frag], exited := 0,
      vregs := 192, s := [], v := [], tokens := [], pend := [], mops := [], seqNo := 0, fpmode := 0, lflags := [],
      clkhi := 0, lseq := [], pts := [], t1 := TrapSet.start, t2 := TrapSet.start, tvec := 0x20_0000, bp := true, sq := [],
      psets := [], afq := [], afMore := false, timer := false, haltq := [], lpr := [], slpr := none, dirty := [],
      asyncR := [], issued := 0, dblFlt := none, refused := [] }
  let m1 := putBytes s.mem 0x1_0000 (bytesOfNat 8 0x2_0001)
  let m2 := putBytes m1 0x2_0000 (bytesOfNat 8 0x1F)
  { s with
    mem := putBytes m2 pc (bytesOfNat 8 (w % 2 ^ nbits))
    undef := cut (cut (cut s.undef 0x1_0000 0x1_0008) 0x2_0000 0x2_0008) pc (pc + 8)
    poison := s.poison.filter fun u => u != pc / 32
    bootctl := s.bootctl &&& ~~~8#64
    cores := mset s.cores 0 { core s 0 with icache := [], tlb := [], bcn := [] }
    dieTlb := mset s.dieTlb 0 []
    parts := mset s.parts 0 part
    launches := mset s.launches 0 launch
    gangs := [(0, gang)]
    flights := [(0, flight)]
    nextId := s.nextId + 1
    agenda := .slot 0 0 :: s.agenda }

end Sys2Proof.Machine
end

