-- ==== Sys2Proof/Safety.lean ====
section
/-!
DEFINITION. The terms in which statements speak: a machine that has not stopped, the fragment that issues and what may keep it
from issuing, and what an instruction leaves as it was.
-/
namespace Sys2Proof.Machine

/-! ### Runs and invariants -/

/-- A step is safe where it answers a next state. -/
def Answers (a : Ans) (p : State → Prop) : Prop := ∃ t, a = .next t ∧ p t

/-- The bytes listed in memory are in the canonical form. -/
def State.Canonical (s : State) : Prop := memWf s.mem = true

/-! ### The issuing fragment -/

/-- Fragment `g` of flight `f` is the one that issues. -/
def Issues (s : State) (f : Flight) (g : Fragment) : Prop := flight? s s.cur.1 = some f ∧ frag? f s.cur.2 = some g

/-- The context in which it issues. -/
def ctxOf (s : State) (f : Flight) (g : Fragment) : Ctx := ⟨s, f, g, Obs.none⟩

/-- Registers of these groups may be named: none of a trap bank at level 0 (02 R21), and no vector register at or above the
allocation (02 R23). -/
def MayName (f : Flight) (g : Fragment) (ops : List (Opnd × Nat)) : Prop :=
  (g.level = 0 → usesBank ops = false) ∧ ops.any (outOfBound f.vregs) = false

/-- No beacon is set on the flight's core (20 R420) and its trace unit is off (20 R436). -/
def Unwatched (s : State) (f : Flight) : Prop :=
  (Machine.core s f.core).bcn = [] ∧ (Machine.core s f.core).trcctl.getLsbD 0 = false

/-- No contraction instance reads the `r` registers from a destination on asynchronously (09 R242). -/
def Unread (f : Flight) (d : Opnd) (r : Nat) : Prop :=
  match d with
  | .v n => ∀ k, n.val ≤ k → k < n.val + r → asyncLanes f k = 0
  | _ => True

/-- A scalar destination: class S or SS (02 R19). -/
def IsScalar (d : Opnd) : Prop := d.cls = .S ∨ d.cls = .SS

/-- A vector destination: class V or VT (02 R19). -/
def IsVector (d : Opnd) : Prop := d.cls = .V ∨ d.cls = .VT

/-! ### What is left as it was -/

/-- Outside the issuing flight the machine is `s`: every other flight, all of memory, every core, queue, tile, launch and
partition, and all the rest of the state. -/
structure Outside (s t : State) : Prop where
  rest   : t = { s with flights := t.flights }
  others : ∀ k, k ≠ s.cur.1 → flight? t k = flight? s k
  memory : ∀ a, readByte t a = readByte s a

/-- The other fragments of the flight are as before. -/
def Siblings (f f' : Flight) (g : Fragment) : Prop := ∀ n, n ≠ g.num → frag? f' n = frag? f n

/-- The fragment is as before but for its PC, its activity mask and the bookkeeping of its issue (16 R352). -/
def SameFrag (s : State) (g g' : Fragment) (pc : DWord) : Prop :=
  g' = { g with pc := pc, em := g'.em, wait := .run, last := some s.cycle, run := g.run + 1, ready := s.cycle, aged := false,
                skip := false }

/-- The flight is as before but for its fragments, the registers that follow, what is noted of its outstanding results, and its
count of issues. -/
def SameFlight (f f' : Flight) : Prop :=
  f' = { f with frags := f'.frags, s := f'.s, v := f'.v, t1 := f'.t1, t2 := f'.t2, mops := f'.mops, pend := f'.pend,
                dirty := f'.dirty, asyncR := f'.asyncR, lflags := f'.lflags, issued := f.issued + 1 }

/-- The last value that a list of writes gives a register, or the one it had. -/
def lastWrite (ws : List (Nat × Word)) (k : Nat) (old : Word) : Word :=
  ws.foldl (fun x p => if p.1 = k then p.2 else x) old

/-- Register `k` is a word of em (06 R144). -/
def isEm (k : Nat) : Bool := decide (88 ≤ k ∧ k ≤ 90)

/-- What scalar register `k` reads once words have been written to some: em keeps owned lanes only (06 R146). -/
def ScalarAfter (f : Flight) (g : Fragment) (ws : List (Nat × Word)) (k : Nat) (w : Word) : Prop :=
  let x := lastWrite ws k (getS f g k)
  (isEm k ∧ (∃ p ∈ ws, isEm p.1) → w = x &&& maskWord g.owned (k - 88)) ∧
    (¬(isEm k ∧ ∃ p ∈ ws, isEm p.1) → w = x)

/-- The words of a value at consecutive registers from `n` on. -/
def regsFrom (n : Nat) (ws : List Word) : List (Nat × Word) := (List.range ws.length).map fun k => (n + k, ws.getD k 0)

/-- The scalar registers after some words were written to a destination and the registers after it: class S, or class SS of the
fragment's level. -/
def ScalarWrite (f f' : Flight) (g g' : Fragment) (d : Opnd) (ws : List Word) : Prop :=
  match d with
  | .s n => (∀ k, ScalarAfter f g (regsFrom n.val ws) k (getS f' g' k)) ∧ f'.t1 = f.t1 ∧ f'.t2 = f.t2
  | .ss n =>
    (∀ k, getS f' g' k = getS f g k) ∧
      (∀ k, mgetD (bank f' g.level).ss k 0 = lastWrite (regsFrom n.val ws) k (mgetD (bank f g.level).ss k 0)) ∧
      bank f' g.level = { bank f g.level with ss := (bank f' g.level).ss } ∧
      (if g.level = 2 then f'.t1 = f.t1 else f'.t2 = f.t2)
  | _ => False

/-- No scalar register changes, in either file. -/
def ScalarsSame (f f' : Flight) (g g' : Fragment) : Prop := ∀ k, getS f' g' k = getS f g k

/-- No vector register changes. -/
def VectorsSame (s t : State) (f f' : Flight) : Prop := ∀ n l, getV t f' n l = getV s f n l

/-- The vector registers after the active lanes of the `r` registers from the destination on were written, class V, or class VT of
the fragment's level; every other lane and register keeps its value (08 R198). -/
def VectorWrite (s t : State) (f f' : Flight) (g : Fragment) (d : Opnd) (r : Nat) (val : Nat → Nat → Word) : Prop :=
  match d with
  | .v n =>
    (∀ k l, l < 96 → getV t f' k l =
      if (n.val ≤ k ∧ k < n.val + r) ∧ g.em.getLsbD l then val (k - n.val) l else getV s f k l) ∧
      f'.t1 = f.t1 ∧ f'.t2 = f.t2
  | .vt n =>
    VectorsSame s t f f' ∧
      (∀ k l, l < 96 → rowAt (mgetD (bank f' g.level).vt k []) l =
        if (n.val ≤ k ∧ k < n.val + r) ∧ g.em.getLsbD l then val (k - n.val) l
        else rowAt (mgetD (bank f g.level).vt k []) l) ∧
      bank f' g.level = { bank f g.level with vt := (bank f' g.level).vt } ∧
      (if g.level = 2 then f'.t1 = f.t1 else f'.t2 = f.t2)
  | _ => False

/-- The instruction completes: it answers a next state in which its fragment stands at `pc`. The machine outside its flight is
`s1`; its flight is `f1` but for the registers, of which `p` tells. -/
def CompletesIn (i : Instr) (s : State) (f : Flight) (g : Fragment) (s1 : State) (f1 : Flight) (pc : DWord)
    (p : State → Flight → Fragment → Prop) : Prop :=
  ∃ t f' g', exec i s = .next t ∧ flight? t s.cur.1 = some f' ∧ frag? f' g.num = some g' ∧ Outside s1 t ∧ Siblings f f' g ∧
    SameFrag s g g' pc ∧ SameFlight f1 f' ∧ p t f' g'

/-- The instruction completes and changes nothing outside its flight's registers, of which `p` tells. -/
def Completes (i : Instr) (s : State) (f : Flight) (g : Fragment) (pc : DWord)
    (p : State → Flight → Fragment → Prop) : Prop := CompletesIn i s f g s f pc p

/-- It writes words to a scalar destination and the registers after it, and nothing else. -/
def SetsScalars (i : Instr) (s : State) (f : Flight) (g : Fragment) (d : Opnd) (ws : List Word) : Prop :=
  Completes i s f g (g.pc + 8) fun t f' g' =>
    ScalarWrite f f' g g' d ws ∧ VectorsSame s t f f' ∧ f'.lflags = f.lflags

/-- It writes word `w` to a scalar destination and nothing else. -/
def SetsScalar (i : Instr) (s : State) (f : Flight) (g : Fragment) (d : Opnd) (w : Word) : Prop := SetsScalars i s f g d [w]

/-- It writes mask `m` and nothing else (06 R163); em keeps owned lanes only (R146). -/
def SetsMask (i : Instr) (s : State) (f : Flight) (g : Fragment) (m : Fin 24) (z : Lanes) : Prop :=
  Completes i s f g (g.pc + 8) fun t f' g' =>
    getMask f' g' m = (if m.val = 22 then z &&& g.owned else z) ∧
      (∀ k, k / 4 ≠ m.val ∨ k % 4 = 3 → getS f' g' k = getS f g k) ∧ VectorsSame s t f f' ∧ f'.lflags = f.lflags ∧
      f'.t1 = f.t1 ∧ f'.t2 = f.t2

/-- It writes the active lanes of `r` registers of a vector destination, raises the flags of `flg` in the active lanes, and does
nothing else. -/
def SetsVector (i : Instr) (s : State) (f : Flight) (g : Fragment) (d : Opnd) (r : Nat) (val : Nat → Nat → Word)
    (flg : Nat → Nat) : Prop :=
  Completes i s f g (g.pc + 8) fun t f' g' =>
    g'.em = g.em ∧ VectorWrite s t f f' g d r val ∧ ScalarsSame f f' g g' ∧
      ∀ l, l < 96 → laneFlags f' l = laneFlags f l ||| (if g.em.getLsbD l then flg l % 16 else 0)

/-- No register changes. -/
def NoRegister (s t : State) (f f' : Flight) (g g' : Fragment) : Prop :=
  g'.em = g.em ∧ ScalarsSame f f' g g' ∧ VectorsSame s t f f' ∧ f'.t1 = f.t1 ∧ f'.t2 = f.t2 ∧ f'.lflags = f.lflags ∧
    f'.mops = f.mops ∧ f'.pend = f.pend ∧ f'.asyncR = f.asyncR

/-- A value is written to an optional scalar destination, and no other register changes (02 R20). -/
def OptWrite (s t : State) (f f' : Flight) (g g' : Fragment) (d : Option Opnd) (w : Word) : Prop :=
  VectorsSame s t f f' ∧ f'.lflags = f.lflags ∧
    match d with
    | some x => ScalarWrite f f' g g' x [w]
    | none => ScalarsSame f f' g g'

/-- It changes nothing but the PC. -/
def OnlyMoves (i : Instr) (s : State) (f : Flight) (g : Fragment) (pc : DWord) : Prop :=
  Completes i s f g pc fun t f' g' => NoRegister s t f f' g g'

/-! ### Accesses -/

/-- The key that a check that passed gives (04 R83). -/
def Chk.key? : Chk → Option Nat
  | .ok k _ _ => some k
  | _ => none

/-- The key, 0 where the check failed. -/
def Chk.at (k : Chk) : Nat := k.key?.getD 0

/-- Every address of memory instruction `i` passes its checks (04 R89); the lookups leave `f1` and `s1`. -/
def Reaches (i : Instr) (s : State) (f : Flight) (g : Fragment) (ks : List (Tgt × Chk)) (f1 : Flight) (s1 : State) : Prop :=
  checkAll s f (g.level != 0) (mspec i) (allTgts (ctxOf s f g) (mspec i)) = (ks, f1, s1) ∧ ∀ x ∈ ks, x.2.key?.isSome

/-- The instruction completes with what it does outside its fragment told by `p`: the fragment goes on at `pc`, its siblings and
the other flights are as before. -/
def GoesOn (i : Instr) (s : State) (g : Fragment) (f : Flight) (pc : DWord) (p : State → Flight → Fragment → Prop) : Prop :=
  ∃ t f' g', exec i s = .next t ∧ flight? t s.cur.1 = some f' ∧ frag? f' g.num = some g' ∧ Siblings f f' g ∧
    (∀ k, k ≠ s.cur.1 → flight? t k = flight? s k) ∧ g'.pc = pc ∧ g'.wait = .run ∧ g'.owned = g.owned ∧ g'.level = g.level ∧
    p t f' g'

/-- The fragment has entered the region after the instruction (06 R156). -/
def Entered (g g' : Fragment) : Prop := g'.region = g.region + 1 ∧ g'.rpc = g.pc + 8 ∧ g'.rmask = g.em

/-- No register has been written while an outstanding result had it as destination (04 R103, 06 R155). -/
def NoEarly (f : Flight) : Prop := (∀ o ∈ f.mops, o.vhits = [] ∧ o.shits = []) ∧ ∀ p ∈ f.pend, p.vhits = []

/-- None of some outstanding accesses and results has one of the `n` registers from `d` on as destination (04 R103, 06 R155). -/
def NoDest (os : List Mop) (ps : List Pend) (d : Opnd) (n : Nat) : Prop :=
  (∀ o ∈ os, ∀ k, (inGroupV (some (d, n)) k → inGroupV (memDst o.instr) k = false) ∧
    (inGroupS (some (d, n)) k → inGroupS (memDst o.instr) k = false)) ∧
  ∀ p ∈ ps, ∀ k, inGroupV (some (d, n)) k → inGroupV (some (p.dst, p.rows.length)) k = false

/-- A program's write of `n` bytes at key `a` races no update of a barrier object and nothing that an engine's operation has written or
has written from (05 R119, R132, R133). -/
def Unraced (s : State) (a n : Nat) : Prop :=
  (∀ o ∈ updating s none, touch a n o 16 = false) ∧
  ∀ w ∈ s.work, w.objs ≠ [] → ∀ x ∈ w.wrote, touch a n x.1 x.2.1 = false ∧ ∀ y ∈ x.2.2, touch a n y.key y.n = false

/-- No blocked queue monitors a line with one of the `n` bytes at key `a` (16 R339). -/
def Unmonitored (s : State) (a n : Nat) : Prop := ∀ q ∈ s.queues, q.2.monitors a n = false

/-- The 64 bytes of a halt record (20 R429) of a flight in gang number `num`, for a fragment, with its cause, scope, count of further
instructions, PC, event number, TCAUSE, halted lanes and last word. -/
def recordBytes (f : Flight) (g : Fragment) (num cause scope further : Nat) (seq tcause : Word) (lanes : Lanes) (bits : Nat) : List Byte :=
  bytesOfNat 1 (f.core / 48) ++ bytesOfNat 1 (f.core % 48) ++ bytesOfNat 1 f.rank ++ bytesOfNat 1 f.idx ++ bytesOfNat 4 f.launch ++
    bytesOfNat 8 (num % 2 ^ 48) ++ bytesOfNat 1 cause ++ bytesOfNat 1 scope ++ bytesOfNat 2 0 ++ bytesOfNat 1 further ++
    bytesOfNat 1 g.num ++ bytesOfNat 2 g.level ++ bytesOfNat 8 g.pc.toNat ++ bytesOfNat 4 seq.toNat ++ bytesOfNat 4 tcause.toNat ++
    bytesOfNat 8 g.pc.toNat ++ bytesOfNat 12 lanes.toNat ++ bytesOfNat 4 bits

/-- The address of a partition's next halt record (20 R428). -/
def recordPlace (p : Part) : Nat :=
  p.hrctl.toNat / 2 ^ 12 % 2 ^ 40 * 4096 + 64 * (p.hrhead.toNat % 2 ^ (p.hrctl.toNat / 2 % 16 + 6))

/-- Where records are on and the partition owns their place, its ring holds some bytes at it and no byte outside changes; where they are
off, no byte of memory changes (20 R428). -/
def Records (s t : State) (pid : Nat) (p : Part) (bs : List Byte) : Prop :=
  let a := recordPlace p
  (p.hrctl.getLsbD 0 = true → ownsPa s pid a = true → ownsPa s pid (a + 63) = true →
    readBytes t a 64 = bs ∧ ∀ k, k < a ∨ a + 64 ≤ k → readByte t k = readByte s k) ∧
  (p.hrctl.getLsbD 0 = false → ∀ k, readByte t k = readByte s k)

/-- The fragment has entered the region after an instruction that may have written em: its restart mask is em as it is at the entry (06
R156, 19 R386). -/
def EnteredAs (g g' : Fragment) : Prop := g'.region = g.region + 1 ∧ g'.rpc = g.pc + 8 ∧ g'.rmask = g'.em

/-- The registers of the trap banks, the sticky flags and the counted results are as before. -/
def BanksSame (f f' : Flight) : Prop :=
  f'.t1 = f.t1 ∧ f'.t2 = f.t2 ∧ f'.lflags = f.lflags ∧ f'.fpmode = f.fpmode ∧ f'.vregs = f.vregs ∧ f'.tokens = f.tokens

/-- Every byte of memory reads as before. -/
def MemorySame (s t : State) : Prop := ∀ a, readByte t a = readByte s a

/-- Every granule is full or empty as before (05 R110). -/
def GranulesSame (s t : State) : Prop := ∀ a, isFull t a = isFull s a

/-- A list of writes to memory, one after the other. -/
def writeAll (s : State) (ws : List (Nat × List Byte)) : State := ws.foldl (fun s w => writeBytes s w.1 w.2) s

/-- Numbers of `n` bytes replaced one after the other by a function of the old number and an operand. -/
def updateAll (s : State) (n : Nat) (us : List (Nat × (Nat → Nat))) : State :=
  us.foldl (fun s u => writeNat s u.1 n (u.2 (readNat s u.1 n))) s

/-- The operand words of an access of a lane, negated where its image has character −1 (11 R281). -/
def operandOf (s : State) (f : Flight) (g : Fragment) (i : Instr) (x : Tgt) : List Word :=
  if x.neg then negData i (dataAt (ctxOf s f g) i x.lane) else dataAt (ctxOf s f g) i x.lane

/-- No armed copy and no register that an LCONA reads waits for the object at key `o` (05 R141, 09 R242). -/
def NoWaiters (s : State) (o : Nat) : Prop :=
  (∀ e ∈ s.engines, ∀ a ∈ e.2.arms, a.trig ≠ o) ∧ ∀ x ∈ s.flights, ∀ a ∈ x.2.asyncR, a.obj ≠ o

/-- The 16 bytes of a barrier object: expected bytes, arrived bytes, expected arrivals, arrived, control (05 R116). -/
def objectBytes (expb arrb expv arrv ctl : Nat) : List Byte :=
  bytesOfNat 4 expb ++ bytesOfNat 4 arrb ++ bytesOfNat 2 expv ++ bytesOfNat 2 arrv ++ bytesOfNat 4 ctl

/-- The object at key `o` after an update that counts expected bytes, arrived bytes and arrivals and does not fail (05 R117): a
phase that is complete flips. -/
def updatedObject (s : State) (o eb ab n : Nat) : List Byte :=
  let expb := (readNat s o 4 + eb) % 2 ^ 32
  let arrb := (readNat s (o + 4) 4 + ab) % 2 ^ 32
  let expv := readNat s (o + 8) 2
  let arrv := readNat s (o + 10) 2 + n
  let ctl := readNat s (o + 12) 4
  if arrv = expv ∧ arrb = expb then objectBytes 0 0 expv 0 (ctl ^^^ 1) else objectBytes expb arrb expv arrv ctl

/-- No engine has an operation to take up: none that a fail command named while its engine was stopped, and no put to send (17 R373, R374). -/
def NothingOwed (s : State) : Prop :=
  (∀ e ∈ s.engines, ∀ c ∈ e.2.cmds, c.doomed = false) ∧
    ∀ x ∈ s.comms, (∀ o ∈ x.2.colls, o.doomed = false) ∧ ∀ o ∈ x.2.puts, o.doomed = false ∧ (o.sent = true ∨ o.stall.isSome)

/-- A check of a block of memory has changed nothing but held translations (04 R83-R85). -/
def LooksUp (c c1 : Ctx) : Prop :=
  c1.g = c.g ∧ c1.f = { c.f with slpr := c1.f.slpr } ∧ c1.st = { c.st with cores := c1.st.cores, dieTlb := c1.st.dieTlb } ∧
    Unwatched c1.st c.f

/-! ### Stops, traps and exits -/

/-- The instruction does not issue: its fragment waits for the reason given, and nothing else changes (06 R153). -/
def Stalls (i : Instr) (s : State) (f : Flight) (g : Fragment) (w : Why) : Prop :=
  ∃ t f', exec i s = .next t ∧ t = { s with flights := t.flights } ∧ flight? t s.cur.1 = some f' ∧
    frag? f' g.num = some { g with wait := .stall w } ∧ Siblings f f' g ∧ f' = { f with frags := f'.frags } ∧
    ∀ k, k ≠ s.cur.1 → flight? t k = flight? s k

/-- The instruction raises a precise fault with a code and a detail (19 R385): its fragment takes the trap of
`Obligations.TrapEntry` and nothing else changes. -/
def Faults (i : Instr) (s : State) (f : Flight) (g : Fragment) (code detail : Nat) : Prop :=
  exec i s = .next (takeTrap s s.cur.1 g.num ⟨code, detail, 0, g.pc, none, 0, 0, 0, none⟩ f.afMore)

/-- The instruction raises a precise fault with a failing address `va`, in the machine `s1` (19 R385, R390). -/
def FaultsAt (i : Instr) (s s1 : State) (f : Flight) (g : Fragment) (code detail : Nat) (va : DWord) : Prop :=
  exec i s = .next (takeTrap s1 s.cur.1 g.num ⟨code, detail, 0, g.pc, none, va, 0, 0, none⟩ f.afMore)

/-- Pre-emption may stop the fragment at its level: level 0, or a handler that has opened it (19 R405, R406). -/
def MayStop (f : Flight) (g : Fragment) : Prop := g.level = 0 ∨ (g.level = 1 ∧ f.t1.te = true) ∨ (g.level = 2 ∧ f.t2.te = true)

/-- A trap may be taken at the fragment's level (19 R389). -/
def MayTrap (f : Flight) (g : Fragment) : Prop := g.level = 0 ∨ (g.level = 1 ∧ f.t1.te = true)

/-- Exits of the flight's lanes complete no merge, closure or barrier: no token is armed, no tile holds an instance and no
fragment stands at a block barrier. -/
def PlainExits (s : State) (f : Flight) : Prop := f.tokens = [] ∧ s.tiles = [] ∧ ∀ h ∈ f.frags, ∀ n, atBar n h = false

/-- Lanes `m` of the fragment have exited (06 R152): it keeps its other lanes and stands at `pc`, or has ended. -/
def LanesExit (f f' : Flight) (g : Fragment) (m : Lanes) (pc : DWord) : Prop :=
  f'.exited = f.exited ||| m ∧
    (if g.owned &&& ~~~m = 0 then frag? f' g.num = none
     else ∃ g', frag? f' g.num = some g' ∧ g'.owned = g.owned &&& ~~~m ∧ g'.em = g.em &&& ~~~m ∧ g'.pc = pc ∧ g'.wait = .run ∧
       g'.rmask = g.rmask &&& ~~~m ∧ g'.level = g.level)

/-! ### Numbers -/

/-- The number a word stands for in a type: signed for s32, else unsigned (02 R15). -/
def numOf (t : Ty) (w : Word) : Int := if t = .s32 then w.toInt else w.toNat

/-- A comparison of two numbers (06 R158). -/
def condHolds (c : Cond) (a b : Int) : Bool :=
  match c with
  | .eq => decide (a = b)
  | .ne => decide (a ≠ b)
  | .lt => decide (a < b)
  | .le => decide (a ≤ b)
  | .gt => decide (b < a)
  | .ge => decide (b ≤ a)

/-- The word that an integer wraps to (06 R158). -/
def wrap (x : Int) : Word := BitVec.ofInt 32 x

/-- The sum of two words (06 R158). -/
def sumOf (x y : Word) : Word := wrap (x.toNat + y.toNat)
/-- The difference of two words (06 R158). -/
def diffOf (x y : Word) : Word := wrap (x.toNat - y.toNat)
/-- The low word of the product (06 R158). -/
def prodOf (x y : Word) : Word := wrap (x.toNat * y.toNat)
/-- The high word of the exact product (06 R158). -/
def highOf (t : Ty) (x y : Word) : Word := wrap (numOf t x * numOf t y / 2 ^ 32)
/-- Word `k` of a number (02 R15). -/
def wordOf (z : Int) (k : Nat) : Word := wrap (z / 2 ^ (32 * k))
/-- The number of set bits (06 R158). -/
def popOf (x : Word) : Word := wrap ((List.finRange 32).countP fun i => x.getLsb i)
/-- The number of leading zero bits; 32 for 0 (06 R158). -/
def clzOf (x : Word) : Word := if x = 0 then 32 else wrap (31 - (Nat.log2 x.toNat : Int))
/-- A shift left by 0-31, and 0 beyond (06 R158). -/
def shlOf (x y : Word) : Word := if 32 ≤ y.toNat then 0 else wrap (x.toNat * 2 ^ y.toNat)
/-- A logical shift right by 0-31, and 0 beyond (06 R158). -/
def shrOf (x y : Word) : Word := if 32 ≤ y.toNat then 0 else wrap (x.toNat / 2 ^ y.toNat)
/-- An arithmetic shift right by 0-31, and all sign bits beyond (06 R158). -/
def sarOf (x y : Word) : Word := if 32 ≤ y.toNat then (if x.toInt < 0 then 0xFFFF_FFFF else 0) else wrap (x.toInt / 2 ^ y.toNat)
/-- The smaller number (06 R158). -/
def minOf (t : Ty) (x y : Word) : Word := if numOf t y < numOf t x then y else x
/-- The larger number (06 R158). -/
def maxOf (t : Ty) (x y : Word) : Word := if numOf t x < numOf t y then y else x
/-- The field of `len` bits at `pos`, sign-extended for s32 (06 R158). -/
def fieldIn (t : Ty) (x : Word) (pos len : Nat) : Word :=
  let n := x.toNat / 2 ^ pos % 2 ^ len
  if t = .s32 ∧ 0 < len ∧ 2 ^ len ≤ 2 * n then wrap (n - 2 ^ len) else wrap n

end Sys2Proof.Machine
end

