-- ==== Sys2Proof/Certificates/Slice0/Obligations.lean ====
section
/-!
DEFINITION. The statements for the provers: what the rules of spec/ say that each instruction, event and command does.
-/
open Sys2Proof Sys2Proof.Machine

/-! ### Scalars (06 R157-R163) -/

/-- 06 R158, R162, 02 R17: the scalar instructions of two sources write the exact result modulo 2^32, and nothing else changes; an
immediate variant is its base form with imm25 sign-extended as the second source; SADDI adds imm32. -/
def Obligations.ScalarArithmetic : Prop :=
  (∀ (s : State) (f : Flight) (g : Fragment) (t : Ty) (q : Cond) (d a b : Opnd), Issues s f g → Unwatched s f →
      MayName f g [(d, 1), (a, 1), (b, 1)] → IsScalar d →
      let x := srcS (ctxOf s f g) a
      let y := srcS (ctxOf s f g) b
      SetsScalar (.sadd t d a b) s f g d (sumOf x y) ∧ SetsScalar (.ssub t d a b) s f g d (diffOf x y) ∧
        SetsScalar (.smul t d a b) s f g d (prodOf x y) ∧ SetsScalar (.smulh t d a b) s f g d (highOf t x y) ∧
        SetsScalar (.sand t d a b) s f g d (x &&& y) ∧ SetsScalar (.sor t d a b) s f g d (x ||| y) ∧
        SetsScalar (.sxor t d a b) s f g d (x ^^^ y) ∧ SetsScalar (.sshl t d a b) s f g d (shlOf x y) ∧
        SetsScalar (.sshr t d a b) s f g d (shrOf x y) ∧ SetsScalar (.ssar t d a b) s f g d (sarOf x y) ∧
        SetsScalar (.smin t d a b) s f g d (minOf t x y) ∧ SetsScalar (.smax t d a b) s f g d (maxOf t x y) ∧
        SetsScalar (.scmp t q d a b) s f g d (if condHolds q (numOf t x) (numOf t y) then 1 else 0)) ∧
  (∀ (s : State) (f : Flight) (g : Fragment) (d a : Opnd) (imm : BitVec 25), Issues s f g → Unwatched s f →
      MayName f g [(d, 1), (a, 1)] → IsScalar d →
      let x := srcS (ctxOf s f g) a
      let y := wrap imm.toInt
      SetsScalar (.saddI d a imm) s f g d (sumOf x y) ∧ SetsScalar (.ssubI d a imm) s f g d (diffOf x y) ∧
        SetsScalar (.smulI d a imm) s f g d (prodOf x y) ∧ SetsScalar (.sandI d a imm) s f g d (x &&& y) ∧
        SetsScalar (.sorI d a imm) s f g d (x ||| y) ∧ SetsScalar (.sxorI d a imm) s f g d (x ^^^ y) ∧
        SetsScalar (.sshlI d a imm) s f g d (shlOf x y) ∧ SetsScalar (.sshrI d a imm) s f g d (shrOf x y) ∧
        SetsScalar (.ssarI d a imm) s f g d (sarOf x y)) ∧
  (∀ (s : State) (f : Flight) (g : Fragment) (d a : Opnd) (imm : Word), Issues s f g → Unwatched s f →
      MayName f g [(d, 1), (a, 1)] → IsScalar d → SetsScalar (.saddi d a imm) s f g d (sumOf (srcS (ctxOf s f g) a) imm))

/-- 06 R158, R162: selection, field extract, moves, population count, leading zeros and the 32-bit immediates. -/
def Obligations.ScalarMovesAndBits : Prop :=
  ∀ (s : State) (f : Flight) (g : Fragment) (t : Ty) (d a b x : Opnd) (v : Word), Issues s f g → Unwatched s f →
    MayName f g [(d, 1), (a, 1), (b, 1), (x, 1)] → IsScalar d →
    let c := ctxOf s f g
    let p := srcS c a
    let q := srcS c b
    let r := srcS c x
    SetsScalar (.ssel t d a b x) s f g d (if r = 0 then q else p) ∧
      SetsScalar (.sbfe t d a b x) s f g d (fieldIn t p (q.toNat % 32) (min r.toNat 32)) ∧
      (t.isFp = false → t.regs = 1 → t ≠ .fx64 → SetsScalar (.smov t d a) s f g d p) ∧
      (isInline a = false → SetsScalar (.smov .f32 d a) s f g d p) ∧
      SetsScalar (.spopc d a) s f g d (popOf p) ∧ SetsScalar (.sclz d a) s f g d (clzOf p) ∧
      SetsScalar (.smovi d v) s f g d v ∧ SetsScalar (.saddi d a v) s f g d (wrap (p.toNat + v.toNat))

/-- 06 R163: the mask instructions write a whole mask of three words. -/
def Obligations.MaskInstructions : Prop :=
  ∀ (s : State) (f : Flight) (g : Fragment) (m ma mb : Fin 24) (d a : Opnd), Issues s f g → Unwatched s f →
    MayName f g [(d, 1), (a, 1)] → IsScalar d →
    let x := getMask f g ma
    let y := getMask f g mb
    let n := (srcS (ctxOf s f g) a).toNat
    SetsMask (.mand m ma mb) s f g m (x &&& y) ∧ SetsMask (.mor m ma mb) s f g m (x ||| y) ∧
      SetsMask (.mxor m ma mb) s f g m (x ^^^ y) ∧ SetsMask (.mandn m ma mb) s f g m (x &&& ~~~y) ∧
      SetsMask (.mlane m a) s f g m (if n < 96 then BitVec.ofNat 96 (2 ^ n) else 0) ∧
      SetsScalar (.mpopc d ma) s f g d (wrap ((List.finRange 96).countP fun i => x.getLsb i)) ∧
      (∃ w : Word, SetsScalar (.mfirst d ma) s f g d w ∧
        if x = 0 then w = 0xFFFF_FFFF else
          w.toNat < 96 ∧ x.getLsbD w.toNat = true ∧ ∀ l, l < w.toNat → x.getLsbD l = false)

/-- 06 R159-R161: 64-bit sums in pairs; the special registers that SMOVS reads and SMOVW writes. A read of CLKLO captures CLKHI,
and a value with a reserved bit is illegal with detail 5.
Model's choices: log 2. -/
def Obligations.ScalarPairsAndSpecials : Prop :=
  ∀ (s : State) (f : Flight) (g : Fragment) (t : Ty) (d a b : Opnd) (n : BitVec 8), Issues s f g → Unwatched s f → IsScalar d →
    let c := ctxOf s f g
    let w := srcS c a
    (MayName f g [(d, 2), (a, 2), (b, 2)] → d.idx + 2 ≤ d.cls.size →
      let z : Int := (srcS2 c a).toNat + (srcS2 c b).toNat
      SetsScalars (.sadd64 t d a b) s f g d [wordOf z 0, wordOf z 1]) ∧
    (MayName f g [(d, 1)] → n.toNat ≠ 0x0A → SetsScalar (.smovs d n) s f g d (special c n.toNat)) ∧
    (MayName f g [(d, 1)] →
      CompletesIn (.smovs d 0x0A) s f g s { f with clkhi := wrap (s.cycle / 2 ^ 32) } (g.pc + 8) fun t f' g' =>
        ScalarWrite f f' g g' d [wrap s.cycle] ∧ VectorsSame s t f f' ∧ f'.lflags = f.lflags) ∧
    (MayName f g [(a, 1)] → w.toNat < 4 →
      CompletesIn (.smovw 0x11 a) s f g s { f with fpmode := w } (g.pc + 8) fun t f' g' => NoRegister s t f f' g g') ∧
    (MayName f g [(a, 1)] → w.toNat < 16 →
      Completes (.smovw 0x12 a) s f g (g.pc + 8) fun t f' g' =>
        ScalarsSame f f' g g' ∧ VectorsSame s t f f' ∧ f'.t1 = f.t1 ∧ f'.t2 = f.t2 ∧
          ∀ l, l < 96 → laneFlags f' l = laneFlags f l &&& (15 - w.toNat)) ∧
    (MayName f g [(a, 1)] → (4 ≤ w.toNat → exec (.smovw 0x11 a) s = .next (fault c 0x01 5)) ∧
      (16 ≤ w.toNat → exec (.smovw 0x12 a) s = .next (fault c 0x01 5)))

/-! ### Vectors (08 R196-R208) -/

/-- 08 R200, R198, 02 R17: the vector integer instructions of two sources, and their immediate variants, compute every active lane, and no
other lane, register or flag changes. -/
def Obligations.VectorArithmetic : Prop :=
  (∀ (s : State) (f : Flight) (g : Fragment) (t : Ty) (d a b : Opnd), Issues s f g → Unwatched s f →
      MayName f g [(d, 1), (a, 1), (b, 1)] → IsVector d → Unread f d 1 →
      let sets (i : Instr) (k : Word → Word → Word) : Prop :=
        SetsVector i s f g d 1 (fun _ l => k (src32 (ctxOf s f g) a l) (src32 (ctxOf s f g) b l)) fun _ => 0
      sets (.vadd t d a b) sumOf ∧ sets (.vsub t d a b) diffOf ∧ sets (.vmul t d a b) prodOf ∧
        sets (.vmulh t d a b) (highOf t) ∧ sets (.vand t d a b) (fun x y => x &&& y) ∧
        sets (.vor t d a b) (fun x y => x ||| y) ∧ sets (.vxor t d a b) (fun x y => x ^^^ y) ∧
        sets (.vandn t d a b) (fun x y => x &&& ~~~y) ∧ sets (.vshl t d a b) shlOf ∧ sets (.vshr t d a b) shrOf ∧
        sets (.vsar t d a b) sarOf ∧ sets (.vmin t d a b) (minOf t) ∧ sets (.vmax t d a b) (maxOf t)) ∧
  (∀ (s : State) (f : Flight) (g : Fragment) (d a : Opnd) (imm : BitVec 25), Issues s f g → Unwatched s f →
      MayName f g [(d, 1), (a, 1)] → IsVector d → Unread f d 1 →
      let sets (i : Instr) (k : Word → Word → Word) : Prop :=
        SetsVector i s f g d 1 (fun _ l => k (src32 (ctxOf s f g) a l) (wrap imm.toInt)) fun _ => 0
      sets (.vaddI d a imm) sumOf ∧ sets (.vsubI d a imm) diffOf ∧ sets (.vmulI d a imm) prodOf ∧
        sets (.vandI d a imm) (fun x y => x &&& y) ∧ sets (.vorI d a imm) (fun x y => x ||| y) ∧
        sets (.vxorI d a imm) (fun x y => x ^^^ y) ∧ sets (.vshlI d a imm) shlOf ∧ sets (.vshrI d a imm) shrOf ∧
        sets (.vsarI d a imm) sarOf)

/-- 08 R200, R203, R204, 06 R162: the other integer instructions of one lane, and the moves. -/
def Obligations.VectorMovesAndBits : Prop :=
  ∀ (s : State) (f : Flight) (g : Fragment) (t : Ty) (d a b x : Opnd) (v : Word) (n : BitVec 8), Issues s f g →
    Unwatched s f → MayName f g [(d, t.regs), (a, t.regs), (b, t.regs), (x, 1)] → IsVector d → d.idx + t.regs ≤ d.cls.size →
    Unread f d t.regs →
    let c := ctxOf s f g
    let p := src32 c a
    let q := src32 c b
    let r := src32 c x
    let sets (i : Instr) (k : Nat → Word) : Prop := SetsVector i s f g d 1 (fun _ l => k l) fun _ => 0
    (t.regs = 1 →
      sets (.vmad t d a b x) (fun l => wrap ((p l).toNat * (q l).toNat + (r l).toNat)) ∧
      sets (.vabs d a) (fun l => wrap ((p l).toInt.natAbs)) ∧ sets (.vclz d a) (fun l => clzOf (p l)) ∧
      sets (.vpopc d a) (fun l => popOf (p l)) ∧
      sets (.vbfe t d a b x) (fun l => fieldIn t (p l) ((q l).toNat % 32) (min (r l).toNat 32)) ∧
      (∃ z : Nat → Word, sets (.vbfi d a b x) z ∧ ∀ l k, k < 32 →
        let pos := (q l).toNat % 256
        (z l).getLsbD k = if pos ≤ k ∧ k < pos + (q l).toNat / 256 % 256 then (p l).getLsbD (k - pos) else (r l).getLsbD k) ∧
      sets (.vmovi d v) (fun _ => v) ∧ sets (.vaddi d a v) (fun l => sumOf (p l) v) ∧
      sets (.vmovs d n) (fun l => laneSpecial c n.toNat l)) ∧
    SetsVector (.vmov t d a) s f g d t.regs (fun k l => wordOf (src c t a l) k) (fun _ => 0) ∧
    SetsVector (.vsel t d a b x) s f g d t.regs
      (fun k l => wordOf (if r l = 0 then src c t b l else src c t a l) k) (fun _ => 0)

/-- 08 R202: 64-bit sums and multiply-adds in register pairs, signed for s64. -/
def Obligations.VectorPairs : Prop :=
  ∀ (s : State) (f : Flight) (g : Fragment) (t : Ty) (d a b x : Opnd), Issues s f g → Unwatched s f → t.regs = 2 →
    IsVector d → d.idx + 2 ≤ d.cls.size → Unread f d 2 →
    let c := ctxOf s f g
    (MayName f g [(d, 2), (a, 2), (b, 2)] →
      SetsVector (.vadd64 t d a b) s f g d 2 (fun k l => wordOf (src c t a l + src c t b l) k) (fun _ => 0)) ∧
    (MayName f g [(d, 2), (a, 1), (b, 1), (x, 2)] →
      SetsVector (.vmad64 t d a b x) s f g d 2
        (fun k l =>
          let p := src32 c a l
          let q := src32 c b l
          wordOf ((if t = .s64 then p.toInt * q.toInt else p.toNat * q.toNat) + src c t x l) k) (fun _ => 0))

/-- 08 R205-R208: a shuffle reads another active lane or the lane itself; a broadcast supplies one lane's value, and 0 where that
lane is not active; a reduction takes the active lanes, and a scan those up to the lane, or below it. -/
def Obligations.CrossLane : Prop :=
  ∀ (s : State) (f : Flight) (g : Fragment) (t : Ty) (mode : ShMode) (op : RedOp) (excl : Bool) (d a b : Opnd), Issues s f g →
    Unwatched s f → MayName f g [(d, t.regs), (a, t.regs), (b, 1)] → d.idx + t.regs ≤ d.cls.size →
    let c := ctxOf s f g
    let n := (srcS c b).toNat
    let cast := if n < 96 ∧ g.em.getLsbD n then src c t a n else 0
    let red := reduce t op (fun l => g.em.getLsbD l) fun l => src c t a l
    (IsVector d → Unread f d t.regs →
      SetsVector (.vshfl t mode d a b) s f g d t.regs
        (fun k l =>
          let y := (src32 c b l).toNat
          let j : Int := match mode with
            | .idx => y
            | .up => l - y
            | .down => l + y
            | .xor => (l ^^^ y : Nat)
          wordOf (src c t a (if 0 ≤ j ∧ j < 96 ∧ g.em.getLsbD j.toNat then j.toNat else l)) k) (fun _ => 0) ∧
      SetsVector (.vbcast t d a b) s f g d t.regs (fun k _ => wordOf cast k) (fun _ => 0) ∧
      SetsVector (.vredu t op d a) s f g d t.regs (fun k _ => wordOf red.1 k) (fun _ => red.2) ∧
      SetsVector (.vscan t op excl d a) s f g d t.regs
        (fun k l => wordOf (reduce t op (fun j => g.em.getLsbD j && (if excl then j < l else j ≤ l)) fun j => src c t a j).1 k)
        (fun l => (reduce t op (fun j => g.em.getLsbD j && (if excl then j < l else j ≤ l)) fun j => src c t a j).2)) ∧
    (IsScalar d →
      SetsScalars (.vbcast t d a b) s f g d ((List.range t.regs).map (wordOf cast)) ∧
      Completes (.vredu t op d a) s f g (g.pc + 8) fun t' f' g' =>
        ScalarWrite f f' g g' d ((List.range t.regs).map (wordOf red.1)) ∧ VectorsSame s t' f f' ∧
          ∀ l, l < 96 → laneFlags f' l = laneFlags f l ||| (if g.em.getLsbD l then red.2 % 16 else 0))

/-- 08 R207: a u32 sum over the active lanes is their sum modulo 2^32, and an f32 sum is the fixed tree over three groups of 32 with
+0.0 for the lanes that take no part.
Model's choices: log 73. -/
def Obligations.ReductionSums : Prop :=
  (∀ (part : Nat → Bool) (x : Nat → Word),
    (reduce .u32 .add part fun l => (x l).toNat).1 =
      (((List.range 96).filter part).map fun l => (x l).toNat).sum % 2 ^ 32) ∧
  (∀ (part : Nat → Bool) (x : Nat → Word),
    let y (l : Nat) : Word := if part l then x l else 0
    let tree (k : Nat) : Word := (treeSum ((List.range 32).map fun i => y (32 * k + i))).1
    (reduce .f32 .add part fun l => (x l).toNat).1 = (add32 (add32 (tree 0) (tree 1)).1 (tree 2)).1.toNat)

/-- 08 R201, R212: a comparison writes 1 or 0 to each active lane, or a whole mask whose bits are set in the active lanes where the
condition holds; no flag is raised. -/
def Obligations.Comparisons : Prop :=
  ∀ (s : State) (f : Flight) (g : Fragment) (t : Ty) (q : Cond) (fq : FCond) (d a b : Opnd) (m : Fin 24), Issues s f g →
    Unwatched s f →
    let c := ctxOf s f g
    let p (l : Nat) : Bool := condHolds q (numOf t (src32 c a l)) (numOf t (src32 c b l))
    let r (l : Nat) : Bool := fCond fq (fval t (src c t a l)) (fval t (src c t b l))
    let mask (p : Nat → Bool) (z : Lanes) : Prop := ∀ l, l < 96 → z.getLsbD l = (g.em.getLsbD l && p l)
    let md : Opnd := .s ⟨4 * m.val, by omega⟩
    (MayName f g [(d, 1), (a, 1), (b, 1)] → IsVector d → Unread f d 1 →
      SetsVector (.vcmp t q d a b) s f g d 1 (fun _ l => if p l then 1 else 0) fun _ => 0) ∧
    (MayName f g [(a, 1), (b, 1)] → ∃ z, mask p z ∧ SetsMask (.vcmp t q md a b) s f g m z) ∧
    (MayName f g [(d, 1), (a, t.regs), (b, t.regs)] → IsVector d → Unread f d 1 →
      SetsVector (.vfcmp t fq d a b) s f g d 1 (fun _ l => if r l then 1 else 0) fun _ => 0) ∧
    (MayName f g [(a, t.regs), (b, t.regs)] → ∃ z, mask r z ∧ SetsMask (.vfcmp t fq md a b) s f g m z)

/-! ### Floating point (07, 08 R209-R225) -/

/-- 08 R209-R215: every active lane gets the exact result rounded once, and raises the flags of its own operation (07 R182, R185). -/
def Obligations.FloatArithmetic : Prop :=
  ∀ (s : State) (f : Flight) (g : Fragment) (t : Ty) (rm : Rm) (d a b x : Opnd), Issues s f g → Unwatched s f →
    MayName f g [(d, t.regs), (a, t.regs), (b, t.regs), (x, t.regs)] → IsVector d → d.idx + t.regs ≤ d.cls.size →
    Unread f d t.regs →
    let c := ctxOf s f g
    let mode := match rm with
      | .dyn => f.fpmode.toNat % 4
      | .rne => 0
      | .rtz => 1
      | .rup => 2
      | .rdn => 3
    let sets (i : Instr) (k : Nat → FRes) : Prop :=
      SetsVector i s f g d t.regs (fun j l => wordOf (k l).1 j) fun l => (k l).2
    sets (.vfadd t rm d a b) (fun l => lFadd t mode (src c t a l) (src c t b l)) ∧
      sets (.vfsub t rm d a b) (fun l => lFsub t mode (src c t a l) (src c t b l)) ∧
      sets (.vfmul t rm d a b) (fun l => lFmul t mode (src c t a l) (src c t b l)) ∧
      sets (.vfma t rm d a b x) (fun l => lFma t mode (src c t a l) (src c t b l) (src c t x l)) ∧
      sets (.vfmin t d a b) (fun l => lFmm false t (src c t a l) (src c t b l)) ∧
      sets (.vfmax t d a b) (fun l => lFmm true t (src c t a l) (src c t b l)) ∧
      sets (.vfrnd t rm d a) (fun l => lFrnd t mode (src c t a l)) ∧
      (MayName f g [(b, 1)] → sets (.vfscl t rm d a b) (fun l => lFscl t mode (src c t a l) (src32 c b l).toInt)) ∧
      SetsVector (.vfclass t d a) s f g d 1
        (fun _ l => wrap (fClass (fmtOf t) (src c t a l % (2 * (fmtOf t).sign)))) fun _ => 0

/-- 08 R216, R217, 07 R178, R182: the conversions; and a finite value of a format is its own rounding, in every mode, and raises no
flag. -/
def Obligations.Conversions : Prop :=
  (∀ (s : State) (f : Flight) (g : Fragment) (t u : Ty) (rm : Rm) (d a b : Opnd), Issues s f g → Unwatched s f →
    MayName f g [(d, t.regs), (a, u.regs)] → IsVector d → d.idx + t.regs ≤ d.cls.size → Unread f d t.regs →
    let c := ctxOf s f g
    let mode := rmCode2 (f.fpmode.toNat % 4) rm
    let sets (i : Instr) (k : Nat → FRes) : Prop :=
      SetsVector i s f g d t.regs (fun j l => wordOf (k l).1 j) fun l => (k l).2
    (t.regs = 1 → u.regs = 1 → MayName f g [(b, 1)] →
      sets (.vf2i t rm u d a b) (fun l => lF2i t u mode (src c u a l) (src32 c b l).toInt) ∧
      sets (.vi2f t rm u d a b) (fun l => lI2f t u mode (src c u a l) (src32 c b l).toInt)) ∧
    ((paired t → MayName f g [(b, 1)]) →
      sets (.vcvt t rm u d a b) (fun l => lCvt t u mode (src c u a l) (if paired t then src c u b l else 0)))) ∧
  (∀ (fm : Fmt) (mode x : Nat), fm = f16 ∨ fm = bf16 ∨ fm = f32 ∨ fm = f64 → x < 2 * fm.sign →
      x / 2 ^ fm.p % 2 ^ fm.eb ≠ fm.emax → roundVal fm mode (fm.val x) = (x, 0))

/-- 07 R194: FX64 addition is integer addition modulo 2^64, without a flag, in VADD64, VREDU and VSCAN, in AADD.fx64, and in the Bridle
engine on every tree and in both modes; a sum does not depend on which of its terms comes where. -/
def Obligations.FixedPointSums : Prop :=
  (∀ (s : State) (f : Flight) (g : Fragment) (d a b : Opnd), Issues s f g → Unwatched s f → MayName f g [(d, 2), (a, 2), (b, 2)] →
    d.idx + 2 ≤ d.cls.size →
    let x (l : Nat) : Nat := src (ctxOf s f g) .fx64 a l
    let y (l : Nat) : Nat := src (ctxOf s f g) .fx64 b l
    let total (p : Nat → Bool) : Nat := (((List.range 96).filter fun j => g.em.getLsbD j && p j).map x).sum % 2 ^ 64
    let pair (n : Nat → Nat) (i : Instr) : Prop := SetsVector i s f g d 2 (fun k l => wordOf (n l) k) fun _ => 0
    (IsVector d → Unread f d 2 →
      pair (fun l => (x l + y l) % 2 ^ 64) (.vadd64 .fx64 d a b) ∧ pair (fun _ => total fun _ => true) (.vredu .fx64 .add d a) ∧
      pair (fun l => total fun j => decide (j ≤ l)) (.vscan .fx64 .add false d a) ∧
      pair (fun l => total fun j => decide (j < l)) (.vscan .fx64 .add true d a)) ∧
    (IsScalar d → Completes (.vredu .fx64 .add d a) s f g (g.pc + 8) fun t' f' g' =>
      ScalarWrite f f' g g' d ((List.range 2).map (wordOf (total fun _ => true))) ∧ VectorsSame s t' f f' ∧
        ∀ l, l < 96 → laneFlags f' l = laneFlags f l)) ∧
  (∀ (sc : Scope) (img nt : Bool) (d : Opnd) (m : MAddr) (x v k : Nat), atomNew (.aadd .fx64 sc img nt d m) x v k = (x + v) % 2 ^ 64) ∧
  (∀ (exact : Bool) (m tree : Nat) (own : Nat → DWord), 0 < m → reduceElem .fx64 0 exact m tree (fun r => (own r).toNat) =
    ((List.range m).map fun r => (own r).toNat).sum % 2 ^ 64) ∧
  (∀ (xs ys : List DWord), xs.Perm ys → (xs.map BitVec.toNat).sum % 2 ^ 64 = (ys.map BitVec.toNat).sum % 2 ^ 64 ∧
    (xs.map BitVec.toInt).sum % 2 ^ 64 = ((xs.map BitVec.toNat).sum % 2 ^ 64 : Nat))

/-- 08 R218, 06 R155: a special function issues below the sfu limit, writes no register yet, and its result, with the flags of each active
lane's function, is outstanding; when it lands, its lanes hold the value, those written meanwhile are undefined, and its flags are raised.
Model's choices: log 3, 15. -/
def Obligations.SpecialFunctions : Prop :=
  (∀ (s : State) (f : Flight) (g : Fragment) (t : Ty) (rm : Rm) (d a : Opnd), Issues s f g → Unwatched s f →
    MayName f g [(d, 1), (a, 1)] → count f g.level .sfu < 15 →
    let x (l : Nat) : FVal := fval t (src (ctxOf s f g) t a l)
    let issues (i : Instr) (k : FVal → FRes) : Prop :=
      CompletesIn i s f g { s with nextId := s.nextId + 1 } f (g.pc + 8) fun t f' g' =>
        g'.em = g.em ∧ ScalarsSame f f' g g' ∧ VectorsSame s t f f' ∧ f'.lflags = f.lflags ∧ f'.t1 = f.t1 ∧ f'.t2 = f.t2 ∧
          count f' g.level .sfu = count f g.level .sfu + 1 ∧
          ∃ p, f'.pend = f.pend ++ [p] ∧ p.id = s.nextId ∧ p.acc = false ∧ p.dst = d ∧ p.lanes = g.em ∧ p.level = g.level ∧
            (∀ l, l < 96 → g.em.getLsbD l → rowAt (p.rows.headD []) l = wrap (k (x l)).1) ∧
            ∀ j l, j < 4 → l < 96 → (p.flags.getD j 0).getLsbD l = (g.em.getLsbD l && (k (x l)).2.testBit j)
    issues (.vrcp t rm d a) (sRcp (fmtOf t)) ∧ issues (.vrsq t rm d a) (sRsq (fmtOf t)) ∧
      issues (.vsqrt t rm d a) (sSqrt (fmtOf t)) ∧ issues (.vexp2 t rm d a) (sExp2 (fmtOf t)) ∧
      issues (.vlog2 t rm d a) (sLog2 (fmtOf t)) ∧ issues (.vsinpi t rm d a) (sSinPi (fmtOf t)) ∧
      issues (.vcospi t rm d a) (sCosPi (fmtOf t)) ∧ issues (.vtanh t rm d a) (sTanh (fmtOf t))) ∧
  (∀ (s : State) (fid : Nat) (f : Flight) (p : Pend) (n : Fin 192) (r : Row), flight? s fid = some f → p ∈ f.pend →
    (∀ q ∈ f.pend, q.id = p.id → q = p) → p.acc = false → p.dst = .v n → p.rows = [r] → p.late = false →
    asyncLanes f n.val = 0 → pendReady f p = true → frozen s f.pid = false → (∀ m ∈ p.cleared, m = 0) →
    NoEarly { f with pend := f.pend.filter fun q => q.id ≠ p.id } → (∀ h ∈ p.vhits, h.1 = n.val) →
    NoDest f.mops (f.pend.filter fun q => q.id ≠ p.id) (.v n) 1 →
    ∃ t f', exec (.sfuResultWrite fid p.id) s = .next t ∧ flight? t fid = some f' ∧
      (∀ l, l < 96 → p.lanes.getLsbD l → wasHit p.vhits n.val l = false → getV t f' n.val l = rowAt r l) ∧
      (∀ l, l < 96 → ¬ p.lanes.getLsbD l → wasHit p.vhits n.val l = false → getV t f' n.val l = getV s f n.val l) ∧
      (∀ k, k ≠ n.val → mgetD f'.v k [] = mgetD f.v k []) ∧ f'.s = f.s ∧ f'.lflags = orMasks f.lflags p.flags ∧
      (∀ a, readByte t a = readByte s a) ∧ ∀ k, k ≠ fid → flight? t k = flight? s k)

/-- 08 R221-R225: the statistics steps and the block-format instructions.
The source of VBEXP is taken as f32 (log 17).
Model's choices: log 17, 71, 72. -/
def Obligations.StatisticsAndBlocks : Prop :=
  ∀ (s : State) (f : Flight) (g : Fragment) (t : Ty) (rm : Rm) (n : Fin 16) (d a b : Opnd), Issues s f g → Unwatched s f →
    IsVector d → d.idx + 4 ≤ d.cls.size → Unread f d 4 →
    let c := ctxOf s f g
    let mode := rmCode2 (f.fpmode.toNat % 4) rm
    let stats (i : Instr) (k : Nat → Stat × Nat) : Prop :=
      SetsVector i s f g d 3
        (fun j l => wrap (match j with
          | 0 => (k l).1.1
          | 1 => (k l).1.2.1
          | _ => (k l).1.2.2 : Nat)) fun l => (k l).2
    let ex (j l : Nat) : Nat × Nat := ((regWord c b j l).toNat % 256, (regWord c b j l).toNat / 256 % 256)
    (MayName f g [(d, 4), (a, 1)] → stats (.welf rm d a) fun l => lWelf mode (statAt c d l) (src c .f32 a l)) ∧
      (MayName f g [(d, 4), (a, 4)] → stats (.wmrg rm d a) fun l => lWmrg mode (statAt c d l) (statAt c a l)) ∧
      (MayName f g [(d, 1), (a, 1)] → SetsVector (.vbexp t n d a) s f g d 1
        (fun _ l =>
          let e := blockExp t ((n.val + 4) % 16)
            (((List.range 32).filter fun i => g.em.getLsbD (32 * (l / 32) + i)).map fun i => src c .f32 a (32 * (l / 32) + i))
          wrap (e.1 + e.2 * 256 : Nat)) (fun _ => 0)) ∧
      (t.isDxb → MayName f g [(d, 4), (a, 1), (b, 4)] → SetsVector (.vunpkx t d a b) s f g d 4
        (fun j l => wrap (unpackElem t (ex j l).1 (ex j l).2 ((regWord c a 0 l).toNat / 256 ^ j % 256)).1)
        (fun l => (List.range 4).foldl (fun z j => z |||
          (unpackElem t (ex j l).1 (ex j l).2 ((regWord c a 0 l).toNat / 256 ^ j % 256)).2) 0)) ∧
      (t.isDxb → MayName f g [(d, 1), (a, 4), (b, 4)] →
        ∃ z : Nat → Word, SetsVector (.vpkx t d a b) s f g d 1 (fun _ l => z l)
          (fun l => (List.range 4).foldl (fun y j => y ||| (packElem t (ex j l).1 (ex j l).2 (regWord c a j l).toNat).2) 0) ∧
        ∀ l j, j < 4 → (z l).toNat / 256 ^ j % 256 = (packElem t (ex j l).1 (ex j l).2 (regWord c a j l).toNat).1 % 256)

/-! ### The P form (02 R24-R27) -/

/-- 02 R25-R27: the two halves of a P-form word read every operand before either writes, and each does what its instruction does with
dst as its first source. -/
def Obligations.PairedHalves : Prop :=
  ∀ (s : State) (f : Flight) (g : Fragment) (x y : PHalf), Issues s f g → Unwatched s f → (mkPair x.op x.x y).wf = true →
    MayName f g (halfGroups x ++ halfGroups y) → (∀ d, x.dst = some d ∨ y.dst = some d → Unread f d 1) →
    let c := ctxOf s f g
    let mode (h : PHalf) := rmCode2 (f.fpmode.toNat % 4) (Sys2Proof.rmOf (h.x.pq.val / 2))
    let out (h : PHalf) (d : Opnd) (l : Nat) : Word × Nat :=
      let p := src32 c d l
      let q := src32 c h.x.s l
      let t := h.x.ty
      let flt (r : FRes) : Word × Nat := (wrap r.1, r.2)
      match h.op with
      | .nop => (p, 0)
      | .vadd => (sumOf p q, 0)
      | .vsub => (diffOf p q, 0)
      | .vmul => (prodOf p q, 0)
      | .vand => (p &&& q, 0)
      | .vor => (p ||| q, 0)
      | .vxor => (p ^^^ q, 0)
      | .vshl => (shlOf p q, 0)
      | .vshr => (shrOf p q, 0)
      | .vsar => (sarOf p q, 0)
      | .vmin => (minOf t p q, 0)
      | .vmax => (maxOf t p q, 0)
      | .vmov => (q, 0)
      | .vfadd => flt (lFadd t (mode h) (src c t d l) (src c t h.x.s l))
      | .vfsub => flt (lFsub t (mode h) (src c t d l) (src c t h.x.s l))
      | .vfmul => flt (lFmul t (mode h) (src c t d l) (src c t h.x.s l))
      | .vfmin => flt (lFmm false t (src c t d l) (src c t h.x.s l))
      | .vfmax => flt (lFmm true t (src c t d l) (src c t h.x.s l))
      | .vcvt => flt (lCvt t (tyV h.x.pq.val) (f.fpmode.toNat % 4) (src c (tyV h.x.pq.val) h.x.s l) 0)
      | .sadd => (sumOf p q, 0)
      | .ssub => (diffOf p q, 0)
      | .smov => (q, 0)
      | .sand => (p &&& q, 0)
      | .sor => (p ||| q, 0)
    let flags (h : PHalf) (l : Nat) : Nat :=
      match h.dst with
      | some (.v n) => if g.em.getLsbD l then (out h (.v n) l).2 % 16 else 0
      | _ => 0
    Completes (mkPair x.op x.x y) s f g (g.pc + 8) fun t f' g' =>
      g'.em = g.em ∧ f'.t1 = f.t1 ∧ f'.t2 = f.t2 ∧
        (∀ n : Fin 96, getS f' g' n.val =
          if y.dst = some (.s n) then (out y (.s n) 0).1 else if x.dst = some (.s n) then (out x (.s n) 0).1
          else getS f g n.val) ∧
        (∀ (n : Fin 192) (l : Nat), l < 96 → getV t f' n.val l =
          if y.dst = some (.v n) ∧ g.em.getLsbD l then (out y (.v n) l).1
          else if x.dst = some (.v n) ∧ g.em.getLsbD l then (out x (.v n) l).1 else getV s f n.val l) ∧
        ∀ l, l < 96 → laneFlags f' l = laneFlags f l ||| flags x l ||| flags y l

/-! ### Control flow (06 R149-R177) -/

/-- 06 R164, R165, R166, 02 R34: the uniform transfers move the whole fragment, dormant lanes included, to PC + 8 + 8 × imm32, and no
branch of them splits it; CALL leaves the return address in its pair. -/
def Obligations.UniformTransfers : Prop :=
  ∀ (s : State) (f : Flight) (g : Fragment) (q : Cc) (mode : BrmMode) (m : Fin 24) (k : Fin 48) (a : Opnd) (off : Word),
    Issues s f g → Unwatched s f →
    let dest : DWord := g.pc + 8 + 8 * BitVec.ofInt 64 off.toInt
    let x := (srcS (ctxOf s f g) a).toInt
    let taken : Bool := match q with
      | .eqz => decide (x = 0)
      | .nez => decide (x ≠ 0)
      | .ltz => decide (x < 0)
      | .gez => decide (0 ≤ x)
      | .gtz => decide (0 < x)
      | .lez => decide (x ≤ 0)
    let z := getMask f g m
    let holds : Prop := match mode with
      | .all => ∀ l, l < 96 → g.em.getLsbD l → z.getLsbD l
      | .any => ∃ l, l < 96 ∧ g.em.getLsbD l ∧ z.getLsbD l
      | .none => ∀ l, l < 96 → g.em.getLsbD l → ¬ z.getLsbD l
    OnlyMoves (.bra off) s f g dest ∧
      (MayName f g [(a, 1)] → OnlyMoves (.brc q a off) s f g (if taken then dest else g.pc + 8)) ∧
      (holds → OnlyMoves (.brm mode m off) s f g dest) ∧ (¬ holds → OnlyMoves (.brm mode m off) s f g (g.pc + 8)) ∧
      (MayName f g [(a, 2)] → OnlyMoves (.ret a) s f g (srcS2 (ctxOf s f g) a)) ∧
      Completes (.call k off) s f g dest fun t f' g' =>
        ScalarWrite f f' g g' (.s ⟨2 * k.val, by omega⟩) [loWord (g.pc + 8), hiWord (g.pc + 8)] ∧ VectorsSame s t f f' ∧
          f'.lflags = f.lflags

/-- 06 R149, R150: a divergent branch whose active lanes disagree splits the fragment: the larger side goes on in it, the taken side
when they are equal; the other side becomes a fragment of the lowest free number, and the token expects every lane the parent owned.
A branch whose active lanes agree moves the whole fragment. -/
def Obligations.DivergentBranches : Prop :=
  ∀ (s : State) (f : Flight) (g : Fragment) (q : Cc) (m : Fin 24) (a : Opnd) (tok : Fin 16) (off : Word) (t : Lanes) (i : Instr),
    Issues s f g → Unwatched s f →
    (i = .brv q a tok off ∧ MayName f g [(a, 1)] ∧ t = lanesOf fun l => g.em.getLsbD l && aCc q (src32 (ctxOf s f g) a l)) ∨
      (i = .brmLanes m tok off ∧ t = g.em &&& getMask f g m) →
    let dest : DWord := g.pc + 8 + 8 * BitVec.ofInt 64 off.toInt
    let n := g.em &&& ~~~t
    (t = 0 → OnlyMoves i s f g (g.pc + 8)) ∧ (t ≠ 0 → n = 0 → OnlyMoves i s f g dest) ∧
      (t ≠ 0 → n ≠ 0 → subLanes g.em g.owned = true → f.frags.length < 96 → (∀ h ∈ f.frags, h.num < 96) →
        ∃ u f' g' h, exec i s = .next u ∧ flight? u s.cur.1 = some f' ∧ frag? f' g.num = some g' ∧ frag? f h.num = none ∧
          (∀ k, k < h.num → frag? f k ≠ none) ∧ frag? f' h.num = some h ∧ Outside s u ∧
          (∀ k, k ≠ g.num → k ≠ h.num → frag? f' k = frag? f k) ∧
          (if n.count ≤ t.count then h.owned = n ∧ h.em = n ∧ h.pc = g.pc + 8 ∧ g'.pc = dest ∧ g'.em = t
            else h.owned = t ∧ h.em = t ∧ h.pc = dest ∧ g'.pc = g.pc + 8 ∧ g'.em = n) ∧
          h.region = g.region ∧ h.rpc = g.rpc ∧ h.level = g.level ∧ g'.region = g.region ∧ g'.rpc = g.rpc ∧
          g'.owned = g.owned &&& ~~~h.owned ∧
          mgetD f'.tokens tok.val 0 = mgetD f.tokens tok.val 0 ||| g.owned ∧ f'.s = f.s ∧ f'.v = f.v ∧ f'.lflags = f.lflags)

/-- 06 R151: JOIN of a disarmed token, or of one that expects no lane of the fragment, is a NOP; otherwise the fragment parks, and when
every expected lane has arrived the parked fragments merge into the one of the lowest number, after the JOIN of the one that owns the
lowest lane, in a new region. -/
def Obligations.JoinsMerge : Prop :=
  ∀ (s : State) (f : Flight) (g : Fragment) (tok : Fin 16), Issues s f g → Unwatched s f → g.halted = false →
    (f.frags.map (·.num)).Nodup →
    let e := mgetD f.tokens tok.val 0
    let gs := f.frags.filter fun h => h.num = g.num ∨ (h.wait = .join tok.val ∧ h.halted = false)
    let all := gs.foldl (fun m h => m ||| h.owned) 0
    (e &&& g.owned = 0 → OnlyMoves (.join tok) s f g (g.pc + 8)) ∧
      (e &&& g.owned ≠ 0 → e &&& ~~~all ≠ 0 →
        ∃ t f' g', exec (.join tok) s = .next t ∧ flight? t s.cur.1 = some f' ∧ frag? f' g.num = some g' ∧ Outside s t ∧
          Siblings f f' g ∧ g'.wait = .join tok.val ∧ g'.pc = g.pc ∧ g'.owned = g.owned ∧ g'.em = g.em ∧
          f'.tokens = f.tokens ∧ f'.s = f.s ∧ f'.v = f.v) ∧
      (e &&& g.owned ≠ 0 → e &&& ~~~all = 0 →
        ∃ t f' m, exec (.join tok) s = .next t ∧ flight? t s.cur.1 = some f' ∧ frag? f' m.num = some m ∧ Outside s t ∧
          (∃ h ∈ gs, h.num = m.num) ∧ (∀ h ∈ gs, m.num ≤ h.num) ∧ m.owned = all ∧
          m.em = gs.foldl (fun y h => y ||| h.em) 0 ∧ m.wait = .run ∧
          (∃ h ∈ gs, m.pc = h.pc + 8 ∧ m.rpc = h.pc + 8 ∧
            ∀ x ∈ gs, (lowestLane h.owned).getD 96 ≤ (lowestLane x.owned).getD 96) ∧
          (∃ h ∈ gs, m.region = h.region + 1 ∧ ∀ x ∈ gs, x.region.toNat ≤ h.region.toNat) ∧
          (∀ h ∈ gs, h.num ≠ m.num → frag? f' h.num = none) ∧
          (∀ k, (∀ h ∈ gs, h.num ≠ k) → frag? f' k = frag? f k) ∧ mget? f'.tokens tok.val = none ∧
          (∀ k, k ≠ tok.val → mget? f'.tokens k = mget? f.tokens k) ∧ f'.s = f.s ∧ f'.v = f.v)

/-- 06 R152, R168, 09 R249: EXIT takes the active lanes from the flight; one that ends the flight checks its scale stream first. -/
def Obligations.ExitsTakeLanes : Prop :=
  ∀ (s : State) (f : Flight) (g : Fragment), Issues s f g → Unwatched s f → PlainExits s f → f.afq = [] →
    (∀ h ∈ f.frags, h.owned &&& f.exited = 0) →
    (∀ x, gangOf s f = some x → ∀ n, mget? x.bars (f.rank * 16 + n) = none) →
    (f.exited ||| g.em = allLanes → f.sq.length ≠ f.psets.length → Faults .exit s f g 0x15 0) ∧
      (f.exited ||| g.em ≠ allLanes ∨ f.sq.length = f.psets.length →
        ∃ t f', exec .exit s = .next t ∧ flight? t s.cur.1 = some f' ∧ LanesExit f f' g g.em (g.pc + 8) ∧ f'.s = f.s ∧ f'.v = f.v ∧
          f'.mops = f.mops ∧ f'.pend = f.pend ∧ MemorySame s t ∧ (∀ k, k ≠ s.cur.1 → flight? t k = flight? s k) ∧
          (f.exited ||| g.em = allLanes → f'.frags = []))

/-- 06 R156, R168-R171, 13 R298, R301: NOP, REGN, YIELD, BRKPT, WAIT, FENCE and OPFENCE.
That OPFENCE waits for the counted results of every level is the model's reading (log 46).
Model's choices: log 46. -/
def Obligations.FlightControl : Prop :=
  ∀ (s : State) (f : Flight) (g : Fragment) (a : Opnd) (lim : BitVec 16) (kind : FenceKind) (sc : Scope), Issues s f g →
    Unwatched s f →
    let within : Prop := count f g.level .ld ≤ lim.toNat / 1024 ∧ count f g.level .sld ≤ lim.toNat / 64 % 16 ∧
      count f g.level .sfu ≤ lim.toNat / 4 % 16 ∧ count f g.level .acc ≤ lim.toNat % 4
    OnlyMoves .nop s f g (g.pc + 8) ∧
      GoesOn .regn s g f (g.pc + 8) (fun t f' g' => Entered g g' ∧ NoRegister s t f f' g g' ∧ t = { s with flights := t.flights }) ∧
      GoesOn .yield s g f (g.pc + 8) (fun t f' g' =>
        NoRegister s t f f' g g' ∧ t = { s with flights := t.flights } ∧
          (g'.stopped = true ↔ ∃ x, gangOf s f = some x ∧ x.state = .stopping ∧ x.why = 1 ∧ x.held = false)) ∧
      (MayName f g [(a, 1)] → (f.bp = true → Faults (.brkpt a) s f g 0x21 (srcS (ctxOf s f g) a).toNat) ∧
        (f.bp = false → OnlyMoves (.brkpt a) s f g (g.pc + 8))) ∧
      (within → OnlyMoves (.wait lim) s f g (g.pc + 8)) ∧ (¬ within → ∃ k, Stalls (.wait lim) s f g (.wait k)) ∧
      (openFor f g.owned = true → Stalls (.fence kind sc) s f g .fence) ∧
      (openFor f g.owned = false →
        (kind = .rel ∨ sc = .flight ∨ sc = .block → OnlyMoves (.fence kind sc) s f g (g.pc + 8)) ∧
        (kind ≠ .rel → sc ≠ .flight → sc ≠ .block →
          GoesOn (.fence kind sc) s g f (g.pc + 8) fun t f' g' =>
            NoRegister s t f f' g g' ∧ MemorySame s t ∧ (Machine.core t f.core).lcache = [] ∧
              ∀ k, k ≠ f.core → Machine.core t k = Machine.core s k)) ∧
      ((∀ k, anyCount f k = false) →
        Completes .opfence s f g (g.pc + 8) fun t f' g' => NoRegister s t f f' g g' ∧ f'.dirty = []) ∧
      ((∃ k, anyCount f k = true) → Stalls .opfence s f g .opfence)

/-- 06 R172-R174: the arrival of a flight of one fragment at a block barrier. Until the instance completes, BARW waits and BARA goes
on; the arrival that completes it releases every waiting fragment of the block and resets the barrier; one whose count differs from the
instance's faults, and the flight's record of refused arrivals holds the barrier. That an arrival waits while the
fragment's lanes have an access open is the model's choice (log 13): R174 says only that it is a release at block scope.
Model's choices: log 13, 18, 61. -/
def Obligations.BlockBarriers : Prop :=
  ∀ (s : State) (f : Flight) (g : Fragment) (a b : Opnd) (waits : Bool) (x : Gang), Issues s f g → Unwatched s f →
    MayName f g [(a, 1), (b, 1)] → gangOf s f = some x → f.frags = [g] → g.wait = .run →
    let i : Instr := if waits then .barw a b else .bara a b
    let n := (srcS (ctxOf s f g) a).toNat
    let k := (srcS (ctxOf s f g) b).toNat
    let bar := (mget? x.bars (f.rank * 16 + n)).getD ⟨0, k⟩
    let needed := if k = 0 then (s.flights.filter fun y => y.2.gid = f.gid ∧ y.2.rank = f.rank ∧ y.2.exited ≠ allLanes).length else k
    let done : Prop := if k = 0 then bar.arrived + 1 = needed else needed ≤ bar.arrived + 1
    (15 < n ∨ 16 < k → Faults i s f g 0x11 0) ∧
      (n ≤ 15 → k ≤ 16 → openFor f g.owned = true → Stalls i s f g .order) ∧
      (n ≤ 15 → k ≤ 16 → openFor f g.owned = false → bar.count ≠ k →
        exec i s = .next (fault (ctxOf s { f with refused := n :: f.refused.filter (· != n) } g) 0x11 0)) ∧
      (n ≤ 15 → k ≤ 16 → openFor f g.owned = false → bar.count = k → f.exited ≠ allLanes →
        ∃ t f' g' x', exec i s = .next t ∧ flight? t s.cur.1 = some f' ∧ frag? f' g.num = some g' ∧ gangOf t f = some x' ∧
          f'.s = f.s ∧ f'.v = f.v ∧ MemorySame s t ∧ g'.owned = g.owned ∧ g'.em = g.em ∧
          (∀ j, j ≠ f.rank * 16 + n → mget? x'.bars j = mget? x.bars j) ∧
          (done → g'.pc = g.pc + 8 ∧ g'.wait = .run ∧ mget? x'.bars (f.rank * 16 + n) = none ∧
            ∀ j y h c, j ≠ s.cur.1 → flight? s j = some y → y.gid = f.gid → y.rank = f.rank → y.frags = [h] →
              h.wait = .bar n c true true →
              ∃ y' h', flight? t j = some y' ∧ y'.frags = [h'] ∧ h'.pc = h.pc + 8 ∧ h'.wait = .run) ∧
          (¬ done → mget? x'.bars (f.rank * 16 + n) = some ⟨bar.arrived + 1, k⟩ ∧
            (if waits then g'.pc = g.pc ∧ g'.wait = .bar n k true true else g'.pc = g.pc + 8 ∧ g'.wait = .run) ∧
            ∀ j, j ≠ s.cur.1 → flight? t j = flight? s j))

/-- 06 R175, R176: REGGIVE moves granules from the flight to its block's pool and REGCLAIM takes them back, zeroed; a claim that the
pool cannot serve, or that stands behind a stalled one, waits, and one that only tries writes 0.
That REGGIVE waits for the results of every level is the model's reading (log 46).
Model's choices: log 46. -/
def Obligations.RegisterRedivision : Prop :=
  (∀ (s : State) (f : Flight) (g : Fragment) (d a : Opnd) (x : Gang), Issues s f g → Unwatched s f →
    MayName f g [(d, 1), (a, 1)] → IsScalar d → gangOf s f = some x →
    let n := (srcS (ctxOf s f g) a).toNat
    let key := f.rank * 4 + f.slot
    let pool := mgetD x.pools key 0
    let bad : Prop := ¬(n % 8 = 0 ∧ 8 ≤ n ∧ n ≤ 192)
    let free : Prop := (n - f.vregs) / 8 ≤ pool ∧
      ∀ j y h p q, (j, y) ∈ s.flights → y.gid = f.gid → y.rank = f.rank → y.slot = f.slot → h ∈ y.frags →
        h.wait ≠ .claim p q
    let takes (t : State) (f' : Flight) : Prop :=
      f'.vregs = n ∧ (∃ x', gangOf t f = some x' ∧ x' = { x with pools := mset x.pools key (pool - (n - f.vregs) / 8) }) ∧
        (∀ k, k < f.vregs → mgetD f'.v k [] = mgetD f.v k []) ∧ (∀ k, f.vregs ≤ k → mget? f'.v k = none) ∧ MemorySame s t
    (bad → Faults (.reggive a) s f g 0x12 0 ∧ Faults (.regclaim a) s f g 0x12 0 ∧ Faults (.regclaimTry d a) s f g 0x12 0) ∧
      (¬ bad → f.vregs ≤ n → OnlyMoves (.reggive a) s f g (g.pc + 8)) ∧
      (¬ bad → n < f.vregs → anyCount f .ld = false → anyCount f .sfu = false → anyCount f .acc = false →
        readsRegs s f s.cur.1 = false → GoesOn (.reggive a) s g f (g.pc + 8) fun t f' g' =>
          f'.vregs = n ∧ (∃ x', gangOf t f = some x' ∧ x' = { x with pools := mset x.pools key (pool + (f.vregs - n) / 8) }) ∧
            (∀ k, k < n → mgetD f'.v k [] = mgetD f.v k []) ∧ (∀ k, n ≤ k → mget? f'.v k = none) ∧ ScalarsSame f f' g g' ∧
            MemorySame s t) ∧
      (¬ bad → n ≤ f.vregs → OnlyMoves (.regclaim a) s f g (g.pc + 8) ∧ SetsScalar (.regclaimTry d a) s f g d 1) ∧
      (¬ bad → f.vregs < n → free →
        GoesOn (.regclaim a) s g f (g.pc + 8) (fun t f' g' => takes t f' ∧ ScalarsSame f f' g g') ∧
        GoesOn (.regclaimTry d a) s g f (g.pc + 8) fun t f' g' => takes t f' ∧ ScalarWrite f f' g g' d [1]) ∧
      (¬ bad → f.vregs < n → ¬ free →
        SetsScalar (.regclaimTry d a) s f g d 0 ∧
        ∃ t f' g', exec (.regclaim a) s = .next t ∧ flight? t s.cur.1 = some f' ∧ frag? f' g.num = some g' ∧
          g' = { g with wait := .claim n s.nextId } ∧ f'.vregs = f.vregs ∧ f'.v = f.v ∧ gangOf t f = some x)) ∧
  (∀ (s : State) (fid : Nat) (f : Flight) (g : Fragment) (x : Gang) (n order : Nat), flight? s fid = some f → gangOf s f = some x →
    f.frags = [g] → g.wait = .claim n order → g.halted = false → g.stopped = false → isSaved s f = false →
    frozen s f.pid = false → (∀ y ∈ s.flights, y.1 ≠ fid → ∀ h ∈ y.2.frags, ∀ p q, h.wait ≠ .claim p q) →
    (∀ y ∈ s.flights, y.1 = fid → y.2 = f) → (s.flights.map (·.1)).Nodup → f.vregs < n →
    (n - f.vregs) / 8 ≤ mgetD x.pools (f.rank * 4 + f.slot) 0 →
    ∃ t f' g', exec (.regclaimGrant f.gid f.rank f.slot) s = .next t ∧ flight? t fid = some f' ∧ f'.frags = [g'] ∧
      g' = { g with wait := .run, pc := g.pc + 8 } ∧ f'.vregs = n ∧ f'.s = f.s ∧
      (∀ k, k < f.vregs → mgetD f'.v k [] = mgetD f.v k []) ∧ (∀ k, f.vregs ≤ k → mget? f'.v k = none) ∧ MemorySame s t ∧
      (∃ x', gangOf t f = some x' ∧
        x' = { x with pools := mset x.pools (f.rank * 4 + f.slot) (mgetD x.pools (f.rank * 4 + f.slot) 0 - (n - f.vregs) / 8) }) ∧
      ∀ k, k ≠ fid → flight? t k = flight? s k)

/-! ### Memory instructions (04 R89-R104, 05 R110-R115, 11 R262-R274) -/

/-- 04 R89, 16 R335, 22 R447: the checks of one address in their order: canonical, aligned, the scratch window, a full-empty qualifier
outside it, translation, isolation. No line of host memory may stay in the load cache. That firmware has mapped the doorbell page of each
of the partition's queues at an address of its own, which a load, store or atomic of a flight meets before translation, is the model's form
of the mapping (log 65).
Model's choices: log 65. -/
def Obligations.AddressChecks : Prop :=
  ∀ (s : State) (pid cr : Nat) (sup : Bool) (lp : Option TlbEntry) (ms : MSpec) (va : DWord),
    let k := (checkOne s pid cr sup lp ms va).1
    let canon : Prop := ∀ i, 55 ≤ i → i < 64 → va.getLsbD i = va.getLsbD 63
    let aligned : Prop := va.toNat % ms.align = 0
    let window : Prop := 0x7F00_0000_0000 ≤ va.toNat ∧ va.toNat < 0x7F01_0000_0000
    (¬ canon → k = .trap 1 0x06) ∧ (canon → ¬ aligned → k = .trap 2 0x07) ∧
      (canon → aligned → window → ms.noWin = true ∨ windowKey s pid cr va = none → k = .trap 3 0x08) ∧
      (canon → aligned → window → ms.noWin = false → ∀ a, windowKey s pid cr va = some a → k = .ok a true 0) ∧
      (canon → aligned → ¬ window → ms.inWin = true → k = .trap 4 0x09) ∧
      (canon → aligned → ¬ window → ms.inWin = false → ms.noWin = false → ∀ a, doorKey s pid va = some a → k = .ok a true 0) ∧
      (canon → aligned → ¬ window → ms.inWin = false → ms.noWin = true ∨ doorKey s pid va = none →
        ((translate s pid cr lp sup ms.acc va).1 = .outside → k = .trap 5 0x0A) ∧
        (∀ p, (translate s pid cr lp sup ms.acc va).1 = .page p → k = .page p) ∧
        (∀ e, (translate s pid cr lp sup ms.acc va).1 = .ok e →
          let pa := e.pbase + va.toNat % 2 ^ 56 % 2 ^ e.bits
          if ownsPa s pid pa ∧ ownsPa s pid (pa + ms.size - 1) then k = .ok pa (e.lcx || isHost pa) e.bits
          else k = .trap 5 0x0A))

/-- 04 R100, R102, R103: LD and SLD issue below their counter's limit; each active lane's access, or the fragment's one access, is
outstanding and nothing is written yet. When a lane's access is performed and lands, its group holds the bytes of memory,
zero-extended, and no other lane, register or byte changes; its parts of eight bytes may be read one by one, and its registers written one
by one.
Model's choices: log 3, 13. -/
def Obligations.Loads : Prop :=
  (∀ (s : State) (f : Flight) (g : Fragment) (wd : Width) (sc : Scope) (fe : Fe) (nt : Bool) (d : Opnd) (m : MAddr) (i : Instr)
      (ks : List (Tgt × Chk)) (f1 : Flight) (s1 : State), Issues s f g → Unwatched s f →
    MayName f g [(d, wd.regs), addrGroup m] → fe = .none ∨ fe = .sf →
    (i = .ld wd sc fe nt d m ∧ g.em ≠ 0 ∧ count f g.level .ld < 63) ∨
      (i = .sld wd sc fe nt d m ∧ count f g.level .sld < 15) →
    Reaches i s f g ks f1 s1 →
    CompletesIn i s f g { spoilSums s1 f.pid i ks with nextId := s.nextId + 1 } f1 (g.pc + 8) fun t f' g' =>
      g'.em = g.em ∧ f'.s = f.s ∧ VectorsSame s t f f' ∧ BanksSame f f' ∧ f'.pend = f.pend ∧
        ∃ o, f'.mops = f.mops ++ [o] ∧ o.id = s.nextId ∧ o.instr = i ∧ o.frag = g.num ∧ o.level = g.level ∧
          o.lanes.map (fun l => (l.lane, l.va, l.pa, l.st)) = ks.map fun x => (x.1.lane, x.1.va, x.2.at, .todo)) ∧
  (∀ (s : State) (fid op lane : Nat) (f : Flight) (o : Mop) (l : LaneOp) (d n : Nat) (data : List Word),
    flight? s fid = some f → moving s f → mop? f op = some o → o.late = false → (∀ x ∈ o.lanes, x.st ≠ .failed) →
    o.lanes.find? (fun x => x.lane = lane) = some l → lane < 96 → (∃ dst, memDst o.instr = some (.v dst, n) ∧ dst.val = d) →
    d + n ≤ 192 → (∀ k, asyncLanes f k = 0) → NoEarly f → (∃ dst, memDst o.instr = some (dst, n) ∧
      NoDest (f.mops.filter fun p => p.id ≠ op) f.pend dst n) →
    (l.st = .read ∧ (overlapsBase o.instr → ∀ x ∈ o.lanes, x.st.waiting = false) ∧ data = l.data) ∨
      (l.st = .todo ∧ isDoor l.pa = false ∧ mayPerform f o l = true ∧ overlapsBase o.instr = false ∧
        poisonedIn s l.pa (mspec o.instr).size = false ∧ (Machine.core s f.core).lcache = [] ∧
        data = (List.range n).map fun k =>
          if k / 2 ∈ l.parts then l.data.getD k 0 else w32 (readNat s (l.pa + 4 * k) (min 4 (mspec o.instr).size))) →
    ∃ t f', exec (.loadResultWrite fid op lane) s = .next t ∧ flight? t fid = some f' ∧
      (∀ k, k < n → getV t f' (d + k) lane = data.getD k 0) ∧
      (∀ k j, j < 96 → ¬(j = lane ∧ d ≤ k ∧ k < d + n) → getV t f' k j = getV s f k j) ∧
      f'.s = f.s ∧ BanksSame f f' ∧ f'.frags = f.frags ∧ MemorySame s t ∧ ∀ k, k ≠ fid → flight? t k = flight? s k) ∧
  (∀ (s : State) (fid op : Nat) (f : Flight) (g : Fragment) (o : Mop) (l : LaneOp) (d : Opnd) (n : Nat) (data : List Word),
    flight? s fid = some f → moving s f → mop? f op = some o → o.late = false → (∀ x ∈ o.lanes, x.st ≠ .failed) →
    o.lanes.find? (fun x => x.lane = 96) = some l → memDst o.instr = some (d, n) → IsScalar d → d.idx + n ≤ d.cls.size →
    NoEarly f → NoDest (f.mops.filter fun p => p.id ≠ op) f.pend d n → frag? f o.frag = some g → o.level % 10 = g.level →
    data.length = n →
    (l.st = .read ∧ (overlapsBase o.instr → ∀ x ∈ o.lanes, x.st.waiting = false) ∧ data = l.data) ∨
      (l.st = .todo ∧ isDoor l.pa = false ∧ mayPerform f o l = true ∧ overlapsBase o.instr = false ∧
        poisonedIn s l.pa (mspec o.instr).size = false ∧ (Machine.core s f.core).lcache = [] ∧
        data = (List.range n).map fun k =>
          if k / 2 ∈ l.parts then l.data.getD k 0 else w32 (readNat s (l.pa + 4 * k) (min 4 (mspec o.instr).size))) →
    ∃ t f' g', exec (.loadResultWrite fid op 96) s = .next t ∧ flight? t fid = some f' ∧ frag? f' g.num = some g' ∧
      ScalarWrite f f' g g' d data ∧ g' = { g with em := g'.em } ∧ Siblings f f' g ∧ f'.v = f.v ∧ f'.lflags = f.lflags ∧
      MemorySame s t ∧ ∀ k, k ≠ fid → flight? t k = flight? s k) ∧
  (∀ (s : State) (fid op lane p : Nat) (f : Flight) (o : Mop) (l : LaneOp) (wd : Width), flight? s fid = some f → moving s f →
    mop? f op = some o → (∃ sc nt d m, o.instr = .ld wd sc .none nt d m ∨ o.instr = .sld wd sc .none nt d m) →
    o.lanes.find? (fun x => x.lane = lane) = some l → (∀ x ∈ o.lanes, x.lane = lane → x = l) → l.st = .todo →
    isDoor l.pa = false → 8 * p < wd.bytes → p ∉ l.parts → mayPerform f o l = true →
    poisonedIn s (l.pa + 8 * p) (min 8 wd.bytes) = false → (Machine.core s f.core).lcache = [] →
    ∃ t f' o' l', otherDoes (.part fid op lane 0 p) s = .next t ∧ flight? t fid = some f' ∧ mop? f' op = some o' ∧
      o'.lanes.find? (fun x => x.lane = lane) = some l' ∧ l' = { l with data := l'.data, parts := p :: l.parts } ∧
      (∀ k, k < wd.regs → l'.data.getD k 0 =
        if k / 2 = p then w32 (readNat s (l.pa + 4 * k) (min 4 wd.bytes)) else l.data.getD k 0) ∧
      MemorySame s t ∧ f'.s = f.s ∧ f'.v = f.v ∧ f'.frags = f.frags) ∧
  (∀ (s : State) (fid op lane reg n : Nat) (f : Flight) (o : Mop) (l : LaneOp) (dst : Fin 192), flight? s fid = some f → moving s f →
    mop? f op = some o → o.lanes.find? (fun x => x.lane = lane) = some l → lane < 96 → memDst o.instr = some (.v dst, n) → reg < n →
    dst.val + n ≤ 192 → hasRead o l = true → overlapsBase o.instr = false → (∀ k, asyncLanes f k = 0) → NoEarly f →
    NoDest (f.mops.filter fun p => p.id ≠ op) f.pend (.v dst) n →
    ∃ t f', otherDoes (.land fid op reg lane) s = .next t ∧ flight? t fid = some f' ∧
      (∀ k j, j < 96 → getV t f' k j = if k = dst.val + reg ∧ j = lane then l.data.getD reg 0 else getV s f k j) ∧ f'.s = f.s ∧
      BanksSame f f' ∧ f'.frags = f.frags ∧ MemorySame s t)

/-- 04 R100, R102, 11 R279-R283: ST and SST read their data at issue; a lane's store, with its images, is then performed, but for the parts of
eight bytes that already were, and no byte outside the addresses stored to changes.
Model's choices: log 13. -/
def Obligations.Stores : Prop :=
  (∀ (s : State) (f : Flight) (g : Fragment) (wd : Width) (sc : Scope) (sf img nt : Bool) (d : Opnd) (m : MAddr) (i : Instr)
      (ks : List (Tgt × Chk)) (f1 : Flight) (s1 : State), Issues s f g → Unwatched s f →
    MayName f g [(d, wd.regs), addrGroup m] →
    (i = .st wd sc sf img nt d m ∧ g.em ≠ 0 ∧ (img → mapDeclared s f (imgMap m))) ∨ i = .sst wd sc sf nt d m →
    Reaches i s f g ks f1 s1 →
    CompletesIn i s f g
      { spoilSums (markAntisym ⟨s1, f1, g, Obs.none⟩ i g.em.list) f.pid i ks with nextId := s.nextId + 1 } f1 (g.pc + 8) fun t f' g' =>
      g'.em = g.em ∧ f'.s = f.s ∧ VectorsSame s t f f' ∧ BanksSame f f' ∧ f'.pend = f.pend ∧
        ∃ o, f'.mops = f.mops ++ [o] ∧ o.id = s.nextId ∧ o.instr = i ∧ o.frag = g.num ∧ o.level = g.level ∧
          o.lanes.map (fun l => (l.lane, l.va, l.pa, l.data, l.st)) =
            ks.map fun x => (x.1.lane, x.1.va, x.2.at, operandOf s f g i x.1, .todo)) ∧
  (∀ (s : State) (fid op lane : Nat) (f : Flight) (o : Mop) (wd : Width) (sf : Bool), flight? s fid = some f →
    mop? f op = some o → o.late = false → (∀ x ∈ o.lanes, x.st ≠ .failed) →
    (∃ sc img nt d m, o.instr = .st wd sc sf img nt d m) ∨ (∃ sc nt d m, o.instr = .sst wd sc sf nt d m) →
    let mine := o.lanes.filter fun l => l.lane = lane
    mine ≠ [] → NoEarly f → (∀ l ∈ mine, l.st = .todo ∧ isDoor l.pa = false ∧ mayPerform f o l = true ∧ l.data.length = wd.regs ∧
      Unraced s l.pa wd.bytes ∧ (wd.bytes = 32 ∨ poisonedIn s l.pa wd.bytes = false)) →
    ∃ t f', exec (.storePerformed fid op lane) s = .next t ∧ flight? t fid = some f' ∧
      MemorySame (writeAll s (mine.map fun l => ((List.range ((wd.bytes + 7) / 8)).filter (· ∉ l.parts)).map fun p =>
        (l.pa + 8 * p, ((bytesOfWords wd.bytes l.data).drop (8 * p)).take 8)).flatten) t ∧
      (∀ a, (∀ l ∈ mine, a < l.pa ∨ l.pa + wd.bytes ≤ a) → readByte t a = readByte s a) ∧
      (∀ a, isFull t a = (isFull s a || (sf && mine.any fun l => l.pa / 16 = a / 16))) ∧
      f'.s = f.s ∧ f'.v = f.v ∧ BanksSame f f' ∧ f'.frags = f.frags ∧ ∀ k, k ≠ fid → flight? t k = flight? s k)

/-- 05 R110-R115, 04 R104, 11 R284: FEST and FEQ act on granules and on no byte; a load with wf or wfc waits for its granules, reads
a full one, and wfc empties it; PF changes nothing that a program can see; IMGQ writes an image's address and its status.
Model's choices: log 13. -/
def Obligations.FullEmptyAndImages : Prop :=
  (∀ (s : State) (f : Flight) (g : Fragment) (sc : Scope) (full : Bool) (d : Fin 24) (m : MAddr) (i : Instr)
      (ks : List (Tgt × Chk)) (f1 : Flight) (s1 : State), Issues s f g → Unwatched s f → MayName f g [addrGroup m] →
    openFor f g.em = false → s.burst = none → NoEarly f → Reaches i s f g ks f1 s1 →
    (i = .fest sc full m → GoesOn i s g f (g.pc + 8) fun t f' g' =>
      g'.em = g.em ∧ f'.s = f.s ∧ f'.v = f.v ∧ BanksSame f f' ∧ MemorySame s t ∧
        ∀ a, isFull t a = if ks.any fun x => x.2.at / 16 = a / 16 then full else isFull s a) ∧
    (i = .feq sc d m → NoDest f.mops f.pend (.s ⟨4 * d.val, by omega⟩) 3 → GoesOn i s g f (g.pc + 8) fun t f' g' =>
      (∃ z : Lanes, (∀ l, l < 96 → z.getLsbD l = ks.any fun x => x.1.lane = l ∧ isFull s x.2.at) ∧
        getMask f' g' d = if d.val = 22 then z &&& g.owned else z) ∧
        (∀ k, k / 4 ≠ d.val ∨ k % 4 = 3 → getS f' g' k = getS f g k) ∧ f'.v = f.v ∧ BanksSame f f' ∧ MemorySame s t ∧
        GranulesSame s t)) ∧
  (∀ (s : State) (f : Flight) (g : Fragment) (wd : Width) (sc : Scope) (fe : Fe) (nt : Bool) (d : Opnd) (m : MAddr) (i : Instr)
      (ks : List (Tgt × Chk)) (f1 : Flight) (s1 : State), Issues s f g → Unwatched s f →
    MayName f g [(d, wd.regs), addrGroup m] → fe = .wf ∨ fe = .wfc →
    (i = .ld wd sc fe nt d m ∧ g.em ≠ 0 ∧ count f g.level .ld < 63) ∨
      (i = .sld wd sc fe nt d m ∧ count f g.level .sld < 15) →
    Reaches i s f g ks f1 s1 → (∀ x ∈ ks, isFull s x.2.at = false) →
    ∃ t f' g', exec i s = .next t ∧ flight? t s.cur.1 = some f' ∧ frag? f' g.num = some g' ∧
      g' = { g with wait := .feWait s.nextId } ∧ Siblings f f' g ∧ f'.s = f.s ∧ f'.v = f.v ∧ MemorySame s t ∧ GranulesSame s t ∧
        ∃ o, f'.mops = f.mops ++ [o] ∧ o.id = s.nextId ∧ o.instr = i ∧
          o.lanes.map (fun l => (l.lane, l.va, l.pa, l.st)) = ks.map fun x => (x.1.lane, x.1.va, x.2.at, .feWait)) ∧
  (∀ (s : State) (fid op lane n : Nat) (f : Flight) (g : Fragment) (o : Mop) (l : LaneOp) (d : Opnd), flight? s fid = some f →
    moving s f → Unwatched s f → mop? f op = some o → frag? f o.frag = some g → g.wait = .feWait op → g.halted = false →
    g.stopped = false → memDst o.instr = some (d, n) → o.lanes.find? (fun x => x.lane = lane) = some l → l.st = .feWait →
    isFull s l.pa = true → clearOf (earlier f op) o l = true → (∀ x ∈ o.lanes, ∀ k, x.st ≠ .parked k) →
    (∀ x ∈ o.lanes, x.lane = lane → x = l) →
    (∀ x ∈ o.lanes, x.pa / 16 = l.pa / 16 ∨ touch x.pa (mspec o.instr).size l.pa (mspec o.instr).size →
      x = l ∨ x.st ≠ .feWait) → o.watch = [] → l.parts = [] → isDoor l.pa = false →
    poisonedIn s l.pa (mspec o.instr).size = false → (Machine.core s f.core).lcache = [] →
    ∃ t f' o' g', exec (.feWaitSatisfied fid op lane) s = .next t ∧ flight? t fid = some f' ∧ mop? f' op = some o' ∧
      frag? f' o.frag = some g' ∧
      (∀ x ∈ o'.lanes, x.lane = lane → x.st = .read ∧
        x.data = (List.range n).map fun k => w32 (readNat s (l.pa + 4 * k) (min 4 (mspec o.instr).size))) ∧
      (∀ a, isFull t a = (isFull s a && !(clears o.instr && l.pa / 16 = a / 16))) ∧ MemorySame s t ∧ f'.s = f.s ∧ f'.v = f.v ∧
      if o.lanes.any fun x => x.lane != lane && x.st = .feWait then g' = g else g'.pc = g.pc + 8 ∧ g'.wait = .run) ∧
  (∀ (s : State) (f : Flight) (g : Fragment) (nt : Bool) (m : MAddr), Issues s f g → Unwatched s f → MayName f g [addrGroup m] →
    GoesOn (.pf nt m) s g f (g.pc + 8) fun t f' g' =>
      NoRegister s t f f' g g' ∧ MemorySame s t ∧ GranulesSame s t ∧ t.parts = s.parts ∧ t.outbox = s.outbox) ∧
  (∀ (s : State) (f : Flight) (g : Fragment) (j : Fin 4) (d a b : Opnd), Issues s f g → Unwatched s f →
    MayName f g [(d, 4), (a, 2), (b, 1)] → IsVector d → d.idx + 4 ≤ d.cls.size → Unread f d 4 → mapDeclared s f j.val = true →
    let c := ctxOf s f g
    let ext := (symOf s f).1
    let es := (symOf s f).2
    SetsVector (.imgq j d a b) s f g d 4
      (fun k l =>
        let n := (src32 c b l).toNat
        let x := pointOf f l
        let y := if hasPoint f l ∧ n < es.length then (es.getD n (Elem.id ext)).apply ext x else x
        let addr := mapAddr s f j.val (dw (src c .u64 a l)) y
        match k with
        | 0 => loWord addr
        | 1 => hiWord addr
        | 2 => wrap ((if hasPoint f l then (if (images ext es x).any fun i => i.1 = n then 1 else 0) +
            (if n < es.length ∧ (es.getD n (Elem.id ext)).neg then 2 else 0) + (if antiFixed ext es x then 4 else 0) else 0) +
            es.length * 256)
        | _ => 0) fun _ => 0)

/-- 11 R262-R265: the atomics of one word or pair. The active lanes are performed in ascending order, each lane's images after it;
every one reads the number that the one before left; the old number of a lane's own address goes to its register group, and the
fragment enters a new region.
Model's choices: log 13. -/
def Obligations.Atomics : Prop :=
  ∀ (s : State) (f : Flight) (g : Fragment) (t : AType) (sc : Scope) (img nt : Bool) (d : Opnd) (m : MAddr) (i : Instr)
    (new : Nat → Nat → Nat → Nat) (n : Nat) (dst : Fin 192) (ks : List (Tgt × Chk)) (f1 : Flight) (s1 : State),
    Issues s f g → Unwatched s f → MayName f g [(d, n), addrGroup m] → d = .v dst →
    (let size := 2 ^ (8 * t.bytes)
     let signed (x : Nat) : Int := if (t = .s32 ∨ t = .s64) ∧ size ≤ 2 * x then x - size else x
     n = t.regs ∧
      ((i = .aadd t sc img nt d m ∧ t ≠ .f32 ∧ new = fun x v _ => (x + v) % size) ∨
       (i = .aadd t sc img nt d m ∧ t = .f32 ∧ new = fun x v _ => (add32 (w32 x) (w32 v)).1.toNat) ∨
       (i = .aand t sc img nt d m ∧ new = fun x v _ => x &&& v) ∨ (i = .aor t sc img nt d m ∧ new = fun x v _ => x ||| v) ∨
       (i = .axor t sc img nt d m ∧ new = fun x v _ => x ^^^ v) ∨
       (i = .amin t sc img nt d m ∧ t ≠ .f32 ∧ new = fun x v _ => if signed v < signed x then v else x) ∨
       (i = .amax t sc img nt d m ∧ t ≠ .f32 ∧ new = fun x v _ => if signed x < signed v then v else x) ∨
       (i = .amin t sc img nt d m ∧ t = .f32 ∧ new = fun x v _ => fMinMax f32 false x v) ∨
       (i = .amax t sc img nt d m ∧ t = .f32 ∧ new = fun x v _ => fMinMax f32 true x v) ∨
       (i = .axchg t sc img nt d m ∧ new = fun _ v _ => v)) ∨
     (n = 2 * t.regs ∧ img = false ∧ i = .acas t sc nt d m ∧ new = fun x v k => if x = k then v else x) ∨
     (n = 1 ∧ t = .u32 ∧ img = false ∧ i = .aincb sc nt d m ∧ new = fun x v _ => if x < v then x + 1 else x)) →
    (img → mapDeclared s f (imgMap m)) → openFor f g.em = false → Unread f d t.regs → s.burst = none → NoEarly f →
    NoDest f.mops f.pend d t.regs → Reaches i s f g ks f1 s1 →
    (∀ x ∈ ks, isDoor x.2.at = false ∧ poisonedIn s x.2.at t.bytes = false ∧ Unraced s x.2.at t.bytes) →
    let num (ws : List Word) (k : Nat) : Nat :=
      (ws.getD k 0).toNat + (if t.regs = 2 then (ws.getD (k + 1) 0).toNat * 2 ^ 32 else 0)
    let acts := ks.map fun x =>
      let ws := operandOf s f g i x.1
      (x.2.at, fun old => if n = 2 * t.regs then new old (num ws t.regs) (num ws 0) else new old (num ws 0) 0)
    GoesOn i s g f (g.pc + 8) fun u f' g' =>
      g'.em = g.em ∧ f'.s = f.s ∧ BanksSame f f' ∧ Entered g g' ∧ GranulesSame s u ∧ MemorySame (updateAll s t.bytes acts) u ∧
        (∀ j x, ks[j]? = some x → (∀ y ∈ ks.take j, y.1.lane ≠ x.1.lane) → ∀ k, k < t.regs →
          getV u f' (dst.val + k) x.1.lane = wordOf (readNat (updateAll s t.bytes (acts.take j)) x.2.at t.bytes) k) ∧
        ∀ k l, l < 96 → asyncLanes f k = 0 → ¬(dst.val ≤ k ∧ k < dst.val + t.regs ∧ g.em.getLsbD l) → getV u f' k l = getV s f k l

/-- 11 R266-R274: AADD.ord enters a contribution for each lane and changes no byte; ASEAL adds a word's pending contributions to it in
the order of their keys; DEPDEC decrements a count that is not 0, and the lane that reads 1 sends the successor's packet.
Model's choices: log 13, 39. -/
def Obligations.OrderedSumsAndCounters : Prop :=
  ∀ (s : State) (f : Flight) (g : Fragment) (sc : Scope) (img nt : Bool) (d : Opnd) (dst : Fin 192) (m : MAddr) (i : Instr)
    (ks : List (Tgt × Chk)) (f1 : Flight) (s1 : State) (l : Launch) (x : Gang), Issues s f g → Unwatched s f →
    MayName f g [(d, 1), addrGroup m] → d = .v dst → openFor f g.em = false → s.burst = none → NoEarly f →
    NoDest f.mops f.pend d 1 → Reaches i s f g ks f1 s1 →
    launchOf s f = some l → gangOf s f = some x → (∀ k ∈ ks, poisonedIn s k.2.at 128 = false ∧ Unraced s k.2.at 4) →
    (∀ y ∈ s.launches, ∀ k ∈ ks, inReservation y.2 k.1.va (mspec i).size = false) →
    (∀ j ∈ ks, ∀ k ∈ ks, j.2.at = k.2.at ∨ j.2.at + 4 ≤ k.2.at ∨ k.2.at + 4 ≤ j.2.at) →
    (i = .aaddOrd sc img nt d m → (img → mapDeclared s f (imgMap m)) → (placesFor s f (ks.map fun k => k.2.at)).isSome →
      GoesOn i s g f (g.pc + 8) fun t f' g' =>
        g'.em = g.em ∧ f'.s = f.s ∧ f'.v = f.v ∧ BanksSame f f' ∧ Entered g g' ∧ MemorySame s t ∧
          (∀ k, k < 96 → rowAt f'.lseq k = rowAt f.lseq k + (if g.em.getLsbD k then 1 else 0)) ∧
          ∃ l' cs, launchOf t f' = some l' ∧ l'.contribs = l.contribs ++ cs ∧
            cs.map (fun c => (c.gang, c.rank, c.blane, c.lseq, c.pa, c.val)) =
              (ks.map fun k => (x.num, f.rank, f.idx * 96 + k.1.lane, (rowAt f.lseq k.1.lane).toNat, k.2.at,
                (operandOf s f g i k.1).getD 0 0)) ∧
            (img = false → ∀ c ∈ cs, c.img = 0)) ∧
    (i = .aseal sc m → (∀ c ∈ l.contribs, c.lost = false) → GoesOn i s g f (g.pc + 8) fun t f' g' =>
      g'.em = g.em ∧ f'.s = f.s ∧ f'.v = f.v ∧ BanksSame f f' ∧ Entered g g' ∧
        (∀ k ∈ ks, readNat t k.2.at 4 =
          ((sortBy Contrib.key (l.contribs.filter fun c => c.pa == k.2.at)).foldl (fun y c => (add32 y c.val).1)
            (w32 (readNat s k.2.at 4))).toNat) ∧
        (∀ a, (∀ k ∈ ks, a < k.2.at ∨ k.2.at + 4 ≤ a) → readByte t a = readByte s a) ∧
        ∃ l', launchOf t f' = some l' ∧ l'.contribs = l.contribs.filter fun c => !(ks.any fun k => k.2.at = c.pa)) ∧
    (i = .depdec sc d m → Unread f d 1 →
      let acts := ks.map fun k => (k.2.at, fun old : Nat => old - 1)
      GoesOn i s g f (g.pc + 8) fun t f' g' =>
        g'.em = g.em ∧ f'.s = f.s ∧ BanksSame f f' ∧ Entered g g' ∧ MemorySame (updateAll s 4 acts) t ∧
          (∀ j k, ks[j]? = some k → getV t f' dst.val k.1.lane = wrap (readNat (updateAll s 4 (acts.take j)) k.2.at 4)) ∧
          ∀ k, ks = [k] → ∀ p : PacketMsg, .packet p ∈ t.outbox ↔ .packet p ∈ s.outbox ∨
            (readNat s k.2.at 4 = 1 ∧ p.handle = dw (readNat s (k.2.at + 8) 8) ∧ p.bytes = readBytes s (k.2.at + 64) 64 ∧
              p.outside = false ∧ p.spid = f.pid ∧ p.squeue = l.errQueue.getD 0xFFFF ∧
              p.sgen = l.errQueue.elim 0 (fun q => mgetD s.qgen q 0) ∧ p.slaunch = f.launch ∧ p.pc = g.pc ∧
              p.seq = f.seqNo ∧ p.graph = none))

/-! ### Exceptions and the supervisor (19 R384-R414) -/

/-- 19 R390: taking an exception. The trap registers of the new level hold the cause, the PCs, the lanes and the address; the
fragment goes to TVEC; with TVEC 0 KILL.fault of its lanes takes place instead. -/
def Obligations.TrapEntry : Prop :=
  ∀ (s : State) (fid : Nat) (f : Flight) (g : Fragment) (fi : FaultInfo) (more : Bool), flight? s fid = some f →
    frag? f g.num = some g → Unwatched s f → MayTrap f g → fi.origin < 4 →
    let t := takeTrap s fid g.num fi more
    (g.level = 0 → f.tvec = 0 → t = killReport s fid f g g.owned (some (fi.code, fi.detail, fi.pc)) (causeWord fi more)) ∧
      ((g.level = 0 → f.tvec ≠ 0) → ∃ f', flight? t fid = some f' ∧ t = { s with flights := t.flights } ∧
        (∀ k, k ≠ fid → flight? t k = flight? s k) ∧ Siblings f f' g ∧ MemorySame s t ∧
        frag? f' g.num = some { g with level := g.level + 1, pc := f.tvec, region := 0, rpc := f.tvec, rmask := g.em, wait := .run,
                                       run := 0, skip := false } ∧
        let b := bank f' (g.level + 1)
        let o := bank f (g.level + 1)
        b.cause.toNat = fi.code % 256 + fi.detail % 256 * 2 ^ 8 + fi.origin * 2 ^ 20 + (if more then 2 ^ 24 else 0) ∧
          b.pc = fi.pc ∧ b.mask = fi.mask.getD g.em ∧ b.addr = fi.addr ∧ b.cpc = fi.cpc ∧ b.seq = fi.seq ∧ b.em = g.em ∧
          b.region = g.region ∧ b.rpc = g.rpc ∧ b.skip = g.skip ∧ b.te = false ∧ b.ss = o.ss ∧ b.vt = o.vt ∧
          privReg t f' (g.level + 1) 0x15 = countsWord f g.level ∧ (∀ k, count f' (g.level + 1) k = 0) ∧
          (if g.level = 1 then f'.t1 = f.t1 else f'.t2 = f.t2) ∧ f'.s = f.s ∧ f'.v = f.v ∧ f'.lflags = f.lflags)

/-- 19 R399, R400, R396, R397, 02 R34, R38: a fault where no trap may be taken asserts the job's freeze line, notifies firmware and leaves
the first cause in the trap registers of level 2; and what raises an exception: TRAP, an unassigned opcode, a PC that is misaligned or
not canonical, the oldest asynchronous fault, and a pending timer trap.
Model's choices: log 20, 58. -/
def Obligations.TrapSources : Prop :=
  (∀ (s : State) (fid : Nat) (f : Flight) (g : Fragment) (fi : FaultInfo) (more : Bool) (p : Part), flight? s fid = some f →
      frag? f g.num = some g → part? s f.pid = some p → g.level = 2 ∨ (g.level = 1 ∧ f.t1.te = false) →
      let t := takeTrap s fid g.num fi more
      ∃ f' p', flight? t fid = some f' ∧ part? t f.pid = some p' ∧ Siblings f f' g ∧
        p' = { p with freeze := if p.freeze = .clear then .asserted s.cycle else p.freeze } ∧
        t.outbox = s.outbox ++ [.firmware f.pid 0x30] ∧ frag? f' g.num = some { g with wait := .gone } ∧
        f' = { f with frags := f'.frags, dblFlt := some fi.code
                      t2 := { bank f g.level with te := f.t2.te, ss := f.t2.ss, vt := f.t2.vt } } ∧ MemorySame s t ∧
        ∀ k, k ≠ fid → flight? t k = flight? s k) ∧
  (∀ (s : State) (f : Flight) (g : Fragment) (a : Opnd) (w : DWord), Issues s f g →
      let takes (i : Instr) (u : State) (fi : FaultInfo) : Prop := exec i s = .next (takeTrap u s.cur.1 g.num fi f.afMore)
      let free : Prop := g.level = 0 ∧ g.halted = false ∧ g.stopped = false ∧ g.wait = .run ∧ isSaved s f = false ∧
        frozen s f.pid = false ∧ f.frags = [g]
      (MayName f g [(a, 1)] → Faults (.trap a) s f g 0x20 ((srcS (ctxOf s f g) a).toNat % 256)) ∧
        Faults (.illegalWord w) s f g 0x01 1 ∧
        (g.pc.toNat % 8 ≠ 0 → takes .instructionFetchFault s ⟨0x02, 0, 0, g.pc, none, g.pc, 0, 0, none⟩) ∧
        (g.pc.toNat % 8 = 0 → canonical g.pc = false → takes .instructionFetchFault s ⟨0x03, 0, 0, g.pc, none, g.pc, 0, 0, none⟩) ∧
        (free → ∀ x r, f.afq = x :: r → takes .asyncFaultTaken (modFlight s s.cur.1 fun f => { f with afq := r })
          ⟨x.code, x.detail, 2, g.pc, if x.mask = 0 then none else some x.mask, x.addr, x.pc, x.seq, none⟩) ∧
        (free → f.timer = true → f.tvec ≠ 0 → takes .timerTrapTaken (modFlight s s.cur.1 fun f => { f with timer := false })
          ⟨0x23, 0, 3, g.pc, none, 0, 0, 0, none⟩))

/-- 19 R402: TRET returns to the level below: to the faulting instruction, after it (or to it where the trap was asynchronous or the
timer's), or to the restart PC with the restart mask. A retry of a partial fault performs the kept accesses of the lanes of TMASK, or issues
the instruction at its kept address again. That a region return enters the restart PC with the interrupted context's restart mask is a
reading of the spec by inference (log 51).
Model's choices: log 37, 51. -/
def Obligations.TrapReturn : Prop :=
  ∀ (s : State) (f : Flight) (g : Fragment), Issues s f g → Unwatched s f → g.level = 1 ∨ g.level = 2 →
    let b := bank f g.level
    let origin := b.cause.toNat / 2 ^ 20 % 16
    let comesBack (i : Instr) (pc : DWord) (em : Lanes) (w : Wait) : Prop :=
      ∃ t f' g', exec i s = .next t ∧ flight? t s.cur.1 = some f' ∧ frag? f' g.num = some g' ∧ Outside s t ∧ Siblings f f' g ∧
        g'.pc = pc ∧ g'.em = em &&& g.owned ∧ g'.level = g.level - 1 ∧ g'.region = b.region ∧ g'.rpc = b.rpc ∧
        g'.rmask = b.rmask &&& g.owned ∧ g'.owned = g.owned ∧ g'.wait = w ∧ f'.s = f.s ∧ f'.v = f.v ∧ f'.lflags = f.lflags ∧
        (bank f' g.level).ss = b.ss ∧ (bank f' g.level).vt = b.vt
    let returns (i : Instr) (pc : DWord) (em : Lanes) : Prop := comesBack i pc em .run
    (origin ≠ 1 → returns .tretRetry b.pc b.em) ∧
      returns .tretSkip (if origin = 2 ∨ origin = 3 then b.pc else b.pc + 8) b.em ∧
      returns .tretRegion b.rpc b.rmask ∧
      (origin = 1 → ∀ va, b.kept = some (.packet va) → comesBack .tretRetry b.pc b.em (.redo va)) ∧
      (origin = 1 → ∀ i ls, b.kept = some (.access i ls) → ls ≠ [] →
        ∃ c : Ctx, exec .tretRetry s = .next (resumeKept c i ls b.mask) ∧ c.st = s ∧ c.g.pc = b.pc ∧ c.g.em = b.em &&& g.owned ∧
          c.g.level = g.level - 1 ∧ c.g.region = b.region ∧ c.g.rpc = b.rpc ∧ c.f.s = f.s ∧ c.f.v = f.v)

/-- 02 R21, R23, 19 R393, R394, R401: at level 0 every privileged instruction, and one of the forms listed that names a register of a trap
bank, is illegal with detail 6; in those forms a vector register at or above the allocation is the register-bound fault. SMOVP reads every
register of the table, of the fragment's own level; SMOVQ writes one, which then reads as written, and no other privileged register
changes. Reserved numbers, read-only numbers and reserved bits are illegal with detail 5. That PF, of which 04 R104 says that it raises no
fault, is among the forms with the register-bound fault is the model's choice (log 62).
Model's choices: log 51, 62. -/
def Obligations.Privilege : Prop :=
  ((∀ (s : State) (f : Flight) (g : Fragment) (i : Instr) (d a b x : Opnd) (m : Fin 24) (n : BitVec 8), Issues s f g →
      g.level = 0 →
      i ∈ [.tretRetry, .tretSkip, .tretRegion, .kill m, .killFault m, .smovp d n, .smovq n a, .invlp a, .invlpAll, .invlpIcache, .frz,
        .frzSnap, .dbgrd d a b, .dbgwr d a b x, .dstep d a, .dstepIsolate d a b, .accsv d a, .accld d a] →
      Faults i s f g 0x01 6) ∧
    (∀ (s : State) (f : Flight) (g : Fragment) (t : Ty) (d a b x : Opnd) (q : Cond) (fq : FCond) (cc : Cc) (rm : Rm) (mode : ShMode)
        (op : RedOp) (excl : Bool) (m : Fin 24) (tok : Fin 16) (n : BitVec 8) (v : Word) (imm : BitVec 25) (wd : Width) (sc : Scope)
        (fe : Fe) (at' : AType) (sf img nt : Bool) (ma : MAddr) (p : Instr × List (Opnd × Nat)), Issues s f g →
      p ∈ [(.sadd t d a b, [(d, 1), (a, 1), (b, 1)]), (.ssub t d a b, [(d, 1), (a, 1), (b, 1)]),
        (.saddI d a imm, [(d, 1), (a, 1)]), (.saddi d a v, [(d, 1), (a, 1)]), (.ssel t d a b x, [(d, 1), (a, 1), (b, 1), (x, 1)]),
        (.sadd64 t d a b, [(d, 2), (a, 2), (b, 2)]), (.smovi d v, [(d, 1)]), (.smovs d n, [(d, 1)]), (.smovw n a, [(a, 1)]),
        (.mlane m a, [(a, 1)]), (.mpopc d m, [(d, 1)]),
        (.vadd t d a b, [(d, 1), (a, 1), (b, 1)]), (.vmul t d a b, [(d, 1), (a, 1), (b, 1)]), (.vaddI d a imm, [(d, 1), (a, 1)]),
        (.vmad t d a b x, [(d, 1), (a, 1), (b, 1), (x, 1)]), (.vmov t d a, [(d, t.regs), (a, t.regs)]),
        (.vadd64 t d a b, [(d, 2), (a, 2), (b, 2)]), (.vshfl t mode d a b, [(d, t.regs), (a, t.regs), (b, 1)]),
        (.vbcast t d a b, [(d, t.regs), (a, t.regs), (b, 1)]), (.vredu t op d a, [(d, t.regs), (a, t.regs)]),
        (.vscan t op excl d a, [(d, t.regs), (a, t.regs)]), (.vcmp t q d a b, [(d, 1), (a, 1), (b, 1)]),
        (.vfadd t rm d a b, [(d, t.regs), (a, t.regs), (b, t.regs)]), (.vfmul t rm d a b, [(d, t.regs), (a, t.regs), (b, t.regs)]),
        (.vfma t rm d a b x, [(d, t.regs), (a, t.regs), (b, t.regs), (x, t.regs)]),
        (.vfcmp t fq d a b, [(d, 1), (a, t.regs), (b, t.regs)]), (.vsqrt t rm d a, [(d, 1), (a, 1)]),
        (.vunpkx t d a b, [(d, 4), (a, 1), (b, 4)]), (.vpkx t d a b, [(d, 1), (a, 4), (b, 4)]),
        (.brc cc a v, [(a, 1)]), (.brv cc a tok v, [(a, 1)]), (.ret a, [(a, 2)]), (.brkpt a, [(a, 1)]), (.barw a b, [(a, 1), (b, 1)]),
        (.reggive a, [(a, 1)]), (.regclaimTry d a, [(d, 1), (a, 1)]), (.trap a, [(a, 1)]),
        (.ld wd sc fe nt d ma, [(d, wd.regs), addrGroup ma]), (.st wd sc sf img nt d ma, [(d, wd.regs), addrGroup ma]),
        (.aadd at' sc img nt d ma, [(d, at'.regs), addrGroup ma]), (.pf nt ma, [addrGroup ma])] →
      (g.level = 0 → (∃ o ∈ p.2, o.1.cls = .SS ∨ o.1.cls = .VT) → Faults p.1 s f g 0x01 6) ∧
      (g.level ≠ 0 ∨ (∀ o ∈ p.2, o.1.cls ≠ .SS ∧ o.1.cls ≠ .VT) →
        (∃ o ∈ p.2, ∃ n : Fin 192, o.1 = .v n ∧ f.vregs < n.val + o.2) → Faults p.1 s f g 0x05 0))) ∧
  (∀ (s : State) (f : Flight) (g : Fragment) (d a : Opnd) (n : BitVec 8), Issues s f g → Unwatched s f →
      MayName f g [(d, 1), (a, 1)] → IsScalar d → g.level = 1 ∨ g.level = 2 →
      let b := bank f g.level
      let k := n.toNat
      let w := srcS (ctxOf s f g) a
      let half (x : DWord) (hi : Nat) : Word := if hi = 0 then loWord x else hiWord x
      let reads (v : Word) : Prop := SetsScalar (.smovp d n) s f g d v
      (k = 0x00 → reads b.cause) ∧ (k = 0x01 ∨ k = 0x02 → reads (half b.pc (k - 1))) ∧ (k = 0x03 → reads b.region) ∧
        (4 ≤ k → k ≤ 6 → reads (maskWord b.mask (k - 4))) ∧ (7 ≤ k → k ≤ 9 → reads (maskWord b.em (k - 7))) ∧
        (k = 0x0A ∨ k = 0x0B → reads (half b.addr (k - 0x0A))) ∧ (k = 0x0C → reads b.seq) ∧
        (k = 0x0D ∨ k = 0x0E → reads (half b.cpc (k - 0x0D))) ∧ (k = 0x0F ∨ k = 0x10 → reads (half b.rpc (k - 0x0F))) ∧
        (k = 0x11 → reads (wrap g.level)) ∧
        (k = 0x12 → reads (wrap ((if b.te then 1 else 0) + (if f.bp then 2 else 0)))) ∧
        (k = 0x13 ∨ k = 0x14 → reads (half f.tvec (k - 0x13))) ∧ (k = 0x15 → reads (countsWord f (g.level - 1))) ∧
        (∀ p, part? s f.pid = some p → k = 0x16 → reads (wrap p.desc.pmax)) ∧
        (0x40 ≤ k → k < 0xC0 → reads (half (mgetD (Machine.core s f.core).bcn ((k - 0x40) / 2) 0) (k % 2))) ∧
        (0xC0 ≤ k → k ≤ 0xC7 → reads (b.sch.getD (k - 0xC0) 0)) ∧
        (0x17 ≤ k ∧ k < 0x40 ∨ 0xC8 ≤ k → Faults (.smovp d n) s f g 0x01 5) ∧
        (k ∉ [0x01, 0x02, 0x04, 0x05, 0x06, 0x07, 0x08, 0x09, 0x0F, 0x10, 0x12, 0x13, 0x14] → k < 0x40 ∨ 0xC0 ≤ k →
          Faults (.smovq n a) s f g 0x01 5) ∧
        (k = 0x12 → 4 ≤ w.toNat → Faults (.smovq n a) s f g 0x01 5) ∧
        (k ∈ [0x01, 0x02, 0x04, 0x05, 0x06, 0x07, 0x08, 0x09, 0x0F, 0x10, 0x12, 0x13, 0x14] ∨ (0x40 ≤ k ∧ k < 0xC0) →
          privReserved k w = false → GoesOn (.smovq n a) s g f (g.pc + 8) fun t f' g' =>
            privReg t f' g.level k = w ∧ (∀ j, j < 0xC8 → j ≠ k → privReg t f' g.level j = privReg s f g.level j) ∧ g'.em = g.em ∧
              ScalarsSame f f' g g' ∧ VectorsSame s t f f' ∧ MemorySame s t ∧ f'.lflags = f.lflags))

/-- 19 R403: KILL takes the lanes of a mask that the fragment owns; with fault it also marks the launch faulted with the current cause
and cancels it. -/
def Obligations.Kills : Prop :=
  ∀ (s : State) (f : Flight) (g : Fragment) (m : Fin 24) (l : Launch), Issues s f g → Unwatched s f → PlainExits s f → f.afq = [] →
    f.haltq = [] → g.level = 1 ∨ g.level = 2 → launchOf s f = some l → l.state < 2 →
    (∀ x, gangOf s f = some x → ∀ n, mget? x.bars (f.rank * 16 + n) = none) →
    let z := g.owned &&& getMask f g m
    let b := bank f g.level
    (∃ t f', exec (.kill m) s = .next t ∧ flight? t s.cur.1 = some f' ∧ LanesExit f f' g z (g.pc + 8) ∧ f'.s = f.s ∧ f'.v = f.v ∧
      (if f.exited ||| z = allLanes then f'.sq = [] ∧ f'.psets = [] else f'.sq = f.sq ∧ f'.psets = f.psets) ∧
      launchOf t f = some l ∧ MemorySame s t ∧ ∀ k, k ≠ s.cur.1 → flight? t k = flight? s k) ∧
    (∃ t f' l', exec (.killFault m) s = .next t ∧ flight? t s.cur.1 = some f' ∧ f'.exited = f.exited ||| z ∧ f'.s = f.s ∧ f'.v = f.v ∧
      launchOf t f = some l' ∧ l'.cancel = true ∧ l'.contribs = [] ∧
      l'.fault = (if l.fault = none then some (b.cause.toNat % 256, b.cause.toNat / 256 % 256, b.pc) else l.fault) ∧
      (∀ h ∈ f'.frags, h.wait = .gone) ∧ MemorySame s t)

/-- 04 R86, R87, 22 R453: INVLP waits for a sweep of its partition's translations or instruction caches; when no access that used a
swept translation is open, the sweep removes every held one and the fragment goes on. A shootdown or an invalidation by the host is the
same sweep with no fragment waiting.
Model's choices: log 36. -/
def Obligations.Invalidations : Prop :=
  (∀ (s : State) (f : Flight) (g : Fragment) (a : Opnd) (i : Instr) (page : Option DWord), Issues s f g → Unwatched s f →
    MayName f g [(a, 2)] → g.level ≠ 0 →
    (i = .invlp a ∧ page = some (srcS2 (ctxOf s f g) a)) ∨ ((i = .invlpAll ∨ i = .invlpIcache) ∧ page = none) →
    ∃ t f' g', exec i s = .next t ∧ flight? t s.cur.1 = some f' ∧ frag? f' g.num = some g' ∧ Siblings f f' g ∧
      g'.wait = .sweep s.nextId ∧ g'.pc = g.pc ∧
      t = { s with flights := t.flights, nextId := s.nextId + 1,
                   sweeps := s.sweeps ++ [⟨s.nextId, f.pid, decide (i = .invlpIcache), page, some (s.cur.1, g.num)⟩] } ∧
      f'.s = f.s ∧ f'.v = f.v ∧ MemorySame s t ∧ ∀ k, k ≠ s.cur.1 → flight? t k = flight? s k) ∧
  (∀ (s : State) (w : Sweep), w ∈ s.sweeps → (∀ x ∈ s.sweeps, x.id = w.id → x = w) → frozen s w.pid = false →
    (w.icache = false → sweepBusy s w.pid w.page = false) →
    ∃ t, exec (.invalidationSweepDone w.id) s = .next t ∧ t.sweeps = s.sweeps.filter (fun x => x.id ≠ w.id) ∧ MemorySame s t ∧
      (w.icache = true → ∀ c, ownsCore s w.pid c = true → (Machine.core t c).icache = []) ∧
      (w.icache = false →
        let gone (e : TlbEntry) : Prop := e.pid = w.pid ∧ ∀ va, w.page = some va → va.toNat % 2 ^ 56 / 2 ^ e.bits = e.vbase / 2 ^ e.bits
        (∀ c e, e ∈ (Machine.core t c).tlb ↔ e ∈ (Machine.core s c).tlb ∧ ¬ gone e) ∧
          (∀ d e, e ∈ dieTlb t d ↔ e ∈ dieTlb s d ∧ ¬ gone e) ∧ (∀ e, e ∈ t.bridTlb ↔ e ∈ s.bridTlb ∧ ¬ gone e) ∧
          ∀ x ∈ t.flights, (∀ y ∈ x.2.lpr, ¬ gone y.2) ∧ ∀ y ∈ x.2.slpr, ¬ gone y) ∧
      (∀ fid n f g, w.waiter = some (fid, n) → flight? s fid = some f → frag? f n = some g → g.wait = .sweep w.id →
        ∃ f' g', flight? t fid = some f' ∧ frag? f' n = some g' ∧ g' = { g with wait := .run, pc := g.pc + 8 }) ∧
      (w.waiter = none → t.outbox = s.outbox ++ [.completion 0])) ∧
  (∀ (s : State) (pid : Nat) (p : Part) (all : Bool) (va : DWord), part? s pid = some p → p.destroyed = false →
    inTurn s pid = false →
    (∃ t, exec (.shootdown pid all va) s = .next t ∧
      t = { s with nextId := s.nextId + 1,
                   sweeps := s.sweeps ++ [⟨s.nextId, pid, false, if all then none else some va, none⟩] }) ∧
    (∃ t, exec (.codeInvalidate pid) s = .next t ∧
      t = { s with nextId := s.nextId + 1, sweeps := s.sweeps ++ [⟨s.nextId, pid, true, none, none⟩] }))

/-- 19 R412-R414: the freeze line is asserted by FRZ and by a firmware command, takes effect with the snapshot registers latched, and
then nothing of the job issues; FRZ.snap and the snapshot trigger only latch. A thaw clears the line.
Model's choices: log 50. -/
def Obligations.Freezes : Prop :=
  ∀ (s : State) (f : Flight) (g : Fragment) (p : Part), Issues s f g → Unwatched s f → part? s f.pid = some p →
    let stamped (t : State) : Prop := ∀ u x, mget? t.snaps u = some x → x.stamp = dw s.cycle
    let pcs (t : State) : Prop := ∀ c, c < 192 → ∃ x, mget? t.snaps c = some x ∧
      (∀ y, mget? (Machine.core s c).slots 0 = some y → x.r0 = y.pc) ∧ (∀ y, mget? (Machine.core s c).slots 3 = some y → x.r3 = y.pc)
    (g.level ≠ 0 → ∃ t f' g' p', exec .frz s = .next t ∧ flight? t s.cur.1 = some f' ∧ frag? f' g.num = some g' ∧ g'.wait = .gone ∧
      g'.pc = g.pc + 8 ∧ part? t f.pid = some p' ∧ (p.freeze = .clear → p'.freeze = .asserted s.cycle) ∧ stamped t ∧ pcs t ∧
      MemorySame s t ∧ f'.s = f.s ∧ f'.v = f.v) ∧
    (g.level ≠ 0 → GoesOn .frzSnap s g f (g.pc + 8) fun t f' g' =>
      NoRegister s t f f' g g' ∧ MemorySame s t ∧ stamped t ∧ pcs t ∧ t.parts = s.parts) ∧
    (∃ t, exec .snapshotTriggerCommand s = .next t ∧ t = { s with snaps := t.snaps } ∧ stamped t ∧ pcs t) ∧
    (∃ t p', exec (.freezeCommand f.pid) s = .next t ∧ part? t f.pid = some p' ∧ t = { s with parts := t.parts } ∧
      p' = { p with freeze := if p.freeze = .clear then .asserted s.cycle else p.freeze } ∧
      ∀ k, k ≠ f.pid → part? t k = part? s k) ∧
    (∀ c, p.freeze = .asserted c → ∃ t p', exec (.freezeTakesEffect f.pid) s = .next t ∧ part? t f.pid = some p' ∧
      p' = { p with freeze := .inEffect } ∧ t = { s with parts := t.parts, snaps := t.snaps } ∧ stamped t ∧
      frozen t f.pid = true ∧ ∀ core slot x, x ∈ candidates t core slot → ∀ y, flight? t x.1 = some y → (x.1, y) ∈ t.flights →
        (t.flights.map (·.1)).Nodup → y.pid ≠ f.pid) ∧
    (p.destroyed = false → inTurn s f.pid = false → NothingOwed s → ∃ t p', exec (.thaw f.pid) s = .next t ∧ part? t f.pid = some p' ∧
      p' = { p with freeze := .clear } ∧ frozen t f.pid = false ∧ MemorySame s t)

/-- 20 R430-R435: DBGRD reads an item of a halted fragment and DBGWR writes one, each with a status; DSTEP asks a halted fragment for one
step and waits for its answer.
Model's choices: log 26, 27. -/
def Obligations.Inspection : Prop :=
  ∀ (s : State) (f : Flight) (g : Fragment) (d a b x : Opnd) (fid : Nat) (h : Flight) (z : Fragment), Issues s f g → Unwatched s f →
    MayName f g [(d, 2), (a, 4), (b, 1), (x, 1)] → IsScalar d → d.idx + 2 ≤ d.cls.size → g.level ≠ 0 → fid ≠ s.cur.1 →
    let c := ctxOf s f g
    let w (k : Nat) : Nat := (regWord c a k 0).toNat
    let sel := (srcS c b).toNat
    let lane := w 3 / 256 % 128
    let clean : Prop := w 2 / 2 ^ 22 = 0 ∧ w 3 / 2 ^ 15 = 0
    let named := findFlight s f.pid (w 0) (w 1 + w 2 % 2 ^ 16 * 2 ^ 32) (w 2 / 2 ^ 16 % 4) (w 2 / 2 ^ 18 % 16)
    let ready : Prop := clean ∧ named = some (fid, h) ∧ flight? s fid = some h ∧ w 3 % 128 < 96 ∧ frag? h (w 3 % 128) = some z ∧
      z.halted = true ∧ frozen s h.pid = false ∧ (lane = 127 ∨ (lane < 96 ∧ z.owned.getLsbD lane = true))
    (¬ clean → SetsScalars (.dbgrd d a b) s f g d [0, 3] ∧ SetsScalar (.dbgwr d a b x) s f g d 3 ∧ SetsScalar (.dstep d a) s f g d 3) ∧
      (clean → named = none → w 3 % 128 ≠ 127 → lane ≠ 127 → SetsScalars (.dbgrd d a b) s f g d [0, 1] ∧
        SetsScalar (.dbgwr d a b x) s f g d 1 ∧ SetsScalar (.dstep d a) s f g d 1) ∧
      (ready → targetBusy h = false →
        (sel < 96 → SetsScalars (.dbgrd d a b) s f g d [getS h z sel, 0]) ∧
        (lane ≠ 127 → 2 ^ 28 ≤ sel → sel < 2 ^ 28 + 192 → SetsScalars (.dbgrd d a b) s f g d [getV s h (sel - 2 ^ 28) lane, 0]) ∧
        (sel = 3 * 2 ^ 28 → SetsScalars (.dbgrd d a b) s f g d [loWord z.pc, 0]) ∧
        (sel = 3 * 2 ^ 28 + 2 → SetsScalars (.dbgrd d a b) s f g d [z.region, 0]) ∧
        (2 ^ 28 ≤ sel % 2 ^ 28 * 2 ^ 16 → SetsScalars (.dbgrd d a b) s f g d [0, 3]) ∧
        (sel < 96 → ∃ t f' g' h' z', exec (.dbgwr d a b x) s = .next t ∧ flight? t s.cur.1 = some f' ∧ frag? f' g.num = some g' ∧
          g'.pc = g.pc + 8 ∧ ScalarWrite f f' g g' d [0] ∧ flight? t fid = some h' ∧ frag? h' z.num = some z' ∧
          (∀ k, ScalarAfter h z [(sel, srcS c x)] k (getS h' z' k)) ∧ h'.v = h.v ∧ Siblings h h' z ∧ MemorySame s t ∧
          ∀ k, k ≠ fid → k ≠ s.cur.1 → flight? t k = flight? s k)) ∧
      (ready → targetBusy h = true → sel < 96 → Stalls (.dbgrd d a b) s f g .target ∧ Stalls (.dbgwr d a b x) s f g .target) ∧
      (ready → stepAsked s fid z.num = false → z.wait = .run →
        (∃ t f' g', exec (.dstep d a) s = .next t ∧ flight? t s.cur.1 = some f' ∧ frag? f' g.num = some g' ∧ g'.wait = .step ∧
          g'.pc = g.pc ∧ t = { s with flights := t.flights, steps := s.steps ++ [⟨fid, z.num, s.cur.1, g.num, d⟩] } ∧
          flight? t fid = some h) ∧
        (let k := (srcS c b).toNat
         k < 16 → lane ≠ 127 → z.em.getLsbD lane = true → z.owned ≠ Lanes.one lane → h.frags.length < 96 →
          ∃ t h' y z', exec (.dstepIsolate d a b) s = .next t ∧ flight? t fid = some h' ∧ frag? h y.num = none ∧
            frag? h' y.num = some y ∧ y.owned = Lanes.one lane ∧ y.em = Lanes.one lane ∧ y.pc = z.pc ∧ y.halted = true ∧
            frag? h' z.num = some z' ∧ z'.owned = z.owned &&& ~~~(Lanes.one lane) ∧
            mgetD h'.tokens k 0 = mgetD h.tokens k 0 ||| z.owned ∧ t.steps = s.steps ++ [⟨fid, y.num, s.cur.1, g.num, d⟩]))

/-- 20 R426-R429, 19 R411: a halt of a flight stops every fragment of it and writes a record where records are on; a whole gang's also
stops its engines. Another flight of a halted gang stops after at most four more instructions: once it has issued four, the turn of its
fragment halts it and issues nothing.
Model's choices: log 25. -/
def Obligations.Halts : Prop :=
  (∀ (s : State) (pid launch num rank idx fid : Nat) (f : Flight) (g : Fragment) (p : Part),
    findFlight s pid launch num rank idx = some (fid, f) → flight? s fid = some f → part? s f.pid = some p → frozen s pid = false →
    isSaved s f = false → f.frags = [g] → g.level = 0 → g.halted = false →
    (∃ t f' p', exec (.haltCommand pid launch num rank idx false) s = .next t ∧ flight? t fid = some f' ∧
      f' = { f with frags := [{ g with halted := true }] } ∧ part? t f.pid = some p' ∧
      p'.hrhead = p.hrhead + (if p.hrctl.getLsbD 0 then 1 else 0) ∧
      (∀ x, gangOf s f = some x → Records s t f.pid p (recordBytes f g x.num 2 2 0 f.seqNo 0 g.owned 0)) ∧
      ∀ k, k ≠ fid → flight? t k = flight? s k) ∧
    ((∀ y ∈ s.flights, y.2.gid = f.gid → y.1 = fid) → (s.flights.map (·.1)).Nodup → ∀ x, gangOf s f = some x →
      ∃ t f' x', exec (.haltCommand pid launch num rank idx true) s = .next t ∧ flight? t fid = some f' ∧
        f' = { f with frags := [{ g with halted := true }] } ∧ gangOf t f = some x' ∧ x' = { x with engStop := true } ∧
          Records s t f.pid p (recordBytes f g x.num 2 3 0 f.seqNo 0 g.owned 2))) ∧
  (∀ (s : State) (fid n : Nat) (f : Flight) (g : Fragment) (q : QHalt), flight? s fid = some f → f.haltq = [q] → q.cause = 4 →
    q.scope = 3 → q.withheld = false → f.frags = [g] → g.level = 0 → frozen s f.pid = false → isSaved s f = false → n ≤ 4 →
    f.issued.toNat = q.pc.toNat + n →
    ∃ t f', exec (.gangHaltOtherFlight fid n) s = .next t ∧ flight? t fid = some f' ∧
      f' = { f with frags := [{ g with halted := true }], haltq := [] } ∧
      (∀ x p, gangOf s f = some x → part? s f.pid = some p →
        Records s t f.pid p (recordBytes f g x.num 4 3 n f.seqNo (if q.seq = 0 then 0 else f.t1.cause) g.owned 2)) ∧
      ∀ k, k ≠ fid → flight? t k = flight? s k) ∧
  (∀ (s : State) (fid : Nat) (f : Flight) (g : Fragment) (q : QHalt), flight? s fid = some f → f.haltq = [q] → q.cause = 4 →
    q.scope = 3 → f.frags = [g] → g.level = 0 → g.halted = false → g.wait = .run → f.issued.toNat = q.pc.toNat + 4 →
    (∀ x, gangOf s f = some x → x.state ≠ .stopping) →
    ∃ t f', turn s fid g.num = .next t ∧ flight? t fid = some f' ∧
      f' = if mayTry s fid f g then { f with frags := [{ g with halted := true }], haltq := [] } else f)

/-! ### Barrier objects and copies (05 R116-R142) -/

/-- 05 R116-R121: BOINIT writes an object, BOEXP and BOARR update it, BOWAIT and BOTRY test its phase and drop the load cache when it
has flipped; too many arrivals set ovf and fault, and a faulted object faults its waiter. An update is stated where no store of another
fragment to the object is open, for the counts that such a race leaves are undefined (R119). A waiting fragment wakes when the phase flips.
Model's choices: log 13, 47. -/
def Obligations.BarrierObjects : Prop :=
  (∀ (s : State) (f : Flight) (g : Fragment) (d a b : Opnd) (sc : Scope) (o : Nat), Issues s f g → Unwatched s f →
    MayName f g [(d, 1), (b, 1), (a, 2)] → IsScalar d →
    let c := ctxOf s f g
    let va := srcS2 c a
    let n := (srcS c b).toNat
    let ph : Bool := decide (readNat s (o + 12) 4 % 2 = 1)
    let flt : Prop := readNat s (o + 12) 4 / 2 % 2 = 1
    let room (k : Nat) : Prop := readNat s (o + 10) 2 + k ≤ readNat s (o + 8) 2
    let holds (t : State) (bs : List Byte) : Prop :=
      t = { s with flights := t.flights, mem := t.mem, undef := t.undef, outbox := t.outbox, work := t.work } ∧
        MemorySame (writeBytes s o bs) t
    let overflows (i : Instr) : Prop := FaultsAt i s (writeNat s (o + 12) 4 (readNat s (o + 12) 4 ||| 4)) f g 0x0D 0 va
    let dropped (t : State) : Prop := MemorySame s t ∧ (Machine.core t f.core).lcache = [] ∧
      ∀ k, k ≠ f.core → Machine.core t k = Machine.core s k
    let still : Prop := storeOpen s (some (s.cur.1, g.num)) o = false
    objKey s f.pid f.core va = .inr o → objBusy c o = false → openFor f g.owned = false → poisonedIn s o 16 = false →
    NoWaiters s o → Unmonitored s o 16 →
    (n = 0 ∨ 65535 < n → FaultsAt (.boinit a b) s s f g 0x0D 0 va) ∧
      (1 ≤ n → n ≤ 65535 → GoesOn (.boinit a b) s g f (g.pc + 8) fun t f' g' =>
        NoRegister s t f f' g g' ∧ holds t (objectBytes 0 0 n 0 0)) ∧
      (∀ arr, let k := if arr then 1 else 0
        (¬ room k → still → overflows (.boexp arr sc a b)) ∧
        (room k → still → GoesOn (.boexp arr sc a b) s g f (g.pc + 8) fun t f' g' =>
          NoRegister s t f f' g g' ∧ holds t (updatedObject s o n 0 k))) ∧
      (∀ lanes, let k := if lanes then g.em.count else 1
        (¬ room k → still → overflows (.boarr lanes sc none a) ∧ overflows (.boarr lanes sc (some d) a)) ∧
        (room k → still → GoesOn (.boarr lanes sc none a) s g f (g.pc + 8) (fun t f' g' =>
            NoRegister s t f f' g g' ∧ holds t (updatedObject s o 0 0 k)) ∧
          GoesOn (.boarr lanes sc (some d) a) s g f (g.pc + 8) fun t f' g' =>
            ScalarWrite f f' g g' d [if ph then 1 else 0] ∧ VectorsSame s t f f' ∧ f'.lflags = f.lflags ∧
              holds t (updatedObject s o 0 0 k))) ∧
      (flt → FaultsAt (.bowait sc a b) s s f g 0x0E 0 va ∧ FaultsAt (.botry sc d a b) s s f g 0x0E 0 va) ∧
      (¬ flt → ph ≠ decide (n % 2 = 1) →
        GoesOn (.bowait sc a b) s g f (g.pc + 8) (fun t f' g' => NoRegister s t f f' g g' ∧ dropped t) ∧
        GoesOn (.botry sc d a b) s g f (g.pc + 8) fun t f' g' =>
          ScalarWrite f f' g g' d [1] ∧ VectorsSame s t f f' ∧ f'.lflags = f.lflags ∧ dropped t) ∧
      (¬ flt → ph = decide (n % 2 = 1) →
        SetsScalar (.botry sc d a b) s f g d 0 ∧
        ∃ t f', exec (.bowait sc a b) s = .next t ∧ t = { s with flights := t.flights } ∧ flight? t s.cur.1 = some f' ∧
          frag? f' g.num = some { g with wait := .bowait va o ph sc } ∧ Siblings f f' g ∧ f'.s = f.s ∧ f'.v = f.v ∧
          ∀ k, k ≠ s.cur.1 → flight? t k = flight? s k)) ∧
  (∀ (s : State) (fid n o : Nat) (f : Flight) (g : Fragment) (va : DWord) (p : Bool) (sc : Scope), flight? s fid = some f →
    frag? f n = some g → g.wait = .bowait va o p sc → moving s f → g.halted = false → g.stopped = false →
    (∀ h ∈ f.frags, h.num ≠ n → h.level = 0) → poisonedIn s o 16 = false →
    let ph : Bool := decide (readNat s (o + 12) 4 % 2 = 1)
    let flt : Prop := readNat s (o + 12) 4 / 2 % 2 = 1
    ∃ t f' g', exec (.bowaitWake fid n) s = .next t ∧ flight? t fid = some f' ∧ frag? f' n = some g' ∧ Siblings f f' g ∧
      f'.s = f.s ∧ f'.v = f.v ∧ MemorySame s t ∧ (∀ k, k ≠ fid → flight? t k = flight? s k) ∧
      (flt → g' = { g with wait := .run }) ∧
      (¬ flt → ph ≠ p → g'.pc = g.pc + 8 ∧ g'.wait = .run ∧ g'.em = g.em ∧ g'.owned = g.owned ∧
        (Machine.core t f.core).lcache = []) ∧
      (¬ flt → ph = p → t = s))

/-- 05 R123-R125, R134-R142: a copy command whose parameters pass is numbered and joins its engine's queue with its captured block, or
waits for room; a failed check faults with code 0F. CPYT arms a command on a trigger and its cancel disarms the gang's.
Model's choices: log 28, 68, 70. -/
def Obligations.CopyCommands : Prop :=
  ∀ (s : State) (f : Flight) (g : Fragment) (d : Option Opnd) (a b o tr : Opnd) (every : Bool) (kind : CopyKind) (par : List Word)
    (i : Instr), Issues s f g → Unwatched s f → MayName f g (optGroup d ++ [(a, 8), (b, 2), (o, 2), (tr, 2)]) →
    (∀ x, d = some x → IsScalar x) →
    let c := ctxOf s f g
    let block := (List.range 8).map fun k => regWord c a k 0
    let obj := srcS2 c o
    let tva := srcS2 c tr
    let e := engineFor s f.pid f.core
    let isCmd (x : Cmd) : Prop := x.kind = kind ∧ x.par = par ∧ x.obj = obj ∧ x.fid = s.cur.1 ∧ x.gid = f.gid ∧ x.pid = f.pid ∧
      x.core = f.core ∧ x.pc = g.pc ∧ x.seq = f.seqNo ∧ x.sup = decide (g.level ≠ 0) ∧ x.done = 0 ∧ x.stall = none
    let numbered (t : State) (f' : Flight) (g' : Fragment) : Prop :=
      f'.seqNo = f.seqNo + 1 ∧ OptWrite s t f f' g g' d f.seqNo ∧ MemorySame s t ∧ ∀ k, k ≠ e → engine t k = engine s k
    ((i = .cpy d a o ∧ kind = .cpy ∧ par = block) ∨ (i = .cpyg d a o ∧ kind = .cpyg ∧ par = block) ∨
        (i = .cpys d a o ∧ kind = .cpys ∧ par = block) ∨ (i = .cpyb d a o ∧ kind = .cpyb ∧ par = block) ∨
        (i = .sqfill d a b o ∧ kind = .sqfill ∧ par = [loWord (srcS2 c a), hiWord (srcS2 c a), srcS c b]) →
      (parOk s f kind par = false → Faults i s f g 0x0F 0) ∧
      (parOk s f kind par = true → objOk s f.pid f.core obj = false → FaultsAt i s s f g 0x0F 0 obj) ∧
      (parOk s f kind par = true → objOk s f.pid f.core obj = true → 64 ≤ (engine s e).queue.length → Stalls i s f g .engine) ∧
      (parOk s f kind par = true → objOk s f.pid f.core obj = true → (engine s e).queue.length < 64 →
        GoesOn i s g f (g.pc + 8) fun t f' g' => numbered t f' g' ∧ (engine t e).arms = (engine s e).arms ∧
          ∃ x, isCmd x ∧ (engine t e).cmds = (engine s e).cmds ++ [x])) ∧
      (kind = .cpy → par = block →
        (parOk s f .cpy par = false → Faults (.cpyt every d a o tr) s f g 0x0F 0) ∧
        (parOk s f .cpy par = true → objOk s f.pid f.core obj = true → ∀ k, objKey s f.pid f.core tva = .inr k →
          (64 ≤ (engine s e).arms.length → Faults (.cpyt every d a o tr) s f g 0x0F 0) ∧
          ((engine s e).arms.length < 64 → GoesOn (.cpyt every d a o tr) s g f (g.pc + 8) fun t f' g' =>
            numbered t f' g' ∧ (engine t e).cmds = (engine s e).cmds ∧
              ∃ x, isCmd x.cmd ∧ x.trig = k ∧ x.every = every ∧ x.queued = 0 ∧
                (engine t e).arms = (engine s e).arms ++ [x]))) ∧
      (∀ k, objKey s f.pid f.core tva = .inr k → GoesOn (.cpytCancel tr) s g f (g.pc + 8) fun t f' g' =>
        NoRegister s t f f' g g' ∧ MemorySame s t ∧ ∀ x, (engine t x).cmds = (engine s x).cmds ∧
          ∀ y, y ∈ (engine t x).arms ↔ y ∈ (engine s x).arms ∧ ¬(y.trig = k ∧ y.cmd.gid = f.gid))

/-- 05 R128-R138, R141, R142: a unit of a copy writes the bytes of its next elements and counts them into its object, that of a broadcast
into every slice of its gang and the object of each (R136), and the command ends with its last one; a page fault stalls it where it stands. A firing puts the armed command into the queue, and a scale fill pushes
one record.
Model's choices: log 3, 28, 69. -/
def Obligations.CopyEngines : Prop :=
  (∀ (s : State) (e id : Nat) (x : Cmd), cmd? s e id = some x → x.kind ≠ .sqfill → x.kind ≠ .accst → x.stall = none →
    unitRuns s x.pid x.gid .copy = true → issuerDone s x = true → startsNow (engine s e) x = true →
    let z := stepBytes x.kind x.par
    let n := min (4096 / z) (x.total - x.done)
    (∀ (ps : List Put) (s1 : State), elements (x.agent e) x n s x.done = (.got ps, s1) → badPut s1 ps = none → s1.poison = [] →
      let os := cmdObjs s1 x
      os.Pairwise (fun o k => o + 16 ≤ k ∨ k + 16 ≤ o) → (∀ o ∈ os, NoWaiters s1 o) →
      (∀ w ∈ s1.work, ∀ p ∈ ps,
        (w.id = id → ∀ h ∈ w.hits, touch h.1 h.2 p.key p.bytes.length = false ∧ ∀ y ∈ p.src, touch h.1 h.2 y.key y.n = false) ∧
        (w.id ≠ id → ∀ v ∈ w.wrote, touch v.1 v.2.1 p.key p.bytes.length = false)) →
      let w := writeAll s1 (ps.map fun p => (p.key, p.bytes))
      (∀ o ∈ os, readNat w (o + 10) 2 ≤ readNat w (o + 8) 2) →
      ∃ t, exec (.copyUnitDone e id) s = .next t ∧
        MemorySame (writeAll w (os.map fun o => (o, updatedObject w o 0 (n * z) 0))) t ∧
        (∀ a, (∀ o ∈ os, a < o ∨ o + 16 ≤ a) → (∀ p ∈ ps, a < p.key ∨ p.key + p.bytes.length ≤ a) → readByte t a = readByte s1 a) ∧
        (if x.done + n = x.total then cmd? t e id = none else cmd? t e id = some { x with done := x.done + n })) ∧
    (∀ (y : Gang) (ps : List Put) (s1 : State), x.kind = .cpyb → mget? s.gangs x.gid = some y →
      elements (x.agent e) x n s x.done = (.got ps, s1) →
      cmdObjs s1 x = (List.range y.nblock).map (fun r => scratchKey (rankCore y.die y.quad r) (x.obj.toNat % 2 ^ 22)) ∧
        ∀ p ∈ ps, ∃ r, r < y.nblock ∧ p.key = scratchKey (rankCore y.die y.quad r) (p.va.toNat % 2 ^ 22)) ∧
    (∀ (kind : Nat) (a : Acc) (va : DWord) (s1 : State), elements (x.agent e) x n s x.done = (.stop 0x0B kind a va, s1) →
      frEnabled s1 x.pid = true → cmd? s1 e id = some x →
      ∃ t, exec (.copyUnitDone e id) s = .next t ∧ cmd? t e id = some { x with stall := some va })) ∧
  (∀ (s : State) (e arm : Nat) (x : Arm), (engine s e).arms.find? (fun y => y.id = arm) = some x → x.queued ≠ 0 →
    unitRuns s x.cmd.pid x.cmd.gid .copy = true → (∀ y ∈ (engine s e).cmds, y.firing ≠ some arm) →
    ∃ t, exec (.cpytFiring e arm) s = .next t ∧ t = { s with engines := t.engines, nextId := s.nextId + 1, work := t.work } ∧
      (∀ k, k ≠ e → engine t k = engine s k) ∧
      (engine t e).cmds = (engine s e).cmds ++ [{ x.cmd with id := s.nextId, firing := some arm }] ∧
      (engine t e).arms.find? (fun y => y.id = arm) = (if x.every then some { x with queued := x.queued - 1 } else none)) ∧
  (∀ (s : State) (e id o : Nat) (x : Cmd) (f : Flight) (b : List Byte) (s1 : State), cmd? s e id = some x → x.kind = .sqfill →
    x.stall = none → unitRuns s x.pid x.gid .copy = true → issuerDone s x = true → startsNow (engine s e) x = true →
    flight? s x.fid = some f → (∃ d, descOf s f = some d ∧ f.sq.length < d.sqDepth) →
    engRead s (x.agent e) (parPair x.par 0 + dw (4 * x.done)) 4 = (.got b, s1) → flight? s1 x.fid = some f →
    objKey s1 x.pid x.core x.obj = .inr o → poisonedIn s1 o 16 = false → NoWaiters s1 o →
    readNat s1 (o + 10) 2 ≤ readNat s1 (o + 8) 2 →
    ∃ t f', exec (.sqfillPush e id) s = .next t ∧ flight? t x.fid = some f' ∧ f' = { f with sq := f'.sq } ∧
      f'.sq = f.sq ++ [w32 (natOfBytes b)] ∧ MemorySame (writeBytes s1 o (updatedObject s1 o 0 4 0)) t ∧
      (if x.done + 1 = x.total then cmd? t e id = none else cmd? t e id = some { x with done := x.done + 1 }))

/-! ### Tiles and contraction (09 R226-R258) -/

/-- 09 R227-R229, R253: the instructions that name a tile fault on a handle that is not live; ACCGET takes a free tile under its next
generation or writes 0, ACCPUT frees it, ACCZ zeroes it, ACCRD reads eight elements for each active lane and ACCWR writes them.
Model's choices: log 29. -/
def Obligations.Tiles : Prop :=
  (∀ (s : State) (f : Flight) (g : Fragment) (d e a b : Opnd) (x : Gang), Issues s f g → Unwatched s f →
    MayName f g [(d, 8), (e, 1), (a, 8), (b, 1)] → IsScalar e → gangOf s f = some x →
    let c := ctxOf s f g
    let entry (l : Nat) : Nat := (src32 c b l).toNat
    let badGroup : Prop := ∃ l, l < 96 ∧ g.em.getLsbD l ∧ (entry l % 8 ≠ 0 ∨ 1016 < entry l)
    (freeTile s f x.tiles = none → SetsScalar (.accget e) s f g e 0) ∧
      (∀ k, freeTile s f x.tiles = some k →
        let gen := ((tileAt s k).gen + 1) % 256
        let tl : Tile := { Tile.reset with gen := gen, owner := some (f.gid, f.rank), aside := (tileAt s k).aside }
        (tileAt s k).owner = none ∧ k / 128 = f.core ∧ CompletesIn (.accget e) s f g { s with tiles := mset s.tiles k tl } f (g.pc + 8)
          fun t f' g' => ScalarWrite f f' g g' e [BitVec.ofNat 32 (2 ^ 31 + f.rank * 2 ^ 24 + gen * 2 ^ 8 + k % 128)] ∧
            VectorsSame s t f f' ∧ f'.lflags = f.lflags) ∧
      (liveTile c e = none → ∀ i ∈ [.accput e, .accz e, .accrd d e b, .accwr e a b], Faults i s f g 0x13 0) ∧
      (∀ k, liveTile c e = some k → (tileAt s k).insts = [] → (tileAt s k).folds = [] →
        let tl := tileAt s k
        (f.sq.length ≠ f.psets.length → Faults (.accput e) s f g 0x15 0 ∧
          (count f g.level .acc < 3 → Faults (.accrd d e b) s f g 0x15 0)) ∧
        (f.sq.length = f.psets.length → tilePsets s k ≠ [] → Faults (.accput e) s f g 0x14 0) ∧
        (f.sq.length = f.psets.length → tilePsets s k = [] →
          CompletesIn (.accput e) s f g
            { s with tiles := mset s.tiles k { Tile.reset with gen := tl.gen, aside := tl.aside } } f (g.pc + 8)
            fun t f' g' => NoRegister s t f f' g g') ∧
        CompletesIn (.accz e) s f g { s with tiles := mset s.tiles k { tl with elems := [] } } f (g.pc + 8)
          (fun t f' g' => NoRegister s t f f' g g') ∧
        (3 ≤ count f g.level .acc → Stalls (.accrd d e b) s f g .counter) ∧
        (badGroup → Faults (.accwr e a b) s f g 0x14 0 ∧
          (count f g.level .acc < 3 → f.sq.length = f.psets.length → Faults (.accrd d e b) s f g 0x14 0)) ∧
        (¬ badGroup → count f g.level .acc < 3 → f.sq.length = f.psets.length →
          CompletesIn (.accrd d e b) s f g { s with nextId := s.nextId + 1 } f (g.pc + 8) fun t f' g' =>
            g'.em = g.em ∧ ScalarsSame f f' g g' ∧ VectorsSame s t f f' ∧ f'.lflags = f.lflags ∧
              count f' g.level .acc = count f g.level .acc + 1 ∧
              ∃ p, f'.pend = f.pend ++ [p] ∧ p.id = s.nextId ∧ p.acc = true ∧ p.dst = d ∧ p.lanes = g.em ∧ p.level = g.level ∧
                p.held = false ∧ p.rows.length = 8 ∧ ∀ m l, m < 8 → l < 96 → g.em.getLsbD l →
                  rowAt (p.rows.getD m []) l = mgetD tl.elems (entry l + m) 0) ∧
        (¬ badGroup → ∃ tl', tl' = { tl with elems := tl'.elems } ∧
          CompletesIn (.accwr e a b) s f g { s with tiles := mset s.tiles k tl' } f (g.pc + 8)
            (fun t f' g' => NoRegister s t f f' g g') ∧
          (∀ n, (∀ l, l < 96 → g.em.getLsbD l → n < entry l ∨ entry l + 8 ≤ n) → mgetD tl'.elems n 0 = mgetD tl.elems n 0) ∧
          ∀ l m, l < 96 → m < 8 → g.em.getLsbD l → (∀ j, l < j → j < 96 → g.em.getLsbD j → entry j ≠ entry l) →
            mgetD tl'.elems (entry l + m) 0 = regWord c a m l))) ∧
  (∀ (s : State) (fid : Nat) (f : Flight) (p : Pend) (n : Fin 192), flight? s fid = some f → p ∈ f.pend →
    (∀ q ∈ f.pend, q.id = p.id → q = p) → p.acc = true → p.dst = .v n → n.val + 8 ≤ 192 → p.rows.length = 8 → p.late = false →
    (∀ k, asyncLanes f k = 0) → pendReady f p = true → frozen s f.pid = false →
    NoEarly { f with pend := f.pend.filter fun q => q.id ≠ p.id } → (∀ h ∈ p.vhits, n.val ≤ h.1 ∧ h.1 < n.val + 8) →
    NoDest f.mops (f.pend.filter fun q => q.id ≠ p.id) (.v n) 8 →
    ∃ t f', exec (.accrdResultWrite fid p.id) s = .next t ∧ flight? t fid = some f' ∧
      (∀ m l, m < 8 → l < 96 → p.lanes.getLsbD l → wasHit p.vhits (n.val + m) l = false →
        getV t f' (n.val + m) l = rowAt (p.rows.getD m []) l) ∧
      (∀ k l, l < 96 → ¬((n.val ≤ k ∧ k < n.val + 8) ∧ p.lanes.getLsbD l) → wasHit p.vhits k l = false →
        getV t f' k l = getV s f k l) ∧ f'.s = f.s ∧
      MemorySame s t ∧ ∀ k, k ≠ fid → flight? t k = flight? s k)

/-- 09 R254, R255, R257: ACCST captures its tile into a numbered command, which writes the selected elements and counts them; ACCSV
writes a tile's save record to memory and ACCLD restores a tile from one.
Model's choices: log 13, 23, 29, 52. -/
def Obligations.TileStoresAndSaves : Prop :=
  (∀ (s : State) (f : Flight) (g : Fragment) (e a b : Opnd) (k : Nat), Issues s f g → Unwatched s f →
    MayName f g [(e, 1), (a, 8), (b, 2)] → liveTile (ctxOf s f g) e = some k → (tileAt s k).insts = [] → (tileAt s k).folds = [] →
    let c := ctxOf s f g
    let par := (List.range 8).map fun k => regWord c a k 0
    let obj := srcS2 c b
    let eng := engineFor s f.pid f.core
    (f.sq.length ≠ f.psets.length → Faults (.accst e a b) s f g 0x15 0) ∧
      (f.sq.length = f.psets.length → storeOk par = false → Faults (.accst e a b) s f g 0x14 0) ∧
      (f.sq.length = f.psets.length → storeOk par = true → objOk s f.pid f.core obj = false →
        FaultsAt (.accst e a b) s s f g 0x14 0 obj) ∧
      (f.sq.length = f.psets.length → storeOk par = true → objOk s f.pid f.core obj = true →
        GoesOn (.accst e a b) s g f (g.pc + 8) fun t f' g' =>
          f'.seqNo = f.seqNo + 1 ∧ f'.s = f.s ∧ f'.v = f.v ∧ f'.lflags = f.lflags ∧ g'.em = g.em ∧
            t = { s with flights := t.flights, engines := t.engines, nextId := s.nextId + 1, work := t.work } ∧
            ∃ x, (engine t eng).cmds = (engine s eng).cmds ++ [x] ∧ x.kind = .accst ∧ x.par = par ∧ x.obj = obj ∧
              x.fid = s.cur.1 ∧ x.seq = f.seqNo ∧ ∀ n, n < 1024 → mgetD x.data n 0 = mgetD (tileAt s k).elems n 0)) ∧
  (∀ (s : State) (e id o : Nat) (x : Cmd) (ps : List Put) (s1 : State), cmd? s e id = some x → x.kind = .accst → x.stall = none →
    capturing s e id = false → unitRuns s x.pid x.gid .copy = true → issuerDone s x = true →
    engPuts s (x.agent e) (storeWrites x) = (.got ps, s1) → s1.poison = [] → objKey s1 x.pid x.core x.obj = .inr o →
    NoWaiters s1 o →
    (∀ w ∈ s1.work, ∀ p ∈ ps,
      (w.id = id → ∀ h ∈ w.hits, touch h.1 h.2 p.key p.bytes.length = false ∧ ∀ y ∈ p.src, touch h.1 h.2 y.key y.n = false) ∧
      (w.id ≠ id → ∀ v ∈ w.wrote, touch v.1 v.2.1 p.key p.bytes.length = false)) →
    let w := writeAll s1 (ps.map fun p => (p.key, p.bytes))
    let n := ((storeWrites x).map fun y => y.2.length).sum
    readNat w (o + 10) 2 ≤ readNat w (o + 8) 2 →
    ∃ t, exec (.accstStoreDone e id) s = .next t ∧ cmd? t e id = none ∧
      MemorySame (writeBytes w o (updatedObject w o 0 n 0)) t) ∧
  (∀ (s : State) (f : Flight) (g : Fragment) (e a : Opnd) (k : Nat), Issues s f g → Unwatched s f → g.level ≠ 0 →
    MayName f g [(e, 1), (a, 2)] → openFor f g.owned = false →
    let c := ctxOf s f g
    let va := srcS2 c a
    (liveTile c e = none → Faults (.accsv e a) s f g 0x13 0 ∧ Faults (.accld e a) s f g 0x13 0) ∧
      (liveTile c e = some k → heldBy (tileAt s k) s.cur.1 true = true →
        Stalls (.accsv e a) s f g .tile ∧ Stalls (.accld e a) s f g .tile) ∧
      (liveTile c e = some k → heldBy (tileAt s k) s.cur.1 true = false → (gangOf s f).isSome →
        let bytes := tileRecord s (srcS c e) k f.gid
        (∀ ks c1, (tileAt s k).folds = [] → checkBlock c 256 .write va bytes.length = (ks, none, c1) →
          LooksUp c c1 → badPiece c1.st ks = false → GoesOn (.accsv e a) s g f (g.pc + 8) fun t f' g' =>
            g'.em = g.em ∧ f'.s = f.s ∧ f'.v = f.v ∧ f'.lflags = f.lflags ∧ MemorySame (writePieces c1.st s.cur.1 f.core ks bytes) t) ∧
        (∀ k0 c1 ks c2, checkBlock c 256 .read va 64 = (k0, none, c1) →
          let head := readPieces c1.st k0
          let n := fieldOf head 6 1
          let p := fieldOf head 7 2
          n ≤ 4 → p ≤ 384 → checkBlock c1 256 .read va (0x1040 + n * 0x6440 + p * 0x4210) = (ks, none, c2) →
          LooksUp c c2 → s.poison = [] →
          let bytes := readPieces c2.st ks
          (recordOk bytes n p = true → ∃ t f' g', exec (.accld e a) s = .next t ∧ flight? t s.cur.1 = some f' ∧
            frag? f' g.num = some g' ∧ g'.pc = g.pc + 8 ∧ g'.wait = .run ∧ g'.em = g.em ∧ f'.s = f.s ∧ f'.v = f.v ∧
            MemorySame c2.st t ∧ (∀ j, j < 1024 → mgetD (tileAt t k).elems j 0 = BitVec.ofNat 32 (fieldOf bytes (0x40 + 4 * j) 4)) ∧
            (tileAt t k).folds = [] ∧ (tileAt t k).gen = (tileAt c2.st k).gen ∧ (tileAt t k).owner = (tileAt c2.st k).owner ∧
            (n = 0 → (tileAt t k).insts = []) ∧ (p = 0 → ∀ x ∈ f'.psets, x.tile ≠ k) ∧
            ∀ j, j ≠ k → tileAt t j = tileAt c2.st j))))

/-- 09 R232-R238, R240, R241, R245-R251, R256: an arrival opens an instance of its scope, or joins the open one of its key and tag and
faults where its type or header differs; LCON parks until the closure, which captures the operands of every arrival and releases every
fragment that is parked at it, and LCONA goes on in a new region. A step adds a beat's sums in their order, or deposits the partial set of a
block format's beat with the flight; the end adds the staged sum to the tile, and for a block format nothing; scale records are pushed,
counted and folded.
Model's choices: log 22, 29. -/
def Obligations.Contraction : Prop :=
  (∀ (s : State) (f : Flight) (g : Fragment) (ty : Ty) (sp gang : Bool) (e a b x : Opnd) (k : Nat) (y : Gang), Issues s f g →
    Unwatched s f → MayName f g [(e, 1), (a, aRegs ty sp), (b, 8), (x, 4)] → gangOf s f = some y →
    liveTile (ctxOf s f g) e = some k → (tileAt s k).insts = [] → (tileAt s k).folds = [] →
    (∀ z ∈ s.flights, z.1 = s.cur.1 → z.2 = f) → (∀ z ∈ s.flights, ∀ h ∈ z.2.frags, h.wait ≠ .lcon k s.nextId) →
    (s.flights.map (·.1)).Nodup →
    let c := ctxOf s f g
    let h := srcS c x
    let okHeader : Prop := h.toNat / 256 % 16 = if sp then 1 else 0
    let room : Prop := ty.isDxb = true → psetLoad s f s.cur.1 none ≤ 6
    let obj := srcS2 c (opAdd x 2)
    let inst (i : Inst) (sc : Nat) : Prop := i.id = s.nextId ∧ i.scope = sc ∧ i.ty = ty ∧ i.sp = sp ∧ i.header = h ∧ i.progress = 0 ∧
      i.arrived = [(s.cur.1, g.owned)] ∧ i.part = [(s.cur.1, g.em)]
    (¬ okHeader → Faults (.lcon ty sp e a b x) s f g 0x14 0 ∧ Faults (.lcona ty gang sp e a b x) s f g 0x14 0) ∧
      (okHeader → room → ∃ t f' g' i r, exec (.lcon ty sp e a b x) s = .next t ∧ flight? t s.cur.1 = some f' ∧
        frag? f' g.num = some g' ∧ (tileAt t k).insts = [i] ∧ inst i 0 ∧ i.own = s.cur.1 ∧ i.arrs = [r] ∧ f'.s = f.s ∧ f'.v = f.v ∧
        g'.em = g.em ∧ g'.owned = g.owned ∧ MemorySame s t ∧ (tileAt t k).elems = (tileAt s k).elems ∧
        (∀ j, j ≠ s.cur.1 → flight? t j = flight? s j) ∧
        (if ~~~f.exited &&& ~~~g.owned = 0 then
          i.closed.isSome ∧ g'.pc = g.pc + 8 ∧ g'.wait = .run ∧
            (∀ n l, n < aRegs ty sp → l < 96 → rowAt (r.av.getD n []) l = getV s f (a.idx + n) l) ∧
            ∀ n l, n < 8 → l < 96 → rowAt (r.bv.getD n []) l = getV s f (b.idx + n) l
        else i.closed = none ∧ g'.pc = g.pc ∧ g'.wait = .lcon k s.nextId)) ∧
      (okHeader → room → srcS c (opAdd x 1) = 0 → (∃ o, objKey s f.pid f.core obj = .inr o) →
        ∃ t f' g' i, exec (.lcona ty gang sp e a b x) s = .next t ∧ flight? t s.cur.1 = some f' ∧ frag? f' g.num = some g' ∧
          g'.pc = g.pc + 8 ∧ g'.wait = .run ∧ Entered g g' ∧ (tileAt t k).insts = [i] ∧ inst i (if gang then 2 else 1) ∧
          f'.seqNo = f.seqNo + 1 ∧ f'.s = f.s ∧ f'.v = f.v ∧ MemorySame s t ∧ (tileAt t k).elems = (tileAt s k).elems ∧
          (∀ j, j ≠ s.cur.1 → flight? t j = flight? s j) ∧
          (i.closed.isSome ↔ ∀ z ∈ s.flights, z.2.gid = f.gid → (gang = false → z.2.rank = f.rank) →
            (if z.1 = s.cur.1 then ~~~f.exited &&& ~~~g.owned = 0 else ~~~z.2.exited = 0)))) ∧
  (∀ (s : State) (f : Flight) (g : Fragment) (ty : Ty) (sp gang : Bool) (e a b x : Opnd) (k sc : Nat) (y : Gang) (i : Instr) (i0 : Inst),
    Issues s f g → Unwatched s f → MayName f g [(e, 1), (a, aRegs ty sp), (b, 8), (x, 4)] → gangOf s f = some y →
    liveTile (ctxOf s f g) e = some k → (tileAt s k).insts = [i0] → (tileAt s k).folds = [] → (s.flights.map (·.1)).Nodup →
    (∀ z ∈ s.flights, z.1 ≠ s.cur.1 ∨ sc ≠ 0 → ∀ h ∈ z.2.frags, h.wait ≠ .lcon k i0.id) → (∀ h ∈ f.frags, h.num = g.num → h = g) →
    let c := ctxOf s f g
    let h := srcS c x
    h.toNat / 256 % 16 = (if sp then 1 else 0) →
    (i = .lcon ty sp e a b x ∧ sc = 0 ∧ i0.own = s.cur.1) ∨
      (i = .lcona ty gang sp e a b x ∧ sc = (if gang then 2 else 1) ∧ (gang = false → i0.rank = f.rank) ∧
        srcS c (opAdd x 1) = 0 ∧ ∃ o, objKey s f.pid f.core (srcS2 c (opAdd x 2)) = .inr o) →
    i0.closed = none → i0.scope = sc → i0.tag = h.toNat % 256 → (sc = 0 → ∀ z ∈ i0.arrs, z.fid = s.cur.1) →
    let agrees : Prop := i0.ty = ty ∧ i0.header.toNat / 256 = h.toNat / 256 ∧ mgetD i0.arrived s.cur.1 0 &&& g.owned = 0
    let brings (m m' : Cells Lanes) (z : Lanes) : Prop := ∀ j, mgetD m' j 0 = mgetD m j 0 ||| if j = s.cur.1 then z else 0
    (¬ agrees → Faults i s f g 0x14 0) ∧
      (agrees → (ty.isDxb = true → psetLoad s f s.cur.1 (some i0.id) ≤ 6) →
        ∃ (t : State) (f' : Flight) (g' : Fragment) (i1 : Inst) (r : Arr), exec i s = .next t ∧ flight? t s.cur.1 = some f' ∧ frag? f' g.num = some g' ∧ (tileAt t k).insts = [i1] ∧
          i1 = { i0 with arrived := i1.arrived, part := i1.part, arrs := i1.arrs, closed := i1.closed } ∧
          brings i0.arrived i1.arrived g.owned ∧ brings i0.part i1.part g.em ∧
          r.fid = s.cur.1 ∧ r.frag = g.num ∧ r.part = g.em ∧ r.a = a.idx ∧ r.b = b.idx ∧
          i1.arrs.map (fun z => (z.fid, z.frag, z.part, z.a, z.b)) =
            (i0.arrs ++ [r]).map (fun z => (z.fid, z.frag, z.part, z.a, z.b)) ∧
          (i1.closed.isSome ↔ ∀ z ∈ i0.expected, z.2 &&& ~~~(mgetD i1.arrived z.1 0) = 0) ∧
          f'.s = f.s ∧ f'.v = f.v ∧ g'.em = g.em ∧ g'.owned = g.owned ∧ MemorySame s t ∧ (tileAt t k).elems = (tileAt s k).elems ∧
          (∀ j, j ≠ s.cur.1 → flight? t j = flight? s j) ∧
          (sc ≠ 0 → g'.pc = g.pc + 8 ∧ g'.wait = .run ∧ Entered g g' ∧ f'.seqNo = f.seqNo + 1) ∧
          (sc = 0 → i1.closed = none → g'.pc = g.pc ∧ g'.wait = .lcon k i0.id ∧ Siblings f f' g) ∧
          (sc = 0 → i1.closed.isSome → g'.pc = g.pc + 8 ∧ g'.wait = .run ∧
            (∀ w ∈ f.frags, w.num ≠ g.num → frag? f w.num = some w →
              frag? f' w.num = some (if w.wait = .lcon k i0.id then { w with wait := .run, pc := w.pc + 8 } else w)) ∧
            ∀ z ∈ i1.arrs, (∀ n l, n < aRegs i0.ty i0.sp → l < 96 → rowAt (z.av.getD n []) l = getV s f (z.a + n) l) ∧
              ∀ n l, n < 8 → l < 96 → rowAt (z.bv.getD n []) l = getV s f (z.b + n) l))) ∧
  (∀ (s : State) (k gid rank : Nat) (y : Gang) (tl : Tile) (i : Inst), mget? s.tiles k = some tl → tl.owner = some (gid, rank) →
    mget? s.gangs gid = some y → tl.insts = [i] → i.closed.isSome → unitRuns s y.pid gid .contraction = true →
    let n := instNF y i
    let reached (r p : Nat) : Bool := (instFlight s gid i r p).any fun z => mgetD i.arrived z.1 0 != 0
    let plan := ((instRanks y i).map fun r => ((List.range n).map fun p =>
      if i.ty.isDxb = false ∨ reached r p = true then [(r, p, 0), (r, p, 1), (r, p, 2)] else []).flatten).flatten
    (∀ r p q, plan[i.progress]? = some (r, p, q) → i.ty.isDxb = false →
      let vs := beatVecs s k i (instFlight s gid i r p) q
      ∃ t j, exec (.contractionStep k i.id) s = .next t ∧
        t = { s with free := s.free + 1, tiles := mset s.tiles k { tl with insts := [j] } } ∧
        j = { i with frun := j.frun, krun := j.krun, staged := j.staged, progress := i.progress + 1 } ∧
        (∀ el ∈ region i.ty, mgetD j.frun el 0 =
          if q = 0 then beatSum i.ty vs (el / 32) (el % 32)
          else plus32 (mgetD i.frun el 0) (beatSum i.ty vs (el / 32) (el % 32))) ∧
        (q = 2 → ∀ el ∈ region i.ty, mgetD j.krun el 0 =
          if p = 0 then mgetD j.frun el 0 else plus32 (mgetD i.krun el 0) (mgetD j.frun el 0)) ∧
        j.staged = (if q = 2 ∧ p + 1 = n then i.staged ++ [j.krun] else i.staged)) ∧
    (∀ r p q fid x, plan[i.progress]? = some (r, p, q) → i.ty.isDxb = true → instFlight s gid i r p = some (fid, x) →
      let vs := beatVecs { s with free := s.free + 1 } k i (some (fid, x)) q
      ∃ t x' z, exec (.contractionStep k i.id) s = .next t ∧
        t = { s with free := s.free + 1, nextId := s.nextId + (if i.progress = 0 then 1 else 0), flights := t.flights
                     tiles := mset s.tiles k { tl with insts := [{ i with progress := i.progress + 1 }], deps := (tileAt t k).deps } } ∧
        (tileAt t k).deps =
          (if i.progress = 0 then
            tl.deps ++ [⟨i.id, i.ty, s.nextId, plan.map fun w => (w.1, (instFlight s gid i w.1 w.2.1).elim w.2.1 fun v => v.2.idx, w.2.2)⟩]
          else tl.deps) ∧
        flight? t fid = some x' ∧ x' = { x with psets := x.psets ++ [z] } ∧ (∀ j, j ≠ fid → flight? t j = flight? s j) ∧
        z.inst = i.id ∧ z.tile = k ∧ z.ty = i.ty ∧ z.rank = r ∧ z.f = x.idx ∧ z.k = q ∧
        ∀ el ∈ region i.ty, ∀ sel, sel < 4 →
          let ts := (psTerms i.ty vs (el / 32) (el % 32)).filter fun w => w.1 = sel
          mgetD z.p (4 * el + sel) 0 = (ts.map (·.2)).sum ∧ (4 * el + sel ∈ z.n ↔ ts ≠ [])) ∧
    (plan.length ≤ i.progress → i.scope = 0 → i.undef = false → tl.todo = [] →
      ∃ t tl', exec (.contractionStep k i.id) s = .next t ∧ mget? t.tiles k = some tl' ∧ tl'.insts = [] ∧ MemorySame s t ∧
        (i.ty.isDxb = false → ∀ el ∈ region i.ty, mgetD tl'.elems el 0 = plus32 (mgetD tl.elems el 0) (stagedSum i el)) ∧
        (∀ el, i.ty.isDxb = true ∨ el ∉ region i.ty → mgetD tl'.elems el 0 = mgetD tl.elems el 0) ∧
        ∀ j, j ≠ k → mget? t.tiles j = mget? s.tiles j)) ∧
  (∀ (s : State) (f : Flight) (g : Fragment) (ty : Ty) (e a d : Opnd) (k : Nat), Issues s f g → Unwatched s f →
    MayName f g [(e, 1), (a, 1), (d, 1)] → IsScalar d → liveTile (ctxOf s f g) e = some k → (tileAt s k).insts = [] →
    (tileAt s k).folds = [] →
    let tl := tileAt s k
    let depth := (descOf s f).elim 0 (·.sqDepth)
    (depth = 0 → Faults (.sqpush a) s f g 0x15 0) ∧
      (depth ≠ 0 → depth ≤ f.sq.length → Stalls (.sqpush a) s f g .sq) ∧
      (f.sq.length < depth → CompletesIn (.sqpush a) s f g s { f with sq := f.sq ++ [srcS (ctxOf s f g) a] } (g.pc + 8)
        fun t f' g' => NoRegister s t f f' g g') ∧
      SetsScalar (.sqcnt d) s f g d (BitVec.ofNat 32 (f.sq.length + f.psets.length * 2 ^ 16)) ∧
      ((∀ p ∈ f.psets.head?, ¬(p.tile = k ∧ p.ty = ty)) → Faults (.scacc ty e) s f g 0x15 0) ∧
      (∀ p ps, f.psets = p :: ps → p.tile = k → p.ty = ty →
        (f.sq = [] → filling s s.cur.1 = true → Stalls (.scacc ty e) s f g .record) ∧
        (f.sq = [] → filling s s.cur.1 = false → Faults (.scacc ty e) s f g 0x15 0) ∧
        ∀ r rs, f.sq = r :: rs →
          CompletesIn (.scacc ty e) s f g
            { s with tiles := mset s.tiles k { tl with folds := [(⟨p, r⟩ : Fold)] } }
            { f with psets := ps, sq := rs } (g.pc + 8)
            fun t f' g' => NoRegister s t f f' g g')) ∧
  (∀ (s : State) (k gid rank : Nat) (y : Gang) (tl : Tile) (dep : Dep) (x : Fold) (rest : List (Nat × Nat × Nat)),
    mget? s.tiles k = some tl → tl.owner = some (gid, rank) → mget? s.gangs gid = some y →
    unitRuns s y.pid gid .contraction = true → tl.deps = [dep] → dep.todo = (x.ps.rank, x.ps.f, x.ps.k) :: rest →
    dep.inst = x.ps.inst → tl.folds = [x] →
    ∃ t tl', exec (.foldApply k) s = .next t ∧ t = { s with tiles := mset s.tiles k tl' } ∧ tl'.folds = [] ∧
      tl'.insts = tl.insts ∧ tl'.gen = tl.gen ∧ tl'.owner = tl.owner ∧
      (∀ el ∈ region x.ps.ty, mgetD tl'.elems el 0 = plus32 (mgetD tl.elems el 0) (foldTerm x.ps x.scale el)) ∧
      (∀ el, el ∉ region x.ps.ty → mgetD tl'.elems el 0 = mgetD tl.elems el 0) ∧
      tl'.deps = if rest = [] then [] else [{ dep with todo := rest }])

/-! ### Launches (15 R309-R334, 16 R336-R352) -/

/-- 15 R326-R330: ENQ makes its packet the partition's next launch, below the issuing launch's root, and refuses it where a check
fails; ENQR numbers its packet and sends it to the queue of its handle, where it is written into the ring and announced by a write of
QNOTIFY, which a tender core takes (16 R337, R344).
That an enqueue is made where the accesses before it are performed is the model's choice (log 13).
Model's choices: log 13, 34, 52. -/
def Obligations.Enqueues : Prop :=
  (∀ (s : State) (f : Flight) (g : Fragment) (d : Option Opnd) (a b : Opnd) (detach : Bool) (ks : List (Nat × Nat)) (c1 : Ctx),
    Issues s f g → Unwatched s f → MayName f g (optGroup d ++ [(a, 2), (b, 2)]) → (∀ x, d = some x → IsScalar x) →
    checkBlock (ctxOf s f g) 64 .read (packetVa (ctxOf s f g) a) 64 = (ks, none, c1) → LooksUp (ctxOf s f g) c1 →
    writesOpen f g.owned = false → (∃ l, launchOf s f = some l ∧ l.compat = true) ∨ (openFor f g.owned = false ∧ flightOpen f = false) →
    s.poison = [] →
    let bytes := readPieces c1.st ks
    let h := srcS2 (ctxOf s f g) b
    let goes (t : State) (f' : Flight) (g' : Fragment) (w : Word) : Prop :=
      flight? t s.cur.1 = some f' ∧ frag? f' g.num = some g' ∧ Siblings f f' g ∧ (∀ k, k ≠ s.cur.1 → flight? t k = flight? s k) ∧
        g'.pc = g.pc + 8 ∧ g'.wait = .run ∧ g'.owned = g.owned ∧ EnteredAs g g' ∧ OptWrite s t f f' g g' d w
    (∀ p own, part? s f.pid = some p → p.offers = [] → acceptOpen c1.st f.pid = true → waitingDevice s f.pid < 65536 →
      launchOf s f = some own → own.prio < s.global.length →
      let id := p.nextId
      let root := if detach then none else if own.isRoot then some own.id else own.root
      let cutOff := (root.bind fun r => mget? s.launches (lkey f.pid r)).elim false (·.treeEnd)
      let reason := (checkLaunch c1.st f.pid bytes cutOff).1
      ∃ t f' g' l, exec (.enq detach d a) s = .next t ∧ goes t f' g' id ∧ mget? t.launches (lkey f.pid id.toNat) = some l ∧
        l.id = id.toNat ∧ l.device = true ∧ l.tag = BitVec.ofNat 32 (fieldOf bytes 4 4) ∧
        l.karg = BitVec.ofNat 64 (fieldOf bytes 0x20 8) ∧ l.root = (if cutOff then none else root) ∧ l.reason = reason ∧
        (∃ p', part? t f.pid = some p' ∧ p'.nextId = if id + 1 = 0 then 1 else id + 1) ∧ (reason ≠ 0 → l.state = 5) ∧
        (reason = 0 → l.state = 0 ∧ ∃ q ∈ t.global, lkey f.pid id.toNat ∈ q)) ∧
      (badHandle h = true → Faults (.enqr d a b) s f g 0x18 0) ∧
      (badHandle h = false → ∃ t f' g' m, exec (.enqr d a b) s = .next t ∧ goes t f' g' f.seqNo ∧ f'.seqNo = f.seqNo + 1 ∧
        t.outbox = s.outbox ++ [.packet m] ∧ m.handle = h ∧ m.bytes = bytes ∧ m.outside = false ∧ m.spid = f.pid ∧
        m.seq = f.seqNo ∧ m.pc = g.pc ∧ MemorySame s t)) ∧
  (∀ (s : State) (m : PacketMsg) (q : Queue) (key : Nat), (m.outside = true ∨ .packet m ∈ s.outbox) →
    m.handle.toNat / 2 ^ 52 = s.package → badHandle m.handle = false → s.poison = [] → s.forwards = [] →
    let pid := handlePart m.handle
    let k := handleQueue m.handle
    let last := q.bell.getD q.widx
    deliveryStatus s m = 0 → queue? s pid k = some q → q.size < 32 → feKey s pid .write (q.entry last) m.bytes.length = some key →
    ∃ t q', exec (.enqrDelivery m) s = .next t ∧ queue? t pid k = some q' ∧ q'.bell = some (last + 1) ∧ q'.widx = q.widx ∧ q'.r = q.r ∧
      q'.state = q.state ∧ .bell k ∈ t.events ∧ MemorySame (writeBytes s key m.bytes) t ∧ t.flights = s.flights) ∧
  (∀ (s : State) (n k : Nat) (q : Queue) (w : Word), taken s n = some (.bell k) → mget? s.queues k = some q →
    q.bell = some w → q.state ≠ .error → (w - q.r).toNat ≤ 2 ^ q.size →
    ∃ t q', tender s n = .next t ∧ mget? t.queues k = some q' ∧ q'.bell = none ∧ q'.widx = w ∧ q'.r = q.r ∧
      q'.state = (if q.state = .idle ∧ w ≠ q.r then .ready else q.state) ∧ .bell k ∉ t.events ∧ MemorySame s t)

/-- 15 R333, R334: LCANCEL cancels a running launch by its identifier and LCANCEL.tree a spawn tree, and each tells whether it took
effect; LCNT reads a launch's gangs, its tree's counter or its state. That a cancel waits while its fragment's lanes have an access open
is the model's choice (log 13): R333 says only that it is a release.
Model's choices: log 13, 53. -/
def Obligations.CancelsAndCounts : Prop :=
  ∀ (s : State) (f : Flight) (g : Fragment) (d a : Opnd), Issues s f g → Unwatched s f → MayName f g [(d, 1), (a, 1)] → IsScalar d →
    let id := (srcS (ctxOf s f g) a).toNat
    let key := lkey f.pid id
    let known := knownLaunch s f.pid id
    let quiet : Prop := openFor f g.owned = false
    let tells (i : Instr) (w : Word) : Prop := SetsScalar i s f g d w
    let took (i : Instr) (p : State → Prop) : Prop :=
      ∃ t f' g', exec i s = .next t ∧ flight? t s.cur.1 = some f' ∧ frag? f' g.num = some g' ∧ g'.pc = g.pc + 8 ∧ g'.wait = .run ∧
        ScalarWrite f f' g g' d [0] ∧ VectorsSame s t f f' ∧ MemorySame s t ∧ p t
    let cancelled (t : State) (k : Nat) : Prop := ∃ l', mget? t.launches k = some l' ∧ l'.cancel = true ∧ l'.contribs = []
    (¬ quiet → Stalls (.lcancel d a) s f g .order ∧ Stalls (.lcancelTree d a) s f g .order) ∧
      (known = none → (quiet → tells (.lcancel d a) 2 ∧ tells (.lcancelTree d a) 2) ∧
        tells (.lcntGangs d a) 0xFFFF_FFFF ∧ tells (.lcntTree d a) 0xFFFF_FFFF ∧ tells (.lcntState d a) 0xFFFF_FFFF) ∧
      (∀ l, known = some l →
        (quiet → 2 ≤ l.state → tells (.lcancel d a) 1) ∧
        (quiet → l.isRoot = false → tells (.lcancelTree d a) 2) ∧
        (quiet → l.isRoot = true → (∀ k ∈ treeKeys s f.pid id, ∀ x, mget? s.launches k = some x → 2 ≤ x.state) →
          tells (.lcancelTree d a) 1) ∧
        (quiet → l.state < 2 → id ≠ f.launch → took (.lcancel d a) fun t =>
          cancelled t key ∧ (∀ k, k ≠ key → mget? t.launches k = mget? s.launches k) ∧ (∀ q ∈ t.global, key ∉ q) ∧
            ∀ k y, flight? s k = some y → y.pid = f.pid → y.launch = id →
              ∃ y', flight? t k = some y' ∧ y'.s = y.s ∧ y'.v = y.v ∧ ∀ h ∈ y'.frags, h.wait = .gone) ∧
        (quiet → l.state < 2 → id = f.launch → ∃ t f', exec (.lcancel d a) s = .next t ∧ flight? t s.cur.1 = some f' ∧
          f'.s = f.s ∧ f'.v = f.v ∧ (∀ h ∈ f'.frags, h.wait = .gone) ∧ cancelled t key ∧ MemorySame s t) ∧
        (quiet → l.isRoot = true → (∃ k ∈ treeKeys s f.pid id, ∃ x, mget? s.launches k = some x ∧ x.state < 2) →
          lkey f.pid f.launch ∉ treeKeys s f.pid id → took (.lcancelTree d a) fun t =>
            (∀ k ∈ treeKeys s f.pid id, ∀ x, mget? s.launches k = some x → x.state < 2 → cancelled t k) ∧
              ∃ l', mget? t.launches key = some l' ∧ l'.treeEnd = true) ∧
        tells (.lcntGangs d a)
          (if 2 ≤ l.state then 0 else BitVec.ofNat 32 (min 0xFFFF_FFFF ((if l.cancel then l.placed else l.gangs) - l.retired))) ∧
        tells (.lcntTree d a) (if l.isRoot then BitVec.ofNat 32 l.tree else 0) ∧
        (l.state < 2 → tells (.lcntState d a) (BitVec.ofNat 32 l.state)) ∧
        (2 ≤ l.state → CompletesIn (.lcntState d a) s f g (dropCache s f.core) f (g.pc + 8) fun t f' g' =>
          ScalarWrite f f' g g' d [BitVec.ofNat 32 l.state] ∧ VectorsSame s t f f' ∧ f'.lflags = f.lflags))

/-! ### The fabric (17 R355-R380) -/

/-- 17 R371, R372, R375, R377, R380: COLL, CBAR and CPUT check their communicator, parameters and object, are numbered, and join the
communicator's operations; COLL and CPUT end a region. CTREE answers from the communicator's trees, derived when there are none. That
an instruction waits while the flight has an access open is the model's choice (log 13): the rules say only a release.
Model's choices: log 13, 48. -/
def Obligations.CollectiveInstructions : Prop :=
  ∀ (s : State) (f : Flight) (g : Fragment) (d : Option Opnd) (e a b : Opnd) (kind : CollKind), Issues s f g → Unwatched s f →
    MayName f g (optGroup d ++ [(e, 1), (a, 8), (b, 2)]) → (∀ x, d = some x → IsScalar x) → IsScalar e →
    let c := ctxOf s f g
    let par := (List.range 8).map fun k => regWord c a k 0
    let obj := srcS2 c b
    let good : Prop := objOk s f.pid f.core obj = true
    let joins (t : State) (f' : Flight) (g' : Fragment) : Prop :=
      (d = none → g'.em = g.em) ∧ f'.seqNo = f.seqNo + 1 ∧ OptWrite s t f f' g g' d f.seqNo ∧ MemorySame s t
    (let n := (par.getD 5 0).toNat / 2 ^ 24
     (comm? s f.pid n = none → Faults (.coll kind d a b) s f g 0x19 0) ∧
     ∀ cm, comm? s f.pid n = some cm →
      (collOk kind cm par = false → Faults (.coll kind d a b) s f g 0x19 0) ∧
      (collOk kind cm par = true → ¬ good → FaultsAt (.coll kind d a b) s s f g 0x19 0 obj) ∧
      (collOk kind cm par = true → good → 4 ≤ cm.colls.length → Stalls (.coll kind d a b) s f g .coll) ∧
      (collOk kind cm par = true → good → cm.colls.length < 4 → openFor f g.owned = true →
        Stalls (.coll kind d a b) s f g .order) ∧
      (collOk kind cm par = true → good → cm.colls.length < 4 → openFor f g.owned = false → flightOpen f = false →
        cm.goneWith false cm.collNo = none →
        GoesOn (.coll kind d a b) s g f (g.pc + 8) fun t f' g' => joins t f' g' ∧ EnteredAs g g' ∧
          t.outbox = s.outbox ++ [.joined f.pid n cm.collNo (some kind) par] ∧
          ∃ o, comm? t f.pid n = some { cm with colls := cm.colls ++ [o], collNo := cm.collNo + 1 } ∧ o.num = cm.collNo ∧
            o.kind = kind ∧ o.par = par ∧ o.obj = obj ∧ o.fid = s.cur.1 ∧ o.seq = f.seqNo ∧ o.begun = false ∧ o.stalls = [])) ∧
    (let n := (srcS c a).toNat
     let i : Instr := .cbar d a b
     let q (x : TreeQuery) : Instr := .ctree x e a b
     (256 ≤ n ∨ comm? s f.pid n = none → Faults i s f g 0x19 0 ∧ ∀ x, Faults (q x) s f g 0x19 0) ∧
     ∀ cm, n < 256 → comm? s f.pid n = some cm →
      (¬ good → FaultsAt i s s f g 0x19 0 obj) ∧
      (good → openFor f g.owned = true → Stalls i s f g .order) ∧
      (good → openFor f g.owned = false → cm.goneWith true cm.cbarNo = none → GoesOn i s g f (g.pc + 8) fun t f' g' =>
        joins t f' g' ∧ t.outbox = s.outbox ++ [.joined f.pid n cm.cbarNo none []] ∧
          ∃ o, comm? t f.pid n = some { cm with cbars := cm.cbars ++ [o], cbarNo := cm.cbarNo + 1 } ∧ o.num = cm.cbarNo ∧
            o.obj = obj ∧ o.fid = s.cur.1 ∧ o.seq = f.seqNo ∧ o.agree = linksDown s) ∧
      (let cd := derivedOnce s cm
       let tr := (srcS c b).toNat
       let j := (cm.rank + cm.count - tr % cm.count) % cm.count
       let answers (x : TreeQuery) (w : Word) : Prop :=
        CompletesIn (q x) s f g { s with comms := mset s.comms (ckey f.pid n) cd } f (g.pc + 8) fun t f' g' =>
          ScalarWrite f f' g g' e [w] ∧ VectorsSame s t f f' ∧ f'.lflags = f.lflags
       answers .count (BitVec.ofNat 32 cd.planes.length) ∧ (∀ p v, cd.derived = some (p, v) → answers .version v) ∧
         answers .plane (match cd.planes[tr]? with | some p => BitVec.ofNat 32 p | none => 0xFFFF_FFFF) ∧
         answers .parent (if cd.planes.length ≤ tr ∨ j = 0 then 0xFFFF_FFFF
           else BitVec.ofNat 32 (((j - 1) / 2 + tr) % cm.count)))) ∧
    (let n := (par.getD 5 0).toNat / 2 ^ 11 % 2 ^ 8
     let i : Instr := .cput d a b
     (comm? s f.pid n = none → Faults i s f g 0x19 0) ∧
     ∀ cm, comm? s f.pid n = some cm →
      (putOk cm par = false → Faults i s f g 0x19 0) ∧
      (putOk cm par = true → ¬ good → FaultsAt i s s f g 0x19 0 obj) ∧
      (putOk cm par = true → good → openFor f g.owned = true → Stalls i s f g .order) ∧
      (let cd := derivedOnce s cm
       let rank := (par.getD 5 0).toNat % 2 ^ 11
       ∀ bs, putOk cm par = true → good → openFor f g.owned = false → flightOpen f = false → cd.planes ≠ [] →
        (∀ x ∈ s.comms, ∀ y ∈ x.2.puts, y.sent = false → y.fid ≠ s.cur.1 ∨ y.frag ≠ g.num) → unitRuns s f.pid f.gid .bridle = true →
        (∀ s', s' = { s with flights := s'.flights, comms := s'.comms, nextId := s'.nextId, work := s'.work } → ∃ s2,
          engReads s' ⟨none, f.pid, f.core, decide (g.level ≠ 0)⟩ (units (parPair par 0) (par.getD 4 0).toNat) = (.got bs, s2) ∧
            s2 = { s' with bridTlb := s2.bridTlb }) →
        GoesOn i s g f (g.pc + 8) fun t f' g' => joins t f' g' ∧ EnteredAs g g' ∧
          t.outbox = s.outbox ++ [.put rank ⟨(cm.members.getD rank (0, 0)).2, parPair par 2, parPair par 6, bs.flatten,
            decide ((par.getD 5 0).toNat / 2 ^ 19 % 2 = 1)⟩] ∧
          ∃ o cm', comm? t f.pid n = some cm' ∧ o ∈ cm'.puts ∧ o.id = s.nextId ∧ o.sent = true ∧ o.obj = obj ∧ o.seq = f.seqNo))

/-- 17 R357-R366, R372-R379: the events of the fabric. A chunk's first stage sends its subtree's value on to the parent, its second
sends the result on to the children and writes it where this member receives it; a joined barrier, an acknowledged put and an arriving
put count into their objects, but a barrier not before the agreement that it waits for; a member that leaves ends the open collectives
and barriers, and one that has ended an instance ends that one; link changes and messages set the table, and an agreement among equal
versions of every member derives the trees again, on which the disturbed collective alone goes on.
Model's choices: log 48. -/
def Obligations.FabricEvents : Prop :=
  (∀ (s s1 : State) (pid n i : Nat) (c : Comm) (o : CollOp) (r : List CollOp) (peers : List (Nat × List Nat)) (ty : CTy)
      (stage : Bool) (bs : List (List Byte)),
    comm? s pid n = some c → c.colls = o :: r → o.begun = true → unitRuns s pid o.gid .bridle = true → c.agree = false →
    (∀ x ∈ o.stalls, x.1 ≠ i) → i < chunkCount o.kind c.count o.par → c.running ≠ [] → cty? (parBits o.par 5 23 20) = some ty →
    let ag := markAgent o pid
    let len := (chunkAt o.par i).2.2
    let elems := elemsBy c ty.size bs.flatten peers
    let passed : State :=
      if 2 ≤ mark s1 ag c.marks i stage ∨ sendsTo o c i stage = [] then s1
      else send s1 (.chunk pid n i stage (chunkTree c i) (sendsTo o c i stage) (stageVals o c i stage elems ty))
    let counted (s : State) : State := setMark s ag c.marks i stage 3
    markStop s ag c.marks i = none → mark s ag c.marks i stage ≠ 3 → peersOk o c i stage peers = true →
    (c.rank ∈ stageNeeds o c i stage → engReads s (o.agent pid) (units (chunkSrc o i) len) = (.got bs, s1)) →
    (c.rank ∉ stageNeeds o c i stage → bs = [] ∧ s1 = s) →
    let next (u : State) : Prop := exec (.collChunkStage pid n i stage peers) s = .next (endIfDone u pid n o)
    let ended (u : State) : State := modComm (counted u) pid n fun c =>
      { c with colls := c.colls.map fun x => if x.id = o.id then { x with chunks := x.chunks + 1 } else x }
    (stage = false → next (counted passed)) ∧
    (stage = true → mark s ag c.marks i false = 3 →
      (chunkTo o c.rank i = false → next (ended passed)) ∧
      (chunkTo o c.rank i = true → ∀ ps s3,
        chunkPuts passed pid o c i (chunkResult o c i elems ty) = (.got ps, s3) → s3.poison = [] →
        next (ended (fillTouched (workPuts s3 o.id ps) ps))))) ∧
  (∀ (s : State) (pid n k : Nat) (c : Comm) (o : CbarOp) (r : List CbarOp), comm? s pid n = some c → c.cbars = o :: r →
    (o.agree = true → exec (.cbarInstanceDone pid n) s = .next s) ∧
    (o.agree = false → frozen s pid = false → savedGang s o.gid = false → objKey s pid o.core o.obj = .inr k →
      poisonedIn s k 16 = false → NoWaiters s k → readNat s (k + 10) 2 + 1 ≤ readNat s (k + 8) 2 →
      ∃ t, exec (.cbarInstanceDone pid n) s = .next t ∧ comm? t pid n = some { c with cbars := r } ∧ t.flights = s.flights ∧
        MemorySame (writeBytes s k (updatedObject s k 0 0 1)) t)) ∧
  (∀ (s : State) (pid n k : Nat) (c : Comm) (o : PutOp) (st : Nat), comm? s pid n = some c → o ∈ c.puts →
    (∀ x ∈ c.puts, x.id = o.id → x = o) → o.sent = true → frozen s pid = false → savedGang s o.gid = false →
    objKey s pid o.core o.obj = .inr k →
    poisonedIn s k 16 = false → NoWaiters s k → readNat s (k + 10) 2 + 1 ≤ readNat s (k + 8) 2 →
    let gone (t : State) : Prop := comm? t pid n = some { c with puts := c.puts.filter fun x => x.id ≠ o.id }
    (∃ t, exec (.cputAck pid n o.id true st) s = .next t ∧ gone t ∧ t.flights = s.flights ∧
      MemorySame (writeBytes s k (updatedObject s k 0 0 1)) t) ∧
    (∀ f, flight? s o.fid = some f → f.exited ≠ allLanes → f.afq.length < 16 →
      ∃ t f', exec (.cputAck pid n o.id false st) s = .next t ∧ gone t ∧ flight? t o.fid = some f' ∧
        f' = { f with afq := f.afq ++ [⟨0x1A, st, 0, o.obj, o.pc, o.seq, none⟩] } ∧
        MemorySame (writeNat s (k + 12) 4 (readNat s (k + 12) 4 ||| 2)) t)) ∧
  (∀ (s s1 : State) (p : RemotePut) (k : Nat), part? s p.pid ≠ none → frozen s p.pid = false → namesCore p.robj = true →
    p.robj.toNat % 16 = 0 → windowKey s p.pid 0 p.robj = some k →
    landPut s ⟨none, p.pid, p.robj.toNat / 2 ^ 30 % 4 * 48 + p.robj.toNat / 2 ^ 22 % 256, false⟩ p.nofe
      ((units p.rdst p.data.length).map fun u => (u.1, (p.data.drop (u.1 - p.rdst).toNat).take u.2)) = (s1, true) →
    poisonedIn s1 k 16 = false → storeOpen s1 none k = false → NoWaiters s1 k →
    readNat s1 (k + 10) 2 + 1 ≤ readNat s1 (k + 8) 2 → ∃ t, exec (.cputRemoteArrival p) s = .next t ∧ t.outbox = s1.outbox ++
        forwardMsgs s1.forwards k (updatedObject s1 k p.data.length p.data.length 1) ++ [.ack true 0] ∧
      MemorySame (writeBytes s1 k (updatedObject s1 k p.data.length p.data.length 1)) t) ∧
  (∀ (s : State) (pid n rank status : Nat) (c : Comm) (one : Option (Bool × Nat)), comm? s pid n = some c →
    ¬(status = 1 ∨ (rank < c.count ∧ rank ≠ c.rank ∧ 2 ≤ status ∧ status ≤ 5)) →
    exec (.memberLeft pid n ⟨rank, status, one⟩) s = .next s) ∧
  (∀ (s : State) (pid n rank status : Nat) (c : Comm), comm? s pid n = some c →
    status = 1 ∨ (rank < c.count ∧ rank ≠ c.rank ∧ 2 ≤ status ∧ status ≤ 5) → frozen s pid = false →
    (∃ t, exec (.memberLeft pid n ⟨rank, status, none⟩) s = .next t ∧ comm? t pid n = some { c with
      colls := [], cbars := [], agree := c.agree && c.colls.isEmpty, restart := if c.colls = [] then c.restart else [] }) ∧
    (∀ bar k,
      (k < (if bar then c.cbarNo else c.collNo) → (∀ x ∈ c.colls, ∀ y ∈ c.colls, x.id = y.id → x.num = y.num) →
        (∀ x ∈ c.cbars, ∀ y ∈ c.cbars, x.id = y.id → x.num = y.num) →
        ∃ t c', exec (.memberLeft pid n ⟨rank, status, some (bar, k)⟩) s = .next t ∧ comm? t pid n = some c' ∧ c'.puts = c.puts ∧ c'.failed = c.failed ∧
        c'.colls = (if bar then c.colls else c.colls.filter fun o => o.num ≠ k) ∧
        c'.cbars = if bar then c.cbars.filter fun o => o.num ≠ k else c.cbars) ∧
      ((if bar then c.cbarNo else c.collNo) ≤ k →
        ∃ c', c' = { c with failed := (bar, k, status) :: c.failed.filter fun x => ¬(x.1 = bar ∧ x.2.1 = k) } ∧
          exec (.memberLeft pid n ⟨rank, status, some (bar, k)⟩) s = .next { s with comms := mset s.comms (ckey pid n) c' }))) ∧
  (∀ (s : State) (l : LinkId) (up : Bool) (sq : BitVec 16),
    (ownLink s l = true → (linkState s l).1 ≠ up → ∃ t, exec (.linkStateChange l up) s = .next t ∧
      linkState t l = (up, (linkState s l).2 + 1) ∧ (∀ x, x ≠ l → linkState t x = linkState s x) ∧
      t.outbox = s.outbox ++ [.link l up ((linkState s l).2 + 1)] ∧ MemorySame s t) ∧
    (0 < (sq - (linkState s l).2).toInt → ∃ t, exec (.linkStateMessage l up sq) s = .next t ∧ linkState t l = (up, sq) ∧
      (∀ x, x ≠ l → linkState t x = linkState s x) ∧ t.linkMsgs = s.linkMsgs + 1 ∧ t.outbox = s.outbox) ∧
    ((sq - (linkState s l).2).toInt ≤ 0 → exec (.linkStateMessage l up sq) s = .next s)) ∧
  (∀ (s : State) (pid n : Nat) (c c1 : Comm) (o : CollOp) (r : List CollOp) (msgs : List (LinkId × Bool × BitVec 16))
      (vers : List Word) (peers : List Nat), comm? s pid n = some c → c.agree = true → c.colls = o :: r → frozen s pid = false →
    unitRuns s pid o.gid .bridle = true →
    let s1 := msgs.foldl (fun s m => linkMessage s m.1 m.2.1 m.2.2) s
    comm? s1 pid n = some c1 →
    let s2 := send s1 (exchangeMsg s1 pid n c1)
    let s3 := modComm s2 pid n fun _ => derive' s2 c1
    let all := List.range (chunkCount o.kind c1.count o.par)
    let planes := derivePlanes s1 (c1.members.map (·.1)) (if c1.maxtrees = 0 then 36 else c1.maxtrees)
    let same : Prop := vers.length + 1 = c1.count ∧ ∀ v ∈ vers, v = linkVersion s1
    let left := all.filter fun i => ¬(mark s3 (markAgent o pid) c1.marks i true = 3 ∧ i ∈ peers)
    (atBoundary s pid c = false → exec (.agreement pid n ⟨msgs, vers⟩ peers) s = .next s) ∧
    (atBoundary s pid c = true → ¬ same → exec (.agreement pid n ⟨msgs, vers⟩ peers) s = .next s2) ∧
    (atBoundary s pid c = true → same → planes ≠ [] → (∀ i ∈ all, markStop s3 (markAgent o pid) c1.marks i = none) → left ≠ [] →
      ∃ t c', exec (.agreement pid n ⟨msgs, vers⟩ peers) s = .next t ∧ comm? t pid n = some c' ∧ c'.agree = false ∧
        (∀ x ∈ c'.cbars, x.agree = false) ∧ c'.colls.map (·.id) = c.colls.map (·.id) ∧
        c'.derived = some (planes, linkVersion s1) ∧ c'.running = planes ∧ t.links = s1.links ∧ s2.outbox <+: t.outbox ∧
        c'.restart = left)) ∧
  (∀ (s : State) (pid n : Nat) (c : Comm) (vers : List Word) (peers : List Nat), comm? s pid n = some c → c.agree = false →
    c.agreeing = true → frozen s pid = false → vers.length + 1 = c.count → (∀ v ∈ vers, v = linkVersion s) →
    let planes := derivePlanes s (c.members.map (·.1)) (if c.maxtrees = 0 then 36 else c.maxtrees)
    ∃ t c', exec (.agreement pid n ⟨[], vers⟩ peers) s = .next t ∧ comm? t pid n = some c' ∧
      c'.derived = some (planes, linkVersion s) ∧ c'.running = c.running ∧ c'.colls = c.colls ∧ ∀ x ∈ c'.cbars, x.agree = false)

/-! ### Scheduling, pre-emption and dispatch (15 R311-R325, 16 R348-R353, 19 R404-R410) -/

/-- 06 R153, 16 R350-R353, 19 R404-R408, 20 R442: a fragment ages and a slot switches; a request gives a running gang its deadline,
at which its fragments stop at a wait or at their region's start, and a masked handler gets more time, after which the partition freezes
for firmware to save; each unit stops and acknowledges, the contraction unit giving up a gang-scope instance's unstaged work and a die's
spilling the launch's ordered entries, but none for a held request; the last acknowledgement saves the gang, whose restoration lets it go on; the timer marks the partition's flights.
Model's choices: log 20, 21, 45, 50. -/
def Obligations.Preemption : Prop :=
  (∀ (s : State) (fid n : Nat) (f : Flight) (g : Fragment), flight? s fid = some f → frag? f n = some g → g.wait = .run →
    g.halted = false → g.stopped = false → g.ready + 1024 ≤ s.cycle →
    ∃ t f', exec (.fragmentAged fid n) s = .next t ∧ t = { s with flights := t.flights } ∧ flight? t fid = some f' ∧
      frag? f' n = some { g with aged := true } ∧ Siblings f f' g ∧ ∀ k, k ≠ fid → flight? t k = flight? s k) ∧
  (∀ (s : State) (cr slot : Nat) (x : SlotCur) (f : Flight) (g h : Fragment), mget? (Machine.core s cr).slots slot = some x →
    flight? s x.fid = some f → frag? f x.frag = some g → 64 ≤ g.run → isSaved s f = false → frozen s f.pid = false → h ∈ f.frags →
    h.num ≠ x.frag → mayTry s x.fid f h = true → h.wait = .run →
    ∃ t z, exec (.fragmentSwitch cr slot) s = .next t ∧ t = { s with cores := t.cores } ∧ z ∈ f.frags ∧ z.num ≠ x.frag ∧
      mayTry s x.fid f z = true ∧ mget? (Machine.core t cr).slots slot = some { x with frag := z.num }) ∧
  (∀ (s : State) (gid : Nat) (g : Gang) (l : Launch) (p : Part), mget? s.gangs gid = some g → g.state = .running →
    mget? s.launches (lkey g.pid g.launch) = some l → part? s g.pid = some p → frozen s g.pid = false →
    let halts := gangHalted s gid
    let asked : Gang := { g with
      state := .stopping, why := 1, acks := [], held := halts, pmaxAt := [], ran := g.ran + (s.cycle - g.started),
      deadline := if halts then none else some (s.cycle + p.preemptdl.toNat % 65536 * 2400) }
    (l.cancel = false → l.state < 2 → ∃ t, exec (.preemptRequest g.pid g.launch) s = .next t ∧
      t = { s with gangs := t.gangs } ∧ mget? t.gangs gid = some asked) ∧
    (∀ die d pid launch num rest v, mget? s.dies die = some d → d.list = (pid, launch, num) :: rest → d.headAt + 480000 ≤ s.cycle →
      frozen s pid = false → preemptVictim s die (prioOf s pid launch) = some v → v.pid = g.pid → v.id = g.launch →
      ∃ t, exec (.preemptWaitTimeout die) s = .next t ∧ t = { s with gangs := t.gangs } ∧ mget? t.gangs gid = some asked)) ∧
  (∀ (s : State) (gid fid : Nat) (g : Gang) (f : Flight) (h : Fragment) (p : Part), mget? s.gangs gid = some g →
    g.state = .stopping → g.why = 1 → g.held = false → gangHalted s gid = false → frozen s g.pid = false →
    (∃ c, g.deadline = some c ∧ c ≤ s.cycle) → flight? s fid = some f → f.gid = gid → f.frags = [h] →
    (s.flights.map (·.1)).Nodup → (∀ x ∈ s.flights, x.2.gid = gid → x.2.haltq = []) → part? s g.pid = some p → h.stopped = false →
    h.wait ≠ .gone → (∀ op, h.wait ≠ .perform op) →
    ∃ t h' g', exec (.preemptDeadline gid) s = .next t ∧ flight? t fid = some { f with frags := [h'] } ∧
      mget? t.gangs gid = some g' ∧ g' = { g with pmaxAt := g'.pmaxAt } ∧ t = { s with flights := t.flights, gangs := t.gangs } ∧
      (MayStop f h → (savedAtWait h = true → h' = { h with stopped := true, regionStop := false }) ∧
        (savedAtWait h = false →
          h' = { h with pc := h.rpc, em := h.rmask &&& h.owned, wait := .run, stopped := true, regionStop := true })) ∧
      (¬ MayStop f h → h.level ≤ 2 → h' = h ∧ (mget? g.pmaxAt fid = none → mget? g'.pmaxAt fid = some (s.cycle + p.desc.pmax)))) ∧
  (∀ (s : State) (fid : Nat) (f : Flight) (g : Gang) (p : Part) (c : Nat) (h : Fragment), flight? s fid = some f →
    gangOf s f = some g → g.state = .stopping → g.why = 1 → mget? g.pmaxAt fid = some c → c ≤ s.cycle → part? s f.pid = some p →
    frozen s f.pid = false → h ∈ f.frags → h.stopped = false → ¬ MayStop f h → h.level ≤ 2 →
    ∃ t p', exec (.preemptmaxExpiry fid) s = .next t ∧ t = { s with parts := t.parts, gangs := t.gangs, outbox := t.outbox } ∧
      (∀ k x, mget? s.gangs k = some x →
        mget? t.gangs k = some (if x.pid = f.pid ∧ x.state = .stopping ∧ x.why = 1 then { x with why := 4 } else x)) ∧
      part? t f.pid = some p' ∧ (p.freeze = .clear → p'.freeze = .asserted s.cycle) ∧ t.outbox = s.outbox ++ [.firmware f.pid 0]) ∧
  (∀ (s : State) (gid : Nat) (g : Gang) (u : StopUnit), mget? s.gangs gid = some g → g.state = .stopping → g.held = false →
    u ∉ g.acks → frozen s g.pid = false → unitStopped s gid g u = true → u ∈ [.vector, .copy, .bridle, .fresnel] →
    let g1 := { g with acks := u :: g.acks }
    let s1 := { s with gangs := mset s.gangs gid g1 }
    (collected s1 gid g1 = false → exec (.engineStopAck gid u) s = .next s1) ∧
    (collected s1 gid g1 = true → g.why = 1 → ∃ t, exec (.engineStopAck gid u) s = .next t ∧
      t = { s with gangs := t.gangs, tiles := t.tiles } ∧
      mget? t.gangs gid = some { g1 with state := .saved, deadline := none, pmaxAt := [], savedT := gangTiles s gid } ∧
      ∀ k x, (k, x) ∈ gangTiles s gid → (∀ z ∈ s.tiles, z.1 = k → z.2 = x) → mget? t.tiles k = some x.freed)) ∧
  (∀ (s : State) (gid : Nat) (g : Gang), mget? s.gangs gid = some g → g.state = .stopping → frozen s g.pid = false → .vector ∈ g.acks →
    let with' (u : StopUnit) : Gang := { g with acks := u :: g.acks }
    (g.held = true → g.engStop = false → ∀ u, exec (.engineStopAck gid u) s = .next s) ∧
    (g.held = false → .contraction ∉ g.acks → collected s gid (with' .contraction) = false →
      ∃ t, exec (.engineStopAck gid .contraction) s = .next t ∧
        t = { s with gangs := mset s.gangs gid (with' .contraction), tiles := t.tiles } ∧
        (∀ k, (∀ x, (k, x) ∉ gangTiles s gid) → mget? t.tiles k = mget? s.tiles k) ∧
        ∀ k x, (k, x) ∈ gangTiles s gid → (∀ y z, (k, y) ∈ s.tiles → (k, z) ∈ s.tiles → y = z) →
          mget? t.tiles k = some { x with insts := x.insts.map fun i =>
            let n := 3 * g.nflight
            if i.scope = 2 ∧ i.closed.isSome ∧ i.ty.isDxb = false ∧ i.progress % n ≠ 0 ∧ i.progress / n ≠ x.owner.elim 0 (·.2) then
              { i with progress := i.progress / n * n, frun := [], krun := [] }
            else i }) ∧
    (∀ die l, die < 4 → g.held = false → g.why ≠ 3 → .ordered die ∉ g.acks → launchGangs s g.pid g.launch = [(gid, g)] →
      mget? s.launches (lkey g.pid g.launch) = some l → collected s gid (with' (.ordered die)) = false →
      let cs := l.contribs.map fun x => if onDie s g.pid die x then { x with chip := false } else x
      l.pid = g.pid →
      if (cs.filter fun x => !x.chip).length ≤ (l.desc.elim 0 (·.spill)) / 32 then
        exec (.engineStopAck gid (.ordered die)) s = .next { s with
          gangs := mset s.gangs gid (with' (.ordered die))
          launches := mset s.launches (lkey g.pid g.launch) { l with contribs := cs } }
      else exec (.engineStopAck gid (.ordered die)) s = .next (frozenSave s g.pid))) ∧
  (∀ (s : State) (gid fid : Nat) (g : Gang) (f : Flight), mget? s.gangs gid = some g → g.state = .saved → g.why ≠ 2 →
    g.why ≠ 4 → frozen s g.pid = false → launchGangs s g.pid g.launch = [(gid, g)] → restorable s gid g = true →
    (∀ x ∈ s.comms, ∀ o ∈ x.2.colls, o.gid = gid → o.begun = false) → NothingOwed s → flight? s fid = some f → f.gid = gid → f.exited ≠ allLanes →
    ∃ t f' g', exec (.gangRestore gid) s = .next t ∧ flight? t fid = some f' ∧ mget? t.gangs gid = some g' ∧
      g'.state = .running ∧ g'.acks = [] ∧ g'.savedT = [] ∧ MemorySame s t ∧
      f' = { f with lpr := [], slpr := none, pos := f'.pos, frags := f'.frags } ∧
      f'.frags.map (fun h => (h.num, h.owned, h.em, h.pc, h.level, h.stopped)) =
        f.frags.map (fun h => (h.num, h.owned, h.em, h.pc, h.level, false)) ∧
      ∀ k y, flight? s k = some y → y.gid ≠ gid → flight? t k = some y) ∧
  (∀ (s : State) (pid k : Nat) (p : Part) (f : Flight), part? s pid = some p → p.tmrctl.getLsbD 0 = true →
    p.tmrctl.toNat / 2 ^ 16 % 2 ^ 24 ≠ 0 → frozen s pid = false → flight? s k = some f →
    ∃ t, exec (.timerPeriodEnd pid) s = .next t ∧ t = { s with flights := t.flights } ∧
      flight? t k = some (if f.pid = pid ∧ f.exited ≠ allLanes ∧ isSaved s f = false ∧ f.tvec ≠ 0 then { f with timer := true }
        else f))

/-- 15 R311-R325, 16 R348, R349, 06 R145: the front end accepts the oldest packet; the global dispatcher hands gangs of the first
launch to a die; a die places its head gang, whose flights start at the kernel's entry; a retiring gang that is quiet goes and the last
one ends its launch; a cancel ends when its gangs have stopped.
Model's choices: log 30, 35. -/
def Obligations.Dispatching : Prop :=
  (∀ (s : State) (pid : Nat) (p : Part) (o : Offer) (r : List Offer), part? s pid = some p → p.offers = o :: r →
    acceptOpen s pid = true → frozen s pid = false → o.graph = none → o.root = none → s.global.length = 5 →
    (∀ k q, o.queue = some k → mget? s.queues k = some q → q.prio < 4) →
    let reason := (checkLaunch { s with parts := mset s.parts pid { p with offers := r } } pid o.bytes false).1
    ∃ t p' l, exec (.launchAccept pid) s = .next t ∧ part? t pid = some p' ∧ p'.offers = r ∧
      p'.nextId = (if p.nextId + 1 = 0 then 1 else p.nextId + 1) ∧ mget? t.launches (lkey pid p.nextId.toNat) = some l ∧
      l.id = p.nextId.toNat ∧ l.queue = o.queue ∧ l.device = false ∧ l.tag = BitVec.ofNat 32 (fieldOf o.bytes 4 4) ∧
      l.reason = reason ∧ (reason ≠ 0 → l.state = 5) ∧ t.flights = s.flights ∧
      (reason = 0 → l.state = 0 ∧ ∃ q ∈ t.global, lkey pid p.nextId.toNat ∈ q)) ∧
  (∀ (s : State) (pid launch die n : Nat) (l : Launch) (d : Desc), mget? s.launches (lkey pid launch) = some l → l.desc = some d →
    globalHead s = some (lkey pid launch) → l.cancel = false →
    let key := lkey pid launch
    (d.resident = false → roomiest s ((List.range 4).filter fun k => 1 ≤ slotRoom s pid d k) = some die → 1 ≤ n → n ≤ 64 →
      n ≤ slotRoom s pid d die → l.handed + n ≤ l.gangs →
      ∃ t, exec (.globalDispatch pid launch die n) s = .next t ∧
        t = { s with launches := t.launches, dies := t.dies, global := t.global } ∧
        mget? t.launches key = some { l with handed := l.handed + n } ∧
        (mgetD t.dies die ⟨[], 0, 0⟩).list = (mgetD s.dies die ⟨[], 0, 0⟩).list ++
          (List.range n).map (fun k => (pid, launch, l.handed + k)) ∧
        (l.handed + n = l.gangs → ∀ q ∈ t.global, key ∉ q) ∧ (l.handed + n ≠ l.gangs → t.global = s.global)) ∧
    (d.resident = true → ∀ s1, placeAll d key l.gangs 0 s = some s1 → (∃ l1, mget? s1.launches key = some l1) →
      ∃ t l', exec (.globalDispatch pid launch die n) s = .next t ∧ mget? t.launches key = some l' ∧ l'.handed = l.gangs ∧
        (∀ q ∈ t.global, key ∉ q) ∧ t.gangs = s1.gangs ∧ t.flights = s1.flights)) ∧
  (∀ (s : State) (die : Nat) (dd : DieDisp) (pid launch num : Nat) (rest : List (Nat × Nat × Nat)) (l : Launch) (d : Desc)
      (quad off : Nat) (p : Part), mget? s.dies die = some dd → dd.list = (pid, launch, num) :: rest →
    spot s die (pid, launch, num) = some (l, d, quad, off) → l.pid = pid → l.id = launch → part? s pid = some p →
    ∃ t l' g, exec (.gangPlace die 0) s = .next t ∧ mget? t.dies die = some ⟨rest, 0, s.cycle⟩ ∧
      mget? t.launches (lkey pid launch) = some l' ∧ l'.placed = l.placed + 1 ∧ l'.state = max l.state 1 ∧
      mget? t.gangs s.nextId = some g ∧ g.pid = pid ∧ g.launch = launch ∧ g.num = num ∧ g.die = die ∧ g.quad = quad ∧
      g.offset = off ∧ g.state = .running ∧
      ∀ r i, r < d.nblock → i < d.nflight → ∃ f h, flight? t (s.nextId + 1 + r * d.nflight + i) = some f ∧ f.gid = s.nextId ∧
        f.pid = pid ∧ f.launch = launch ∧ f.rank = r ∧ f.idx = i ∧ f.core = rankCore die quad r ∧ f.slot = i % 4 ∧
        f.vregs = d.vregs ∧ f.exited = 0 ∧ f.frags = [h] ∧ h.num = 0 ∧ h.owned = allLanes ∧ h.pc = d.entry ∧ h.rpc = d.entry ∧
        h.region = 0 ∧ h.level = 0 ∧ h.wait = .run ∧ f.v = [] ∧ f.tvec = p.desc.vector ∧ f.seqNo = 0 ∧ f.fpmode = 0 ∧
        (∀ k, k < 96 → mgetD f.s k 0 =
          if k = 91 then BitVec.ofNat 32 (die * 2 ^ 30 + rankCore die quad 0 % 48 * 2 ^ 22 + off) else 0) ∧
        ∀ k, k < 96 → (h.em.getLsbD k = true ↔
          ((flightPoints d l.ext (num * (d.nflight * d.nblock * 96) + (r * d.nflight + i) * 96)).getD k none).isSome)) ∧
  (∀ (s : State) (gid : Nat) (g : Gang) (l : Launch), mget? s.gangs gid = some g → g.state = .retiring →
    frozen s g.pid = false → gangQuiet s gid = true → mget? s.launches (lkey g.pid g.launch) = some l → l.state < 2 →
    l.pid = g.pid → l.id = g.launch →
    ∃ t l', exec (.gangRetire gid) s = .next t ∧ mget? t.gangs gid = none ∧ (∀ x ∈ t.flights, x.2.gid ≠ gid) ∧
      mget? t.launches (lkey g.pid g.launch) = some l' ∧ l'.retired = l.retired + 1 ∧
      (l.isRoot = false → l.retired + 1 ≠ l.gangs → l'.state = l.state) ∧
      (l.isRoot = false → l.retired + 1 = l.gangs → l'.state = if l.fault.isSome then 4 else 2) ∧
      (l.isRoot = true → l.tree = 1 →
        l'.state = if l.fault.isSome then 4 else if l.cancel then 3 else if l.treeFlt.isSome then 4 else 2)) ∧
  (∀ (s : State) (pid launch : Nat) (l : Launch), mget? s.launches (lkey pid launch) = some l → l.cancel = true → l.state < 2 →
    frozen s pid = false → (∀ x ∈ launchGangs s pid launch, x.2.state = .saved ∨ collected s x.1 x.2 = true) →
    ∃ t l', exec (.cancelComplete pid launch) s = .next t ∧ mget? t.launches (lkey pid launch) = some l' ∧
      l'.state = (if l.fault.isSome then 4 else 3) ∧ ∀ x ∈ launchGangs s pid launch, mget? t.gangs x.1 = none)

/-! ### Queues (16 R335-R342) -/

/-- 16 R337, R341, R342, R344: a write of QNOTIFY waits for the device, the last one alone; one that the device reads announces packets or
overruns the ring, and the events of one queue are taken in their order (R345); a free slot maps the first READY queue of its class; a READY queue without one displaces the MAPPED queue of the
lowest priority below its own that was mapped first, and waits if there is none; and a quantum that has run out passes the slot on.
Model's choices: log 33, 44, 54. -/
def Obligations.QueueMapping : Prop :=
  ∀ (s : State) (pid k : Nat) (q : Queue), queue? s pid k = some q →
    let others (t : State) : Prop := ∀ j, j ≠ k → mget? t.queues j = mget? s.queues j
    let only (t : State) : Prop := t = { s with queues := t.queues } ∧ others t
    let read (w : Word) : Queue := { q with widx := w, bell := none }
    (∀ w, ∃ t, exec (.qnotifyWrite pid k w) s = .next t ∧ others t ∧ t = { s with queues := t.queues, events := t.events } ∧
      mget? t.queues k = some { q with bell := some w } ∧ t.events = if .bell k ∈ s.events then s.events else s.events ++ [.bell k]) ∧
    (∀ n w, taken s n = some (.bell k) → q.bell = some w → (w - q.r).toNat ≤ 2 ^ q.size ∨ q.state = .error →
      ∃ t, tender s n = .next t ∧ others t ∧ t = { s with queues := t.queues, events := s.events.filter (· ≠ .bell k) } ∧
        mget? t.queues k = some (if q.state = .idle ∧ w ≠ q.r then { read w with state := .ready, since := s.cycle } else read w)) ∧
    (∀ n w, taken s n = some (.bell k) → q.bell = some w → q.state ≠ .error → 2 ^ q.size < (w - q.r).toNat →
      ∃ t, tender s n = .next t ∧ mget? t.queues k = some { read w with state := .error, slot := none, line := none } ∧
        t.flights = s.flights) ∧
    (∀ n, taken s n = none → tender s n = .next s) ∧
    (∀ n e, (s.events.take 12)[n]? = some e → e.queue = some k → (taken s n = some e ↔ ∀ x ∈ s.events.take n, x.queue ≠ some k)) ∧
    (∀ (off : Nat) (v : DWord),
      (off ≠ 0 → exec (.registerWrite (.doorbell pid k) off v) s = .next s) ∧
      ∃ t, exec (.registerWrite (.doorbell pid k) 0 v) s = .next t ∧ others t ∧
        t = { s with queues := t.queues, events := t.events } ∧ mget? t.queues k = some { q with bell := some (loWord v) } ∧
        t.events = if .bell k ∈ s.events then s.events else s.events ++ [.bell k]) ∧
    (∀ slot, q.state = .ready → slotFits q.lat slot = true → mappedTo s slot = none → firstReady s q.lat (fun _ => true) = some (k, q) →
      ∃ t, exec (.queueMap pid k slot) s = .next t ∧ only t ∧
        mget? t.queues k = some { q with state := .mapped, slot := some slot, mappedAt := s.cycle }) ∧
    (∀ slot j v, q.state = .ready → mayTake s q = false → victim s q = some (j, v) → v.slot = some slot → j ≠ k →
      mget? s.queues j = some v → firstReady (unmap s j) q.lat (fun _ => true) = some (k, q) →
      ∃ t, exec (.queueDisplace pid k slot) s = .next t ∧ t = { s with queues := t.queues } ∧
        mget? t.queues k = some { q with state := .mapped, slot := some slot, mappedAt := s.cycle } ∧
        mget? t.queues j = some { v with state := .ready, slot := none, since := s.cycle }) ∧
    (∀ slot, victim s q = none → exec (.queueDisplace pid k slot) s = .next s) ∧
    (∀ n, (∀ x ∈ s.queues, x.2.mappedAt < 2 ^ 64) →
      let below (x : Nat × Queue) : Prop := x ∈ s.queues ∧ x.2.state = .mapped ∧ x.2.lat = q.lat ∧ q.prio < x.2.prio ∧ x.2.prio ≤ 3
      (∀ x ∈ s.queues, x.2.prio ≤ 3) →
      (victim s q = none ↔ ∀ x, ¬ below x) ∧
        (victim s q = some n → below n ∧
          ∀ x, below x → x.2.prio < n.2.prio ∨ (x.2.prio = n.2.prio ∧ n.2.mappedAt ≤ x.2.mappedAt))) ∧
    (∀ slot j v, mappedTo s slot = some (j, v) → v.mappedAt + 240000 ≤ s.cycle → j ≠ k → mget? s.queues j = some v →
      firstReady { (unmap s j) with queues := mdel (unmap s j).queues j } v.lat (fun x => x.prio = v.prio) = some (k, q) →
      mayTake (unmap s j) q = true →
      ∃ t, exec (.queueQuantumExpiry slot) s = .next t ∧ t = { s with queues := t.queues } ∧
        mget? t.queues k = some { q with state := .mapped, slot := some slot, mappedAt := s.cycle } ∧
        mget? t.queues j = some { v with state := .ready, slot := none, since := s.cycle })

/-- 16 R338-R340: each kind of packet at the head of a mapped queue: a launch is accepted, a graph opens its counter and offers its
roots, a signal is written, a wait passes or blocks and wakes, a barrier waits for the queue's work, a cancel names a launch; an
accepted packet moves the ring on, and a blocked one lets it go on when what it waits for has come, a wait where a tender core takes the
hit of its monitor.
Model's choices: log 31, 32, 60. -/
def Obligations.QueuePackets : Prop :=
  (∀ (s : State) (pid k : Nat) (q : Queue) (b : List Byte), headOf s pid k = some (q, b) → queue? s pid k = some q → q.pid = pid →
    s.poison = [] →
    let kind := fieldOf b 0 1
    let sub := fieldOf b 1 1
    let key (a : Acc) : Option Nat := feKey s pid a (BitVec.ofNat 64 (fieldOf b 8 8)) 8
    let moved (t : State) : Prop := ∃ q', queue? t pid k = some q' ∧ q'.r = q.r + 1 ∧ q'.widx = q.widx ∧
      (if q.r + 1 = q.widx then q'.state = .idle ∧ q'.slot = none else q'.state = .mapped ∧ q'.slot = q.slot)
    let blocked (t : State) (line : Option Nat) : Prop := t = { s with queues := t.queues } ∧
      queue? t pid k = some { q with state := .blocked, slot := none, head := b, line := line, met := false }
    let form (n : Nat) : Prop := sub < n ∧ zerosAt b 2 2 = true ∧ fieldOf b 8 8 % 8 = 0 ∧ zerosAt b 0x18 40 = true
    let m (a : Nat) : Nat := readNat s a 8
    let v := fieldOf b 0x10 8
    (kind = 1 ∨ kind = 2 → ∀ p, part? s pid = some p → ∃ t l, exec (.packetLaunch pid k) s = .next t ∧ moved t ∧
      mget? t.launches (lkey pid p.nextId.toNat) = some l ∧ l.id = p.nextId.toNat ∧ l.queue = some k ∧ l.pidx = q.r) ∧
    (kind = 0 ∨ 7 < kind → ∃ t, exec (.packetLaunch pid k) s = .next t ∧ moved t ∧ t.launches = s.launches) ∧
    (kind = 3 → graphForm b = true → graphReady s q b = true → ∀ roots,
      readRoots s pid (BitVec.ofNat 64 (fieldOf b 8 8)) (fieldOf b 0x10 4) = some roots →
      ∃ t n x, exec (.packetGraph pid k) s = .next t ∧ moved t ∧ mget? t.graphs n = some x ∧ x.pid = pid ∧ x.queue = k ∧
        x.count = fieldOf b 0x14 4 ∧ x.fault = false ∧ x.ended = false ∧ (∃ q', queue? t pid k = some q' ∧ q'.graph = some n) ∧
        ∃ p', part? t pid = some p' ∧ p'.offers = roots.map fun r => ⟨r, some k, q.r, none, some n⟩) ∧
    (kind = 3 → graphForm b = true → graphReady s q b = false → ∃ t, exec (.packetGraph pid k) s = .next t ∧ blocked t none) ∧
    (kind = 4 → form 2 → ∀ a, key .atomic = some a → ∃ t s1, exec (.packetSignal pid k) s = .next t ∧ moved t ∧
      s1 = writeNat s a 8 (if sub = 1 then (m a + v) % 2 ^ 64 else v) ∧ t = acceptPacket s1 k q b) ∧
    (kind = 5 → form 3 → ∀ a, key .read = some a →
      let met : Prop := if sub = 0 then v ≤ m a else if sub = 1 then m a = v else m a ≠ v
      (met → ∃ t, exec (.packetWait pid k) s = .next t ∧ moved t) ∧
      (¬ met → ∃ t, exec (.packetWait pid k) s = .next t ∧ blocked t (some a))) ∧
    (kind = 6 → zerosAt b 1 3 = true → zerosAt b 8 56 = true →
      (queueQuiet s k q = true → ∃ t, exec (.packetBarrier pid k) s = .next t ∧ moved t) ∧
      (queueQuiet s k q = false → ∃ t, exec (.packetBarrier pid k) s = .next t ∧ blocked t none)) ∧
    (kind = 7 → sub < 2 → zerosAt b 2 2 = true → zerosAt b 0xC 4 = true → v % 8 = 0 → zerosAt b 0x18 40 = true → sub = 0 →
      ∃ t, exec (.packetCancel pid k) s = .next t ∧ moved t ∧ ∀ l, knownLaunch s pid (fieldOf b 8 4) = some l → l.state < 2 →
        ∃ l', mget? t.launches (lkey pid (fieldOf b 8 4)) = some l' ∧ l'.cancel = true)) ∧
  (∀ (s : State) (pid k : Nat) (q : Queue), queue? s pid k = some q → q.state = .blocked → acceptOpen s pid = true →
    let announced : Prop := q.r ≠ q.widx
    let free (t : State) : Prop := ∃ q', queue? t pid k = some q' ∧ q'.r = q.r + 1 ∧ q'.widx = q.widx ∧ q'.line = none ∧ q'.head = [] ∧
      q'.state = if q.r + 1 = q.widx then .idle else .ready
    let rests (t : State) (st : QState) : Prop := t = { s with queues := t.queues, events := t.events } ∧
      queue? t pid k = some { q with state := st, since := s.cycle, head := [], line := none, met := false }
    (∀ a, q.line = some a → taken s (s.events.idxOf (.monitor k)) = some (.monitor k) → q.met = true ∨ waitMet s q.head a = true →
      ∃ t, exec (.waitMonitorHit pid k) s = .next t ∧ .monitor k ∉ t.events ∧ (announced → free t) ∧
        (¬ announced → rests t .idle)) ∧
    (∀ a, q.line = some a → taken s (s.events.idxOf (.monitor k)) = some (.monitor k) → q.met = false → waitMet s q.head a = false →
      exec (.waitMonitorHit pid k) s = .next { s with events := s.events.filter (· ≠ .monitor k) }) ∧
    (q.line = none → fieldOf q.head 0 1 = 6 → queueQuiet s k q = true → ∃ t, exec (.queueUnblock pid k) s = .next t ∧
      (announced → free t) ∧ (¬ announced → rests t .idle)) ∧
    (q.line = none → fieldOf q.head 0 1 = 3 → graphReady s q q.head = true → ∃ t, exec (.queueUnblock pid k) s = .next t ∧
      rests t (if q.r = q.widx then .idle else .ready)))

/-! ### The host and the firmware (22 R447-R454) -/

/-- 22 R447-R454: the host's accesses reach HBM outside a locked carve-out and its own memory; a register write takes the bits its
register lets it take, and a read answers them; the lock, the verification and a reset of boot; the attestation; the power and
temperature limits.
That a write of TMRCTL with period 0 or of PREEMPTDL with 0 leaves the field is the model's choice (log 63), and so is that a byte reads 0
after a reset (log 4).
Model's choices: log 4, 12, 14, 43, 44, 63. -/
def Obligations.HostAndBoot : Prop :=
  ∀ (s : State),
    let stat := s.bootctl.toNat % 8
    let status (b b' : DWord) (n : Nat) : Prop := b'.toNat % 8 = n ∧ b'.toNat / 8 = b.toNat / 8
    let base := s.bootctl.toNat / 2 ^ 16 % 2 ^ 32 * 65536
    let units := s.bootctl.toNat / 16 % 2 ^ 12
    (∀ (a : Nat) (data : List Byte),
      let n := data.length
      let reach : Prop := (a + n ≤ 0x90_0000_0000 ∨ (2 ^ 51 ≤ a ∧ a + n ≤ 2 ^ 52)) ∧ ∀ i, i < n → inCarveOut s (a + i) = false
      (¬ reach → ∀ w, ∃ t, exec (.hostAccess w a data) s = .next t ∧ t = { s with outbox := s.outbox ++ [.linkError] }) ∧
        (reach → s.poison = [] →
          (∃ t, exec (.hostAccess true a data) s = .next t ∧ MemorySame (writeBytes s a data) t ∧ t.flights = s.flights ∧
            t.parts = s.parts) ∧
          ∃ t, exec (.hostAccess false a data) s = .next t ∧ MemorySame s t ∧
            t.outbox = s.outbox ++ [.hostRead ((List.range n).map fun i => readByte s (a + i))])) ∧
    (∀ (pid : Nat) (p : Part) (v : DWord), part? s pid = some p →
      let writes (off : Nat) (q : Part → Prop) : Prop := ∃ t p', exec (.registerWrite (.mgmt pid) off v) s = .next t ∧
        t = { s with parts := t.parts } ∧ part? t pid = some p' ∧ q p' ∧ ∀ k, k ≠ pid → part? t k = part? s k
      let takes (r r' : DWord) (b : Nat → Prop) : Prop := ∀ i, i < 64 →
        (b i → r'.getLsbD i = v.getLsbD i) ∧ (¬ b i → r'.getLsbD i = r.getLsbD i)
      let f (lo n : Nat) : Nat := v.toNat / 2 ^ lo % 2 ^ n
      writes 0x00 (fun p' => p' = { p with frctl := p'.frctl } ∧ (∀ i, i < 64 → i ≠ 3 →
          (i = 0 ∨ (12 ≤ i ∧ i ≤ 51) ∨ (4 ≤ i ∧ i ≤ 7 ∧ f 4 4 < 11) → p'.frctl.getLsbD i = v.getLsbD i) ∧
          (¬(i = 0 ∨ (12 ≤ i ∧ i ≤ 51) ∨ (4 ≤ i ∧ i ≤ 7 ∧ f 4 4 < 11)) → p'.frctl.getLsbD i = p.frctl.getLsbD i)) ∧
          p'.frctl.getLsbD 3 = (p.frctl.getLsbD 3 && !v.getLsbD 3)) ∧
        writes 0x08 (fun p' => p' = { p with jnlctl := p'.jnlctl } ∧
          takes p.jnlctl p'.jnlctl fun i => i = 0 ∨ (12 ≤ i ∧ i ≤ 51) ∨ (1 ≤ i ∧ i ≤ 4 ∧ f 1 4 < 13)) ∧
        writes 0x18 (fun p' => p' = { p with jnltail := loWord v }) ∧
        writes 0x20 (fun p' => p' = { p with hrctl := p'.hrctl } ∧ takes p.hrctl p'.hrctl fun i => i ≤ 4 ∨ (12 ≤ i ∧ i ≤ 51)) ∧
        writes 0x30 (fun p' => p' = { p with tmrctl := p'.tmrctl } ∧
          takes p.tmrctl p'.tmrctl fun i => i = 0 ∨ (16 ≤ i ∧ i ≤ 39 ∧ f 16 24 ≠ 0)) ∧
        writes 0x38 (fun p' => p' = { p with preemptdl := p'.preemptdl } ∧
          takes p.preemptdl p'.preemptdl fun i => i ≤ 15 ∧ f 0 16 ≠ 0) ∧
        (∃ t p', exec (.registerWrite (.mgmt pid) 0x40 v) s = .next t ∧ p' = { p with hcmd := v } ∧ part? t pid = some p' ∧
          t = { s with parts := t.parts, events := if .ring pid ∈ s.events then s.events else s.events ++ [.ring pid] } ∧
          ∀ k, k ≠ pid → part? t k = part? s k) ∧
        let reads (off : Nat) (r : DWord) : Prop := windowReg s (.mgmt pid) off = r
        reads 0x00 p.frctl ∧ reads 0x08 p.jnlctl ∧ reads 0x10 (p.jnlhead.setWidth 64) ∧ reads 0x18 (p.jnltail.setWidth 64) ∧
          reads 0x20 p.hrctl ∧ reads 0x28 (p.hrhead.setWidth 64) ∧ reads 0x30 p.tmrctl ∧ reads 0x38 p.preemptdl ∧ reads 0x40 p.hcmd ∧
          (∀ off, 0x40 < off → off < 0x1000 → reads off 0) ∧ ∀ off, off < 0x40 → off % 8 ≠ 0 → reads off 0) ∧
    (∀ (w : Window) (off : Nat) (r : List Move), s.agenda = .other (.readRegister w off) :: r → ∃ t, step s = .next t ∧
      t.outbox = s.outbox ++ [.register (windowReg s w off)] ∧ MemorySame s t) ∧
    windowReg s .bootctl 0 = s.bootctl ∧
    (let r := windowReg s .pwrctl 0
     r.toNat % 2 ^ 12 = s.plim.toNat ∧ r.getLsbD 16 = s.thr ∧ r.toNat / 2 ^ 32 % 2 ^ 16 = s.pnow.toNat ∧
       r.toNat / 2 ^ 48 = s.tmax.toNat) ∧
    (∀ v : DWord, ∃ t, exec (.registerWrite .pwrctl 0 v) s = .next t ∧ t = { s with plim := t.plim, thr := t.thr } ∧
      t.plim.toNat = max 500 (min 2800 (v.toNat % 2 ^ 12)) ∧ t.thr = (s.thr && !v.getLsbD 16)) ∧
    (∀ v : DWord, ∃ t, exec (.registerWrite .bootctl 0 v) s = .next t ∧ t = { s with bootctl := t.bootctl } ∧
      (s.bootctl.getLsbD 3 = true → t.bootctl = s.bootctl) ∧
      (s.bootctl.getLsbD 3 = false → v.getLsbD 3 = false → ∀ i, i < 64 →
        t.bootctl.getLsbD i = if 4 ≤ i ∧ i ≤ 47 then v.getLsbD i else s.bootctl.getLsbD i)) ∧
    (∃ t, exec .bootLock s = .next t ∧ t = { s with bootctl := t.bootctl } ∧ (s.bootctl.getLsbD 3 = true → t = s) ∧
      (s.bootctl.getLsbD 3 = false → status (s.bootctl ||| 8) t.bootctl
        (if 1 ≤ units ∧ base + units * 65536 ≤ 0x90_0000_0000 then 1 else 3))) ∧
    (let h := readBytes s base 4096
     let key := (h.drop 0x10).take 1312
     let m := Config.sha3 (readBytes s (base + 4096) (fieldOf h 8 8))
     let trusted : Prop := Config.sha3 key = Config.fusedKeyHash ∧
       Config.mldsaVerify key ((h.drop 0x530).take 2420) (bytesOfNat 32 m.toNat) = true
     (stat ≠ 1 → exec .bootVerifyDone s = .next s) ∧
     (stat = 1 → ∃ t, exec .bootVerifyDone s = .next t ∧ t = { s with bootctl := t.bootctl, measured := t.measured } ∧
       (headerRight h units = false → status s.bootctl t.bootctl 4 ∧ t.measured = s.measured) ∧
       (headerRight h units = true → ¬ trusted → status s.bootctl t.bootctl 5 ∧ t.measured = s.measured) ∧
       (headerRight h units = true → trusted → status s.bootctl t.bootctl 2 ∧ t.measured = m))) ∧
    (∃ t, exec .reset s = .next t ∧
      t = { State.reset with agenda := s.agenda, free := s.free, nextId := s.nextId, package := s.package, outbox := s.outbox,
                             mem := t.mem, poison := t.poison } ∧
      (∀ a, 2 ^ 51 ≤ a → a < 2 ^ 52 → mgetD t.mem a 0 = mgetD s.mem a 0) ∧
      ∀ a, a < 2 ^ 51 ∨ 2 ^ 52 ≤ a → readByte t a = 0) ∧
    (∀ nonce : List Byte, (stat ≠ 2 → exec (.attest nonce) s = .next s) ∧
      (stat = 2 → nonce.length ≠ 32 → exec (.attest nonce) s = .next { s with outbox := s.outbox ++ [.completion 1] }) ∧
      (stat = 2 → nonce.length = 32 → ∃ r sig, exec (.attest nonce) s =
          .next { s with outbox := s.outbox ++ [.report (r ++ sig), .completion 0] } ∧ r.length = 128 ∧
        r.take 32 = bytesOfNat 32 s.measured.toNat ∧ (r.drop 64).take 32 = nonce ∧ sig = Config.mldsaSign r)) ∧
    (∀ power temp : BitVec 16,
      let measured (power : BitVec 16) : State :=
        { s with tmax := temp, pnow := power, thr := decide (s.thr = true ∨ s.plim.toNat < power.toNat ∨ 840 ≤ temp.toNat) }
      let hot (i : Instr) (power : BitVec 16) : Prop := ∃ t, exec i s = .next t ∧
        t = { measured power with parts := t.parts, outbox := s.outbox ++ [.thermal] } ∧
        ∀ k p, part? s k = some p → part? t k = some { p with freeze := if p.freeze = .clear then .asserted s.cycle else p.freeze }
      (temp.toNat < 920 → exec (.thermalPowerLimit power temp) s = .next (measured power) ∧ exec (.thermalShutdown temp) s = .next s) ∧
        (920 ≤ temp.toNat → hot (.thermalPowerLimit power temp) power ∧ hot (.thermalShutdown temp) s.pnow))

/-- 22 R452, R453, 16 R335, R340, R354, 17 R358, R359: the firmware's commands over partitions, queues and communicators: creation
with everything at its reset value, destruction, the reset of a queue in ERROR, and a migration that stops the job and leaves forwarding
entries; a write that reaches a page with one is also forwarded, and refused once the entry is gone, and one into the locked carve-out is a
link error. A tender core serves the commands of a ring in their order, each once the partition's earlier ones have completed, and the other
events as their meanings say. That JNLHEAD, JNLTAIL and TMRCTL are 0 after the creation is the model's choice (log 9): 16 R346 and 20 R442
give them no reset value. That a command goes into the ring of the partition that it names is the model's choice too (log 41).
Model's choices: log 6, 9, 41, 42, 44, 49. -/
def Obligations.Partitions : Prop :=
  ∀ (s : State),
    let answers (i : Instr) (n : Nat) : Prop := exec i s = .next { s with outbox := s.outbox ++ [.completion n] }
    let alive (pid : Nat) : Prop := ∃ p, part? s pid = some p ∧ p.destroyed = false
    let gone (i : Instr) : Prop := exec i s = .next s
    (∀ pid : Nat, inTurn s pid = true → gone (.destroy pid) ∧ (∀ q b, gone (.queueCreate pid q b)) ∧ (∀ q, gone (.queueReset pid q)) ∧
      (∀ n b, gone (.communicatorCreate pid n b)) ∧ gone (.codeInvalidate pid) ∧ gone (.scan pid) ∧ gone (.thaw pid) ∧
      ∀ d : CreateDesc, d.pid = pid → gone (.create d)) ∧
    (∀ d : CreateDesc, s.bootctl.toNat % 8 = 2 → ∀ p, part? s d.pid = some p → p.destroyed = true → inTurn s d.pid = false →
      answers (.create d) 3) ∧
    (∀ d : CreateDesc, s.bootctl.toNat % 8 = 2 → inTurn s d.pid = false → (∀ p, part? s d.pid = some p → p.destroyed = false) →
      let clash : Prop := (∃ p, part? s d.pid = some p) ∨ (∃ x ∈ s.parts, disjoint d x.2.desc = false) ∨
        56 < d.slots + (s.parts.map fun x => x.2.desc.slots).sum
      (createOk d = false → answers (.create d) 1) ∧ (createOk d = true → clash → answers (.create d) 2) ∧
        (createOk d = true → ¬ clash → ∃ t p, exec (.create d) s = .next t ∧
          t = { s with parts := mset s.parts d.pid p, cores := t.cores, outbox := s.outbox ++ [.completion 0] } ∧ p.desc = d ∧
          p.frctl = 0 ∧ p.jnlctl = 0 ∧ p.jnlhead = 0 ∧ p.jnltail = 0 ∧ p.hrctl = 0 ∧ p.tmrctl = 0 ∧ p.preemptdl = 50 ∧
          p.nextId = 1 ∧ p.freeze = .clear ∧ p.destroyed = false ∧ p.moving = none ∧
          ∀ c, c < 192 → d.cores.getLsbD c = true → ∃ k, k = Machine.core s c ∧ Machine.core t c =
            { Core.reset with lcache := k.lcache, parity := k.parity, icache := k.icache, tlb := k.tlb })) ∧
    (∀ pid : Nat, inTurn s pid = false → (part? s pid = none → answers (.destroy pid) 3) ∧
      (∀ p, part? s pid = some p → p.destroyed = false →
        (partIdle s pid = false → (∃ l ∈ s.launches, l.2.pid = pid ∧ l.2.state < 2) → ∃ t p', exec (.destroy pid) s = .next t ∧
          part? t pid = some p' ∧ p'.destroyed = true ∧ MemorySame s t ∧
          ∀ k l, mget? s.launches k = some l → l.pid = pid → l.state < 2 → ∃ l', mget? t.launches k = some l' ∧ l'.cancel = true) ∧
        (partIdle s pid = true → s.undef = [] → (∀ l ∈ s.launches, l.2.pid = pid → 2 ≤ l.2.state) →
          ∃ t, exec (.destroy pid) s = .next t ∧ part? t pid = none ∧ (∀ q ∈ t.queues, q.2.pid ≠ pid) ∧
          (∀ l ∈ t.launches, l.2.pid ≠ pid) ∧ t.outbox.getLast? = some (.completion 0) ∧
          ∀ a, a < 0x90_0000_0000 → p.desc.groups.getLsbD (a / 0x4_8000_0000) = true → inCarveOut s a = false → readByte t a = 0))) ∧
    (∀ (pid q : Nat) (b : List Byte), inTurn s pid = false →
      (¬ alive pid → answers (.queueCreate pid q b) 3 ∧ answers (.queueDestroy pid q) 3) ∧
      (alive pid → queueOk b = false → answers (.queueCreate pid q b) 1) ∧
      (alive pid → queueOk b = true → 4096 ≤ q ∨ (mget? s.queues q).isSome → answers (.queueCreate pid q b) 2) ∧
      (alive pid → queueOk b = true → q < 4096 → mget? s.queues q = none →
        (fieldOf b 0x0A 1 = 0 ∨ (s.queues.filter fun x => x.2.lat).length < 8) →
        ∃ t x, exec (.queueCreate pid q b) s = .next t ∧
          t = { s with queues := mset s.queues q x, outbox := s.outbox ++
            [.handle (BitVec.ofNat 64 (s.package * 2 ^ 52 + q * 2 ^ 40 + mgetD s.qgen q 0 * 2 ^ 24 + pid * 2 ^ 19)), .completion 0] } ∧
          x.pid = pid ∧ x.ring = BitVec.ofNat 64 (fieldOf b 0 8) ∧ x.size = fieldOf b 8 1 ∧ x.prio = fieldOf b 9 1 ∧
          x.state = .idle ∧ x.r = 0 ∧ x.widx = 0) ∧
      (alive pid → ∀ x, queue? s pid q = some x →
        (∃ t, exec (.queueDestroy pid q) s = .next t ∧ mget? t.queues q = none ∧
          mgetD t.qgen q 0 = (mgetD s.qgen q 0 + 1) % 65536 ∧ t.outbox = s.outbox ++ [.completion 0]) ∧
        (x.state ≠ .error → answers (.queueReset pid q) 0) ∧
        (x.state = .error → ∃ t, exec (.queueReset pid q) s = .next t ∧
          t = { s with queues := t.queues, events := t.events, outbox := s.outbox ++ [.completion 0] } ∧
          .bell q ∉ t.events ∧ .monitor q ∉ t.events ∧ (∃ w, w = x.bell.getD x.widx ∧ queue? t pid q =
            some { x with state := .idle, r := w, widx := w, slot := none, line := none, head := [], fromGraph := [], bell := none,
                          met := false })))) ∧
    (∀ (pid n : Nat) (b : List Byte), inTurn s pid = false →
      (¬ alive pid → answers (.communicatorCreate pid n b) 3 ∧ answers (.communicatorDestroy pid n) 3) ∧
      (256 ≤ n → alive pid → answers (.communicatorCreate pid n b) 1 ∧ answers (.communicatorDestroy pid n) 3) ∧
      (n < 256 → alive pid → ∀ c, comm? s pid n = some c → answers (.communicatorCreate pid n b) 2 ∧
        ∃ t, exec (.communicatorDestroy pid n) s = .next t ∧ comm? t pid n = none ∧
          t.outbox.getLast? = some (.completion 0)) ∧
      (n < 256 → alive pid → comm? s pid n = none → commOk b = false → answers (.communicatorCreate pid n b) 1) ∧
      (alive pid → comm? s pid n = none → n < 256 → commOk b = true → ∀ ms, commMembers s pid b = some ms →
        ∃ t c, exec (.communicatorCreate pid n b) s = .next t ∧
          t = { s with comms := mset s.comms (ckey pid n) c, outbox := s.outbox ++ [.completion 0] } ∧ c.members = ms ∧
          c.count = fieldOf b 0 4 ∧ c.rank = fieldOf b 4 2 ∧ c.maxtrees = fieldOf b 6 1 ∧ c.colls = [] ∧ c.cbars = [] ∧
          c.puts = [] ∧ c.derived = none)) ∧
    (∀ (pid : Nat) (pages : List Nat), inTurn s pid = false → (¬ alive pid → answers (.migration pid pages) 3) ∧
      (alive pid → (∀ g ∈ s.gangs, g.2.pid = pid → g.2.state = .saved) → ∃ t, exec (.migration pid pages) s = .next t ∧
        t = { s with parts := t.parts, forwards := s.forwards ++ pages.map (fun p => p / 65536 * 65536)
                     outbox := s.outbox ++ [.completion 0] } ∧ ∀ k, part? t k = part? s k) ∧
      (alive pid → frozen s pid = false → ∀ gid g l, mget? s.gangs gid = some g → g.pid = pid → g.state = .running →
        mget? s.launches (lkey pid g.launch) = some l → l.id = g.launch → l.pid = pid → l.state < 2 → l.cancel = false →
        ∃ t g' p', exec (.migration pid pages) s = .next t ∧ mget? t.gangs gid = some g' ∧ g'.state = .stopping ∧ g'.why = 1 ∧
          part? t pid = some p' ∧ p'.moving = some pages ∧ MemorySame s t)) ∧
    (∀ (pid : Nat) (pages : List Nat) (p : Part), part? s pid = some p → p.moving = some pages → p.destroyed = false →
      inSweep s pid = false → (∀ g ∈ s.gangs, g.2.pid = pid → g.2.state = .saved) →
      inTurn s pid = true ∧ (∀ ps, ps ≠ pages → gone (.migration pid ps)) ∧ ∃ t, exec (.migration pid pages) s = .next t ∧
        t = { s with parts := t.parts, forwards := s.forwards ++ pages.map (fun p => p / 65536 * 65536)
                     outbox := s.outbox ++ [.completion 0] } ∧ part? t pid = some { p with moving := none }) ∧
    (∀ (a : Nat) (data : List Byte),
      let left : Prop := ∃ p ∈ s.moved, p ≤ a ∧ a < p + 65536
      let locked : Prop := inCarveOut s a = true ∨ inCarveOut s (a + data.length - 1) = true
      (locked → exec (.forwardedWrite a data) s = .next { s with outbox := s.outbox ++ [.linkError] }) ∧
      (¬ locked → forwarded s a = false → ¬ left → exec (.forwardedWrite a data) s = .next s) ∧
      (¬ locked → forwarded s a = false → left →
        exec (.forwardedWrite a data) s = .next { s with outbox := s.outbox ++ [.refused a 2] }) ∧
      (¬ locked → forwarded s a = true → ∃ t, exec (.forwardedWrite a data) s = .next t ∧ MemorySame (writeBytes s a data) t ∧
        t.outbox = s.outbox ++ forwardMsgs s.forwards a data)) ∧
    (∀ (n : Nat) (e : Pending), taken s n = some e →
      let s1 : State := { s with events := s.events.filter (· ≠ e) }
      let rest (t : State) (r : Nat) : State := if ∃ c ∈ t.commands, c.ring = r then ringCommands t r else t
      (∀ pid block, e = .record pid block →
        tender s n = .next { s1 with outbox := s.outbox ++ [.faultEvent pid (BitVec.ofNat 64 block)] }) ∧
      (∀ i, e = .row i → tender s n = exec i s1) ∧
      ∀ r, e = .ring r → (s.commands.find? (fun c => c.ring = r) = none → tender s n = .next s1) ∧
        ∀ c, s.commands.find? (fun c => c.ring = r) = some c → c.begun = false →
          (∀ pid, commandRing c.instr = some pid → inTurn s pid = true → tender s n = .next (rest s1 r)) ∧
          (∀ pid t, commandRing c.instr = some pid → inTurn s pid = false → exec c.instr s1 = .next t → completed s1 t = true →
            tender s n = .next (rest { t with commands := t.commands.eraseP fun c => c.ring = r } r)))

/-- 04 R92, 19 R399, R412, R415, 20 R438-R440: a replay and a fail reach parked fragments and stalled copies; a thaw clears the line;
the firmware ends a frozen job as faulted; a scan sends its records and a restore writes them back, a wrong one ending the job; the trace
unit drops, counts and synchronises, and the sampler writes a record where the partition may write.
Model's choices: log 19, 40, 50. -/
def Obligations.JobControlAndTrace : Prop :=
  (∀ (s : State) (pid fid : Nat) (p : Part) (block : Option Nat) (f : Flight), part? s pid = some p → p.destroyed = false →
    inTurn s pid = false → NothingOwed s → (∀ x ∈ s.comms, ∀ o ∈ x.2.puts, o.stall = none ∧ o.sent = true) → flight? s fid = some f → f.pid = pid →
    let here (va : DWord) : Prop := ∀ b, block = some b → va.toNat / 2 ^ 22 = b
    let parkedIn (op : Nat) : Prop := ∃ o, mop? f op = some o ∧ ∃ l ∈ parkedLanes o, here l.va
    let waits (t : State) (w w' : Wait) : Prop := ∃ f', flight? t fid = some f' ∧ f'.frags.length = f.frags.length ∧
      ∀ (k : Nat) (g : Fragment), f.frags[k]? = some g → g.wait = w → f'.frags[k]? = some { g with wait := w' }
    (∃ t, exec (match block with | none => .replayPartition pid | some b => .replayBlock pid b) s = .next t ∧
      t.outbox = s.outbox ++ [.completion 0] ∧ MemorySame s t ∧ waits t .run .run ∧
      (∀ op, parkedIn op → waits t (.park op) (.replay op)) ∧ (∀ op, ¬ parkedIn op → waits t (.park op) (.park op)) ∧
      (∀ va k, here va → waits t (.packet va k) (.redo va)) ∧
      ∀ e id c va, cmd? s e id = some c → c.pid = pid → c.stall = some va → here va →
        cmd? t e id = some { c with stall := none }) ∧
    (∀ b, block = some b → (∀ e ∈ s.engines, ∀ c ∈ e.2.cmds, c.stall = none) → (∀ x ∈ s.comms, ∀ o ∈ x.2.colls, o.stalls = []) →
      ∃ t, exec (.failBlock pid b) s = .next t ∧ t.outbox = s.outbox ++ [.completion 0] ∧ MemorySame s t ∧ waits t .run .run ∧
        (∀ op, parkedIn op → waits t (.park op) (.failPark op)) ∧
        ∀ va k, here va → waits t (.packet va k) (.failPacket va k))) ∧
  (∀ (s : State) (pid fid : Nat) (p : Part) (f : Flight) (l : Launch), part? s pid = some p → p.destroyed = false →
    inTurn s pid = false → NothingOwed s → flight? s fid = some f → f.pid = pid → launchOf s f = some l →
    l.cancel = false →
    ∃ t f', exec (.thaw pid) s = .next t ∧ part? t pid = some { p with freeze := .clear } ∧ flight? t fid = some f' ∧
      f' = { f with dblFlt := none, frags := f'.frags } ∧
      f'.frags = (f.frags.map fun (g : Fragment) => if g.wait = .gone then { g with wait := .run } else g) ∧
      t.outbox = s.outbox ++ [.completion 0] ∧ MemorySame s t) ∧
  (∀ (s : State) (pid d : Nat), dblOf s pid = some d → frozen s pid = true →
    ∃ t p', exec (.firmwareEndsJob pid) s = .next t ∧ part? t pid = some p' ∧ p'.freeze = .clear ∧
      (∀ g, g ∈ s.gangs → g.2.pid = pid → mget? t.gangs g.1 = none) ∧
      ∀ k l, mget? s.launches k = some l → l.pid = pid → l.state < 2 →
        ∃ l', mget? t.launches k = some l' ∧ l'.state = 4 ∧ l'.fault = some (0x30, d, 0)) ∧
  (∀ (s : State) (pid : Nat) (p : Part), part? s pid = some p → p.destroyed = false → inTurn s pid = false →
    (∀ g ∈ s.gangs, g.2.pid = pid → g.2.why ≠ 4) →
    (frozen s pid = false → ∀ rs, exec (.scan pid) s = .next { s with outbox := s.outbox ++ [.completion 3] } ∧
      exec (.scanRestore pid rs) s = .next { s with outbox := s.outbox ++ [.completion 3] }) ∧
    (frozen s pid = true → exec (.scan pid) s =
        .next { s with outbox := s.outbox ++ (scanRecords s pid).map Msg.scan ++ [.completion 0] } ∧
      (∀ r fid f, headerOk r = true → fieldOf r 0 2 = 1 → recFlight s pid r = some (fid, f) → flight? s fid = some f →
        ∃ t f', exec (.scanRestore pid [r]) s = .next t ∧ flight? t fid = some f' ∧ f'.vregs = fieldOf r 0x14 4 ∧
          f'.seqNo = BitVec.ofNat 32 (fieldOf r 0x18 4) ∧ f'.fpmode = BitVec.ofNat 32 (fieldOf r 0x1C 4) ∧
          (∀ n, n < 96 → mgetD f'.s n 0 = BitVec.ofNat 32 (fieldOf r (0x30 + 4 * n) 4)) ∧
          (∀ n l, n < fieldOf r 0x14 4 → l < 96 →
            rowAt (mgetD f'.v n []) l = BitVec.ofNat 32 (fieldOf r (0x3620 + 384 * n + 4 * l) 4)) ∧
          t.outbox = s.outbox ++ [.completion 0]) ∧
      ∀ r rs, headerOk r = false → ∃ t, exec (.scanRestore pid (r :: rs)) s = .next t ∧
        t.outbox.getLast? = some (.completion 1) ∧
        ∀ k l, mget? s.launches k = some l → l.pid = pid → l.state < 2 →
          ∃ l', mget? t.launches k = some l' ∧ l'.state = 4)) ∧
  (∀ (s : State) (c : Nat), coreFrozen s c = false →
    let k := Machine.core s c
    (k.trcctl.getLsbD 0 = true → 256 ≤ k.trcN → k.trcDrop = none → ∃ t, exec (.traceSyncSet c) s = .next t ∧
      t = traceSync s c ∧ (Machine.core t c).trcN = 0) ∧
    (k.trcctl.getLsbD 0 = true → ∃ t, exec (.traceLostPacket c) s = .next t ∧ t.flights = s.flights ∧
      (k.trcDrop = none → (Machine.core t c).trcDrop = some 0) ∧ (k.trcDrop ≠ none → (Machine.core t c).trcDrop = none) ∧
      ∀ n, k.trcDrop = some (n + 1) →
        t = traceSync (tracePut { s with cores := mset s.cores c { k with trcDrop := none } } c 6 0 0 0 [min (n + 1) 0xFFFF_FFFF]) c) ∧
    (∀ fid f x, k.smpctl.getLsbD 0 = true → nextSample s c 0 = some (fid, f) → sampleOf s c 0 fid f = some x →
      (∀ x ∈ residents s c, x.2.slot = 0) →
      let a := k.smpctl.toNat / 2 ^ 12 % 2 ^ 40 * 4096 + 32 * (k.smphead.toNat % 2 ^ (k.smpctl.toNat / 2 ^ 8 % 16 + 7))
      ∃ t, exec (.sampleTick c) s = .next t ∧ (Machine.core t c).smphead = k.smphead + 1 ∧ t.flights = s.flights ∧
        (ownsPa s f.pid a = true ∧ ownsPa s f.pid (a + 31) = true → MemorySame (writeBytes s a (sampleRecord s c 0 fid f x)) t) ∧
        (ownsPa s f.pid a = false → MemorySame s t ∧ t.outbox = s.outbox ++ [.isolation f.pid (dw a)])))

/-! ### Reset, steps, encodings and memory -/

/-- 01 R6-R8, 22 R447-R449, R454, 17 R357: what reset leaves: no partition, launch, gang, flight, queue or communicator; every link up at
sequence 0; BOOTCTL 0; the power limit's value; every core and tile as its tables say; and memory in its canonical form.
Model's choices: log 1, 2, 3, 4, 5, 6, 7, 8, 10, 11, 12, 56. -/
def Obligations.ResetState : Prop :=
  let s := Sys2Proof.core.reset
  s.Canonical ∧ s.parts = [] ∧ s.launches = [] ∧ s.gangs = [] ∧ s.flights = [] ∧ s.queues = [] ∧ s.graphs = [] ∧ s.phases = [] ∧
    s.comms = [] ∧ s.sweeps = [] ∧ s.outbox = [] ∧ s.work = [] ∧ s.forwards = [] ∧ s.moved = [] ∧ s.events = [] ∧ s.commands = [] ∧
    s.bootctl = 0 ∧ s.thr = false ∧ s.plim = 2800 ∧
    (∀ l, linkState s l = (true, 0)) ∧
    (∀ c, (Machine.core s c).trcctl = 0 ∧ (Machine.core s c).smpctl = 0x40 ∧ ∀ b, mgetD (Machine.core s c).bcn b 0 = 0) ∧
    (∀ k, mgetD s.tiles k Tile.reset = Tile.reset) ∧ ∀ e, mget? s.engines e = none

/-- 02 R12, R38-R40, 06 R153, 16 R352: a move of a slot runs the instruction that its first fragment decodes at its PC, in a cycle of its
own (log 1, 2: the order of moves is the model's); where that fragment could not issue, the slot tries the next one. The word decoded is
the eight bytes at the PC's physical address where the instruction cache does not hold them, and one of its contents or memory's where it
does. An event of the agenda happens as its own meaning says; a command goes into its ring and an event of the tender cores waits for one of
them (16 R344, 22 R453); and with no move a cycle passes.
Model's choices: log 1, 2, 6, 41, 45, 54. -/
def Obligations.StepRunsDecodedInstruction : Prop :=
  (∀ (s u : State) (k slot fid n : Nat) (r : List Move) (rest : List (Nat × Nat)) (f : Flight) (g : Fragment) (w : DWord) (i : Instr),
    s.agenda = .slot k slot :: r →
    let s1 := { s with agenda := r, cycle := s.cycle + 1, free := s.free + 1 }
    let c := ctxOf u f g
    candidates s1 k slot = (fid, n) :: rest → flight? s fid = some f → frag? f n = some g → mayTry s fid f g = true →
    g.halted = false → stepAsked s fid n = false → f.haltq = [] → deadlinePassed s1 f = false →
    g.wait = .run ∨ (∃ y, g.wait = .stall y) → g.level ≠ 0 ∨ (f.afq = [] ∧ f.timer = false) →
    fetch { s1 with cur := (fid, n) } f g = (.word w, u) → decode (g.level != 0) w = .ok i →
    (∀ t, exec i (begin c) = .next t →
      let v := unissued u c t
      step s = if triesOn v fid n then onNext (tryEach rest v) (stamp s1) else .next (stamp s1 v)) ∧
    ∀ x, exec i (begin c) = .fault x → step s = .fault x) ∧
  (∀ (s u : State) (f : Flight) (g : Fragment) (e : TlbEntry), g.pc.toNat % 8 = 0 → canonical g.pc = true → inWindow g.pc = false →
    translate s f.pid f.core none (g.level != 0) .fetch g.pc = (.ok e, u) →
    let pa := e.phys (vaOf g.pc)
    let mem := BitVec.ofNat 64 (readNat u pa 8)
    let held := (Machine.core u f.core).icache
    ownsPa u f.pid pa = true → poisonedIn u pa 8 = false →
    ((∀ x ∈ held, x.1 ≠ pa) → (fetch s f g).1 = .word mem) ∧ ∃ w, (fetch s f g).1 = .word w ∧ (w = mem ∨ (pa, w) ∈ held)) ∧
  (∀ (s : State) (r : List Move) (i : Instr), s.agenda = .ev i :: r →
    let s1 := { s with agenda := r, free := s.free + 1 }
    let raised (e : Pending) : List Pending := if e ∈ s.events then s.events else s.events ++ [e]
    (happens i = false → step s = .next s1) ∧
    (happens i = true → ∀ k, commandRing i = some k →
      step s = .next { s1 with commands := s.commands ++ [⟨k, i, false⟩], events := raised (.ring k) }) ∧
    (happens i = true → commandRing i = none → tended s1 i = true → step s = .next { s1 with events := raised (.row i) }) ∧
    (happens i = true → commandRing i = none → tended s1 i = false → ∀ t, exec i s1 = .next t → step s = .next (stamp s1 t))) ∧
  (∀ (s : State) (r : List Move) (o : Other), s.agenda = .other o :: r →
    let s1 := { s with agenda := r, free := s.free + 1 }
    step s = onNext (otherDoes o s1) (stamp s1)) ∧
  (∀ s : State, s.agenda = [] → step s = .next { s with cycle := s.cycle + 1 }) ∧
  (∀ (s : State) (r : List Move) (n : Nat), s.agenda = .idle n :: r → step s = .next { s with agenda := r, cycle := s.cycle + n })

/-- 02 R14-R37, the worked encodings: words written out from the encoding tables decode to the instructions they stand for. -/
def Obligations.WordsOfTheSpecDecode : Prop :=
  decode true 0x0018_542F_0A00_0000 = .ok (.sadd .u32 (.s 10) (.s 11) (.imm 5)) ∧
    decode true 0xC683_0000_0000_002A = .ok (.smovi (.s 6) 42) ∧
    decode true 0x0170_0000_0000_0000 = .ok .exit ∧
    decode true 0x01F0_0000_0000_0240 = .ok (.fence .rel .device) ∧
    decode true 0x028A_C562_1000_0000 = .ok (.mand 22 22 2) ∧
    decode true 0x0538_4007_0000_1200 = .ok (.vcmp .s32 .lt (.s 8) (.v 1) (.imm 0)) ∧
    decode true 0x0830_A012_11C1_4200 = .ok (.vfma .f32 .rtz (.v 20) (.v 4) (.s 8) (.cst 1)) ∧
    decode true 0x0C00_0422_0400_0000 = .ok (.cpy none (.s 8) (.s 2)) ∧
    decode true 0x0D08_A040_3115_C000 = .ok (.lcon .f16 false (.s 20) (.v 16) (.v 24) (.s 21)) ∧
    decode true 0x9000_4010_0002_0248 = .ok (.ld .w .gang .wf false (.v 8) ⟨false, 2, 64⟩) ∧
    decode true 0x9180_3010_0000_82E0 = .ok (.aincb .relaxed false (.v 6) ⟨false, 2, 16⟩) ∧
    decode true 0xC303_1300_FFFF_FFFB = .ok (.brv .nez (.v 6) 3 0xFFFF_FFFB) ∧
    decode true 0x500A_0220_021B_0500 = .ok (.pVfadd ⟨10, .v 4, .f32, 0⟩ ⟨.vadd, ⟨13, .s 5, .u32, 0⟩⟩) ∧
    decode true 0x1610_0000_0000_0100 = .ok .tretRetry ∧
    decode true 0x163B_0000_0000_0000 = .ok (.smovp (.ss 0) 0) ∧
    decode true 0x1448_F442_0400_0000 = .ok (.coll .allreduce (some (.s 30)) (.s 16) (.s 2))

/-- 02 R12-R37: decoding and encoding agree: the word of every well-formed instruction decodes to that instruction, with every operand and
field at every value the encoding admits. -/
def Obligations.DecodeEncode : Prop :=
  ∀ (i : Instr) (w : DWord), i.wf = true → encode i = some w → decode true w = .ok i

/-- Log 4: every step keeps memory's canonical form: addresses rise strictly, and no listed byte is the one that an unlisted address
reads as.
Model's choices: log 4. -/
def Obligations.MemoryStaysCanonical : Prop :=
  ∀ s t : State, s.Canonical → step s = .next t → t.Canonical
end

