-- ==== Sys2Proof/Laws/Cells.lean ====
section
/-!
SUPPORT. Finite maps: what is read after a write, and that the keys stay rising; sets of numbers; lists in order of a key.
-/
namespace Sys2Proof.Machine

theorem mget?_mset {β : Type} (m : Cells β) (n k : Nat) (b : β) :
    mget? (mset m n b) k = if k = n then some b else mget? m k := by
  induction m with
  | nil => simp [mset, mget?, eq_comm]
  | cons x r ih =>
    obtain ⟨a, v⟩ := x
    unfold mset
    split
    · simp [mget?, eq_comm (a := n)]
    · split
      · subst_vars; simp only [mget?]; by_cases h : k = a
        · simp [h]
        · simp [h, Ne.symm h]
      · simp only [mget?, ih]
        by_cases h : a = k
        · subst h; simp_all [eq_comm]
        · simp [h]

@[simp] theorem mget?_mset_same {β : Type} (m : Cells β) (n : Nat) (b : β) : mget? (mset m n b) n = some b := by
  simp [mget?_mset]

theorem mget?_mset_ne {β : Type} (m : Cells β) {n k : Nat} (b : β) (h : k ≠ n) : mget? (mset m n b) k = mget? m k := by
  simp [mget?_mset, h]

theorem mgetD_mset {β : Type} (m : Cells β) (n k : Nat) (b d : β) :
    mgetD (mset m n b) k d = if k = n then b else mgetD m k d := by
  unfold mgetD
  rw [mget?_mset]
  split <;> rfl

theorem mget?_mdel {β : Type} (m : Cells β) (n k : Nat) : mget? (mdel m n) k = if k = n then none else mget? m k := by
  induction m with
  | nil => simp [mdel, mget?]
  | cons x r ih =>
    obtain ⟨a, v⟩ := x
    simp only [mdel, mget?]
    split
    · subst_vars; rw [ih]; by_cases h : k = a
      · simp [h]
      · simp [h, Ne.symm h]
    · simp only [mget?, ih]
      by_cases h : a = k
      · subst h; simp_all
      · simp [h]

theorem mgetD_mput {β : Type} [DecidableEq β] (d : β) (m : Cells β) (n k : Nat) (b : β) :
    mgetD (mput d m n b) k d = if k = n then b else mgetD m k d := by
  unfold mput
  split
  · unfold mgetD; rw [mget?_mdel]; split <;> simp_all
  · exact mgetD_mset m n k b d

theorem mget?_mmod {β : Type} (m : Cells β) (n k : Nat) (f : β → β) :
    mget? (mmod m n f) k = if k = n then (mget? m n).map f else mget? m k := by
  unfold mmod
  split
  · rename_i v h; rw [mget?_mset]; simp [h]
  · rename_i h; split <;> simp_all

theorem mget?_mmap {β : Type} (m : Cells β) (f : Nat → β → β) (k : Nat) :
    mget? (mmap m f) k = (mget? m k).map (f k) := by
  induction m with
  | nil => rfl
  | cons x r ih =>
    obtain ⟨a, v⟩ := x
    simp only [mmap, List.map_cons, mget?]
    split
    · subst_vars; rfl
    · exact ih

/-! ### Rising keys -/

/-- Every key of a map lies above `n`. -/
def above {β : Type} (n : Nat) (m : Cells β) : Prop := ∀ x ∈ m, n < x.1

theorem mSorted_cons {β : Type} (x : Nat × β) (m : Cells β) : mSorted (x :: m) = true ↔ above x.1 m ∧ mSorted m = true := by
  induction m generalizing x with
  | nil => simp [mSorted, above]
  | cons y r ih =>
    simp only [mSorted, Bool.and_eq_true, decide_eq_true_eq]
    constructor
    · rintro ⟨h, hs⟩
      refine ⟨?_, hs⟩
      intro z hz
      rcases List.mem_cons.1 hz with rfl | hz
      · exact h
      · exact Nat.lt_trans h (((ih y).1 hs).1 z hz)
    · rintro ⟨h, hs⟩
      exact ⟨h y (by simp), hs⟩

theorem mset_mem {β : Type} (m : Cells β) (n : Nat) (b : β) (x : Nat × β) (h : x ∈ mset m n b) : x = (n, b) ∨ x ∈ m := by
  induction m with
  | nil => simpa [mset] using h
  | cons y r ih =>
    obtain ⟨a, v⟩ := y
    unfold mset at h
    split at h
    · simpa using h
    · split at h
      · simp at h; rcases h with h | h <;> simp [h]
      · simp at h; rcases h with h | h
        · simp [h]
        · rcases ih h with h | h <;> simp [h]

theorem mdel_mem {β : Type} (m : Cells β) (n : Nat) (x : Nat × β) (h : x ∈ mdel m n) : x ∈ m := by
  induction m with
  | nil => simp [mdel] at h
  | cons y r ih =>
    obtain ⟨a, v⟩ := y
    unfold mdel at h
    split at h
    · exact List.mem_cons_of_mem _ (ih h)
    · simp at h; rcases h with h | h
      · simp [h]
      · simp [ih h]

theorem mSorted_mset {β : Type} (m : Cells β) (n : Nat) (b : β) (h : mSorted m = true) : mSorted (mset m n b) = true := by
  induction m with
  | nil => rfl
  | cons y r ih =>
    obtain ⟨a, v⟩ := y
    rw [mSorted_cons] at h
    unfold mset
    split
    · rename_i hn
      rw [mSorted_cons]
      refine ⟨?_, (mSorted_cons _ _).2 h⟩
      intro z hz
      rcases List.mem_cons.1 hz with rfl | hz
      · exact hn
      · exact Nat.lt_trans hn (h.1 z hz)
    · split
      · subst_vars; exact (mSorted_cons _ _).2 h
      · rw [mSorted_cons]
        refine ⟨?_, ih h.2⟩
        intro z hz
        rcases mset_mem r n b z hz with rfl | hz
        · simp; omega
        · exact h.1 z hz

theorem mSorted_mdel {β : Type} (m : Cells β) (n : Nat) (h : mSorted m = true) : mSorted (mdel m n) = true := by
  induction m with
  | nil => rfl
  | cons y r ih =>
    obtain ⟨a, v⟩ := y
    rw [mSorted_cons] at h
    unfold mdel
    split
    · exact ih h.2
    · rw [mSorted_cons]; exact ⟨fun z hz => h.1 z (mdel_mem r n z hz), ih h.2⟩

theorem mSorted_filter {β : Type} (m : Cells β) (p : Nat × β → Bool) (h : mSorted m = true) : mSorted (m.filter p) = true := by
  induction m with
  | nil => rfl
  | cons y r ih =>
    rw [mSorted_cons] at h
    rw [List.filter_cons]
    split
    · rw [mSorted_cons]; exact ⟨fun z hz => h.1 z (List.mem_filter.1 hz).1, ih h.2⟩
    · exact ih h.2

end Sys2Proof.Machine
end

