-- ==== Sys2Proof/Laws/Memory.lean ====
section
/-!
SUPPORT. Memory: what is read after a write, and that every memory operation keeps the canonical form (log 4).
-/
namespace Sys2Proof.Machine

theorem memWf_mput (m : List Host.Cell) (a : Nat) (b : Byte) (h : memWf m = true) : memWf (mput unlisted m a b) = true := by
  simp only [memWf, Bool.and_eq_true, List.all_eq_true] at h ⊢
  unfold mput
  split
  · exact ⟨mSorted_mdel m a h.1, fun c hc => h.2 c (mdel_mem m a c hc)⟩
  · rename_i hb
    refine ⟨mSorted_mset m a b h.1, fun c hc => ?_⟩
    rcases mset_mem m a b c hc with rfl | hc
    · simpa using hb
    · exact h.2 c hc

theorem memWf_putBytes (m : List Host.Cell) (a : Nat) (bs : List Byte) (h : memWf m = true) :
    memWf (putBytes m a bs) = true := by
  induction bs generalizing m a with
  | nil => exact h
  | cons b r ih => exact ih _ _ (memWf_mput m a b h)

theorem memWf_filter (m : List Host.Cell) (p : Host.Cell → Bool) (h : memWf m = true) : memWf (m.filter p) = true := by
  simp only [memWf, Bool.and_eq_true, List.all_eq_true] at h ⊢
  exact ⟨mSorted_filter m p h.1, fun c hc => h.2 c (List.mem_filter.1 hc).1⟩

@[simp] theorem alert_mem (s t : State) (a n : Nat) : (alert s t a n).mem = t.mem := by unfold alert; split <;> rfl

@[simp] theorem alert_undef (s t : State) (a n : Nat) : (alert s t a n).undef = t.undef := by unfold alert; split <;> rfl

@[simp] theorem writeBytes_mem (s : State) (a : Nat) (bs : List Byte) : (writeBytes s a bs).mem = putBytes s.mem a bs := by
  unfold writeBytes; exact alert_mem _ _ _ _

@[simp] theorem writeBytes_undef (s : State) (a : Nat) (bs : List Byte) :
    (writeBytes s a bs).undef = cut s.undef a (a + bs.length) := by
  unfold writeBytes; exact alert_undef _ _ _ _

theorem canonical_writeBytes (s : State) (a : Nat) (bs : List Byte) (h : s.Canonical) : (writeBytes s a bs).Canonical := by
  simp only [State.Canonical, writeBytes_mem]
  exact memWf_putBytes _ _ _ h

theorem canonical_writeNat (s : State) (a n x : Nat) (h : s.Canonical) : (writeNat s a n x).Canonical :=
  canonical_writeBytes s a _ h

theorem canonical_forget (s : State) (a z : Nat) (h : s.Canonical) : (forget s a z).Canonical := memWf_filter _ _ h

/-- A fold of operations each of which keeps memory's canonical form keeps it. -/
theorem canonical_foldl {α : Type} (k : State → α → State) (hk : ∀ s x, s.Canonical → (k s x).Canonical) (xs : List α) (s : State)
    (h : s.Canonical) : (xs.foldl k s).Canonical := by
  induction xs generalizing s with
  | nil => exact h
  | cons x r ih => exact ih _ (hk _ _ h)

theorem canonical_loseHit (s : State) (key len : Nat) (src : List Source) (x : Nat × Nat) (h : s.Canonical) :
    (loseHit key len src s x).Canonical := by
  have h1 := canonical_foldl (fun s y => match y.lost x key len with | some (a, z) => if a < z then forget s a z else s | none => s)
    (fun s y hs => by (repeat' split) <;> first | exact canonical_forget _ _ _ hs | exact hs) src s h
  unfold loseHit
  dsimp only
  split
  · exact canonical_forget _ _ _ h1
  · exact h1

theorem canonical_noteWrite (s : State) (who : Option (Nat × Nat)) (a n : Nat) (h : s.Canonical) : (noteWrite s who a n).Canonical := by
  simp only [noteWrite]
  refine canonical_foldl _ (fun s w hs => canonical_foldl _ (fun s x hs => canonical_loseHit _ _ _ _ _ hs) _ _ hs) _ _
    (canonical_foldl _ (fun s o hs => ?_) _ _ h)
  split
  · exact canonical_forget _ _ _ hs
  · exact hs

theorem canonical_devWrite (s : State) (pid a : Nat) (bs : List Byte) (h : s.Canonical) : (devWrite s pid a bs).Canonical := by
  unfold devWrite
  split
  · exact canonical_writeBytes _ _ _ h
  · exact h

theorem canonical_boSet (s : State) (o bits : Nat) (h : s.Canonical) : (boSet s o bits).Canonical :=
  canonical_writeNat s _ _ _ h

theorem canonical_reset : State.reset.Canonical := rfl

/-- A byte listed by none of the stretches of undefined bytes reads as memory says. -/
theorem readByte_defined (s : State) (a : Nat) (h : undefAt s.undef a = none) : readByte s a = mgetD s.mem a unlisted := by
  simp [readByte, h]

theorem mgetD_putBytes (m : List Host.Cell) (a k : Nat) (bs : List Byte) :
    mgetD (putBytes m a bs) k unlisted = if a ≤ k ∧ k < a + bs.length then bs.getD (k - a) 0 else mgetD m k unlisted := by
  induction bs generalizing m a with
  | nil =>
    have h : ¬(a ≤ k ∧ k < a + ([] : List Byte).length) := fun h => Nat.not_lt.mpr h.1 h.2
    rw [putBytes, if_neg h]
  | cons b r ih =>
    rw [putBytes, ih, mgetD_mput]
    by_cases h : k = a
    · subst h
      have h1 : ¬(k + 1 ≤ k ∧ k < k + 1 + r.length) := by omega
      rw [if_neg h1]
      simp
    · by_cases h1 : a + 1 ≤ k ∧ k < a + 1 + r.length
      · have h2 : a ≤ k ∧ k < a + (b :: r).length := by simp; omega
        rw [if_pos h1, if_pos h2]
        obtain ⟨j, hj⟩ : ∃ j, k - a = j + 1 := ⟨k - a - 1, by omega⟩
        have : k - (a + 1) = j := by omega
        simp [hj, this]
      · have h2 : ¬(a ≤ k ∧ k < a + (b :: r).length) := by simp; omega
        rw [if_neg h1, if_neg h2, if_neg h]

theorem undefAt_cutOne (a z k : Nat) (r : Nat × Nat × Nat) :
    undefAt (cutOne a z r) k = if a ≤ k ∧ k < z then none else if r.1 ≤ k ∧ k < r.2.1 then some r.2.2 else none := by
  obtain ⟨x, y, d⟩ := r
  have hf (u v w : Nat) (rest : List (Nat × Nat × Nat)) :
      undefAt ((u, v, w) :: rest) k = if u ≤ k ∧ k < v then some w else undefAt rest k := by
    by_cases h : u ≤ k ∧ k < v
    · rw [if_pos h]; simp [undefAt, List.find?, h.1, h.2]
    · rw [if_neg h]
      have : (decide (u ≤ k) && decide (k < v)) = false := by
        rw [Bool.and_eq_false_iff, decide_eq_false_iff_not, decide_eq_false_iff_not]; omega
      simp only [undefAt, List.find?, this]
  have h0 : undefAt [] k = none := rfl
  unfold cutOne
  by_cases h1 : x < min y a <;> by_cases h2 : max x z < y <;>
    simp only [h1, h2, if_true, if_false, List.nil_append, List.cons_append, hf, h0] <;>
    (repeat' split) <;> first | rfl | (exfalso; omega)

theorem undefAt_append (u v : List (Nat × Nat × Nat)) (k : Nat) :
    undefAt (u ++ v) k = (undefAt u k).or (undefAt v k) := by
  simp only [undefAt, List.find?_append]
  cases List.find? (fun r => decide (r.1 ≤ k) && decide (k < r.2.1)) u <;> simp

theorem undefAt_cut (u : List (Nat × Nat × Nat)) (a z k : Nat) :
    undefAt (cut u a z) k = if a ≤ k ∧ k < z then none else undefAt u k := by
  induction u with
  | nil => simp [cut, undefAt]
  | cons r u ih =>
    have h : cut (r :: u) a z = cutOne a z r ++ cut u a z := by simp [cut]
    have h' : undefAt (r :: u) k = (if r.1 ≤ k ∧ k < r.2.1 then some r.2.2 else none).or (undefAt u k) := by
      simp only [undefAt, List.find?]
      by_cases hk : r.1 ≤ k ∧ k < r.2.1
      · simp [hk]
      · have : (decide (r.1 ≤ k) && decide (k < r.2.1)) = false := by
          by_cases h1 : r.1 ≤ k <;> by_cases h2 : k < r.2.1 <;> simp_all
        simp [this, hk]
    rw [h, undefAt_append, undefAt_cutOne, ih, h']
    by_cases hk : a ≤ k ∧ k < z <;> simp [hk]

/-- READ AFTER WRITE: a written byte reads as written, and every other byte as before (05 R107, 00 R1). -/
theorem readByte_writeBytes (s : State) (a : Nat) (bs : List Byte) (k : Nat) :
    readByte (writeBytes s a bs) k =
      if a ≤ k ∧ k < a + bs.length then bs.getD (k - a) 0 else readByte s k := by
  unfold readByte
  rw [writeBytes_undef, writeBytes_mem, undefAt_cut, mgetD_putBytes]
  by_cases hk : a ≤ k ∧ k < a + bs.length <;> simp only [hk, if_true, if_false, and_self]

end Sys2Proof.Machine
end

