-- ==== Sys2Proof/Laws/Issue.lean ====
section
/-!
SUPPORT. The issuing fragment: what `commit`, `putFrag`, `retire` and `issue` do, said once.
-/
namespace Sys2Proof.Machine

theorem issuer?_eq (s : State) (f : Flight) (g : Fragment) (h : Issues s f g) : issuer? s = some (ctxOf s f g) := by
  simp [issuer?, h.1, h.2, ctxOf]

theorem frag?_num (f : Flight) (n : Nat) (g : Fragment) (h : frag? f n = some g) : g.num = n := by
  have := List.find?_some h
  simpa using this

theorem issues_num (s : State) (f : Flight) (g : Fragment) (h : Issues s f g) : s.cur.2 = g.num :=
  (frag?_num f _ g h.2).symm

theorem find?_map_put (l : List Fragment) (g : Fragment) (n : Nat) :
    (l.map fun h => if h.num == g.num then g else h).find? (fun h => h.num == n) =
      if n = g.num then (l.find? fun h => h.num == n).map (fun _ => g) else l.find? fun h => h.num == n := by
  induction l with
  | nil => simp
  | cons x r ih =>
    simp only [List.map_cons, List.find?_cons]
    by_cases hx : x.num = g.num <;> by_cases hn : n = g.num
    · simp [hx, hn]
    · have h1 : (g.num == n) = false := by simp; exact fun h => hn h.symm
      simp only [hx, beq_self_eq_true, if_true, h1, ih, hn, if_false]
    · have h1 : (x.num == n) = false := by simp; omega
      have h2 : (x.num == g.num) = false := by simpa using hx
      rw [if_pos hn] at ih ⊢
      simp only [h2, h1, ih, Bool.false_eq_true, if_false]
    · have h2 : (x.num == g.num) = false := by simpa using hx
      simp only [h2, if_false, hn, ih, Bool.false_eq_true]

theorem frag?_putFrag (f : Flight) (g : Fragment) (n : Nat) :
    frag? (putFrag f g) n = if n = g.num then (frag? f n).map (fun _ => g) else frag? f n :=
  find?_map_put f.frags g n

theorem frag?_putFrag_ne (f : Flight) (g : Fragment) {n : Nat} (h : n ≠ g.num) : frag? (putFrag f g) n = frag? f n := by
  simp [frag?_putFrag, h]

theorem frag?_putFrag_same (f : Flight) (g h : Fragment) (hg : frag? f g.num = some h) : frag? (putFrag f g) g.num = some g := by
  simp [frag?_putFrag, hg]

@[simp] theorem putFrag_s (f : Flight) (g : Fragment) : (putFrag f g).s = f.s := rfl
@[simp] theorem putFrag_v (f : Flight) (g : Fragment) : (putFrag f g).v = f.v := rfl
@[simp] theorem putFrag_t1 (f : Flight) (g : Fragment) : (putFrag f g).t1 = f.t1 := rfl
@[simp] theorem putFrag_t2 (f : Flight) (g : Fragment) : (putFrag f g).t2 = f.t2 := rfl
@[simp] theorem putFrag_lflags (f : Flight) (g : Fragment) : (putFrag f g).lflags = f.lflags := rfl
@[simp] theorem putFrag_asyncR (f : Flight) (g : Fragment) : (putFrag f g).asyncR = f.asyncR := rfl
@[simp] theorem putFrag_fpmode (f : Flight) (g : Fragment) : (putFrag f g).fpmode = f.fpmode := rfl
@[simp] theorem putFrag_clkhi (f : Flight) (g : Fragment) : (putFrag f g).clkhi = f.clkhi := rfl

theorem flight?_commit (c : Ctx) : flight? (commit c) c.st.cur.1 = some (putFrag c.f c.g) := by
  simp [flight?, commit]

theorem flight?_commit_ne (c : Ctx) {k : Nat} (h : k ≠ c.st.cur.1) : flight? (commit c) k = flight? c.st k := by
  simp [flight?, commit, mget?_mset, h]

@[simp] theorem commit_mem (c : Ctx) : (commit c).mem = c.st.mem := rfl
@[simp] theorem commit_undef (c : Ctx) : (commit c).undef = c.st.undef := rfl
@[simp] theorem commit_cur (c : Ctx) : (commit c).cur = c.st.cur := rfl
@[simp] theorem commit_free (c : Ctx) : (commit c).free = c.st.free := rfl

theorem readByte_commit (c : Ctx) (a : Nat) : readByte (commit c) a = readByte c.st a := rfl

/-- An instruction that may name its registers acts. -/
theorem issue_acts (ops : List (Opnd × Nat)) (priv : Bool) (body : Ctx → State) (s : State) (f : Flight) (g : Fragment)
    (h : Issues s f g) (hm : MayName f g ops) (hp : priv = true → g.level ≠ 0) :
    issue ops priv body s = .next (body (ctxOf s f g)) := by
  have h1 : (g.level == 0 && (priv || usesBank ops)) = false := by
    by_cases hl : g.level = 0
    · have := hm.1 hl
      cases priv
      · simp [hl, this]
      · exact absurd hl (hp rfl)
    · simp [hl]
  have h2 : List.any ops (outOfBound f.vregs) = false := hm.2
  simp [issue, issuer?_eq s f g h, ctxOf, h1, h2]

/-- Where no beacon watches, an instruction that completes leaves what its context holds. -/
theorem retire_unwatched (c0 c : Ctx) (h : (Machine.core c0.st c.f.core).bcn = []) : retire c0 c = commit (settled c) := by
  simp [retire, h]

/-- What an instruction that completed has left, if it changed only its flight and what `c.st` says outside it: the frame of most
instructions. -/
theorem retire_frame (s : State) (f : Flight) (g : Fragment) (c : Ctx) (pc : DWord) (hi : Issues s f g)
    (hu : (Machine.core s c.f.core).bcn = []) (hcur : c.st.cur = s.cur) (hcyc : c.st.cycle = s.cycle)
    (hf : c.f.frags = f.frags) (hg : c.g = { g with em := c.g.em }) :
    ∃ f' g', flight? (retire (ctxOf s f g) (goto c pc)) s.cur.1 = some f' ∧ frag? f' g.num = some g' ∧
      Outside c.st (retire (ctxOf s f g) (goto c pc)) ∧ Siblings f f' g ∧ SameFrag s g g' pc ∧ g'.em = c.g.em ∧
      f' = putFrag { c.f with issued := c.f.issued + 1 } g' := by
  have hr : retire (ctxOf s f g) (goto c pc) = commit (settled (goto c pc)) := retire_unwatched _ _ hu
  rw [hr]
  have hnum : c.g.num = g.num := by rw [hg]
  have hc1 : (settled (goto c pc)).st.cur.1 = s.cur.1 := by
    show c.st.cur.1 = _
    rw [hcur]
  refine ⟨_, (settled (goto c pc)).g, hc1 ▸ flight?_commit _, ?_, ⟨rfl, ?_, fun a => rfl⟩, ?_, ?_, rfl, rfl⟩
  · have hn : (settled (goto c pc)).g.num = g.num := hnum
    have : frag? (settled (goto c pc)).f g.num = some g := by
      show (c.f.frags).find? _ = _
      rw [hf, ← issues_num s f g hi]; exact hi.2
    rw [← hn]
    exact frag?_putFrag_same _ _ g (hn ▸ this)
  · intro k hk
    exact flight?_commit_ne (settled (goto c pc)) hk
  · intro n hn
    rw [frag?_putFrag_ne _ _ (by show n ≠ c.g.num; rw [hnum]; exact hn)]
    show (c.f.frags).find? _ = _
    rw [hf]; rfl
  · show SameFrag s g _ _
    unfold SameFrag
    show (settled (goto c pc)).g = _
    simp only [settled, goto]
    rw [hg, hcyc]

/-- An instruction that completes at `pc` and left in its context what `p` says. -/
theorem completesIn_of (i : Instr) (s : State) (f : Flight) (g : Fragment) (f1 : Flight) (pc : DWord) (c : Ctx)
    (p : State → Flight → Fragment → Prop) (hi : Issues s f g) (hu : (Machine.core s c.f.core).bcn = [])
    (hcur : c.st.cur = s.cur) (hcyc : c.st.cycle = s.cycle) (hf : c.f.frags = f.frags) (hg : c.g = { g with em := c.g.em })
    (he : exec i s = .next (retire (ctxOf s f g) (goto c pc)))
    (h1 : c.f = { f1 with s := c.f.s, v := c.f.v, t1 := c.f.t1, t2 := c.f.t2, mops := c.f.mops, pend := c.f.pend,
                          dirty := c.f.dirty, asyncR := c.f.asyncR, lflags := c.f.lflags, frags := c.f.frags })
    (hp : ∀ t f' g', t.free = c.st.free → g'.em = c.g.em → f' = putFrag { c.f with issued := c.f.issued + 1 } g' → p t f' g') :
    CompletesIn i s f g c.st f1 pc p := by
  obtain ⟨f', g', e1, e2, e3, e4, e5, e6, e7⟩ := retire_frame s f g c pc hi hu hcur hcyc hf hg
  refine ⟨_, f', g', he, e1, e2, e3, e4, e5, ?_, hp _ _ _ (by rw [e3.rest]) e6 e7⟩
  unfold SameFlight
  rw [e7, h1]
  rfl

end Sys2Proof.Machine
end

