-- ==== Sys2Proof/Laws/State.lean ====
section
/-!
SUPPORT. One lemma for each field of State and each update of a state: what the update leaves in that field.
-/
namespace Sys2Proof.Machine

/-! `modFlight` changes `flights`. -/

@[simp] theorem modFlight_cycle (s : State) (n : Nat) (k : Flight → Flight) : (modFlight s n k).cycle = s.cycle := rfl
@[simp] theorem modFlight_agenda (s : State) (n : Nat) (k : Flight → Flight) : (modFlight s n k).agenda = s.agenda := rfl
@[simp] theorem modFlight_free (s : State) (n : Nat) (k : Flight → Flight) : (modFlight s n k).free = s.free := rfl
@[simp] theorem modFlight_nextId (s : State) (n : Nat) (k : Flight → Flight) : (modFlight s n k).nextId = s.nextId := rfl
@[simp] theorem modFlight_cur (s : State) (n : Nat) (k : Flight → Flight) : (modFlight s n k).cur = s.cur := rfl
@[simp] theorem modFlight_mem (s : State) (n : Nat) (k : Flight → Flight) : (modFlight s n k).mem = s.mem := rfl
@[simp] theorem modFlight_undef (s : State) (n : Nat) (k : Flight → Flight) : (modFlight s n k).undef = s.undef := rfl
@[simp] theorem modFlight_full (s : State) (n : Nat) (k : Flight → Flight) : (modFlight s n k).full = s.full := rfl
@[simp] theorem modFlight_poison (s : State) (n : Nat) (k : Flight → Flight) : (modFlight s n k).poison = s.poison := rfl
@[simp] theorem modFlight_cores (s : State) (n : Nat) (k : Flight → Flight) : (modFlight s n k).cores = s.cores := rfl
@[simp] theorem modFlight_dieTlb (s : State) (n : Nat) (k : Flight → Flight) : (modFlight s n k).dieTlb = s.dieTlb := rfl
@[simp] theorem modFlight_bridTlb (s : State) (n : Nat) (k : Flight → Flight) : (modFlight s n k).bridTlb = s.bridTlb := rfl
@[simp] theorem modFlight_tiles (s : State) (n : Nat) (k : Flight → Flight) : (modFlight s n k).tiles = s.tiles := rfl
@[simp] theorem modFlight_parts (s : State) (n : Nat) (k : Flight → Flight) : (modFlight s n k).parts = s.parts := rfl
@[simp] theorem modFlight_launches (s : State) (n : Nat) (k : Flight → Flight) : (modFlight s n k).launches = s.launches := rfl
@[simp] theorem modFlight_gangs (s : State) (n : Nat) (k : Flight → Flight) : (modFlight s n k).gangs = s.gangs := rfl
@[simp] theorem modFlight_flights (s : State) (n : Nat) (k : Flight → Flight) : (modFlight s n k).flights = mmod s.flights n k := rfl
@[simp] theorem modFlight_engines (s : State) (n : Nat) (k : Flight → Flight) : (modFlight s n k).engines = s.engines := rfl
@[simp] theorem modFlight_work (s : State) (n : Nat) (k : Flight → Flight) : (modFlight s n k).work = s.work := rfl
@[simp] theorem modFlight_queues (s : State) (n : Nat) (k : Flight → Flight) : (modFlight s n k).queues = s.queues := rfl
@[simp] theorem modFlight_qgen (s : State) (n : Nat) (k : Flight → Flight) : (modFlight s n k).qgen = s.qgen := rfl
@[simp] theorem modFlight_graphs (s : State) (n : Nat) (k : Flight → Flight) : (modFlight s n k).graphs = s.graphs := rfl
@[simp] theorem modFlight_phases (s : State) (n : Nat) (k : Flight → Flight) : (modFlight s n k).phases = s.phases := rfl
@[simp] theorem modFlight_global (s : State) (n : Nat) (k : Flight → Flight) : (modFlight s n k).global = s.global := rfl
@[simp] theorem modFlight_dies (s : State) (n : Nat) (k : Flight → Flight) : (modFlight s n k).dies = s.dies := rfl
@[simp] theorem modFlight_comms (s : State) (n : Nat) (k : Flight → Flight) : (modFlight s n k).comms = s.comms := rfl
@[simp] theorem modFlight_package (s : State) (n : Nat) (k : Flight → Flight) : (modFlight s n k).package = s.package := rfl
@[simp] theorem modFlight_links (s : State) (n : Nat) (k : Flight → Flight) : (modFlight s n k).links = s.links := rfl
@[simp] theorem modFlight_linkMsgs (s : State) (n : Nat) (k : Flight → Flight) : (modFlight s n k).linkMsgs = s.linkMsgs := rfl
@[simp] theorem modFlight_sweeps (s : State) (n : Nat) (k : Flight → Flight) : (modFlight s n k).sweeps = s.sweeps := rfl
@[simp] theorem modFlight_steps (s : State) (n : Nat) (k : Flight → Flight) : (modFlight s n k).steps = s.steps := rfl
@[simp] theorem modFlight_forwards (s : State) (n : Nat) (k : Flight → Flight) : (modFlight s n k).forwards = s.forwards := rfl
@[simp] theorem modFlight_moved (s : State) (n : Nat) (k : Flight → Flight) : (modFlight s n k).moved = s.moved := rfl
@[simp] theorem modFlight_events (s : State) (n : Nat) (k : Flight → Flight) : (modFlight s n k).events = s.events := rfl
@[simp] theorem modFlight_commands (s : State) (n : Nat) (k : Flight → Flight) : (modFlight s n k).commands = s.commands := rfl
@[simp] theorem modFlight_burst (s : State) (n : Nat) (k : Flight → Flight) : (modFlight s n k).burst = s.burst := rfl
@[simp] theorem modFlight_snaps (s : State) (n : Nat) (k : Flight → Flight) : (modFlight s n k).snaps = s.snaps := rfl
@[simp] theorem modFlight_bootctl (s : State) (n : Nat) (k : Flight → Flight) : (modFlight s n k).bootctl = s.bootctl := rfl
@[simp] theorem modFlight_measured (s : State) (n : Nat) (k : Flight → Flight) : (modFlight s n k).measured = s.measured := rfl
@[simp] theorem modFlight_tmax (s : State) (n : Nat) (k : Flight → Flight) : (modFlight s n k).tmax = s.tmax := rfl
@[simp] theorem modFlight_pnow (s : State) (n : Nat) (k : Flight → Flight) : (modFlight s n k).pnow = s.pnow := rfl
@[simp] theorem modFlight_thr (s : State) (n : Nat) (k : Flight → Flight) : (modFlight s n k).thr = s.thr := rfl
@[simp] theorem modFlight_plim (s : State) (n : Nat) (k : Flight → Flight) : (modFlight s n k).plim = s.plim := rfl
@[simp] theorem modFlight_outbox (s : State) (n : Nat) (k : Flight → Flight) : (modFlight s n k).outbox = s.outbox := rfl

/-! `modFrag` changes `flights`. -/

@[simp] theorem modFrag_cycle (s : State) (n m : Nat) (k : Fragment → Fragment) : (modFrag s n m k).cycle = s.cycle := rfl
@[simp] theorem modFrag_agenda (s : State) (n m : Nat) (k : Fragment → Fragment) : (modFrag s n m k).agenda = s.agenda := rfl
@[simp] theorem modFrag_free (s : State) (n m : Nat) (k : Fragment → Fragment) : (modFrag s n m k).free = s.free := rfl
@[simp] theorem modFrag_nextId (s : State) (n m : Nat) (k : Fragment → Fragment) : (modFrag s n m k).nextId = s.nextId := rfl
@[simp] theorem modFrag_cur (s : State) (n m : Nat) (k : Fragment → Fragment) : (modFrag s n m k).cur = s.cur := rfl
@[simp] theorem modFrag_mem (s : State) (n m : Nat) (k : Fragment → Fragment) : (modFrag s n m k).mem = s.mem := rfl
@[simp] theorem modFrag_undef (s : State) (n m : Nat) (k : Fragment → Fragment) : (modFrag s n m k).undef = s.undef := rfl
@[simp] theorem modFrag_full (s : State) (n m : Nat) (k : Fragment → Fragment) : (modFrag s n m k).full = s.full := rfl
@[simp] theorem modFrag_poison (s : State) (n m : Nat) (k : Fragment → Fragment) : (modFrag s n m k).poison = s.poison := rfl
@[simp] theorem modFrag_cores (s : State) (n m : Nat) (k : Fragment → Fragment) : (modFrag s n m k).cores = s.cores := rfl
@[simp] theorem modFrag_dieTlb (s : State) (n m : Nat) (k : Fragment → Fragment) : (modFrag s n m k).dieTlb = s.dieTlb := rfl
@[simp] theorem modFrag_bridTlb (s : State) (n m : Nat) (k : Fragment → Fragment) : (modFrag s n m k).bridTlb = s.bridTlb := rfl
@[simp] theorem modFrag_tiles (s : State) (n m : Nat) (k : Fragment → Fragment) : (modFrag s n m k).tiles = s.tiles := rfl
@[simp] theorem modFrag_parts (s : State) (n m : Nat) (k : Fragment → Fragment) : (modFrag s n m k).parts = s.parts := rfl
@[simp] theorem modFrag_launches (s : State) (n m : Nat) (k : Fragment → Fragment) : (modFrag s n m k).launches = s.launches := rfl
@[simp] theorem modFrag_gangs (s : State) (n m : Nat) (k : Fragment → Fragment) : (modFrag s n m k).gangs = s.gangs := rfl
@[simp] theorem modFrag_engines (s : State) (n m : Nat) (k : Fragment → Fragment) : (modFrag s n m k).engines = s.engines := rfl
@[simp] theorem modFrag_work (s : State) (n m : Nat) (k : Fragment → Fragment) : (modFrag s n m k).work = s.work := rfl
@[simp] theorem modFrag_queues (s : State) (n m : Nat) (k : Fragment → Fragment) : (modFrag s n m k).queues = s.queues := rfl
@[simp] theorem modFrag_qgen (s : State) (n m : Nat) (k : Fragment → Fragment) : (modFrag s n m k).qgen = s.qgen := rfl
@[simp] theorem modFrag_graphs (s : State) (n m : Nat) (k : Fragment → Fragment) : (modFrag s n m k).graphs = s.graphs := rfl
@[simp] theorem modFrag_phases (s : State) (n m : Nat) (k : Fragment → Fragment) : (modFrag s n m k).phases = s.phases := rfl
@[simp] theorem modFrag_global (s : State) (n m : Nat) (k : Fragment → Fragment) : (modFrag s n m k).global = s.global := rfl
@[simp] theorem modFrag_dies (s : State) (n m : Nat) (k : Fragment → Fragment) : (modFrag s n m k).dies = s.dies := rfl
@[simp] theorem modFrag_comms (s : State) (n m : Nat) (k : Fragment → Fragment) : (modFrag s n m k).comms = s.comms := rfl
@[simp] theorem modFrag_package (s : State) (n m : Nat) (k : Fragment → Fragment) : (modFrag s n m k).package = s.package := rfl
@[simp] theorem modFrag_links (s : State) (n m : Nat) (k : Fragment → Fragment) : (modFrag s n m k).links = s.links := rfl
@[simp] theorem modFrag_linkMsgs (s : State) (n m : Nat) (k : Fragment → Fragment) : (modFrag s n m k).linkMsgs = s.linkMsgs := rfl
@[simp] theorem modFrag_sweeps (s : State) (n m : Nat) (k : Fragment → Fragment) : (modFrag s n m k).sweeps = s.sweeps := rfl
@[simp] theorem modFrag_steps (s : State) (n m : Nat) (k : Fragment → Fragment) : (modFrag s n m k).steps = s.steps := rfl
@[simp] theorem modFrag_forwards (s : State) (n m : Nat) (k : Fragment → Fragment) : (modFrag s n m k).forwards = s.forwards := rfl
@[simp] theorem modFrag_moved (s : State) (n m : Nat) (k : Fragment → Fragment) : (modFrag s n m k).moved = s.moved := rfl
@[simp] theorem modFrag_events (s : State) (n m : Nat) (k : Fragment → Fragment) : (modFrag s n m k).events = s.events := rfl
@[simp] theorem modFrag_commands (s : State) (n m : Nat) (k : Fragment → Fragment) : (modFrag s n m k).commands = s.commands := rfl
@[simp] theorem modFrag_burst (s : State) (n m : Nat) (k : Fragment → Fragment) : (modFrag s n m k).burst = s.burst := rfl
@[simp] theorem modFrag_snaps (s : State) (n m : Nat) (k : Fragment → Fragment) : (modFrag s n m k).snaps = s.snaps := rfl
@[simp] theorem modFrag_bootctl (s : State) (n m : Nat) (k : Fragment → Fragment) : (modFrag s n m k).bootctl = s.bootctl := rfl
@[simp] theorem modFrag_measured (s : State) (n m : Nat) (k : Fragment → Fragment) : (modFrag s n m k).measured = s.measured := rfl
@[simp] theorem modFrag_tmax (s : State) (n m : Nat) (k : Fragment → Fragment) : (modFrag s n m k).tmax = s.tmax := rfl
@[simp] theorem modFrag_pnow (s : State) (n m : Nat) (k : Fragment → Fragment) : (modFrag s n m k).pnow = s.pnow := rfl
@[simp] theorem modFrag_thr (s : State) (n m : Nat) (k : Fragment → Fragment) : (modFrag s n m k).thr = s.thr := rfl
@[simp] theorem modFrag_plim (s : State) (n m : Nat) (k : Fragment → Fragment) : (modFrag s n m k).plim = s.plim := rfl
@[simp] theorem modFrag_outbox (s : State) (n m : Nat) (k : Fragment → Fragment) : (modFrag s n m k).outbox = s.outbox := rfl

/-! `modGang` changes `gangs`. -/

@[simp] theorem modGang_cycle (s : State) (n : Nat) (k : Gang → Gang) : (modGang s n k).cycle = s.cycle := rfl
@[simp] theorem modGang_agenda (s : State) (n : Nat) (k : Gang → Gang) : (modGang s n k).agenda = s.agenda := rfl
@[simp] theorem modGang_free (s : State) (n : Nat) (k : Gang → Gang) : (modGang s n k).free = s.free := rfl
@[simp] theorem modGang_nextId (s : State) (n : Nat) (k : Gang → Gang) : (modGang s n k).nextId = s.nextId := rfl
@[simp] theorem modGang_cur (s : State) (n : Nat) (k : Gang → Gang) : (modGang s n k).cur = s.cur := rfl
@[simp] theorem modGang_mem (s : State) (n : Nat) (k : Gang → Gang) : (modGang s n k).mem = s.mem := rfl
@[simp] theorem modGang_undef (s : State) (n : Nat) (k : Gang → Gang) : (modGang s n k).undef = s.undef := rfl
@[simp] theorem modGang_full (s : State) (n : Nat) (k : Gang → Gang) : (modGang s n k).full = s.full := rfl
@[simp] theorem modGang_poison (s : State) (n : Nat) (k : Gang → Gang) : (modGang s n k).poison = s.poison := rfl
@[simp] theorem modGang_cores (s : State) (n : Nat) (k : Gang → Gang) : (modGang s n k).cores = s.cores := rfl
@[simp] theorem modGang_dieTlb (s : State) (n : Nat) (k : Gang → Gang) : (modGang s n k).dieTlb = s.dieTlb := rfl
@[simp] theorem modGang_bridTlb (s : State) (n : Nat) (k : Gang → Gang) : (modGang s n k).bridTlb = s.bridTlb := rfl
@[simp] theorem modGang_tiles (s : State) (n : Nat) (k : Gang → Gang) : (modGang s n k).tiles = s.tiles := rfl
@[simp] theorem modGang_parts (s : State) (n : Nat) (k : Gang → Gang) : (modGang s n k).parts = s.parts := rfl
@[simp] theorem modGang_launches (s : State) (n : Nat) (k : Gang → Gang) : (modGang s n k).launches = s.launches := rfl
@[simp] theorem modGang_gangs (s : State) (n : Nat) (k : Gang → Gang) : (modGang s n k).gangs = mmod s.gangs n k := rfl
@[simp] theorem modGang_flights (s : State) (n : Nat) (k : Gang → Gang) : (modGang s n k).flights = s.flights := rfl
@[simp] theorem modGang_engines (s : State) (n : Nat) (k : Gang → Gang) : (modGang s n k).engines = s.engines := rfl
@[simp] theorem modGang_work (s : State) (n : Nat) (k : Gang → Gang) : (modGang s n k).work = s.work := rfl
@[simp] theorem modGang_queues (s : State) (n : Nat) (k : Gang → Gang) : (modGang s n k).queues = s.queues := rfl
@[simp] theorem modGang_qgen (s : State) (n : Nat) (k : Gang → Gang) : (modGang s n k).qgen = s.qgen := rfl
@[simp] theorem modGang_graphs (s : State) (n : Nat) (k : Gang → Gang) : (modGang s n k).graphs = s.graphs := rfl
@[simp] theorem modGang_phases (s : State) (n : Nat) (k : Gang → Gang) : (modGang s n k).phases = s.phases := rfl
@[simp] theorem modGang_global (s : State) (n : Nat) (k : Gang → Gang) : (modGang s n k).global = s.global := rfl
@[simp] theorem modGang_dies (s : State) (n : Nat) (k : Gang → Gang) : (modGang s n k).dies = s.dies := rfl
@[simp] theorem modGang_comms (s : State) (n : Nat) (k : Gang → Gang) : (modGang s n k).comms = s.comms := rfl
@[simp] theorem modGang_package (s : State) (n : Nat) (k : Gang → Gang) : (modGang s n k).package = s.package := rfl
@[simp] theorem modGang_links (s : State) (n : Nat) (k : Gang → Gang) : (modGang s n k).links = s.links := rfl
@[simp] theorem modGang_linkMsgs (s : State) (n : Nat) (k : Gang → Gang) : (modGang s n k).linkMsgs = s.linkMsgs := rfl
@[simp] theorem modGang_sweeps (s : State) (n : Nat) (k : Gang → Gang) : (modGang s n k).sweeps = s.sweeps := rfl
@[simp] theorem modGang_steps (s : State) (n : Nat) (k : Gang → Gang) : (modGang s n k).steps = s.steps := rfl
@[simp] theorem modGang_forwards (s : State) (n : Nat) (k : Gang → Gang) : (modGang s n k).forwards = s.forwards := rfl
@[simp] theorem modGang_moved (s : State) (n : Nat) (k : Gang → Gang) : (modGang s n k).moved = s.moved := rfl
@[simp] theorem modGang_events (s : State) (n : Nat) (k : Gang → Gang) : (modGang s n k).events = s.events := rfl
@[simp] theorem modGang_commands (s : State) (n : Nat) (k : Gang → Gang) : (modGang s n k).commands = s.commands := rfl
@[simp] theorem modGang_burst (s : State) (n : Nat) (k : Gang → Gang) : (modGang s n k).burst = s.burst := rfl
@[simp] theorem modGang_snaps (s : State) (n : Nat) (k : Gang → Gang) : (modGang s n k).snaps = s.snaps := rfl
@[simp] theorem modGang_bootctl (s : State) (n : Nat) (k : Gang → Gang) : (modGang s n k).bootctl = s.bootctl := rfl
@[simp] theorem modGang_measured (s : State) (n : Nat) (k : Gang → Gang) : (modGang s n k).measured = s.measured := rfl
@[simp] theorem modGang_tmax (s : State) (n : Nat) (k : Gang → Gang) : (modGang s n k).tmax = s.tmax := rfl
@[simp] theorem modGang_pnow (s : State) (n : Nat) (k : Gang → Gang) : (modGang s n k).pnow = s.pnow := rfl
@[simp] theorem modGang_thr (s : State) (n : Nat) (k : Gang → Gang) : (modGang s n k).thr = s.thr := rfl
@[simp] theorem modGang_plim (s : State) (n : Nat) (k : Gang → Gang) : (modGang s n k).plim = s.plim := rfl
@[simp] theorem modGang_outbox (s : State) (n : Nat) (k : Gang → Gang) : (modGang s n k).outbox = s.outbox := rfl

/-! `modLaunch` changes `launches`. -/

@[simp] theorem modLaunch_cycle (s : State) (n : Nat) (k : Launch → Launch) : (modLaunch s n k).cycle = s.cycle := rfl
@[simp] theorem modLaunch_agenda (s : State) (n : Nat) (k : Launch → Launch) : (modLaunch s n k).agenda = s.agenda := rfl
@[simp] theorem modLaunch_free (s : State) (n : Nat) (k : Launch → Launch) : (modLaunch s n k).free = s.free := rfl
@[simp] theorem modLaunch_nextId (s : State) (n : Nat) (k : Launch → Launch) : (modLaunch s n k).nextId = s.nextId := rfl
@[simp] theorem modLaunch_cur (s : State) (n : Nat) (k : Launch → Launch) : (modLaunch s n k).cur = s.cur := rfl
@[simp] theorem modLaunch_mem (s : State) (n : Nat) (k : Launch → Launch) : (modLaunch s n k).mem = s.mem := rfl
@[simp] theorem modLaunch_undef (s : State) (n : Nat) (k : Launch → Launch) : (modLaunch s n k).undef = s.undef := rfl
@[simp] theorem modLaunch_full (s : State) (n : Nat) (k : Launch → Launch) : (modLaunch s n k).full = s.full := rfl
@[simp] theorem modLaunch_poison (s : State) (n : Nat) (k : Launch → Launch) : (modLaunch s n k).poison = s.poison := rfl
@[simp] theorem modLaunch_cores (s : State) (n : Nat) (k : Launch → Launch) : (modLaunch s n k).cores = s.cores := rfl
@[simp] theorem modLaunch_dieTlb (s : State) (n : Nat) (k : Launch → Launch) : (modLaunch s n k).dieTlb = s.dieTlb := rfl
@[simp] theorem modLaunch_bridTlb (s : State) (n : Nat) (k : Launch → Launch) : (modLaunch s n k).bridTlb = s.bridTlb := rfl
@[simp] theorem modLaunch_tiles (s : State) (n : Nat) (k : Launch → Launch) : (modLaunch s n k).tiles = s.tiles := rfl
@[simp] theorem modLaunch_parts (s : State) (n : Nat) (k : Launch → Launch) : (modLaunch s n k).parts = s.parts := rfl
@[simp] theorem modLaunch_launches (s : State) (n : Nat) (k : Launch → Launch) : (modLaunch s n k).launches = mmod s.launches n k := rfl
@[simp] theorem modLaunch_gangs (s : State) (n : Nat) (k : Launch → Launch) : (modLaunch s n k).gangs = s.gangs := rfl
@[simp] theorem modLaunch_flights (s : State) (n : Nat) (k : Launch → Launch) : (modLaunch s n k).flights = s.flights := rfl
@[simp] theorem modLaunch_engines (s : State) (n : Nat) (k : Launch → Launch) : (modLaunch s n k).engines = s.engines := rfl
@[simp] theorem modLaunch_work (s : State) (n : Nat) (k : Launch → Launch) : (modLaunch s n k).work = s.work := rfl
@[simp] theorem modLaunch_queues (s : State) (n : Nat) (k : Launch → Launch) : (modLaunch s n k).queues = s.queues := rfl
@[simp] theorem modLaunch_qgen (s : State) (n : Nat) (k : Launch → Launch) : (modLaunch s n k).qgen = s.qgen := rfl
@[simp] theorem modLaunch_graphs (s : State) (n : Nat) (k : Launch → Launch) : (modLaunch s n k).graphs = s.graphs := rfl
@[simp] theorem modLaunch_phases (s : State) (n : Nat) (k : Launch → Launch) : (modLaunch s n k).phases = s.phases := rfl
@[simp] theorem modLaunch_global (s : State) (n : Nat) (k : Launch → Launch) : (modLaunch s n k).global = s.global := rfl
@[simp] theorem modLaunch_dies (s : State) (n : Nat) (k : Launch → Launch) : (modLaunch s n k).dies = s.dies := rfl
@[simp] theorem modLaunch_comms (s : State) (n : Nat) (k : Launch → Launch) : (modLaunch s n k).comms = s.comms := rfl
@[simp] theorem modLaunch_package (s : State) (n : Nat) (k : Launch → Launch) : (modLaunch s n k).package = s.package := rfl
@[simp] theorem modLaunch_links (s : State) (n : Nat) (k : Launch → Launch) : (modLaunch s n k).links = s.links := rfl
@[simp] theorem modLaunch_linkMsgs (s : State) (n : Nat) (k : Launch → Launch) : (modLaunch s n k).linkMsgs = s.linkMsgs := rfl
@[simp] theorem modLaunch_sweeps (s : State) (n : Nat) (k : Launch → Launch) : (modLaunch s n k).sweeps = s.sweeps := rfl
@[simp] theorem modLaunch_steps (s : State) (n : Nat) (k : Launch → Launch) : (modLaunch s n k).steps = s.steps := rfl
@[simp] theorem modLaunch_forwards (s : State) (n : Nat) (k : Launch → Launch) : (modLaunch s n k).forwards = s.forwards := rfl
@[simp] theorem modLaunch_moved (s : State) (n : Nat) (k : Launch → Launch) : (modLaunch s n k).moved = s.moved := rfl
@[simp] theorem modLaunch_events (s : State) (n : Nat) (k : Launch → Launch) : (modLaunch s n k).events = s.events := rfl
@[simp] theorem modLaunch_commands (s : State) (n : Nat) (k : Launch → Launch) : (modLaunch s n k).commands = s.commands := rfl
@[simp] theorem modLaunch_burst (s : State) (n : Nat) (k : Launch → Launch) : (modLaunch s n k).burst = s.burst := rfl
@[simp] theorem modLaunch_snaps (s : State) (n : Nat) (k : Launch → Launch) : (modLaunch s n k).snaps = s.snaps := rfl
@[simp] theorem modLaunch_bootctl (s : State) (n : Nat) (k : Launch → Launch) : (modLaunch s n k).bootctl = s.bootctl := rfl
@[simp] theorem modLaunch_measured (s : State) (n : Nat) (k : Launch → Launch) : (modLaunch s n k).measured = s.measured := rfl
@[simp] theorem modLaunch_tmax (s : State) (n : Nat) (k : Launch → Launch) : (modLaunch s n k).tmax = s.tmax := rfl
@[simp] theorem modLaunch_pnow (s : State) (n : Nat) (k : Launch → Launch) : (modLaunch s n k).pnow = s.pnow := rfl
@[simp] theorem modLaunch_thr (s : State) (n : Nat) (k : Launch → Launch) : (modLaunch s n k).thr = s.thr := rfl
@[simp] theorem modLaunch_plim (s : State) (n : Nat) (k : Launch → Launch) : (modLaunch s n k).plim = s.plim := rfl
@[simp] theorem modLaunch_outbox (s : State) (n : Nat) (k : Launch → Launch) : (modLaunch s n k).outbox = s.outbox := rfl

/-! `modPart` changes `parts`. -/

@[simp] theorem modPart_cycle (s : State) (n : Nat) (k : Part → Part) : (modPart s n k).cycle = s.cycle := rfl
@[simp] theorem modPart_agenda (s : State) (n : Nat) (k : Part → Part) : (modPart s n k).agenda = s.agenda := rfl
@[simp] theorem modPart_free (s : State) (n : Nat) (k : Part → Part) : (modPart s n k).free = s.free := rfl
@[simp] theorem modPart_nextId (s : State) (n : Nat) (k : Part → Part) : (modPart s n k).nextId = s.nextId := rfl
@[simp] theorem modPart_cur (s : State) (n : Nat) (k : Part → Part) : (modPart s n k).cur = s.cur := rfl
@[simp] theorem modPart_mem (s : State) (n : Nat) (k : Part → Part) : (modPart s n k).mem = s.mem := rfl
@[simp] theorem modPart_undef (s : State) (n : Nat) (k : Part → Part) : (modPart s n k).undef = s.undef := rfl
@[simp] theorem modPart_full (s : State) (n : Nat) (k : Part → Part) : (modPart s n k).full = s.full := rfl
@[simp] theorem modPart_poison (s : State) (n : Nat) (k : Part → Part) : (modPart s n k).poison = s.poison := rfl
@[simp] theorem modPart_cores (s : State) (n : Nat) (k : Part → Part) : (modPart s n k).cores = s.cores := rfl
@[simp] theorem modPart_dieTlb (s : State) (n : Nat) (k : Part → Part) : (modPart s n k).dieTlb = s.dieTlb := rfl
@[simp] theorem modPart_bridTlb (s : State) (n : Nat) (k : Part → Part) : (modPart s n k).bridTlb = s.bridTlb := rfl
@[simp] theorem modPart_tiles (s : State) (n : Nat) (k : Part → Part) : (modPart s n k).tiles = s.tiles := rfl
@[simp] theorem modPart_parts (s : State) (n : Nat) (k : Part → Part) : (modPart s n k).parts = mmod s.parts n k := rfl
@[simp] theorem modPart_launches (s : State) (n : Nat) (k : Part → Part) : (modPart s n k).launches = s.launches := rfl
@[simp] theorem modPart_gangs (s : State) (n : Nat) (k : Part → Part) : (modPart s n k).gangs = s.gangs := rfl
@[simp] theorem modPart_flights (s : State) (n : Nat) (k : Part → Part) : (modPart s n k).flights = s.flights := rfl
@[simp] theorem modPart_engines (s : State) (n : Nat) (k : Part → Part) : (modPart s n k).engines = s.engines := rfl
@[simp] theorem modPart_work (s : State) (n : Nat) (k : Part → Part) : (modPart s n k).work = s.work := rfl
@[simp] theorem modPart_queues (s : State) (n : Nat) (k : Part → Part) : (modPart s n k).queues = s.queues := rfl
@[simp] theorem modPart_qgen (s : State) (n : Nat) (k : Part → Part) : (modPart s n k).qgen = s.qgen := rfl
@[simp] theorem modPart_graphs (s : State) (n : Nat) (k : Part → Part) : (modPart s n k).graphs = s.graphs := rfl
@[simp] theorem modPart_phases (s : State) (n : Nat) (k : Part → Part) : (modPart s n k).phases = s.phases := rfl
@[simp] theorem modPart_global (s : State) (n : Nat) (k : Part → Part) : (modPart s n k).global = s.global := rfl
@[simp] theorem modPart_dies (s : State) (n : Nat) (k : Part → Part) : (modPart s n k).dies = s.dies := rfl
@[simp] theorem modPart_comms (s : State) (n : Nat) (k : Part → Part) : (modPart s n k).comms = s.comms := rfl
@[simp] theorem modPart_package (s : State) (n : Nat) (k : Part → Part) : (modPart s n k).package = s.package := rfl
@[simp] theorem modPart_links (s : State) (n : Nat) (k : Part → Part) : (modPart s n k).links = s.links := rfl
@[simp] theorem modPart_linkMsgs (s : State) (n : Nat) (k : Part → Part) : (modPart s n k).linkMsgs = s.linkMsgs := rfl
@[simp] theorem modPart_sweeps (s : State) (n : Nat) (k : Part → Part) : (modPart s n k).sweeps = s.sweeps := rfl
@[simp] theorem modPart_steps (s : State) (n : Nat) (k : Part → Part) : (modPart s n k).steps = s.steps := rfl
@[simp] theorem modPart_forwards (s : State) (n : Nat) (k : Part → Part) : (modPart s n k).forwards = s.forwards := rfl
@[simp] theorem modPart_moved (s : State) (n : Nat) (k : Part → Part) : (modPart s n k).moved = s.moved := rfl
@[simp] theorem modPart_events (s : State) (n : Nat) (k : Part → Part) : (modPart s n k).events = s.events := rfl
@[simp] theorem modPart_commands (s : State) (n : Nat) (k : Part → Part) : (modPart s n k).commands = s.commands := rfl
@[simp] theorem modPart_burst (s : State) (n : Nat) (k : Part → Part) : (modPart s n k).burst = s.burst := rfl
@[simp] theorem modPart_snaps (s : State) (n : Nat) (k : Part → Part) : (modPart s n k).snaps = s.snaps := rfl
@[simp] theorem modPart_bootctl (s : State) (n : Nat) (k : Part → Part) : (modPart s n k).bootctl = s.bootctl := rfl
@[simp] theorem modPart_measured (s : State) (n : Nat) (k : Part → Part) : (modPart s n k).measured = s.measured := rfl
@[simp] theorem modPart_tmax (s : State) (n : Nat) (k : Part → Part) : (modPart s n k).tmax = s.tmax := rfl
@[simp] theorem modPart_pnow (s : State) (n : Nat) (k : Part → Part) : (modPart s n k).pnow = s.pnow := rfl
@[simp] theorem modPart_thr (s : State) (n : Nat) (k : Part → Part) : (modPart s n k).thr = s.thr := rfl
@[simp] theorem modPart_plim (s : State) (n : Nat) (k : Part → Part) : (modPart s n k).plim = s.plim := rfl
@[simp] theorem modPart_outbox (s : State) (n : Nat) (k : Part → Part) : (modPart s n k).outbox = s.outbox := rfl

/-! `modComm` changes `comms`. -/

@[simp] theorem modComm_cycle (s : State) (n m : Nat) (k : Comm → Comm) : (modComm s n m k).cycle = s.cycle := rfl
@[simp] theorem modComm_agenda (s : State) (n m : Nat) (k : Comm → Comm) : (modComm s n m k).agenda = s.agenda := rfl
@[simp] theorem modComm_free (s : State) (n m : Nat) (k : Comm → Comm) : (modComm s n m k).free = s.free := rfl
@[simp] theorem modComm_nextId (s : State) (n m : Nat) (k : Comm → Comm) : (modComm s n m k).nextId = s.nextId := rfl
@[simp] theorem modComm_cur (s : State) (n m : Nat) (k : Comm → Comm) : (modComm s n m k).cur = s.cur := rfl
@[simp] theorem modComm_mem (s : State) (n m : Nat) (k : Comm → Comm) : (modComm s n m k).mem = s.mem := rfl
@[simp] theorem modComm_undef (s : State) (n m : Nat) (k : Comm → Comm) : (modComm s n m k).undef = s.undef := rfl
@[simp] theorem modComm_full (s : State) (n m : Nat) (k : Comm → Comm) : (modComm s n m k).full = s.full := rfl
@[simp] theorem modComm_poison (s : State) (n m : Nat) (k : Comm → Comm) : (modComm s n m k).poison = s.poison := rfl
@[simp] theorem modComm_cores (s : State) (n m : Nat) (k : Comm → Comm) : (modComm s n m k).cores = s.cores := rfl
@[simp] theorem modComm_dieTlb (s : State) (n m : Nat) (k : Comm → Comm) : (modComm s n m k).dieTlb = s.dieTlb := rfl
@[simp] theorem modComm_bridTlb (s : State) (n m : Nat) (k : Comm → Comm) : (modComm s n m k).bridTlb = s.bridTlb := rfl
@[simp] theorem modComm_tiles (s : State) (n m : Nat) (k : Comm → Comm) : (modComm s n m k).tiles = s.tiles := rfl
@[simp] theorem modComm_parts (s : State) (n m : Nat) (k : Comm → Comm) : (modComm s n m k).parts = s.parts := rfl
@[simp] theorem modComm_launches (s : State) (n m : Nat) (k : Comm → Comm) : (modComm s n m k).launches = s.launches := rfl
@[simp] theorem modComm_gangs (s : State) (n m : Nat) (k : Comm → Comm) : (modComm s n m k).gangs = s.gangs := rfl
@[simp] theorem modComm_flights (s : State) (n m : Nat) (k : Comm → Comm) : (modComm s n m k).flights = s.flights := rfl
@[simp] theorem modComm_engines (s : State) (n m : Nat) (k : Comm → Comm) : (modComm s n m k).engines = s.engines := rfl
@[simp] theorem modComm_work (s : State) (n m : Nat) (k : Comm → Comm) : (modComm s n m k).work = s.work := rfl
@[simp] theorem modComm_queues (s : State) (n m : Nat) (k : Comm → Comm) : (modComm s n m k).queues = s.queues := rfl
@[simp] theorem modComm_qgen (s : State) (n m : Nat) (k : Comm → Comm) : (modComm s n m k).qgen = s.qgen := rfl
@[simp] theorem modComm_graphs (s : State) (n m : Nat) (k : Comm → Comm) : (modComm s n m k).graphs = s.graphs := rfl
@[simp] theorem modComm_phases (s : State) (n m : Nat) (k : Comm → Comm) : (modComm s n m k).phases = s.phases := rfl
@[simp] theorem modComm_global (s : State) (n m : Nat) (k : Comm → Comm) : (modComm s n m k).global = s.global := rfl
@[simp] theorem modComm_dies (s : State) (n m : Nat) (k : Comm → Comm) : (modComm s n m k).dies = s.dies := rfl
@[simp] theorem modComm_comms (s : State) (n m : Nat) (k : Comm → Comm) : (modComm s n m k).comms = mmod s.comms (ckey n m) k := rfl
@[simp] theorem modComm_package (s : State) (n m : Nat) (k : Comm → Comm) : (modComm s n m k).package = s.package := rfl
@[simp] theorem modComm_links (s : State) (n m : Nat) (k : Comm → Comm) : (modComm s n m k).links = s.links := rfl
@[simp] theorem modComm_linkMsgs (s : State) (n m : Nat) (k : Comm → Comm) : (modComm s n m k).linkMsgs = s.linkMsgs := rfl
@[simp] theorem modComm_sweeps (s : State) (n m : Nat) (k : Comm → Comm) : (modComm s n m k).sweeps = s.sweeps := rfl
@[simp] theorem modComm_steps (s : State) (n m : Nat) (k : Comm → Comm) : (modComm s n m k).steps = s.steps := rfl
@[simp] theorem modComm_forwards (s : State) (n m : Nat) (k : Comm → Comm) : (modComm s n m k).forwards = s.forwards := rfl
@[simp] theorem modComm_moved (s : State) (n m : Nat) (k : Comm → Comm) : (modComm s n m k).moved = s.moved := rfl
@[simp] theorem modComm_events (s : State) (n m : Nat) (k : Comm → Comm) : (modComm s n m k).events = s.events := rfl
@[simp] theorem modComm_commands (s : State) (n m : Nat) (k : Comm → Comm) : (modComm s n m k).commands = s.commands := rfl
@[simp] theorem modComm_burst (s : State) (n m : Nat) (k : Comm → Comm) : (modComm s n m k).burst = s.burst := rfl
@[simp] theorem modComm_snaps (s : State) (n m : Nat) (k : Comm → Comm) : (modComm s n m k).snaps = s.snaps := rfl
@[simp] theorem modComm_bootctl (s : State) (n m : Nat) (k : Comm → Comm) : (modComm s n m k).bootctl = s.bootctl := rfl
@[simp] theorem modComm_measured (s : State) (n m : Nat) (k : Comm → Comm) : (modComm s n m k).measured = s.measured := rfl
@[simp] theorem modComm_tmax (s : State) (n m : Nat) (k : Comm → Comm) : (modComm s n m k).tmax = s.tmax := rfl
@[simp] theorem modComm_pnow (s : State) (n m : Nat) (k : Comm → Comm) : (modComm s n m k).pnow = s.pnow := rfl
@[simp] theorem modComm_thr (s : State) (n m : Nat) (k : Comm → Comm) : (modComm s n m k).thr = s.thr := rfl
@[simp] theorem modComm_plim (s : State) (n m : Nat) (k : Comm → Comm) : (modComm s n m k).plim = s.plim := rfl
@[simp] theorem modComm_outbox (s : State) (n m : Nat) (k : Comm → Comm) : (modComm s n m k).outbox = s.outbox := rfl

/-! `modTile` changes `tiles`. -/

@[simp] theorem modTile_cycle (s : State) (n : Nat) (k : Tile → Tile) : (modTile s n k).cycle = s.cycle := rfl
@[simp] theorem modTile_agenda (s : State) (n : Nat) (k : Tile → Tile) : (modTile s n k).agenda = s.agenda := rfl
@[simp] theorem modTile_free (s : State) (n : Nat) (k : Tile → Tile) : (modTile s n k).free = s.free := rfl
@[simp] theorem modTile_nextId (s : State) (n : Nat) (k : Tile → Tile) : (modTile s n k).nextId = s.nextId := rfl
@[simp] theorem modTile_cur (s : State) (n : Nat) (k : Tile → Tile) : (modTile s n k).cur = s.cur := rfl
@[simp] theorem modTile_mem (s : State) (n : Nat) (k : Tile → Tile) : (modTile s n k).mem = s.mem := rfl
@[simp] theorem modTile_undef (s : State) (n : Nat) (k : Tile → Tile) : (modTile s n k).undef = s.undef := rfl
@[simp] theorem modTile_full (s : State) (n : Nat) (k : Tile → Tile) : (modTile s n k).full = s.full := rfl
@[simp] theorem modTile_poison (s : State) (n : Nat) (k : Tile → Tile) : (modTile s n k).poison = s.poison := rfl
@[simp] theorem modTile_cores (s : State) (n : Nat) (k : Tile → Tile) : (modTile s n k).cores = s.cores := rfl
@[simp] theorem modTile_dieTlb (s : State) (n : Nat) (k : Tile → Tile) : (modTile s n k).dieTlb = s.dieTlb := rfl
@[simp] theorem modTile_bridTlb (s : State) (n : Nat) (k : Tile → Tile) : (modTile s n k).bridTlb = s.bridTlb := rfl
@[simp] theorem modTile_tiles (s : State) (n : Nat) (k : Tile → Tile) : (modTile s n k).tiles = mset s.tiles n (k (mgetD s.tiles n Tile.reset)) := rfl
@[simp] theorem modTile_parts (s : State) (n : Nat) (k : Tile → Tile) : (modTile s n k).parts = s.parts := rfl
@[simp] theorem modTile_launches (s : State) (n : Nat) (k : Tile → Tile) : (modTile s n k).launches = s.launches := rfl
@[simp] theorem modTile_gangs (s : State) (n : Nat) (k : Tile → Tile) : (modTile s n k).gangs = s.gangs := rfl
@[simp] theorem modTile_flights (s : State) (n : Nat) (k : Tile → Tile) : (modTile s n k).flights = s.flights := rfl
@[simp] theorem modTile_engines (s : State) (n : Nat) (k : Tile → Tile) : (modTile s n k).engines = s.engines := rfl
@[simp] theorem modTile_work (s : State) (n : Nat) (k : Tile → Tile) : (modTile s n k).work = s.work := rfl
@[simp] theorem modTile_queues (s : State) (n : Nat) (k : Tile → Tile) : (modTile s n k).queues = s.queues := rfl
@[simp] theorem modTile_qgen (s : State) (n : Nat) (k : Tile → Tile) : (modTile s n k).qgen = s.qgen := rfl
@[simp] theorem modTile_graphs (s : State) (n : Nat) (k : Tile → Tile) : (modTile s n k).graphs = s.graphs := rfl
@[simp] theorem modTile_phases (s : State) (n : Nat) (k : Tile → Tile) : (modTile s n k).phases = s.phases := rfl
@[simp] theorem modTile_global (s : State) (n : Nat) (k : Tile → Tile) : (modTile s n k).global = s.global := rfl
@[simp] theorem modTile_dies (s : State) (n : Nat) (k : Tile → Tile) : (modTile s n k).dies = s.dies := rfl
@[simp] theorem modTile_comms (s : State) (n : Nat) (k : Tile → Tile) : (modTile s n k).comms = s.comms := rfl
@[simp] theorem modTile_package (s : State) (n : Nat) (k : Tile → Tile) : (modTile s n k).package = s.package := rfl
@[simp] theorem modTile_links (s : State) (n : Nat) (k : Tile → Tile) : (modTile s n k).links = s.links := rfl
@[simp] theorem modTile_linkMsgs (s : State) (n : Nat) (k : Tile → Tile) : (modTile s n k).linkMsgs = s.linkMsgs := rfl
@[simp] theorem modTile_sweeps (s : State) (n : Nat) (k : Tile → Tile) : (modTile s n k).sweeps = s.sweeps := rfl
@[simp] theorem modTile_steps (s : State) (n : Nat) (k : Tile → Tile) : (modTile s n k).steps = s.steps := rfl
@[simp] theorem modTile_forwards (s : State) (n : Nat) (k : Tile → Tile) : (modTile s n k).forwards = s.forwards := rfl
@[simp] theorem modTile_moved (s : State) (n : Nat) (k : Tile → Tile) : (modTile s n k).moved = s.moved := rfl
@[simp] theorem modTile_events (s : State) (n : Nat) (k : Tile → Tile) : (modTile s n k).events = s.events := rfl
@[simp] theorem modTile_commands (s : State) (n : Nat) (k : Tile → Tile) : (modTile s n k).commands = s.commands := rfl
@[simp] theorem modTile_burst (s : State) (n : Nat) (k : Tile → Tile) : (modTile s n k).burst = s.burst := rfl
@[simp] theorem modTile_snaps (s : State) (n : Nat) (k : Tile → Tile) : (modTile s n k).snaps = s.snaps := rfl
@[simp] theorem modTile_bootctl (s : State) (n : Nat) (k : Tile → Tile) : (modTile s n k).bootctl = s.bootctl := rfl
@[simp] theorem modTile_measured (s : State) (n : Nat) (k : Tile → Tile) : (modTile s n k).measured = s.measured := rfl
@[simp] theorem modTile_tmax (s : State) (n : Nat) (k : Tile → Tile) : (modTile s n k).tmax = s.tmax := rfl
@[simp] theorem modTile_pnow (s : State) (n : Nat) (k : Tile → Tile) : (modTile s n k).pnow = s.pnow := rfl
@[simp] theorem modTile_thr (s : State) (n : Nat) (k : Tile → Tile) : (modTile s n k).thr = s.thr := rfl
@[simp] theorem modTile_plim (s : State) (n : Nat) (k : Tile → Tile) : (modTile s n k).plim = s.plim := rfl
@[simp] theorem modTile_outbox (s : State) (n : Nat) (k : Tile → Tile) : (modTile s n k).outbox = s.outbox := rfl

/-! `modCore` changes `cores`. -/

@[simp] theorem modCore_cycle (s : State) (n : Nat) (k : Core → Core) : (modCore s n k).cycle = s.cycle := rfl
@[simp] theorem modCore_agenda (s : State) (n : Nat) (k : Core → Core) : (modCore s n k).agenda = s.agenda := rfl
@[simp] theorem modCore_free (s : State) (n : Nat) (k : Core → Core) : (modCore s n k).free = s.free := rfl
@[simp] theorem modCore_nextId (s : State) (n : Nat) (k : Core → Core) : (modCore s n k).nextId = s.nextId := rfl
@[simp] theorem modCore_cur (s : State) (n : Nat) (k : Core → Core) : (modCore s n k).cur = s.cur := rfl
@[simp] theorem modCore_mem (s : State) (n : Nat) (k : Core → Core) : (modCore s n k).mem = s.mem := rfl
@[simp] theorem modCore_undef (s : State) (n : Nat) (k : Core → Core) : (modCore s n k).undef = s.undef := rfl
@[simp] theorem modCore_full (s : State) (n : Nat) (k : Core → Core) : (modCore s n k).full = s.full := rfl
@[simp] theorem modCore_poison (s : State) (n : Nat) (k : Core → Core) : (modCore s n k).poison = s.poison := rfl
@[simp] theorem modCore_cores (s : State) (n : Nat) (k : Core → Core) : (modCore s n k).cores = mset s.cores n (k (Machine.core s n)) := rfl
@[simp] theorem modCore_dieTlb (s : State) (n : Nat) (k : Core → Core) : (modCore s n k).dieTlb = s.dieTlb := rfl
@[simp] theorem modCore_bridTlb (s : State) (n : Nat) (k : Core → Core) : (modCore s n k).bridTlb = s.bridTlb := rfl
@[simp] theorem modCore_tiles (s : State) (n : Nat) (k : Core → Core) : (modCore s n k).tiles = s.tiles := rfl
@[simp] theorem modCore_parts (s : State) (n : Nat) (k : Core → Core) : (modCore s n k).parts = s.parts := rfl
@[simp] theorem modCore_launches (s : State) (n : Nat) (k : Core → Core) : (modCore s n k).launches = s.launches := rfl
@[simp] theorem modCore_gangs (s : State) (n : Nat) (k : Core → Core) : (modCore s n k).gangs = s.gangs := rfl
@[simp] theorem modCore_flights (s : State) (n : Nat) (k : Core → Core) : (modCore s n k).flights = s.flights := rfl
@[simp] theorem modCore_engines (s : State) (n : Nat) (k : Core → Core) : (modCore s n k).engines = s.engines := rfl
@[simp] theorem modCore_work (s : State) (n : Nat) (k : Core → Core) : (modCore s n k).work = s.work := rfl
@[simp] theorem modCore_queues (s : State) (n : Nat) (k : Core → Core) : (modCore s n k).queues = s.queues := rfl
@[simp] theorem modCore_qgen (s : State) (n : Nat) (k : Core → Core) : (modCore s n k).qgen = s.qgen := rfl
@[simp] theorem modCore_graphs (s : State) (n : Nat) (k : Core → Core) : (modCore s n k).graphs = s.graphs := rfl
@[simp] theorem modCore_phases (s : State) (n : Nat) (k : Core → Core) : (modCore s n k).phases = s.phases := rfl
@[simp] theorem modCore_global (s : State) (n : Nat) (k : Core → Core) : (modCore s n k).global = s.global := rfl
@[simp] theorem modCore_dies (s : State) (n : Nat) (k : Core → Core) : (modCore s n k).dies = s.dies := rfl
@[simp] theorem modCore_comms (s : State) (n : Nat) (k : Core → Core) : (modCore s n k).comms = s.comms := rfl
@[simp] theorem modCore_package (s : State) (n : Nat) (k : Core → Core) : (modCore s n k).package = s.package := rfl
@[simp] theorem modCore_links (s : State) (n : Nat) (k : Core → Core) : (modCore s n k).links = s.links := rfl
@[simp] theorem modCore_linkMsgs (s : State) (n : Nat) (k : Core → Core) : (modCore s n k).linkMsgs = s.linkMsgs := rfl
@[simp] theorem modCore_sweeps (s : State) (n : Nat) (k : Core → Core) : (modCore s n k).sweeps = s.sweeps := rfl
@[simp] theorem modCore_steps (s : State) (n : Nat) (k : Core → Core) : (modCore s n k).steps = s.steps := rfl
@[simp] theorem modCore_forwards (s : State) (n : Nat) (k : Core → Core) : (modCore s n k).forwards = s.forwards := rfl
@[simp] theorem modCore_moved (s : State) (n : Nat) (k : Core → Core) : (modCore s n k).moved = s.moved := rfl
@[simp] theorem modCore_events (s : State) (n : Nat) (k : Core → Core) : (modCore s n k).events = s.events := rfl
@[simp] theorem modCore_commands (s : State) (n : Nat) (k : Core → Core) : (modCore s n k).commands = s.commands := rfl
@[simp] theorem modCore_burst (s : State) (n : Nat) (k : Core → Core) : (modCore s n k).burst = s.burst := rfl
@[simp] theorem modCore_snaps (s : State) (n : Nat) (k : Core → Core) : (modCore s n k).snaps = s.snaps := rfl
@[simp] theorem modCore_bootctl (s : State) (n : Nat) (k : Core → Core) : (modCore s n k).bootctl = s.bootctl := rfl
@[simp] theorem modCore_measured (s : State) (n : Nat) (k : Core → Core) : (modCore s n k).measured = s.measured := rfl
@[simp] theorem modCore_tmax (s : State) (n : Nat) (k : Core → Core) : (modCore s n k).tmax = s.tmax := rfl
@[simp] theorem modCore_pnow (s : State) (n : Nat) (k : Core → Core) : (modCore s n k).pnow = s.pnow := rfl
@[simp] theorem modCore_thr (s : State) (n : Nat) (k : Core → Core) : (modCore s n k).thr = s.thr := rfl
@[simp] theorem modCore_plim (s : State) (n : Nat) (k : Core → Core) : (modCore s n k).plim = s.plim := rfl
@[simp] theorem modCore_outbox (s : State) (n : Nat) (k : Core → Core) : (modCore s n k).outbox = s.outbox := rfl

/-! `modEngine` changes `engines`. -/

@[simp] theorem modEngine_cycle (s : State) (n : Nat) (k : Engine → Engine) : (modEngine s n k).cycle = s.cycle := rfl
@[simp] theorem modEngine_agenda (s : State) (n : Nat) (k : Engine → Engine) : (modEngine s n k).agenda = s.agenda := rfl
@[simp] theorem modEngine_free (s : State) (n : Nat) (k : Engine → Engine) : (modEngine s n k).free = s.free := rfl
@[simp] theorem modEngine_nextId (s : State) (n : Nat) (k : Engine → Engine) : (modEngine s n k).nextId = s.nextId := rfl
@[simp] theorem modEngine_cur (s : State) (n : Nat) (k : Engine → Engine) : (modEngine s n k).cur = s.cur := rfl
@[simp] theorem modEngine_mem (s : State) (n : Nat) (k : Engine → Engine) : (modEngine s n k).mem = s.mem := rfl
@[simp] theorem modEngine_undef (s : State) (n : Nat) (k : Engine → Engine) : (modEngine s n k).undef = s.undef := rfl
@[simp] theorem modEngine_full (s : State) (n : Nat) (k : Engine → Engine) : (modEngine s n k).full = s.full := rfl
@[simp] theorem modEngine_poison (s : State) (n : Nat) (k : Engine → Engine) : (modEngine s n k).poison = s.poison := rfl
@[simp] theorem modEngine_cores (s : State) (n : Nat) (k : Engine → Engine) : (modEngine s n k).cores = s.cores := rfl
@[simp] theorem modEngine_dieTlb (s : State) (n : Nat) (k : Engine → Engine) : (modEngine s n k).dieTlb = s.dieTlb := rfl
@[simp] theorem modEngine_bridTlb (s : State) (n : Nat) (k : Engine → Engine) : (modEngine s n k).bridTlb = s.bridTlb := rfl
@[simp] theorem modEngine_tiles (s : State) (n : Nat) (k : Engine → Engine) : (modEngine s n k).tiles = s.tiles := rfl
@[simp] theorem modEngine_parts (s : State) (n : Nat) (k : Engine → Engine) : (modEngine s n k).parts = s.parts := rfl
@[simp] theorem modEngine_launches (s : State) (n : Nat) (k : Engine → Engine) : (modEngine s n k).launches = s.launches := rfl
@[simp] theorem modEngine_gangs (s : State) (n : Nat) (k : Engine → Engine) : (modEngine s n k).gangs = s.gangs := rfl
@[simp] theorem modEngine_flights (s : State) (n : Nat) (k : Engine → Engine) : (modEngine s n k).flights = s.flights := rfl
@[simp] theorem modEngine_engines (s : State) (n : Nat) (k : Engine → Engine) : (modEngine s n k).engines = mset s.engines n (k (engine s n)) := rfl
@[simp] theorem modEngine_work (s : State) (n : Nat) (k : Engine → Engine) : (modEngine s n k).work = s.work := rfl
@[simp] theorem modEngine_queues (s : State) (n : Nat) (k : Engine → Engine) : (modEngine s n k).queues = s.queues := rfl
@[simp] theorem modEngine_qgen (s : State) (n : Nat) (k : Engine → Engine) : (modEngine s n k).qgen = s.qgen := rfl
@[simp] theorem modEngine_graphs (s : State) (n : Nat) (k : Engine → Engine) : (modEngine s n k).graphs = s.graphs := rfl
@[simp] theorem modEngine_phases (s : State) (n : Nat) (k : Engine → Engine) : (modEngine s n k).phases = s.phases := rfl
@[simp] theorem modEngine_global (s : State) (n : Nat) (k : Engine → Engine) : (modEngine s n k).global = s.global := rfl
@[simp] theorem modEngine_dies (s : State) (n : Nat) (k : Engine → Engine) : (modEngine s n k).dies = s.dies := rfl
@[simp] theorem modEngine_comms (s : State) (n : Nat) (k : Engine → Engine) : (modEngine s n k).comms = s.comms := rfl
@[simp] theorem modEngine_package (s : State) (n : Nat) (k : Engine → Engine) : (modEngine s n k).package = s.package := rfl
@[simp] theorem modEngine_links (s : State) (n : Nat) (k : Engine → Engine) : (modEngine s n k).links = s.links := rfl
@[simp] theorem modEngine_linkMsgs (s : State) (n : Nat) (k : Engine → Engine) : (modEngine s n k).linkMsgs = s.linkMsgs := rfl
@[simp] theorem modEngine_sweeps (s : State) (n : Nat) (k : Engine → Engine) : (modEngine s n k).sweeps = s.sweeps := rfl
@[simp] theorem modEngine_steps (s : State) (n : Nat) (k : Engine → Engine) : (modEngine s n k).steps = s.steps := rfl
@[simp] theorem modEngine_forwards (s : State) (n : Nat) (k : Engine → Engine) : (modEngine s n k).forwards = s.forwards := rfl
@[simp] theorem modEngine_moved (s : State) (n : Nat) (k : Engine → Engine) : (modEngine s n k).moved = s.moved := rfl
@[simp] theorem modEngine_events (s : State) (n : Nat) (k : Engine → Engine) : (modEngine s n k).events = s.events := rfl
@[simp] theorem modEngine_commands (s : State) (n : Nat) (k : Engine → Engine) : (modEngine s n k).commands = s.commands := rfl
@[simp] theorem modEngine_burst (s : State) (n : Nat) (k : Engine → Engine) : (modEngine s n k).burst = s.burst := rfl
@[simp] theorem modEngine_snaps (s : State) (n : Nat) (k : Engine → Engine) : (modEngine s n k).snaps = s.snaps := rfl
@[simp] theorem modEngine_bootctl (s : State) (n : Nat) (k : Engine → Engine) : (modEngine s n k).bootctl = s.bootctl := rfl
@[simp] theorem modEngine_measured (s : State) (n : Nat) (k : Engine → Engine) : (modEngine s n k).measured = s.measured := rfl
@[simp] theorem modEngine_tmax (s : State) (n : Nat) (k : Engine → Engine) : (modEngine s n k).tmax = s.tmax := rfl
@[simp] theorem modEngine_pnow (s : State) (n : Nat) (k : Engine → Engine) : (modEngine s n k).pnow = s.pnow := rfl
@[simp] theorem modEngine_thr (s : State) (n : Nat) (k : Engine → Engine) : (modEngine s n k).thr = s.thr := rfl
@[simp] theorem modEngine_plim (s : State) (n : Nat) (k : Engine → Engine) : (modEngine s n k).plim = s.plim := rfl
@[simp] theorem modEngine_outbox (s : State) (n : Nat) (k : Engine → Engine) : (modEngine s n k).outbox = s.outbox := rfl

/-! `putQueue` changes `queues`. -/

@[simp] theorem putQueue_cycle (s : State) (n : Nat) (q : Queue) : (putQueue s n q).cycle = s.cycle := rfl
@[simp] theorem putQueue_agenda (s : State) (n : Nat) (q : Queue) : (putQueue s n q).agenda = s.agenda := rfl
@[simp] theorem putQueue_free (s : State) (n : Nat) (q : Queue) : (putQueue s n q).free = s.free := rfl
@[simp] theorem putQueue_nextId (s : State) (n : Nat) (q : Queue) : (putQueue s n q).nextId = s.nextId := rfl
@[simp] theorem putQueue_cur (s : State) (n : Nat) (q : Queue) : (putQueue s n q).cur = s.cur := rfl
@[simp] theorem putQueue_mem (s : State) (n : Nat) (q : Queue) : (putQueue s n q).mem = s.mem := rfl
@[simp] theorem putQueue_undef (s : State) (n : Nat) (q : Queue) : (putQueue s n q).undef = s.undef := rfl
@[simp] theorem putQueue_full (s : State) (n : Nat) (q : Queue) : (putQueue s n q).full = s.full := rfl
@[simp] theorem putQueue_poison (s : State) (n : Nat) (q : Queue) : (putQueue s n q).poison = s.poison := rfl
@[simp] theorem putQueue_cores (s : State) (n : Nat) (q : Queue) : (putQueue s n q).cores = s.cores := rfl
@[simp] theorem putQueue_dieTlb (s : State) (n : Nat) (q : Queue) : (putQueue s n q).dieTlb = s.dieTlb := rfl
@[simp] theorem putQueue_bridTlb (s : State) (n : Nat) (q : Queue) : (putQueue s n q).bridTlb = s.bridTlb := rfl
@[simp] theorem putQueue_tiles (s : State) (n : Nat) (q : Queue) : (putQueue s n q).tiles = s.tiles := rfl
@[simp] theorem putQueue_parts (s : State) (n : Nat) (q : Queue) : (putQueue s n q).parts = s.parts := rfl
@[simp] theorem putQueue_launches (s : State) (n : Nat) (q : Queue) : (putQueue s n q).launches = s.launches := rfl
@[simp] theorem putQueue_gangs (s : State) (n : Nat) (q : Queue) : (putQueue s n q).gangs = s.gangs := rfl
@[simp] theorem putQueue_flights (s : State) (n : Nat) (q : Queue) : (putQueue s n q).flights = s.flights := rfl
@[simp] theorem putQueue_engines (s : State) (n : Nat) (q : Queue) : (putQueue s n q).engines = s.engines := rfl
@[simp] theorem putQueue_work (s : State) (n : Nat) (q : Queue) : (putQueue s n q).work = s.work := rfl
@[simp] theorem putQueue_queues (s : State) (n : Nat) (q : Queue) : (putQueue s n q).queues = mset s.queues n q := rfl
@[simp] theorem putQueue_qgen (s : State) (n : Nat) (q : Queue) : (putQueue s n q).qgen = s.qgen := rfl
@[simp] theorem putQueue_graphs (s : State) (n : Nat) (q : Queue) : (putQueue s n q).graphs = s.graphs := rfl
@[simp] theorem putQueue_phases (s : State) (n : Nat) (q : Queue) : (putQueue s n q).phases = s.phases := rfl
@[simp] theorem putQueue_global (s : State) (n : Nat) (q : Queue) : (putQueue s n q).global = s.global := rfl
@[simp] theorem putQueue_dies (s : State) (n : Nat) (q : Queue) : (putQueue s n q).dies = s.dies := rfl
@[simp] theorem putQueue_comms (s : State) (n : Nat) (q : Queue) : (putQueue s n q).comms = s.comms := rfl
@[simp] theorem putQueue_package (s : State) (n : Nat) (q : Queue) : (putQueue s n q).package = s.package := rfl
@[simp] theorem putQueue_links (s : State) (n : Nat) (q : Queue) : (putQueue s n q).links = s.links := rfl
@[simp] theorem putQueue_linkMsgs (s : State) (n : Nat) (q : Queue) : (putQueue s n q).linkMsgs = s.linkMsgs := rfl
@[simp] theorem putQueue_sweeps (s : State) (n : Nat) (q : Queue) : (putQueue s n q).sweeps = s.sweeps := rfl
@[simp] theorem putQueue_steps (s : State) (n : Nat) (q : Queue) : (putQueue s n q).steps = s.steps := rfl
@[simp] theorem putQueue_forwards (s : State) (n : Nat) (q : Queue) : (putQueue s n q).forwards = s.forwards := rfl
@[simp] theorem putQueue_moved (s : State) (n : Nat) (q : Queue) : (putQueue s n q).moved = s.moved := rfl
@[simp] theorem putQueue_events (s : State) (n : Nat) (q : Queue) : (putQueue s n q).events = s.events := rfl
@[simp] theorem putQueue_commands (s : State) (n : Nat) (q : Queue) : (putQueue s n q).commands = s.commands := rfl
@[simp] theorem putQueue_burst (s : State) (n : Nat) (q : Queue) : (putQueue s n q).burst = s.burst := rfl
@[simp] theorem putQueue_snaps (s : State) (n : Nat) (q : Queue) : (putQueue s n q).snaps = s.snaps := rfl
@[simp] theorem putQueue_bootctl (s : State) (n : Nat) (q : Queue) : (putQueue s n q).bootctl = s.bootctl := rfl
@[simp] theorem putQueue_measured (s : State) (n : Nat) (q : Queue) : (putQueue s n q).measured = s.measured := rfl
@[simp] theorem putQueue_tmax (s : State) (n : Nat) (q : Queue) : (putQueue s n q).tmax = s.tmax := rfl
@[simp] theorem putQueue_pnow (s : State) (n : Nat) (q : Queue) : (putQueue s n q).pnow = s.pnow := rfl
@[simp] theorem putQueue_thr (s : State) (n : Nat) (q : Queue) : (putQueue s n q).thr = s.thr := rfl
@[simp] theorem putQueue_plim (s : State) (n : Nat) (q : Queue) : (putQueue s n q).plim = s.plim := rfl
@[simp] theorem putQueue_outbox (s : State) (n : Nat) (q : Queue) : (putQueue s n q).outbox = s.outbox := rfl

/-! `send` changes `outbox`. -/

@[simp] theorem send_cycle (s : State) (m : Msg) : (send s m).cycle = s.cycle := rfl
@[simp] theorem send_agenda (s : State) (m : Msg) : (send s m).agenda = s.agenda := rfl
@[simp] theorem send_free (s : State) (m : Msg) : (send s m).free = s.free := rfl
@[simp] theorem send_nextId (s : State) (m : Msg) : (send s m).nextId = s.nextId := rfl
@[simp] theorem send_cur (s : State) (m : Msg) : (send s m).cur = s.cur := rfl
@[simp] theorem send_mem (s : State) (m : Msg) : (send s m).mem = s.mem := rfl
@[simp] theorem send_undef (s : State) (m : Msg) : (send s m).undef = s.undef := rfl
@[simp] theorem send_full (s : State) (m : Msg) : (send s m).full = s.full := rfl
@[simp] theorem send_poison (s : State) (m : Msg) : (send s m).poison = s.poison := rfl
@[simp] theorem send_cores (s : State) (m : Msg) : (send s m).cores = s.cores := rfl
@[simp] theorem send_dieTlb (s : State) (m : Msg) : (send s m).dieTlb = s.dieTlb := rfl
@[simp] theorem send_bridTlb (s : State) (m : Msg) : (send s m).bridTlb = s.bridTlb := rfl
@[simp] theorem send_tiles (s : State) (m : Msg) : (send s m).tiles = s.tiles := rfl
@[simp] theorem send_parts (s : State) (m : Msg) : (send s m).parts = s.parts := rfl
@[simp] theorem send_launches (s : State) (m : Msg) : (send s m).launches = s.launches := rfl
@[simp] theorem send_gangs (s : State) (m : Msg) : (send s m).gangs = s.gangs := rfl
@[simp] theorem send_flights (s : State) (m : Msg) : (send s m).flights = s.flights := rfl
@[simp] theorem send_engines (s : State) (m : Msg) : (send s m).engines = s.engines := rfl
@[simp] theorem send_work (s : State) (m : Msg) : (send s m).work = s.work := rfl
@[simp] theorem send_queues (s : State) (m : Msg) : (send s m).queues = s.queues := rfl
@[simp] theorem send_qgen (s : State) (m : Msg) : (send s m).qgen = s.qgen := rfl
@[simp] theorem send_graphs (s : State) (m : Msg) : (send s m).graphs = s.graphs := rfl
@[simp] theorem send_phases (s : State) (m : Msg) : (send s m).phases = s.phases := rfl
@[simp] theorem send_global (s : State) (m : Msg) : (send s m).global = s.global := rfl
@[simp] theorem send_dies (s : State) (m : Msg) : (send s m).dies = s.dies := rfl
@[simp] theorem send_comms (s : State) (m : Msg) : (send s m).comms = s.comms := rfl
@[simp] theorem send_package (s : State) (m : Msg) : (send s m).package = s.package := rfl
@[simp] theorem send_links (s : State) (m : Msg) : (send s m).links = s.links := rfl
@[simp] theorem send_linkMsgs (s : State) (m : Msg) : (send s m).linkMsgs = s.linkMsgs := rfl
@[simp] theorem send_sweeps (s : State) (m : Msg) : (send s m).sweeps = s.sweeps := rfl
@[simp] theorem send_steps (s : State) (m : Msg) : (send s m).steps = s.steps := rfl
@[simp] theorem send_forwards (s : State) (m : Msg) : (send s m).forwards = s.forwards := rfl
@[simp] theorem send_moved (s : State) (m : Msg) : (send s m).moved = s.moved := rfl
@[simp] theorem send_events (s : State) (m : Msg) : (send s m).events = s.events := rfl
@[simp] theorem send_commands (s : State) (m : Msg) : (send s m).commands = s.commands := rfl
@[simp] theorem send_burst (s : State) (m : Msg) : (send s m).burst = s.burst := rfl
@[simp] theorem send_snaps (s : State) (m : Msg) : (send s m).snaps = s.snaps := rfl
@[simp] theorem send_bootctl (s : State) (m : Msg) : (send s m).bootctl = s.bootctl := rfl
@[simp] theorem send_measured (s : State) (m : Msg) : (send s m).measured = s.measured := rfl
@[simp] theorem send_tmax (s : State) (m : Msg) : (send s m).tmax = s.tmax := rfl
@[simp] theorem send_pnow (s : State) (m : Msg) : (send s m).pnow = s.pnow := rfl
@[simp] theorem send_thr (s : State) (m : Msg) : (send s m).thr = s.thr := rfl
@[simp] theorem send_plim (s : State) (m : Msg) : (send s m).plim = s.plim := rfl
@[simp] theorem send_outbox (s : State) (m : Msg) : (send s m).outbox = s.outbox ++ [m] := rfl

/-! `setFull` changes `full`. -/

@[simp] theorem setFull_cycle (s : State) (a : Nat) (b : Bool) : (setFull s a b).cycle = s.cycle := rfl
@[simp] theorem setFull_agenda (s : State) (a : Nat) (b : Bool) : (setFull s a b).agenda = s.agenda := rfl
@[simp] theorem setFull_free (s : State) (a : Nat) (b : Bool) : (setFull s a b).free = s.free := rfl
@[simp] theorem setFull_nextId (s : State) (a : Nat) (b : Bool) : (setFull s a b).nextId = s.nextId := rfl
@[simp] theorem setFull_cur (s : State) (a : Nat) (b : Bool) : (setFull s a b).cur = s.cur := rfl
@[simp] theorem setFull_mem (s : State) (a : Nat) (b : Bool) : (setFull s a b).mem = s.mem := rfl
@[simp] theorem setFull_undef (s : State) (a : Nat) (b : Bool) : (setFull s a b).undef = s.undef := rfl
@[simp] theorem setFull_full (s : State) (a : Nat) (b : Bool) : (setFull s a b).full = if b then sAdd s.full (a / 16) else sDel s.full (a / 16) := rfl
@[simp] theorem setFull_poison (s : State) (a : Nat) (b : Bool) : (setFull s a b).poison = s.poison := rfl
@[simp] theorem setFull_cores (s : State) (a : Nat) (b : Bool) : (setFull s a b).cores = s.cores := rfl
@[simp] theorem setFull_dieTlb (s : State) (a : Nat) (b : Bool) : (setFull s a b).dieTlb = s.dieTlb := rfl
@[simp] theorem setFull_bridTlb (s : State) (a : Nat) (b : Bool) : (setFull s a b).bridTlb = s.bridTlb := rfl
@[simp] theorem setFull_tiles (s : State) (a : Nat) (b : Bool) : (setFull s a b).tiles = s.tiles := rfl
@[simp] theorem setFull_parts (s : State) (a : Nat) (b : Bool) : (setFull s a b).parts = s.parts := rfl
@[simp] theorem setFull_launches (s : State) (a : Nat) (b : Bool) : (setFull s a b).launches = s.launches := rfl
@[simp] theorem setFull_gangs (s : State) (a : Nat) (b : Bool) : (setFull s a b).gangs = s.gangs := rfl
@[simp] theorem setFull_flights (s : State) (a : Nat) (b : Bool) : (setFull s a b).flights = s.flights := rfl
@[simp] theorem setFull_engines (s : State) (a : Nat) (b : Bool) : (setFull s a b).engines = s.engines := rfl
@[simp] theorem setFull_work (s : State) (a : Nat) (b : Bool) : (setFull s a b).work = s.work := rfl
@[simp] theorem setFull_queues (s : State) (a : Nat) (b : Bool) : (setFull s a b).queues = s.queues := rfl
@[simp] theorem setFull_qgen (s : State) (a : Nat) (b : Bool) : (setFull s a b).qgen = s.qgen := rfl
@[simp] theorem setFull_graphs (s : State) (a : Nat) (b : Bool) : (setFull s a b).graphs = s.graphs := rfl
@[simp] theorem setFull_phases (s : State) (a : Nat) (b : Bool) : (setFull s a b).phases = s.phases := rfl
@[simp] theorem setFull_global (s : State) (a : Nat) (b : Bool) : (setFull s a b).global = s.global := rfl
@[simp] theorem setFull_dies (s : State) (a : Nat) (b : Bool) : (setFull s a b).dies = s.dies := rfl
@[simp] theorem setFull_comms (s : State) (a : Nat) (b : Bool) : (setFull s a b).comms = s.comms := rfl
@[simp] theorem setFull_package (s : State) (a : Nat) (b : Bool) : (setFull s a b).package = s.package := rfl
@[simp] theorem setFull_links (s : State) (a : Nat) (b : Bool) : (setFull s a b).links = s.links := rfl
@[simp] theorem setFull_linkMsgs (s : State) (a : Nat) (b : Bool) : (setFull s a b).linkMsgs = s.linkMsgs := rfl
@[simp] theorem setFull_sweeps (s : State) (a : Nat) (b : Bool) : (setFull s a b).sweeps = s.sweeps := rfl
@[simp] theorem setFull_steps (s : State) (a : Nat) (b : Bool) : (setFull s a b).steps = s.steps := rfl
@[simp] theorem setFull_forwards (s : State) (a : Nat) (b : Bool) : (setFull s a b).forwards = s.forwards := rfl
@[simp] theorem setFull_moved (s : State) (a : Nat) (b : Bool) : (setFull s a b).moved = s.moved := rfl
@[simp] theorem setFull_events (s : State) (a : Nat) (b : Bool) : (setFull s a b).events = s.events := rfl
@[simp] theorem setFull_commands (s : State) (a : Nat) (b : Bool) : (setFull s a b).commands = s.commands := rfl
@[simp] theorem setFull_burst (s : State) (a : Nat) (b : Bool) : (setFull s a b).burst = s.burst := rfl
@[simp] theorem setFull_snaps (s : State) (a : Nat) (b : Bool) : (setFull s a b).snaps = s.snaps := rfl
@[simp] theorem setFull_bootctl (s : State) (a : Nat) (b : Bool) : (setFull s a b).bootctl = s.bootctl := rfl
@[simp] theorem setFull_measured (s : State) (a : Nat) (b : Bool) : (setFull s a b).measured = s.measured := rfl
@[simp] theorem setFull_tmax (s : State) (a : Nat) (b : Bool) : (setFull s a b).tmax = s.tmax := rfl
@[simp] theorem setFull_pnow (s : State) (a : Nat) (b : Bool) : (setFull s a b).pnow = s.pnow := rfl
@[simp] theorem setFull_thr (s : State) (a : Nat) (b : Bool) : (setFull s a b).thr = s.thr := rfl
@[simp] theorem setFull_plim (s : State) (a : Nat) (b : Bool) : (setFull s a b).plim = s.plim := rfl
@[simp] theorem setFull_outbox (s : State) (a : Nat) (b : Bool) : (setFull s a b).outbox = s.outbox := rfl

/-! `commit` changes `flights`. -/

@[simp] theorem commit_cycle (c : Ctx) : (commit c).cycle = c.st.cycle := rfl
@[simp] theorem commit_agenda (c : Ctx) : (commit c).agenda = c.st.agenda := rfl
@[simp] theorem commit_nextId (c : Ctx) : (commit c).nextId = c.st.nextId := rfl
@[simp] theorem commit_full (c : Ctx) : (commit c).full = c.st.full := rfl
@[simp] theorem commit_poison (c : Ctx) : (commit c).poison = c.st.poison := rfl
@[simp] theorem commit_cores (c : Ctx) : (commit c).cores = c.st.cores := rfl
@[simp] theorem commit_dieTlb (c : Ctx) : (commit c).dieTlb = c.st.dieTlb := rfl
@[simp] theorem commit_bridTlb (c : Ctx) : (commit c).bridTlb = c.st.bridTlb := rfl
@[simp] theorem commit_tiles (c : Ctx) : (commit c).tiles = c.st.tiles := rfl
@[simp] theorem commit_parts (c : Ctx) : (commit c).parts = c.st.parts := rfl
@[simp] theorem commit_launches (c : Ctx) : (commit c).launches = c.st.launches := rfl
@[simp] theorem commit_gangs (c : Ctx) : (commit c).gangs = c.st.gangs := rfl
@[simp] theorem commit_flights (c : Ctx) : (commit c).flights = mset c.st.flights c.st.cur.1 (putFrag c.f c.g) := rfl
@[simp] theorem commit_engines (c : Ctx) : (commit c).engines = c.st.engines := rfl
@[simp] theorem commit_work (c : Ctx) : (commit c).work = c.st.work := rfl
@[simp] theorem commit_queues (c : Ctx) : (commit c).queues = c.st.queues := rfl
@[simp] theorem commit_qgen (c : Ctx) : (commit c).qgen = c.st.qgen := rfl
@[simp] theorem commit_graphs (c : Ctx) : (commit c).graphs = c.st.graphs := rfl
@[simp] theorem commit_phases (c : Ctx) : (commit c).phases = c.st.phases := rfl
@[simp] theorem commit_global (c : Ctx) : (commit c).global = c.st.global := rfl
@[simp] theorem commit_dies (c : Ctx) : (commit c).dies = c.st.dies := rfl
@[simp] theorem commit_comms (c : Ctx) : (commit c).comms = c.st.comms := rfl
@[simp] theorem commit_package (c : Ctx) : (commit c).package = c.st.package := rfl
@[simp] theorem commit_links (c : Ctx) : (commit c).links = c.st.links := rfl
@[simp] theorem commit_linkMsgs (c : Ctx) : (commit c).linkMsgs = c.st.linkMsgs := rfl
@[simp] theorem commit_sweeps (c : Ctx) : (commit c).sweeps = c.st.sweeps := rfl
@[simp] theorem commit_steps (c : Ctx) : (commit c).steps = c.st.steps := rfl
@[simp] theorem commit_forwards (c : Ctx) : (commit c).forwards = c.st.forwards := rfl
@[simp] theorem commit_moved (c : Ctx) : (commit c).moved = c.st.moved := rfl
@[simp] theorem commit_events (c : Ctx) : (commit c).events = c.st.events := rfl
@[simp] theorem commit_commands (c : Ctx) : (commit c).commands = c.st.commands := rfl
@[simp] theorem commit_burst (c : Ctx) : (commit c).burst = c.st.burst := rfl
@[simp] theorem commit_snaps (c : Ctx) : (commit c).snaps = c.st.snaps := rfl
@[simp] theorem commit_bootctl (c : Ctx) : (commit c).bootctl = c.st.bootctl := rfl
@[simp] theorem commit_measured (c : Ctx) : (commit c).measured = c.st.measured := rfl
@[simp] theorem commit_tmax (c : Ctx) : (commit c).tmax = c.st.tmax := rfl
@[simp] theorem commit_pnow (c : Ctx) : (commit c).pnow = c.st.pnow := rfl
@[simp] theorem commit_thr (c : Ctx) : (commit c).thr = c.st.thr := rfl
@[simp] theorem commit_plim (c : Ctx) : (commit c).plim = c.st.plim := rfl
@[simp] theorem commit_outbox (c : Ctx) : (commit c).outbox = c.st.outbox := rfl

/-! `writeBytes` changes memory, what is undefined in it, and what is sent on (05 R107, 16 R354). -/

@[simp] theorem writeBytes_cycle (s : State) (a : Nat) (bs : List Byte) : (writeBytes s a bs).cycle = s.cycle := by
  unfold writeBytes alert; dsimp only; (repeat' split) <;> rfl
@[simp] theorem writeBytes_agenda (s : State) (a : Nat) (bs : List Byte) : (writeBytes s a bs).agenda = s.agenda := by
  unfold writeBytes alert; dsimp only; (repeat' split) <;> rfl
@[simp] theorem writeBytes_free (s : State) (a : Nat) (bs : List Byte) : (writeBytes s a bs).free = s.free := by
  unfold writeBytes alert; dsimp only; (repeat' split) <;> rfl
@[simp] theorem writeBytes_nextId (s : State) (a : Nat) (bs : List Byte) : (writeBytes s a bs).nextId = s.nextId := by
  unfold writeBytes alert; dsimp only; (repeat' split) <;> rfl
@[simp] theorem writeBytes_cur (s : State) (a : Nat) (bs : List Byte) : (writeBytes s a bs).cur = s.cur := by
  unfold writeBytes alert; dsimp only; (repeat' split) <;> rfl
@[simp] theorem writeBytes_full (s : State) (a : Nat) (bs : List Byte) : (writeBytes s a bs).full = s.full := by
  unfold writeBytes alert; dsimp only; (repeat' split) <;> rfl
@[simp] theorem writeBytes_poison (s : State) (a : Nat) (bs : List Byte) : (writeBytes s a bs).poison = s.poison := by
  unfold writeBytes alert; dsimp only; (repeat' split) <;> rfl
@[simp] theorem writeBytes_cores (s : State) (a : Nat) (bs : List Byte) : (writeBytes s a bs).cores = s.cores := by
  unfold writeBytes alert; dsimp only; (repeat' split) <;> rfl
@[simp] theorem writeBytes_dieTlb (s : State) (a : Nat) (bs : List Byte) : (writeBytes s a bs).dieTlb = s.dieTlb := by
  unfold writeBytes alert; dsimp only; (repeat' split) <;> rfl
@[simp] theorem writeBytes_bridTlb (s : State) (a : Nat) (bs : List Byte) : (writeBytes s a bs).bridTlb = s.bridTlb := by
  unfold writeBytes alert; dsimp only; (repeat' split) <;> rfl
@[simp] theorem writeBytes_tiles (s : State) (a : Nat) (bs : List Byte) : (writeBytes s a bs).tiles = s.tiles := by
  unfold writeBytes alert; dsimp only; (repeat' split) <;> rfl
@[simp] theorem writeBytes_parts (s : State) (a : Nat) (bs : List Byte) : (writeBytes s a bs).parts = s.parts := by
  unfold writeBytes alert; dsimp only; (repeat' split) <;> rfl
@[simp] theorem writeBytes_launches (s : State) (a : Nat) (bs : List Byte) : (writeBytes s a bs).launches = s.launches := by
  unfold writeBytes alert; dsimp only; (repeat' split) <;> rfl
@[simp] theorem writeBytes_gangs (s : State) (a : Nat) (bs : List Byte) : (writeBytes s a bs).gangs = s.gangs := by
  unfold writeBytes alert; dsimp only; (repeat' split) <;> rfl
@[simp] theorem writeBytes_flights (s : State) (a : Nat) (bs : List Byte) : (writeBytes s a bs).flights = s.flights := by
  unfold writeBytes alert; dsimp only; (repeat' split) <;> rfl
@[simp] theorem writeBytes_engines (s : State) (a : Nat) (bs : List Byte) : (writeBytes s a bs).engines = s.engines := by
  unfold writeBytes alert; dsimp only; (repeat' split) <;> rfl
@[simp] theorem writeBytes_work (s : State) (a : Nat) (bs : List Byte) : (writeBytes s a bs).work = s.work := by
  unfold writeBytes alert; dsimp only; (repeat' split) <;> rfl
/-- A write to no line that a blocked queue monitors leaves the queues and their events alone (16 R339). -/
theorem alert_quiet (s t : State) (a n : Nat) (h : (t.queues.any fun q => q.2.monitors a n) = false) : alert s t a n = t := by
  rw [alert, h]; rfl

theorem writeBytes_queues (s : State) (a : Nat) (bs : List Byte) (h : (s.queues.any fun q => q.2.monitors a bs.length) = false) :
    (writeBytes s a bs).queues = s.queues := by
  unfold writeBytes alert; dsimp only; rw [h]; rfl

theorem writeBytes_events (s : State) (a : Nat) (bs : List Byte) (h : (s.queues.any fun q => q.2.monitors a bs.length) = false) :
    (writeBytes s a bs).events = s.events := by
  unfold writeBytes alert; dsimp only; rw [h]; rfl

@[simp] theorem writeBytes_qgen (s : State) (a : Nat) (bs : List Byte) : (writeBytes s a bs).qgen = s.qgen := by
  unfold writeBytes alert; dsimp only; (repeat' split) <;> rfl
@[simp] theorem writeBytes_graphs (s : State) (a : Nat) (bs : List Byte) : (writeBytes s a bs).graphs = s.graphs := by
  unfold writeBytes alert; dsimp only; (repeat' split) <;> rfl
@[simp] theorem writeBytes_phases (s : State) (a : Nat) (bs : List Byte) : (writeBytes s a bs).phases = s.phases := by
  unfold writeBytes alert; dsimp only; (repeat' split) <;> rfl
@[simp] theorem writeBytes_global (s : State) (a : Nat) (bs : List Byte) : (writeBytes s a bs).global = s.global := by
  unfold writeBytes alert; dsimp only; (repeat' split) <;> rfl
@[simp] theorem writeBytes_dies (s : State) (a : Nat) (bs : List Byte) : (writeBytes s a bs).dies = s.dies := by
  unfold writeBytes alert; dsimp only; (repeat' split) <;> rfl
@[simp] theorem writeBytes_comms (s : State) (a : Nat) (bs : List Byte) : (writeBytes s a bs).comms = s.comms := by
  unfold writeBytes alert; dsimp only; (repeat' split) <;> rfl
@[simp] theorem writeBytes_package (s : State) (a : Nat) (bs : List Byte) : (writeBytes s a bs).package = s.package := by
  unfold writeBytes alert; dsimp only; (repeat' split) <;> rfl
@[simp] theorem writeBytes_links (s : State) (a : Nat) (bs : List Byte) : (writeBytes s a bs).links = s.links := by
  unfold writeBytes alert; dsimp only; (repeat' split) <;> rfl
@[simp] theorem writeBytes_linkMsgs (s : State) (a : Nat) (bs : List Byte) : (writeBytes s a bs).linkMsgs = s.linkMsgs := by
  unfold writeBytes alert; dsimp only; (repeat' split) <;> rfl
@[simp] theorem writeBytes_sweeps (s : State) (a : Nat) (bs : List Byte) : (writeBytes s a bs).sweeps = s.sweeps := by
  unfold writeBytes alert; dsimp only; (repeat' split) <;> rfl
@[simp] theorem writeBytes_steps (s : State) (a : Nat) (bs : List Byte) : (writeBytes s a bs).steps = s.steps := by
  unfold writeBytes alert; dsimp only; (repeat' split) <;> rfl
@[simp] theorem writeBytes_forwards (s : State) (a : Nat) (bs : List Byte) : (writeBytes s a bs).forwards = s.forwards := by
  unfold writeBytes alert; dsimp only; (repeat' split) <;> rfl
@[simp] theorem writeBytes_moved (s : State) (a : Nat) (bs : List Byte) : (writeBytes s a bs).moved = s.moved := by
  unfold writeBytes alert; dsimp only; (repeat' split) <;> rfl
@[simp] theorem writeBytes_commands (s : State) (a : Nat) (bs : List Byte) : (writeBytes s a bs).commands = s.commands := by
  unfold writeBytes alert; dsimp only; (repeat' split) <;> rfl
@[simp] theorem writeBytes_burst (s : State) (a : Nat) (bs : List Byte) : (writeBytes s a bs).burst = s.burst := by
  unfold writeBytes alert; dsimp only; (repeat' split) <;> rfl
@[simp] theorem writeBytes_snaps (s : State) (a : Nat) (bs : List Byte) : (writeBytes s a bs).snaps = s.snaps := by
  unfold writeBytes alert; dsimp only; (repeat' split) <;> rfl
@[simp] theorem writeBytes_bootctl (s : State) (a : Nat) (bs : List Byte) : (writeBytes s a bs).bootctl = s.bootctl := by
  unfold writeBytes alert; dsimp only; (repeat' split) <;> rfl
@[simp] theorem writeBytes_measured (s : State) (a : Nat) (bs : List Byte) : (writeBytes s a bs).measured = s.measured := by
  unfold writeBytes alert; dsimp only; (repeat' split) <;> rfl
@[simp] theorem writeBytes_tmax (s : State) (a : Nat) (bs : List Byte) : (writeBytes s a bs).tmax = s.tmax := by
  unfold writeBytes alert; dsimp only; (repeat' split) <;> rfl
@[simp] theorem writeBytes_pnow (s : State) (a : Nat) (bs : List Byte) : (writeBytes s a bs).pnow = s.pnow := by
  unfold writeBytes alert; dsimp only; (repeat' split) <;> rfl
@[simp] theorem writeBytes_thr (s : State) (a : Nat) (bs : List Byte) : (writeBytes s a bs).thr = s.thr := by
  unfold writeBytes alert; dsimp only; (repeat' split) <;> rfl
@[simp] theorem writeBytes_plim (s : State) (a : Nat) (bs : List Byte) : (writeBytes s a bs).plim = s.plim := by
  unfold writeBytes alert; dsimp only; (repeat' split) <;> rfl

/-- A write sends on what it writes to pages that have a forwarding entry, and nothing else. -/
theorem writeBytes_outbox (s : State) (a : Nat) (bs : List Byte) :
    (writeBytes s a bs).outbox = s.outbox ++ forwardMsgs s.forwards a bs := by
  unfold writeBytes alert; dsimp only; (repeat' split) <;> simp

/-! What the lookups read after an update. -/

theorem flight?_modFlight (s : State) (n k : Nat) (h : Flight → Flight) :
    flight? (modFlight s n h) k = if k = n then (flight? s n).map h else flight? s k := by
  simp [flight?, mget?_mmod]

theorem part?_modPart (s : State) (n k : Nat) (h : Part → Part) :
    part? (modPart s n h) k = if k = n then (part? s n).map h else part? s k := by
  simp [part?, mget?_mmod]

theorem core_modCore (s : State) (n k : Nat) (h : Core → Core) :
    Machine.core (modCore s n h) k = if k = n then h (Machine.core s n) else Machine.core s k := by
  simp only [Machine.core, modCore_cores, mgetD_mset]

theorem tileAt_modTile (s : State) (n k : Nat) (h : Tile → Tile) :
    tileAt (modTile s n h) k = if k = n then h (tileAt s n) else tileAt s k := by
  simp only [tileAt, modTile_tiles, mgetD_mset]

theorem readByte_send (s : State) (m : Msg) (a : Nat) : readByte (send s m) a = readByte s a := rfl

theorem readByte_modFlight (s : State) (n a : Nat) (k : Flight → Flight) : readByte (modFlight s n k) a = readByte s a := rfl

/-- Memory that an update leaves alone keeps its canonical form. -/
theorem canonical_of_mem {s t : State} (h : t.mem = s.mem) (hs : s.Canonical) : t.Canonical := by
  unfold State.Canonical at *
  rw [h]; exact hs

end Sys2Proof.Machine
end

