-- ==== Sys2Proof/Laws/Access.lean ====
section
/-!
SUPPORT. What the lookups of an access can change: held translations, the words of an instruction cache and the choices
drawn for it (04 R83, 01 R9); and where the doorbell pages of a partition may lie (16 R335).
-/
namespace Sys2Proof.Machine

/-- A state that differs from another in its cores, its dies' translations and the free values drawn alone. -/
def Looked (s t : State) : Prop := t = { s with cores := t.cores, dieTlb := t.dieTlb, free := t.free }

theorem looked_refl (s : State) : Looked s s := rfl

theorem looked_trans {s t u : State} (h : Looked s t) (k : Looked t u) : Looked s u := by
  unfold Looked at *
  rw [k]; rw [h]

theorem looked_modCore (s : State) (c : Nat) (k : Core → Core) : Looked s (modCore s c k) := rfl

theorem looked_mem {s t : State} (h : Looked s t) : t.mem = s.mem := by rw [h]

theorem looked_flights {s t : State} (h : Looked s t) : t.flights = s.flights := by rw [h]

/-- A translation leaves all but held translations as they were. -/
theorem translate_looked (s : State) (pid c : Nat) (lp : Option TlbEntry) (sup : Bool) (a : Acc) (va : DWord) :
    Looked s (translate s pid c lp sup a va).2 := by
  unfold translate
  dsimp only
  split
  · exact looked_refl s
  split
  · exact looked_refl s
  split
  · exact rfl
  split
  · split
    · exact rfl
    · exact looked_refl s
  · exact looked_refl s

theorem checkOne_looked (s : State) (pid cr : Nat) (sup : Bool) (lp : Option TlbEntry) (ms : MSpec) (va : DWord) :
    Looked s (checkOne s pid cr sup lp ms va).2.2 := by
  unfold checkOne checkGlobal
  dsimp only
  repeat' split
  all_goals first
    | exact looked_refl s
    | (rename_i h; have := translate_looked s pid cr lp sup ms.acc va; rw [h] at this; exact this)
    | (rename_i h _; have := translate_looked s pid cr lp sup ms.acc va; rw [h] at this; exact this)

/-- The checks of an access leave all but held translations as they were. -/
theorem checkAll_looked (sup : Bool) (ms : MSpec) (ts : List Tgt) (s : State) (f : Flight) :
    Looked s (checkAll s f sup ms ts).2.2 := by
  induction ts generalizing s f with
  | nil => exact looked_refl s
  | cons t r ih =>
    exact looked_trans (checkOne_looked s f.pid f.core sup (lastPage f ms.m.vec t.lane) ms t.va) (ih _ _)

theorem fetchAt_looked (s : State) (cr k : Nat) : Looked s (fetchAt s cr k).2 := by
  unfold fetchAt
  dsimp only
  repeat' split
  all_goals exact rfl

/-- A fetch leaves all but held translations and words as they were. -/
theorem fetch_looked (s : State) (f : Flight) (g : Fragment) : Looked s (fetch s f g).2 := by
  unfold fetch
  split
  · exact looked_refl s
  split
  · exact looked_refl s
  split
  · split
    · exact fetchAt_looked s _ _
    · exact looked_refl s
  have ht := translate_looked s f.pid f.core none (g.level != 0) .fetch g.pc
  split
  · rename_i h
    rw [h] at ht
    exact ht
  · rename_i h
    rw [h] at ht
    exact ht
  · rename_i h
    rw [h] at ht
    dsimp only
    split
    · exact looked_trans ht (fetchAt_looked _ _ _)
    · exact ht

/-- 04 R78: what a canonical address's upper bits are. -/
theorem canonical_bits (va : DWord) (h : canonical va = true) : ∀ i, 55 ≤ i → i < 64 → va.getLsbD i = va.getLsbD 63 := by
  have key : ∀ i, 55 ≤ i → va.getLsbD i = (va.toNat / 2 ^ 55).testBit (i - 55) := fun i hi => by
    rw [Nat.testBit_div_two_pow, Nat.sub_add_cancel hi]; rfl
  intro i h1 h2
  rw [key i h1, key 63 (by decide)]
  rcases Bool.or_eq_true _ _ ▸ h with h | h <;> rw [beq_iff_eq.1 h]
  · simp
  · have : i - 55 < 9 := by omega
    generalize i - 55 = k at this ⊢
    revert k
    decide

/-- 16 R335 (log 65): a doorbell page is a page of canonical addresses outside the scratch window. -/
theorem doorPage_page (pid q : Nat) : canonical (doorPage pid q) = true ∧ inWindow (doorPage pid q) = false ∧
    (doorPage pid q).toNat % 4096 = 0 := by
  unfold doorPage
  dsimp only
  split
  · next h =>
    simp only [Bool.and_eq_true, Bool.not_eq_true'] at h
    refine ⟨h.1, h.2, ?_⟩
    rw [BitVec.toNat_and, show (4096 : Nat) = 2 ^ 12 from rfl, Nat.and_mod_two_pow]
    simp
  · decide

end Sys2Proof.Machine
end

