-- ==== Sys2Proof/Laws/Arms.lean ====
section
/-!
SUPPORT. The arm of each instruction, so that a proof never unfolds `exec` whole.
-/
namespace Sys2Proof.Machine

theorem exec_nop (s : State) : exec (.nop) s = execNop s := rfl
theorem exec_sadd (ty : Ty) (d a b : Opnd) (s : State) : exec (.sadd ty d a b) s = execSadd ty d a b s := rfl
theorem exec_ssub (ty : Ty) (d a b : Opnd) (s : State) : exec (.ssub ty d a b) s = execSsub ty d a b s := rfl
theorem exec_smul (ty : Ty) (d a b : Opnd) (s : State) : exec (.smul ty d a b) s = execSmul ty d a b s := rfl
theorem exec_smulh (ty : Ty) (d a b : Opnd) (s : State) : exec (.smulh ty d a b) s = execSmulh ty d a b s := rfl
theorem exec_sand (ty : Ty) (d a b : Opnd) (s : State) : exec (.sand ty d a b) s = execSand ty d a b s := rfl
theorem exec_sor (ty : Ty) (d a b : Opnd) (s : State) : exec (.sor ty d a b) s = execSor ty d a b s := rfl
theorem exec_sxor (ty : Ty) (d a b : Opnd) (s : State) : exec (.sxor ty d a b) s = execSxor ty d a b s := rfl
theorem exec_sshl (ty : Ty) (d a b : Opnd) (s : State) : exec (.sshl ty d a b) s = execSshl ty d a b s := rfl
theorem exec_sshr (ty : Ty) (d a b : Opnd) (s : State) : exec (.sshr ty d a b) s = execSshr ty d a b s := rfl
theorem exec_ssar (ty : Ty) (d a b : Opnd) (s : State) : exec (.ssar ty d a b) s = execSsar ty d a b s := rfl
theorem exec_smin (ty : Ty) (d a b : Opnd) (s : State) : exec (.smin ty d a b) s = execSmin ty d a b s := rfl
theorem exec_smax (ty : Ty) (d a b : Opnd) (s : State) : exec (.smax ty d a b) s = execSmax ty d a b s := rfl
theorem exec_scmp (ty : Ty) (c : Cond) (d a b : Opnd) (s : State) : exec (.scmp ty c d a b) s = execScmp ty c d a b s := rfl
theorem exec_ssel (ty : Ty) (d a b x : Opnd) (s : State) : exec (.ssel ty d a b x) s = execSsel ty d a b x s := rfl
theorem exec_smov (ty : Ty) (d a : Opnd) (s : State) : exec (.smov ty d a) s = execSmov ty d a s := rfl
theorem exec_smovs (d : Opnd) (n : BitVec 8) (s : State) : exec (.smovs d n) s = execSmovs d n s := rfl
theorem exec_smovw (n : BitVec 8) (a : Opnd) (s : State) : exec (.smovw n a) s = execSmovw n a s := rfl
theorem exec_sbfe (ty : Ty) (d a b x : Opnd) (s : State) : exec (.sbfe ty d a b x) s = execSbfe ty d a b x s := rfl
theorem exec_spopc (d a : Opnd) (s : State) : exec (.spopc d a) s = execSpopc d a s := rfl
theorem exec_sclz (d a : Opnd) (s : State) : exec (.sclz d a) s = execSclz d a s := rfl
theorem exec_sadd64 (ty : Ty) (d a b : Opnd) (s : State) : exec (.sadd64 ty d a b) s = execSadd64 ty d a b s := rfl
theorem exec_saddI (d a : Opnd) (imm : BitVec 25) (s : State) : exec (.saddI d a imm) s = execSaddI d a imm s := rfl
theorem exec_ssubI (d a : Opnd) (imm : BitVec 25) (s : State) : exec (.ssubI d a imm) s = execSsubI d a imm s := rfl
theorem exec_smulI (d a : Opnd) (imm : BitVec 25) (s : State) : exec (.smulI d a imm) s = execSmulI d a imm s := rfl
theorem exec_sandI (d a : Opnd) (imm : BitVec 25) (s : State) : exec (.sandI d a imm) s = execSandI d a imm s := rfl
theorem exec_sorI (d a : Opnd) (imm : BitVec 25) (s : State) : exec (.sorI d a imm) s = execSorI d a imm s := rfl
theorem exec_sxorI (d a : Opnd) (imm : BitVec 25) (s : State) : exec (.sxorI d a imm) s = execSxorI d a imm s := rfl
theorem exec_sshlI (d a : Opnd) (imm : BitVec 25) (s : State) : exec (.sshlI d a imm) s = execSshlI d a imm s := rfl
theorem exec_sshrI (d a : Opnd) (imm : BitVec 25) (s : State) : exec (.sshrI d a imm) s = execSshrI d a imm s := rfl
theorem exec_ssarI (d a : Opnd) (imm : BitVec 25) (s : State) : exec (.ssarI d a imm) s = execSsarI d a imm s := rfl
theorem exec_exit (s : State) : exec (.exit) s = execExit s := rfl
theorem exec_ret (a : Opnd) (s : State) : exec (.ret a) s = execRet a s := rfl
theorem exec_yield (s : State) : exec (.yield) s = execYield s := rfl
theorem exec_regn (s : State) : exec (.regn) s = execRegn s := rfl
theorem exec_brkpt (a : Opnd) (s : State) : exec (.brkpt a) s = execBrkpt a s := rfl
theorem exec_wait (limits : BitVec 16) (s : State) : exec (.wait limits) s = execWait limits s := rfl
theorem exec_barw (a b : Opnd) (s : State) : exec (.barw a b) s = execBarw a b s := rfl
theorem exec_bara (a b : Opnd) (s : State) : exec (.bara a b) s = execBara a b s := rfl
theorem exec_fence (kind : FenceKind) (scope : Scope) (s : State) : exec (.fence kind scope) s = execFence kind scope s := rfl
theorem exec_opfence (s : State) : exec (.opfence) s = execOpfence s := rfl
theorem exec_reggive (a : Opnd) (s : State) : exec (.reggive a) s = execReggive a s := rfl
theorem exec_regclaim (a : Opnd) (s : State) : exec (.regclaim a) s = execRegclaim a s := rfl
theorem exec_regclaimTry (d a : Opnd) (s : State) : exec (.regclaimTry d a) s = execRegclaimTry d a s := rfl
theorem exec_mand (m ma mb : Fin 24) (s : State) : exec (.mand m ma mb) s = execMand m ma mb s := rfl
theorem exec_mor (m ma mb : Fin 24) (s : State) : exec (.mor m ma mb) s = execMor m ma mb s := rfl
theorem exec_mxor (m ma mb : Fin 24) (s : State) : exec (.mxor m ma mb) s = execMxor m ma mb s := rfl
theorem exec_mandn (m ma mb : Fin 24) (s : State) : exec (.mandn m ma mb) s = execMandn m ma mb s := rfl
theorem exec_mpopc (d : Opnd) (ma : Fin 24) (s : State) : exec (.mpopc d ma) s = execMpopc d ma s := rfl
theorem exec_mfirst (d : Opnd) (ma : Fin 24) (s : State) : exec (.mfirst d ma) s = execMfirst d ma s := rfl
theorem exec_mlane (m : Fin 24) (a : Opnd) (s : State) : exec (.mlane m a) s = execMlane m a s := rfl
theorem exec_vadd (ty : Ty) (d a b : Opnd) (s : State) : exec (.vadd ty d a b) s = execVadd ty d a b s := rfl
theorem exec_vsub (ty : Ty) (d a b : Opnd) (s : State) : exec (.vsub ty d a b) s = execVsub ty d a b s := rfl
theorem exec_vmul (ty : Ty) (d a b : Opnd) (s : State) : exec (.vmul ty d a b) s = execVmul ty d a b s := rfl
theorem exec_vmulh (ty : Ty) (d a b : Opnd) (s : State) : exec (.vmulh ty d a b) s = execVmulh ty d a b s := rfl
theorem exec_vmad (ty : Ty) (d a b x : Opnd) (s : State) : exec (.vmad ty d a b x) s = execVmad ty d a b x s := rfl
theorem exec_vand (ty : Ty) (d a b : Opnd) (s : State) : exec (.vand ty d a b) s = execVand ty d a b s := rfl
theorem exec_vor (ty : Ty) (d a b : Opnd) (s : State) : exec (.vor ty d a b) s = execVor ty d a b s := rfl
theorem exec_vxor (ty : Ty) (d a b : Opnd) (s : State) : exec (.vxor ty d a b) s = execVxor ty d a b s := rfl
theorem exec_vandn (ty : Ty) (d a b : Opnd) (s : State) : exec (.vandn ty d a b) s = execVandn ty d a b s := rfl
theorem exec_vshl (ty : Ty) (d a b : Opnd) (s : State) : exec (.vshl ty d a b) s = execVshl ty d a b s := rfl
theorem exec_vshr (ty : Ty) (d a b : Opnd) (s : State) : exec (.vshr ty d a b) s = execVshr ty d a b s := rfl
theorem exec_vsar (ty : Ty) (d a b : Opnd) (s : State) : exec (.vsar ty d a b) s = execVsar ty d a b s := rfl
theorem exec_vmin (ty : Ty) (d a b : Opnd) (s : State) : exec (.vmin ty d a b) s = execVmin ty d a b s := rfl
theorem exec_vmax (ty : Ty) (d a b : Opnd) (s : State) : exec (.vmax ty d a b) s = execVmax ty d a b s := rfl
theorem exec_vabs (d a : Opnd) (s : State) : exec (.vabs d a) s = execVabs d a s := rfl
theorem exec_vclz (d a : Opnd) (s : State) : exec (.vclz d a) s = execVclz d a s := rfl
theorem exec_vpopc (d a : Opnd) (s : State) : exec (.vpopc d a) s = execVpopc d a s := rfl
theorem exec_vbfe (ty : Ty) (d a b x : Opnd) (s : State) : exec (.vbfe ty d a b x) s = execVbfe ty d a b x s := rfl
theorem exec_vbfi (d a b x : Opnd) (s : State) : exec (.vbfi d a b x) s = execVbfi d a b x s := rfl
theorem exec_vcmp (ty : Ty) (c : Cond) (d a b : Opnd) (s : State) : exec (.vcmp ty c d a b) s = execVcmp ty c d a b s := rfl
theorem exec_vsel (ty : Ty) (d a b x : Opnd) (s : State) : exec (.vsel ty d a b x) s = execVsel ty d a b x s := rfl
theorem exec_vmov (ty : Ty) (d a : Opnd) (s : State) : exec (.vmov ty d a) s = execVmov ty d a s := rfl
theorem exec_vadd64 (ty : Ty) (d a b : Opnd) (s : State) : exec (.vadd64 ty d a b) s = execVadd64 ty d a b s := rfl
theorem exec_vmad64 (ty : Ty) (d a b x : Opnd) (s : State) : exec (.vmad64 ty d a b x) s = execVmad64 ty d a b x s := rfl
theorem exec_vshfl (ty : Ty) (mode : ShMode) (d a b : Opnd) (s : State) : exec (.vshfl ty mode d a b) s = execVshfl ty mode d a b s := rfl
theorem exec_vbcast (ty : Ty) (d a b : Opnd) (s : State) : exec (.vbcast ty d a b) s = execVbcast ty d a b s := rfl
theorem exec_vredu (ty : Ty) (op : RedOp) (d a : Opnd) (s : State) : exec (.vredu ty op d a) s = execVredu ty op d a s := rfl
theorem exec_vscan (ty : Ty) (op : RedOp) (excl : Bool) (d a : Opnd) (s : State) : exec (.vscan ty op excl d a) s = execVscan ty op excl d a s := rfl
theorem exec_vmovs (d : Opnd) (n : BitVec 8) (s : State) : exec (.vmovs d n) s = execVmovs d n s := rfl
theorem exec_vaddI (d a : Opnd) (imm : BitVec 25) (s : State) : exec (.vaddI d a imm) s = execVaddI d a imm s := rfl
theorem exec_vsubI (d a : Opnd) (imm : BitVec 25) (s : State) : exec (.vsubI d a imm) s = execVsubI d a imm s := rfl
theorem exec_vmulI (d a : Opnd) (imm : BitVec 25) (s : State) : exec (.vmulI d a imm) s = execVmulI d a imm s := rfl
theorem exec_vandI (d a : Opnd) (imm : BitVec 25) (s : State) : exec (.vandI d a imm) s = execVandI d a imm s := rfl
theorem exec_vorI (d a : Opnd) (imm : BitVec 25) (s : State) : exec (.vorI d a imm) s = execVorI d a imm s := rfl
theorem exec_vxorI (d a : Opnd) (imm : BitVec 25) (s : State) : exec (.vxorI d a imm) s = execVxorI d a imm s := rfl
theorem exec_vshlI (d a : Opnd) (imm : BitVec 25) (s : State) : exec (.vshlI d a imm) s = execVshlI d a imm s := rfl
theorem exec_vshrI (d a : Opnd) (imm : BitVec 25) (s : State) : exec (.vshrI d a imm) s = execVshrI d a imm s := rfl
theorem exec_vsarI (d a : Opnd) (imm : BitVec 25) (s : State) : exec (.vsarI d a imm) s = execVsarI d a imm s := rfl
theorem exec_vfadd (ty : Ty) (rm : Rm) (d a b : Opnd) (s : State) : exec (.vfadd ty rm d a b) s = execVfadd ty rm d a b s := rfl
theorem exec_vfsub (ty : Ty) (rm : Rm) (d a b : Opnd) (s : State) : exec (.vfsub ty rm d a b) s = execVfsub ty rm d a b s := rfl
theorem exec_vfmul (ty : Ty) (rm : Rm) (d a b : Opnd) (s : State) : exec (.vfmul ty rm d a b) s = execVfmul ty rm d a b s := rfl
theorem exec_vfma (ty : Ty) (rm : Rm) (d a b x : Opnd) (s : State) : exec (.vfma ty rm d a b x) s = execVfma ty rm d a b x s := rfl
theorem exec_vfmin (ty : Ty) (d a b : Opnd) (s : State) : exec (.vfmin ty d a b) s = execVfmin ty d a b s := rfl
theorem exec_vfmax (ty : Ty) (d a b : Opnd) (s : State) : exec (.vfmax ty d a b) s = execVfmax ty d a b s := rfl
theorem exec_vfcmp (ty : Ty) (c : FCond) (d a b : Opnd) (s : State) : exec (.vfcmp ty c d a b) s = execVfcmp ty c d a b s := rfl
theorem exec_vfclass (ty : Ty) (d a : Opnd) (s : State) : exec (.vfclass ty d a) s = execVfclass ty d a s := rfl
theorem exec_vfrnd (ty : Ty) (rm : Rm) (d a : Opnd) (s : State) : exec (.vfrnd ty rm d a) s = execVfrnd ty rm d a s := rfl
theorem exec_vcvt (ty : Ty) (rm : Rm) (src : Ty) (d a b : Opnd) (s : State) : exec (.vcvt ty rm src d a b) s = execVcvt ty rm src d a b s := rfl
theorem exec_vf2i (ty : Ty) (rm : Rm) (src : Ty) (d a b : Opnd) (s : State) : exec (.vf2i ty rm src d a b) s = execVf2i ty rm src d a b s := rfl
theorem exec_vi2f (ty : Ty) (rm : Rm) (src : Ty) (d a b : Opnd) (s : State) : exec (.vi2f ty rm src d a b) s = execVi2f ty rm src d a b s := rfl
theorem exec_vfscl (ty : Ty) (rm : Rm) (d a b : Opnd) (s : State) : exec (.vfscl ty rm d a b) s = execVfscl ty rm d a b s := rfl
theorem exec_vrcp (ty : Ty) (rm : Rm) (d a : Opnd) (s : State) : exec (.vrcp ty rm d a) s = execVrcp ty rm d a s := rfl
theorem exec_vrsq (ty : Ty) (rm : Rm) (d a : Opnd) (s : State) : exec (.vrsq ty rm d a) s = execVrsq ty rm d a s := rfl
theorem exec_vsqrt (ty : Ty) (rm : Rm) (d a : Opnd) (s : State) : exec (.vsqrt ty rm d a) s = execVsqrt ty rm d a s := rfl
theorem exec_vexp2 (ty : Ty) (rm : Rm) (d a : Opnd) (s : State) : exec (.vexp2 ty rm d a) s = execVexp2 ty rm d a s := rfl
theorem exec_vlog2 (ty : Ty) (rm : Rm) (d a : Opnd) (s : State) : exec (.vlog2 ty rm d a) s = execVlog2 ty rm d a s := rfl
theorem exec_vsinpi (ty : Ty) (rm : Rm) (d a : Opnd) (s : State) : exec (.vsinpi ty rm d a) s = execVsinpi ty rm d a s := rfl
theorem exec_vcospi (ty : Ty) (rm : Rm) (d a : Opnd) (s : State) : exec (.vcospi ty rm d a) s = execVcospi ty rm d a s := rfl
theorem exec_vtanh (ty : Ty) (rm : Rm) (d a : Opnd) (s : State) : exec (.vtanh ty rm d a) s = execVtanh ty rm d a s := rfl
theorem exec_welf (rm : Rm) (d a : Opnd) (s : State) : exec (.welf rm d a) s = execWelf rm d a s := rfl
theorem exec_wmrg (rm : Rm) (d a : Opnd) (s : State) : exec (.wmrg rm d a) s = execWmrg rm d a s := rfl
theorem exec_vbexp (ty : Ty) (n : Fin 16) (d a : Opnd) (s : State) : exec (.vbexp ty n d a) s = execVbexp ty n d a s := rfl
theorem exec_vpkx (ty : Ty) (d a b : Opnd) (s : State) : exec (.vpkx ty d a b) s = execVpkx ty d a b s := rfl
theorem exec_vunpkx (ty : Ty) (d a b : Opnd) (s : State) : exec (.vunpkx ty d a b) s = execVunpkx ty d a b s := rfl
theorem exec_imgq (map : Fin 4) (d a b : Opnd) (s : State) : exec (.imgq map d a b) s = execImgq map d a b s := rfl
theorem exec_cpy (d : Option Opnd) (a b : Opnd) (s : State) : exec (.cpy d a b) s = execCpy d a b s := rfl
theorem exec_cpyt (every : Bool) (d : Option Opnd) (a b t : Opnd) (s : State) : exec (.cpyt every d a b t) s = execCpyt every d a b t s := rfl
theorem exec_cpytCancel (t : Opnd) (s : State) : exec (.cpytCancel t) s = execCpytCancel t s := rfl
theorem exec_cpyg (d : Option Opnd) (a b : Opnd) (s : State) : exec (.cpyg d a b) s = execCpyg d a b s := rfl
theorem exec_cpys (d : Option Opnd) (a b : Opnd) (s : State) : exec (.cpys d a b) s = execCpys d a b s := rfl
theorem exec_cpyb (d : Option Opnd) (a b : Opnd) (s : State) : exec (.cpyb d a b) s = execCpyb d a b s := rfl
theorem exec_sqfill (d : Option Opnd) (a b o : Opnd) (s : State) : exec (.sqfill d a b o) s = execSqfill d a b o s := rfl
theorem exec_boinit (a b : Opnd) (s : State) : exec (.boinit a b) s = execBoinit a b s := rfl
theorem exec_boexp (arr : Bool) (bs : Scope) (a b : Opnd) (s : State) : exec (.boexp arr bs a b) s = execBoexp arr bs a b s := rfl
theorem exec_boarr (lanes : Bool) (bs : Scope) (d : Option Opnd) (a : Opnd) (s : State) : exec (.boarr lanes bs d a) s = execBoarr lanes bs d a s := rfl
theorem exec_bowait (bs : Scope) (a b : Opnd) (s : State) : exec (.bowait bs a b) s = execBowait bs a b s := rfl
theorem exec_botry (bs : Scope) (d a b : Opnd) (s : State) : exec (.botry bs d a b) s = execBotry bs d a b s := rfl
theorem exec_lcon (ty : Ty) (sp : Bool) (acc a b x : Opnd) (s : State) : exec (.lcon ty sp acc a b x) s = execLcon ty sp acc a b x s := rfl
theorem exec_lcona (ty : Ty) (gang : Bool) (sp : Bool) (acc a b x : Opnd) (s : State) : exec (.lcona ty gang sp acc a b x) s = execLcona ty gang sp acc a b x s := rfl
theorem exec_accget (acc : Opnd) (s : State) : exec (.accget acc) s = execAccget acc s := rfl
theorem exec_accput (acc : Opnd) (s : State) : exec (.accput acc) s = execAccput acc s := rfl
theorem exec_accz (acc : Opnd) (s : State) : exec (.accz acc) s = execAccz acc s := rfl
theorem exec_accrd (d acc b : Opnd) (s : State) : exec (.accrd d acc b) s = execAccrd d acc b s := rfl
theorem exec_accwr (acc a b : Opnd) (s : State) : exec (.accwr acc a b) s = execAccwr acc a b s := rfl
theorem exec_accst (acc a b : Opnd) (s : State) : exec (.accst acc a b) s = execAccst acc a b s := rfl
theorem exec_scacc (ty : Ty) (acc : Opnd) (s : State) : exec (.scacc ty acc) s = execScacc ty acc s := rfl
theorem exec_sqpush (a : Opnd) (s : State) : exec (.sqpush a) s = execSqpush a s := rfl
theorem exec_sqcnt (d : Opnd) (s : State) : exec (.sqcnt d) s = execSqcnt d s := rfl
theorem exec_accsv (acc a : Opnd) (s : State) : exec (.accsv acc a) s = execAccsv acc a s := rfl
theorem exec_accld (acc a : Opnd) (s : State) : exec (.accld acc a) s = execAccld acc a s := rfl
theorem exec_ld (wd : Width) (sc : Scope) (fe : Fe) (nt : Bool) (d : Opnd) (m : MAddr) (s : State) : exec (.ld wd sc fe nt d m) s = execLd wd sc fe nt d m s := rfl
theorem exec_st (wd : Width) (sc : Scope) (sf img nt : Bool) (d : Opnd) (m : MAddr) (s : State) : exec (.st wd sc sf img nt d m) s = execSt wd sc sf img nt d m s := rfl
theorem exec_sld (wd : Width) (sc : Scope) (fe : Fe) (nt : Bool) (d : Opnd) (m : MAddr) (s : State) : exec (.sld wd sc fe nt d m) s = execSld wd sc fe nt d m s := rfl
theorem exec_sst (wd : Width) (sc : Scope) (sf nt : Bool) (d : Opnd) (m : MAddr) (s : State) : exec (.sst wd sc sf nt d m) s = execSst wd sc sf nt d m s := rfl
theorem exec_pf (nt : Bool) (m : MAddr) (s : State) : exec (.pf nt m) s = execPf nt m s := rfl
theorem exec_fest (sc : Scope) (full : Bool) (m : MAddr) (s : State) : exec (.fest sc full m) s = execFest sc full m s := rfl
theorem exec_feq (sc : Scope) (d : Fin 24) (m : MAddr) (s : State) : exec (.feq sc d m) s = execFeq sc d m s := rfl
theorem exec_aadd (t : AType) (sc : Scope) (img nt : Bool) (d : Opnd) (m : MAddr) (s : State) : exec (.aadd t sc img nt d m) s = execAadd t sc img nt d m s := rfl
theorem exec_aaddOrd (sc : Scope) (img nt : Bool) (d : Opnd) (m : MAddr) (s : State) : exec (.aaddOrd sc img nt d m) s = execAaddOrd sc img nt d m s := rfl
theorem exec_aand (t : AType) (sc : Scope) (img nt : Bool) (d : Opnd) (m : MAddr) (s : State) : exec (.aand t sc img nt d m) s = execAand t sc img nt d m s := rfl
theorem exec_aor (t : AType) (sc : Scope) (img nt : Bool) (d : Opnd) (m : MAddr) (s : State) : exec (.aor t sc img nt d m) s = execAor t sc img nt d m s := rfl
theorem exec_axor (t : AType) (sc : Scope) (img nt : Bool) (d : Opnd) (m : MAddr) (s : State) : exec (.axor t sc img nt d m) s = execAxor t sc img nt d m s := rfl
theorem exec_amin (t : AType) (sc : Scope) (img nt : Bool) (d : Opnd) (m : MAddr) (s : State) : exec (.amin t sc img nt d m) s = execAmin t sc img nt d m s := rfl
theorem exec_amax (t : AType) (sc : Scope) (img nt : Bool) (d : Opnd) (m : MAddr) (s : State) : exec (.amax t sc img nt d m) s = execAmax t sc img nt d m s := rfl
theorem exec_axchg (t : AType) (sc : Scope) (img nt : Bool) (d : Opnd) (m : MAddr) (s : State) : exec (.axchg t sc img nt d m) s = execAxchg t sc img nt d m s := rfl
theorem exec_acas (t : AType) (sc : Scope) (nt : Bool) (d : Opnd) (m : MAddr) (s : State) : exec (.acas t sc nt d m) s = execAcas t sc nt d m s := rfl
theorem exec_aincb (sc : Scope) (nt : Bool) (d : Opnd) (m : MAddr) (s : State) : exec (.aincb sc nt d m) s = execAincb sc nt d m s := rfl
theorem exec_depdec (sc : Scope) (d : Opnd) (m : MAddr) (s : State) : exec (.depdec sc d m) s = execDepdec sc d m s := rfl
theorem exec_aseal (sc : Scope) (m : MAddr) (s : State) : exec (.aseal sc m) s = execAseal sc m s := rfl
theorem exec_bra (off : Word) (s : State) : exec (.bra off) s = execBra off s := rfl
theorem exec_brc (cc : Cc) (c : Opnd) (off : Word) (s : State) : exec (.brc cc c off) s = execBrc cc c off s := rfl
theorem exec_brv (cc : Cc) (c : Opnd) (tok : Fin 16) (off : Word) (s : State) : exec (.brv cc c tok off) s = execBrv cc c tok off s := rfl
theorem exec_brmLanes (m : Fin 24) (tok : Fin 16) (off : Word) (s : State) : exec (.brmLanes m tok off) s = execBrmLanes m tok off s := rfl
theorem exec_brm (mode : BrmMode) (m : Fin 24) (off : Word) (s : State) : exec (.brm mode m off) s = execBrm mode m off s := rfl
theorem exec_join (tok : Fin 16) (s : State) : exec (.join tok) s = execJoin tok s := rfl
theorem exec_call (k : Fin 48) (off : Word) (s : State) : exec (.call k off) s = execCall k off s := rfl
theorem exec_smovi (d : Opnd) (v : Word) (s : State) : exec (.smovi d v) s = execSmovi d v s := rfl
theorem exec_vmovi (d : Opnd) (v : Word) (s : State) : exec (.vmovi d v) s = execVmovi d v s := rfl
theorem exec_saddi (d a : Opnd) (v : Word) (s : State) : exec (.saddi d a v) s = execSaddi d a v s := rfl
theorem exec_vaddi (d a : Opnd) (v : Word) (s : State) : exec (.vaddi d a v) s = execVaddi d a v s := rfl
theorem exec_pNop (x : PArgs) (b : PHalf) (s : State) : exec (.pNop x b) s = execPNop x b s := rfl
theorem exec_pVadd (x : PArgs) (b : PHalf) (s : State) : exec (.pVadd x b) s = execPVadd x b s := rfl
theorem exec_pVsub (x : PArgs) (b : PHalf) (s : State) : exec (.pVsub x b) s = execPVsub x b s := rfl
theorem exec_pVmul (x : PArgs) (b : PHalf) (s : State) : exec (.pVmul x b) s = execPVmul x b s := rfl
theorem exec_pVand (x : PArgs) (b : PHalf) (s : State) : exec (.pVand x b) s = execPVand x b s := rfl
theorem exec_pVor (x : PArgs) (b : PHalf) (s : State) : exec (.pVor x b) s = execPVor x b s := rfl
theorem exec_pVxor (x : PArgs) (b : PHalf) (s : State) : exec (.pVxor x b) s = execPVxor x b s := rfl
theorem exec_pVshl (x : PArgs) (b : PHalf) (s : State) : exec (.pVshl x b) s = execPVshl x b s := rfl
theorem exec_pVshr (x : PArgs) (b : PHalf) (s : State) : exec (.pVshr x b) s = execPVshr x b s := rfl
theorem exec_pVsar (x : PArgs) (b : PHalf) (s : State) : exec (.pVsar x b) s = execPVsar x b s := rfl
theorem exec_pVmin (x : PArgs) (b : PHalf) (s : State) : exec (.pVmin x b) s = execPVmin x b s := rfl
theorem exec_pVmax (x : PArgs) (b : PHalf) (s : State) : exec (.pVmax x b) s = execPVmax x b s := rfl
theorem exec_pVmov (x : PArgs) (b : PHalf) (s : State) : exec (.pVmov x b) s = execPVmov x b s := rfl
theorem exec_pVfadd (x : PArgs) (b : PHalf) (s : State) : exec (.pVfadd x b) s = execPVfadd x b s := rfl
theorem exec_pVfsub (x : PArgs) (b : PHalf) (s : State) : exec (.pVfsub x b) s = execPVfsub x b s := rfl
theorem exec_pVfmul (x : PArgs) (b : PHalf) (s : State) : exec (.pVfmul x b) s = execPVfmul x b s := rfl
theorem exec_pVfmin (x : PArgs) (b : PHalf) (s : State) : exec (.pVfmin x b) s = execPVfmin x b s := rfl
theorem exec_pVfmax (x : PArgs) (b : PHalf) (s : State) : exec (.pVfmax x b) s = execPVfmax x b s := rfl
theorem exec_pVcvt (x : PArgs) (b : PHalf) (s : State) : exec (.pVcvt x b) s = execPVcvt x b s := rfl
theorem exec_pSadd (x : PArgs) (b : PHalf) (s : State) : exec (.pSadd x b) s = execPSadd x b s := rfl
theorem exec_pSsub (x : PArgs) (b : PHalf) (s : State) : exec (.pSsub x b) s = execPSsub x b s := rfl
theorem exec_pSmov (x : PArgs) (b : PHalf) (s : State) : exec (.pSmov x b) s = execPSmov x b s := rfl
theorem exec_pSand (x : PArgs) (b : PHalf) (s : State) : exec (.pSand x b) s = execPSand x b s := rfl
theorem exec_pSor (x : PArgs) (b : PHalf) (s : State) : exec (.pSor x b) s = execPSor x b s := rfl
theorem exec_enq (detach : Bool) (d : Option Opnd) (a : Opnd) (s : State) : exec (.enq detach d a) s = execEnq detach d a s := rfl
theorem exec_enqr (d : Option Opnd) (a b : Opnd) (s : State) : exec (.enqr d a b) s = execEnqr d a b s := rfl
theorem exec_lcancel (d a : Opnd) (s : State) : exec (.lcancel d a) s = execLcancel d a s := rfl
theorem exec_lcancelTree (d a : Opnd) (s : State) : exec (.lcancelTree d a) s = execLcancelTree d a s := rfl
theorem exec_lcntGangs (d a : Opnd) (s : State) : exec (.lcntGangs d a) s = execLcntGangs d a s := rfl
theorem exec_lcntTree (d a : Opnd) (s : State) : exec (.lcntTree d a) s = execLcntTree d a s := rfl
theorem exec_lcntState (d a : Opnd) (s : State) : exec (.lcntState d a) s = execLcntState d a s := rfl
theorem exec_coll (kind : CollKind) (d : Option Opnd) (a b : Opnd) (s : State) : exec (.coll kind d a b) s = execColl kind d a b s := rfl
theorem exec_cbar (d : Option Opnd) (a b : Opnd) (s : State) : exec (.cbar d a b) s = execCbar d a b s := rfl
theorem exec_cput (d : Option Opnd) (a b : Opnd) (s : State) : exec (.cput d a b) s = execCput d a b s := rfl
theorem exec_ctree (q : TreeQuery) (d a b : Opnd) (s : State) : exec (.ctree q d a b) s = execCtree q d a b s := rfl
theorem exec_trap (a : Opnd) (s : State) : exec (.trap a) s = execTrap a s := rfl
theorem exec_tretRetry (s : State) : exec (.tretRetry) s = execTretRetry s := rfl
theorem exec_tretSkip (s : State) : exec (.tretSkip) s = execTretSkip s := rfl
theorem exec_tretRegion (s : State) : exec (.tretRegion) s = execTretRegion s := rfl
theorem exec_kill (m : Fin 24) (s : State) : exec (.kill m) s = execKill m s := rfl
theorem exec_killFault (m : Fin 24) (s : State) : exec (.killFault m) s = execKillFault m s := rfl
theorem exec_smovp (d : Opnd) (n : BitVec 8) (s : State) : exec (.smovp d n) s = execSmovp d n s := rfl
theorem exec_smovq (n : BitVec 8) (a : Opnd) (s : State) : exec (.smovq n a) s = execSmovq n a s := rfl
theorem exec_invlp (a : Opnd) (s : State) : exec (.invlp a) s = execInvlp a s := rfl
theorem exec_invlpAll (s : State) : exec (.invlpAll) s = execInvlpAll s := rfl
theorem exec_invlpIcache (s : State) : exec (.invlpIcache) s = execInvlpIcache s := rfl
theorem exec_frz (s : State) : exec (.frz) s = execFrz s := rfl
theorem exec_frzSnap (s : State) : exec (.frzSnap) s = execFrzSnap s := rfl
theorem exec_dbgrd (d a b : Opnd) (s : State) : exec (.dbgrd d a b) s = execDbgrd d a b s := rfl
theorem exec_dbgwr (d a b x : Opnd) (s : State) : exec (.dbgwr d a b x) s = execDbgwr d a b x s := rfl
theorem exec_dstep (d a : Opnd) (s : State) : exec (.dstep d a) s = execDstep d a s := rfl
theorem exec_dstepIsolate (d a b : Opnd) (s : State) : exec (.dstepIsolate d a b) s = execDstepIsolate d a b s := rfl
theorem exec_illegalWord (w : DWord) (s : State) : exec (.illegalWord w) s = execIllegalWord w s := rfl
theorem exec_regclaimGrant (gid rank slot : Nat) (s : State) : exec (.regclaimGrant gid rank slot) s = execRegclaimGrant gid rank slot s := rfl
theorem exec_sfuResultWrite (fid id : Nat) (s : State) : exec (.sfuResultWrite fid id) s = execSfuResultWrite fid id s := rfl
theorem exec_copyUnitDone (e cmd : Nat) (s : State) : exec (.copyUnitDone e cmd) s = execCopyUnitDone e cmd s := rfl
theorem exec_cpytFiring (e arm : Nat) (s : State) : exec (.cpytFiring e arm) s = execCpytFiring e arm s := rfl
theorem exec_sqfillPush (e cmd : Nat) (s : State) : exec (.sqfillPush e cmd) s = execSqfillPush e cmd s := rfl
theorem exec_bowaitWake (fid frag : Nat) (s : State) : exec (.bowaitWake fid frag) s = execBowaitWake fid frag s := rfl
theorem exec_contractionStep (tile inst : Nat) (s : State) : exec (.contractionStep tile inst) s = execContractionStep tile inst s := rfl
theorem exec_accrdResultWrite (fid id : Nat) (s : State) : exec (.accrdResultWrite fid id) s = execAccrdResultWrite fid id s := rfl
theorem exec_accstStoreDone (e cmd : Nat) (s : State) : exec (.accstStoreDone e cmd) s = execAccstStoreDone e cmd s := rfl
theorem exec_foldApply (tile : Nat) (s : State) : exec (.foldApply tile) s = execFoldApply tile s := rfl
theorem exec_loadResultWrite (fid op lane : Nat) (s : State) : exec (.loadResultWrite fid op lane) s = execLoadResultWrite fid op lane s := rfl
theorem exec_feWaitSatisfied (fid op lane : Nat) (s : State) : exec (.feWaitSatisfied fid op lane) s = execFeWaitSatisfied fid op lane s := rfl
theorem exec_enqrDelivery (m : PacketMsg) (s : State) : exec (.enqrDelivery m) s = execEnqrDelivery m s := rfl
theorem exec_collChunkStage (pid comm chunk : Nat) (stage : Bool) (peers : List (Nat × List Nat)) (s : State) : exec (.collChunkStage pid comm chunk stage peers) s = execCollChunkStage pid comm chunk stage peers s := rfl
theorem exec_cbarInstanceDone (pid comm : Nat) (s : State) : exec (.cbarInstanceDone pid comm) s = execCbarInstanceDone pid comm s := rfl
theorem exec_cputRemoteArrival (p : RemotePut) (s : State) : exec (.cputRemoteArrival p) s = execCputRemoteArrival p s := rfl
theorem exec_cputAck (pid comm id : Nat) (ok : Bool) (status : Nat) (s : State) : exec (.cputAck pid comm id ok status) s = execCputAck pid comm id ok status s := rfl
theorem exec_linkStateChange (l : LinkId) (up : Bool) (s : State) : exec (.linkStateChange l up) s = execLinkStateChange l up s := rfl
theorem exec_linkStateMessage (l : LinkId) (up : Bool) (seq : BitVec 16) (s : State) : exec (.linkStateMessage l up seq) s = execLinkStateMessage l up seq s := rfl
theorem exec_agreement (pid comm : Nat) (x : Exchange) (peersDone : List Nat) (s : State) : exec (.agreement pid comm x peersDone) s = execAgreement pid comm x peersDone s := rfl
theorem exec_invalidationSweepDone (id : Nat) (s : State) : exec (.invalidationSweepDone id) s = execInvalidationSweepDone id s := rfl
theorem exec_freezeTakesEffect (pid : Nat) (s : State) : exec (.freezeTakesEffect pid) s = execFreezeTakesEffect pid s := rfl
theorem exec_gangHaltOtherFlight (fid further : Nat) (s : State) : exec (.gangHaltOtherFlight fid further) s = execGangHaltOtherFlight fid further s := rfl
theorem exec_asyncFaultTaken (s : State) : exec (.asyncFaultTaken) s = execAsyncFaultTaken s := rfl
theorem exec_timerPeriodEnd (pid : Nat) (s : State) : exec (.timerPeriodEnd pid) s = execTimerPeriodEnd pid s := rfl
theorem exec_timerTrapTaken (s : State) : exec (.timerTrapTaken) s = execTimerTrapTaken s := rfl
theorem exec_fragmentAged (fid frag : Nat) (s : State) : exec (.fragmentAged fid frag) s = execFragmentAged fid frag s := rfl
theorem exec_fragmentSwitch (core slot : Nat) (s : State) : exec (.fragmentSwitch core slot) s = execFragmentSwitch core slot s := rfl
theorem exec_preemptRequest (pid launch : Nat) (s : State) : exec (.preemptRequest pid launch) s = execPreemptRequest pid launch s := rfl
theorem exec_preemptDeadline (gid : Nat) (s : State) : exec (.preemptDeadline gid) s = execPreemptDeadline gid s := rfl
theorem exec_preemptmaxExpiry (fid : Nat) (s : State) : exec (.preemptmaxExpiry fid) s = execPreemptmaxExpiry fid s := rfl
theorem exec_engineStopAck (gid : Nat) (u : StopUnit) (s : State) : exec (.engineStopAck gid u) s = execEngineStopAck gid u s := rfl
theorem exec_gangRestore (gid : Nat) (s : State) : exec (.gangRestore gid) s = execGangRestore gid s := rfl
theorem exec_preemptWaitTimeout (die : Nat) (s : State) : exec (.preemptWaitTimeout die) s = execPreemptWaitTimeout die s := rfl
theorem exec_launchAccept (pid : Nat) (s : State) : exec (.launchAccept pid) s = execLaunchAccept pid s := rfl
theorem exec_globalDispatch (pid launch die count : Nat) (s : State) : exec (.globalDispatch pid launch die count) s = execGlobalDispatch pid launch die count s := rfl
theorem exec_gangPlace (die idx : Nat) (s : State) : exec (.gangPlace die idx) s = execGangPlace die idx s := rfl
theorem exec_gangRetire (gid : Nat) (s : State) : exec (.gangRetire gid) s = execGangRetire gid s := rfl
theorem exec_cancelComplete (pid launch : Nat) (s : State) : exec (.cancelComplete pid launch) s = execCancelComplete pid launch s := rfl
theorem exec_qnotifyWrite (pid q : Nat) (widx : Word) (s : State) : exec (.qnotifyWrite pid q widx) s = execQnotifyWrite pid q widx s := rfl
theorem exec_queueMap (pid q slot : Nat) (s : State) : exec (.queueMap pid q slot) s = execQueueMap pid q slot s := rfl
theorem exec_queueDisplace (pid q slot : Nat) (s : State) : exec (.queueDisplace pid q slot) s = execQueueDisplace pid q slot s := rfl
theorem exec_queueQuantumExpiry (slot : Nat) (s : State) : exec (.queueQuantumExpiry slot) s = execQueueQuantumExpiry slot s := rfl
theorem exec_packetLaunch (pid q : Nat) (s : State) : exec (.packetLaunch pid q) s = execPacketLaunch pid q s := rfl
theorem exec_packetGraph (pid q : Nat) (s : State) : exec (.packetGraph pid q) s = execPacketGraph pid q s := rfl
theorem exec_packetSignal (pid q : Nat) (s : State) : exec (.packetSignal pid q) s = execPacketSignal pid q s := rfl
theorem exec_packetWait (pid q : Nat) (s : State) : exec (.packetWait pid q) s = execPacketWait pid q s := rfl
theorem exec_packetBarrier (pid q : Nat) (s : State) : exec (.packetBarrier pid q) s = execPacketBarrier pid q s := rfl
theorem exec_packetCancel (pid q : Nat) (s : State) : exec (.packetCancel pid q) s = execPacketCancel pid q s := rfl
theorem exec_waitMonitorHit (pid q : Nat) (s : State) : exec (.waitMonitorHit pid q) s = execWaitMonitorHit pid q s := rfl
theorem exec_queueUnblock (pid q : Nat) (s : State) : exec (.queueUnblock pid q) s = execQueueUnblock pid q s := rfl
theorem exec_forwardedWrite (addr : Nat) (data : List Byte) (s : State) : exec (.forwardedWrite addr data) s = execForwardedWrite addr data s := rfl
theorem exec_hostAccess (write : Bool) (addr : Nat) (data : List Byte) (s : State) : exec (.hostAccess write addr data) s = execHostAccess write addr data s := rfl
theorem exec_registerWrite (w : Window) (off : Nat) (val : DWord) (s : State) : exec (.registerWrite w off val) s = execRegisterWrite w off val s := rfl
theorem exec_bootLock (s : State) : exec (.bootLock) s = execBootLock s := rfl
theorem exec_bootVerifyDone (s : State) : exec (.bootVerifyDone) s = execBootVerifyDone s := rfl
theorem exec_reset (s : State) : exec (.reset) s = execReset s := rfl
theorem exec_create (p : CreateDesc) (s : State) : exec (.create p) s = execCreate p s := rfl
theorem exec_destroy (pid : Nat) (s : State) : exec (.destroy pid) s = execDestroy pid s := rfl
theorem exec_queueCreate (pid q : Nat) (desc : List Byte) (s : State) : exec (.queueCreate pid q desc) s = execQueueCreate pid q desc s := rfl
theorem exec_queueDestroy (pid q : Nat) (s : State) : exec (.queueDestroy pid q) s = execQueueDestroy pid q s := rfl
theorem exec_queueReset (pid q : Nat) (s : State) : exec (.queueReset pid q) s = execQueueReset pid q s := rfl
theorem exec_communicatorCreate (pid comm : Nat) (desc : List Byte) (s : State) : exec (.communicatorCreate pid comm desc) s = execCommunicatorCreate pid comm desc s := rfl
theorem exec_communicatorDestroy (pid comm : Nat) (s : State) : exec (.communicatorDestroy pid comm) s = execCommunicatorDestroy pid comm s := rfl
theorem exec_codeInvalidate (pid : Nat) (s : State) : exec (.codeInvalidate pid) s = execCodeInvalidate pid s := rfl
theorem exec_replayPartition (pid : Nat) (s : State) : exec (.replayPartition pid) s = execReplayPartition pid s := rfl
theorem exec_replayBlock (pid block : Nat) (s : State) : exec (.replayBlock pid block) s = execReplayBlock pid block s := rfl
theorem exec_failBlock (pid block : Nat) (s : State) : exec (.failBlock pid block) s = execFailBlock pid block s := rfl
theorem exec_shootdown (pid : Nat) (all : Bool) (va : DWord) (s : State) : exec (.shootdown pid all va) s = execShootdown pid all va s := rfl
theorem exec_scan (pid : Nat) (s : State) : exec (.scan pid) s = execScan pid s := rfl
theorem exec_scanRestore (pid : Nat) (recs : List (List Byte)) (s : State) : exec (.scanRestore pid recs) s = execScanRestore pid recs s := rfl
theorem exec_thaw (pid : Nat) (s : State) : exec (.thaw pid) s = execThaw pid s := rfl
theorem exec_migration (pid : Nat) (pages : List Nat) (s : State) : exec (.migration pid pages) s = execMigration pid pages s := rfl
theorem exec_attest (nonce : List Byte) (s : State) : exec (.attest nonce) s = execAttest nonce s := rfl
theorem exec_traceSyncSet (core : Nat) (s : State) : exec (.traceSyncSet core) s = execTraceSyncSet core s := rfl
theorem exec_traceLostPacket (core : Nat) (s : State) : exec (.traceLostPacket core) s = execTraceLostPacket core s := rfl
theorem exec_sampleTick (core : Nat) (s : State) : exec (.sampleTick core) s = execSampleTick core s := rfl
theorem exec_thermalPowerLimit (power : BitVec 16) (temp : BitVec 16) (s : State) : exec (.thermalPowerLimit power temp) s = execThermalPowerLimit power temp s := rfl
theorem exec_thermalShutdown (temp : BitVec 16) (s : State) : exec (.thermalShutdown temp) s = execThermalShutdown temp s := rfl
theorem exec_instructionFetchFault (s : State) : exec (.instructionFetchFault) s = execInstructionFetchFault s := rfl
theorem exec_storePerformed (fid op lane : Nat) (s : State) : exec (.storePerformed fid op lane) s = execStorePerformed fid op lane s := rfl
theorem exec_memberLeft (pid comm : Nat) (peer : PeerEnd) (s : State) : exec (.memberLeft pid comm peer) s = execMemberLeft pid comm peer s := rfl
theorem exec_haltCommand (pid launch gang rank flight : Nat) (whole : Bool) (s : State) : exec (.haltCommand pid launch gang rank flight whole) s = execHaltCommand pid launch gang rank flight whole s := rfl
theorem exec_freezeCommand (pid : Nat) (s : State) : exec (.freezeCommand pid) s = execFreezeCommand pid s := rfl
theorem exec_snapshotTriggerCommand (s : State) : exec (.snapshotTriggerCommand) s = execSnapshotTriggerCommand s := rfl
theorem exec_firmwareEndsJob (pid : Nat) (s : State) : exec (.firmwareEndsJob pid) s = execFirmwareEndsJob pid s := rfl

end Sys2Proof.Machine
end

