-- ==== Sys2Proof/Laws/Registers.lean ====
section
/-!
SUPPORT. Registers: what is read after a write of a scalar, a mask and a vector register.
-/
namespace Sys2Proof.Machine

theorem maskWord_and (m o : Lanes) (k : Nat) : maskWord (m &&& o) k = maskWord m k &&& maskWord o k := by
  apply BitVec.eq_of_getLsbD_eq
  intro i hi
  simp [maskWord]
  cases i <;> grind

theorem maskWord_set (m : Lanes) (j k : Nat) (w : Word) (hj : j < 3) (hk : k < 3) :
    maskWord (setMaskWord m j w) k = if k = j then w else maskWord m k := by
  apply BitVec.eq_of_getLsbD_eq
  intro i hi
  have h96 : (0xFFFFFFFF#96) = (BitVec.allOnes 32).setWidth 96 := by decide
  simp only [maskWord, setMaskWord, h96, BitVec.getLsbD_setWidth, BitVec.getLsbD_ushiftRight, BitVec.getLsbD_or,
    BitVec.getLsbD_and, BitVec.getLsbD_not, BitVec.getLsbD_shiftLeft, BitVec.getLsbD_allOnes, hi]
  rcases Nat.lt_trichotomy k j with h | h | h
  · have h1 : k ≠ j := by omega
    have h2 : 32 * k + i < 96 := by omega
    have h3 : 32 * k + i < 32 * j := by omega
    simp [h1, h2, h3, hi]
  · subst h
    have h2 : 32 * k + i < 96 := by omega
    have h4 : i < 96 := by omega
    have h5 : ¬ (32 * k + i < 32 * k) := by omega
    simp [h2, hi, h4, h5]
  · have h1 : k ≠ j := by omega
    have h2 : 32 * k + i < 96 := by omega
    have h3 : ¬ (32 * k + i < 32 * j) := by omega
    have h4 : ¬ (32 * k + i - 32 * j < 32) := by omega
    have h5 : 32 * k + i - 32 * j < 96 := by omega
    have h6 : w.getLsbD (32 * k + i - 32 * j) = false := by
      apply BitVec.getLsbD_of_ge; omega
    simp [h1, h2, h3, hi, h4, h5, h6]

/-! A write that reaches outstanding destinations changes nothing but what is noted of them (04 R103). -/

@[simp] theorem hitEm_s (f : Flight) (k n : Nat) : (hitEm f k n).s = f.s := rfl
@[simp] theorem hitSs_s (f : Flight) (k n : Nat) : (hitSs f k n).s = f.s := rfl
@[simp] theorem hitSs_t1 (f : Flight) (k n : Nat) : (hitSs f k n).t1 = f.t1 := rfl
@[simp] theorem hitSs_t2 (f : Flight) (k n : Nat) : (hitSs f k n).t2 = f.t2 := rfl
@[simp] theorem hitSs_bank (f : Flight) (k n l : Nat) : bank (hitSs f k n) l = bank f l := rfl
@[simp] theorem hitVt_t1 (f : Flight) (k n : Nat) (m : Lanes) : (hitVt f k n m).t1 = f.t1 := rfl
@[simp] theorem hitVt_t2 (f : Flight) (k n : Nat) (m : Lanes) : (hitVt f k n m).t2 = f.t2 := rfl
@[simp] theorem hitVt_v (f : Flight) (k n : Nat) (m : Lanes) : (hitVt f k n m).v = f.v := rfl
@[simp] theorem hitVt_asyncR (f : Flight) (k n : Nat) (m : Lanes) : (hitVt f k n m).asyncR = f.asyncR := rfl
@[simp] theorem hitVt_bank (f : Flight) (k n l : Nat) (m : Lanes) : bank (hitVt f k n m) l = bank f l := rfl

/-- Scalar register `k` after a write of scalar register `n` (06 R144, R146). -/
theorem getS_putScalar (c : Ctx) (n k : Nat) (w : Word) :
    getS (putScalar c n w).f (putScalar c n w).g k =
      if isEm k ∧ isEm n then (if k = n then w else getS c.f c.g k) &&& maskWord c.g.owned (k - 88)
      else if k = n then w else getS c.f c.g k := by
  unfold putScalar getS
  simp only [isEm, decide_eq_true_eq]
  by_cases hn : 88 ≤ n ∧ n ≤ 90
  · by_cases hk : 88 ≤ k ∧ k ≤ 90
    · simp only [hn, hk, and_self, if_true]
      rw [maskWord_and, maskWord_set _ _ _ _ (by omega) (by omega)]
      by_cases h : k = n
      · simp [h]
      · have : k - 88 ≠ n - 88 := by omega
        simp [h, this]
    · have : k ≠ n := by omega
      simp [hn, hk, this]
  · by_cases hk : 88 ≤ k ∧ k ≤ 90
    · have : k ≠ n := by omega
      simp [hn, hk, this]
    · simp only [hn, hk, if_false, and_self]
      rw [mgetD_mset]

@[simp] theorem putScalar_st (c : Ctx) (n : Nat) (w : Word) : (putScalar c n w).st = c.st := by unfold putScalar; split <;> rfl
@[simp] theorem putScalar_core (c : Ctx) (n : Nat) (w : Word) : (putScalar c n w).f.core = c.f.core := by
  unfold putScalar; split <;> rfl
@[simp] theorem putScalar_frags (c : Ctx) (n : Nat) (w : Word) : (putScalar c n w).f.frags = c.f.frags := by
  unfold putScalar; split <;> rfl

/-- A write of a scalar register changes no vector register. -/
theorem getV_putScalar (s : State) (c : Ctx) (n k l : Nat) (w : Word) :
    getV s (putScalar c n w).f k l = getV s c.f k l := by
  unfold putScalar; split <;> rfl

theorem bank_setBank (f : Flight) (n : Nat) (t : TrapSet) : bank (setBank f n t) n = t := by
  unfold bank setBank; split <;> rfl

theorem putS_ss (c : Ctx) (n : Fin 16) (w : Word) :
    putS c (.ss n) w =
      { c with
        f := hitSs (setBank c.f c.g.level { bank c.f c.g.level with ss := mset (bank c.f c.g.level).ss n.val w })
          c.g.level n.val } := rfl

/-- Everything of a flight but its scalar registers and what is noted of outstanding results is as before a scalar write. -/
theorem putS_rest (c : Ctx) (d : Opnd) (w : Word) :
    (putS c d w).st = c.st ∧ (putS c d w).obs = c.obs ∧
      (putS c d w).f =
        { c.f with s := (putS c d w).f.s, mops := (putS c d w).f.mops, t1 := (putS c d w).f.t1, t2 := (putS c d w).f.t2 } ∧
      (putS c d w).g = { c.g with em := (putS c d w).g.em } := by
  cases d with
  | s n => unfold putS putScalar; dsimp only; split <;> exact ⟨rfl, rfl, rfl, rfl⟩
  | ss n => unfold putS setBank; dsimp only; split <;> exact ⟨rfl, rfl, rfl, rfl⟩
  | _ => exact ⟨rfl, rfl, rfl, rfl⟩

theorem getS_putFrag (f : Flight) (g h : Fragment) (k : Nat) : getS (putFrag f h) g k = getS f g k := rfl

theorem getS_em (f f' : Flight) (g g' : Fragment) (k : Nat) (hs : f'.s = f.s) (he : g'.em = g.em) : getS f' g' k = getS f g k := by
  unfold getS; rw [hs, he]

/-- Words written to a destination and the registers after it, one after the other. -/
def puts (c : Ctx) (d : Opnd) (ws : List Word) : Ctx :=
  (List.range ws.length).foldl (fun acc k => putS acc (opAdd d k) (ws.getD k 0)) c

@[simp] theorem puts_one (c : Ctx) (d : Opnd) (w : Word) : puts c d [w] = putS c (opAdd d 0) w := rfl

theorem opAdd_zero (d : Opnd) : opAdd d 0 = d := by
  cases d <;> simp [opAdd, Nat.mod_eq_of_lt]

theorem puts_two (c : Ctx) (d : Opnd) (x : DWord) : putS2 c d x = puts c d [loWord x, hiWord x] := by
  simp [putS2, puts, List.range_succ, opAdd_zero]

theorem foldl_range_congr {β : Type} (n : Nat) (p q : β → Nat → β) (x : β) (h : ∀ y k, k < n → p y k = q y k) :
    (List.range n).foldl p x = (List.range n).foldl q x := by
  induction n with
  | zero => rfl
  | succ n ih =>
    rw [List.range_succ, List.foldl_append, List.foldl_append, ih fun y k hk => h y k (by omega)]
    exact h _ _ (by omega)

theorem puts_append (c : Ctx) (d : Opnd) (ws : List Word) (w : Word) :
    puts c d (ws ++ [w]) = putS (puts c d ws) (opAdd d ws.length) w := by
  unfold puts
  rw [List.length_append, List.length_singleton, List.range_succ, List.foldl_append]
  simp only [List.foldl_cons, List.foldl_nil]
  rw [foldl_range_congr ws.length _ (fun acc k => putS acc (opAdd d k) (ws.getD k 0)) c]
  · congr 1
    simp
  · intro y k hk
    simp [List.getD_eq_getElem?_getD, List.getElem?_append, hk]

theorem regsFrom_append (n : Nat) (ws : List Word) (w : Word) : regsFrom n (ws ++ [w]) = regsFrom n ws ++ [(n + ws.length, w)] := by
  unfold regsFrom
  rw [List.length_append, List.length_singleton, List.range_succ, List.map_append]
  congr 1
  · apply List.map_congr_left
    intro k hk
    simp [List.getD_eq_getElem?_getD, List.getElem?_append, List.mem_range.1 hk]
  · simp

theorem lastWrite_append (ws : List (Nat × Word)) (n : Nat) (w : Word) (k : Nat) (old : Word) :
    lastWrite (ws ++ [(n, w)]) k old = if n = k then w else lastWrite ws k old := by
  simp [lastWrite]

/-- Induction on a list from its end. -/
theorem fromEnd {β : Type} {motive : List β → Prop} (nil : motive []) (snoc : ∀ l x, motive l → motive (l ++ [x]))
    (l : List β) : motive l := by
  have h : ∀ r : List β, motive r.reverse := by
    intro r
    induction r with
    | nil => exact nil
    | cons x r ih => rw [List.reverse_cons]; exact snoc _ _ ih
  have := h l.reverse
  rwa [List.reverse_reverse] at this

theorem puts_rest (c : Ctx) (d : Opnd) (ws : List Word) :
    (puts c d ws).st = c.st ∧ (puts c d ws).obs = c.obs ∧
      (puts c d ws).f =
        { c.f with s := (puts c d ws).f.s, mops := (puts c d ws).f.mops, t1 := (puts c d ws).f.t1, t2 := (puts c d ws).f.t2 } ∧
      (puts c d ws).g = { c.g with em := (puts c d ws).g.em } := by
  induction ws using fromEnd with
  | nil => exact ⟨rfl, rfl, rfl, rfl⟩
  | snoc l w ih =>
    obtain ⟨h1, h2, h3, h4⟩ := ih
    rw [puts_append]
    obtain ⟨e1, e2, e3, e4⟩ := putS_rest (puts c d l) (opAdd d l.length) w
    refine ⟨e1.trans h1, e2.trans h2, ?_, ?_⟩
    · rw [e3, h3]
    · rw [e4, h4]

theorem getV_same (s t : State) (f f' : Flight) (n l : Nat) (hv : f'.v = f.v) (ha : f'.asyncR = f.asyncR) (hf : t.free = s.free) :
    getV t f' n l = getV s f n l := by
  unfold getV asyncLanes freeAt; rw [hv, ha, hf]

theorem opAdd_s (n : Fin 96) (r : Nat) (h : n.val + r < 96) : opAdd (.s n) r = .s ⟨n.val + r, h⟩ := by
  simp [opAdd, Nat.mod_eq_of_lt h]

theorem opAdd_ss (n : Fin 16) (r : Nat) (h : n.val + r < 16) : opAdd (.ss n) r = .ss ⟨n.val + r, h⟩ := by
  simp [opAdd, Nat.mod_eq_of_lt h]

theorem puts_s (c : Ctx) (n : Fin 96) (ws : List Word) : n.val + ws.length ≤ 96 →
    (∀ k, ScalarAfter c.f c.g (regsFrom n.val ws) k (getS (puts c (.s n) ws).f (puts c (.s n) ws).g k)) ∧
      (puts c (.s n) ws).f.t1 = c.f.t1 ∧ (puts c (.s n) ws).f.t2 = c.f.t2 ∧ (puts c (.s n) ws).g.owned = c.g.owned := by
  induction ws using fromEnd with
  | nil =>
    intro _
    refine ⟨fun k => ⟨?_, fun _ => rfl⟩, rfl, rfl, rfl⟩
    rintro ⟨-, p, hp, -⟩
    simp [regsFrom] at hp
  | snoc l w ih =>
    intro hl
    rw [List.length_append, List.length_singleton] at hl
    obtain ⟨h1, h2, h3, h4⟩ := ih (by omega)
    have ho := opAdd_s n l.length (by omega)
    rw [puts_append, ho]
    show (∀ k, ScalarAfter _ _ _ k (getS (putScalar (puts c (.s n) l) (n.val + l.length) w).f
      (putScalar (puts c (.s n) l) (n.val + l.length) w).g k)) ∧ _
    refine ⟨fun k => ?_, ?_, ?_, ?_⟩
    · rw [getS_putScalar, regsFrom_append, h4]
      have hk := h1 k
      generalize getS (puts c (.s n) l).f (puts c (.s n) l).g k = old at hk
      unfold ScalarAfter at hk ⊢
      simp only [lastWrite_append, List.mem_append, List.mem_singleton]
      generalize n.val + l.length = j
      generalize lastWrite (regsFrom n.val l) k (getS c.f c.g k) = x at hk ⊢
      by_cases hek : isEm k
      · by_cases hej : isEm j
        · rw [if_pos ⟨hek, hej⟩]
          refine ⟨fun _ => ?_, fun h => absurd ⟨hek, (j, w), Or.inr rfl, hej⟩ h⟩
          by_cases hjk : k = j
          · subst hjk; simp
          · rw [if_neg hjk, if_neg (Ne.symm hjk)]
            by_cases hex : ∃ p ∈ regsFrom n.val l, isEm p.1
            · rw [hk.1 ⟨hek, hex⟩, BitVec.and_assoc, BitVec.and_self]
            · rw [hk.2 fun h => hex h.2]
        · rw [if_neg fun h => hej h.2]
          have hjk : k ≠ j := fun h => hej (h ▸ hek)
          rw [if_neg hjk, if_neg (Ne.symm hjk)]
          constructor
          · rintro ⟨-, p, hp | hp, hp'⟩
            · exact hk.1 ⟨hek, p, hp, hp'⟩
            · subst hp; exact absurd hp' hej
          · intro h
            exact hk.2 fun h' => h ⟨hek, h'.2.imp fun p hp => ⟨Or.inl hp.1, hp.2⟩⟩
      · rw [if_neg fun h => hek h.1]
        refine ⟨fun h => absurd h.1 hek, fun _ => ?_⟩
        by_cases hjk : k = j
        · subst hjk; simp
        · rw [if_neg hjk, if_neg (Ne.symm hjk)]
          exact hk.2 fun h => hek h.1
    · rw [← h2]; unfold putS putScalar; dsimp only; split <;> rfl
    · rw [← h3]; unfold putS putScalar; dsimp only; split <;> rfl
    · rw [← h4]; unfold putS putScalar; dsimp only; split <;> rfl

theorem puts_ss (c : Ctx) (n : Fin 16) (ws : List Word) : n.val + ws.length ≤ 16 →
    (∀ k, mgetD (bank (puts c (.ss n) ws).f c.g.level).ss k 0 =
        lastWrite (regsFrom n.val ws) k (mgetD (bank c.f c.g.level).ss k 0)) ∧
      bank (puts c (.ss n) ws).f c.g.level =
        { bank c.f c.g.level with ss := (bank (puts c (.ss n) ws).f c.g.level).ss } ∧
      (if c.g.level = 2 then (puts c (.ss n) ws).f.t1 = c.f.t1 else (puts c (.ss n) ws).f.t2 = c.f.t2) ∧
      (puts c (.ss n) ws).f.s = c.f.s ∧ (puts c (.ss n) ws).g = c.g := by
  induction ws using fromEnd with
  | nil =>
    intro _
    refine ⟨fun k => by simp [regsFrom, lastWrite, puts], rfl, ?_, rfl, rfl⟩
    split <;> rfl
  | snoc l w ih =>
    intro hl
    rw [List.length_append, List.length_singleton] at hl
    obtain ⟨h1, h2, h3, h4, h5⟩ := ih (by omega)
    have ho := opAdd_ss n l.length (by omega)
    rw [puts_append, ho, putS_ss, h5]
    dsimp only
    rw [hitSs_bank, bank_setBank]
    refine ⟨fun k => ?_, ?_, ?_, ?_, rfl⟩
    · rw [regsFrom_append, lastWrite_append]
      dsimp only
      rw [mgetD_mset, h1]
      by_cases hk : k = n.val + l.length
      · simp [hk]
      · rw [if_neg hk, if_neg (Ne.symm hk)]
    · rw [h2]
    · unfold setBank
      by_cases hl : c.g.level = 2
      · simp only [hl, if_true] at h3 ⊢; simp [h3]
      · simp only [hl, if_false] at h3 ⊢
        have : (c.g.level == 2) = false := by simpa using hl
        simp [this, h3]
    · rw [← h4]; unfold setBank; split <;> rfl

/-- A scalar write, as the frame of a flight says it (06 R144, R146, 19 R391). -/
theorem scalarWrite_puts (c : Ctx) (d : Opnd) (ws : List Word) (hd : IsScalar d) (hn : d.idx + ws.length ≤ d.cls.size)
    (f' : Flight) (g' : Fragment) (hs : f'.s = (puts c d ws).f.s) (h1 : f'.t1 = (puts c d ws).f.t1)
    (h2 : f'.t2 = (puts c d ws).f.t2) (he : g'.em = (puts c d ws).g.em) :
    ScalarWrite c.f f' c.g g' d ws := by
  cases d with
  | s n =>
    obtain ⟨e1, e2, e3, -⟩ := puts_s c n ws hn
    refine ⟨fun k => ?_, h1.trans e2, h2.trans e3⟩
    rw [getS_em _ _ _ _ k hs he]; exact e1 k
  | ss n =>
    obtain ⟨e1, e2, e3, e4, e5⟩ := puts_ss c n ws hn
    have hb : bank f' c.g.level = bank (puts c (.ss n) ws).f c.g.level := by unfold bank; rw [h1, h2]
    refine ⟨fun k => getS_em c.f f' c.g g' k (hs.trans e4) (by rw [he, e5]), fun k => ?_, ?_, ?_⟩
    · rw [hb]; exact e1 k
    · rw [hb]; exact e2
    · rw [h1, h2]; exact e3
  | v n => rcases hd with h | h <;> simp [Opnd.cls] at h
  | vt n => rcases hd with h | h <;> simp [Opnd.cls] at h
  | imm n => rcases hd with h | h <;> simp [Opnd.cls] at h
  | cst n => rcases hd with h | h <;> simp [Opnd.cls] at h

/-- An instruction that writes words to consecutive scalar registers. -/
theorem setsScalars_of (i : Instr) (s : State) (f : Flight) (g : Fragment) (d : Opnd) (ws : List Word) (hi : Issues s f g)
    (hu : Unwatched s f) (hd : IsScalar d) (hn : d.idx + ws.length ≤ d.cls.size)
    (he : exec i s = .next (retireNext (ctxOf s f g) (puts (ctxOf s f g) d ws))) : SetsScalars i s f g d ws := by
  obtain ⟨hst, -, hf, hg⟩ := puts_rest (ctxOf s f g) d ws
  have hpc : (puts (ctxOf s f g) d ws).g.pc = g.pc := by rw [hg]; rfl
  have hcore : (puts (ctxOf s f g) d ws).f.core = f.core := by rw [hf]; rfl
  have key := completesIn_of i s f g f (g.pc + 8) (puts (ctxOf s f g) d ws)
    (fun t f' g' => ScalarWrite f f' g g' d ws ∧ VectorsSame s t f f' ∧ f'.lflags = f.lflags) hi
    (by rw [hcore]; exact hu.1) (by rw [hst]; rfl) (by rw [hst]; rfl) (by rw [hf]; rfl) hg
    (by rw [he, retireNext, next, hpc]) (by rw [hf]; rfl) ?_
  · rw [hst] at key; exact key
  · intro t f' g' h1 h2 h3
    refine ⟨scalarWrite_puts (ctxOf s f g) d ws hd hn f' g' (by rw [h3]; rfl) (by rw [h3]; rfl) (by rw [h3]; rfl) h2, ?_, ?_⟩
    · intro n l
      exact getV_same _ _ _ _ _ _ (by rw [h3, hf]; rfl) (by rw [h3, hf]; rfl) (by rw [h1, hst]; rfl)
    · rw [h3, hf]; rfl

/-- An instruction that writes one scalar register. -/
theorem setsScalar_of (i : Instr) (s : State) (f : Flight) (g : Fragment) (d : Opnd) (w : Word) (hi : Issues s f g)
    (hu : Unwatched s f) (hd : IsScalar d)
    (he : exec i s = .next (retireNext (ctxOf s f g) (putS (ctxOf s f g) d w))) : SetsScalar i s f g d w := by
  refine setsScalars_of i s f g d [w] hi hu hd ?_ (by rw [puts_one, opAdd_zero]; exact he)
  rcases hd with h | h <;> cases d <;> simp [Opnd.cls, Cls.size, Opnd.idx] at h ⊢ <;> omega

/-- A register of a trap bank is named at level 1 or 2 only (02 R21). -/
theorem level_of_bank (f : Flight) (g : Fragment) (d : Opnd) (k : Nat) (ops : List (Opnd × Nat)) (h : MayName f g ops)
    (hd : (d, k) ∈ ops) (hc : d.cls = .SS ∨ d.cls = .VT) : g.level ≠ 0 := by
  intro hl
  have := h.1 hl
  unfold usesBank at this
  rw [List.any_eq_false] at this
  have := this _ hd
  rcases hc with hc | hc <;> simp [hc] at this

end Sys2Proof.Machine
end

