-- ==== Sys2Proof/Laws/Vectors.lean ====
section
/-!
SUPPORT. Vector registers and sticky flags: what is read after a write of the active lanes.
-/
namespace Sys2Proof.Machine

theorem rowAt_rowSet (r : Row) (m : Lanes) (val : Nat → Word) (l : Nat) (h : l < 96) :
    rowAt (rowSet r m val) l = if m.getLsbD l then val l else rowAt r l := by
  unfold rowSet
  rw [rowAt, List.getD_eq_getElem?_getD, List.getElem?_map, List.getElem?_range h]
  rfl

theorem asyncLanes_setV (s : State) (f : Flight) (n k : Nat) (m : Lanes) (val : Nat → Word) :
    asyncLanes (setV s f n m val) k = asyncLanes f k := by
  have h : (setV s f n m val).asyncR =
      f.asyncR.map fun a => if a.reg == n then { a with hit := a.hit ||| (m &&& a.lanes) } else a := rfl
  unfold asyncLanes
  rw [h, List.foldl_map]
  congr 1
  funext acc a
  split <;> split <;> simp_all

/-- Lane `l` of register `k` after the lanes of a mask of register `n`, which no LCONA reads, were written (08 R198). -/
theorem getV_setV (s t : State) (f : Flight) (n k l : Nat) (m : Lanes) (val : Nat → Word) (ha : asyncLanes f n = 0)
    (hf : t.free = s.free) (hl : l < 96) :
    getV t (setV s f n m val) k l = if k = n ∧ m.getLsbD l then val l else getV s f k l := by
  have hz : ∀ j, (0 : Lanes).getLsbD j = false := by intro j; simp
  unfold getV
  rw [asyncLanes_setV]
  have hv : (setV s f n m val).v =
      mset f.v n (rowSet (mgetD f.v n []) m fun l => if (asyncLanes f n).getLsbD l then freeAt s n l else val l) := rfl
  rw [hv, mgetD_mset]
  by_cases hk : k = n
  · subst hk
    rw [ha]
    simp only [hz, Bool.false_eq_true, if_false, if_true, true_and]
    rw [rowAt_rowSet _ _ _ _ hl]
  · simp only [hk, false_and, if_false]
    unfold freeAt
    rw [hf]

/-- Everything that a vector write leaves as it was. -/
theorem putV_rest (c : Ctx) (d : Opnd) (m : Lanes) (val : Nat → Word) :
    (putV c d m val).st = c.st ∧ (putV c d m val).g = c.g ∧ (putV c d m val).obs = c.obs ∧
      (putV c d m val).f =
        { c.f with v := (putV c d m val).f.v, mops := (putV c d m val).f.mops, pend := (putV c d m val).f.pend,
                   dirty := (putV c d m val).f.dirty, asyncR := (putV c d m val).f.asyncR, t1 := (putV c d m val).f.t1,
                   t2 := (putV c d m val).f.t2 } := by
  cases d with
  | v n => exact ⟨rfl, rfl, rfl, rfl⟩
  | vt n => unfold putV setBank; dsimp only; split <;> exact ⟨rfl, rfl, rfl, rfl⟩
  | _ => exact ⟨rfl, rfl, rfl, rfl⟩

/-- Write the active lanes of `r` registers from a destination on, one register after the other. -/
def vecs (c : Ctx) (d : Opnd) (r : Nat) (val : Nat → Nat → Word) : Ctx :=
  (List.range r).foldl (fun acc k => vecWord acc (opAdd d k) (val k)) c

theorem vecs_succ (c : Ctx) (d : Opnd) (r : Nat) (val : Nat → Nat → Word) :
    vecs c d (r + 1) val = vecWord (vecs c d r val) (opAdd d r) (val r) := by
  simp [vecs, List.range_succ]

theorem vecWord_f (c : Ctx) (d : Opnd) (val : Nat → Word) : (vecWord c d val).f = (putV c d c.g.em val).f := rfl
theorem vecWord_g (c : Ctx) (d : Opnd) (val : Nat → Word) : (vecWord c d val).g = c.g := (putV_rest c d _ val).2.1
theorem vecWord_st (c : Ctx) (d : Opnd) (val : Nat → Word) : (vecWord c d val).st = c.st := (putV_rest c d _ val).1

theorem vecs_rest (c : Ctx) (d : Opnd) (r : Nat) (val : Nat → Nat → Word) :
    (vecs c d r val).st = c.st ∧ (vecs c d r val).g = c.g ∧
      (vecs c d r val).f =
        { c.f with v := (vecs c d r val).f.v, mops := (vecs c d r val).f.mops, pend := (vecs c d r val).f.pend,
                   dirty := (vecs c d r val).f.dirty, asyncR := (vecs c d r val).f.asyncR, t1 := (vecs c d r val).f.t1,
                   t2 := (vecs c d r val).f.t2 } := by
  induction r with
  | zero => exact ⟨rfl, rfl, rfl⟩
  | succ r ih =>
    obtain ⟨h1, h2, h3⟩ := ih
    rw [vecs_succ]
    refine ⟨by rw [vecWord_st, h1], by rw [vecWord_g, h2], ?_⟩
    have h := (putV_rest (vecs c d r val) (opAdd d r) (vecs c d r val).g.em (val r)).2.2.2
    rw [vecWord_f, h, h3]

theorem opAdd_v (n : Fin 192) (r : Nat) (h : n.val + r < 192) : opAdd (.v n) r = .v ⟨n.val + r, h⟩ := by
  simp [opAdd, Nat.mod_eq_of_lt h]

theorem opAdd_vt (n : Fin 16) (r : Nat) (h : n.val + r < 16) : opAdd (.vt n) r = .vt ⟨n.val + r, h⟩ := by
  simp [opAdd, Nat.mod_eq_of_lt h]

theorem vecs_v (c : Ctx) (n : Fin 192) (r : Nat) (val : Nat → Nat → Word) (hn : n.val + r ≤ 192)
    (hu : Unread c.f (.v n) r) :
    (∀ k l, l < 96 → getV c.st (vecs c (.v n) r val).f k l =
      if (n.val ≤ k ∧ k < n.val + r) ∧ c.g.em.getLsbD l then val (k - n.val) l else getV c.st c.f k l) ∧
      (∀ k, asyncLanes (vecs c (.v n) r val).f k = asyncLanes c.f k) ∧
      (vecs c (.v n) r val).f.t1 = c.f.t1 ∧ (vecs c (.v n) r val).f.t2 = c.f.t2 := by
  induction r with
  | zero =>
    refine ⟨fun k l _ => ?_, fun _ => rfl, rfl, rfl⟩
    have : ¬(n.val ≤ k ∧ k < n.val + 0) := by omega
    rw [if_neg fun h => this h.1]; rfl
  | succ r ih =>
    obtain ⟨h1, h2, h3, h4⟩ := ih (by omega) (fun k hk hk' => hu k hk (by omega))
    obtain ⟨hst, hg, -⟩ := vecs_rest c (.v n) r val
    have ho := opAdd_v n r (by omega)
    rw [vecs_succ, ho]
    refine ⟨fun k l hl => ?_, fun k => ?_, h3, h4⟩
    · rw [vecWord_f]
      show getV c.st (setV (vecs c (.v n) r val).st (vecs c (.v n) r val).f (n.val + r) (vecs c (.v n) r val).g.em (val r)) k l = _
      rw [getV_setV _ _ _ _ _ _ _ _ (by rw [h2]; exact hu _ (by omega) (by omega)) (by rw [hst]) hl, hst, hg, h1 k l hl]
      by_cases hk : k = n.val + r
      · subst hk
        have e1 : n.val + r - n.val = r := by omega
        by_cases he : c.g.em.getLsbD l <;> simp [he, e1]
      · by_cases hk1 : n.val ≤ k ∧ k < n.val + r
        · have hk2 : n.val ≤ k ∧ k < n.val + (r + 1) := by omega
          simp [hk, hk1, hk2]
        · have hk2 : ¬(n.val ≤ k ∧ k < n.val + (r + 1)) := by omega
          simp only [hk, hk1, hk2, false_and, if_false]
    · rw [vecWord_f]
      show asyncLanes (setV _ _ _ _ _) k = _
      rw [asyncLanes_setV, h2]

theorem vecs_vt (c : Ctx) (n : Fin 16) (r : Nat) (val : Nat → Nat → Word) (hn : n.val + r ≤ 16) :
    (∀ k l, l < 96 → rowAt (mgetD (bank (vecs c (.vt n) r val).f c.g.level).vt k []) l =
      if (n.val ≤ k ∧ k < n.val + r) ∧ c.g.em.getLsbD l then val (k - n.val) l
      else rowAt (mgetD (bank c.f c.g.level).vt k []) l) ∧
      bank (vecs c (.vt n) r val).f c.g.level =
        { bank c.f c.g.level with vt := (bank (vecs c (.vt n) r val).f c.g.level).vt } ∧
      (if c.g.level = 2 then (vecs c (.vt n) r val).f.t1 = c.f.t1 else (vecs c (.vt n) r val).f.t2 = c.f.t2) ∧
      (vecs c (.vt n) r val).f.v = c.f.v ∧ (vecs c (.vt n) r val).f.asyncR = c.f.asyncR := by
  induction r with
  | zero =>
    refine ⟨fun k l _ => ?_, rfl, ?_, rfl, rfl⟩
    · have : ¬(n.val ≤ k ∧ k < n.val + 0) := by omega
      rw [if_neg fun h => this h.1]; rfl
    · split <;> rfl
  | succ r ih =>
    obtain ⟨h1, h2, h3, h4, h5⟩ := ih (by omega)
    obtain ⟨hst, hg, -⟩ := vecs_rest c (.vt n) r val
    have ho := opAdd_vt n r (by omega)
    rw [vecs_succ, ho, vecWord_f]
    have hp : (putV (vecs c (.vt n) r val) (.vt ⟨n.val + r, by omega⟩) (vecs c (.vt n) r val).g.em (val r)).f =
        hitVt (setBank (vecs c (.vt n) r val).f c.g.level
          { bank (vecs c (.vt n) r val).f c.g.level with
            vt := mset (bank (vecs c (.vt n) r val).f c.g.level).vt (n.val + r)
              (rowSet (mgetD (bank (vecs c (.vt n) r val).f c.g.level).vt (n.val + r) []) c.g.em (val r)) })
          c.g.level (n.val + r) c.g.em := by
      unfold putV; rw [hg]
    rw [hp, hitVt_bank, bank_setBank]
    refine ⟨fun k l hl => ?_, ?_, ?_, ?_, ?_⟩
    · dsimp only
      rw [mgetD_mset]
      by_cases hk : k = n.val + r
      · subst hk
        have e1 : n.val + r - n.val = r := by omega
        rw [if_pos rfl, rowAt_rowSet _ _ _ _ hl, h1 _ l hl]
        have hk1 : ¬(n.val ≤ n.val + r ∧ n.val + r < n.val + r) := by omega
        by_cases he : c.g.em.getLsbD l <;> simp [he, e1]
      · rw [if_neg hk, h1 k l hl]
        by_cases hk1 : n.val ≤ k ∧ k < n.val + r
        · have hk2 : n.val ≤ k ∧ k < n.val + (r + 1) := by omega
          simp [hk1, hk2]
        · have hk2 : ¬(n.val ≤ k ∧ k < n.val + (r + 1)) := by omega
          simp only [hk1, hk2, false_and, if_false]
    · rw [h2]
    · unfold setBank
      by_cases hl : c.g.level = 2
      · simp only [hl, if_true] at h3 ⊢; simp [h3]
      · simp only [hl, if_false] at h3 ⊢
        have : (c.g.level == 2) = false := by simpa using hl
        simp [this, h3]
    · unfold setBank; split <;> exact h4
    · unfold setBank; split <;> exact h5

/-- The bits of four flags of one lane, as one number. -/
def fourBits (p : Nat → Bool) : Nat := (List.range 4).foldl (fun acc i => acc + (if p i then 2 ^ i else 0)) 0

theorem fourBits_or (a b : Nat → Bool) : fourBits (fun i => a i || b i) = fourBits a ||| fourBits b := by
  have h : ∀ a0 a1 a2 a3 b0 b1 b2 b3 : Bool,
      (0 + (if (a0 || b0) then 2 ^ 0 else 0) + (if (a1 || b1) then 2 ^ 1 else 0) + (if (a2 || b2) then 2 ^ 2 else 0) +
        (if (a3 || b3) then 2 ^ 3 else 0) : Nat) =
      (0 + (if a0 then 2 ^ 0 else 0) + (if a1 then 2 ^ 1 else 0) + (if a2 then 2 ^ 2 else 0) + (if a3 then 2 ^ 3 else 0)) |||
      (0 + (if b0 then 2 ^ 0 else 0) + (if b1 then 2 ^ 1 else 0) + (if b2 then 2 ^ 2 else 0) + (if b3 then 2 ^ 3 else 0)) := by
    decide
  exact h (a 0) (a 1) (a 2) (a 3) (b 0) (b 1) (b 2) (b 3)

theorem fourBits_bitOf (x : Nat) : fourBits (bitOf x) = x % 16 := by
  have h : ∀ i, i < 4 → bitOf x i = bitOf (x % 16) i := by
    intro i hi
    unfold bitOf
    have : i = 0 ∨ i = 1 ∨ i = 2 ∨ i = 3 := by omega
    have e : x / 2 ^ i % 2 = x % 16 / 2 ^ i % 2 := by rcases this with rfl | rfl | rfl | rfl <;> omega
    rw [e]
  have h' : fourBits (bitOf x) = fourBits (bitOf (x % 16)) := by
    show 0 + (if bitOf x 0 then _ else _) + (if bitOf x 1 then _ else _) + (if bitOf x 2 then _ else _) +
      (if bitOf x 3 then _ else _) = _
    rw [h 0 (by omega), h 1 (by omega), h 2 (by omega), h 3 (by omega)]; rfl
  rw [h']
  have key : ∀ y, y < 16 → fourBits (bitOf y) = y := by decide
  exact key _ (Nat.mod_lt _ (by omega))

theorem testBit_lanes (p : Nat → Bool) (n k i : Nat) :
    ((List.range' k n).foldr (fun l acc => (if p l then 1 else 0) + 2 * acc) 0).testBit i = (decide (i < n) && p (k + i)) := by
  induction n generalizing k i with
  | zero => simp
  | succ n ih =>
    rw [List.range'_succ, List.foldr_cons]
    cases i with
    | zero => cases h : p k <;> simp [Nat.testBit_zero, Nat.add_mod]
    | succ i =>
      have e : ∀ b y : Nat, b < 2 → (b + 2 * y).testBit (i + 1) = y.testBit i := by
        intro b y hb
        rw [Nat.testBit_succ]
        congr 1
        omega
      rw [e _ _ (by split <;> omega), ih]
      have h1 : k + 1 + i = k + (i + 1) := by omega
      rw [h1]
      by_cases h : i < n <;> simp [h]

/-- The mask of the lanes with a property holds lane `l` when `l` has it (00 R4). -/
theorem getLsbD_lanesOf (p : Nat → Bool) (l : Nat) (h : l < 96) : (lanesOf p).getLsbD l = p l := by
  unfold lanesOf
  rw [BitVec.getLsbD_ofNat, List.range_eq_range', testBit_lanes]
  simp [h]

/-- The flag bits of a lane after some were raised (07 R185). -/
theorem laneFlags_raise (f : Flight) (bits : Nat → Nat) (m : Lanes) (l : Nat) (hl : l < 96) :
    laneFlags (f.raise (flagMasks bits m)) l = laneFlags f l ||| (if m.getLsbD l then bits l % 16 else 0) := by
  have hget : ∀ i, i < 4 → ((f.raise (flagMasks bits m)).lflags.getD i 0).getLsbD l =
      ((f.lflags.getD i 0).getLsbD l || (m.getLsbD l && bitOf (bits l) i)) := by
    intro i hi
    have e : ((f.raise (flagMasks bits m)).lflags.getD i 0) = f.lflags.getD i 0 ||| flagLanes bits m i := by
      show (orMasks f.lflags (flagMasks bits m)).getD i 0 = _
      have : i = 0 ∨ i = 1 ∨ i = 2 ∨ i = 3 := by omega
      rcases this with rfl | rfl | rfl | rfl <;> rfl
    rw [e, BitVec.getLsbD_or]
    unfold flagLanes
    rw [getLsbD_lanesOf _ _ hl]
  have h1 : laneFlags (f.raise (flagMasks bits m)) l =
      fourBits fun i => (f.lflags.getD i 0).getLsbD l || (m.getLsbD l && bitOf (bits l) i) := by
    show 0 + (if _ then _ else _) + (if _ then _ else _) + (if _ then _ else _) + (if _ then _ else _) = _
    rw [hget 0 (by omega), hget 1 (by omega), hget 2 (by omega), hget 3 (by omega)]; rfl
  have h2 : laneFlags f l = fourBits fun i => (f.lflags.getD i 0).getLsbD l := rfl
  rw [h1, fourBits_or, h2]
  congr 1
  by_cases h : m.getLsbD l
  · simp only [h, Bool.true_and, if_true]; exact fourBits_bitOf _
  · simp only [h, Bool.false_and]; rfl

/-- A write of active lanes, as the frame of a flight says it (08 R198). -/
theorem vectorWrite_vecs (c : Ctx) (t : State) (d : Opnd) (r : Nat) (val : Nat → Nat → Word) (hd : IsVector d)
    (hn : d.idx + r ≤ d.cls.size) (ha : Unread c.f d r) (f' : Flight) (hv : f'.v = (vecs c d r val).f.v)
    (hy : f'.asyncR = (vecs c d r val).f.asyncR) (h1 : f'.t1 = (vecs c d r val).f.t1)
    (h2 : f'.t2 = (vecs c d r val).f.t2) (hf : t.free = c.st.free) : VectorWrite c.st t c.f f' c.g d r val := by
  cases d with
  | v n =>
    obtain ⟨e1, -, e3, e4⟩ := vecs_v c n r val hn ha
    refine ⟨fun k l hl => ?_, h1.trans e3, h2.trans e4⟩
    rw [← e1 k l hl]
    exact getV_same _ _ _ _ _ _ hv hy hf
  | vt n =>
    obtain ⟨e1, e2, e3, e4, e5⟩ := vecs_vt c n r val hn
    have hb : bank f' c.g.level = bank (vecs c (.vt n) r val).f c.g.level := by unfold bank; rw [h1, h2]
    refine ⟨fun k l => getV_same _ _ _ _ _ _ (hv.trans e4) (hy.trans e5) hf, fun k l hl => ?_, ?_, ?_⟩
    · rw [hb]; exact e1 k l hl
    · rw [hb]; exact e2
    · rw [h1, h2]; exact e3
  | s n => rcases hd with h | h <;> simp [Opnd.cls] at h
  | ss n => rcases hd with h | h <;> simp [Opnd.cls] at h
  | imm n => rcases hd with h | h <;> simp [Opnd.cls] at h
  | cst n => rcases hd with h | h <;> simp [Opnd.cls] at h

/-- An instruction that writes the active lanes of registers and raises flags. -/
theorem setsVector_of (i : Instr) (s : State) (f : Flight) (g : Fragment) (d : Opnd) (r : Nat) (val : Nat → Nat → Word)
    (bits : Nat → Nat) (hi : Issues s f g) (hu : Unwatched s f) (hd : IsVector d) (hn : d.idx + r ≤ d.cls.size)
    (ha : Unread f d r)
    (he : exec i s =
      .next (retireNext (ctxOf s f g) (vecs (raise (ctxOf s f g) (flagMasks bits g.em)) d r val))) :
    SetsVector i s f g d r val bits := by
  obtain ⟨hst, hg, hf⟩ := vecs_rest (raise (ctxOf s f g) (flagMasks bits g.em)) d r val
  have key := completesIn_of i s f g f (g.pc + 8) (vecs (raise (ctxOf s f g) (flagMasks bits g.em)) d r val)
    (fun t f' g' => g'.em = g.em ∧ VectorWrite s t f f' g d r val ∧ ScalarsSame f f' g g' ∧
      ∀ l, l < 96 → laneFlags f' l = laneFlags f l ||| (if g.em.getLsbD l then bits l % 16 else 0)) hi
    (by rw [hf]; exact hu.1) (by rw [hst]; rfl) (by rw [hst]; rfl) (by rw [hf]; rfl) (by rw [hg]; rfl)
    (by rw [he, retireNext, next, hg]; rfl) (by rw [hf]; rfl) ?_
  · rw [hst] at key; exact key
  · intro t f' g' h1 h2 h3
    have hem : g'.em = g.em := by rw [h2, hg]; rfl
    refine ⟨hem, ?_, ?_, ?_⟩
    · exact vectorWrite_vecs (raise (ctxOf s f g) (flagMasks bits g.em)) _ d r val hd hn ha f' (by rw [h3]; rfl)
        (by rw [h3]; rfl) (by rw [h3]; rfl) (by rw [h3]; rfl) (by rw [h1, hst])
    · intro k
      exact getS_em _ _ _ _ _ (by rw [h3, hf]; rfl) hem
    · intro l hl
      have : laneFlags f' l = laneFlags (f.raise (flagMasks bits g.em)) l := by
        unfold laneFlags; rw [h3, hf]; rfl
      rw [this, laneFlags_raise _ _ _ _ hl]

/-- An instruction that writes the active lanes of registers and raises none. -/
theorem setsVector_plain (i : Instr) (s : State) (f : Flight) (g : Fragment) (d : Opnd) (r : Nat) (val : Nat → Nat → Word)
    (hi : Issues s f g) (hu : Unwatched s f) (hd : IsVector d) (hn : d.idx + r ≤ d.cls.size) (ha : Unread f d r)
    (he : exec i s = .next (retireNext (ctxOf s f g) (vecs (ctxOf s f g) d r val))) :
    SetsVector i s f g d r val fun _ => 0 := by
  obtain ⟨hst, hg, hf⟩ := vecs_rest (ctxOf s f g) d r val
  have key := completesIn_of i s f g f (g.pc + 8) (vecs (ctxOf s f g) d r val)
    (fun t f' g' => g'.em = g.em ∧ VectorWrite s t f f' g d r val ∧ ScalarsSame f f' g g' ∧
      ∀ l, l < 96 → laneFlags f' l = laneFlags f l ||| (if g.em.getLsbD l then 0 % 16 else 0)) hi
    (by rw [hf]; exact hu.1) (by rw [hst]; rfl) (by rw [hst]; rfl) (by rw [hf]; rfl) (by rw [hg]; rfl)
    (by rw [he, retireNext, next, hg]; rfl) (by rw [hf]; rfl) ?_
  · rw [hst] at key; exact key
  · intro t f' g' h1 h2 h3
    have hem : g'.em = g.em := by rw [h2, hg]; rfl
    refine ⟨hem, ?_, ?_, ?_⟩
    · exact vectorWrite_vecs (ctxOf s f g) _ d r val hd hn ha f' (by rw [h3]; rfl)
        (by rw [h3]; rfl) (by rw [h3]; rfl) (by rw [h3]; rfl) (by rw [h1, hst])
    · intro k
      exact getS_em _ _ _ _ _ (by rw [h3, hf]; rfl) hem
    · intro l hl
      have : laneFlags f' l = laneFlags f l := by unfold laneFlags; rw [h3, hf]; rfl
      rw [this]; simp

/-- An instruction that changes nothing but the PC. -/
theorem onlyMoves_of (i : Instr) (s : State) (f : Flight) (g : Fragment) (pc : DWord) (hi : Issues s f g)
    (hu : Unwatched s f) (he : exec i s = .next (retire (ctxOf s f g) (goto (ctxOf s f g) pc))) : OnlyMoves i s f g pc :=
  completesIn_of i s f g f pc (ctxOf s f g) _ hi hu.1 rfl rfl rfl rfl he rfl fun t f' g' h1 h2 h3 =>
    ⟨h2, fun k => getS_em _ _ _ _ _ (by rw [h3]; rfl) h2, fun n l => getV_same _ _ _ _ _ _ (by rw [h3]; rfl) (by rw [h3]; rfl) h1,
     by rw [h3]; rfl, by rw [h3]; rfl, by rw [h3]; rfl, by rw [h3]; rfl, by rw [h3]; rfl, by rw [h3]; rfl⟩

end Sys2Proof.Machine
end

