-- ==== Sys2Proof/Tests/Slice0.lean ====
section
/-!
SUPPORT. The model's own tests: ill-formed terms, words of the encoding tables, single steps, and for each statement a state and
operands that meet its hypotheses (`witness_…`). Expected values come from spec/, by hand.
-/
namespace Sys2Proof.Tests
open Sys2Proof Sys2Proof.Machine

set_option maxRecDepth 20000
-- One theorem at a time: each `decide +kernel` waits for the kernel, and theorems checked side by side hold one thread each.
set_option Elab.async false

/-! ### Small states -/

/-- A partition with core 0, the first group of HBM and engine 0. -/
def desc0 : CreateDesc :=
  { pid := 0, cores := 3, groups := 1, engines := 1, engineOf := [(0, 0)], slots := 1, root := 0x1_0000, grants := [],
    admits := 1, stream := false, vector := 0x20_0000, bp := true, pmax := 1024 }

def part0 : Part :=
  { desc := desc0, frctl := 0, jnlctl := 0, jnlhead := 0, jnltail := 0, hrctl := 0, hrhead := 0, tmrctl := 0,
    preemptdl := 50, hcmd := 0, nextId := 1, offers := [], phase := none, freeze := .clear, destroyed := false, jobCount := 0, jobFault := false,
    jobEnds := 0, moving := none }

def kern0 : Desc :=
  { entry := 0x10_0000, resident := false, sym := false, nflight := 1, nblock := 1, vregs := 192, sregs := 96, tiles := 1,
    sqDepth := 2, roles := [], scratch := 0, spill := 0, gens := [], maps := 1, strides := [4, 4, 4] }

def launch0 : Launch :=
  { pid := 0, id := 0, kind := 1, compat := false, tag := 0, desc := some kern0, ext := [96, 1, 1], karg := 0, next := 0,
    spill := 0, status := 0, points := 96, gangs := 2, handed := 1, placed := 1, retired := 0, state := 1, reason := 0,
    fault := none, antisym := false, root := none, isRoot := false, tree := 0, treeFlt := none, treeEnd := false,
    graph := none, queue := none, qlive := false, device := false, prio := 1, pidx := 0, cancel := false, order := 0,
    contribs := [] }

def gang0 : Gang :=
  { pid := 0, launch := 0, num := 0, die := 0, quad := 0, offset := 0, scratch := 0, tiles := 1, nflight := 1, nblock := 1,
    state := .running, why := 0, acks := [], deadline := none, held := false, engStop := false, pmaxAt := [], bars := [],
    pools := [], order := 0, ran := 0, started := 0, savedT := [] }

/-- A fragment of all lanes at a level, with some active. -/
def frag0 (level : Nat) (em : Lanes) : Fragment :=
  { num := 0, owned := allLanes, em := em, pc := 0x10_0000, region := 0, rpc := 0x10_0000, rmask := em, level := level,
    wait := .run, halted := false, stopped := false, regionStop := false, skip := false, ready := 0, last := none,
    run := 0, aged := false }

/-- A flight of some fragments. -/
def flight0 (gs : List Fragment) : Flight :=
  { gid := 0, pid := 0, launch := 0, rank := 0, idx := 0, core := 0, slot := 0, pos := 0, frags := gs, exited := 0,
    vregs := 192, s := [], v := [], tokens := [], pend := [], mops := [], seqNo := 0, fpmode := 0, lflags := [],
    clkhi := 0, lseq := [], pts := [], t1 := TrapSet.start, t2 := TrapSet.start, tvec := 0x20_0000, bp := true, sq := [],
    psets := [], afq := [], afMore := false, timer := false, haltq := [], lpr := [], slpr := none, dirty := [],
    asyncR := [], issued := 0, dblFlt := none, refused := [] }

/-- A machine in which flight 0 issues, with fragment 0. -/
def mach (f : Flight) : State :=
  { State.reset with parts := [(0, part0)], launches := [(0, launch0)], gangs := [(0, gang0)], flights := [(0, f)], nextId := 1 }

/-- A user fragment with lanes 0 and 95 active, and its flight. -/
def gU : Fragment := frag0 0 0x8000_0000_0000_0000_0000_0001
def fU : Flight := flight0 [gU]
def sU : State := mach fU

/-- The same in a handler. -/
def gH : Fragment := frag0 1 0x8000_0000_0000_0000_0000_0001
def fH : Flight := flight0 [gH]
def sH : State := mach fH

/-- What an answer leaves, told by a test of its state. -/
def left (a : Ans) (p : State → Bool) : Bool := match a with | .next t => p t | _ => false

/-- Flight 0 of a state, told by a test. -/
def flt0 (t : State) (p : Flight → Bool) : Bool := match flight? t 0 with | some f => p f | none => false

/-- Scalar register `n` of flight 0's fragment 0. -/
def sreg (t : State) (n : Nat) : Word :=
  match flight? t 0 with
  | some f => match frag? f 0 with | some g => getS f g n | none => 0
  | none => 0

/-- Vector register `n` of flight 0 in lane `l`. -/
def vreg (t : State) (n l : Nat) : Word := match flight? t 0 with | some f => getV t f n l | none => 0

/-- Flight 0 with scalar registers. -/
def withS (f : Flight) (l : Cells Word) : Flight := { f with s := l }

/-- A row with every lane equal. -/
def row (w : Word) : Row := List.replicate 96 w

theorem noDest_nil (d : Opnd) (n : Nat) : NoDest [] [] d n := ⟨by simp, by simp⟩
theorem unraced (s : State) (a n : Nat) (h1 : updating s none = []) (h2 : s.work = []) : Unraced s a n := ⟨by simp [h1], by simp [h2]⟩

/-! ### Witnesses -/

theorem witness_ScalarArithmetic : Issues sU fU gU ∧ Unwatched sU fU ∧ MayName fU gU [(.s 95, 1), (.imm 63, 1), (.s 0, 1)] ∧
    IsScalar (.s 95) ∧ MayName fU gU [(.s 88, 1), (.s 88, 1)] ∧ Issues sH fH gH ∧ Unwatched sH fH ∧
    MayName fH gH [(.ss 15, 1), (.ss 0, 1), (.s 95, 1)] ∧ IsScalar (.ss 15) := by
  repeat' apply And.intro
  all_goals first | rfl | decide | exact Or.inl rfl | exact Or.inr rfl

theorem witness_ScalarMovesAndBits : Issues sU fU gU ∧ Unwatched sU fU ∧
    MayName fU gU [(.s 0, 1), (.s 95, 1), (.imm 0, 1), (.s 90, 1)] ∧ IsScalar (.s 0) ∧ Ty.s32.isFp = false ∧ Ty.s32.regs = 1 ∧
    Ty.s32 ≠ .fx64 ∧ isInline (.s 95) = false := by
  repeat' apply And.intro
  all_goals first | rfl | decide | exact Or.inl rfl

theorem witness_MaskInstructions : Issues sU fU gU ∧ Unwatched sU fU ∧ MayName fU gU [(.s 95, 1), (.imm 63, 1)] ∧ IsScalar (.s 95) := by
  repeat' apply And.intro
  all_goals first | rfl | decide | exact Or.inl rfl

theorem witness_ScalarPairsAndSpecials : Issues sU fU gU ∧ Unwatched sU fU ∧ IsScalar (.s 94) ∧
    MayName fU gU [(.s 94, 2), (.s 0, 2), (.imm 63, 2)] ∧ (Opnd.s 94).idx + 2 ≤ (Opnd.s 94).cls.size ∧ MayName fU gU [(.s 94, 1)] ∧
    (0x13#8).toNat ≠ 0x0A ∧ MayName fU gU [(.imm 3, 1)] ∧ (srcS (ctxOf sU fU gU) (.imm 3)).toNat < 4 ∧
    4 ≤ (srcS (ctxOf sU fU gU) (.imm 4)).toNat ∧ (srcS (ctxOf sU fU gU) (.imm 15)).toNat < 16 ∧
    16 ≤ (srcS (ctxOf sU fU gU) (.imm 16)).toNat := by
  repeat' apply And.intro
  all_goals first | rfl | decide | exact Or.inl rfl

theorem unread_nil (f : Flight) (d : Opnd) (r : Nat) (h : f.asyncR = []) : Unread f d r := by
  cases d <;> simp [Unread, asyncLanes, h]

theorem witness_VectorArithmetic : Issues sU fU gU ∧ Unwatched sU fU ∧ MayName fU gU [(.v 191, 1), (.imm 63, 1), (.s 0, 1)] ∧
    IsVector (.v 191) ∧ Unread fU (.v 191) 1 ∧ MayName fH gH [(.vt 15, 1), (.vt 0, 1)] ∧ IsVector (.vt 15) ∧ Unread fH (.vt 15) 1 := by
  repeat' apply And.intro
  all_goals first | rfl | decide | exact Or.inl rfl | exact Or.inr rfl | exact unread_nil _ _ _ rfl

theorem witness_VectorMovesAndBits : Issues sU fU gU ∧ Unwatched sU fU ∧
    MayName fU gU [(.v 190, Ty.f64.regs), (.s 94, Ty.f64.regs), (.v 0, Ty.f64.regs), (.imm 1, 1)] ∧ IsVector (.v 190) ∧
    (Opnd.v 190).idx + Ty.f64.regs ≤ (Opnd.v 190).cls.size ∧ Unread fU (.v 190) Ty.f64.regs ∧ Ty.u32.regs = 1 ∧
    MayName fU gU [(.v 191, Ty.u32.regs), (.v 191, Ty.u32.regs), (.v 0, Ty.u32.regs), (.imm 1, 1)] := by
  repeat' apply And.intro
  all_goals first | rfl | decide | exact Or.inl rfl | exact unread_nil _ _ _ rfl

theorem witness_VectorPairs : Issues sU fU gU ∧ Unwatched sU fU ∧ Ty.s64.regs = 2 ∧ Ty.fx64.regs = 2 ∧ IsVector (.v 190) ∧
    (Opnd.v 190).idx + 2 ≤ (Opnd.v 190).cls.size ∧ Unread fU (.v 190) 2 ∧ MayName fU gU [(.v 190, 2), (.v 0, 2), (.imm 1, 2)] ∧
    MayName fU gU [(.v 190, 2), (.v 0, 1), (.imm 1, 1), (.s 0, 2)] := by
  repeat' apply And.intro
  all_goals first | rfl | decide | exact Or.inl rfl | exact unread_nil _ _ _ rfl

theorem witness_CrossLane : Issues sU fU gU ∧ Unwatched sU fU ∧ MayName fU gU [(.v 190, 2), (.v 0, 2), (.imm 63, 1)] ∧
    (Opnd.v 190).idx + 2 ≤ (Opnd.v 190).cls.size ∧ IsVector (.v 190) ∧ Unread fU (.v 190) 2 ∧
    MayName fU gU [(.s 95, 1), (.v 0, 1), (.imm 0, 1)] ∧ (Opnd.s 95).idx + 1 ≤ (Opnd.s 95).cls.size ∧ IsScalar (.s 95) := by
  repeat' apply And.intro
  all_goals first | rfl | decide | exact Or.inl rfl | exact unread_nil _ _ _ rfl

theorem witness_Comparisons : Issues sU fU gU ∧ Unwatched sU fU ∧ MayName fU gU [(.v 191, 1), (.v 0, 1), (.imm 63, 1)] ∧
    IsVector (.v 191) ∧ Unread fU (.v 191) 1 ∧ MayName fU gU [(.v 0, 1), (.imm 63, 1)] ∧
    MayName fU gU [(.v 191, 1), (.v 190, Ty.f64.regs), (.cst 0, Ty.f64.regs)] := by
  repeat' apply And.intro
  all_goals first | rfl | decide | exact Or.inl rfl | exact unread_nil _ _ _ rfl

theorem witness_FloatArithmetic : Issues sU fU gU ∧ Unwatched sU fU ∧
    MayName fU gU [(.v 190, Ty.f64.regs), (.v 0, Ty.f64.regs), (.cst 1, Ty.f64.regs), (.s 94, Ty.f64.regs)] ∧ IsVector (.v 190) ∧
    (Opnd.v 190).idx + Ty.f64.regs ≤ (Opnd.v 190).cls.size ∧ Unread fU (.v 190) Ty.f64.regs ∧ MayName fU gU [(.cst 1, 1)] := by
  repeat' apply And.intro
  all_goals first | rfl | decide | exact Or.inl rfl | exact unread_nil _ _ _ rfl

theorem witness_Conversions : Issues sU fU gU ∧ Unwatched sU fU ∧ MayName fU gU [(.v 190, Ty.f64.regs), (.v 0, Ty.u32.regs)] ∧
    IsVector (.v 190) ∧ (Opnd.v 190).idx + Ty.f64.regs ≤ (Opnd.v 190).cls.size ∧ Unread fU (.v 190) Ty.f64.regs ∧
    MayName fU gU [(.v 191, Ty.u32.regs), (.v 0, Ty.f32.regs)] ∧ Ty.u32.regs = 1 ∧ Ty.f32.regs = 1 ∧ MayName fU gU [(.imm 31, 1)] ∧
    (paired .f16x2 → MayName fU gU [(.v 1, 1)]) ∧ paired .f16x2 = true ∧ paired .f64 = false ∧
    (f64 = f16 ∨ f64 = bf16 ∨ f64 = f32 ∨ f64 = f64) ∧ 0xFFEF_FFFF_FFFF_FFFF < 2 * f64.sign ∧
    0xFFEF_FFFF_FFFF_FFFF / 2 ^ f64.p % 2 ^ f64.eb ≠ f64.emax := by
  refine ⟨⟨rfl, rfl⟩, ⟨rfl, rfl⟩, ⟨fun _ => rfl, rfl⟩, Or.inl rfl, by decide, unread_nil _ _ _ rfl, ⟨fun _ => rfl, rfl⟩, rfl, rfl,
    ⟨fun _ => rfl, rfl⟩, fun _ => ⟨fun _ => rfl, rfl⟩, rfl, rfl, by decide, by decide, by decide⟩

theorem witness_FixedPointSums : Issues sU fU gU ∧ Unwatched sU fU ∧ MayName fU gU [(.v 190, 2), (.v 0, 2), (.imm 63, 2)] ∧
    (Opnd.v 190).idx + 2 ≤ (Opnd.v 190).cls.size ∧ IsVector (.v 190) ∧ Unread fU (.v 190) 2 ∧
    MayName fU gU [(.s 94, 2), (.v 190, 2), (.v 0, 2)] ∧ (Opnd.s 94).idx + 2 ≤ (Opnd.s 94).cls.size ∧ IsScalar (.s 94) ∧
    0 < 2047 ∧ [(1 : DWord), 0].Perm [0, 1] := by
  repeat' apply And.intro
  all_goals first | rfl | decide | exact Or.inl rfl | exact unread_nil _ _ _ rfl

/-- A special-function result of lane 0 and 95 for v191. -/
def pendS : Pend :=
  { id := 7, acc := false, frag := 0, level := 0, dst := .v 191, rows := [row 5], lanes := gU.em, flags := [], pc := 0, seq := 0,
    vhits := [], late := false, watch := [], cleared := [], held := false }

def fP : Flight := { fU with pend := List.replicate 14 { pendS with id := 8 } }
def fP1 : Flight := { fU with pend := [pendS] }

theorem witness_SpecialFunctions : Issues (mach fP) fP gU ∧ Unwatched (mach fP) fP ∧ MayName fP gU [(.v 191, 1), (.cst 0, 1)] ∧
    count fP gU.level .sfu < 15 ∧ flight? (mach fP1) 0 = some fP1 ∧ pendS ∈ fP1.pend ∧ (∀ q ∈ fP1.pend, q.id = pendS.id → q = pendS) ∧
    pendS.acc = false ∧ pendS.dst = .v 191 ∧ pendS.rows = [row 5] ∧ pendS.late = false ∧ asyncLanes fP1 191 = 0 ∧
    pendReady fP1 pendS = true := by
  repeat' apply And.intro
  all_goals first | rfl | decide

theorem witness_SpecialFunctions_landing : frozen (mach fP1) 0 = false ∧ (∀ m ∈ pendS.cleared, m = 0) ∧
    NoEarly { fP1 with pend := fP1.pend.filter fun q => q.id ≠ pendS.id } ∧ (∀ h ∈ pendS.vhits, h.1 = 191) ∧
    NoDest fP1.mops (fP1.pend.filter fun q => q.id ≠ pendS.id) (.v 191) 1 := by
  have h : (fP1.pend.filter fun q => q.id ≠ pendS.id) = [] := rfl
  rw [h]
  exact ⟨rfl, fun m hm => absurd hm (List.not_mem_nil), ⟨List.forall_mem_nil _, List.forall_mem_nil _⟩, List.forall_mem_nil _, noDest_nil _ _⟩

theorem witness_StatisticsAndBlocks : Issues sU fU gU ∧ Unwatched sU fU ∧ IsVector (.v 188) ∧
    (Opnd.v 188).idx + 4 ≤ (Opnd.v 188).cls.size ∧ Unread fU (.v 188) 4 ∧ MayName fU gU [(.v 188, 4), (.v 0, 1)] ∧
    MayName fU gU [(.v 188, 4), (.v 4, 4)] ∧ MayName fU gU [(.v 188, 1), (.v 0, 1)] ∧ Ty.dxb4.isDxb = true ∧
    MayName fU gU [(.v 188, 4), (.v 0, 1), (.s 92, 4)] ∧ MayName fU gU [(.v 188, 1), (.v 4, 4), (.s 92, 4)] := by
  repeat' apply And.intro
  all_goals first | rfl | decide | exact Or.inl rfl | exact unread_nil _ _ _ rfl

def halfA : PHalf := ⟨.vfadd, ⟨10, .v 4, .f32, 0⟩⟩
def halfB : PHalf := ⟨.vadd, ⟨13, .s 5, .u32, 0⟩⟩

theorem witness_PairedHalves : Issues sU fU gU ∧ Unwatched sU fU ∧ (mkPair halfA.op halfA.x halfB).wf = true ∧
    MayName fU gU (halfGroups halfA ++ halfGroups halfB) ∧ (∀ d, halfA.dst = some d ∨ halfB.dst = some d → Unread fU d 1) ∧
    (mkPair .nop ⟨0, .v 0, .u32, 0⟩ ⟨.smov, ⟨255, .imm 63, .s32, 0⟩⟩).wf = true := by
  refine ⟨⟨rfl, rfl⟩, ⟨rfl, rfl⟩, by decide, ⟨fun _ => rfl, rfl⟩, fun d _ => unread_nil _ _ _ rfl, by decide⟩

theorem witness_UniformTransfers : Issues sU fU gU ∧ Unwatched sU fU ∧ MayName fU gU [(.imm 0, 1)] ∧ MayName fU gU [(.s 94, 2)] ∧
    (∀ l, l < 96 → gU.em.getLsbD l → (getMask fU gU 22).getLsbD l) ∧ (∃ l, l < 96 ∧ gU.em.getLsbD l ∧ (getMask fU gU 22).getLsbD l) ∧
    (∀ l, l < 96 → gU.em.getLsbD l → ¬ (getMask fU gU 23).getLsbD l) ∧
    ¬ (∀ l, l < 96 → gU.em.getLsbD l → (getMask fU gU 23).getLsbD l) := by
  repeat' apply And.intro
  all_goals first | rfl | decide

/-- A flight whose mask s0 names lane 0, so that a branch on it splits lanes 0 and 95 evenly. -/
def fM : Flight := withS fU [(0, 1)]

theorem witness_DivergentBranches : Issues (mach fM) fM gU ∧ Unwatched (mach fM) fM ∧ MayName fM gU [(.v 191, 1)] ∧
    gU.em &&& getMask fM gU 0 ≠ 0 ∧ gU.em &&& ~~~(gU.em &&& getMask fM gU 0) ≠ 0 ∧ subLanes gU.em gU.owned = true ∧
    fM.frags.length < 96 ∧ (∀ h ∈ fM.frags, h.num < 96) ∧ gU.em &&& getMask fM gU 23 = 0 ∧
    gU.em &&& ~~~(gU.em &&& getMask fM gU 22) = 0 ∧ gU.em &&& getMask fM gU 22 ≠ 0 := by
  repeat' apply And.intro
  all_goals first | rfl | decide

/-- Two fragments of lanes 0 and 1; the second waits at a JOIN of token 15. -/
def gJ : Fragment := { frag0 0 1 with owned := 1 }
def gK : Fragment := { frag0 0 2 with num := 95, owned := 2, wait := .join 15 }
def fJ (e : Lanes) : Flight := { flight0 [gJ, gK] with tokens := [(15, e)], exited := ~~~3#96 }

theorem witness_JoinsMerge : Issues (mach (fJ 3)) (fJ 3) gJ ∧ Unwatched (mach (fJ 3)) (fJ 3) ∧ gJ.halted = false ∧
    ((fJ 3).frags.map (·.num)).Nodup ∧ mgetD (fJ 3).tokens 14 0 &&& gJ.owned = 0 ∧ mgetD (fJ 2).tokens 15 0 &&& gJ.owned = 0 ∧
    mgetD (fJ 5).tokens 15 0 &&& gJ.owned ≠ 0 ∧
    mgetD (fJ 5).tokens 15 0 &&& ~~~(((fJ 5).frags.filter fun h => h.num = gJ.num ∨ (h.wait = .join 15 ∧ h.halted = false)).foldl
      (fun m h => m ||| h.owned) 0) ≠ 0 ∧
    mgetD (fJ 3).tokens 15 0 &&& gJ.owned ≠ 0 ∧
    mgetD (fJ 3).tokens 15 0 &&& ~~~(((fJ 3).frags.filter fun h => h.num = gJ.num ∨ (h.wait = .join 15 ∧ h.halted = false)).foldl
      (fun m h => m ||| h.owned) 0) = 0 := by
  repeat' apply And.intro
  all_goals first | rfl | decide

theorem plain (f : Flight) (h1 : f.tokens = []) (h2 : ∀ h ∈ f.frags, h.wait = .run) (s : State) (h3 : s.tiles = []) : PlainExits s f := by
  refine ⟨h1, h3, fun h hh n => ?_⟩
  simp [atBar, h2 h hh]

def gA : Fragment := frag0 0 allLanes
def fA : Flight := { flight0 [gA] with sq := [1] }

theorem witness_ExitsTakeLanes : Issues sU fU gU ∧ Unwatched sU fU ∧ PlainExits sU fU ∧ fU.afq = [] ∧
    (∀ h ∈ fU.frags, h.owned &&& fU.exited = 0) ∧
    (∀ x, gangOf sU fU = some x → ∀ n, mget? x.bars (fU.rank * 16 + n) = none) ∧ fU.exited ||| gU.em ≠ allLanes ∧
    Issues (mach fA) fA gA ∧ PlainExits (mach fA) fA ∧ fA.exited ||| gA.em = allLanes ∧ fA.sq.length ≠ fA.psets.length ∧
    (flight0 [gA]).exited ||| gA.em = allLanes ∧ (flight0 [gA]).sq.length = (flight0 [gA]).psets.length := by
  refine ⟨⟨rfl, rfl⟩, ⟨rfl, rfl⟩, plain _ rfl (by decide) _ rfl, rfl, by decide, ?_, by decide, ⟨rfl, rfl⟩,
    plain _ rfl (by decide) _ rfl, by decide, by decide, by decide, rfl⟩
  intro x hx n
  obtain rfl : gang0 = x := by simpa [gangOf, sU, mach, fU, flight0, mget?] using hx
  rfl

/-- An outstanding store of lane 0. -/
def storeOp : Mop :=
  { id := 3, instr := .st .w .relaxed false false false (.v 0) ⟨false, 0, 0⟩, pc := 0, seq := 0, frag := 0, level := 0,
    owned := allLanes, lanes := [⟨0, 0x7F00_0FC0_0000, 2 ^ 52, 0, false, false, [1], [], .todo⟩], vhits := [], shits := [], late := false, watch := [], once := [] }
def fO : Flight := { fU with mops := [storeOp] }

theorem witness_FlightControl : Issues sU fU gU ∧ Unwatched sU fU ∧ MayName fU gU [(.imm 63, 1)] ∧ fU.bp = true ∧
    ({ fU with bp := false } : Flight).bp = false ∧ count fU 0 .ld ≤ (0#16).toNat / 1024 ∧ count fU 0 .sld ≤ (0#16).toNat / 64 % 16 ∧
    count fU 0 .sfu ≤ (0#16).toNat / 4 % 16 ∧ count fU 0 .acc ≤ (0#16).toNat % 4 ∧ ¬ count fP1 0 .sfu ≤ (0#16).toNat / 4 % 16 ∧
    openFor fO gU.owned = true ∧ openFor fU gU.owned = false ∧
    (∀ k, anyCount fU k = false) ∧ (∃ k, anyCount fP1 k = true) := by
  repeat' apply And.intro
  all_goals first | rfl | decide | exact fun k => by cases k <;> rfl | exact ⟨.sfu, rfl⟩

/-- The answer of the checks of an instruction's addresses. -/
def ksOf (i : Instr) (s : State) (f : Flight) (g : Fragment) : List (Tgt × Chk) :=
  (checkAll s f (g.level != 0) (mspec i) (allTgts (ctxOf s f g) (mspec i))).1

theorem reach (i : Instr) (s : State) (f : Flight) (g : Fragment) (h : ((ksOf i s f g).all fun x => x.2.key?.isSome) = true) :
    ∃ f1 s1, Reaches i s f g (ksOf i s f g) f1 s1 := by
  refine ⟨_, _, rfl, fun x hx => ?_⟩
  simpa using List.all_eq_true.1 h x hx

/-- Gang 0 with barriers and pools. -/
def machG (f : Flight) (x : Gang) : State := { mach f with gangs := [(0, x)] }

theorem witness_BlockBarriers : Issues sU fU gU ∧ Unwatched sU fU ∧ MayName fU gU [(.imm 15, 1), (.imm 16, 1)] ∧
    gangOf sU fU = some gang0 ∧ fU.frags = [gU] ∧ gU.wait = .run ∧ (srcS (ctxOf sU fU gU) (.imm 15)).toNat ≤ 15 ∧
    (srcS (ctxOf sU fU gU) (.imm 16)).toNat ≤ 16 ∧ 15 < (srcS (ctxOf sU fU gU) (.imm 16)).toNat ∧
    16 < (srcS (ctxOf sU fU gU) (.imm 17)).toNat ∧ fO.frags = [gU] ∧ openFor fO gU.owned = true ∧ openFor fU gU.owned = false ∧
    ((mget? ({ gang0 with bars := [(15, ⟨1, 3⟩)] } : Gang).bars 15).getD ⟨0, 2⟩).count ≠ 2 ∧
    ((mget? gang0.bars 15).getD ⟨0, 16⟩).count = 16 ∧ fU.exited ≠ allLanes ∧ 1 ≤ ((mget? gang0.bars 15).getD ⟨0, 1⟩).arrived + 1 ∧
    ¬ 2 ≤ ((mget? gang0.bars 15).getD ⟨0, 2⟩).arrived + 1 ∧
    ((mget? gang0.bars 15).getD ⟨0, 0⟩).arrived + 1 =
      (sU.flights.filter fun y => y.2.gid = fU.gid ∧ y.2.rank = fU.rank ∧ y.2.exited ≠ allLanes).length := by
  repeat' apply And.intro
  all_goals first | rfl | decide

def fR : Flight := { fU with vregs := 8 }
def gangR : Gang := { gang0 with pools := [(0, 1)] }
def gC : Fragment := { gU with wait := .claim 16 5 }
def fC : Flight := { fU with vregs := 8, frags := [gC] }

theorem witness_RegisterRedivision : Issues sU fU gU ∧ Unwatched sU fU ∧ MayName fU gU [(.s 95, 1), (.imm 8, 1)] ∧ IsScalar (.s 95) ∧
    gangOf sU fU = some gang0 ∧ ¬(0 % 8 = 0 ∧ 8 ≤ 0 ∧ 0 ≤ 192) ∧ (srcS (ctxOf sU fU gU) (.imm 0)).toNat = 0 ∧
    (srcS (ctxOf sU fU gU) (.imm 8)).toNat = 8 ∧ (8 % 8 = 0 ∧ 8 ≤ 8 ∧ 8 ≤ 192) ∧ 8 < fU.vregs ∧ anyCount fU .ld = false ∧
    anyCount fU .sfu = false ∧ anyCount fU .acc = false ∧ readsRegs sU fU 0 = false ∧ fR.vregs ≤ 8 ∧ fR.vregs < 16 ∧
    Issues (machG fR gangR) fR gU ∧ (16 - fR.vregs) / 8 ≤ mgetD gangR.pools 0 0 ∧ ¬ (24 - fR.vregs) / 8 ≤ mgetD gangR.pools 0 0 := by
  repeat' apply And.intro
  all_goals first | rfl | decide | exact Or.inl rfl

theorem witness_RegisterRedivision_claims : flight? (machG fC gangR) 0 = some fC ∧ gangOf (machG fC gangR) fC = some gangR ∧
    fC.frags = [gC] ∧ gC.wait = .claim 16 5 ∧ gC.halted = false ∧ gC.stopped = false ∧ isSaved (machG fC gangR) fC = false ∧
    frozen (machG fC gangR) fC.pid = false ∧
    (∀ y ∈ (machG fC gangR).flights, y.1 ≠ 0 → ∀ h ∈ y.2.frags, ∀ p q, h.wait ≠ .claim p q) ∧
    (∀ y ∈ (machG fC gangR).flights, y.1 = 0 → y.2 = fC) ∧ ((machG fC gangR).flights.map (·.1)).Nodup ∧ fC.vregs < 16 ∧
    (16 - fC.vregs) / 8 ≤ mgetD gangR.pools (fC.rank * 4 + fC.slot) 0 ∧
    ∀ j y h p q, (j, y) ∈ (machG fR gangR).flights → y.gid = fR.gid → y.rank = fR.rank → y.slot = fR.slot → h ∈ y.frags →
      h.wait ≠ .claim p q := by
  refine ⟨rfl, rfl, rfl, rfl, rfl, rfl, rfl, rfl, by simp [machG, mach], by simp [machG, mach], by simp [machG, mach], by decide, by decide, ?_⟩
  intro j y h p q hy _ _ _ hh
  simp only [machG, mach, List.mem_singleton, Prod.mk.injEq] at hy
  obtain ⟨-, rfl⟩ := hy
  simp only [fR, fU, flight0, List.mem_singleton] at hh
  subst hh; simp [gU, frag0]

/-- The mapped first GiB of HBM. -/
def tables : List Host.Cell := putBytes (putBytes [] 0x1_0000 (bytesOfNat 8 0x2_0001)) 0x2_0000 (bytesOfNat 8 0x1F)
def machM (f : Flight) : State := { mach f with mem := tables }

def msLd : MSpec := mspec (.ld .w .relaxed .none false (.v 0) ⟨false, 0, 0⟩)
def msWf : MSpec := mspec (.ld .w .relaxed .wf false (.v 0) ⟨false, 0, 0⟩)
def msOrd : MSpec := mspec (.aaddOrd .relaxed false false (.v 0) ⟨false, 0, 0⟩)

theorem launch_found (f : Flight) (h1 : f.pid = 0) (h2 : f.launch = 0) (s : State) (h3 : s.launches = [(0, launch0)]) :
    launchOf s f = some launch0 := by
  simp [launchOf, lkey, h1, h2, h3, mget?]

theorem witness_AddressChecks :
    (¬ ∀ i, 55 ≤ i → i < 64 → (0x0080_0000_0000_0000#64).getLsbD i = (0x0080_0000_0000_0000#64).getLsbD 63) ∧
    (∀ i, 55 ≤ i → i < 64 → (0x007F_FFFF_FFFF_FFFF#64).getLsbD i = (0x007F_FFFF_FFFF_FFFF#64).getLsbD 63) ∧
    ¬ (0x007F_FFFF_FFFF_FFFF#64).toNat % msLd.align = 0 ∧
    (0x7F00_0000_0000 ≤ (0x7F00_FFFF_FFFC#64).toNat ∧ (0x7F00_FFFF_FFFC#64).toNat < 0x7F01_0000_0000) ∧
    windowKey sU 0 0 0x7F00_FFFF_FFFC = none ∧ msOrd.noWin = true ∧ msLd.noWin = false ∧
    windowKey sU 0 0 0x7F00_0000_0000 = some (2 ^ 52) ∧ ¬ (0x7F00_0000_0000 ≤ (0x7EFF_FFFF_FFFC#64).toNat) ∧ msWf.inWin = true ∧
    msLd.inWin = false ∧ (translate sU 0 0 none false .read 0).1 = .page 1 ∧
    (∃ e, (translate (machM fU) 0 0 none false .read 0x10_0000).1 = .ok e) ∧ ownsPa (machM fU) 0 0x10_0000 = true ∧
    ownsPa (machM fU) 0 0x4_8000_0000 = false := by
  repeat' apply And.intro
  all_goals first
    | rfl
    | decide
    | exact fun h => absurd (h 55 (by decide) (by decide)) (by decide)
    | exact fun i h1 h2 => (by decide : ∀ i, i < 64 → 55 ≤ i →
        (0x007F_FFFF_FFFF_FFFF#64).getLsbD i = (0x007F_FFFF_FFFF_FFFF#64).getLsbD 63) i h2 h1
    | exact ⟨_, rfl⟩

/-- A flight whose pair s4 is the first byte of its own scratch slice. -/
def fW : Flight := withS fU [(4, 0x0FC0_0000), (5, 0x7F00)]
def mW : MAddr := ⟨false, 2, 64⟩
/-- A load of lane 0 that has not been performed, and one that has. -/
def ldOp (st : LaneState) : Mop :=
  { storeOp with instr := .ld .d .relaxed .none false (.v 190) mW, lanes := [⟨0, 0x7F00_0FC0_0040, 2 ^ 52 + 64, 0, true, false, [1, 2], [], st⟩] }
def fL (o : Mop) : Flight := { fW with mops := [o] }
def sldOp (st : LaneState) : Mop :=
  { storeOp with instr := .sld .d .relaxed .none false (.s 94) mW, lanes := [⟨96, 0x7F00_0FC0_0040, 2 ^ 52 + 64, 0, true, false, [1, 2], [], st⟩] }

theorem witness_Loads : Issues (mach fW) fW gU ∧ Unwatched (mach fW) fW ∧ MayName fW gU [(.v 190, Width.d.regs), addrGroup mW] ∧
    gU.em ≠ 0 ∧ count fW gU.level .ld < 63 ∧ count fW gU.level .sld < 15 ∧
    (∃ f1 s1, Reaches (.ld .d .relaxed .none false (.v 190) mW) (mach fW) fW gU
      (ksOf (.ld .d .relaxed .none false (.v 190) mW) (mach fW) fW gU) f1 s1) ∧
    (∃ f1 s1, Reaches (.sld .d .relaxed .sf false (.s 94) mW) (mach fW) fW gU
      (ksOf (.sld .d .relaxed .sf false (.s 94) mW) (mach fW) fW gU) f1 s1) ∧
    flight? (mach (fL (ldOp .read))) 0 = some (fL (ldOp .read)) ∧ moving (mach (fL (ldOp .read))) (fL (ldOp .read)) = true ∧
    mop? (fL (ldOp .read)) 3 = some (ldOp .read) ∧ (∀ x ∈ (ldOp .read).lanes, x.st ≠ .failed) ∧
    (ldOp .read).lanes.find? (fun x => x.lane = 0) = (ldOp .read).lanes.head? ∧ memDst (ldOp .read).instr = some (.v 190, 2) ∧
    overlapsBase (ldOp .read).instr = false ∧ (ldOp .todo).lanes.all (mayPerform (fL (ldOp .todo)) (ldOp .todo)) = true ∧
    poisonedIn (mach (fL (ldOp .todo))) (2 ^ 52 + 64) 8 = false ∧ (Machine.core (mach fW) 0).lcache = [] ∧ NoEarly (fL (ldOp .read)) ∧
    NoDest ((fL (ldOp .read)).mops.filter fun p => p.id ≠ 3) (fL (ldOp .read)).pend (.v 190) 2 := by
  repeat' apply And.intro
  all_goals first | rfl | decide | exact reach _ _ _ _ (by decide) | exact (noDest_nil _ _).1 | exact (noDest_nil _ _).2

theorem witness_Loads_fragment : flight? (mach (fL (sldOp .todo))) 0 = some (fL (sldOp .todo)) ∧
    moving (mach (fL (sldOp .todo))) (fL (sldOp .todo)) = true ∧ mop? (fL (sldOp .todo)) 3 = some (sldOp .todo) ∧
    (∀ x ∈ (sldOp .todo).lanes, x.st ≠ .failed) ∧ memDst (sldOp .todo).instr = some (.s 94, 2) ∧ IsScalar (.s 94) ∧
    (Opnd.s 94).idx + 2 ≤ (Opnd.s 94).cls.size ∧ NoEarly (fL (sldOp .todo)) ∧
    NoDest ((fL (sldOp .todo)).mops.filter fun p => p.id ≠ 3) (fL (sldOp .todo)).pend (.s 94) 2 ∧ frag? (fL (sldOp .todo)) 0 = some gU ∧
    (sldOp .todo).level % 10 = gU.level ∧ (sldOp .todo).lanes.all (mayPerform (fL (sldOp .todo)) (sldOp .todo)) = true ∧
    overlapsBase (sldOp .todo).instr = false := by
  repeat' apply And.intro
  all_goals first | rfl | decide | exact Or.inl rfl | exact (noDest_nil _ _).1 | exact (noDest_nil _ _).2

def stI : Instr := .st .o .device true false false (.v 184) mW
def sstI : Instr := .sst .w .device false false (.s 95) mW
def imgI : Instr := .st .w .relaxed false true false (.v 0) ⟨false, 2, 0⟩
def stOp : Mop := { storeOp with lanes := [⟨0, 0x7F00_0FC0_0000, 2 ^ 52, 0, true, false, [1], [], .todo⟩] }

theorem witness_Stores : Issues (mach fW) fW gU ∧ MayName fW gU [(.v 184, Width.o.regs), addrGroup mW] ∧ gU.em ≠ 0 ∧
    (∃ f1 s1, Reaches stI (mach fW) fW gU (ksOf stI (mach fW) fW gU) f1 s1) ∧
    (∃ f1 s1, Reaches sstI (mach fW) fW gU (ksOf sstI (mach fW) fW gU) f1 s1) ∧
    mapDeclared (mach fW) fW (imgMap ⟨false, 2, 0⟩) = true ∧ (∃ f1 s1, Reaches imgI (mach fW) fW gU (ksOf imgI (mach fW) fW gU) f1 s1) ∧
    flight? (mach (fL stOp)) 0 = some (fL stOp) ∧ mop? (fL stOp) 3 = some stOp ∧ (∀ x ∈ stOp.lanes, x.st ≠ .failed) ∧
    (stOp.lanes.filter fun l => l.lane = 0) ≠ [] ∧ (∀ l ∈ stOp.lanes, mayPerform (fL stOp) stOp l = true ∧ l.data.length = Width.w.regs ∧
      (Width.w.bytes = 32 ∨ poisonedIn (mach (fL stOp)) l.pa 4 = false)) ∧ NoEarly (fL stOp) ∧
    (∀ l ∈ stOp.lanes, Unraced (mach (fL stOp)) l.pa 4) := by
  repeat' apply And.intro
  all_goals first | rfl | decide | exact reach _ _ _ _ (by decide) | exact fun l _ => unraced _ _ _ rfl rfl

def festI : Instr := .fest .block true ⟨false, 2, 0⟩
def feqI : Instr := .feq .block 22 ⟨false, 2, 0⟩
def wfI : Instr := .ld .w .gang .wfc false (.v 191) mW
def gF : Fragment := { gU with wait := .feWait 3 }
def feOp : Mop := { storeOp with instr := wfI, lanes := [⟨95, 0x7F00_0FC0_0040, 2 ^ 52 + 64, 0, true, false, [], [], .feWait⟩] }
def fF : Flight := { fW with frags := [gF], mops := [feOp] }
def sF : State := { mach fF with full := [(2 ^ 52 + 64) / 16] }

theorem witness_FullEmptyAndImages : Issues (mach fW) fW gU ∧ MayName fW gU [addrGroup ⟨false, 2, 0⟩] ∧ openFor fW gU.em = false ∧
    (∃ f1 s1, Reaches festI (mach fW) fW gU (ksOf festI (mach fW) fW gU) f1 s1) ∧
    (∃ f1 s1, Reaches feqI (mach fW) fW gU (ksOf feqI (mach fW) fW gU) f1 s1) ∧
    MayName fW gU [(.v 191, Width.w.regs), addrGroup mW] ∧ (∃ f1 s1, Reaches wfI (mach fW) fW gU (ksOf wfI (mach fW) fW gU) f1 s1) ∧
    (∀ x ∈ ksOf wfI (mach fW) fW gU, isFull (mach fW) x.2.at = false) ∧ flight? sF 0 = some fF ∧ moving sF fF = true ∧
    Unwatched sF fF ∧ mop? fF 3 = some feOp ∧ frag? fF 0 = some gF ∧ gF.wait = .feWait 3 ∧ gF.halted = false ∧ gF.stopped = false ∧
    memDst wfI = some (.v 191, 1) ∧ isFull sF (2 ^ 52 + 64) = true ∧ feOp.lanes.all (clearOf (earlier fF 3) feOp) = true ∧
    poisonedIn sF (2 ^ 52 + 64) 4 = false ∧ mapDeclared (mach fW) fW 0 = true ∧ MayName fW gU [(.v 188, 4), (.s 94, 2), (.imm 0, 1)] ∧
    (Opnd.v 188).idx + 4 ≤ (Opnd.v 188).cls.size ∧ (mach fW).burst = none ∧ NoEarly fW ∧ NoDest fW.mops fW.pend (.s 88) 3 ∧
    feOp.watch = [] ∧ (Machine.core sF fF.core).lcache = [] := by
  repeat' apply And.intro
  all_goals first | rfl | decide | exact reach _ _ _ _ (by decide) | exact (noDest_nil _ _).1 | exact (noDest_nil _ _).2

def addI : Instr := .aadd .fx64 .gang false false (.v 190) mW
def casI : Instr := .acas .u64 .gang false (.v 188) mW
def incI : Instr := .aincb .relaxed false (.v 191) mW

theorem witness_Atomics : Issues (mach fW) fW gU ∧ MayName fW gU [(.v 190, AType.fx64.regs), addrGroup mW] ∧ openFor fW gU.em = false ∧
    Unread fW (.v 190) AType.fx64.regs ∧ (∃ f1 s1, Reaches addI (mach fW) fW gU (ksOf addI (mach fW) fW gU) f1 s1) ∧
    (mach fW).burst = none ∧ NoEarly fW ∧ NoDest fW.mops fW.pend (.v 190) AType.fx64.regs ∧
    (∀ x ∈ ksOf addI (mach fW) fW gU, poisonedIn (mach fW) x.2.at 8 = false) ∧ (∀ x ∈ ksOf addI (mach fW) fW gU, Unraced (mach fW) x.2.at 8) ∧
    MayName fW gU [(.v 188, 2 * AType.u64.regs), addrGroup mW] ∧
    (∃ f1 s1, Reaches casI (mach fW) fW gU (ksOf casI (mach fW) fW gU) f1 s1) ∧
    (∃ f1 s1, Reaches incI (mach fW) fW gU (ksOf incI (mach fW) fW gU) f1 s1) := by
  repeat' apply And.intro
  all_goals first
    | rfl | decide | exact reach _ _ _ _ (by decide) | exact unread_nil _ _ _ rfl | exact (noDest_nil _ _).1 | exact (noDest_nil _ _).2
    | exact fun x _ => unraced _ _ _ rfl rfl

/-- A flight whose pair s4 names mapped memory. -/
def fV : Flight := withS fU [(4, 0x10_0000), (5, 0)]
def ordI : Instr := .aaddOrd .relaxed false false (.v 191) ⟨false, 2, 0⟩
def sealI : Instr := .aseal .device ⟨false, 2, 0⟩
def depI : Instr := .depdec .device (.v 191) ⟨false, 2, 0⟩

theorem witness_OrderedSumsAndCounters : Issues (machM fV) fV gU ∧ Unwatched (machM fV) fV ∧
    MayName fV gU [(.v 191, 1), addrGroup ⟨false, 2, 0⟩] ∧ openFor fV gU.em = false ∧ launchOf (machM fV) fV = some launch0 ∧
    gangOf (machM fV) fV = some gang0 ∧ (∃ f1 s1, Reaches ordI (machM fV) fV gU (ksOf ordI (machM fV) fV gU) f1 s1) ∧
    (∃ f1 s1, Reaches sealI (machM fV) fV gU (ksOf sealI (machM fV) fV gU) f1 s1) ∧
    (∃ f1 s1, Reaches depI (machM fV) fV gU (ksOf depI (machM fV) fV gU) f1 s1) ∧
    (∀ k ∈ ksOf ordI (machM fV) fV gU, poisonedIn (machM fV) k.2.at 128 = false) ∧
    (∀ j ∈ ksOf ordI (machM fV) fV gU, ∀ k ∈ ksOf ordI (machM fV) fV gU,
      j.2.at = k.2.at ∨ j.2.at + 4 ≤ k.2.at ∨ k.2.at + 4 ≤ j.2.at) ∧
    (placesFor (machM fV) fV ((ksOf ordI (machM fV) fV gU).map fun k => k.2.at)).isSome ∧ Unread fV (.v 191) 1 ∧
    (machM fV).burst = none ∧ NoEarly fV ∧ NoDest fV.mops fV.pend (.v 191) 1 ∧ (∀ k ∈ ksOf ordI (machM fV) fV gU, Unraced (machM fV) k.2.at 4) ∧
    (∀ y ∈ (machM fV).launches, ∀ k ∈ ksOf ordI (machM fV) fV gU, inReservation y.2 k.1.va (mspec ordI).size = false) ∧
    (∀ c ∈ launch0.contribs, c.lost = false) := by
  repeat' apply And.intro
  all_goals first
    | exact launch_found _ rfl rfl _ rfl | rfl | decide | exact reach _ _ _ _ (by decide) | exact unread_nil _ _ _ rfl
    | exact (noDest_nil _ _).1 | exact (noDest_nil _ _).2 | exact fun k _ => unraced _ _ _ rfl rfl

theorem witness_TrapEntry : flight? sU 0 = some fU ∧ frag? fU gU.num = some gU ∧ Unwatched sU fU ∧ MayTrap fU gU ∧ gU.level = 0 ∧
    fU.tvec ≠ 0 ∧ ({ fU with tvec := 0 } : Flight).tvec = 0 ∧ MayTrap fH gH ∧ (⟨0x20, 255, 3, 0, none, 0, 0, 0, none⟩ : FaultInfo).origin < 4 := by
  refine ⟨rfl, rfl, ⟨rfl, rfl⟩, Or.inl rfl, rfl, by decide, rfl, Or.inr ⟨rfl, rfl⟩, by decide⟩

def fD : Flight := { fH with t1 := { TrapSet.start with te := false } }
def fQ : Flight := { fU with afq := [⟨0x0F, 1, 0, 16, 8, 3, none⟩], timer := true }

theorem witness_TrapSources : flight? (mach fD) 0 = some fD ∧ frag? fD gH.num = some gH ∧ part? (mach fD) fD.pid = some part0 ∧
    gH.level = 1 ∧ fD.t1.te = false ∧ Issues sU fU gU ∧ MayName fU gU [(.imm 63, 1)] ∧
    ({ gU with pc := 0x10_0001 } : Fragment).pc.toNat % 8 ≠ 0 ∧ ({ gU with pc := 2 ^ 55 } : Fragment).pc.toNat % 8 = 0 ∧
    canonical ({ gU with pc := 2 ^ 55 } : Fragment).pc = false ∧ Issues (mach fQ) fQ gU ∧ gU.level = 0 ∧ gU.halted = false ∧
    gU.stopped = false ∧ gU.wait = .run ∧ isSaved (mach fQ) fQ = false ∧ frozen (mach fQ) fQ.pid = false ∧ fQ.frags = [gU] ∧
    fQ.afq = ⟨0x0F, 1, 0, 16, 8, 3, none⟩ :: [] ∧ fQ.timer = true ∧ fQ.tvec ≠ 0 := by
  repeat' apply And.intro
  all_goals first | rfl | decide

def fT (c : Word) : Flight :=
  { fH with t1 := { TrapSet.start with cause := c, kept := some (.access stI [⟨0, 0x7F00_0FC0_0040, 2 ^ 52 + 64, 0, true, false, [1], [], .todo⟩]) } }

/-- A level-1 handler's flight whose trap kept the address of a packet. -/
def fTP : Flight := { fH with t1 := { TrapSet.start with cause := 0x0010_010B, kept := some (.packet 0x7F00_0FC0_0040) } }

/-- 19 R388, R402: the retry of a failed packet read issues the ENQ again with the kept address. -/
theorem test_retry_packet :
    (match execTretRetry (mach fTP) with
      | .next t => ((flight? t (mach fTP).cur.1).bind fun f => frag? f gH.num).map fun g => (g.wait, g.pc, g.level)
      | _ => none) = some (.redo 0x7F00_0FC0_0040, TrapSet.start.pc, 0) := by decide

theorem witness_TrapReturn_packet : Issues (mach fTP) fTP gH ∧ Unwatched (mach fTP) fTP ∧ gH.level = 1 ∧
    (bank fTP 1).cause.toNat / 2 ^ 20 % 16 = 1 ∧ (bank fTP 1).kept = some (.packet 0x7F00_0FC0_0040) := by
  repeat' apply And.intro
  all_goals rfl

theorem witness_TrapReturn : Issues (mach (fT 0)) (fT 0) gH ∧ Unwatched (mach (fT 0)) (fT 0) ∧ gH.level = 1 ∧
    (bank (fT 0) 1).cause.toNat / 2 ^ 20 % 16 ≠ 1 ∧ (bank (fT 0x0010_0007) 1).cause.toNat / 2 ^ 20 % 16 = 1 ∧
    (bank (fT 0x0020_000F) 1).cause.toNat / 2 ^ 20 % 16 = 2 ∧
    (bank (fT 0x0010_0007) 1).kept = some (.access stI [⟨0, 0x7F00_0FC0_0040, 2 ^ 52 + 64, 0, true, false, [1], [], .todo⟩]) := by
  repeat' apply And.intro
  all_goals first | rfl | decide

theorem witness_Privilege : Issues sU fU gU ∧ gU.level = 0 ∧ (Opnd.ss 15).cls = .SS ∧ Issues sH fH gH ∧ Unwatched sH fH ∧
    MayName fH gH [(.s 95, 1), (.imm 3, 1)] ∧ IsScalar (.s 95) ∧ gH.level = 1 ∧ Issues (mach fR) fR gU ∧ fR.vregs ≤ 8 ∧
    part? sH fH.pid = some part0 ∧ (0x17 ≤ (0x3F#8).toNat ∧ (0x3F#8).toNat < 0x40) ∧ 0xC8 ≤ (0xC8#8).toNat ∧
    4 ≤ (srcS (ctxOf sH fH gH) (.imm 4)).toNat ∧ privReserved 0x12 (srcS (ctxOf sH fH gH) (.imm 3)) = false ∧
    privReserved 0x40 (srcS (ctxOf sH fH gH) (.imm 1)) = false := by
  repeat' apply And.intro
  all_goals first | rfl | decide | exact Or.inl rfl

theorem witness_Kills : Issues sH fH gH ∧ Unwatched sH fH ∧ PlainExits sH fH ∧ fH.afq = [] ∧ fH.haltq = [] ∧ gH.level = 1 ∧
    launchOf sH fH = some launch0 ∧ launch0.state < 2 ∧ (∀ x, gangOf sH fH = some x → ∀ n, mget? x.bars (fH.rank * 16 + n) = none) ∧
    fH.exited ||| (gH.owned &&& getMask fH gH 22) ≠ allLanes := by
  refine ⟨⟨rfl, rfl⟩, ⟨rfl, rfl⟩, plain _ rfl (by decide) _ rfl, rfl, rfl, rfl, launch_found _ rfl rfl _ rfl, by decide, ?_, by decide⟩
  intro x hx n
  obtain rfl : gang0 = x := by simpa [gangOf, sH, mach, fH, flight0, mget?] using hx
  rfl
def gSw : Fragment := { gH with wait := .sweep 4 }
def fSw : Flight := { fH with frags := [gSw] }
def swp : Sweep := ⟨4, 0, false, none, some (0, 0)⟩
def sSw : State := { mach fSw with sweeps := [swp] }

theorem witness_Invalidations : Issues sH fH gH ∧ Unwatched sH fH ∧ MayName fH gH [(.s 94, 2)] ∧ gH.level ≠ 0 ∧ swp ∈ sSw.sweeps ∧
    (∀ x ∈ sSw.sweeps, x.id = swp.id → x = swp) ∧ frozen sSw swp.pid = false ∧ sweepBusy sSw swp.pid swp.page = false ∧
    swp.waiter = some (0, 0) ∧ flight? sSw 0 = some fSw ∧ frag? fSw 0 = some gSw ∧ gSw.wait = .sweep 4 ∧ part? sH 0 = some part0 ∧
    part0.destroyed = false ∧ inTurn sH 0 = false := by
  repeat' apply And.intro
  all_goals first | rfl | decide

def machP (f : Flight) (p : Part) : State := { mach f with parts := [(0, p)] }
def partA : Part := { part0 with freeze := .asserted 0 }

theorem witness_Freezes : Issues sH fH gH ∧ Unwatched sH fH ∧ part? sH fH.pid = some part0 ∧ gH.level ≠ 0 ∧ part0.freeze = .clear ∧
    Issues (machP fH partA) fH gH ∧ part? (machP fH partA) fH.pid = some partA ∧ partA.freeze = .asserted 0 ∧
    partA.destroyed = false ∧ inTurn (machP fH partA) fH.pid = false := by
  repeat' apply And.intro
  all_goals first | rfl | decide

/-- A supervisor fragment that inspects the halted flight 1 through the block s4. -/
def gT : Fragment := { gU with halted := true }
def fT1 : Flight := { flight0 [gT] with idx := 1 }
def fI (w2 w3 : Word) : Flight := withS fH [(6, w2), (7, w3)]
def sI (f h : Flight) : State := { mach f with flights := [(0, f), (1, h)] }
def fTb : Flight := { fT1 with mops := [{ ldOp .todo with level := 0 }] }

theorem witness_Inspection : Issues (sI (fI 0x4_0000 0x7F00) fT1) (fI 0x4_0000 0x7F00) gH ∧
    Unwatched (sI (fI 0x4_0000 0x7F00) fT1) (fI 0x4_0000 0x7F00) ∧
    MayName (fI 0 0) gH [(.s 94, 2), (.s 4, 4), (.imm 5, 1), (.s 8, 1)] ∧ IsScalar (.s 94) ∧
    (Opnd.s 94).idx + 2 ≤ (Opnd.s 94).cls.size ∧ gH.level ≠ 0 ∧ (1 : Nat) ≠ (sI (fI 0 0) fT1).cur.1 ∧
    ¬ ((regWord (ctxOf (sI (fI 0x40_0000 0) fT1) (fI 0x40_0000 0) gH) (.s 4) 2 0).toNat / 2 ^ 22 = 0) ∧
    findFlight (sI (fI 0 0) fT1) 0 0 0 0 1 = some (1, fT1) ∧ findFlight (sI (fI 0 0) fT1) 0 0 0 0 15 = none ∧
    flight? (sI (fI 0 0) fT1) 1 = some fT1 ∧ frag? fT1 0 = some gT ∧ gT.halted = true ∧ frozen (sI (fI 0 0) fT1) 0 = false ∧
    gT.owned.getLsbD 95 = true ∧ targetBusy fT1 = false ∧ targetBusy fTb = true ∧ stepAsked (sI (fI 0 0) fT1) 1 0 = false ∧
    gT.wait = .run ∧ gT.em.getLsbD 95 = true ∧ gT.owned ≠ Lanes.one 95 ∧ fT1.frags.length < 96 := by
  repeat' apply And.intro
  all_goals first | rfl | decide | exact Or.inl rfl

def fHq : Flight := { fU with haltq := [⟨3, 4, 0, 0, 0, 0, 0, false⟩], issued := 4 }

/-- Halt records at 0x10_0000. -/
def partH : Part := { part0 with hrctl := 0x10_0001 }

theorem witness_Halts : findFlight sU 0 0 0 0 0 = some (0, fU) ∧ flight? sU 0 = some fU ∧ part? sU fU.pid = some part0 ∧
    frozen sU 0 = false ∧ isSaved sU fU = false ∧ fU.frags = [gU] ∧ gU.level = 0 ∧ gU.halted = false ∧
    (∀ y ∈ sU.flights, y.2.gid = fU.gid → y.1 = 0) ∧ (sU.flights.map (·.1)).Nodup ∧ gangOf sU fU = some gang0 ∧
    flight? (mach fHq) 0 = some fHq ∧ fHq.haltq = [⟨3, 4, 0, 0, 0, 0, 0, false⟩] ∧ frozen (mach fHq) fHq.pid = false ∧
    isSaved (mach fHq) fHq = false ∧ fHq.issued.toNat = (0#64).toNat + 4 ∧ part0.hrctl.getLsbD 0 = false ∧ partH.hrctl.getLsbD 0 = true ∧
    ownsPa sU 0 (recordPlace partH) = true ∧ ownsPa sU 0 (recordPlace partH + 63) = true := by
  repeat' apply And.intro
  all_goals first | rfl | decide

/-- A flight whose pair s2 names a barrier object at the start of its slice. -/
def fB : Flight := withS fU [(2, 0x0FC0_0000), (3, 0x7F00), (6, 65536), (7, 65535)]
def sB (bs : List Byte) : State := { mach fB with mem := putBytes [] (2 ^ 52) bs }
def gWt : Fragment := { gU with wait := .bowait 0x7F00_0FC0_0000 (2 ^ 52) false .gang }
def sWt (bs : List Byte) : State := { sB bs with flights := [(0, { fB with frags := [gWt] })] }

theorem noWaiters (s : State) (o : Nat) (h1 : s.engines = []) (h2 : ∀ x ∈ s.flights, x.2.asyncR = []) : NoWaiters s o := by
  refine ⟨by simp [h1], fun x hx a ha => ?_⟩
  simp [h2 x hx] at ha

theorem witness_BarrierObjects : Issues (sB (objectBytes 0 0 1 1 2)) fB gU ∧ Unwatched (sB (objectBytes 0 0 1 1 2)) fB ∧
    MayName fB gU [(.s 95, 1), (.s 7, 1), (.s 2, 2)] ∧ IsScalar (.s 95) ∧
    objKey (sB (objectBytes 0 0 1 1 2)) 0 0 (srcS2 (ctxOf (sB (objectBytes 0 0 1 1 2)) fB gU) (.s 2)) = .inr (2 ^ 52) ∧
    objBusy (ctxOf (sB (objectBytes 0 0 1 1 2)) fB gU) (2 ^ 52) = false ∧ openFor fB gU.owned = false ∧
    poisonedIn (sB (objectBytes 0 0 1 1 2)) (2 ^ 52) 16 = false ∧ NoWaiters (sB (objectBytes 0 0 1 1 2)) (2 ^ 52) ∧
    (srcS (ctxOf sU fB gU) (.imm 0)).toNat = 0 ∧ 65535 < (srcS (ctxOf sU fB gU) (.s 6)).toNat ∧
    (srcS (ctxOf sU fB gU) (.s 7)).toNat = 65535 ∧
    ¬ readNat (sB (objectBytes 0 0 1 1 2)) (2 ^ 52 + 10) 2 + 1 ≤ readNat (sB (objectBytes 0 0 1 1 2)) (2 ^ 52 + 8) 2 ∧
    readNat (sB (objectBytes 0 0 2 0 0)) (2 ^ 52 + 10) 2 + gU.em.count ≤ readNat (sB (objectBytes 0 0 2 0 0)) (2 ^ 52 + 8) 2 ∧
    readNat (sB (objectBytes 0 0 1 1 2)) (2 ^ 52 + 12) 4 / 2 % 2 = 1 ∧ ¬ readNat (sB (objectBytes 0 0 1 0 1)) (2 ^ 52 + 12) 4 / 2 % 2 = 1 ∧
    readNat (sB (objectBytes 0 0 1 0 1)) (2 ^ 52 + 12) 4 % 2 = 1 ∧ flight? (sWt []) 0 = some { fB with frags := [gWt] } ∧
    frag? { fB with frags := [gWt] } 0 = some gWt ∧ moving (sWt []) { fB with frags := [gWt] } = true ∧ gWt.halted = false ∧
    gWt.stopped = false ∧ poisonedIn (sWt []) (2 ^ 52) 16 = false ∧ Unmonitored (sB (objectBytes 0 0 1 1 2)) (2 ^ 52) 16 := by
  repeat' apply And.intro
  all_goals first | rfl | decide | exact Or.inl rfl | exact List.forall_mem_nil _

/-- A flight with a copy of one word in its block s8, a gather block in s16, and the object in s2. -/
def fK : Flight := withS fU [(2, 0x0FC0_0000), (3, 0x7F00), (8, 0x0FC0_0100), (9, 0x7F00), (10, 0x0FC0_0200), (11, 0x7F00),
  (13, 0x2000), (16, 0x0FC0_0100), (17, 0x7F00), (18, 0x0FC0_0200), (19, 0x7F00), (20, 0x0FC0_0300), (21, 0x7F00), (22, 0x1_0000)]
def sK : State := mach fK
def blk (a : Opnd) : List Word := (List.range 8).map fun k => regWord (ctxOf sK fK gU) a k 0
def cmd0 (kind : CopyKind) (par : List Word) : Cmd :=
  { id := 9, kind := kind, gid := 0, fid := 0, pid := 0, launch := 0, rank := 0, pc := 0, seq := 0, sup := false, core := 0, par := par,
    obj := 0x7F00_0FC0_0000, rm := .rne, stream := false, done := 0, stall := none, firing := none, data := [] }
def arm0 : Arm := ⟨8, cmd0 .cpy (blk (.s 8)), 2 ^ 52, 0x7F00_0FC0_0000, true, 1⟩
def sE (cs : List Cmd) (as : List Arm) : State := { sK with engines := [(0, ⟨cs, as, []⟩)], mem := putBytes [] (2 ^ 52) (objectBytes 4 0 1 1 0) }

theorem witness_CopyCommands : Issues sK fK gU ∧ Unwatched sK fK ∧
    MayName fK gU (optGroup (some (.s 95)) ++ [(.s 8, 8), (.imm 1, 2), (.s 2, 2), (.s 2, 2)]) ∧ (∀ x, some (.s 95) = some x → IsScalar x) ∧
    parOk sK fK .cpy (blk (.s 8)) = true ∧ parOk sK fK .cpyb (blk (.s 8)) = true ∧ parOk sK fK .cpyg (blk (.s 16)) = true ∧
    parOk sK fK .cpys (blk (.s 16)) = true ∧ parOk sK fK .sqfill [0x100, 0, 65535] = true ∧ parOk sK fK .sqfill [0x100, 0, 0] = false ∧
    parOk sK fK .cpy (blk (.s 88)) = true ∧ parOk sK fK .cpyg (blk (.s 8)) = false ∧
    objOk sK 0 0 (srcS2 (ctxOf sK fK gU) (.s 2)) = true ∧ objOk sK 0 0 0 = false ∧
    64 ≤ (engine (sE (List.replicate 64 (cmd0 .cpy (blk (.s 8)))) []) 0).queue.length ∧
    (engine (sE (List.replicate 63 (cmd0 .cpy (blk (.s 8)))) []) 0).queue.length < 64 ∧
    objKey sK 0 0 (srcS2 (ctxOf sK fK gU) (.s 2)) = .inr (2 ^ 52) ∧ 64 ≤ (engine (sE [] (List.replicate 64 arm0)) 0).arms.length ∧
    (engine (sE [] (List.replicate 63 arm0)) 0).arms.length < 64 := by
  repeat' apply And.intro
  all_goals first | exact fun x hx => Or.inl (by cases hx; rfl) | rfl | decide

theorem witness_CopyEngines :
    cmd? (sE [cmd0 .cpy (blk (.s 8))] []) 0 9 = some (cmd0 .cpy (blk (.s 8))) ∧ unitRuns sK 0 0 .copy = true ∧
    issuerDone sK (cmd0 .cpy (blk (.s 8))) = true ∧ startsNow (engine (sE [cmd0 .cpy (blk (.s 8))] []) 0) (cmd0 .cpy (blk (.s 8))) = true ∧
    (∃ ps s1, elements ((cmd0 .cpy (blk (.s 8))).agent 0) (cmd0 .cpy (blk (.s 8))) 1 (sE [cmd0 .cpy (blk (.s 8))] []) 0 = (.got ps, s1) ∧
      badPut s1 ps = none ∧ objKey s1 0 0 0x7F00_0FC0_0000 = .inr (2 ^ 52) ∧ s1.poison = [] ∧ s1.work = [] ∧
      readNat (writeAll s1 (ps.map fun p => (p.key, p.bytes))) (2 ^ 52 + 10) 2 ≤
        readNat (writeAll s1 (ps.map fun p => (p.key, p.bytes))) (2 ^ 52 + 8) 2) ∧
    (∃ k a va s1, elements ((cmd0 .cpy ((blk (.s 8)).set 1 0)).agent 0) (cmd0 .cpy ((blk (.s 8)).set 1 0)) 1
      (sE [cmd0 .cpy ((blk (.s 8)).set 1 0)] []) 0 = (.stop 0x0B k a va, s1)) ∧
    frEnabled { sK with parts := [(0, { part0 with frctl := 1 })] } 0 = true ∧
    (engine (sE [] [arm0]) 0).arms.find? (fun y => y.id = 8) = some arm0 ∧ arm0.queued ≠ 0 ∧
    (∀ y ∈ (engine (sE [] [arm0]) 0).cmds, y.firing ≠ some 8) ∧ flight? sK 0 = some fK ∧
    (∃ d, descOf sK fK = some d ∧ fK.sq.length < d.sqDepth) ∧
    (∃ b s1, engRead sK ((cmd0 .sqfill [0x0FC0_0100, 0x7F00, 2]).agent 0)
      (parPair [0x0FC0_0100, 0x7F00, 2] 0 + dw (4 * 1)) 4 = (.got b, s1) ∧ flight? s1 0 = some fK) := by
  refine ⟨rfl, rfl, rfl, by decide, ⟨_, _, rfl, rfl, rfl, rfl, rfl, by decide⟩, ⟨_, _, _, _, rfl⟩, rfl, rfl, by decide, by decide, rfl,
    ⟨kern0, ?_, by decide⟩, ⟨_, _, rfl, rfl⟩⟩
  simp [descOf, launch_found fK rfl rfl sK rfl, launch0]

theorem witness_CopyEngines_waiters : NoWaiters sK (2 ^ 52) ∧ NoWaiters (sE [cmd0 .cpy (blk (.s 8))] []) (2 ^ 52) := by
  refine ⟨noWaiters _ _ rfl (by decide), ⟨?_, ?_⟩⟩
  · decide
  · decide

/-- Tile 5 of core 0, generation 255, allocated to the block. -/
def tile0 : Tile := { Tile.reset with gen := 255, owner := some (0, 0) }
def fX (h : Word) : Flight := withS fU [(4, h), (6, 1016), (7, 1017), (2, 0x0FC0_0000), (3, 0x7F00), (12, 0x7F00), (11, 0x0FC0_0100)]
def sX (f : Flight) (tl : Tile) : State := { mach f with tiles := [(5, tl)] }
def h0 : Word := 0x8000_FF05

theorem witness_Tiles : Issues (sX (fX h0) tile0) (fX h0) gU ∧ Unwatched (sX (fX h0) tile0) (fX h0) ∧
    MayName (fX h0) gU [(.v 184, 8), (.s 4, 1), (.v 0, 8), (.s 6, 1)] ∧ IsScalar (.s 4) ∧ gangOf (sX (fX h0) tile0) (fX h0) = some gang0 ∧
    freeTile (sX (fX h0) tile0) (fX h0) 0 = some 0 ∧ freeTile (sX (fX h0) tile0) (fX h0) gang0.tiles = some 0 ∧
    liveTile (ctxOf (sX (fX h0) tile0) (fX h0) gU) (.s 4) = some 5 ∧
    liveTile (ctxOf (sX (fX 0x8000_FE05) tile0) (fX 0x8000_FE05) gU) (.s 4) = none ∧ tile0.insts = [] ∧ tile0.folds = [] ∧
    ({ fX h0 with sq := [1] } : Flight).sq.length ≠ (fX h0).psets.length ∧ (fX h0).sq.length = (fX h0).psets.length ∧
    tilePsets (sX (fX h0) tile0) 5 = [] ∧ count (fX h0) gU.level .acc < 3 ∧
    3 ≤ count { fX h0 with pend := List.replicate 3 { pendS with acc := true } } gU.level .acc ∧
    ¬ (1016 % 8 ≠ 0 ∨ 1016 < 1016) ∧ (src32 (ctxOf (sX (fX h0) tile0) (fX h0) gU) (.s 6) 95).toNat = 1016 ∧
    (src32 (ctxOf (sX (fX h0) tile0) (fX h0) gU) (.s 7) 95).toNat % 8 ≠ 0 := by
  repeat' apply And.intro
  all_goals first | rfl | decide | exact Or.inl rfl

/-- An ACCRD's eight rows for v184 to v191. -/
def pendA : Pend := { pendS with acc := true, dst := .v 184, rows := List.replicate 8 [5] }
def fPA : Flight := { fU with pend := [pendA] }

theorem witness_Tiles_result : flight? (mach fPA) 0 = some fPA ∧ pendA ∈ fPA.pend ∧ (∀ q ∈ fPA.pend, q.id = pendA.id → q = pendA) ∧
    pendA.acc = true ∧ pendA.dst = .v 184 ∧ 184 + 8 ≤ 192 ∧ pendA.rows.length = 8 ∧ pendA.late = false ∧ (∀ k, asyncLanes fPA k = 0) ∧
    pendReady fPA pendA = true ∧ frozen (mach fPA) 0 = false ∧ NoEarly { fPA with pend := fPA.pend.filter fun q => q.id ≠ pendA.id } ∧
    (∀ h ∈ pendA.vhits, 184 ≤ h.1 ∧ h.1 < 184 + 8) ∧ NoDest fPA.mops (fPA.pend.filter fun q => q.id ≠ pendA.id) (.v 184) 8 := by
  have h : (fPA.pend.filter fun q => q.id ≠ pendA.id) = [] := rfl
  rw [h]
  exact ⟨rfl, List.mem_singleton.2 rfl, fun q hq _ => List.mem_singleton.1 hq, rfl, rfl, by decide, rfl, rfl, fun _ => rfl, rfl, rfl,
    ⟨List.forall_mem_nil _, List.forall_mem_nil _⟩, List.forall_mem_nil _, noDest_nil _ _⟩

/-- A command that stores element 1023, with the flight's parameters in s16. -/
def fZ : Flight := withS fU [(2, 0x0FC0_0000), (3, 0x7F00), (4, h0), (16, 0x0FC0_0104), (17, 0x7F00), (18, 4), (19, 0x8000_0000),
  (20, 0x8000_0000), (21, 4), (24, 0x0FC0_0102), (25, 0x7F00), (26, 2), (29, 6)]
def blkZ : List Word := (List.range 8).map fun k => regWord (ctxOf (sX fZ tile0) fZ gU) (.s 16) k 0
def cmdZ : Cmd := { cmd0 .accst blkZ with data := [(1023, 0x3F80_0000)] }
def sZ (cs : List Cmd) (bs : List Byte) : State := { sX fZ tile0 with engines := [(0, ⟨cs, [], []⟩)], mem := putBytes [] (2 ^ 52) bs }
def fHX (h : Word) : Flight := withS fH [(4, h), (2, 0x0FC0_0100), (3, 0x7F00)]
def sHX (h : Word) (tl : Tile) : State := { sX (fHX h) tl with mem := putBytes [] (2 ^ 52 + 256) (bytesOfNat 4 h0.toNat ++ bytesOfNat 8 1 ++ bytesOfNat 4 0 ++ bytesOfNat 4 0x1040) }
def cHX : Ctx := ctxOf (sHX h0 tile0) (fHX h0) gH

/-- The tile with a closed instance at which flight 0 arrived and whose sum has not been added. -/
def tileHeld : Tile :=
  { tile0 with insts := [{ id := 7, scope := 0, own := 0, rank := 0, tag := 0, header := 0, ty := .f32, sp := false,
                           expected := [(0, allLanes)], arrived := [(0, allLanes)], part := [(0, 1)], arrs := [], closed := some 1,
                           progress := 0, frun := [], krun := [], staged := [], undef := false }] }

theorem witness_TileStoresAndSaves : Issues (sX fZ tile0) fZ gU ∧ Unwatched (sX fZ tile0) fZ ∧
    MayName fZ gU [(.s 4, 1), (.s 16, 8), (.s 2, 2)] ∧ liveTile (ctxOf (sX fZ tile0) fZ gU) (.s 4) = some 5 ∧
    (tileAt (sX fZ tile0) 5).insts = [] ∧ (tileAt (sX fZ tile0) 5).folds = [] ∧ fZ.sq.length = fZ.psets.length ∧
    ({ fZ with sq := [1] } : Flight).sq.length ≠ ({ fZ with sq := [1] } : Flight).psets.length ∧ storeOk blkZ = true ∧
    storeOk ((List.range 8).map fun k => regWord (ctxOf (sX fZ tile0) fZ gU) (.s 24) k 0) = true ∧ storeOk [2, 0, 0, 0, 0, 0, 0, 0] = false ∧
    objOk (sX fZ tile0) 0 0 (srcS2 (ctxOf (sX fZ tile0) fZ gU) (.s 2)) = true ∧ objOk (sX fZ tile0) 0 0 0 = false ∧
    cmd? (sZ [cmdZ] (objectBytes 4 0 1 1 0)) 0 9 = some cmdZ ∧ cmdZ.kind = .accst ∧ cmdZ.stall = none ∧
    unitRuns (sZ [cmdZ] (objectBytes 4 0 1 1 0)) 0 0 .copy = true ∧ issuerDone (sZ [cmdZ] (objectBytes 4 0 1 1 0)) cmdZ = true ∧
    Issues (sHX h0 tile0) (fHX h0) gH ∧ Unwatched (sHX h0 tile0) (fHX h0) ∧ MayName (fHX h0) gH [(.s 4, 1), (.s 2, 2)] ∧
    openFor (fHX h0) gH.owned = false ∧ liveTile cHX (.s 4) = some 5 ∧ liveTile (ctxOf (sHX 5 tile0) (fHX 5) gH) (.s 4) = none ∧
    heldBy (tileAt (sHX h0 tile0) 5) 0 false = false ∧ (gangOf (sHX h0 tile0) (fHX h0)).isSome ∧
    heldBy (tileAt (sHX h0 tileHeld) 5) 0 false = true := by
  repeat' apply And.intro
  all_goals first | rfl | decide

theorem got_of {α : Type} (x : Got α × State) (P : α → State → Bool)
    (h : (match x with | (.got a, s) => P a s | _ => false) = true) : ∃ a s, x = (.got a, s) ∧ P a s = true := by
  match x, h with
  | (.got a, s), h => exact ⟨a, s, rfl, h⟩

theorem witness_TileStoresAndSaves_store : NoWaiters (sZ [cmdZ] (objectBytes 4 0 1 1 0)) (2 ^ 52) ∧
    ∃ ps s1, engPuts (sZ [cmdZ] (objectBytes 4 0 1 1 0)) (cmdZ.agent 0) (storeWrites cmdZ) = (.got ps, s1) ∧
    (s1.poison == [] && s1.work == [] && (objKey s1 0 0 cmdZ.obj == .inr (2 ^ 52)) && s1.engines.all (·.2.arms.isEmpty) &&
      readNat (writeAll s1 (ps.map fun p => (p.key, p.bytes))) (2 ^ 52 + 10) 2 ≤
      readNat (writeAll s1 (ps.map fun p => (p.key, p.bytes))) (2 ^ 52 + 8) 2) = true :=
  ⟨⟨by decide, by decide⟩, got_of _ _ (by decide +kernel)⟩

theorem witness_TileStoresAndSaves_save :
    checkBlock cHX 256 .write (srcS2 cHX (.s 2)) 4160 = ([(2 ^ 52 + 256, 4160)], none, cHX) ∧ LooksUp cHX cHX ∧
      (tileRecord cHX.st h0 5 0).length = 4160 ∧ badPiece cHX.st [(2 ^ 52 + 256, 4160)] = false :=
  ⟨rfl, ⟨rfl, rfl, rfl, by repeat' apply And.intro <;> rfl⟩, by decide +kernel, rfl⟩

theorem witness_TileStoresAndSaves_restore :
    checkBlock cHX 256 .read (srcS2 cHX (.s 2)) 64 = ([(2 ^ 52 + 256, 64)], none, cHX) ∧
      fieldOf (readPieces cHX.st [(2 ^ 52 + 256, 64)]) 6 1 = 0 ∧ fieldOf (readPieces cHX.st [(2 ^ 52 + 256, 64)]) 7 2 = 0 ∧
      checkBlock cHX 256 .read (srcS2 cHX (.s 2)) 0x1040 = ([(2 ^ 52 + 256, 4160)], none, cHX) ∧ (sHX h0 tile0).poison = [] ∧
      recordOk (readPieces cHX.st [(2 ^ 52 + 256, 4160)]) 0 0 = true := by
  refine ⟨rfl, by decide +kernel, by decide +kernel, rfl, rfl, by decide +kernel⟩

/-- A flight whose block s24 heads a dense contraction on tile 5, and s28 a sparse one. -/
def fN : Flight := withS fU [(4, h0), (24, 0xF_F000), (26, 0x0FC0_0000), (27, 0x7F00), (28, 0x100), (29, 1)]
def sN : State := sX fN tile0
/-- An instance of flight 0 at a step. -/
def instN (ty : Ty) (scope p : Nat) : Inst :=
  { id := 7, scope := scope, own := 0, rank := 0, tag := 0, header := 0, ty := ty, sp := false, expected := [(0, allLanes)],
    arrived := [(0, allLanes)], part := [(0, 1)], arrs := [⟨0, 0, 1, 176, 184, 0, 0x10_0000, 0, [], [], 0⟩], closed := some 1, progress := p,
    frun := [], krun := [], staged := [], undef := false }
def tileN (i : Inst) : Tile := { tile0 with insts := [i] }
def launchN (d : Desc) : Launch := { launch0 with desc := some d }
def sNd (f : Flight) (n : Nat) : State := { sX f tile0 with launches := [(0, launchN { kern0 with sqDepth := n })] }
def psN : Machine.PSet := ⟨7, 5, .dxb8, 0, 0, 2, [(4092, 5)], [4092]⟩
def fSq (q : List Word) : Flight := { fN with sq := q, psets := [psN] }
def tileQ : Tile := { tile0 with deps := [⟨7, .dxb8, 1, [(0, 0, 2)]⟩], folds := [⟨psN, 0x7F7F_7F7F⟩] }

theorem witness_Contraction : Issues sN fN gU ∧ Unwatched sN fN ∧ MayName fN gU [(.s 4, 1), (.v 176, aRegs .f32 true), (.v 184, 8), (.s 24, 4)] ∧
    MayName fN gU [(.s 4, 1), (.v 0, aRegs .dxb4 false), (.v 184, 8), (.s 28, 4)] ∧ gangOf sN fN = some gang0 ∧
    liveTile (ctxOf sN fN gU) (.s 4) = some 5 ∧ (tileAt sN 5).insts = [] ∧ (tileAt sN 5).folds = [] ∧
    (∀ z ∈ sN.flights, z.1 = sN.cur.1 → z.2 = fN) ∧ (∀ z ∈ sN.flights, ∀ h ∈ z.2.frags, h.wait ≠ .lcon 5 sN.nextId) ∧
    (sN.flights.map (·.1)).Nodup ∧ (srcS (ctxOf sN fN gU) (.s 24)).toNat / 256 % 16 = 0 ∧
    (srcS (ctxOf sN fN gU) (.s 28)).toNat / 256 % 16 = 1 ∧ (Ty.dxb4.isDxb = true → psetLoad sN fN sN.cur.1 none ≤ 6) ∧
    (Ty.bf16.isDxb = true → psetLoad sN fN sN.cur.1 none ≤ 6) ∧ ~~~fN.exited &&& ~~~gU.owned = 0 ∧
    srcS (ctxOf sN fN gU) (opAdd (.s 24) 1) = 0 ∧
    objKey sN 0 0 (srcS2 (ctxOf sN fN gU) (opAdd (.s 24) 2)) = .inr (2 ^ 52) := by
  repeat' apply And.intro
  all_goals first | rfl | decide

/-- A fragment that owns half of the flight's lanes closes nothing. -/
def gHalf : Fragment := { gU with owned := 0xFFFF_FFFF_FFFF, em := 1 }

theorem witness_Contraction_open : Issues (sX { fN with frags := [gHalf] } tile0) { fN with frags := [gHalf] } gHalf ∧
    ¬ ~~~fN.exited &&& ~~~gHalf.owned = 0 := by
  exact ⟨⟨rfl, rfl⟩, by decide⟩

theorem witness_Contraction_steps : mget? (sX fN (tileN (instN .f32 0 0))).tiles 5 = some (tileN (instN .f32 0 0)) ∧
    (tileN (instN .f32 0 0)).owner = some (0, 0) ∧ mget? sN.gangs 0 = some gang0 ∧ (instN .f32 0 0).closed.isSome ∧
    unitRuns sN gang0.pid 0 .contraction = true ∧ Ty.f32.isDxb = false ∧ (instN .f32 0 2).progress < instSteps sN 0 gang0 (instN .f32 0 2) ∧
    instSteps sN 0 gang0 (instN .f32 0 3) ≤ (instN .f32 0 3).progress ∧ (instN .f32 0 3).scope = 0 ∧ (instN .f32 0 3).undef = false := by
  repeat' apply And.intro
  all_goals first | rfl | decide

theorem witness_Contraction_records : Issues (sNd (fSq [7]) 2) (fSq [7]) gU ∧ Unwatched (sNd (fSq [7]) 2) (fSq [7]) ∧
    MayName (fSq [7]) gU [(.s 4, 1), (.imm 63, 1), (.s 95, 1)] ∧ IsScalar (.s 95) ∧
    liveTile (ctxOf (sNd (fSq [7]) 2) (fSq [7]) gU) (.s 4) = some 5 ∧
    ((launchOf (sNd (fSq [7]) 2) (fSq [7])).bind (·.desc)).map (·.sqDepth) = some 2 ∧
    (∀ p ∈ fN.psets.head?, ¬(p.tile = 5 ∧ p.ty = .dxb8)) ∧ (fSq []).psets = [psN] ∧ psN.tile = 5 ∧ psN.ty = .dxb8 ∧ (fSq []).sq = [] ∧
    filling (sNd (fSq []) 2) 0 = false ∧
    filling { sNd (fSq []) 2 with engines := [(0, ⟨[cmd0 .sqfill [0x0FC0_0100, 0x7F00, 2]], [], []⟩)] } 0 = true ∧
    (∀ p ∈ (fSq []).psets.head?, ¬(p.tile = 5 ∧ p.ty = .dxb6)) := by
  repeat' apply And.intro
  all_goals first | rfl | decide | exact Or.inl rfl

theorem witness_Contraction_depths : (descOf (sNd fN 0) fN).map (·.sqDepth) = some 0 ∧
    (descOf (sNd (fSq [7]) 1) (fSq [7])).map (·.sqDepth) = some 1 := by
  decide

theorem witness_Contraction_folds : mget? (sX fN tileQ).tiles 5 = some tileQ ∧ tileQ.owner = some (0, 0) ∧
    mget? (sX fN tileQ).gangs 0 = some gang0 ∧ unitRuns (sX fN tileQ) gang0.pid 0 .contraction = true ∧
    tileQ.deps = [⟨7, .dxb8, 1, [(psN.rank, psN.f, psN.k)]⟩] ∧ psN.inst = 7 ∧ tileQ.folds = [⟨psN, 0x7F7F_7F7F⟩] := by
  repeat' apply And.intro
  all_goals rfl

/-- A kernel descriptor at 0x10_0080, a packet that names it, and a machine whose flight's pair s4 names the packet in its slice. -/
def descBytes : List Byte := bytesOfNat 8 0x10_0000 ++ bytesOfNat 4 0 ++ bytesOfNat 4 1 ++ [1, 1, 192, 0, 96, 1, 2, 1] ++ List.replicate 104 0
def packetBytes (kind : Byte) : List Byte :=
  [kind, 0, 0, 0] ++ bytesOfNat 4 0xFFFF_FFFF ++ bytesOfNat 8 0x10_0080 ++ bytesOfNat 4 1 ++ bytesOfNat 4 1 ++ bytesOfNat 4 96 ++ bytesOfNat 4 0 ++
    bytesOfNat 8 9 ++ List.replicate 24 0
def partJ : Part := { part0 with jnlctl := 1, jnlhead := 252 }
def fE : Flight := withS fU [(4, 0x0FC0_0000), (5, 0x7F00), (6, 0), (7, 0x0070_0000)]
def sEn (kind : Byte) (p : Part) : State :=
  { machP fE p with mem := putBytes (putBytes tables 0x10_0080 descBytes) (2 ^ 52) (packetBytes kind), package := 7, qgen := [] }
def cEn (kind : Byte) : Ctx := ctxOf (sEn kind partJ) fE gU
def ksEn : List (Nat × Nat) := [(2 ^ 52, 64)]

theorem witness_Enqueues : Issues (sEn 1 partJ) fE gU ∧ Unwatched (sEn 1 partJ) fE ∧ MayName fE gU (optGroup (some (.s 95)) ++ [(.s 4, 2), (.s 6, 2)]) ∧
    (∀ x, some (Opnd.s 95) = some x → IsScalar x) ∧ checkBlock (cEn 1) 64 .read (srcS2 (cEn 1) (.s 4)) 64 = (ksEn, none, cEn 1) ∧
    (cEn 1 = ctxOf (sEn 1 partJ) fE gU) ∧ openFor fE gU.owned = false ∧ flightOpen fE = false ∧ writesOpen fE gU.owned = false ∧ (sEn 1 partJ).poison = [] ∧
    part? (sEn 1 partJ) fE.pid = some partJ ∧ partJ.offers = [] ∧ acceptOpen (sEn 1 partJ) 0 = true ∧
    acceptOpen (sEn 1 { partJ with jnlhead := 253 }) 0 = false ∧ waitingDevice (sEn 1 partJ) 0 < 65536 ∧ launch0.prio < (sEn 1 partJ).global.length ∧
    badHandle (srcS2 (cEn 1) (.s 6)) = false ∧ badHandle 1 = true ∧ badHandle 0x8000_0000_0000_0000 = true := by
  repeat' apply And.intro
  all_goals first | rfl | decide | exact fun x hx => Or.inl (by cases hx; rfl)

theorem witness_Enqueues_reason : (checkLaunch (sEn 1 partJ) 0 (readPieces (sEn 1 partJ) ksEn) false).1 = 0 ∧
    (checkLaunch (sEn 9 partJ) 0 (readPieces (sEn 9 partJ) ksEn) false).1 = 1 ∧ LooksUp (cEn 1) (cEn 1) ∧
    launchOf (sEn 1 partJ) fE = some launch0 := by
  refine ⟨by decide +kernel, by decide +kernel, ⟨rfl, rfl, rfl, ?_⟩, launch_found fE rfl rfl _ rfl⟩
  repeat' apply And.intro
  all_goals rfl

/-- A queue of sixteen entries with one free place, at 0x10_0400. -/
def queue0 : Queue :=
  { pid := 0, ring := 0x10_0400, size := 4, prio := 1, lat := false, rdidx := 0x10_0800, err := 0x10_0900, errsize := 4, r := 0, widx := 15,
    state := .idle, slot := none, since := 0, mappedAt := 0, graph := none, line := none, head := [], fromGraph := [],
    bell := none, met := false }
def msg0 : PacketMsg :=
  { handle := 0x007F_FF00_0000_0000, bytes := packetBytes 1, outside := true, spid := 0, squeue := 0xFFFF, sgen := 0, slaunch := 0, pc := 0, seq := 0, graph := none }
def sQ (q : Queue) : State := { sEn 1 partJ with queues := [(4095, q)] }

/-- A queue with an announcement that the device has not read. -/
def sRg : State := { sQ { queue0 with bell := some 16 } with events := [.bell 4095] }

theorem witness_Enqueues_delivery : msg0.outside = true ∧ msg0.handle.toNat / 2 ^ 52 = (sQ queue0).package ∧ badHandle msg0.handle = false ∧
    (sQ queue0).poison = [] ∧ (sQ queue0).forwards = [] ∧ deliveryStatus (sQ queue0) msg0 = 0 ∧ queue? (sQ queue0) 0 4095 = some queue0 ∧
    handleQueue msg0.handle = 4095 ∧ queue0.size < 32 ∧ feKey (sQ queue0) 0 .write (queue0.entry queue0.widx) 64 = some 0x10_07C0 ∧
    msg0.bytes.length = 64 ∧ (sRg.events.take 12)[0]? = some (.bell 4095) ∧ mget? sRg.queues 4095 = some { queue0 with bell := some 16 } ∧
    queue0.state ≠ .error ∧ (16 - queue0.r).toNat ≤ 2 ^ queue0.size := by
  repeat' apply And.intro
  all_goals first | rfl | decide +kernel

/-- A machine that knows launches 0 (its own, a seed launch), 1 (running, in its tree) and 2 (ended). -/
def launchK (id : Nat) (st : Nat) (root : Option Nat) : Launch := { launch0 with id := id, state := st, root := root }
def sC (isRoot : Bool) : State :=
  { machP (withS fU [(8, 1), (9, 2), (10, 3)]) { part0 with nextId := 3 } with
    launches := [(0, { launchK 0 1 (some 7) with isRoot := isRoot }), (1, { launchK 1 1 (some 2) with isRoot := true }), (2, { launchK 2 2 none with isRoot := true })] }
def fCl : Flight := withS fU [(8, 1), (9, 2), (10, 3)]

theorem witness_CancelsAndCounts : Issues (sC true) fCl gU ∧ Unwatched (sC true) fCl ∧ MayName fCl gU [(.s 95, 1), (.s 8, 1)] ∧ IsScalar (.s 95) ∧
    openFor fCl gU.owned = false ∧ openFor fO gU.owned = true ∧ (srcS (ctxOf (sC true) fCl gU) (.s 10)).toNat = 3 ∧
    knownLaunch (sC true) 0 3 = none ∧ (srcS (ctxOf (sC true) fCl gU) (.s 8)).toNat = 1 ∧
    knownLaunch (sC true) 0 1 = some { launchK 1 1 (some 2) with isRoot := true } ∧
    knownLaunch (sC true) 0 2 = some { launchK 2 2 none with isRoot := true } ∧
    knownLaunch (sC false) 0 0 = some (launchK 0 1 (some 7)) ∧ (launchK 0 1 (some 7)).isRoot = false ∧ (launchK 0 1 none).state < 2 ∧
    2 ≤ (launchK 2 2 none).state ∧ (1 : Nat) ≠ fCl.launch ∧ (0 : Nat) = fCl.launch ∧
    (∃ k ∈ treeKeys (sC true) 0 2, ∃ x, mget? (sC true).launches k = some x ∧ x.state < 2) ∧ lkey 0 0 ∉ treeKeys (sC true) 0 2 ∧
    (∀ k ∈ treeKeys { sC true with launches := [(2, launchK 2 2 none)] } 0 2, ∀ x,
      mget? [((2 : Nat), launchK 2 2 none)] k = some x → 2 ≤ x.state) := by
  repeat' apply And.intro
  all_goals first | rfl | decide | exact Or.inl rfl

/-- A communicator of two members, its trees on planes 0 and 35, and a flight with the blocks of a collective (s16) and a put (s24). -/
def comm0 : Comm :=
  { count := 2, rank := 0, maxtrees := 0, marks := 0x7F00_0FC0_1000, members := [(0, 0), (513, 3)], derived := some ([0, 35], 5), running := [0, 35], colls := [],
    cbars := [], puts := [], agree := false, restart := [], collNo := 0, cbarNo := 0, failed := [] }
def fG : Flight := withS fU [(2, 0x0FC0_0000), (3, 0x7F00), (4, 255), (5, 256), (16, 0x0FC0_0100), (17, 0x7F00), (18, 0x0FC0_0200), (19, 0x7F00), (20, 1),
  (21, 0xFF40_0000), (24, 0x0FC0_0100), (25, 0x7F00), (26, 0x0000_0200), (27, 0x7F00), (28, 16), (29, 0x7_F801), (31, 0x7F00)]
def sG (c : Comm) : State := { mach fG with comms := [(255, c)], mem := putBytes [] (2 ^ 52) (objectBytes 0 0 1 0 0) }
def blkG (a : Opnd) : List Word := (List.range 8).map fun k => regWord (ctxOf (sG comm0) fG gU) a k 0
def coll0 (k : CollKind) : CollOp :=
  { id := 8, num := 0, kind := k, par := blkG (.s 16), obj := 0x7F00_0FC0_0000, fid := 0, gid := 0, launch := 0, core := 0, sup := false, pc := 0, seq := 0,
    stalls := [], begun := true, chunks := 0 }
def commC (k : CollKind) (n : Nat) : Comm := { comm0 with colls := List.replicate n (coll0 k) }

theorem witness_CollectiveInstructions : Issues (sG comm0) fG gU ∧ Unwatched (sG comm0) fG ∧
    MayName fG gU (optGroup (some (.s 95)) ++ [(.s 4, 1), (.s 16, 8), (.s 2, 2)]) ∧ (∀ x, some (Opnd.s 95) = some x → IsScalar x) ∧
    objOk (sG comm0) 0 0 (srcS2 (ctxOf (sG comm0) fG gU) (.s 2)) = true ∧ objOk (sG comm0) 0 0 0 = false ∧
    ((blkG (.s 16)).getD 5 0).toNat / 2 ^ 24 = 255 ∧ comm? (sG comm0) 0 255 = some comm0 ∧ comm? (sG comm0) 0 254 = none ∧
    collOk .allreduce comm0 (blkG (.s 16)) = true ∧ collOk .redscat comm0 (blkG (.s 16)) = true ∧ collOk .allgather comm0 (blkG (.s 16)) = true ∧
    collOk .bcast comm0 (blkG (.s 16)) = true ∧ collOk .reduce comm0 (blkG (.s 16)) = true ∧ collOk .allreduce comm0 (blkG (.s 24)) = false ∧
    4 ≤ (commC .allreduce 4).colls.length ∧ (commC .allreduce 3).colls.length < 4 ∧ openFor fG gU.owned = false ∧ openFor fO gU.owned = true ∧
    flightOpen fG = false ∧ (srcS (ctxOf (sG comm0) fG gU) (.s 4)).toNat = 255 ∧ 256 ≤ (srcS (ctxOf (sG comm0) fG gU) (.s 5)).toNat ∧
    ((blkG (.s 24)).getD 5 0).toNat / 2 ^ 11 % 2 ^ 8 = 255 ∧ putOk comm0 (blkG (.s 24)) = true ∧ putOk comm0 (blkG (.s 16)) = false ∧
    (derivedOnce (sG comm0) comm0).derived = some ([0, 35], 5) ∧ (commC .allreduce 3).goneWith false 0 = none ∧
    comm0.goneWith true comm0.cbarNo = none ∧ (∀ x ∈ (sG comm0).comms, ∀ y ∈ x.2.puts, y.sent = false → y.fid ≠ 0 ∨ y.frag ≠ gU.num) := by
  repeat' apply And.intro
  all_goals first | rfl | decide | exact fun x hx => Or.inl (by cases hx; rfl)

theorem witness_CollectiveInstructions_put (s' : State) (h : s' = { sG comm0 with flights := s'.flights, comms := s'.comms, nextId := s'.nextId, work := s'.work }) :
    ∃ s2, engReads s' ⟨none, 0, 0, false⟩ (units (parPair (blkG (.s 24)) 0) ((blkG (.s 24)).getD 4 0).toNat) =
      (.got [List.replicate 16 0], s2) ∧ s2 = { s' with bridTlb := s2.bridTlb } := by
  rw [h]; exact ⟨_, rfl, rfl⟩

/-- Marks of a chunk, and the states in which its stages run. -/
def sCh (k : CollKind) (m : Byte) : State :=
  { sG (commC k 1) with mem := putBytes (putBytes [] (2 ^ 52) (objectBytes 0 0 1 0 0)) (2 ^ 52 + 0x1000) [m] }
def cbar0 : CbarOp := ⟨8, 0, 0x7F00_0FC0_0000, 0, 0, 0, 0, 0, 0, false⟩
def put0 : PutOp := ⟨8, 0, [], 0x7F00_0FC0_0000, 0, 0, 0, 0, false, 0, 0, true, none, false⟩

theorem witness_FabricEvents_chunks : comm? (sCh .allreduce 0) 0 255 = some (commC .allreduce 1) ∧ (commC .allreduce 1).colls = [coll0 .allreduce] ∧
    (coll0 .allreduce).begun = true ∧ unitRuns (sCh .allreduce 0) 0 0 .bridle = true ∧ (commC .allreduce 1).agree = false ∧
    0 < chunkCount .allreduce 2 (coll0 .allreduce).par ∧ ¬ 1 < chunkCount .allreduce 2 (coll0 .allreduce).par ∧ (commC .allreduce 1).planes ≠ [] ∧
    (cty? (parBits (coll0 .allreduce).par 5 23 20)).isSome ∧ mark (sCh .allreduce 0) (markAgent (coll0 .allreduce) 0) comm0.marks 0 false ≠ 3 ∧
    markStop (sCh .allreduce 0) (markAgent (coll0 .allreduce) 0) comm0.marks 0 = none ∧
    comm0.rank ∈ stageNeeds (coll0 .allreduce) (commC .allreduce 1) 0 false ∧ sendsTo (coll0 .allreduce) (commC .allreduce 1) 0 false = [] ∧
    sendsTo (coll0 .allreduce) (commC .allreduce 1) 0 true = [1] ∧ sendsTo (coll0 .allreduce) { commC .allreduce 1 with rank := 1 } 0 false = [0] ∧
    mark (sCh .allreduce 3) (markAgent (coll0 .allreduce) 0) comm0.marks 0 false = 3 ∧
    mark (sCh .allreduce 3) (markAgent (coll0 .allreduce) 0) comm0.marks 0 true ≠ 3 ∧
    peersOk (coll0 .allreduce) (commC .allreduce 1) 0 false [(1, [0x3F80_0000])] = true ∧
    peersOk (coll0 .allreduce) (commC .allreduce 1) 0 true [(1, [0x3F80_0000])] = true ∧ chunkTo (coll0 .allreduce) 0 0 = true ∧
    chunkTo (coll0 .reduce) 1 0 = false ∧ comm0.rank ∉ stageNeeds (coll0 .bcast) { commC .bcast 1 with rank := 1 } 0 false := by
  repeat' apply And.intro
  all_goals first | rfl | decide

theorem witness_FabricEvents_bytes :
    (∃ bs s1, engReads (sCh .allreduce 3) ((coll0 .allreduce).agent 0) (units (chunkSrc (coll0 .allreduce) 0) 4) = (.got bs, s1) ∧
      (bs == [[0, 0, 0, 0]]) = true) ∧
    ∃ ps s2, chunkPuts (sCh .allreduce 3) 0 (coll0 .allreduce) (commC .allreduce 1) 0 [0, 0, 0x80, 0x3F] = (.got ps, s2) ∧
      (s2.poison == []) = true := ⟨got_of _ _ (by decide +kernel), got_of _ _ (by decide +kernel)⟩

/-- The communicator with a collective and a barrier instance joined here. -/
def commB : Comm := { commC .allreduce 1 with cbars := [cbar0], collNo := 1, cbarNo := 1 }

theorem witness_FabricEvents_objects : comm? (sG { comm0 with cbars := [cbar0] }) 0 255 = some { comm0 with cbars := [cbar0] } ∧
    cbar0.agree = false ∧ ({ cbar0 with agree := true } : CbarOp).agree = true ∧ frozen (sG comm0) 0 = false ∧ savedGang (sG comm0) 0 = false ∧ objKey (sG { comm0 with cbars := [cbar0] }) 0 cbar0.core cbar0.obj = .inr (2 ^ 52) ∧
    poisonedIn (sG { comm0 with cbars := [cbar0] }) (2 ^ 52) 16 = false ∧ (sG comm0).engines = [] ∧
    (∀ x ∈ (sG comm0).flights, ∀ a ∈ x.2.asyncR, a.obj ≠ 2 ^ 52) ∧
    readNat (sG { comm0 with cbars := [cbar0] }) (2 ^ 52 + 10) 2 + 1 ≤ readNat (sG { comm0 with cbars := [cbar0] }) (2 ^ 52 + 8) 2 ∧
    comm? (sG { comm0 with puts := [put0] }) 0 255 = some { comm0 with puts := [put0] } ∧ (∀ x ∈ [put0], x.id = put0.id → x = put0) ∧
    put0.sent = true ∧ flight? (sG { comm0 with puts := [put0] }) put0.fid = some fG ∧ fG.exited ≠ allLanes ∧ fG.afq.length < 16 ∧
    ({ fG with afq := List.replicate 15 ⟨0x1A, 3, 0, 0, 0, 0, none⟩ } : Flight).afq.length < 16 := by
  repeat' apply And.intro
  all_goals first | rfl | decide

def rput0 : RemotePut := ⟨0, 0x7F00_0000_0200, 0x7F00_0000_0000, List.replicate 16 255, false⟩
def sR : State := { sG comm0 with mem := putBytes [] (2 ^ 52) (objectBytes 16 0 1 0 0) }

theorem witness_FabricEvents_members : comm? (sG commB) 0 255 = some commB ∧ (1 : Nat) < commB.count ∧ 1 ≠ commB.rank ∧
    frozen (sG commB) 0 = false ∧ commB.colls ≠ [] ∧ 0 < commB.collNo ∧ 0 < commB.cbarNo ∧ commB.collNo ≤ 1 ∧
    (∀ x ∈ commB.colls, ∀ y ∈ commB.colls, x.id = y.id → x.num = y.num) ∧
    ∀ x ∈ commB.cbars, ∀ y ∈ commB.cbars, x.id = y.id → x.num = y.num := by
  repeat' apply And.intro
  all_goals first | rfl | decide

theorem witness_FabricEvents_arrival : part? sR 0 ≠ none ∧ frozen sR 0 = false ∧ namesCore rput0.robj = true ∧ rput0.robj.toNat % 16 = 0 ∧
    windowKey sR 0 0 rput0.robj = some (2 ^ 52) ∧
    (landPut sR ⟨none, 0, 0, false⟩ rput0.nofe ((units rput0.rdst 16).map fun u => (u.1, (rput0.data.drop (u.1 - rput0.rdst).toNat).take u.2))).2 =
      true ∧ (let s1 := (landPut sR ⟨none, 0, 0, false⟩ rput0.nofe ((units rput0.rdst 16).map fun u =>
        (u.1, (rput0.data.drop (u.1 - rput0.rdst).toNat).take u.2))).1
      poisonedIn s1 (2 ^ 52) 16 = false ∧ NoWaiters s1 (2 ^ 52) ∧ readNat s1 (2 ^ 52 + 10) 2 + 1 ≤ readNat s1 (2 ^ 52 + 8) 2) := by
  refine ⟨by decide, rfl, by decide, by decide, rfl, by decide +kernel, by decide +kernel, ⟨by decide +kernel, by decide +kernel⟩, by decide +kernel⟩

def l0 : LinkId := .pkg 0 35
def sL : State := { sG comm0 with package := 0 }

theorem witness_FabricEvents_links : ownLink sL l0 = true ∧ (linkState sL l0).1 ≠ false ∧ 0 < (0x7FFF#16 - (linkState sL l0).2).toInt ∧
    (0x8000#16 - (linkState sL l0).2).toInt ≤ 0 ∧ (0#16 - (linkState sL l0).2).toInt ≤ 0 ∧ (1 : Nat) < comm0.count ∧ 1 ≠ comm0.rank ∧
    comm? (sG { commC .allreduce 1 with agree := true }) 0 255 = some { commC .allreduce 1 with agree := true } ∧
    unitRuns (sG { commC .allreduce 1 with agree := true }) 0 0 .bridle = true ∧
    derivePlanes (sG { commC .allreduce 1 with agree := true }) (comm0.members.map (·.1)) 36 ≠ [] := by
  repeat' apply And.intro
  all_goals first | rfl | decide

/-- The member has sent its versions and waits for the agreement. -/
def commAg : Comm := { commC .allreduce 1 with agree := true }
def sAg : State := send (sG commAg) (exchangeMsg (sG commAg) 0 255 commAg)

theorem witness_FabricEvents_agreement : linkVersion (sG commAg) ≠ 3 ∧
    ∀ i ∈ List.range (chunkCount .allreduce 2 (coll0 .allreduce).par), markStop sAg (markAgent (coll0 .allreduce) 0) comm0.marks i = none := by
  decide +kernel

/-- Flight 0 with two fragments, the first having issued 64 times, as the current one of slot 0. -/
def gP (n : Nat) (lv : Nat) : Fragment := { frag0 lv 1 with num := n, owned := if n = 0 then 1 else ~~~1#96, em := 1, run := 64 }
def fP2 : Flight := flight0 [gP 0 0, gP 95 0]
def core0 : Core := { Core.reset with slots := [(0, ⟨0, 0, 0, 0, 0, 0, 2⟩)] }
def sP2 : State := { mach fP2 with cores := [(0, core0)], cycle := 1024 }
def partT : Part := { part0 with tmrctl := 0x1_0001 }
/-- Gangs asked to stop at cycle 120,000. -/
def gangS (why : Nat) (ack : List StopUnit) : Gang := { gang0 with state := .stopping, why := why, acks := ack, deadline := some 120000 }
def sS (f : Flight) (g : Gang) : State := { machG f g with cycle := 120000 }
/-- A fragment in a handler that has not opened traps, and one that waits at a barrier object. -/
def fMask : Flight := { fH with t1 := { TrapSet.start with te := false } }
/-- A fragment at level 2 that has opened traps. -/
def gL2 : Fragment := frag0 2 1
def fL2 : Flight := { flight0 [gL2] with t2 := { TrapSet.start with te := true } }
def gWait : Fragment := { gU with wait := .stall .sq }
def launchP (prio : Nat) : Launch := { launch0 with prio := prio }
def sW : State := { machG fU gang0 with cycle := 480000, dies := [(0, ⟨[(0, 1, 0)], 0, 0⟩)], launches := [(0, launchP 2), (1, { launchP 1 with id := 1 })] }

theorem witness_Preemption_slots : flight? sP2 0 = some fP2 ∧ frag? fP2 0 = some (gP 0 0) ∧ frag? fP2 95 = some (gP 95 0) ∧
    (gP 0 0).wait = .run ∧ (gP 0 0).halted = false ∧ (gP 0 0).stopped = false ∧ (gP 0 0).ready + 1024 ≤ sP2.cycle ∧
    mget? (Machine.core sP2 0).slots 0 = some ⟨0, 0, 0, 0, 0, 0, 2⟩ ∧ 64 ≤ (gP 0 0).run ∧ isSaved sP2 fP2 = false ∧ frozen sP2 0 = false ∧
    gP 95 0 ∈ fP2.frags ∧ (gP 95 0).num ≠ 0 ∧ mayTry sP2 0 fP2 (gP 95 0) = true := by
  repeat' apply And.intro
  all_goals first | rfl | decide

theorem witness_Preemption_requests : mget? sU.gangs 0 = some gang0 ∧ gang0.state = .running ∧
    mget? sU.launches (lkey gang0.pid gang0.launch) = some launch0 ∧ part? sU gang0.pid = some part0 ∧ frozen sU gang0.pid = false ∧
    launch0.cancel = false ∧ launch0.state < 2 ∧ gangHalted sU 0 = false ∧ gangHalted (mach (flight0 [gT])) 0 = true ∧
    mget? sW.dies 0 = some ⟨[(0, 1, 0)], 0, 0⟩ ∧ 0 + 480000 ≤ sW.cycle ∧
    preemptVictim sW 0 (prioOf sW 0 1) = some (launchP 2) ∧ (launchP 2).pid = gang0.pid ∧ (launchP 2).id = gang0.launch := by
  repeat' apply And.intro
  all_goals decide +kernel

theorem witness_Preemption_deadlines : mget? (sS fU (gangS 1 [])).gangs 0 = some (gangS 1 []) ∧ (gangS 1 []).state = .stopping ∧
    (gangS 1 []).held = false ∧ gangHalted (sS fU (gangS 1 [])) 0 = false ∧ frozen (sS fU (gangS 1 [])) 0 = false ∧
    (∃ c, (gangS 1 []).deadline = some c ∧ c ≤ (sS fU (gangS 1 [])).cycle) ∧ fU.gid = 0 ∧ fU.frags = [gU] ∧
    ((sS fU (gangS 1 [])).flights.map (·.1)).Nodup ∧ part? (sS fU (gangS 1 [])) 0 = some part0 ∧ gU.stopped = false ∧ gU.wait ≠ .gone ∧
    MayStop fU gU ∧ savedAtWait gU = false ∧ savedAtWait gWait = true ∧ ¬ MayStop fMask gH ∧ gH.level ≤ 2 ∧ (gangS 1 []).why = 1 ∧
    (∀ x ∈ (sS fU (gangS 1 [])).flights, x.2.gid = 0 → x.2.haltq = []) ∧ (∀ op, gU.wait ≠ .perform op) ∧ MayStop fL2 gL2 ∧
    mget? (gangS 1 []).pmaxAt 0 = none ∧ gangOf (sS fH { gangS 1 [] with pmaxAt := [(0, 119000)] }) fH =
      some { gangS 1 [] with pmaxAt := [(0, 119000)] } ∧ part0.freeze = .clear := by
  repeat' apply And.intro
  all_goals first
    | rfl
    | decide
    | exact Or.inl rfl
    | exact fun h => absurd h (by decide)
    | exact Or.inr (Or.inr ⟨rfl, rfl⟩)
    | exact fun op h => by cases h
    | simp [MayStop, fMask, fH, gH, frag0, flight0, TrapSet.start]

/-- A flight whose one fragment has stopped, its gang's acknowledgements, and the gang saved. -/
def fSt : Flight := flight0 [{ gU with stopped := true }]
def gangV : Gang := { gang0 with state := .saved, why := 1, savedT := [(5, tile0)] }

theorem witness_Preemption_saves : StopUnit.vector ∉ (gangS 1 []).acks ∧ unitStopped (sS fSt (gangS 1 [])) 0 (gangS 1 []) .vector = true ∧
    collected { sS fSt (gangS 1 []) with gangs := mset (sS fSt (gangS 1 [])).gangs 0 (gangS 1 [.vector]) } 0 (gangS 1 [.vector]) = true ∧
    unitStopped (sS fSt (gangS 1 [])) 0 (gangS 1 []) .copy = true ∧
    collected { sS fSt (gangS 1 []) with gangs := mset (sS fSt (gangS 1 [])).gangs 0 (gangS 1 [.copy]) } 0 (gangS 1 [.copy]) = false ∧
    mget? (machG fSt gangV).gangs 0 = some gangV ∧ gangV.why ≠ 2 ∧ gangV.why ≠ 4 ∧
    (∀ x ∈ (machG fSt gangV).comms, ∀ o ∈ x.2.colls, o.gid = 0 → o.begun = false) ∧ fSt.exited ≠ allLanes ∧ launchGangs (machG fSt gangV) 0 0 = [(0, gangV)] ∧
    restorable (machG fSt gangV) 0 gangV = true ∧ flight? (machG fSt gangV) 0 = some fSt ∧ frozen (machG fSt gangV) 0 = false ∧
    part? (machP fU partT) 0 = some partT ∧ partT.tmrctl.getLsbD 0 = true ∧ partT.tmrctl.toNat / 2 ^ 16 % 2 ^ 24 ≠ 0 := by
  repeat' apply And.intro
  all_goals first | rfl | decide

/-! The dispatchers. -/
def offer0 : Offer := ⟨packetBytes 1, none, 0, none, none⟩
def partO : Part := { partJ with offers := [offer0] }
def launchD (d : Desc) : Launch := { launch0 with desc := some d, placed := 0, handed := 0, state := 0 }
def sD (d : Desc) (g : List (Nat × Gang)) : State :=
  { State.reset with
    parts := [(0, part0)], launches := [(0, launchD d)], gangs := g, nextId := 1
    global := [[], [0], [], [], []]
    dies := [(0, ⟨[(0, 0, 0)], 3, 0⟩)] }
def kernRes : Desc := { kern0 with resident := true }

theorem witness_Dispatching_accepts : part? { sEn 1 partJ with parts := [(0, partO)] } 0 = some partO ∧ partO.offers = [offer0] ∧
    acceptOpen { sEn 1 partJ with parts := [(0, partO)] } 0 = true ∧ frozen (sEn 1 partO) 0 = false ∧ offer0.graph = none ∧
    offer0.root = none ∧ (sEn 1 partJ).global.length = 5 ∧
    (checkLaunch { sEn 1 partO with parts := mset (sEn 1 partO).parts 0 { partO with offers := [] } } 0 offer0.bytes false).1 = 0 := by
  repeat' apply And.intro
  all_goals rfl

theorem witness_Dispatching_hands : mget? (sD kern0 []).launches (lkey 0 0) = some (launchD kern0) ∧
    globalHead (sD kern0 []) = some (lkey 0 0) ∧ (launchD kern0).cancel = false ∧ kern0.resident = false ∧
    roomiest (sD kern0 []) ((List.range 4).filter fun k => 1 ≤ slotRoom (sD kern0 []) 0 kern0 k) = some 0 ∧
    2 ≤ slotRoom (sD kern0 []) 0 kern0 0 ∧ (launchD kern0).handed + 2 = (launchD kern0).gangs ∧ kernRes.resident = true ∧
    (placeAll kernRes 0 2 0 { sD kernRes [] with dies := [] }).isSome := by
  repeat' apply And.intro
  all_goals first | rfl | decide +kernel

theorem witness_Dispatching_places : mget? (sD kern0 []).dies 0 = some ⟨[(0, 0, 0)], 3, 0⟩ ∧
    spot (sD kern0 []) 0 (0, 0, 0) = some (launchD kern0, kern0, 0, 0) ∧ (launchD kern0).pid = 0 ∧ (launchD kern0).id = 0 ∧
    part? (sD kern0 []) 0 = some part0 := by
  repeat' apply And.intro
  all_goals rfl

/-- A gang all of whose lanes have exited. -/
def sRet : State := machG { flight0 [] with exited := allLanes } { gang0 with state := .retiring }

theorem witness_Dispatching_retires : mget? sRet.gangs 0 = some { gang0 with state := .retiring } ∧ frozen sRet 0 = false ∧
    gangQuiet sRet 0 = true ∧ mget? sRet.launches (lkey 0 0) = some launch0 ∧ launch0.state < 2 ∧ launch0.pid = gang0.pid ∧
    launch0.id = gang0.launch ∧ launch0.isRoot = false ∧ launch0.retired + 1 ≠ launch0.gangs ∧
    ({ launch0 with cancel := true } : Launch).cancel = true ∧
    (∀ x ∈ launchGangs (machG fSt gangV) 0 0, x.2.state = .saved ∨ collected (machG fSt gangV) x.1 x.2 = true) := by
  repeat' apply And.intro
  all_goals first | rfl | decide

/-! Queues. -/
def queueR : Queue := { queue0 with state := .ready, prio := 0 }
def queueV (at' : Nat) : Queue := { queue0 with state := .mapped, slot := some 55, mappedAt := at', prio := 3 }
def queueE : Queue := { queueV 0 with prio := 0 }
def part55 : Part := { part0 with desc := { desc0 with pid := 31, slots := 55, cores := 0, groups := 0, engines := 0, engineOf := [] } }
def sQm (now : Nat) (ps : List (Nat × Part)) (qs : List (Nat × Queue)) : State := { sEn 1 partJ with parts := ps, queues := qs, cycle := now }
def sDisp : State := sQm 9 [(0, part0), (31, part55)] [(7, queueV 0), (4095, queueR)]
def sQuan : State := sQm 240000 [(0, part0)] [(7, queueE), (4095, queueR)]

theorem witness_QueueMapping : queue? (sQ queue0) 0 4095 = some queue0 ∧ (16 - queue0.r).toNat ≤ 2 ^ queue0.size ∧
    ¬ (17 - queue0.r).toNat ≤ 2 ^ queue0.size ∧ queue0.state ≠ .error ∧ queueR.state = .ready ∧ slotFits queueR.lat 55 = true ∧
    slotFits queueR.lat 56 = false ∧ mappedTo (sQ queueR) 55 = none ∧
    firstReady (sQ queueR) queueR.lat (fun _ => true) = some (4095, queueR) ∧ mayTake sDisp queueR = false ∧
    victim sDisp queueR = some (7, queueV 0) ∧ (queueV 0).slot = some 55 ∧ mget? sDisp.queues 7 = some (queueV 0) ∧
    mappedTo sQuan 55 = some (7, queueE) ∧ mget? sQuan.queues 7 = some queueE ∧
    firstReady { (unmap sQuan 7) with queues := mdel (unmap sQuan 7).queues 7 } queueE.lat (fun x => x.prio = queueE.prio) = some (4095, queueR) ∧
    mayTake (unmap sQuan 7) queueR = true := by
  repeat' apply And.intro
  all_goals first | rfl | decide

theorem witness_QueueMapping_none : victim (sQ queueR) queueR = none ∧ (∀ x ∈ sDisp.queues, x.2.mappedAt < 2 ^ 64) ∧
    (∀ x ∈ sDisp.queues, x.2.prio ≤ 3) ∧ victim sDisp queueR = some (7, queueV 0) := by
  repeat' apply And.intro
  all_goals first | rfl | decide

theorem witness_QueueMapping_displaces : firstReady (unmap sDisp 7) queueR.lat (fun _ => true) = some (4095, queueR) := by decide +kernel

theorem witness_QueueMapping_quantum : queueE.mappedAt + 240000 ≤ sQuan.cycle := by decide +kernel

/-- A packet of a kind at the head of a mapped queue. -/
def packetOf (kind sub : Byte) (w8 w10 : Nat) : List Byte :=
  [kind, sub, 0, 0] ++ bytesOfNat 4 0 ++ bytesOfNat 8 w8 ++ bytesOfNat 8 w10 ++ List.replicate 40 0
def queueM : Queue := { queue0 with state := .mapped, slot := some 0, r := 15, widx := 16 }
def sPk (b : List Byte) (q : Queue) : State :=
  { sEn 1 partJ with queues := [(4095, q)], mem := putBytes (putBytes tables 0x10_07C0 b) 0x10_1000 (bytesOfNat 8 5) }
def graphP : List Byte := packetOf 3 1 0x10_0800 0x1_0000_0001

theorem witness_QueuePackets_heads : headOf (sPk (packetBytes 1) queueM) 0 4095 = some (queueM, packetBytes 1) ∧
    queue? (sPk (packetBytes 1) queueM) 0 4095 = some queueM ∧ queueM.pid = 0 ∧ (sPk graphP queueM).poison = [] ∧
    headOf (sPk (packetOf 8 0 0 0) queueM) 0 4095 = some (queueM, packetOf 8 0 0 0) ∧
    headOf (sPk graphP queueM) 0 4095 = some (queueM, graphP) ∧ graphForm graphP = true ∧ graphReady (sPk graphP queueM) queueM graphP = true ∧
    (readRoots (sPk graphP queueM) 0 0x10_0800 1).isSome ∧
    headOf (sPk (packetOf 4 1 0x10_1000 3) queueM) 0 4095 = some (queueM, packetOf 4 1 0x10_1000 3) ∧
    feKey (sPk (packetOf 4 1 0x10_1000 3) queueM) 0 .atomic 0x10_1000 8 = some 0x10_1000 ∧
    headOf (sPk (packetOf 5 2 0x10_1000 5) queueM) 0 4095 = some (queueM, packetOf 5 2 0x10_1000 5) ∧
    feKey (sPk (packetOf 5 2 0x10_1000 5) queueM) 0 .read 0x10_1000 8 = some 0x10_1000 ∧
    readNat (sPk (packetOf 5 2 0x10_1000 5) queueM) 0x10_1000 8 = 5 ∧
    headOf (sPk (packetOf 6 0 0 0) queueM) 0 4095 = some (queueM, packetOf 6 0 0 0) ∧ queueQuiet (sPk (packetOf 6 0 0 0) queueM) 4095 queueM = true ∧
    headOf (sPk (packetOf 7 0 0 8) queueM) 0 4095 = some (queueM, packetOf 7 0 0 8) ∧
    (knownLaunch (sPk (packetOf 7 0 0 8) queueM) 0 0).isSome := by
  repeat' apply And.intro
  all_goals rfl

theorem witness_QueuePackets_forms : (∀ x ∈ [packetOf 4 1 0x10_1000 3, packetOf 5 2 0x10_1000 5],
      zerosAt x 2 2 = true ∧ fieldOf x 8 8 % 8 = 0 ∧ zerosAt x 0x18 40 = true) ∧ fieldOf (packetOf 4 1 0x10_1000 3) 1 1 < 2 ∧
    fieldOf (packetOf 5 2 0x10_1000 5) 1 1 < 3 ∧ zerosAt (packetOf 6 0 0 0) 1 3 = true ∧ zerosAt (packetOf 6 0 0 0) 8 56 = true ∧
    zerosAt (packetOf 7 0 0 8) 0xC 4 = true ∧ fieldOf (packetOf 7 0 0 8) 0x10 8 % 8 = 0 ∧ fieldOf (packetOf 7 0 0 8) 1 1 = 0 := by
  decide +kernel

/-- A blocked queue, and one whose graph has not ended. -/
def queueB (b : List Byte) (l : Option Nat) : Queue := { queueM with state := .blocked, slot := none, head := b, line := l }
def sGr (q : Queue) (e : Bool) : State := { sPk graphP q with graphs := [(3, { pid := 0, queue := 4095, count := 1, fault := false, ended := e, phase := 0, pidx := 0, tag := 0 })] }

theorem witness_QueuePackets_blocked : queue? (sPk [] (queueB (packetOf 5 1 0x10_1000 5) (some 0x10_1000))) 0 4095 =
      some (queueB (packetOf 5 1 0x10_1000 5) (some 0x10_1000)) ∧ acceptOpen (sPk [] queueM) 0 = true ∧
    waitMet (sPk [] queueM) (packetOf 5 1 0x10_1000 5) 0x10_1000 = true ∧ waitMet (sPk [] queueM) (packetOf 5 2 0x10_1000 5) 0x10_1000 = false ∧
    fieldOf (queueB (packetOf 6 0 0 0) none).head 0 1 = 6 ∧ queueQuiet (sPk [] queueM) 4095 (queueB (packetOf 6 0 0 0) none) = true ∧
    queueQuiet (sGr { queueM with graph := some 3 } false) 4095 { queueM with graph := some 3 } = false ∧
    graphReady (sGr { queueM with graph := some 3 } false) { queueM with graph := some 3 } graphP = false ∧
    graphReady (sGr { queueM with graph := some 3 } true) { queueM with graph := some 3 } graphP = true := by
  repeat' apply And.intro
  all_goals rfl

theorem witness_QueuePackets_monitors : .monitor 4095 ∈ ({ State.reset with events := [.bell 7, .monitor 4095] } : State).events.take 12 ∧
    queueM.r ≠ queueM.widx ∧ ¬ ({ queueM with widx := 15 } : Queue).r ≠ 15 ∧ queueM.met = false ∧
    ({ queueM with met := true } : Queue).met = true := by decide

/-! The host and the firmware. -/
def sBt (b : DWord) : State := { State.reset with bootctl := b }
/-- BOOTCTL with a carve-out of two blocks at the end of HBM, and a header there. -/
def bt (n : Nat) : DWord := BitVec.ofNat 64 (0x8F_FFFE * 2 ^ 16 + 2 * 16 + 8 + n)
def headerB : List Byte := [0x47, 0x46, 0x57, 0x33] ++ bytesOfNat 4 1 ++ bytesOfNat 8 0x1_F000
def sHd : State := { sBt (bt 1) with mem := putBytes [] 0x8F_FFFE_0000 headerB }

theorem witness_HostAndBoot : (∀ i, i < 4 → inCarveOut (sBt 0) (0x8F_FFFF_FFFC + i) = false) ∧ 0x8F_FFFF_FFFC + 4 ≤ 0x90_0000_0000 ∧
    ¬ 0x8F_FFFF_FFFD + 4 ≤ 0x90_0000_0000 ∧ (∀ i, i < 4 → inCarveOut (sBt 0) (2 ^ 51 + i) = false) ∧ inCarveOut (sBt (bt 1)) 0x8F_FFFF_FFFF = true ∧
    inCarveOut (sBt (bt 1)) 0x8F_FFFD_FFFF = false ∧ part? sU 0 = some part0 ∧ (bt 1).getLsbD 3 = true ∧ (0#64).getLsbD 3 = false ∧
    1 ≤ (bt 1).toNat / 16 % 2 ^ 12 ∧ (bt 1).toNat / 2 ^ 16 % 2 ^ 32 * 65536 + 2 * 65536 ≤ 0x90_0000_0000 ∧ (bt 1).toNat % 8 = 1 ∧ (bt 2).toNat % 8 = 2 ∧
    headerRight (readBytes sHd 0x8F_FFFE_0000 4096) 2 = true ∧ headerRight (readBytes sHd 0x8F_FFFE_0000 4096) 1 = false ∧
    (List.replicate 32 (0 : Byte)).length = 32 ∧ 920 ≤ (920#16).toNat ∧ (919#16).toNat < 920 ∧
    ({ sU with agenda := [.other (.readRegister (.mgmt 0) 0x38)] } : State).agenda = .other (.readRegister (.mgmt 0) 0x38) :: [] := by
  repeat' apply And.intro
  all_goals decide +kernel

def desc1 : CreateDesc := { desc0 with pid := 31, cores := 0, groups := 2, engines := 0, engineOf := [], slots := 55 }
def sPt (b : DWord) : State := { mach fU with bootctl := b }
/-- Launch 0 has ended and no gang is left. -/
def sIdle : State := { State.reset with parts := [(0, part0)], launches := [(0, { launch0 with state := 2 })] }
def queueDesc (lat : Byte) : List Byte :=
  bytesOfNat 8 0x10_1000 ++ [16, 3, lat, 0, 0, 0, 0, 0] ++ bytesOfNat 8 0x10_0008 ++ bytesOfNat 8 0x10_0020 ++ [12] ++ List.replicate 31 0
def commDesc : List Byte := bytesOfNat 4 2 ++ bytesOfNat 2 1 ++ [36, 0] ++ bytesOfNat 8 0x11_0000 ++ bytesOfNat 8 0x10_1000 ++ List.replicate 40 0
def sCm : State := { sPk [] queueM with mem := putBytes tables 0x10_1000 (bytesOfNat 4 0 ++ bytesOfNat 4 0xF801) }

theorem witness_Partitions : (2#64).toNat % 8 = 2 ∧ createOk desc1 = true ∧ createOk { desc1 with slots := 57 } = false ∧
    createOk { desc1 with pid := 32 } = false ∧ part? (sPt 2) 31 = none ∧ (∀ x ∈ (sPt 2).parts, disjoint desc1 x.2.desc = true) ∧
    ¬ 56 < desc1.slots + ((sPt 2).parts.map fun x => x.2.desc.slots).sum ∧
    56 < 56 + ((sPt 2).parts.map fun x => x.2.desc.slots).sum ∧ part0.destroyed = false ∧ partIdle (sPt 2) 0 = false ∧
    (∃ l ∈ (sPt 2).launches, l.2.pid = 0 ∧ l.2.state < 2) ∧ partIdle sIdle 0 = true ∧ sIdle.undef = [] ∧
    (∀ l ∈ sIdle.launches, l.2.pid = 0 → 2 ≤ l.2.state) ∧ queueOk (queueDesc 0) = true ∧ queueOk (queueDesc 1) = true ∧
    queueOk (queueDesc 2) = false ∧ mget? (sPt 2).queues 4095 = none ∧ fieldOf (queueDesc 0) 0x0A 1 = 0 ∧
    ((sPt 2).queues.filter fun x => x.2.lat).length < 8 ∧ (mget? (sQ queue0).queues 4095).isSome ∧ queue? (sQ queue0) 0 4095 = some queue0 ∧
    queue0.state ≠ .error ∧ ({ queue0 with state := .error } : Queue).state = .error ∧ comm? (sG comm0) 0 255 = some comm0 ∧
    comm? sCm 0 255 = none ∧ commOk commDesc = true ∧ commOk (commDesc.drop 1) = false ∧ commMembers sCm 0 commDesc = some [(0, 0), (1, 31)] ∧
    (∀ g ∈ (machG fSt gangV).gangs, g.2.pid = 0 → g.2.state = .saved) ∧ gang0.state = .running ∧
    mget? sU.launches (lkey 0 gang0.launch) = some launch0 ∧ launch0.cancel = false ∧ forwarded (sPt 2) 0x1234 = false ∧
    forwarded { sPt 2 with forwards := [0x1_0000] } 0x1_FFFF = true ∧ forwarded { sPt 2 with forwards := [0x1_0000] } 0x2_0000 = false ∧
    inTurn (sPt 2) 0 = false ∧ inTurn { sPt 2 with sweeps := [⟨4, 0, true, none, none⟩] } 0 = true ∧
    (∃ p ∈ ({ sPt 2 with moved := [0x1_0000] } : State).moved, p ≤ 0x1_FFFF ∧ 0x1_FFFF < p + 65536) ∧
    ¬ (∃ p ∈ (sPt 2).moved, p ≤ 0x1_FFFF ∧ 0x1_FFFF < p + 65536) ∧ gangV.why = 1 := by
  repeat' apply And.intro
  all_goals first | rfl | decide +kernel

/-- A flight of the job parked at a load, and a frozen job. -/
def gPk : Fragment := { gU with wait := .park 3 }
def parkOp : Mop := { storeOp with lanes := [⟨0, 0xFFFF_FFFF_FFC0_0000, 0, 0, true, false, [1], [], .parked 1⟩] }
def fPk : Flight := { fU with frags := [gPk], mops := [parkOp] }
def partF : Part := { part0 with freeze := .inEffect }
/-- A flight record of eight vector registers for flight 0. -/
def recF : List Byte :=
  bytesOfNat 2 1 ++ bytesOfNat 2 1 ++ bytesOfNat 4 0x4220 ++ [0, 0, 0, 0] ++ bytesOfNat 4 0 ++ bytesOfNat 4 0 ++ bytesOfNat 4 8 ++ List.replicate 0x4208 0
def coreT (d : Option Nat) : Core := { Core.reset with trcctl := 1, trcN := 256, trcDrop := d, smpctl := 0x41 }
def sT (d : Option Nat) : State := { mach fU with cores := [(0, coreT d)] }

theorem witness_JobControlAndTrace : part? (mach fPk) 0 = some part0 ∧ (∀ x ∈ (mach fPk).comms, ∀ o ∈ x.2.puts, o.stall = none ∧ o.sent = true) ∧ inTurn (mach fPk) 0 = false ∧ part0.destroyed = false ∧
    flight? (mach fPk) 0 = some fPk ∧ gPk.wait = .park 3 ∧ mop? fPk 3 = some parkOp ∧ parkedLanes parkOp ≠ [] ∧
    (0xFFFF_FFFF_FFC0_0000#64).toNat / 2 ^ 22 = 0x3FF_FFFF_FFFF ∧ (∀ e ∈ (mach fPk).engines, ∀ c ∈ e.2.cmds, c.stall = none) ∧
    cmd? (sE [{ cmd0 .cpy (blk (.s 8)) with stall := some 0x40_0000 }] []) 0 9 = some { cmd0 .cpy (blk (.s 8)) with stall := some 0x40_0000 } ∧
    (∀ g ∈ (machP fU partF).gangs, g.2.pid = 0 → g.2.why ≠ 4) ∧ inTurn (machP fU partF) 0 = false ∧ frozen (machP fU partF) 0 = true ∧ frozen sU 0 = false ∧
    dblOf (machP { fU with dblFlt := some 5 } partF) 0 = some 5 ∧ coreFrozen (sT none) 0 = false ∧
    (Machine.core (sT none) 0).trcctl.getLsbD 0 = true ∧ 256 ≤ (Machine.core (sT none) 0).trcN ∧ (Machine.core (sT (some 3)) 0).trcDrop = some 3 ∧
    (Machine.core (sT none) 0).smpctl.getLsbD 0 = true ∧ nextSample (sT none) 0 0 = some (0, fU) ∧ sampleFrag (sT none) 0 fU = some gU ∧
    (∀ x ∈ residents (sT none) 0, x.2.slot = 0) ∧ ownsPa (sT none) 0 0 = true ∧ ownsPa (sT none) 0 31 = true ∧
    (0x4_8000_0041#64).toNat / 2 ^ 12 % 2 ^ 40 * 4096 = 0x4_8000_0000 ∧ ownsPa (sT none) 0 0x4_8000_0000 = false := by
  repeat' apply And.intro
  all_goals first | rfl | decide

theorem witness_JobControlAndTrace_thaw : launchOf (machP fU partF) fU = some launch0 ∧ launch0.cancel = false :=
  ⟨launch_found fU rfl rfl _ rfl, rfl⟩

theorem witness_JobControlAndTrace_scan : headerOk recF = true ∧ fieldOf recF 0 2 = 1 ∧ fieldOf recF 0x14 4 = 8 ∧
    recFlight (machP fU partF) 0 recF = some (0, fU) ∧ headerOk (recF.drop 16) = false := by
  repeat' apply And.intro
  all_goals decide +kernel

/-- A flight at its entry in mapped HBM, where SADD s10,s11,5 stands, with the slot's move first on the agenda. -/
def sStep : State := { mach fU with mem := putBytes tables 0x10_0000 (bytesOfNat 8 0x0018_542F_0A00_0000), agenda := [.slot 0 0] }
def sStep1 : State := { sStep with agenda := [], cycle := sStep.cycle + 1, free := sStep.free + 1 }

theorem witness_StepRunsDecodedInstruction : sStep.agenda = [.slot 0 0] ∧ candidates sStep1 0 0 = [(0, 0)] ∧ flight? sStep 0 = some fU ∧
    frag? fU 0 = some gU ∧ mayTry sStep 0 fU gU = true ∧ gU.halted = false ∧ stepAsked sStep 0 0 = false ∧ fU.haltq = [] ∧
    deadlinePassed sStep1 fU = false ∧ gU.wait = .run ∧ fU.afq = [] ∧ fU.timer = false ∧
    (∃ u, fetch { sStep1 with cur := (0, 0) } fU gU = (.word 0x0018_542F_0A00_0000, u)) ∧
    decode false 0x0018_542F_0A00_0000 = .ok (.sadd .u32 (.s 10) (.s 11) (.imm 5)) ∧
    (∃ t, exec (.sadd .u32 (.s 10) (.s 11) (.imm 5)) (begin (ctxOf sStep1 fU gU)) = .next t) ∧ gU.pc.toNat % 8 = 0 ∧ canonical gU.pc = true ∧
    inWindow gU.pc = false ∧ (∃ e u, translate sStep 0 0 none false .fetch gU.pc = (.ok e, u) ∧ e.phys (vaOf gU.pc) = 0x10_0000 ∧
      ownsPa u 0 0x10_0000 = true ∧ (Machine.core u 0).icache = [] ∧ poisonedIn u 0x10_0000 8 = false) := by
  repeat' apply And.intro
  all_goals first | rfl | decide | exact ⟨_, rfl⟩ | exact ⟨_, _, rfl, rfl, rfl, rfl, rfl⟩

theorem witness_StepRunsDecodedInstruction_events : ({ sStep with agenda := [.ev (.reset), .idle 5] } : State).agenda = .ev .reset :: [.idle 5] ∧
    happens .reset = true ∧ happens .exit = false ∧ State.reset.agenda = [] ∧
    ({ sStep with agenda := [.other (.tender 0)] } : State).agenda = .other (.tender 0) :: [] := by
  repeat' apply And.intro
  all_goals rfl

theorem witness_DecodeEncode : (Instr.sadd .u32 (.s 95) (.s 0) (.imm 63)).wf = true ∧ (encode (.sadd .u32 (.s 95) (.s 0) (.imm 63))).isSome ∧
    (Instr.exit).wf = true ∧ (encode .exit).isSome := by decide

theorem witness_MemoryStaysCanonical : State.reset.Canonical ∧ ∃ t, step State.reset = .next t := ⟨rfl, _, rfl⟩

/-! ### Witnesses of single clauses -/

/-- A machine with queue 0 of partition 0, whose doorbell page firmware has mapped. -/
def sDr : State := { sU with queues := [(0, { queue0 with widx := 0 })] }

theorem witness_AddressChecks_doors : ∃ va : DWord, (∀ i, 55 ≤ i → i < 64 → va.getLsbD i = va.getLsbD 63) ∧ va.toNat % msLd.align = 0 ∧
    ¬ (0x7F00_0000_0000 ≤ va.toNat ∧ va.toNat < 0x7F01_0000_0000) ∧ msLd.inWin = false ∧ msLd.noWin = false ∧
    (∃ a, doorKey sDr 0 va = some a) ∧ doorKey sU 0 va = none := by
  obtain ⟨h1, h2, h3⟩ := doorPage_page 0 0
  refine ⟨doorPage 0 0, canonical_bits _ h1, ?_, ?_, rfl, rfl, ?_, rfl⟩
  · rw [show msLd.align = 4 from rfl]; omega
  · simp only [inWindow, beq_eq_false_iff_ne] at h2; omega
  · exact ⟨_, by simp only [doorKey, sDr, List.find?, BitVec.sub_self]; rfl⟩

theorem witness_Loads_parts : (ldOp .todo).instr = .ld .d .relaxed .none false (.v 190) mW ∧
    (sldOp .todo).instr = .sld .d .relaxed .none false (.s 94) mW ∧ (∀ x ∈ (ldOp .todo).lanes, x.lane = 0 → x.st = .todo ∧
      isDoor x.pa = false ∧ 0 ∉ x.parts ∧ mayPerform (fL (ldOp .todo)) (ldOp .todo) x = true) ∧ 8 * 0 < Width.d.bytes ∧
    (∀ x ∈ (ldOp .read).lanes, hasRead (ldOp .read) x = true) ∧ overlapsBase (ldOp .read).instr = false ∧ 190 + 2 ≤ 192 := by
  repeat' apply And.intro
  all_goals first | rfl | decide

theorem witness_Stores_doors : (∀ l ∈ stOp.lanes, isDoor l.pa = false ∧ l.parts = []) ∧ (∀ l ∈ feOp.lanes, isDoor l.pa = false ∧ l.parts = []) ∧
    (∀ x ∈ ksOf addI (mach fW) fW gU, isDoor x.2.at = false) := by decide

theorem witness_Freezes_thaw : NothingOwed (machP fH partA) ∧ NothingOwed (mach fPk) ∧ NothingOwed (machP fU partF) ∧
    NothingOwed (machG fSt gangV) := by
  repeat' apply And.intro
  all_goals decide

/-- The other flight of a halted gang, which has issued its four instructions. -/
theorem witness_Halts_fifth : fHq.haltq = [⟨3, 4, 0, 0, 0, 0, 0, false⟩] ∧ fHq.frags = [gU] ∧ gU.wait = .run ∧ gU.halted = false ∧ gU.level = 0 ∧
    fHq.issued.toNat = (0 : DWord).toNat + 4 ∧ gangOf (mach fHq) fHq = some gang0 ∧ gang0.state ≠ .stopping ∧
    mayTry (mach fHq) 0 fHq gU = true := by
  repeat' apply And.intro
  all_goals first | rfl | decide

theorem witness_BarrierObjects_still : storeOpen (sB (objectBytes 0 0 1 1 2)) (some (0, 0)) (2 ^ 52) = false ∧
    storeOpen (mach fO) (some (0, 1)) (2 ^ 52) = true := by decide

theorem witness_TileStores_capture : capturing (sZ [cmdZ] (objectBytes 4 0 1 1 0)) 0 9 = false ∧ heldBy (tileAt (sHX h0 tileHeld) 5) 0 true = true ∧
    heldBy (tileAt (sHX h0 tile0) 5) 0 true = false := by decide +kernel

/-- A broadcast of one word into the slices of a gang of two blocks. -/
def sBc : State := { sE [cmd0 .cpyb (blk (.s 8))] [] with gangs := [(0, { gang0 with nblock := 2 })] }

theorem witness_CopyEngines_broadcast : cmd? sBc 0 9 = some (cmd0 .cpyb (blk (.s 8))) ∧ (mget? sBc.gangs 0).isSome ∧ unitRuns sBc 0 0 .copy = true ∧
    issuerDone sBc (cmd0 .cpyb (blk (.s 8))) = true ∧ startsNow (engine sBc 0) (cmd0 .cpyb (blk (.s 8))) = true ∧
    ∃ ps s1, elements ((cmd0 .cpyb (blk (.s 8))).agent 0) (cmd0 .cpyb (blk (.s 8))) 1 sBc 0 = (.got ps, s1) ∧ badPut s1 ps = none ∧
      s1.poison = [] ∧ s1.work = [] ∧ ps ≠ [] ∧ (cmdObjs s1 (cmd0 .cpyb (blk (.s 8)))).length = 2 ∧
      (cmdObjs s1 (cmd0 .cpyb (blk (.s 8)))).Pairwise (fun o k => o + 16 ≤ k ∨ k + 16 ≤ o) ∧
      (∀ o ∈ cmdObjs s1 (cmd0 .cpyb (blk (.s 8))), s1.engines.all (·.2.arms.isEmpty) = true ∧
        readNat (writeAll s1 (ps.map fun p => (p.key, p.bytes))) (o + 10) 2 ≤ readNat (writeAll s1 (ps.map fun p => (p.key, p.bytes))) (o + 8) 2) := by
  refine ⟨rfl, rfl, rfl, rfl, by decide, _, _, rfl, rfl, rfl, rfl, by decide +kernel, rfl, by decide +kernel, by decide +kernel⟩

theorem witness_Enqueues_taken : taken sRg 0 = some (.bell 4095) := rfl

theorem witness_put_runs : unitRuns (sG comm0) 0 0 .bridle = true := rfl

/-- The other half of the flight's lanes has arrived at the open instance and waits there. -/
def gRest : Fragment := { frag0 0 (1#96 <<< 95) with num := 1, owned := ~~~0xFFFF_FFFF_FFFF#96, wait := .lcon 5 7 }
def fJn : Flight := { fN with frags := [gHalf, gRest] }
def instO (ty : Ty) (scope : Nat) : Inst :=
  { instN ty scope 0 with header := 0xF_F000, closed := none, arrived := [(0, gRest.owned)], part := [(0, gRest.em)],
                          arrs := [⟨0, 1, gRest.em, 176, 184, 0, 0x10_0000, 0, [], [], 0⟩] }
def sJn (f : Flight) (i : Inst) : State := sX f (tileN i)

theorem witness_Contraction_joins : Issues (sJn fJn (instO .f32 0)) fJn gHalf ∧ Unwatched (sJn fJn (instO .f32 0)) fJn ∧
    MayName fJn gHalf [(.s 4, 1), (.v 184, aRegs .f32 false), (.v 184, 8), (.s 24, 4)] ∧ gangOf (sJn fJn (instO .f32 0)) fJn = some gang0 ∧
    liveTile (ctxOf (sJn fJn (instO .f32 0)) fJn gHalf) (.s 4) = some 5 ∧ (tileAt (sJn fJn (instO .f32 0)) 5).insts = [instO .f32 0] ∧
    (∀ h ∈ fJn.frags, h.num = gHalf.num → h = gHalf) ∧ (srcS (ctxOf (sJn fJn (instO .f32 0)) fJn gHalf) (.s 24)).toNat / 256 % 16 = 0 ∧
    (instO .f32 0).tag = (srcS (ctxOf (sJn fJn (instO .f32 0)) fJn gHalf) (.s 24)).toNat % 256 ∧ (∀ z ∈ (instO .f32 0).arrs, z.fid = 0) ∧
    (instO .f32 0).header.toNat / 256 = (srcS (ctxOf (sJn fJn (instO .f32 0)) fJn gHalf) (.s 24)).toNat / 256 ∧
    mgetD (instO .f32 0).arrived 0 0 &&& gHalf.owned = 0 ∧ (instO .bf16 0).ty ≠ .f32 ∧ frag? fJn 1 = some gRest ∧
    (∀ z ∈ (instO .f32 0).expected, z.2 &&& ~~~(mgetD (instO .f32 0).arrived z.1 0 ||| gHalf.owned) = 0) ∧
    mgetD (instO .f32 0).arrived 0 0 &&& gRest.owned ≠ 0 := by
  repeat' apply And.intro
  all_goals first | rfl | decide

/-- The same of a block's and a gang's instance, at which no fragment waits. -/
theorem witness_Contraction_joins_async : (∀ sc ∈ [1, 2],
      let f : Flight := { fN with frags := [gHalf] }
      (tileAt (sJn f (instO .dxb8 sc)) 5).insts = [instO .dxb8 sc] ∧ (instO .dxb8 sc).scope = sc ∧ (instO .dxb8 sc).rank = f.rank ∧
      (∀ z ∈ (sJn f (instO .dxb8 sc)).flights, ∀ h ∈ z.2.frags, h.wait ≠ .lcon 5 7) ∧ psetLoad (sJn f (instO .dxb8 sc)) f 0 (some 7) ≤ 6 ∧
      srcS (ctxOf (sJn f (instO .dxb8 sc)) f gHalf) (opAdd (.s 24) 1) = 0 ∧
      objKey (sJn f (instO .dxb8 sc)) 0 0 (srcS2 (ctxOf (sJn f (instO .dxb8 sc)) f gHalf) (opAdd (.s 24) 2)) = .inr (2 ^ 52)) := by
  decide

theorem witness_Contraction_plan : (instPlan (sX fN (tileN (instN .f32 0 0))) 0 gang0 (instN .f32 0 0)) = [(0, 0, 0), (0, 0, 1), (0, 0, 2)] ∧
    (instPlan (sX fN (tileN (instN .dxb8 0 2))) 0 gang0 (instN .dxb8 0 2))[2]? = some (0, 0, 2) ∧ Ty.dxb8.isDxb = true ∧
    instFlight (sX fN (tileN (instN .dxb8 0 2))) 0 (instN .dxb8 0 2) 0 0 = some (0, fN) ∧
    instPlan (sX fN (tileN { instN .dxb8 0 2 with arrived := [] })) 0 gang0 { instN .dxb8 0 2 with arrived := [] } = [] ∧
    (tileN (instN .f32 0 3)).todo = [] := by
  repeat' apply And.intro
  all_goals rfl

theorem witness_FabricEvents_states : (commC .allreduce 1).running ≠ [] ∧ storeOpen sR none (2 ^ 52) = false ∧
    ¬((2 : Nat) = 1 ∨ ((2 : Nat) < comm0.count ∧ 2 ≠ comm0.rank ∧ 2 ≤ 2 ∧ 2 ≤ 5)) ∧ ((5 : Nat) = 1 ∨ (1 < comm0.count ∧ 1 ≠ comm0.rank ∧ 2 ≤ 5 ∧ 5 ≤ 5)) := by decide

/-- The disturbed collective with a stage of its chunk under way, and the communicator with a barrier alone in agreement. -/
def sUw : State := { sCh .allreduce 1 with comms := [(255, commAg)] }
def commQ : Comm := { comm0 with cbars := [{ cbar0 with agree := true }] }

theorem witness_FabricEvents_boundary : atBoundary (sG commAg) 0 commAg = true ∧ atBoundary sUw 0 commAg = false ∧
    (let s3 := modComm sAg 0 255 fun _ => derive' sAg commAg
     ((List.range (chunkCount .allreduce 2 (coll0 .allreduce).par)).filter fun i =>
        ¬(mark s3 (markAgent (coll0 .allreduce) 0) commAg.marks i true = 3 ∧ i ∈ ([] : List Nat))) ≠ [] ∧
     ∀ i ∈ List.range (chunkCount .allreduce 2 (coll0 .allreduce).par), markStop s3 (markAgent (coll0 .allreduce) 0) commAg.marks i = none) ∧
    comm? (sG commQ) 0 255 = some commQ ∧ commQ.agree = false ∧ commQ.agreeing = true ∧ [linkVersion (sG commQ)].length + 1 = commQ.count := by
  repeat' apply And.intro
  all_goals first | rfl | decide +kernel

/-- A stopped gang of two blocks with a gang-scope instance on a tile of its first block, one step into its second block, and an ordered
entry on die 0. -/
def gangC (acks : List StopUnit) : Gang := { gangS 1 acks with nblock := 2 }
def launchC : Launch := { launch0 with contribs := [⟨0, 0, 0, 0, 0, 0x10_0000, 5, true, false⟩] }
def sCo (acks : List StopUnit) : State :=
  { sS fSt (gangC acks) with tiles := [(5, tileN (instN .f32 2 4))], launches := [(0, launchC)] }

theorem witness_Preemption_units : mget? (sCo [.vector]).gangs 0 = some (gangC [.vector]) ∧ .vector ∈ (gangC [.vector]).acks ∧
    (gangC [.vector]).held = false ∧ StopUnit.contraction ∉ (gangC [.vector]).acks ∧
    collected (sCo [.vector]) 0 (gangC [.contraction, .vector]) = false ∧ collected (sCo [.vector]) 0 (gangC [.ordered 0, .vector]) = false ∧
    (5, tileN (instN .f32 2 4)) ∈ gangTiles (sCo [.vector]) 0 ∧ (instN .f32 2 4).progress % (3 * (gangC []).nflight) ≠ 0 ∧
    (instN .f32 2 4).progress / (3 * (gangC []).nflight) ≠ 0 ∧ (gangC []).engStop = false ∧
    launchGangs (sCo [.vector]) 0 0 = [(0, gangC [.vector])] ∧ mget? (sCo [.vector]).launches (lkey 0 0) = some launchC ∧ (gangC []).why ≠ 3 ∧
    StopUnit.ordered 0 ∉ (gangC [.vector]).acks ∧ launchC.contribs.all (onDie (sCo [.vector]) 0 0) = true ∧
    ¬ 1 ≤ (launchC.desc.elim 0 (·.spill)) / 32 ∧ 1 ≤ (({ kern0 with spill := 32 } : Desc).spill) / 32 := by
  repeat' apply And.intro
  all_goals first | rfl | decide +kernel

theorem witness_Dispatching_root : ({ launch0 with isRoot := true, tree := 1, cancel := true } : Launch).tree = 1 ∧
    ({ launch0 with isRoot := true, tree := 1, cancel := true } : Launch).fault.isSome = false := by decide

/-- A queue whose announcement waits behind an event of another queue, and behind one of its own. -/
theorem witness_QueueMapping_order : taken sRg 0 = some (.bell 4095) ∧ (sRg.events.take 12)[0]? = some (.bell 4095) ∧
    (Pending.bell 4095).queue = some 4095 ∧ (16 - queue0.r).toNat ≤ 2 ^ queue0.size ∧ ({ queue0 with bell := some 16 } : Queue).bell = some 16 ∧
    taken { sRg with events := [.monitor 4095, .bell 4095] } 1 = none ∧ taken { sRg with events := [.bell 7, .bell 4095] } 1 = some (.bell 4095) ∧
    taken sRg 12 = none ∧ ¬ (17 - queue0.r).toNat ≤ 2 ^ queue0.size := by
  repeat' apply And.intro
  all_goals first | rfl | decide

theorem witness_QueuePackets_taken : (let s : State := { State.reset with events := [.bell 7, .monitor 4095] }
    taken s (s.events.idxOf (.monitor 4095)) = some (.monitor 4095)) := by decide

/-- A partition being destroyed, and one whose pages the firmware is moving. -/
def partX : Part := { part0 with destroyed := true }
def partMv : Part := { part0 with moving := some [0x1_0000] }
def sMv : State := { machG fSt gangV with parts := [(0, partMv)] }
/-- A ring with a command for partition 0, and events of each kind. -/
def sTd (i : Instr) (es : List Pending) : State := { sPt 2 with events := es, commands := [⟨0, i, false⟩] }

theorem witness_Partitions_turns : part? { sPt 2 with parts := [(0, partX)] } 0 = some partX ∧ partX.destroyed = true ∧
    inTurn { sPt 2 with parts := [(0, partX)], sweeps := [] } 31 = false ∧ part? sMv 0 = some partMv ∧ partMv.moving = some [0x1_0000] ∧
    partMv.destroyed = false ∧ inSweep sMv 0 = false ∧ (∀ g ∈ sMv.gangs, g.2.pid = 0 → g.2.state = .saved) ∧
    inCarveOut (sBt (bt 1)) 0x8F_FFFF_FFFC = true ∧ inCarveOut (sPt 2) 0x1234 = false := by
  repeat' apply And.intro
  all_goals decide +kernel

theorem witness_Partitions_tenders : taken (sTd (.thaw 0) [.record 0 5]) 0 = some (.record 0 5) ∧
    taken (sTd (.thaw 0) [.row .reset]) 0 = some (.row .reset) ∧ taken (sTd (.thaw 0) [.ring 0]) 0 = some (.ring 0) ∧
    taken (sTd (.thaw 0) [.ring 3]) 0 = some (.ring 3) ∧ (sTd (.thaw 0) []).commands.find? (fun c => c.ring = 3) = none ∧
    (sTd (.thaw 0) []).commands.find? (fun c => c.ring = 0) = some ⟨0, .thaw 0, false⟩ ∧ commandRing (.thaw 0) = some 0 ∧
    inTurn (sTd (.thaw 0) []) 0 = false ∧
    inTurn { sTd (.thaw 0) [] with sweeps := [⟨4, 0, true, none, none⟩] } 0 = true := by
  repeat' apply And.intro
  all_goals rfl

theorem witness_Partitions_completes : ∃ t, exec (.thaw 0) (sTd (.thaw 0) []) = .next t ∧ completed (sTd (.thaw 0) []) t = true :=
  ⟨_, rfl, rfl⟩

theorem witness_JobControlAndTrace_samples : (sampleOf (sT none) 0 0 0 fU).isSome ∧ nextSample (sT none) 0 0 = some (0, fU) := by decide

theorem witness_StepRunsDecodedInstruction_commands : happens (.thaw 0) = true ∧ commandRing (.thaw 0) = some 0 ∧ happens .reset = true ∧
    commandRing .reset = none ∧ tended sU .reset = false ∧ commandRing (.queueUnblock 0 0) = none ∧ tended sU (.queueUnblock 0 0) = true ∧
    happens (.queueUnblock 0 0) = true := by
  repeat' apply And.intro
  all_goals rfl

/-! ### Ill-formed terms (02 R15-R32): each check refuses one -/

theorem test_wf_register_groups : (Instr.sadd64 .u64 (.s 95) (.s 0) (.s 2)).wf = false ∧ (Instr.sadd64 .u64 (.s 1) (.s 0) (.s 2)).wf = false ∧
    (Instr.ld .o .relaxed .none false (.v 188) ⟨false, 0, 0⟩).wf = false ∧ (Instr.sst .q .relaxed false false (.ss 14) ⟨false, 0, 0⟩).wf = false ∧
    (Instr.accrd (.v 4) (.s 0) (.imm 0)).wf = false ∧ (Instr.dbgrd (.s 0) (.s 2) (.s 0)).wf = false ∧
    (Instr.vfadd .f64 .rne (.v 3) (.v 0) (.v 2)).wf = false ∧ (Instr.welf .rne (.v 2) (.v 0)).wf = false := by decide

theorem test_wf_classes : (Instr.sadd .u32 (.s 0) (.v 0) (.s 0)).wf = false ∧ (Instr.sadd .u32 (.imm 0) (.s 0) (.s 0)).wf = false ∧
    (Instr.vadd .u32 (.s 0) (.v 0) (.v 0)).wf = false ∧ (Instr.vadd .u32 (.v 0) (.cst 0) (.v 0)).wf = false ∧
    (Instr.vscan .u32 .add true (.vt 0) (.v 0)).wf = false ∧ (Instr.vcmp .u32 .eq (.s 2) (.v 0) (.v 0)).wf = false ∧
    (Instr.brkpt (.s 0)).wf = false ∧ (Instr.lcancel (.s 0) (.imm 0)).wf = false ∧ (Instr.cpy (some (.v 0)) (.s 0) (.s 8)).wf = false ∧
    (Instr.cpy none (.ss 0) (.s 8)).wf = false ∧ (Instr.brv .eqz (.s 0) 0 0).wf = false := by decide

theorem test_wf_types : (Instr.sadd .f32 (.s 0) (.s 0) (.s 0)).wf = false ∧ (Instr.vfadd .u32 .rne (.v 0) (.v 0) (.v 0)).wf = false ∧
    (Instr.vfclass .f16x2 (.v 0) (.v 0)).wf = false ∧ (Instr.vrcp .f64 .rne (.v 0) (.v 0)).wf = false ∧
    (Instr.vrcp .f32 .rtz (.v 0) (.v 0)).wf = false ∧ (Instr.vcvt .f32 .rne .f32 (.v 0) (.v 0) (.v 0)).wf = false ∧
    (Instr.vcvt .f32 .rne .f16 (.v 0) (.v 0) (.v 1)).wf = false ∧ (Instr.vredu .s32 .and (.v 0) (.v 0)).wf = false ∧
    (Instr.vshfl .f32 .xor (.v 0) (.v 0) (.v 0)).wf = false ∧ (Instr.scacc .f32 (.s 0)).wf = false ∧
    (Instr.lcon .u32 false (.s 0) (.v 0) (.v 8) (.s 0)).wf = false ∧ (Instr.vbexp .f32 0 (.v 0) (.v 0)).wf = false ∧
    (Instr.amin .fx64 .relaxed false false (.v 0) ⟨false, 0, 0⟩).wf = false ∧ (Instr.acas .f32 .relaxed false (.v 0) ⟨false, 0, 0⟩).wf = false := by
  decide

theorem test_wf_fields : (Instr.smovs (.s 0) 0x14).wf = false ∧ (Instr.smovw 0x10 (.s 0)).wf = false ∧ (Instr.vmovs (.v 0) 6).wf = false ∧
    (Instr.sshlI (.s 0) (.s 0) 32).wf = false ∧ (Instr.fence .sc .relaxed).wf = false ∧ (Instr.smovp (.s 0) 0x17).wf = false ∧
    (Instr.smovp (.s 0) 0xC8).wf = false ∧ (Instr.smovq 0x00 (.s 0)).wf = false ∧ (Instr.smovq 0xC0 (.s 0)).wf = false ∧
    (Instr.boarr false .flight none (.s 0)).wf = false ∧ (Instr.boexp false .device (.s 0) (.s 0)).wf = false ∧
    (Instr.ld .w .relaxed .none false (.v 0) ⟨false, 48, 0⟩).wf = false ∧ (Instr.sld .w .relaxed .none false (.s 0) ⟨true, 0, 0⟩).wf = false := by
  decide

theorem test_wf_pairs : (Instr.pVadd ⟨4, .v 0, .u32, 0⟩ ⟨.vadd, ⟨8, .v 1, .u32, 0⟩⟩).wf = false ∧
    (Instr.pVadd ⟨0, .v 1, .u32, 0⟩ ⟨.vadd, ⟨6, .v 3, .u32, 0⟩⟩).wf = false ∧
    (Instr.pVadd ⟨0, .v 0, .u32, 0⟩ ⟨.vadd, ⟨1, .v 0, .u32, 0⟩⟩).wf = false ∧ (Instr.pVadd ⟨192, .v 0, .u32, 0⟩ ⟨.nop, ⟨0, .v 0, .u32, 0⟩⟩).wf = false ∧
    (Instr.pSadd ⟨191, .s 0, .u32, 0⟩ ⟨.nop, ⟨0, .v 0, .u32, 0⟩⟩).wf = false ∧ (Instr.pNop ⟨1, .v 0, .u32, 0⟩ ⟨.nop, ⟨0, .v 0, .u32, 0⟩⟩).wf = false ∧
    (Instr.pVfadd ⟨0, .v 0, .f32, 1⟩ ⟨.nop, ⟨0, .v 0, .u32, 0⟩⟩).wf = false := by decide

theorem test_wf_words_and_records : (Instr.illegalWord 0).wf = false ∧ (Instr.illegalWord 0x1FF0_0000_0000_0000).wf = true ∧
    (Instr.attest (List.replicate 31 0)).wf = false ∧ (Instr.queueCreate 0 0 []).wf = false ∧ (Instr.communicatorCreate 0 0 []).wf = false ∧
    (Instr.regclaimGrant 0 4 0).wf = false ∧ (Instr.enqrDelivery { msg0 with bytes := [] }).wf = false := by decide +kernel

/-! ### Words of the encoding tables (02 R12-R37) -/

/-- The instruction of a word. -/
def dec (w : DWord) : Option Instr := (decode true w).toOption

theorem test_decode_scalar : dec 0x0018_542F_0A00_0000 = some (.sadd .u32 (.s 10) (.s 11) (.imm 5)) ∧
    dec 0xC683_0000_0000_002A = some (.smovi (.s 6) 42) ∧ dec 0x0108_5000_0000_0008 = some (.smovs (.s 10) 8) := by decide

theorem test_decode_control : dec 0x0170_0000_0000_0000 = some .exit ∧ dec 0x01A0_0000_0000_0000 = some .regn ∧
    dec 0x01D0_0603_0000_0000 = some (.barw (.imm 0) (.imm 0)) ∧ dec 0x0200_0000_0000_0000 = some .opfence ∧
    dec 0xC100_0000_0000_0001 = some (.bra 1) ∧ dec 0xC303_1300_FFFF_FFFB = some (.brv .nez (.v 6) 3 0xFFFF_FFFB) ∧
    dec 0xC300_A000_0000_0002 = some (.brv .ltz (.v 1) 0 2) := by decide

theorem test_decode_fences : dec 0x01F0_0000_0000_0120 = some (.fence .acq .gang) ∧ dec 0x01F0_0000_0000_0240 = some (.fence .rel .device) ∧
    dec 0x01F0_0000_0000_0340 = some (.fence .sc .device) := by decide

theorem test_decode_masks : dec 0x028A_C562_1000_0000 = some (.mand 22 22 2) := by decide

theorem test_decode_vector : dec 0x0538_4007_0000_1200 = some (.vcmp .s32 .lt (.s 8) (.v 1) (.imm 0)) ∧
    dec 0x05A8_5010_0000_4000 = some (.vredu .f32 .add (.s 10) (.v 4)) := by decide

theorem test_decode_float : dec 0x0830_A012_11C1_4200 = some (.vfma .f32 .rtz (.v 20) (.v 4) (.s 8) (.cst 1)) ∧
    dec 0x08D0_300C_0000_4000 = some (.vrcp .f32 .dyn (.v 6) (.v 3)) ∧ dec 0x0970_6020_0000_8000 = some (.vbexp .dxb8 0 (.v 12) (.v 8)) := by
  decide

theorem test_decode_memory : dec 0x9000_4010_0002_0248 = some (.ld .w .gang .wf false (.v 8) ⟨false, 2, 64⟩) ∧
    dec 0x9010_A41F_FFFF_8381 = some (.st .d .device false false true (.v 20) ⟨true, 3, BitVec.ofInt _ (-16)⟩) ∧
    dec 0x9050_0050_0002_0438 = some (.fest .block true ⟨false, 10, 64⟩) ∧ dec 0x9010_2408_0000_02E0 = some (.st .w .relaxed false false false (.v 4) ⟨true, 1, 0⟩) := by
  decide

theorem test_decode_atomics : dec 0x9180_3010_0000_82E0 = some (.aincb .relaxed false (.v 6) ⟨false, 2, 16⟩) ∧
    dec 0x9190_4018_0000_0280 = some (.depdec .device (.v 8) ⟨false, 3, 0⟩) := by decide

theorem test_decode_engines : dec 0x0C00_0422_0400_0000 = some (.cpy none (.s 8) (.s 2)) ∧
    dec 0x0D08_A040_3115_C000 = some (.lcon .f16 false (.s 20) (.v 16) (.v 24) (.s 21)) ∧
    dec 0x0D51_0450_5000_0000 = some (.accrd (.v 32) (.s 20) (.v 40)) ∧ dec 0x0DA8_4800_0000_0000 = some (.sqcnt (.s 9)) := by decide

theorem test_decode_launches : dec 0x1428_542C_0000_0100 = some (.lcancelTree (.s 10) (.s 11)) ∧
    dec 0x1448_F442_0400_0000 = some (.coll .allreduce (some (.s 30)) (.s 16) (.s 2)) ∧
    dec 0x1450_060E_0400_0000 = some (.cbar none (.imm 3) (.s 2)) ∧ dec 0x1478_5413_0400_0300 = some (.ctree .parent (.s 10) (.s 4) (.imm 2)) := by decide

theorem test_decode_system : dec 0x1610_0000_0000_0100 = some .tretRetry ∧ dec 0x163B_0000_0000_0000 = some (.smovp (.ss 0) 0) ∧
    dec 0x1640_0584_0000_0012 = some (.smovq 0x12 (.ss 1)) ∧ dec 0x1650_0410_0000_0000 = some (.invlp (.s 4)) ∧
    dec 0x169B_0D93_0600_0100 = some (.dstepIsolate (.ss 1) (.ss 4) (.imm 3)) := by decide

theorem test_decode_pairs : dec 0x500A_0220_021B_0500 = some (.pVfadd ⟨10, .v 4, .f32, 0⟩ ⟨.vadd, ⟨13, .s 5, .u32, 0⟩⟩) := by decide

theorem test_decode_table_word : decodeTableWord 64 0x0170_0000_0000_0000 = some .exit := by decide

theorem test_decode_supervisor_only : ((decode false 0x1610_0000_0000_0100).toOption = none) ∧
    (decode false 0x163B_0000_0000_0000).toOption = none := by decide

/-- The detail a word is refused with (02 R38). -/
def detail (w : DWord) : Option Nat := match decode true w with | .error d => some d | .ok _ => none

/-- 02 R32, R38, 11 R262: an odd first register of an ACAS.u32 breaks the row's "V, even" before the group rule, one of an ACAS.u64 that is no
multiple of 4 has detail 8; EXIT uses no ty. -/
theorem test_decode_details : detail 0x9170_2810_0000_02E0 = some 5 ∧ detail 0x9170_3010_0000_03E0 = some 8 ∧
    detail 0x0170_0000_0000_1000 = some 3 := by decide

/-! ### Single steps and values that the spec works out -/

/-- A machine whose fragment has lanes `em` and whose flight has vector and scalar registers. -/
def sVec (em : Lanes) (v : Cells Row) (s : Cells Word) : State := mach { flight0 [frag0 0 em] with v := v, s := s }
/-- A row that begins with some words and ends in zeros. -/
def rowOf (l : List Word) : Row := l ++ List.replicate (96 - l.length) 0
/-- The answer leaves these words in lane `l` of registers from `n`. -/
def gives (i : Instr) (s : State) (n l : Nat) (ws : List Word) : Bool :=
  left (exec i s) fun t => (List.range ws.length).map (fun k => vreg t (n + k) l) == ws
/-- Scalar register `n` afterwards. -/
def givesS (i : Instr) (s : State) (n : Nat) (w : Word) : Bool := left (exec i s) fun t => sreg t n == w

/-- 06 R157: the sum wraps, the source is also the destination. -/
theorem test_sadd_wraps : givesS (.sadd .u32 (.s 1) (.s 1) (.imm 1)) (sVec 1 [] [(1, 0xFFFF_FFFF)]) 1 0 = true := by decide +kernel

/-- 08 R205: lanes 2k and 2k + 1 exchange where both are active. -/
theorem test_vshfl_xor : let s := sVec 0xB [(4, rowOf [10, 11, 12, 13])] []
    gives (.vshfl .u32 .xor (.v 5) (.v 4) (.imm 1)) s 5 0 [11] = true ∧ gives (.vshfl .u32 .xor (.v 5) (.v 4) (.imm 1)) s 5 1 [10] = true ∧
      gives (.vshfl .u32 .xor (.v 5) (.v 4) (.imm 1)) s 5 3 [13] = true := by decide +kernel

/-- 08 R207, R208: the tree never reaches 2^24 + 2, and every lane's nx is set. -/
theorem test_vredu_tree : let s := sVec 0xFFFF_FFFF [(4, rowOf [0x4B80_0000, 0x3F80_0000, 0x3F80_0000])] []
    givesS (.vredu .f32 .add (.s 10) (.v 4)) s 10 0x4B80_0000 = true := by decide +kernel

/-- 08 R208: lane 31 of the scan. -/
theorem test_vscan_tree : gives (.vscan .f32 .add false (.v 6) (.v 4)) (sVec 0x8000_0007 [(4, rowOf [0x4B80_0000, 0x3F80_0000, 0x3F80_0000])] [])
    6 31 [0x4B80_0000] = true := by decide +kernel

/-- 08 R209. -/
theorem test_vfadd_f16 : gives (.vfadd .f16 .rne (.v 5) (.v 4) (.s 1)) (sVec 1 [(4, rowOf [0x6800])] [(1, 0x3C00)]) 5 0 [0x6800] = true := by
  decide +kernel

/-- 08 R215: the tie goes to 2^−148. -/
theorem test_vfscl_subnormal : gives (.vfscl .f32 .rne (.v 5) (.v 4) (.s 1)) (sVec 1 [(4, rowOf [0x3FC0_0000])] [(1, 0xFFFF_FF6B)]) 5 0 [2] = true := by
  decide +kernel

/-- 08 R216: −0.4 and −0.6 to u32, 3.0e9 to s32. -/
theorem test_vcvt_saturates : let s := sVec 7 [(4, rowOf [0xBECC_CCCD, 0xBF19_999A, 0x4F32_D05E])] []
    gives (.vcvt .u32 .rne .f32 (.v 5) (.v 4) (.v 0)) s 5 0 [0] = true ∧ gives (.vcvt .u32 .rne .f32 (.v 5) (.v 4) (.v 0)) s 5 1 [0] = true ∧
      gives (.vcvt .s32 .rtz .f32 (.v 5) (.v 4) (.v 0)) s 5 2 [0x7FFF_FFFF] = true := by decide +kernel

/-- 08 R217. -/
theorem test_vf2i_vi2f_scale : let s := sVec 3 [(4, rowOf [0x3F33_3333, 179])] []
    gives (.vf2i .s32 .rne .f32 (.v 5) (.v 4) (.imm 8)) s 5 0 [179] = true ∧
      gives (.vi2f .f32 .dyn .s32 (.v 5) (.v 4) (.imm 8)) s 5 1 [0x3F33_0000] = true := by decide +kernel

/-- 08 R219: the table of results. -/
theorem test_sfu_roots : (sRcp f32 (fval .f32 0x4040_0000)).1 = 0x3EAA_AAAB ∧ (sSqrt f32 (fval .f32 0x4000_0000)).1 = 0x3FB5_04F3 ∧
    (sExp2 f32 (fval .f32 0xBF80_0000)).1 = 0x3F00_0000 ∧ (sLog2 f32 (fval .f32 0x4100_0000)).1 = 0x4040_0000 ∧
    (sExp2 f32 (fval .f32 0xC30C_0000)).1 = 0x200 := by decide +kernel

theorem test_sfu_circle : (sSinPi f32 (fval .f32 0x3E80_0000)).1 = 0x3F35_04F3 ∧ (sCosPi f32 (fval .f32 0x3EAA_AAAB)).1 = 0x3EFF_FFFF := by
  decide +kernel

/-- 08 R221: the third sample. -/
theorem test_welf_third : gives (.welf .rne (.v 8) (.s 1)) (sVec 1 [(8, rowOf [2]), (9, rowOf [0x4040_0000]), (10, rowOf [0x4000_0000])] [(1, 0x4110_0000)])
    8 0 [3, 0x40A0_0000, 0x41D0_0000] = true := by decide +kernel

/-- 08 R222: the same group from a merge. -/
theorem test_wmrg_groups : gives (.wmrg .rne (.v 8) (.v 12)) (sVec 1 [(8, rowOf [2]), (9, rowOf [0x4040_0000]), (10, rowOf [0x4000_0000]), (12, rowOf [1]),
    (13, rowOf [0x4110_0000])] []) 8 0 [3, 0x40A0_0000, 0x41D0_0000] = true := by decide +kernel

/-- 08 R223-R225: the block of −5.0, 0.3, 1.7 and zeros. -/
def rowX : Row := rowOf [0xC0A0_0000, 0x3E99_999A, 0x3FD9_999A]
theorem test_vbexp_block : let s := sVec 0xFFFF_FFFF [(8, rowX)] []
    gives (.vbexp .dxb8 0 (.v 12) (.v 8)) s 12 31 [0x787C] = true ∧ gives (.vbexp .dxb4 0 (.v 12) (.v 8)) s 12 0 [0x7C80] = true ∧
      gives (.vbexp .dxb8 0 (.v 12) (.v 9)) s 12 0 [0] = true := by decide +kernel

theorem test_vpkx_block : let s := sVec 0xFFFF_FFFF [(8, rowX), (12, row 0x787C)] []
    gives (.vpkx .dxb8 (.v 20) (.v 8) (.v 12)) s 20 0 [0x4040_40A8] = true ∧ gives (.vpkx .dxb8 (.v 20) (.v 8) (.v 12)) s 20 1 [0x4040_4066] = true ∧
      gives (.vpkx .dxb8 (.v 20) (.v 8) (.v 12)) s 20 2 [0x4040_400E] = true := by decide +kernel

theorem test_vunpkx_block : let s := sVec 0xFFFF_FFFF [(20, rowOf [0x4040_40A8, 0x4040_4066, 0x4040_400E]), (12, row 0x787C)] []
    gives (.vunpkx .dxb8 (.v 24) (.v 20) (.v 12)) s 24 0 [0xC0A0_0000, 0, 0, 0] = true ∧
      gives (.vunpkx .dxb8 (.v 24) (.v 20) (.v 12)) s 24 1 [0x3E98_0000] = true ∧ gives (.vunpkx .dxb8 (.v 24) (.v 20) (.v 12)) s 24 2 [0x3FE0_0000] = true := by
  decide +kernel

/-- 09 R252: seed 1, BLANE 0. -/
theorem test_sparse_positions : genPos 1 0 0 = (1, 2) ∧ genPos 1 0 1 = (2, 3) := by decide +kernel

/-- 09 R247, R251: the fold of P01 = 120, P10 = −190, P11 = 2 into 1.0, and a b scale of NaN. -/
def psEx : Machine.PSet := ⟨0, 0, .dxb8, 0, 0, 0, [(1, 120), (2, -190), (3, 2)], [1, 2, 3]⟩
theorem test_fold_example : plus32 0x3F80_0000 (foldTerm psEx 0x7E82_787C 0) = 0xC057_8000 ∧ foldTerm psEx 0xFF82_787C 0 = 0x7FC0_0000 := by
  decide +kernel

/-- 11 R265: lanes 0, 1 and 2 of one AINCB on a word that holds 1, with bound 2. -/
theorem test_aincb_lanes : atomNew (.aincb .relaxed false (.v 0) ⟨false, 0, 0⟩) 1 2 0 = 2 ∧ atomNew (.aincb .relaxed false (.v 0) ⟨false, 0, 0⟩) 2 2 0 = 2 := by
  decide +kernel

/-- 17 R361: four members, tree 2: rank 1 stands at position 3, below rank 3. -/
theorem test_tree_positions : positionOf 4 2 1 = 3 ∧ rankAt 4 2 ((3 - 1) / 2) = 3 ∧ rankAt 4 0 ((1 - 1) / 2) = 0 := by decide

/-- 17 R367-R370: 2^24, 1.0 and 1.0 in fast and exact mode. -/
def members3 (r : Nat) : Nat := if r = 0 then 0x4B80_0000 else 0x3F80_0000
theorem test_reduce_modes : reduceElem .f32 0 false 3 0 members3 = 0x4B80_0000 ∧ reduceElem .f32 0 false 3 1 members3 = 0x4B80_0001 ∧
    reduceElem .f32 0 true 3 0 members3 = 0x4B80_0001 := by decide +kernel

/-- 04 R80, R81: the walk of 0x48_0C85_1234 through four tables. -/
def walkTables : List Host.Cell :=
  putBytes (putBytes (putBytes (putBytes [] 0x1_0000 (bytesOfNat 8 0x2_0001)) 0x2_0900 (bytesOfNat 8 0x3_0001)) 0x3_0190 (bytesOfNat 8 0x4_0001)) 0x4_0028
    (bytesOfNat 8 0x4_8A53_0017)
theorem test_walk_example : (match (translate { sU with mem := walkTables } 0 0 none false .read 0x48_0C85_1234).1 with
    | .ok e => e.phys (vaOf 0x48_0C85_1234) == 0x4_8A53_1234
    | _ => false) = true ∧ ownsPa sU 0 0x4_8A53_1234 = false := by decide +kernel

/-- 04 R76: the worked example. -/
theorem test_interleave_example : placeOf 0x4_8A53_1234 = ⟨1, 9, 10, 0x24_B434⟩ := by decide

/-- 06 R152: the active lanes exit. -/
theorem test_exit_takes_lanes : left (exec .exit sU) (fun t => flt0 t fun f => f.exited == 0x8000_0000_0000_0000_0000_0001) = true := by
  decide +kernel

/-- 06 R153: a slot's move runs the word at the entry. -/
theorem test_step_runs_word : left (step sStep) (fun t => sreg t 10 == 5) = true := by decide +kernel

/-- Log 16: the word stored for the first step after reset runs (SMOVI s6, 42). -/
theorem test_fetch_word_runs : left (step (State.reset.withFetchWord 64 0xC683_0000_0000_002A)) (fun t =>
    t.flights.any fun x => mgetD x.2.s 6 0 == 42) = true := by decide +kernel

/-- 19 R390, R394: TRAP 5 enters the handler at TVEC and saves its PC. -/
theorem test_trap_enters : left (exec (.trap (.imm 5)) sU) (fun t => flt0 t fun f => f.frags.all fun g => g.level == 1 && g.pc == 0x20_0000 && f.t1.pc == 0x10_0000) = true := by
  decide +kernel

/-- 19 R391: a privileged instruction at level 0 traps. -/
theorem test_privileged_traps : left (exec .frz sU) (fun t => flt0 t fun f => f.frags.all fun g => g.level == 1) = true := by decide +kernel

/-- A handler's flight on a core whose beacon 0 halts the gang at every store, as in 21 R446. -/
def sWatched : State :=
  { machM (withS fH [(4, 0x10_0000), (5, 0), (6, 7)]) with
    cores := [(0, { Core.reset with bcn := [(0, 0x1_1901), (2, 0xFFFF_FFFF_FFFF_FFFF)] })] }

/-- 20 R425, 21 R445, R446: the store is withheld, the handler goes on, the halt is queued and the collector stops the engines. -/
theorem test_handler_store_withheld : left (exec (.sst .w .relaxed false false (.s 6) ⟨false, 2, 0⟩) sWatched) (fun t =>
    t.gangs.all (fun x => x.2.engStop) && flt0 t fun f =>
      f.mops.isEmpty && f.haltq.length == 1 && f.frags.all fun g => g.pc == gH.pc + 8 && !g.halted) = true := by decide +kernel

end Sys2Proof.Tests
end

section
/-!
SUPPORT. Divergent branches (06 R149, R150): the lowest free fragment number, what a flight holds after lanes of a fragment are
detached, and the split of a fragment whose active lanes disagree.
-/
namespace Sys2Proof.Machine

/-! ### Branches of an untraced core -/

/-- With its trace unit off a core emits no packet (20 R436). -/
theorem tracePacket_off (s : State) (f : Flight) (g : Fragment) (typ payload : Nat)
    (h : (Machine.core s f.core).trcctl.getLsbD 0 = false) : tracePacket s f g typ payload = s := by
  have hw : wantsPacket (Machine.core s f.core) f g.level typ = false := by
    have ht : traced (Machine.core s f.core) f g.level = false := by rw [traced, h]; rfl
    unfold wantsPacket
    split
    · exact ht
    · rw [ht]; rfl
    · exact h
    · rw [ht]; rfl
  simp [tracePacket, hw]

theorem branchPacket_off (c : Ctx) (taken split : Bool) (num : Nat) (h : (Machine.core c.st c.f.core).trcctl.getLsbD 0 = false) :
    branchPacket c taken split num = c := by
  simp [branchPacket, tracePacket_off c.st c.f c.g _ _ h]

/-- A uniform branch only moves its fragment. -/
theorem branch_off (c : Ctx) (taken : Bool) (off : Word) (h : (Machine.core c.st c.f.core).trcctl.getLsbD 0 = false) :
    branch c taken off = retire c (goto c (if taken then target c off else c.g.pc + 8)) := by
  unfold branch
  rw [branchPacket_off c taken false 0 h]
  cases taken <;> rfl

/-! ### Fragment numbers (06 R148) -/

/-- The issuing fragment is found by its number. -/
theorem issues_frag (s : State) (f : Flight) (g : Fragment) (h : Issues s f g) : frag? f g.num = some g :=
  issues_num s f g h ▸ h.2

theorem frag?_eq_none_iff (f : Flight) (k : Nat) : frag? f k = none ↔ (f.frags.any fun g => g.num == k) = false := by
  simp [frag?]

/-- With fewer than 96 fragments, `freshFrag` is the lowest number that none of them has. -/
theorem freshFrag_lowest (f : Flight) (h : f.frags.length < 96) :
    frag? f (freshFrag f) = none ∧ ∀ k, k < freshFrag f → frag? f k ≠ none := by
  cases hq : (List.range 97).find? fun n => !(f.frags.any fun g => g.num == n) with
  | none =>
    have hsub : List.range 97 ⊆ f.frags.map (·.num) := fun n hn => by
      simpa using List.find?_eq_none.1 hq n hn
    have hle := List.nodup_range.length_le_of_subset hsub
    simp only [List.length_range, List.length_map] at hle
    omega
  | some n =>
    have hn : freshFrag f = n := by simp [freshFrag, hq]
    obtain ⟨hfree, -, hbelow⟩ := List.find?_range_eq_some.1 hq
    rw [hn]
    refine ⟨(frag?_eq_none_iff f n).2 (by simpa using hfree), fun k hk hnone => ?_⟩
    simpa [(frag?_eq_none_iff f k).1 hnone] using hbelow k hk

/-! ### Detached lanes -/

/-- The lookup of a number in fragments to which one of a new number was added. -/
theorem find?_insBy_num (h : Fragment) (k : Nat) (l : List Fragment) (hnew : (l.find? fun g => g.num == h.num) = none) :
    ((insBy (·.num) h l).find? fun g => g.num == k) = if k = h.num then some h else l.find? fun g => g.num == k := by
  induction l with
  | nil =>
    by_cases hk : k = h.num
    · simp [insBy, hk]
    · simp [insBy, hk, Ne.symm hk]
  | cons x r ih =>
    obtain ⟨hx, hr⟩ : x.num ≠ h.num ∧ (r.find? fun g => g.num == h.num) = none := by simpa using hnew
    unfold insBy
    split
    · by_cases hk : k = h.num
      · simp [hk]
      · simp [hk, List.find?_cons, Ne.symm hk]
    · rw [List.find?_cons, ih hr, List.find?_cons]
      by_cases hk : k = h.num
      · simp [hk, beq_false_of_ne hx]
      · simp [hk]

/-- What a fragment keeps when lanes are detached from it. -/
def Fragment.without (g : Fragment) (m : Lanes) : Fragment :=
  { g with owned := g.owned &&& ~~~m, em := g.em &&& ~~~m, rmask := g.rmask &&& ~~~m }

section
variable (f : Flight) (g : Fragment) (m : Lanes) (pc : DWord) (hfree : frag? f (freshFrag f) = none)
include hfree

theorem frag?_detach (k : Nat) :
    frag? (detach f g m pc).1 k =
      if k = freshFrag f then some (detach f g m pc).2 else frag? (putFrag f (g.without m)) k := by
  have hnew : frag? (putFrag f (g.without m)) (freshFrag f) = none := by simp [frag?_putFrag, hfree]
  exact find?_insBy_num (detach f g m pc).2 k _ hnew

theorem frag?_detach_new : frag? (detach f g m pc).1 (freshFrag f) = some (detach f g m pc).2 := by
  rw [frag?_detach f g m pc hfree, if_pos rfl]

theorem num_ne_freshFrag (hg : frag? f g.num = some g) : g.num ≠ freshFrag f := by
  intro h
  simp [h, hfree] at hg

theorem frag?_detach_parent (hg : frag? f g.num = some g) : frag? (detach f g m pc).1 g.num = some (g.without m) := by
  rw [frag?_detach f g m pc hfree, if_neg (num_ne_freshFrag f g hfree hg)]
  exact frag?_putFrag_same f (g.without m) g hg

theorem frag?_detach_other {k : Nat} (hg : k ≠ g.num) (hk : k ≠ freshFrag f) : frag? (detach f g m pc).1 k = frag? f k := by
  rw [frag?_detach f g m pc hfree, if_neg hk]
  exact frag?_putFrag_ne f (g.without m) hg

end

/-! ### The split of a fragment (06 R149, R150) -/

/-- The lanes `m` of the fragment leave it for `there`, the rest goes on at `here`, and the token expects all of them. -/
def splitOff (c : Ctx) (tok : Nat) (m : Lanes) (there here : DWord) : State :=
  retire c (goto { c with f := (detach (arm c.f tok c.g.owned) c.g m there).1, g := c.g.without m } here)

/-- The flight and its fragments once the fragment was split. -/
theorem splitOff_spec (s : State) (f : Flight) (g : Fragment) (tok : Nat) (m : Lanes) (there here : DWord) (hi : Issues s f g)
    (hu : Unwatched s f) (hlen : f.frags.length < 96) :
    ∃ f' g' h, flight? (splitOff (ctxOf s f g) tok m there here) s.cur.1 = some f' ∧ frag? f' g.num = some g' ∧
      frag? f h.num = none ∧ (∀ k, k < h.num → frag? f k ≠ none) ∧ frag? f' h.num = some h ∧
      Outside s (splitOff (ctxOf s f g) tok m there here) ∧ (∀ k, k ≠ g.num → k ≠ h.num → frag? f' k = frag? f k) ∧
      (h.owned = m ∧ h.em = m ∧ h.pc = there ∧ g'.pc = here ∧ g'.em = g.em &&& ~~~m) ∧
      h.region = g.region ∧ h.rpc = g.rpc ∧ h.level = g.level ∧ g'.region = g.region ∧ g'.rpc = g.rpc ∧
      g'.owned = g.owned &&& ~~~h.owned ∧
      mgetD f'.tokens tok 0 = mgetD f.tokens tok 0 ||| g.owned ∧ f'.s = f.s ∧ f'.v = f.v ∧ f'.lflags = f.lflags := by
  obtain ⟨hfree, hbelow⟩ := freshFrag_lowest f hlen
  have hg := issues_frag s f g hi
  let f0 := arm f tok g.owned
  let d := detach f0 g m there
  let c := settled (goto { ctxOf s f g with f := d.1, g := g.without m } here)
  have hu' : splitOff (ctxOf s f g) tok m there here = commit c := retire_unwatched _ _ hu.1
  rw [hu']
  refine ⟨putFrag c.f c.g, c.g, d.2, flight?_commit c, ?_, hfree, hbelow, ?_,
    ⟨rfl, fun k hk => flight?_commit_ne c hk, fun a => rfl⟩, fun k hkg hkh => ?_, ⟨rfl, rfl, rfl, rfl, rfl⟩,
    rfl, rfl, rfl, rfl, rfl, rfl, ?_, rfl, rfl, rfl⟩
  · exact frag?_putFrag_same c.f c.g (g.without m) (frag?_detach_parent f0 g m there hfree hg)
  · exact (frag?_putFrag_ne c.f c.g (num_ne_freshFrag f g hfree hg).symm).trans (frag?_detach_new f0 g m there hfree)
  · exact (frag?_putFrag_ne c.f c.g hkg).trans (frag?_detach_other f0 g m there hfree hkg hkh)
  · show mgetD (mset f.tokens tok _) tok 0 = _
    rw [mgetD_mset, if_pos rfl]

/-- Where no active lane takes it, a divergent branch falls through. -/
theorem diverge_none (c : Ctx) (tok : Nat) (off : Word) (h : (Machine.core c.st c.f.core).trcctl.getLsbD 0 = false) :
    diverge c 0 tok off = retire c (goto c (c.g.pc + 8)) := by
  simp [diverge, branch_off c _ off h]

/-- Where every active lane takes it, a divergent branch goes to its target. -/
theorem diverge_all (c : Ctx) (t : Lanes) (tok : Nat) (off : Word) (h : (Machine.core c.st c.f.core).trcctl.getLsbD 0 = false)
    (ht : t ≠ 0) (hn : c.g.em &&& ~~~t = 0) : diverge c t tok off = retire c (goto c (target c off)) := by
  simp only [diverge, beq_iff_eq, ht, hn, if_false, if_true, branch_off c _ off h]

/-- A divergent branch splits off its smaller side, the side not taken in a tie, when its active lanes disagree (06 R149). -/
theorem diverge_splits (c : Ctx) (t : Lanes) (tok : Nat) (off : Word) (h : (Machine.core c.st c.f.core).trcctl.getLsbD 0 = false)
    (hg : frag? c.f c.g.num = some c.g) (hlen : c.f.frags.length < 96) (ht : t ≠ 0) (hn : c.g.em &&& ~~~t ≠ 0) :
    diverge c t tok off =
      splitOff c tok (if (c.g.em &&& ~~~t).count ≤ t.count then c.g.em &&& ~~~t else t)
        (if (c.g.em &&& ~~~t).count ≤ t.count then c.g.pc + 8 else target c off)
        (if (c.g.em &&& ~~~t).count ≤ t.count then target c off else c.g.pc + 8) := by
  have hfree := (freshFrag_lowest c.f hlen).1
  have hkept (m : Lanes) (pc : DWord) :
      (frag? (detach (arm c.f tok c.g.owned) c.g m pc).1 c.g.num).getD c.g = c.g.without m := by
    rw [frag?_detach_parent (arm c.f tok c.g.owned) c.g m pc hfree hg]
    rfl
  unfold diverge
  simp only [beq_iff_eq, ht, hn, if_false, branchPacket_off c _ _ _ h, hkept, decide_eq_true_eq]
  rfl

/-! ### The two divergent branches (06 R165) -/

/-- The lanes that take a divergent branch are active. -/
theorem and_lanesOf_active (m : Lanes) (p : Nat → Bool) :
    m &&& lanesOf (fun l => m.getLsbD l && p l) = lanesOf fun l => m.getLsbD l && p l := by
  apply BitVec.eq_of_getLsbD_eq
  intro l hl
  rw [BitVec.getLsbD_and, getLsbD_lanesOf _ l hl]
  cases m.getLsbD l <;> rfl

/-- The active lanes left when those not in `t` leave are those of `t`. -/
theorem and_not_and_not (m t : Lanes) (h : m &&& t = t) : m &&& ~~~(m &&& ~~~t) = t := by
  apply BitVec.eq_of_getLsbD_eq
  intro l hl
  have hl' : (m.getLsbD l && t.getLsbD l) = t.getLsbD l := by rw [← BitVec.getLsbD_and, h]
  simp only [BitVec.getLsbD_and, BitVec.getLsbD_not, hl, decide_true, Bool.true_and]
  revert hl'
  cases m.getLsbD l <;> cases t.getLsbD l <;> decide

/-- BRV and BRM.lanes diverge, on a set of active lanes. -/
theorem exec_diverges (s : State) (f : Flight) (g : Fragment) (q : Cc) (m : Fin 24) (a : Opnd) (tok : Fin 16) (off : Word)
    (t : Lanes) (i : Instr) (hi : Issues s f g)
    (h : (i = .brv q a tok off ∧ MayName f g [(a, 1)] ∧ t = lanesOf fun l => g.em.getLsbD l && aCc q (src32 (ctxOf s f g) a l)) ∨
      (i = .brmLanes m tok off ∧ t = g.em &&& getMask f g m)) :
    exec i s = .next (diverge (ctxOf s f g) t tok.val off) ∧ g.em &&& t = t := by
  obtain ⟨rfl, hm, rfl⟩ | ⟨rfl, rfl⟩ := h
  · exact ⟨(exec_brv q a tok off s).trans (issue_acts _ _ _ s f g hi hm (by simp)), and_lanesOf_active _ _⟩
  · refine ⟨(exec_brmLanes m tok off s).trans (issue_acts _ _ _ s f g hi ⟨fun _ => rfl, rfl⟩ (by simp)), ?_⟩
    rw [← BitVec.and_assoc, BitVec.and_self]

/-- Settles O18: where the active lanes agree the branch is uniform; where they disagree it is the split of `splitOff_spec`, of which
`diverge_splits` says which side leaves. -/
theorem divergentBranches : Obligations.DivergentBranches := by
  intro s f g q m a tok off t i hi hu hb
  obtain ⟨he, hsub⟩ := exec_diverges s f g q m a tok off t i hi hb
  refine ⟨fun ht => ?_, fun ht hn => ?_, fun ht hn _ hlen _ => ?_⟩
  · subst ht
    exact onlyMoves_of i s f g _ hi hu (he.trans (congrArg _ (diverge_none (ctxOf s f g) tok.val off hu.2)))
  · exact onlyMoves_of i s f g _ hi hu (he.trans (congrArg _ (diverge_all (ctxOf s f g) t tok.val off hu.2 ht hn)))
  · have hg := issues_frag s f g hi
    have hs := diverge_splits (ctxOf s f g) t tok.val off hu.2 hg hlen ht hn
    obtain ⟨f', g', h, hf', hg', hfree, hlow, hh, hout, hsib, hsides, hrest⟩ := splitOff_spec s f g tok.val _ _ _ hi hu hlen
    refine ⟨_, f', g', h, he.trans (congrArg _ hs), hf', hg', hfree, hlow, hh, hout, hsib, ?_, hrest⟩
    obtain ⟨howned, hem, hthere, hhere, hkept⟩ := hsides
    split
    next hle =>
      simp only [ctxOf, hle, if_true] at howned hem hthere hhere hkept
      exact ⟨howned, hem, hthere, hhere, hkept.trans (and_not_and_not g.em t hsub)⟩
    next hle =>
      simp only [ctxOf, hle, if_false] at howned hem hthere hhere hkept
      exact ⟨howned, hem, hthere, hhere, hkept⟩

end Sys2Proof.Machine
end

section
/-!
SUPPORT. Sums in any order (07 R194): the words of a number, instructions that write numbers to registers and raise flags, the sum of
a reduction, and the value of a tree whose step is addition.
-/
namespace Sys2Proof.Machine

/-! ### The words of a number (02 R15) -/

theorem w32_div_eq_wordOf (n k : Nat) : w32 (n / 2 ^ (32 * k)) = wordOf n k := by
  have h : (n : Int) / 2 ^ (32 * k) = (n / 2 ^ (32 * k) : Nat) := by
    rw [Int.natCast_ediv, Int.natCast_pow, Int.cast_ofNat_Int]
  rw [wordOf, wrap, h, BitVec.ofInt_natCast, w32]

/-- The two words of a number modulo 2^64 are those of the number. -/
theorem wordOf_mod (n : Nat) {k : Nat} (hk : k < 2) : wordOf (n % 2 ^ 64 : Nat) k = wordOf n k := by
  rw [← w32_div_eq_wordOf, ← w32_div_eq_wordOf]
  apply BitVec.eq_of_toNat_eq
  simp only [w32, BitVec.toNat_ofNat]
  obtain rfl | rfl : k = 0 ∨ k = 1 := by omega
  · omega
  · omega

theorem regs_eq_one_or_two (t : Ty) : t.regs = 1 ∨ t.regs = 2 := by cases t <;> decide

/-! ### Results of one or two registers (08 R198, R207) -/

theorem vecPut_eq_vecs (c : Ctx) (t : Ty) (d : Opnd) (r : Nat → Nat) :
    vecPut c t d r = vecs c d t.regs fun k l => wordOf (r l) k := by
  have h0 (l : Nat) : w32 (r l) = wordOf (r l) 0 := by simpa using w32_div_eq_wordOf (r l) 0
  have h1 (l : Nat) : w32 (r l / 2 ^ 32) = wordOf (r l) 1 := w32_div_eq_wordOf (r l) 1
  obtain h | h := regs_eq_one_or_two t
  · simp [vecPut, h, vecs, opAdd_zero, h0]
  · simp only [vecPut, h, h0, h1, vecs, List.range_succ, List.range_zero, List.nil_append, List.foldl_append, List.foldl_cons,
      List.foldl_nil, opAdd_zero, beq_self_eq_true, if_true]

/-- The same values and flags in the active lanes are the same write. -/
theorem setsVector_congr (i : Instr) (s : State) (f : Flight) (g : Fragment) (d : Opnd) (r : Nat) (val val' : Nat → Nat → Word)
    (bits bits' : Nat → Nat) (h : SetsVector i s f g d r val bits)
    (hv : ∀ k l, k < r → l < 96 → g.em.getLsbD l = true → val k l = val' k l)
    (hb : ∀ l, l < 96 → g.em.getLsbD l = true → bits l = bits' l) : SetsVector i s f g d r val' bits' := by
  obtain ⟨t, f', g', he, hf, hg, hout, hsib, hfrag, hflight, hem, hw, hs, hfl⟩ := h
  have hlanes (n k l : Nat) (w : Word) (hl : l < 96) :
      (if (n ≤ k ∧ k < n + r) ∧ g.em.getLsbD l = true then val (k - n) l else w) =
        if (n ≤ k ∧ k < n + r) ∧ g.em.getLsbD l = true then val' (k - n) l else w := by
    split
    next hk => exact hv _ _ (by omega) hl hk.2
    next => rfl
  refine ⟨t, f', g', he, hf, hg, hout, hsib, hfrag, hflight, hem, ?_, hs, fun l hl => ?_⟩
  · cases d with
    | v n =>
      obtain ⟨hv, hrest⟩ := hw
      exact ⟨fun k l hl => (hv k l hl).trans (hlanes _ _ _ _ hl), hrest⟩
    | vt n =>
      obtain ⟨hsame, hvt, hrest⟩ := hw
      exact ⟨hsame, fun k l hl => (hvt k l hl).trans (hlanes _ _ _ _ hl), hrest⟩
    | _ => exact hw
  · rw [hfl l hl]
    split
    next ha => rw [hb l hl ha]
    next => rfl

theorem getD_laneResults (c : Ctx) (r : Nat → FRes) (l : Nat) (hl : l < 96) (ha : c.g.em.getLsbD l = true) :
    (laneResults c r).getD l (0, 0) = r l := by
  simp [laneResults, List.getD_eq_getElem?_getD, List.getElem?_range hl, ha]

/-- An instruction that writes a result and raises flags in each active lane. -/
theorem setsVector_vecFlt (i : Instr) (s : State) (f : Flight) (g : Fragment) (t : Ty) (d : Opnd) (r : Nat → FRes) (hi : Issues s f g)
    (hu : Unwatched s f) (hd : IsVector d) (hn : d.idx + t.regs ≤ d.cls.size) (ha : Unread f d t.regs)
    (he : exec i s = .next (retireNext (ctxOf s f g) (vecFlt (ctxOf s f g) t d r))) :
    SetsVector i s f g d t.regs (fun k l => wordOf (r l).1 k) fun l => (r l).2 := by
  have hw := setsVector_of i s f g d t.regs _ _ hi hu hd hn ha (he.trans (by rw [vecFlt, vecPut_eq_vecs]; rfl))
  refine setsVector_congr i s f g d t.regs _ _ _ _ hw (fun k l _ hl hem => ?_) fun l hl hem => ?_
  · exact congrArg (fun x : FRes => wordOf x.1 k) (getD_laneResults (ctxOf s f g) r l hl hem)
  · exact congrArg Prod.snd (getD_laneResults (ctxOf s f g) r l hl hem)

theorem putS_obs (c : Ctx) (o : Obs) (d : Opnd) (w : Word) : putS { c with obs := o } d w = { putS c d w with obs := o } := by
  cases d with
  | s n => simp only [putS, putScalar]; split <;> rfl
  | _ => rfl

/-- A number written to a scalar destination, but for what the beacons are shown. -/
theorem putAny_scalar (c : Ctx) (t : Ty) (d : Opnd) (x : Nat) (hd : IsScalar d) :
    putAny c t d x = { puts c d ((List.range t.regs).map (wordOf x)) with obs := (putAny c t d x).obs } := by
  have hcls : (d.cls == .S || d.cls == .SS) = true := by
    obtain h | h := hd <;> rw [h] <;> rfl
  have h0 : w32 x = wordOf x 0 := by simpa using w32_div_eq_wordOf x 0
  have h1 : w32 (x / 2 ^ 32) = wordOf x 1 := w32_div_eq_wordOf x 1
  obtain h | h := regs_eq_one_or_two t
  · have hp : puts c d ((List.range t.regs).map (wordOf x)) = putS c d (w32 x) := by
      simp [h, h0, List.range_succ, opAdd_zero]
    rw [hp]
    simp [putAny, hcls, h, seeVals]
  · have hp : puts c d ((List.range t.regs).map (wordOf x)) = putS (putS c d (w32 x)) (opAdd d 1) (w32 (x / 2 ^ 32)) := by
      rw [h1]
      simp [h, h0, puts, List.range_succ, opAdd_zero]
    rw [hp]
    simp [putAny, hcls, h, seeVals, putS_obs]

theorem putAny_vector (c : Ctx) (t : Ty) (d : Opnd) (x : Nat) (hd : IsVector d) :
    putAny c t d x = vecs c d t.regs fun k _ => wordOf x k := by
  have hcls : (d.cls == .S || d.cls == .SS) = false := by
    obtain h | h := hd <;> rw [h] <;> rfl
  rw [putAny, if_neg (by simp [hcls]), vecPut_eq_vecs]

/-- What the beacons are shown does not matter where none watches. -/
theorem retireNext_obs (c0 c : Ctx) (o : Obs) (h : (Machine.core c0.st c.f.core).bcn = []) :
    retireNext c0 { c with obs := o } = retireNext c0 c :=
  (retire_unwatched c0 (next { c with obs := o }) h).trans (retire_unwatched c0 (next c) h).symm

/-- An instruction that writes words to consecutive scalar registers and raises flags in the lanes that were active. -/
theorem completes_puts_raise (i : Instr) (s : State) (f : Flight) (g : Fragment) (d : Opnd) (ws : List Word) (bits : Nat → Nat)
    (hi : Issues s f g) (hu : Unwatched s f) (hd : IsScalar d) (hn : d.idx + ws.length ≤ d.cls.size)
    (he : exec i s = .next (retireNext (ctxOf s f g) (puts (raise (ctxOf s f g) (flagMasks bits g.em)) d ws))) :
    Completes i s f g (g.pc + 8) fun t f' g' => ScalarWrite f f' g g' d ws ∧ VectorsSame s t f f' ∧
      ∀ l, l < 96 → laneFlags f' l = laneFlags f l ||| (if g.em.getLsbD l then bits l % 16 else 0) := by
  let c := puts (raise (ctxOf s f g) (flagMasks bits g.em)) d ws
  obtain ⟨hst, -, hf, hg⟩ := puts_rest (raise (ctxOf s f g) (flagMasks bits g.em)) d ws
  have hpc : c.g.pc = g.pc := by rw [hg]; rfl
  have hcore : c.f.core = f.core := by rw [hf]; rfl
  have key := completesIn_of i s f g f (g.pc + 8) c
    (fun t f' g' => ScalarWrite f f' g g' d ws ∧ VectorsSame s t f f' ∧
      ∀ l, l < 96 → laneFlags f' l = laneFlags f l ||| (if g.em.getLsbD l then bits l % 16 else 0)) hi
    (by rw [hcore]; exact hu.1) (by rw [hst]; rfl) (by rw [hst]; rfl) (by rw [hf]; rfl) hg
    (by rw [he, retireNext, next, hpc]) (by rw [hf]; rfl) ?_
  · rw [hst] at key; exact key
  · intro t f' g' hfree hem hf'
    refine ⟨?_, fun n l => ?_, fun l hl => ?_⟩
    · exact scalarWrite_puts (raise (ctxOf s f g) (flagMasks bits g.em)) d ws hd hn f' g' (by rw [hf']; rfl) (by rw [hf']; rfl)
        (by rw [hf']; rfl) hem
    · exact getV_same _ _ _ _ _ _ (by rw [hf', hf]; rfl) (by rw [hf', hf]; rfl) (by rw [hfree, hst]; rfl)
    · have hraised : laneFlags f' l = laneFlags (f.raise (flagMasks bits g.em)) l := by
        unfold laneFlags; rw [hf', hf]; rfl
      rw [hraised, laneFlags_raise _ _ _ _ hl]

/-! ### Sums of a reduction (08 R207) -/

/-- In a type of two registers a reduction adds modulo 2^64. -/
theorem redStep_add (t : Ty) (ht : t.regs = 2) (x y : Nat) : redStep t .add x y = (x + y) % 2 ^ 64 := by
  simp [redStep, ht]

theorem foldl_redStep_add (t : Ty) (ht : t.regs = 2) (x : Nat → Nat) (ls : List Nat) (a : Nat) :
    ls.foldl (fun acc k => redStep t .add acc (x k)) a % 2 ^ 64 = (a + (ls.map x).sum) % 2 ^ 64 := by
  induction ls generalizing a with
  | nil => rfl
  | cons l ls ih =>
    rw [List.foldl_cons, ih, redStep_add t ht, List.map_cons, List.sum_cons]
    omega

/-- A sum of two registers is the sum of the lanes that take part modulo 2^64, and raises no flag. -/
theorem reduce_add (t : Ty) (ht : t.regs = 2) (part : Nat → Bool) (x : Nat → Nat) :
    (reduce t .add part x).1 % 2 ^ 64 = (((List.range 96).filter part).map x).sum % 2 ^ 64 ∧ (reduce t .add part x).2 = 0 := by
  have hf : (t == .f32) = false := by
    rw [beq_eq_false_iff_ne]
    rintro rfl
    exact absurd ht (by decide)
  unfold reduce
  simp only [hf, Bool.false_and, Bool.false_eq_true, if_false]
  cases (List.range 96).filter part with
  | nil => exact ⟨rfl, rfl⟩
  | cons l ls => exact ⟨foldl_redStep_add t ht x ls (x l), rfl⟩

/-! ### Trees whose step is addition (17 R361, R368) -/

/-- One rank further on, the last rank comes round to 0. -/
theorem map_rankAt_one_perm (m : Nat) : ((List.range m).map (rankAt m 1)).Perm (List.range m) := by
  cases m with
  | zero => exact List.Perm.refl _
  | succ n =>
    have hinit : (List.range n).map (rankAt (n + 1) 1) = (List.range n).map Nat.succ :=
      List.map_congr_left fun j hj => Nat.mod_eq_of_lt (Nat.succ_lt_succ (List.mem_range.1 hj))
    have hlast : rankAt (n + 1) 1 n = 0 := Nat.mod_self _
    have hmap : (List.range (n + 1)).map (rankAt (n + 1) 1) = (List.range n).map Nat.succ ++ [0] := by
      rw [List.range_succ, List.map_append, hinit, List.map_singleton, hlast]
    rw [hmap, List.range_succ_eq_map]
    exact List.perm_append_singleton _ _

/-- Every tree's positions hold every rank once. -/
theorem map_rankAt_perm (m t : Nat) : ((List.range m).map (rankAt m t)).Perm (List.range m) := by
  induction t with
  | zero =>
    have h : (List.range m).map (rankAt m 0) = (List.range m).map id :=
      List.map_congr_left fun j hj => Nat.mod_eq_of_lt (List.mem_range.1 hj)
    rw [h, List.map_id]
  | succ t ih =>
    have hsucc : (List.range m).map (rankAt m (t + 1)) = ((List.range m).map (rankAt m t)).map (rankAt m 1) := by
      rw [List.map_map]
      exact List.map_congr_left fun j _ => (Nat.mod_add_mod (j + t) m 1).symm
    rw [hsucc]
    exact (ih.map _).trans (map_rankAt_one_perm m)

section
variable (step : Nat → Nat → Nat) (own : Nat → Nat)

/-- The value that a position computes from its own and what its children have sent. -/
def nodeValue (sent : Cells Nat) (j : Nat) : Nat :=
  let v := (mget? sent (2 * j + 1)).elim (own j) (step (own j))
  (mget? sent (2 * j + 2)).elim v (step v)

/-- The values of the `n` positions from `k` on. -/
def treeFrom (k : Nat) : Nat → Cells Nat
  | 0 => []
  | n + 1 => mset (treeFrom (k + 1) n) k (nodeValue step own (treeFrom (k + 1) n) k)

theorem treeValues_eq_treeFrom (m : Nat) : treeValues step m own = treeFrom step own 0 m := by
  have h (n k : Nat) : (List.range' k n).foldr (fun j sent => mset sent j (nodeValue step own sent j)) [] =
      treeFrom step own k n := by
    induction n generalizing k with
    | zero => rfl
    | succ n ih => rw [List.range'_succ, List.foldr_cons, ih]; rfl
  rw [← h, treeValues, List.range_eq_range']
  congr 1
  funext j sent
  simp only [nodeValue]
  cases mget? sent (2 * j + 1) <;> cases mget? sent (2 * j + 2) <;> rfl

theorem treeValue_eq_treeFrom (m : Nat) : treeValue step m own = mgetD (treeFrom step own 0 m) 0 0 := by
  rw [treeValue, treeValues_eq_treeFrom]

/-- The sum of the values of `n` positions from `k` on, 0 for those that have computed none. -/
def sumFrom (f : Nat → Nat) (k n : Nat) : Nat := ((List.range' k n).map f).sum

theorem sumFrom_first (f : Nat → Nat) (k n : Nat) : sumFrom f k (n + 1) = f k + sumFrom f (k + 1) n := by
  simp [sumFrom, List.range'_succ]

theorem sumFrom_last (f : Nat → Nat) (k n : Nat) : sumFrom f k (n + 1) = sumFrom f k n + f (k + n) := by
  simp [sumFrom, List.range'_1_concat]

theorem sumFrom_congr (f h : Nat → Nat) (k n : Nat) (hfh : ∀ j, k ≤ j → j < k + n → f j = h j) :
    sumFrom f k n = sumFrom h k n := by
  unfold sumFrom
  rw [List.map_congr_left fun j hj => hfh j (List.mem_range'_1.1 hj).1 (List.mem_range'_1.1 hj).2]

theorem sumFrom_zero (k n : Nat) : sumFrom (fun _ => 0) k n = 0 := by
  induction n generalizing k with
  | zero => rfl
  | succ n ih => rw [sumFrom_first, ih]

variable (hstep : ∀ x y, step x y = (x + y) % 2 ^ 64)
include hstep

theorem nodeValue_add (sent : Cells Nat) (j : Nat) :
    nodeValue step own sent j % 2 ^ 64 = (own j + mgetD sent (2 * j + 1) 0 + mgetD sent (2 * j + 2) 0) % 2 ^ 64 := by
  unfold nodeValue mgetD
  cases mget? sent (2 * j + 1) <;> cases mget? sent (2 * j + 2) <;> simp only [Option.elim_none, Option.elim_some,
    Option.getD_none, Option.getD_some, hstep] <;> omega

theorem nodeValue_lt (hown : ∀ j, own j < 2 ^ 64) (sent : Cells Nat) (j : Nat) : nodeValue step own sent j < 2 ^ 64 := by
  have hlt (x y : Nat) : step x y < 2 ^ 64 := hstep x y ▸ Nat.mod_lt _ (by decide)
  unfold nodeValue
  cases mget? sent (2 * j + 2) with
  | some y => exact hlt _ y
  | none =>
    cases mget? sent (2 * j + 1) with
    | some x => exact hlt _ x
    | none => exact hown j

/-- Of the positions from `k` on, those with no parent among them are `k` to `2 * k`; their values sum to all of the members' own. -/
theorem sum_roots_treeFrom (n k : Nat) :
    sumFrom (fun j => mgetD (treeFrom step own k n) j 0) k (k + 1) % 2 ^ 64 = sumFrom own k n % 2 ^ 64 := by
  induction n generalizing k with
  | zero => exact congrArg (· % 2 ^ 64) (sumFrom_zero k (k + 1))
  | succ n ih =>
    have hrec := ih (k + 1)
    rw [treeFrom]
    generalize treeFrom step own (k + 1) n = sent at hrec ⊢
    have hnode := nodeValue_add step own hstep sent k
    have hroot : mgetD (mset sent k (nodeValue step own sent k)) k 0 = nodeValue step own sent k := by
      rw [mgetD_mset, if_pos rfl]
    have hothers : sumFrom (fun j => mgetD (mset sent k (nodeValue step own sent k)) j 0) (k + 1) k =
        sumFrom (fun j => mgetD sent j 0) (k + 1) k :=
      sumFrom_congr _ _ _ _ fun j hj _ => by rw [mgetD_mset, if_neg (by omega)]
    have hchildren : k + 1 + k = 2 * k + 1 ∧ k + 1 + (k + 1) = 2 * k + 2 := by omega
    rw [sumFrom_last, sumFrom_last, hchildren.1, hchildren.2] at hrec
    rw [sumFrom_first, hroot, hothers, sumFrom_first own]
    omega

/-- A tree of sums modulo 2^64 computes the sum of the members' own values modulo 2^64. -/
theorem treeValue_sum (hown : ∀ j, own j < 2 ^ 64) (m : Nat) (hm : 0 < m) :
    treeValue step m own = ((List.range m).map own).sum % 2 ^ 64 := by
  obtain ⟨n, rfl⟩ : ∃ n, m = n + 1 := ⟨m - 1, by omega⟩
  have hsum : treeValue step (n + 1) own % 2 ^ 64 = ((List.range (n + 1)).map own).sum % 2 ^ 64 := by
    rw [treeValue_eq_treeFrom, List.range_eq_range']
    exact sum_roots_treeFrom step own hstep (n + 1) 0
  have hlt : treeValue step (n + 1) own < 2 ^ 64 := by
    rw [treeValue_eq_treeFrom, treeFrom, mgetD_mset, if_pos rfl]
    exact nodeValue_lt step own hstep hown _ 0
  rw [← hsum, Nat.mod_eq_of_lt hlt]

end

/-- A collective's sum of fx64 elements, in either mode and on every tree, is their sum modulo 2^64 (17 R367). -/
theorem reduceElem_fx64_sum (exact : Bool) (m tree : Nat) (own : Nat → DWord) (hm : 0 < m) :
    reduceElem .fx64 0 exact m tree (fun r => (own r).toNat) = ((List.range m).map fun r => (own r).toNat).sum % 2 ^ 64 := by
  have htree : reduceElem .fx64 0 exact m tree (fun r => (own r).toNat) =
      treeValue (fastAdd .fx64) m fun j => (own (rankAt m tree j)).toNat := by
    cases exact <;> rfl
  have hperm := ((map_rankAt_perm m tree).map fun r => (own r).toNat).sum_nat
  rw [List.map_map] at hperm
  rw [htree, ← hperm]
  exact treeValue_sum (fastAdd .fx64) _ (fun _ _ => rfl) (fun j => (own _).isLt) m hm

/-- The signed and the unsigned readings of some words have the same sum modulo 2^64. -/
theorem sum_toInt_mod (xs : List DWord) : (xs.map BitVec.toInt).sum % 2 ^ 64 = ((xs.map BitVec.toNat).sum % 2 ^ 64 : Nat) := by
  induction xs with
  | nil => rfl
  | cons x xs ih =>
    have hx : x.toInt = x.toNat ∨ x.toInt = x.toNat - 2 ^ 64 := by
      rw [BitVec.toInt_eq_toNat_cond]
      split
      · exact Or.inl rfl
      · exact Or.inr rfl
    simp only [List.map_cons, List.sum_cons]
    omega

/-! ### Sums of two registers (08 R202, R207, R208) -/

/-- The sum modulo 2^64 of an operand over the active lanes that have a property. -/
def activeSum (c : Ctx) (t : Ty) (a : Opnd) (p : Nat → Bool) : Nat :=
  (((List.range 96).filter fun j => c.g.em.getLsbD j && p j).map fun j => src c t a j).sum % 2 ^ 64

/-- The lanes whose values an inclusive or exclusive scan adds up for lane `l` (08 R208). -/
def scanned (excl : Bool) (l j : Nat) : Bool := if excl then j < l else j ≤ l

/-- VREDU completes with a number that is its sum modulo 2^64, and raises no flag, whichever register file it writes. -/
theorem exec_vredu_add (s : State) (f : Flight) (g : Fragment) (t : Ty) (d a : Opnd) (hi : Issues s f g) (ht : t.regs = 2)
    (hm : MayName f g [(d, 2), (a, 2)]) :
    ∃ x, x % 2 ^ 64 = activeSum (ctxOf s f g) t a (fun _ => true) ∧ exec (.vredu t .add d a) s =
      .next (retireNext (ctxOf s f g) (putAny (raise (ctxOf s f g) (flagMasks (fun _ => 0) g.em)) t d x)) := by
  obtain ⟨hsum, hflags⟩ := reduce_add t ht (fun l => g.em.getLsbD l) (src (ctxOf s f g) t a)
  refine ⟨_, hsum.trans (by simp [activeSum, ctxOf]), ?_⟩
  rw [exec_vredu, execVredu, issue_acts _ _ _ s f g hi (by rw [ht]; exact hm) (by simp), ← hflags]
  rfl

theorem mayName_subset (f : Flight) (g : Fragment) (ops ops' : List (Opnd × Nat)) (h : MayName f g ops) (hs : ops' ⊆ ops) :
    MayName f g ops' := by
  obtain ⟨hbank, hbound⟩ := h
  simp only [usesBank, List.any_eq_false] at hbank hbound
  refine ⟨fun hl => ?_, ?_⟩
  · rw [usesBank, List.any_eq_false]
    exact fun o ho => hbank hl o (hs ho)
  · rw [List.any_eq_false]
    exact fun o ho => hbound o (hs ho)

section
variable (s : State) (f : Flight) (g : Fragment) (t : Ty) (d a b : Opnd) (hi : Issues s f g) (hu : Unwatched s f)
  (ht : t.regs = 2) (hn : d.idx + 2 ≤ d.cls.size)
include hi hu ht hn

theorem setsVector_vadd64 (hm : MayName f g [(d, 2), (a, 2), (b, 2)]) (hd : IsVector d) (ha : Unread f d 2) :
    SetsVector (.vadd64 t d a b) s f g d 2
      (fun k l => wordOf ((src (ctxOf s f g) t a l + src (ctxOf s f g) t b l) % 2 ^ 64 : Nat) k) fun _ => 0 := by
  have he : exec (.vadd64 t d a b) s = .next (retireNext (ctxOf s f g) (vecs (ctxOf s f g) d 2
      fun k l => wordOf (src (ctxOf s f g) t a l + src (ctxOf s f g) t b l : Nat) k)) := by
    rw [exec_vadd64, execVadd64, issue_acts _ _ _ s f g hi hm (by simp), vecPut_eq_vecs, ht]
  exact setsVector_congr _ s f g d 2 _ _ _ _ (setsVector_plain _ s f g d 2 _ hi hu hd hn ha he)
    (fun k l hk _ _ => (wordOf_mod _ hk).symm) fun _ _ _ => rfl

theorem setsVector_vscan_add (excl : Bool) (hm : MayName f g [(d, 2), (a, 2)]) (hd : IsVector d) (ha : Unread f d 2) :
    SetsVector (.vscan t .add excl d a) s f g d 2
      (fun k l => wordOf (activeSum (ctxOf s f g) t a (scanned excl l)) k) fun _ => 0 := by
  have he : exec (.vscan t .add excl d a) s = .next (retireNext (ctxOf s f g) (vecFlt (ctxOf s f g) t d fun l =>
      reduce t .add (fun j => g.em.getLsbD j && scanned excl l j) (src (ctxOf s f g) t a))) := by
    rw [exec_vscan, execVscan, issue_acts _ _ _ s f g hi (by rw [ht]; exact hm) (by simp)]
    rfl
  have hw := setsVector_vecFlt _ s f g t d _ hi hu hd (by rw [ht]; exact hn) (by rw [ht]; exact ha) he
  rw [ht] at hw
  have hr (l : Nat) := reduce_add t ht (fun j => g.em.getLsbD j && scanned excl l j) (src (ctxOf s f g) t a)
  refine setsVector_congr _ s f g d 2 _ _ _ _ hw (fun k l hk _ _ => ?_) fun l _ _ => (hr l).2
  rw [← wordOf_mod _ hk, (hr l).1]
  rfl

theorem setsVector_vredu_add (hm : MayName f g [(d, 2), (a, 2)]) (hd : IsVector d) (ha : Unread f d 2) :
    SetsVector (.vredu t .add d a) s f g d 2 (fun k _ => wordOf (activeSum (ctxOf s f g) t a fun _ => true) k) fun _ => 0 := by
  obtain ⟨x, hx, he⟩ := exec_vredu_add s f g t d a hi ht hm
  rw [putAny_vector _ t d x hd, ht] at he
  refine setsVector_congr _ s f g d 2 _ _ _ _ (setsVector_of _ s f g d 2 _ _ hi hu hd hn ha he) (fun k l hk _ _ => ?_) fun _ _ _ => rfl
  rw [← hx, wordOf_mod x hk]

theorem completes_vredu_add (hm : MayName f g [(d, 2), (a, 2)]) (hd : IsScalar d) :
    Completes (.vredu t .add d a) s f g (g.pc + 8) fun t' f' g' =>
      ScalarWrite f f' g g' d ((List.range 2).map (wordOf (activeSum (ctxOf s f g) t a fun _ => true))) ∧ VectorsSame s t' f f' ∧
        ∀ l, l < 96 → laneFlags f' l = laneFlags f l := by
  obtain ⟨x, hx, he⟩ := exec_vredu_add s f g t d a hi ht hm
  have hwords : (List.range t.regs).map (wordOf x) =
      (List.range 2).map (wordOf (activeSum (ctxOf s f g) t a fun _ => true)) := by
    rw [ht]
    exact List.map_congr_left fun k hk => by rw [← hx, wordOf_mod x (List.mem_range.1 hk)]
  obtain ⟨-, -, hf, -⟩ := puts_rest (raise (ctxOf s f g) (flagMasks (fun _ => 0) g.em)) d ((List.range t.regs).map (wordOf x))
  rw [putAny_scalar _ t d x hd, retireNext_obs _ _ _ (by rw [hf]; exact hu.1), hwords] at he
  obtain ⟨t', f', g', hstep, hfl, hfr, hout, hsib, hfrag, hflight, hw, hv, hflags⟩ :=
    completes_puts_raise _ s f g d _ _ hi hu hd (by simpa using hn) he
  exact ⟨t', f', g', hstep, hfl, hfr, hout, hsib, hfrag, hflight, hw, hv, fun l hl => (hflags l hl).trans (by simp)⟩

end

/-- Settles O13: the vector instructions by `reduce_add` and `wordOf_mod`, AADD by definition, the Bridle engine by
`reduceElem_fx64_sum`; a sum does not depend on order because list sums do not. -/
theorem fixedPointSums : Obligations.FixedPointSums := by
  refine ⟨fun s f g d a b hi hu hm hn => ⟨fun hd ha => ?_, fun hd => ?_⟩, fun sc img nt d m x v k => rfl,
    fun exact m tree own hm => reduceElem_fx64_sum exact m tree own hm,
    fun xs ys h => ⟨by rw [(h.map BitVec.toNat).sum_nat], sum_toInt_mod xs⟩⟩
  · have hm' := mayName_subset f g _ [(d, 2), (a, 2)] hm (by simp)
    exact ⟨setsVector_vadd64 s f g .fx64 d a b hi hu rfl hn hm hd ha, setsVector_vredu_add s f g .fx64 d a hi hu rfl hn hm' hd ha,
      setsVector_vscan_add s f g .fx64 d a hi hu rfl hn false hm' hd ha,
      setsVector_vscan_add s f g .fx64 d a hi hu rfl hn true hm' hd ha⟩
  · exact completes_vredu_add s f g .fx64 d a hi hu rfl hn (mayName_subset f g _ _ hm (by simp)) hd

end Sys2Proof.Machine
end

section
/-!
SUPPORT. Decoding and encoding agree (02 R12-R38): each field of an encoded word, the details of each operand position, and the tables of
the four forms.
-/
namespace Sys2Proof

/-! ### Numbers, conditions and lists

The package is built on Lean's core library alone, so what it lacks stands here once. -/

theorem beq_eq_decide {α : Type} [BEq α] [LawfulBEq α] [DecidableEq α] (a b : α) : (a == b) = decide (a = b) := by
  by_cases h : a = b <;> simp [h]

/-- A field of one bit is 1 where its flag is set. -/
@[simp] theorem flag_beq_one (b : Bool) : (b.toNat == 1) = b := by cases b <;> rfl

/-- A choice over conditions that hold together, between values that are equal one by one. -/
theorem ite_iff {α : Type} {p q : Prop} [Decidable p] [Decidable q] {x y : α} (h : p ↔ q) : (if p then x else y) = if q then x else y := by
  by_cases hq : q <;> simp [h, hq]

theorem ite_ite_or {α : Type} (p q : Prop) [Decidable p] [Decidable q] (x y : α) :
    (if p ∨ q then x else y) = if p then x else if q then x else y := by
  by_cases hp : p <;> simp [hp]

theorem mem_of_mem_filter {α : Type} {p : α → Bool} {a : α} {l : List α} (h : a ∈ l.filter p) : a ∈ l := (List.mem_filter.1 h).1

/-- Two members of a list with one key are one, where no key stands twice. -/
theorem eq_of_key {α κ : Type} {k : α → κ} {l : List α} (hnd : (l.map k).Nodup) {x y : α} (hx : x ∈ l) (hy : y ∈ l) (h : k x = k y) :
    x = y := by
  induction l with
  | nil => exact absurd hx (List.not_mem_nil)
  | cons a l ih =>
    obtain ⟨ha, hl⟩ := List.nodup_cons.1 hnd
    have hout (z : α) (hz : z ∈ l) : k a ≠ k z := fun he => ha (he ▸ List.mem_map_of_mem hz)
    rcases List.mem_cons.1 hx with rfl | hx' <;> rcases List.mem_cons.1 hy with rfl | hy'
    · rfl
    · exact absurd h (hout y hy')
    · exact absurd h.symm (hout x hx')
    · exact ih hl hx' hy'

/-! ### Fields (02 R15-R22, R28-R33) -/

@[simp] theorem tyV_tyCode (t : Ty) : tyV (tyCode t) = t := by cases t <;> rfl
@[simp] theorem tyOf_tyCode (t : Ty) : tyOf (tyCode t) = some t := by cases t <;> rfl
@[simp] theorem rmOf_rmCode (r : Rm) : rmOf (rmCode r) = r := by cases r <;> rfl
@[simp] theorem condOf_condCode (c : Cond) : condOf (condCode c) = c := by cases c <;> rfl
@[simp] theorem fcondOf_fcondCode (c : FCond) : fcondOf (fcondCode c) = c := by cases c <;> rfl
@[simp] theorem ccOf_ccCode (c : Cc) : ccOf (ccCode c) = c := by cases c <;> rfl
@[simp] theorem redOpOf_redOpCode (o : RedOp) : redOpOf (redOpCode o) = o := by cases o <;> rfl
@[simp] theorem shModeOf_shModeCode (m : ShMode) : shModeOf (shModeCode m) = m := by cases m <;> rfl
@[simp] theorem scopeOf_scopeCode (s : Scope) : scopeOf (scopeCode s) = s := by cases s <;> rfl
@[simp] theorem fenceKindOf_fenceKindCode (k : FenceKind) : fenceKindOf (fenceKindCode k) = k := by cases k <;> rfl
@[simp] theorem collKindOf_collKindCode (k : CollKind) : collKindOf (collKindCode k) = k := by cases k <;> rfl
@[simp] theorem treeQueryOf_treeQueryCode (q : TreeQuery) : treeQueryOf (treeQueryCode q) = q := by cases q <;> rfl
@[simp] theorem widthOf_widthCode (x : Width) : widthOf (widthCode x) = x := by cases x <;> rfl
@[simp] theorem feOf_feCode (x : Fe) : feOf (feCode x) = x := by cases x <;> rfl
@[simp] theorem atyOf_atyCode (t : AType) : atyOf (atyCode t).1 (atyCode t).2 = some t := by cases t <;> rfl

theorem bscopeOf_bscopeCode (s : Scope) (h : bsOk s = true) : bscopeOf (bscopeCode s) = s := by cases s <;> first | rfl | cases h

/-! Every code fits its field. -/

@[simp] theorem tyCode_lt (t : Ty) : tyCode t < 16 := by cases t <;> decide
@[simp] theorem rmCode_le (r : Rm) : rmCode r ≤ 4 := by cases r <;> decide
@[simp] theorem rmCode_lt (r : Rm) : rmCode r < 16 := by cases r <;> decide
@[simp] theorem condCode_le (c : Cond) : condCode c ≤ 5 := by cases c <;> decide
@[simp] theorem condCode_lt (c : Cond) : condCode c < 16 := by cases c <;> decide
@[simp] theorem fcondCode_le (c : FCond) : fcondCode c ≤ 7 := by cases c <;> decide
@[simp] theorem fcondCode_lt (c : FCond) : fcondCode c < 16 := by cases c <;> decide
@[simp] theorem ccCode_le (c : Cc) : ccCode c ≤ 5 := by cases c <;> decide
@[simp] theorem redOpCode_le (o : RedOp) : redOpCode o ≤ 5 := by cases o <;> decide
@[simp] theorem redOpCode_lt (o : RedOp) : redOpCode o < 16 := by cases o <;> decide
@[simp] theorem shModeCode_le (m : ShMode) : shModeCode m ≤ 3 := by cases m <;> decide
@[simp] theorem shModeCode_lt (m : ShMode) : shModeCode m < 16 := by cases m <;> decide
@[simp] theorem scopeCode_lt (s : Scope) : scopeCode s < 8 := by cases s <;> decide
@[simp] theorem bscopeCode_lt (s : Scope) : bscopeCode s < 16 := by cases s <;> decide
@[simp] theorem fenceKindCode_le (k : FenceKind) : fenceKindCode k ≤ 3 := by cases k <;> decide
@[simp] theorem fenceKindCode_lt (k : FenceKind) : fenceKindCode k < 16 := by cases k <;> decide
@[simp] theorem collKindCode_le (k : CollKind) : collKindCode k ≤ 4 := by cases k <;> decide
@[simp] theorem collKindCode_lt (k : CollKind) : collKindCode k < 16 := by cases k <;> decide
@[simp] theorem treeQueryCode_le (q : TreeQuery) : treeQueryCode q ≤ 3 := by cases q <;> decide
@[simp] theorem treeQueryCode_lt (q : TreeQuery) : treeQueryCode q < 16 := by cases q <;> decide
@[simp] theorem widthCode_le (x : Width) : widthCode x ≤ 5 := by cases x <;> decide
@[simp] theorem feCode_le (x : Fe) : feCode x ≤ 3 := by cases x <;> decide

@[simp] theorem sp_lt (o : Opnd) : sp o < 512 := by cases o <;> simp only [sp] <;> omega

@[simp] theorem opndOf_sp (o : Opnd) : opndOf (sp o) = some o := by
  cases o with
  | v n => simp [opndOf, sp, n.isLt]
  | s n => revert n; decide
  | ss n => revert n; decide
  | vt n => revert n; decide
  | imm n => revert n; decide
  | cst n => revert n; decide

@[simp] theorem op_sp (o : Opnd) : op (sp o) = o := by simp [op]

/-- A scalar destination has a specifier that is not 0x000, so that an optional one is absent exactly where the field is 0 (05 R134). -/
theorem sp_ne_zero (o : Opnd) (h : sDst 1 o = true) : sp o ≠ 0 := by
  cases o <;> simp [sDst, okOp, Opnd.cls, sp] at h ⊢

theorem oo_spo (d : Option Opnd) (h : oDst d = true) : oo (spo d) = d := by
  cases d with
  | none => rfl
  | some o => simp [oo, spo, sp_ne_zero o h]

@[simp] theorem spo_lt (d : Option Opnd) : spo d < 512 := by
  cases d with
  | none => decide
  | some o => exact sp_lt o

@[simp] theorem maskOf_maskSp (m : Fin 24) : maskOf (maskSp m) = m := by revert m; decide
@[simp] theorem maskSp_lt (m : Fin 24) : maskSp m < 512 := by unfold maskSp; omega
@[simp] theorem fin16_val (n : Fin 16) : fin16 n.val = n := by revert n; decide
@[simp] theorem fin4_val (n : Fin 4) : fin4 n.val = n := by revert n; decide
@[simp] theorem maskK_val (m : Fin 24) : maskK m.val = m := by revert m; decide

/-! ### Details (02 R38) -/

/-- At supervisor level a word is refused for a detail other than 6. -/
def Passes (ds : List Nat) : Prop := ∀ d ∈ ds, d = 6

/-- A form's table names instruction `i`, and nothing refuses it. -/
def Admits (x : Option (List Nat × Instr)) (i : Instr) : Prop := ∃ ds, x = some (ds, i) ∧ Passes ds

@[simp] theorem admits_some (ds : List Nat) (i j : Instr) : Admits (some (ds, i)) j ↔ Passes ds ∧ i = j := by
  simp only [Admits, Option.some.injEq, Prod.mk.injEq]
  exact ⟨fun ⟨_, ⟨h, hi⟩, hp⟩ => ⟨h ▸ hp, hi⟩, fun ⟨hp, hi⟩ => ⟨_, ⟨rfl, hi⟩, hp⟩⟩

@[simp] theorem passes_nil : Passes [] := by simp [Passes]
@[simp] theorem passes_six : Passes [6] := by simp [Passes]
@[simp] theorem passes_append (xs ys : List Nat) : Passes (xs ++ ys) ↔ Passes xs ∧ Passes ys := by
  simp [Passes, or_imp, forall_and]
theorem passes_chk (d : Nat) (c : Bool) (h : d ≠ 6) : Passes (chk d c) ↔ c = true := by
  cases c <;> simp [Passes, chk, h]
@[simp] theorem passes_chk_six (c : Bool) : Passes (chk 6 c) := by cases c <;> simp [Passes, chk]
@[simp] theorem passes_chk2 (c : Bool) : Passes (chk 2 c) ↔ c = true := passes_chk 2 c (by decide)
@[simp] theorem passes_chk3 (c : Bool) : Passes (chk 3 c) ↔ c = true := passes_chk 3 c (by decide)
@[simp] theorem passes_chk4 (c : Bool) : Passes (chk 4 c) ↔ c = true := passes_chk 4 c (by decide)
@[simp] theorem passes_chk5 (c : Bool) : Passes (chk 5 c) ↔ c = true := passes_chk 5 c (by decide)
@[simp] theorem passes_chk7 (c : Bool) : Passes (chk 7 c) ↔ c = true := passes_chk 7 c (by decide)
@[simp] theorem passes_chk8 (c : Bool) : Passes (chk 8 c) ↔ c = true := passes_chk 8 c (by decide)
@[simp] theorem passes_pu (v : Nat) : Passes (pu v) ↔ v = 0 := by simp [pu]
@[simp] theorem passes_pt0 (v : Nat) : Passes (pt0 v) ↔ v = 0 := by simp [pt0]
@[simp] theorem passes_fx (v c : Nat) : Passes (fx v c) ↔ v = c := by simp [fx]
@[simp] theorem passes_pz_zero : Passes (pz 0) := by simp [pz]; decide

/-- An operand that the form admits passes the checks of its position (02 R21). -/
@[simp] theorem passes_pc (cl : List Cls) (t : Ty) (k : Nat) (o : Opnd) : Passes (pc cl t k (sp o)) ↔ okOp cl t k o = true := by
  unfold pc okOp
  rw [opndOf_sp]
  by_cases h : cl.contains o.cls = true
  · simp only [h, Bool.not_true, Bool.false_eq_true, if_false, passes_append, passes_chk5, passes_chk_six, passes_chk8]
    simp [and_assoc]
  · simp only [h, Bool.not_false, if_true]
    simp [Passes]

@[simp] theorem passes_pt (adm : List Ty) (t : Ty) : Passes (pt adm (tyCode t)) ↔ adm.contains t = true := by simp [pt]

@[simp] theorem passes_po (d : Option Opnd) (h : oDst d = true) : Passes (po (spo d)) := by
  cases d with
  | none => simp [po, spo]
  | some o =>
    simp only [po, spo, beq_iff_eq, sp_ne_zero o h, if_false, passes_pc]
    exact h

@[simp] theorem passes_pm (m : Fin 24) : Passes (pm (maskSp m)) := by
  have h : ∀ m, pm (maskSp m) = [] := by decide
  simp [h]

@[simp] theorem passes_pcmp (o : Opnd) : Passes (pcmp (sp o)) ↔ cmpDst o = true := by
  unfold pcmp
  rw [opndOf_sp]
  cases o <;> simp [cmpDst, Passes, chk]

/-- A word decodes to the instruction that its form's table names and nothing refuses. -/
theorem decode_of_admits (w : DWord) (i : Instr) (h : Admits (decodeRaw w) i) : decode true w = .ok i := by
  obtain ⟨ds, hraw, hp⟩ := h
  have hf : ds.filter (fun d => d != 6 || !true) = [] := by
    rw [List.filter_eq_nil_iff]
    intro d hd
    simp [hp d hd]
  unfold decode
  rw [hraw]
  simp only [hf, lowest]

/-! The operand checks of well-formedness (02 R19-R21), as the decoder's classes. -/

@[simp] theorem sDst_eq (k : Nat) (o : Opnd) : sDst k o = okOp sdC .u32 k o := rfl
@[simp] theorem sSrc_eq (k : Nat) (o : Opnd) : sSrc k o = okOp ssC .u32 k o := rfl
@[simp] theorem vDst_eq (k : Nat) (o : Opnd) : vDst k o = okOp vdC .u32 k o := rfl
@[simp] theorem vSrc_eq (t : Ty) (o : Opnd) : vSrc t o = okOp vsC t t.regs o := rfl
@[simp] theorem iSrc_eq (o : Opnd) : iSrc o = okOp isC .u32 1 o := rfl
@[simp] theorem vOnly_eq (k : Nat) (o : Opnd) : vOnly k o = okOp [.V] .u32 k o := rfl
@[simp] theorem pBlk_eq (o : Opnd) : pBlk o = okOp [.S] .u32 8 o := rfl
@[simp] theorem anyDst_eq (k : Nat) (o : Opnd) : anyDst k o = okOp anyC .u32 k o := rfl
@[simp] theorem regs_u32 : Ty.u32.regs = 1 := rfl
@[simp] theorem regs_f32 : Ty.f32.regs = 1 := rfl

/-! The sets of types (02 R15), as the decoder lists them. -/

theorem i32_eq (t : Ty) : t.i32 = [Ty.u32, .s32].contains t := by cases t <;> decide
theorem isFp_eq (t : Ty) : t.isFp = [Ty.f32, .f16x2, .bf16x2, .f64, .f16, .bf16].contains t := by cases t <;> decide
theorem fsingle_eq (t : Ty) : t.fsingle = [Ty.f32, .f64, .f16, .bf16].contains t := by cases t <;> decide
theorem sfu_eq (t : Ty) : t.sfu = [Ty.f32, .f16, .bf16].contains t := by cases t <;> decide
theorem contr_eq (t : Ty) : t.contr = [Ty.f32, .f16, .bf16, .dxb8, .dxb6, .dxb4].contains t := by cases t <;> decide
theorem isDxb_eq (t : Ty) : t.isDxb = [Ty.dxb8, .dxb6, .dxb4].contains t := by cases t <;> decide
theorem not_isDxb_eq (t : Ty) :
    (!t.isDxb) = [Ty.u32, .s32, .u64, .s64, .f32, .f16x2, .bf16x2, .f64, .fx64, .f16, .bf16].contains t := by cases t <;> decide

/-! ### The F form (02 R14-R18) -/

/-- The fields of a word that is built of them (02 R14). -/
theorem ffOf_fW (opc dst sa sb sc ty q1 q2 q3 : Nat) (h1 : dst < 512) (h2 : sa < 512) (h3 : sb < 512) (h4 : sc < 512) (h5 : ty < 16)
    (h6 : q1 < 16) (h7 : q2 < 16) (h8 : q3 < 16) : ffOf (fW opc dst sa sb sc ty q1 q2 q3) = ⟨dst, sa, sb, sc, ty, q1, q2, q3⟩ := by
  simp only [ffOf, fW, FF.mk.injEq]
  omega

/-- An encoded word decodes to instruction `i`. -/
def Decodes (n : Nat) (i : Instr) : Prop := decode true (BitVec.ofNat 64 n) = .ok i

/-- A word whose form (02 R13) is the F form decodes as its table says. -/
theorem decodes_f (n : Nat) (i : Instr) (hn : n < 2 ^ 62) (h : Admits (decodeF n) i) : Decodes n i := by
  apply decode_of_admits
  have h64 : (BitVec.ofNat 64 n).toNat = n := by rw [BitVec.toNat_ofNat]; omega
  have h62 : n / 2 ^ 62 = 0 := by omega
  unfold decodeRaw
  simp only [h64, h62]
  exact h

/-- The tables of the F form by opcode range (02 R35), but for NOP, WAIT and the immediate variants. -/
def fTable (f : FF) (opc : Nat) : Option (List Nat × Instr) :=
  if opc < 0x40 then fScalar f opc else if opc < 0x80 then fVector f opc else if opc < 0xC0 then fFloat f opc
  else if opc < 0x140 then fUnit f opc else fSystem f opc

section
variable {opc dst sa sb sc ty q1 q2 q3 : Nat} {i : Instr}

theorem decodes_fW (ho : 0 < opc ∧ opc < 0x200 ∧ opc ≠ 0x1C)
    (hb : dst < 512 ∧ sa < 512 ∧ sb < 512 ∧ sc < 512 ∧ ty < 16 ∧ q1 < 16 ∧ q2 < 16 ∧ q3 < 16)
    (h : Admits (fTable ⟨dst, sa, sb, sc, ty, q1, q2, q3⟩ opc) i) : Decodes (fW opc dst sa sb sc ty q1 q2 q3) i := by
  obtain ⟨h0, h1, h2⟩ := ho
  obtain ⟨b1, b2, b3, b4, b5, b6, b7, b8⟩ := hb
  have hopc : fW opc dst sa sb sc ty q1 q2 q3 / 2 ^ 52 % 1024 = opc := by unfold fW; omega
  refine decodes_f _ i (by unfold fW; omega) ?_
  unfold decodeF
  rw [ffOf_fW _ _ _ _ _ _ _ _ _ b1 b2 b3 b4 b5 b6 b7 b8]
  simp only [hopc, beq_iff_eq, Nat.ne_of_gt h0, h2, h1, if_false, if_true]
  exact h

theorem decodes_iW (imm : BitVec 25) (ho : 0x200 ≤ opc ∧ opc < 0x400) (hb : dst < 512 ∧ sa < 512)
    (h : ∀ f : FF, f.dst = dst → f.sa = sa → f.sb = 0 → Admits (fImm f imm opc) i) : Decodes (iW opc dst sa imm) i := by
  obtain ⟨h0, h1⟩ := ho
  obtain ⟨b1, b2⟩ := hb
  have hi := imm.isLt
  have hopc : iW opc dst sa imm / 2 ^ 52 % 1024 = opc := by unfold iW; omega
  have himm : BitVec.ofNat 25 (iW opc dst sa imm) = imm := by
    apply BitVec.eq_of_toNat_eq
    rw [BitVec.toNat_ofNat]
    unfold iW; omega
  refine decodes_f _ i (by unfold iW; omega) ?_
  have hh := h (ffOf (iW opc dst sa imm)) (by simp only [ffOf, iW]; omega) (by simp only [ffOf, iW]; omega) (by simp only [ffOf, iW]; omega)
  have e : ∀ k, k ≤ 0x200 → ¬ opc < k := by omega
  have e0 : opc ≠ 0 := by omega
  have e1 : opc ≠ 0x1C := by omega
  unfold decodeF
  simp only [hopc, himm, beq_iff_eq, e0, e1, if_false]
  simp only [e 0x40 (by decide), e 0x80 (by decide), e 0xC0 (by decide), e 0x140 (by decide), e 0x200 (by decide), if_false]
  exact hh

end

theorem rmCode_le_one (r : Rm) : rmCode r ≤ 1 ↔ r = .dyn ∨ r = .rne := by cases r <;> decide
theorem scopeCode_le_six (s : Scope) : scopeCode s ≤ 6 ↔ s ≠ .relaxed := by cases s <;> decide
theorem bscopeCode_le_five (s : Scope) : bscopeCode s ≤ 5 ↔ bsOk s = true := by cases s <;> decide

/-- A register number in the two fields q2 and q3 (06 R160). -/
theorem ofNat_div_add_mod (n : BitVec 8) : BitVec.ofNat 8 (16 * (n.toNat / 16) + n.toNat % 16) = n := by
  rw [Nat.div_add_mod, BitVec.ofNat_toNat, BitVec.setWidth_eq]

@[simp] theorem passes_pt_u32 : Passes (pt [Ty.u32] 0) := (passes_pt _ .u32).2 rfl
@[simp] theorem passes_pt_s32 : Passes (pt [Ty.s32] 1) := (passes_pt _ .s32).2 rfl
@[simp] theorem passes_pt_f32 : Passes (pt [Ty.f32] 4) := (passes_pt _ .f32).2 rfl

/-! ### The M form (02 R28-R32) -/

/-- The fields of an M-form word that is built of them (02 R28). -/
theorem mfOf_mW (opc dt : Nat) (m : MAddr) (wd sc fe : Nat) (img ord nt : Bool) (h1 : dt < 512) (h2 : wd < 8) (h3 : sc < 8) (h4 : fe < 4) :
    mfOf (mW opc dt m wd sc fe img ord nt) =
      ⟨dt, m.vec.toNat, m.k.val, m.off.toNat, wd, sc, fe, img.toNat, ord.toNat, nt.toNat⟩ := by
  have hv := m.vec.toNat_lt
  have hi := img.toNat_lt
  have ho := ord.toNat_lt
  have hn := nt.toNat_lt
  have hk := m.k.isLt
  have hoff := m.off.isLt
  simp only [mfOf, mW, MF.mk.injEq]
  omega

/-- The base and offset that the fields of a memory operand give are the operand's (02 R28). -/
theorem addr_fields (m : MAddr) (dt wd sc fe img ord nt : Nat) :
    MF.addr ⟨dt, m.vec.toNat, m.k.val, m.off.toNat, wd, sc, fe, img, ord, nt⟩ = m := by
  obtain ⟨v, k, off⟩ := m
  have hk : (⟨k.val % 96, Nat.mod_lt _ (by decide)⟩ : Fin 96) = k := Fin.ext (Nat.mod_eq_of_lt k.isLt)
  cases v <;> simp [MF.addr, hk]

theorem decodes_mW {opc dt : Nat} {m : MAddr} {wd sc fe : Nat} {img ord nt : Bool} {i : Instr} (ho : opc < 1024)
    (hb : dt < 512 ∧ wd < 8 ∧ sc < 8 ∧ fe < 4)
    (h : ∀ n, mfOf n = ⟨dt, m.vec.toNat, m.k.val, m.off.toNat, wd, sc, fe, img.toNat, ord.toNat, nt.toNat⟩ → n / 2 ^ 52 % 1024 = opc →
      Admits (decodeM n) i) : Decodes (mW opc dt m wd sc fe img ord nt) i := by
  obtain ⟨b1, b2, b3, b4⟩ := hb
  have hv := m.vec.toNat_lt
  have hi := img.toNat_lt
  have hord := ord.toNat_lt
  have hn := nt.toNat_lt
  have hk := m.k.isLt
  have hoff := m.off.isLt
  apply decode_of_admits
  have h64 : (BitVec.ofNat 64 (mW opc dt m wd sc fe img ord nt)).toNat = mW opc dt m wd sc fe img ord nt := by
    rw [BitVec.toNat_ofNat]; unfold mW; omega
  have h62 : mW opc dt m wd sc fe img ord nt / 2 ^ 62 = 2 := by unfold mW; omega
  unfold decodeRaw
  simp only [h64, h62]
  exact h _ (mfOf_mW opc dt m wd sc fe img ord nt b1 b2 b3 b4) (by unfold mW; omega)

/-! ### The X form (02 R33) -/

theorem decodes_xW {xop mid : Nat} {v : Word} {i : Instr} (hx : xop < 64) (hm : mid < 2 ^ 24)
    (h : ∀ n, n / 2 ^ 56 % 64 = xop → n / 2 ^ 32 % 2 ^ 24 = mid → n % 2 ^ 32 = v.toNat → BitVec.ofNat 32 n = v → Admits (decodeX n) i) :
    Decodes (xW xop mid v) i := by
  have hv := v.isLt
  apply decode_of_admits
  have h64 : (BitVec.ofNat 64 (xW xop mid v)).toNat = xW xop mid v := by
    rw [BitVec.toNat_ofNat]; unfold xW; omega
  have h62 : xW xop mid v / 2 ^ 62 = 3 := by unfold xW; omega
  have hlow : xW xop mid v % 2 ^ 32 = v.toNat := by unfold xW; omega
  unfold decodeRaw
  simp only [h64, h62]
  refine h _ (by unfold xW; omega) (by unfold xW; omega) hlow ?_
  apply BitVec.eq_of_toNat_eq
  rw [BitVec.toNat_ofNat, hlow]

/-! ### The P form (02 R24-R26) -/

theorem popOf_popCode (o : POp) : popOf (popCode o) = some o := by cases o <;> rfl

theorem halfW_lt (h : PHalf) : halfW h < 2 ^ 31 := by
  have h1 : popCode h.op < 64 := by cases h.op <;> decide
  have h2 := h.x.d.isLt
  have h3 := sp_lt h.x.s
  have h4 := tyCode_lt h.x.ty
  have h5 := h.x.pq.isLt
  unfold halfW
  omega

/-- Bits whose fields are those of an admitted half give it, and nothing refuses it (02 R25). -/
theorem halfOf_fields (n : Nat) (h : PHalf) (hw : h.wf = true) (ho : n / 2 ^ 25 % 64 = popCode h.op) (hd : n / 2 ^ 17 % 256 = h.x.d.val)
    (hs : n / 2 ^ 8 % 512 = sp h.x.s) (ht : n / 2 ^ 4 % 16 = tyCode h.x.ty) (hq : n % 16 = h.x.pq.val) :
    ∃ ds, halfOf n = some (ds, h) ∧ Passes ds := by
  obtain ⟨o, d, s, ty, q⟩ := h
  unfold halfOf
  simp only [ho, hd, hs, ht, hq, popOf_popCode, op_sp, tyV_tyCode, fin16_val]
  refine ⟨_, rfl, ?_⟩
  clear ho hd hs ht hq
  cases o with
  | nop =>
    simp [PHalf.wf] at hw
    obtain ⟨⟨⟨hd, hs⟩, ht⟩, hq⟩ := hw
    simp [hd, hs, ht, hq, sp, tyCode]
  | vfadd | vfsub | vfmul =>
    simp [PHalf.wf] at hw ⊢
    obtain ⟨⟨⟨⟨hd, hs⟩, ht⟩, hp⟩, hq⟩ := hw
    exact ⟨hd, hs, ht, hp, by omega⟩
  | vcvt =>
    simp [PHalf.wf, i32_eq] at hw ⊢
    obtain ⟨⟨hd, hs⟩, ⟨rfl, hq⟩ | ⟨rfl | rfl, hq⟩⟩ := hw <;> simp [hd, hs, hq]
  | _ =>
    simpa [PHalf.wf, i32_eq, and_assoc] using hw

/-- The bits of an admitted half give it back. -/
theorem halfOf_halfW (h : PHalf) (hw : h.wf = true) : ∃ ds, halfOf (halfW h) = some (ds, h) ∧ Passes ds := by
  have h1 : popCode h.op < 64 := by cases h.op <;> decide
  have h2 := h.x.d.isLt
  have h3 := sp_lt h.x.s
  have h4 := tyCode_lt h.x.ty
  have h5 := h.x.pq.isLt
  exact halfOf_fields _ h hw (by unfold halfW; omega) (by unfold halfW; omega) (by unfold halfW; omega) (by unfold halfW; omega)
    (by unfold halfW; omega)

theorem decodeP_pair (n : Nat) (a b : PHalf) (hw : pairWf a.op a.x b = true) (h1 : n / 2 ^ 31 % 2 ^ 31 = halfW a)
    (h2 : n % 2 ^ 31 = halfW b) : Admits (decodeP n) (mkPair a.op a.x b) := by
  simp only [pairWf, Bool.and_eq_true] at hw
  obtain ⟨⟨ha, hb⟩, hp⟩ := hw
  obtain ⟨da, hda, pa⟩ := halfOf_halfW a ha
  obtain ⟨db, hdb, pb⟩ := halfOf_halfW b hb
  rw [← h1] at hda
  rw [← h2] at hdb
  unfold decodeP
  rw [hda, hdb]
  exact (admits_some _ _ _).2 ⟨by simpa [pa, pb] using hp, rfl⟩

theorem decodes_pW (a b : PHalf) (hw : pairWf a.op a.x b = true) : Decodes (pW a b) (mkPair a.op a.x b) := by
  have la := halfW_lt a
  have lb := halfW_lt b
  apply decode_of_admits
  have h64 : (BitVec.ofNat 64 (pW a b)).toNat = pW a b := by rw [BitVec.toNat_ofNat]; unfold pW; omega
  have h62 : pW a b / 2 ^ 62 = 1 := by unfold pW; omega
  unfold decodeRaw
  simp only [h64, h62]
  exact decodeP_pair _ a b hw (by unfold pW; omega) (by unfold pW; omega)

/-! ### Unassigned opcodes (02 R35-R37) -/

theorem fScalar_none (f : FF) (opc : Nat) (h : ¬(1 ≤ opc ∧ opc ≤ 0x15 ∨ 0x17 ≤ opc ∧ opc ≤ 0x22 ∨ 0x28 ≤ opc ∧ opc ≤ 0x2E)) :
    fScalar f opc = none := by
  unfold fScalar
  split <;> simp at h ⊢

theorem fVector_none (f : FF) (opc : Nat) (h : ¬(0x40 ≤ opc ∧ opc ≤ 0x5C)) : fVector f opc = none := by
  unfold fVector
  split <;> simp at h ⊢

theorem fFloat_none (f : FF) (opc : Nat) (h : ¬(0x80 ≤ opc ∧ opc ≤ 0x99 ∨ opc = 0xA0)) : fFloat f opc = none := by
  unfold fFloat
  split <;> simp at h ⊢

theorem fUnit_none (f : FF) (opc : Nat)
    (h : ¬(0xC0 ≤ opc ∧ opc ≤ 0xC5 ∨ 0xC8 ≤ opc ∧ opc ≤ 0xCC ∨ 0xD0 ≤ opc ∧ opc ≤ 0xDA)) : fUnit f opc = none := by
  unfold fUnit
  split <;> simp at h ⊢

theorem fSystem_none (f : FF) (opc : Nat) (h : ¬(0x140 ≤ opc ∧ opc ≤ 0x147 ∨ 0x160 ≤ opc ∧ opc ≤ 0x16B)) : fSystem f opc = none := by
  unfold fSystem
  split <;> simp at h ⊢

theorem fImm_none (f : FF) (i : BitVec 25) (opc : Nat)
    (h : opc ∉ [0x201, 0x202, 0x203, 0x205, 0x206, 0x207, 0x208, 0x209, 0x20A, 0x240, 0x241, 0x242, 0x245, 0x246, 0x247, 0x249, 0x24A, 0x24B]) :
    fImm f i opc = none := by
  unfold fImm
  split <;> simp at h ⊢

theorem popOf_none (p : Nat) (h : ¬(p ≤ 0x0C ∨ 0x10 ≤ p ∧ p ≤ 0x15 ∨ 0x18 ≤ p ∧ p ≤ 0x1C)) : popOf p = none := by
  unfold popOf
  split <;> simp at h ⊢

theorem halfOf_none (n : Nat) (h : popOf (n / 2 ^ 25 % 64) = none) : halfOf n = none := by
  unfold halfOf
  simp only [h]

/-- No F-form table names an opcode that is unassigned. -/
theorem decodeF_none (n : Nat) (h0 : n / 2 ^ 62 = 0) (h : unassigned (BitVec.ofNat 64 n) = true) : decodeF n = none := by
  have h64 : (BitVec.ofNat 64 n).toNat = n := by rw [BitVec.toNat_ofNat]; omega
  have hlt : n / 2 ^ 52 % 2 ^ 10 < 1024 := by omega
  simp only [unassigned, h64, h0] at h
  unfold decodeF
  dsimp only
  rw [show (1024 : Nat) = 2 ^ 10 from rfl]
  generalize n / 2 ^ 52 % 2 ^ 10 = opc at h hlt
  generalize ffOf n = f
  by_cases h512 : opc < 0x200
  · simp only [h512, if_true] at h ⊢
    simp only [Bool.not_eq_true', Bool.or_eq_false_iff, Bool.and_eq_false_iff, decide_eq_false_iff_not, beq_eq_false_iff_ne] at h
    have e0 : (opc == 0) = false := by rw [beq_eq_false_iff_ne]; omega
    have e1 : (opc == 0x01C) = false := by rw [beq_eq_false_iff_ne]; omega
    rw [e0, e1, fScalar_none f opc (by omega), fVector_none f opc (by omega), fFloat_none f opc (by omega), fUnit_none f opc (by omega),
      fSystem_none f opc (by omega)]
    simp
  · have e0 : (opc == 0) = false := by rw [beq_eq_false_iff_ne]; omega
    have e1 : (opc == 0x01C) = false := by rw [beq_eq_false_iff_ne]; omega
    rw [if_neg h512] at h
    rw [e0, e1, fScalar_none f opc (by omega), fVector_none f opc (by omega), fFloat_none f opc (by omega), fUnit_none f opc (by omega),
      fSystem_none f opc (by omega), fImm_none f _ opc (by simpa using h)]
    simp

theorem decodeP_none (n : Nat) (h : popOf (n / 2 ^ 31 % 2 ^ 31 / 2 ^ 25 % 64) = none ∨ popOf (n % 2 ^ 31 / 2 ^ 25 % 64) = none) :
    decodeP n = none := by
  unfold decodeP
  rcases h with h | h
  · rw [halfOf_none _ h]
  · rw [halfOf_none _ h]
    cases halfOf (n / 2 ^ 31 % 2 ^ 31) <;> rfl

theorem decodeM_none (n : Nat) (h : ¬(0x100 ≤ n / 2 ^ 52 % 1024 ∧ n / 2 ^ 52 % 1024 ≤ 0x106 ∨ 0x110 ≤ n / 2 ^ 52 % 1024 ∧ n / 2 ^ 52 % 1024 ≤ 0x11A)) :
    decodeM n = none := by
  unfold decodeM
  dsimp only
  generalize n / 2 ^ 52 % 1024 = opc at h
  split <;> simp at h ⊢

theorem decodeX_none (n : Nat) (h : ¬(1 ≤ n / 2 ^ 56 % 64 ∧ n / 2 ^ 56 % 64 ≤ 0x0A)) : decodeX n = none := by
  unfold decodeX
  dsimp only
  generalize n / 2 ^ 56 % 64 = xop at h
  split <;> simp at h ⊢

/-- An opcode that is unassigned names no instruction. -/
theorem decodeRaw_unassigned (w : DWord) (h : unassigned w = true) : decodeRaw w = none := by
  have hw : BitVec.ofNat 64 w.toNat = w := by simp
  have hlt := w.isLt
  have hform : w.toNat / 2 ^ 62 = 0 ∨ w.toNat / 2 ^ 62 = 1 ∨ w.toNat / 2 ^ 62 = 2 ∨ w.toNat / 2 ^ 62 = 3 := by omega
  unfold decodeRaw
  rcases hform with h62 | h62 | h62 | h62
  · simp only [h62]
    exact decodeF_none _ h62 (by rw [hw]; exact h)
  · simp only [unassigned, h62, Bool.or_eq_true, Bool.not_eq_true', Bool.or_eq_false_iff, Bool.and_eq_false_iff, decide_eq_false_iff_not] at h ⊢
    refine decodeP_none _ ?_
    rcases h with h | h
    · exact Or.inl (popOf_none _ (by omega))
    · exact Or.inr (popOf_none _ (by omega))
  · simp only [unassigned, h62, Bool.not_eq_true', Bool.or_eq_false_iff, Bool.and_eq_false_iff, decide_eq_false_iff_not] at h ⊢
    exact decodeM_none _ (by omega)
  · simp only [unassigned, h62, Bool.not_eq_true', Bool.and_eq_false_iff, decide_eq_false_iff_not] at h ⊢
    exact decodeX_none _ (by omega)

/-! ### Every instruction -/

theorem decodes_bra (off : Word) :
    Decodes (xW 1 0 off) (.bra off) := by
  refine decodes_xW (by decide) (by decide) fun n hx hm hl hv => ?_
  simp only [decodeX, hx, hv]
  exact (admits_some _ _ _).2 ⟨by simp only [passes_pu]; omega, rfl⟩

theorem decodes_brc (q : Cc) (c : Opnd) (off : Word) (hw : (Instr.brc q c off).wf = true) :
    Decodes (xW 2 (sp c * 2 ^ 15 + ccCode q * 2 ^ 12) off) (.brc q c off) := by
  have hs := sp_lt c
  have hq := ccCode_le q
  refine decodes_xW (by decide) (by omega) fun n hx hm hl hv => ?_
  have e1 : n / 2 ^ 47 % 512 = sp c := by omega
  have e2 : n / 2 ^ 44 % 8 = ccCode q := by omega
  have e3 : n / 2 ^ 32 % 2 ^ 12 = 0 := by omega
  simp only [decodeX, hx, hv, e1, e2, e3]
  exact (admits_some _ _ _).2 ⟨by simp; exact hw, by simp⟩

theorem decodes_brv (q : Cc) (c : Opnd) (tok : Fin 16) (off : Word) (hw : (Instr.brv q c tok off).wf = true) :
    Decodes (xW 3 (sp c * 2 ^ 15 + ccCode q * 2 ^ 12 + tok.val * 2 ^ 8) off) (.brv q c tok off) := by
  have hs := sp_lt c
  have hq := ccCode_le q
  have ht := tok.isLt
  refine decodes_xW (by decide) (by omega) fun n hx hm hl hv => ?_
  have e1 : n / 2 ^ 47 % 512 = sp c := by omega
  have e2 : n / 2 ^ 44 % 8 = ccCode q := by omega
  have e3 : n / 2 ^ 40 % 16 = tok.val := by omega
  have e4 : n / 2 ^ 32 % 256 = 0 := by omega
  simp only [decodeX, hx, hv, e1, e2, e3, e4]
  exact (admits_some _ _ _).2 ⟨by simp; exact hw, by simp⟩

theorem decodes_join (tok : Fin 16) :
    Decodes (xW 4 (tok.val * 2 ^ 8) 0) (.join tok) := by
  have ht := tok.isLt
  refine decodes_xW (by decide) (by omega) fun n hx hm hl hv => ?_
  have e1 : n / 2 ^ 44 % 2 ^ 12 = 0 := by omega
  have e3 : n / 2 ^ 40 % 16 = tok.val := by omega
  have e4 : n / 2 ^ 32 % 256 = 0 := by omega
  simp only [decodeX, hx, hl, e1, e3, e4]
  exact (admits_some _ _ _).2 ⟨by simp, by simp⟩

theorem decodes_call (k : Fin 48) (off : Word) :
    Decodes (xW 5 (k.val * 2 ^ 18) off) (.call k off) := by
  have hk := k.isLt
  refine decodes_xW (by decide) (by omega) fun n hx hm hl hv => ?_
  have e1 : n / 2 ^ 50 % 64 = k.val := by omega
  have e2 : n / 2 ^ 32 % 2 ^ 18 = 0 := by omega
  simp only [decodeX, hx, hv, e1, e2]
  exact (admits_some _ _ _).2 ⟨by simp [hk], by simp [Nat.mod_eq_of_lt hk]⟩

theorem decodes_brmLanes (m : Fin 24) (tok : Fin 16) (off : Word) :
    Decodes (xW 8 (m.val * 2 ^ 19 + tok.val * 2 ^ 8) off) (.brmLanes m tok off) := by
  have hk := m.isLt
  have ht := tok.isLt
  refine decodes_xW (by decide) (by omega) fun n hx hm hl hv => ?_
  have e1 : n / 2 ^ 51 % 32 = m.val := by omega
  have e2 : n / 2 ^ 48 % 8 = 0 := by omega
  have e3 : n / 2 ^ 40 % 16 = tok.val := by omega
  have e4 : n / 2 ^ 44 % 16 = 0 := by omega
  have e5 : n / 2 ^ 32 % 256 = 0 := by omega
  simp only [decodeX, hx, hv, e1, e2, e3, e4, e5]
  exact (admits_some _ _ _).2 ⟨by simp [hk], by simp⟩

theorem decodes_brm (m : Fin 24) (off : Word) (k : Nat) (hk : 0 < k ∧ k < 4) :
    Decodes (xW 8 (m.val * 2 ^ 19 + k * 2 ^ 16) off) (.brm (if k = 1 then .all else if k = 2 then .any else .none) m off) := by
  have hm := m.isLt
  refine decodes_xW (by decide) (by omega) fun n hx hmid hl hv => ?_
  have e1 : n / 2 ^ 51 % 32 = m.val := by omega
  have e2 : n / 2 ^ 48 % 8 = k := by omega
  have e3 : n / 2 ^ 40 % 16 = 0 := by omega
  have e4 : n / 2 ^ 44 % 16 = 0 := by omega
  have e5 : n / 2 ^ 32 % 256 = 0 := by omega
  have e0 : (k == 0) = false := by rw [beq_eq_false_iff_ne]; omega
  have hle : k ≤ 3 := by omega
  simp only [decodeX, hx, hv, e1, e2, e3, e4, e5, e0]
  exact (admits_some _ _ _).2 ⟨by simp [hm, hle], by simp⟩


/-- The base pair and the width of an M-form word pass their checks (02 R28). -/
theorem passes_mBase (m : MAddr) (dt wd sc fe img ord nt : Nat) :
    Passes (mBase ⟨dt, m.vec.toNat, m.k.val, m.off.toNat, wd, sc, fe, img, ord, nt⟩) ↔ m.ok = true ∧ wd ≤ 5 := by
  obtain ⟨v, k, off⟩ := m
  have := k.isLt
  cases v <;> simp [mBase, MAddr.ok, k.isLt]

/-- The width and aty of an atomic's word pass where its type is admitted (02 R32). -/
theorem passes_mAty (t : AType) (adm : List AType) (dt bpv bpk off sc img ord nt : Nat) :
    Passes (mAty ⟨dt, bpv, bpk, off, (atyCode t).1, sc, (atyCode t).2, img, ord, nt⟩ adm) ↔ adm.contains t = true := by
  simp [mAty]

theorem passes_mAty_u32 (adm : List AType) (dt bpv bpk off sc img ord nt : Nat) :
    Passes (mAty ⟨dt, bpv, bpk, off, 2, sc, 0, img, ord, nt⟩ adm) ↔ adm.contains .u32 = true := passes_mAty .u32 adm ..

theorem passes_mAty_f32 (adm : List AType) (dt bpv bpk off sc img ord nt : Nat) :
    Passes (mAty ⟨dt, bpv, bpk, off, 2, sc, 2, img, ord, nt⟩ adm) ↔ adm.contains .f32 = true := passes_mAty .f32 adm ..

theorem atyCode_bounds (t : AType) : (atyCode t).1 < 8 ∧ (atyCode t).1 ≤ 5 ∧ (atyCode t).2 < 4 := by cases t <;> decide
theorem code_bounds (x : Width) (e : Fe) : widthCode x < 8 ∧ feCode e < 4 := by cases x <;> cases e <;> decide
theorem atype_ne_fx64 (t : AType) : t ≠ .fx64 ↔ t = .u32 ∨ t = .s32 ∨ t = .f32 ∨ t = .u64 ∨ t = .s64 := by cases t <;> decide
theorem atype_any (t : AType) : t = .u32 ∨ t = .s32 ∨ t = .f32 ∨ t = .u64 ∨ t = .s64 ∨ t = .fx64 := by cases t <;> decide

/-- The destinations of the conversions (08 R216). -/
theorem cvtOk_dst (t s : Ty) (h : cvtOk t s = true) :
    [Ty.u32, .s32, .u64, .s64, .f32, .f16x2, .bf16x2, .f64, .fx64, .f16, .bf16].contains t = true := by
  cases t <;> simp [cvtOk] at h ⊢

/-- An aligned group of an even number of vector registers starts at an even specifier (11 R262). -/
theorem sp_even (k : Nat) (d : Opnd) (h : okOp [.V] .u32 (2 * k) d = true) : sp d % 2 = 0 := by
  simp only [okOp, Bool.and_eq_true] at h
  obtain ⟨⟨⟨hc, -⟩, -⟩, hf⟩ := h
  cases d with
  | v n =>
    simp only [Opnd.fits, Opnd.cls, Opnd.idx, Bool.and_eq_true, beq_iff_eq] at hf
    exact Nat.mod_eq_zero_of_dvd (Nat.dvd_trans (Nat.dvd_mul_right 2 k) (Nat.dvd_of_mod_eq_zero hf.1))
  | _ => simp [Opnd.cls] at hc

theorem okS_iff (m : MAddr) : m.okS = true ↔ m.ok = true ∧ m.vec = false := by
  unfold MAddr.okS MAddr.ok
  cases m.vec <;> simp

theorem number_lt (n : BitVec 8) : n.toNat / 16 < 16 ∧ n.toNat % 16 < 16 := by omega

theorem decodes_encodeNat (i : Instr) (n : Nat) (hw : i.wf = true) (he : encodeNat i = some n) : Decodes n i := by
  cases i with
  | nop =>
    obtain rfl := Option.some.inj he
    exact decodes_f 0 _ (by decide) ((admits_some _ _ _).2 ⟨by simp [ffOf], rfl⟩)
  | wait l =>
    obtain rfl := Option.some.inj he
    have hl := l.isLt
    refine decodes_f _ _ (by omega) ?_
    have ho : (0x01C * 2 ^ 52 + l.toNat) / 2 ^ 52 % 1024 = 0x01C := by omega
    have hf : ffOf (0x01C * 2 ^ 52 + l.toNat) = ⟨0, 0, 0, 0, l.toNat / 2 ^ 12, l.toNat / 2 ^ 8 % 16, l.toNat / 2 ^ 4 % 16, l.toNat % 16⟩ := by
      simp only [ffOf, FF.mk.injEq]; omega
    have hv : BitVec.ofNat 16 (0x01C * 2 ^ 52 + l.toNat) = l := by
      apply BitVec.eq_of_toNat_eq; rw [BitVec.toNat_ofNat]; omega
    simp only [decodeF, ho, hf, hv]
    exact (admits_some _ _ _).2 ⟨by simp, rfl⟩
  | sadd t d a b | ssub t d a b | smul t d a b | smulh t d a b | sand t d a b | sor t d a b | sxor t d a b | sshl t d a b
  | sshr t d a b | ssar t d a b | smin t d a b | smax t d a b | scmp t q d a b | ssel t d a b x | smov t d a | spopc d a | sclz d a
  | sbfe t d a b x | sadd64 t d a b | exit | ret a | yield | regn | brkpt a | barw a b | bara a b | opfence | reggive a | regclaim a
  | regclaimTry d a | mand m a b | mor m a b | mxor m a b | mandn m a b | mpopc d m | mfirst d m | mlane m a
  | vadd t d a b | vsub t d a b | vmul t d a b | vmulh t d a b | vmad t d a b x | vand t d a b | vor t d a b | vxor t d a b
  | vandn t d a b | vshl t d a b | vshr t d a b | vsar t d a b | vmin t d a b | vmax t d a b | vabs d a | vclz d a | vpopc d a
  | vbfe t d a b x | vbfi d a b x | vcmp t q d a b | vadd64 t d a b | vmad64 t d a b x
  | vshfl t m d a b | vbcast t d a b | vredu t o d a | vfadd t r d a b | vfsub t r d a b | vfmul t r d a b | vfma t r d a b x
  | vfmin t d a b | vfmax t d a b | vfcmp t q d a b | vfclass t d a | vfrnd t r d a | vfscl t r d a b
  | vf2i t r s d a b | vi2f t r s d a b
  | vrcp t r d a | vrsq t r d a | vsqrt t r d a | vexp2 t r d a | vlog2 t r d a | vsinpi t r d a | vcospi t r d a | vtanh t r d a
  | welf r d a | wmrg r d a | vbexp t k d a | vpkx t d a b | vunpkx t d a b
  | boinit a b | accget d | accput d | accz d | accrd d a b | accwr d a b | accst d a b | scacc t d | sqpush a | sqcnt d 
  | lcancel d a | lcancelTree d a | lcntTree d a | lcntState d a | lcntGangs d a | ctree q d a b
  | trap a | tretSkip | tretRegion | tretRetry | kill m | killFault m | invlpAll | invlpIcache | invlp a | frz | frzSnap
  | dbgrd d a b | dbgwr d a b x | dstep d a | dstepIsolate d a b | accsv d a | accld d a =>
    obtain rfl := Option.some.inj he
    simp [Instr.wf, i32_eq, Ty.arith, isFp_eq, fsingle_eq, sfu_eq, isDxb_eq, redTy, or_assoc] at hw
    exact decodes_fW (by decide) (by simp) ((admits_some _ _ _).2 ⟨by simp [hw, rmCode_le_one, sfu_eq, i32_eq], by simp⟩)
  | vsel t d a b x | vmov t d a =>
    obtain rfl := Option.some.inj he
    simp only [Instr.wf, not_isDxb_eq] at hw
    simp at hw
    exact decodes_fW (by decide) (by simp) ((admits_some _ _ _).2 ⟨by simp [hw], by simp⟩)
  | vscan t o e d a =>
    obtain rfl := Option.some.inj he
    simp [Instr.wf, redTy] at hw
    cases e <;> exact decodes_fW (by decide) (by simp) ((admits_some _ _ _).2 ⟨by simp [hw], by simp⟩)
  | smovs d n | vmovs d n | smovp d n | smovq n a | smovw n a =>
    obtain rfl := Option.some.inj he
    simp [Instr.wf] at hw
    exact decodes_fW (by decide) (by simp [number_lt]) ((admits_some _ _ _).2 ⟨by simp [ofNat_div_add_mod, hw], by simp [ofNat_div_add_mod]⟩)
  | fence k s =>
    obtain rfl := Option.some.inj he
    simp [Instr.wf] at hw
    have hs := scopeCode_lt s
    exact decodes_fW (by decide) (by simp; omega) ((admits_some _ _ _).2 ⟨by simp [hw, scopeCode_le_six], by simp⟩)
  | imgq k d a b =>
    obtain rfl := Option.some.inj he
    simp [Instr.wf] at hw
    exact decodes_fW (by decide) (by simp; omega) ((admits_some _ _ _).2 ⟨by simp [hw]; omega, by simp⟩)
  | vcvt t r s d a b =>
    obtain rfl := Option.some.inj he
    simp only [Instr.wf, Bool.and_eq_true, vDst_eq, vSrc_eq] at hw
    obtain ⟨⟨⟨hc, hd⟩, ha⟩, hb⟩ := hw
    have hpass : Passes (if t == .f16x2 || t == .bf16x2 then pc vsC s s.regs (sp b) else pz (sp b)) := by
      split at hb
      next ht => rw [if_pos ht]; exact (passes_pc ..).2 hb
      next ht => rw [if_neg ht, eq_of_beq hb]; exact passes_pz_zero
    have ht := cvtOk_dst t s hc
    rw [← passes_pt] at ht
    simp only [Bool.or_eq_true, beq_iff_eq] at hpass
    exact decodes_fW (by decide) (by simp) ((admits_some _ _ _).2 ⟨by simp [hc, hd, ha, hpass, ht], by simp⟩)
  | cpy d a b | cpyg d a b | cpys d a b | cpyb d a b | sqfill d a b x | enqr d a b | cbar d a b | cput d a b | coll k d a b =>
    obtain rfl := Option.some.inj he
    simp [Instr.wf] at hw
    exact decodes_fW (by decide) (by simp) ((admits_some _ _ _).2 ⟨by simp [hw], by simp [oo_spo, hw]⟩)
  | cpyt p d a b x | enq p d a =>
    obtain rfl := Option.some.inj he
    simp [Instr.wf] at hw
    cases p <;> exact decodes_fW (by decide) (by simp) ((admits_some _ _ _).2 ⟨by simp [hw], by simp [oo_spo, hw]⟩)
  | cpytCancel x =>
    obtain rfl := Option.some.inj he
    simp [Instr.wf] at hw
    exact decodes_fW (by decide) (by simp) ((admits_some _ _ _).2 ⟨by simp [hw], by simp⟩)
  | boexp p s a b =>
    obtain rfl := Option.some.inj he
    simp [Instr.wf] at hw
    obtain ⟨⟨⟨hs, hp⟩, ha⟩, hb⟩ := hw
    cases p with
    | true =>
      exact decodes_fW (by decide) (by simp)
        ((admits_some _ _ _).2 ⟨by simp [ha, hb, hs, bscopeCode_le_five], by simp [bscopeOf_bscopeCode, hs]⟩)
    | false =>
      obtain rfl : s = .gang := by simpa using hp
      exact decodes_fW (by decide) (by simp) ((admits_some _ _ _).2 ⟨by simp [ha, hb]; decide, by simp [bscopeOf_bscopeCode, hs]⟩)
  | boarr p s d a =>
    obtain rfl := Option.some.inj he
    simp [Instr.wf] at hw
    cases p <;> exact decodes_fW (by decide) (by simp) ((admits_some _ _ _).2 ⟨by simp [hw, bscopeCode_le_five], by simp [oo_spo, bscopeOf_bscopeCode, hw]⟩)
  | bowait s a b | botry s d a b =>
    obtain rfl := Option.some.inj he
    simp [Instr.wf] at hw
    exact decodes_fW (by decide) (by simp) ((admits_some _ _ _).2 ⟨by simp [hw, bscopeCode_le_five], by simp [bscopeOf_bscopeCode, hw]⟩)
  | lcon t e d a b x =>
    obtain rfl := Option.some.inj he
    simp [Instr.wf, contr_eq] at hw
    cases e <;> exact decodes_fW (by decide) (by simp) ((admits_some _ _ _).2 ⟨by simp [hw], by simp⟩)
  | lcona t g e d a b x =>
    obtain rfl := Option.some.inj he
    simp [Instr.wf, contr_eq] at hw
    cases g <;> cases e <;> exact decodes_fW (by decide) (by simp) ((admits_some _ _ _).2 ⟨by simp [hw], by simp⟩)
  | saddI d a v | ssubI d a v | smulI d a v | sandI d a v | sorI d a v | sxorI d a v | sshlI d a v | sshrI d a v | ssarI d a v
  | vaddI d a v | vsubI d a v | vmulI d a v | vandI d a v | vorI d a v | vxorI d a v | vshlI d a v | vshrI d a v | vsarI d a v =>
    obtain rfl := Option.some.inj he
    simp [Instr.wf] at hw
    exact decodes_iW v (by decide) (by simp) fun f hd ha hb => (admits_some _ _ _).2 ⟨by simp [hd, ha, hb, hw], by simp [hd, ha]⟩
  | pNop x b | pVadd x b | pVsub x b | pVmul x b | pVand x b | pVor x b | pVxor x b | pVshl x b | pVshr x b | pVsar x b | pVmin x b
  | pVmax x b | pVmov x b | pVfadd x b | pVfsub x b | pVfmul x b | pVfmin x b | pVfmax x b | pVcvt x b | pSadd x b | pSsub x b
  | pSmov x b | pSand x b | pSor x b =>
    obtain rfl := Option.some.inj he
    exact decodes_pW ⟨_, x⟩ b hw
  | illegalWord w =>
    obtain rfl := Option.some.inj he
    simp only [Decodes, decode, BitVec.ofNat_toNat, BitVec.setWidth_eq, decodeRaw_unassigned w hw]
  | ld wd sc fe nt d m | sld wd sc fe nt d m =>
    obtain rfl := Option.some.inj he
    simp [Instr.wf, okS_iff] at hw
    refine decodes_mW (by decide) (by simp [code_bounds wd fe]) fun n hf ho => ?_
    simp only [decodeM, hf, ho]
    exact (admits_some _ _ _).2 ⟨by simp only [passes_append, passes_mBase]; simp [hw], by simp [addr_fields]⟩
  | st wd sc sf img nt d m =>
    obtain rfl := Option.some.inj he
    simp [Instr.wf] at hw
    cases sf <;> refine decodes_mW (by decide) (by simp [code_bounds wd .none]) fun n hf ho => ?_ <;> simp only [decodeM, hf, ho] <;>
      exact (admits_some _ _ _).2 ⟨by simp [passes_mBase, hw], by simp [addr_fields]⟩
  | sst wd sc sf nt d m =>
    obtain rfl := Option.some.inj he
    simp [Instr.wf, okS_iff] at hw
    cases sf <;> refine decodes_mW (by decide) (by simp [code_bounds wd .none]) fun n hf ho => ?_ <;> simp only [decodeM, hf, ho] <;>
      exact (admits_some _ _ _).2 ⟨by simp only [passes_append, passes_mBase]; simp [hw], by simp [addr_fields]⟩
  | pf nt m =>
    obtain rfl := Option.some.inj he
    simp [Instr.wf] at hw
    refine decodes_mW (by decide) (by simp) fun n hf ho => ?_
    simp only [decodeM, hf, ho]
    exact (admits_some _ _ _).2 ⟨by simp [passes_mBase, hw]; decide, by simp [addr_fields]⟩
  | fest sc full m =>
    obtain rfl := Option.some.inj he
    simp [Instr.wf] at hw
    cases full <;> refine decodes_mW (by decide) (by simp) fun n hf ho => ?_ <;> simp only [decodeM, hf, ho] <;>
      exact (admits_some _ _ _).2 ⟨by simp [passes_mBase, hw]; decide, by simp [addr_fields]⟩
  | feq sc d m =>
    obtain rfl := Option.some.inj he
    simp [Instr.wf] at hw
    refine decodes_mW (by decide) (by simp) fun n hf ho => ?_
    simp only [decodeM, hf, ho]
    exact (admits_some _ _ _).2 ⟨by simp [passes_mBase, hw], by simp [addr_fields]⟩
  | aadd t sc img nt d m | aand t sc img nt d m | aor t sc img nt d m | axor t sc img nt d m | amin t sc img nt d m
  | amax t sc img nt d m | axchg t sc img nt d m =>
    obtain rfl := Option.some.inj he
    simp [Instr.wf, atype_ne_fx64] at hw
    refine decodes_mW (by decide) (by simp [atyCode_bounds t]) fun n hf ho => ?_
    simp only [decodeM, hf, ho]
    exact (admits_some _ _ _).2 ⟨by simp [passes_mBase, passes_mAty, atyCode_bounds t, atype_any, hw], by simp [addr_fields]⟩
  | aaddOrd sc img nt d m =>
    obtain rfl := Option.some.inj he
    simp [Instr.wf] at hw
    refine decodes_mW (by decide) (by simp) fun n hf ho => ?_
    simp only [decodeM, hf, ho]
    exact (admits_some _ _ _).2 ⟨by simp [passes_mBase, passes_mAty_f32, hw]; exact hw.1, by simp [addr_fields]⟩
  | acas t sc nt d m =>
    obtain rfl := Option.some.inj he
    simp [Instr.wf] at hw
    refine decodes_mW (by decide) (by simp [atyCode_bounds t]) fun n hf ho => ?_
    simp only [decodeM, hf, ho]
    exact (admits_some _ _ _).2 ⟨by simp [passes_mBase, passes_mAty, atyCode_bounds t, hw, sp_even t.regs d hw.1.2], by simp [addr_fields]⟩
  | aincb sc nt d m | depdec sc d m =>
    obtain rfl := Option.some.inj he
    simp [Instr.wf] at hw
    refine decodes_mW (by decide) (by simp [atyCode_bounds .u32]) fun n hf ho => ?_
    simp only [decodeM, hf, ho]
    exact (admits_some _ _ _).2 ⟨by simp [passes_mBase, passes_mAty, atyCode_bounds .u32, hw], by simp [addr_fields]⟩
  | aseal sc m =>
    obtain rfl := Option.some.inj he
    simp [Instr.wf] at hw
    refine decodes_mW (by decide) (by simp) fun n hf ho => ?_
    simp only [decodeM, hf, ho]
    exact (admits_some _ _ _).2 ⟨by simp [passes_mBase, passes_mAty_f32, hw]; decide, by simp [addr_fields]⟩
  | bra off =>
    obtain rfl := Option.some.inj he
    exact decodes_bra off
  | brc q c off =>
    obtain rfl := Option.some.inj he
    exact decodes_brc q c off hw
  | brv q c tok off =>
    obtain rfl := Option.some.inj he
    exact decodes_brv q c tok off hw
  | join tok =>
    obtain rfl := Option.some.inj he
    exact decodes_join tok
  | call k off =>
    obtain rfl := Option.some.inj he
    exact decodes_call k off
  | smovi d v | vmovi d v =>
    obtain rfl := Option.some.inj he
    have hs := sp_lt d
    refine decodes_xW (by decide) (by omega) fun n hx hm hl hv => ?_
    have e1 : n / 2 ^ 47 % 512 = sp d := by omega
    have e2 : n / 2 ^ 32 % 2 ^ 15 = 0 := by omega
    simp only [decodeX, hx, hv, e1, e2]
    exact (admits_some _ _ _).2 ⟨by simp; exact hw, by simp⟩
  | saddi d a v | vaddi d a v =>
    obtain rfl := Option.some.inj he
    simp [Instr.wf] at hw
    have hd := sp_lt d
    have ha := sp_lt a
    refine decodes_xW (by decide) (by omega) fun n hx hm hl hv => ?_
    have e1 : n / 2 ^ 47 % 512 = sp d := by omega
    have e2 : n / 2 ^ 38 % 512 = sp a := by omega
    have e3 : n / 2 ^ 32 % 64 = 0 := by omega
    simp only [decodeX, hx, hv, e1, e2, e3]
    exact (admits_some _ _ _).2 ⟨by simp [hw], by simp⟩
  | brmLanes m tok off =>
    obtain rfl := Option.some.inj he
    exact decodes_brmLanes m tok off
  | brm mode m off =>
    obtain rfl := Option.some.inj he
    cases mode with
    | all => exact decodes_brm m off 1 (by decide)
    | any => exact decodes_brm m off 2 (by decide)
    | none => exact decodes_brm m off 3 (by decide)
  | _ => cases he

/-- Settles O59: each form's word has its fields (`decodes_fW`, `decodes_iW`, `decodes_pW`, `decodes_mW`, `decodes_xW`), whose table gives
the instruction back and refuses nothing that is well formed. -/
theorem decodeEncode : Obligations.DecodeEncode := by
  intro i w hw he
  obtain ⟨n, hn, rfl⟩ := Option.map_eq_some_iff.1 he
  exact decodes_encodeNat i n hw hn

end Sys2Proof
end

section
/-!
SUPPORT. Reset, the worked words and one step (02 R12, R38-R40, 06 R153): what a slot's move does with its first fragment, and what a
fetch answers.
-/
namespace Sys2Proof.Machine

/-- Settles O56: each field of the reset state has the value that its table states. -/
theorem resetState : Obligations.ResetState :=
  ⟨canonical_reset, rfl, rfl, rfl, rfl, rfl, rfl, rfl, rfl, rfl, rfl, rfl, rfl, rfl, rfl, rfl, rfl, rfl, rfl, fun _ => rfl,
    fun _ => ⟨rfl, rfl, fun _ => rfl⟩, fun _ => rfl, fun _ => rfl⟩

/-- Settles O58: each word is the encoding of its well-formed instruction, which `decodeEncode` gives back. -/
theorem wordsOfTheSpecDecode : Obligations.WordsOfTheSpecDecode := by
  refine ⟨?_, ?_, ?_, ?_, ?_, ?_, ?_, ?_, ?_, ?_, ?_, ?_, ?_, ?_, ?_, ?_⟩ <;> exact decodeEncode _ _ (by decide) (by decide)

/-! ### A slot's move (06 R153) -/

/-- The first fragment of a slot takes no halt and no stop where none is due. -/
theorem halts_none (s : State) (fid : Nat) (f : Flight) (g : Fragment) (hcur : s.cur.1 = fid) (hf : flight? s fid = some f)
    (hq : f.haltq = []) (hd : deadlinePassed s f = false) : halts s g = s := by
  subst hcur
  have ht : takeHalts s s.cur.1 g.num = s := by simp [takeHalts, hf, hq]
  have hs : stopIfDue s s.cur.1 g.num = s := by simp [stopIfDue, hf, hd]
  unfold halts
  simp only [ht, hs, ite_self]

/-- A fragment that takes no queued trap fetches and issues its next instruction. -/
theorem proceed_fetches (s : State) (f : Flight) (g : Fragment) (hi : Issues s f g) (hw : g.wait = .run ∨ ∃ y, g.wait = .stall y)
    (hl : g.level ≠ 0 ∨ (f.afq = [] ∧ f.timer = false)) : proceed s = fetchIssue s := by
  have h1 : (g.level == 0 && !f.afq.isEmpty) = false := by
    rcases hl with h | ⟨h, -⟩ <;> simp [h]
  have h2 : timerDue (ctxOf s f g) = false := by
    rcases hl with h | ⟨-, h⟩ <;> simp [timerDue, ctxOf, h]
  unfold proceed
  rw [issuer?_eq s f g hi]
  rcases hw with h | ⟨y, h⟩ <;> simp [ctxOf, h, h1] <;> simp [ctxOf] at h2 <;> simp [h2]

/-- The instruction that a fragment decodes is executed once its turn has begun. -/
theorem fetchIssue_decoded (s u : State) (f : Flight) (g : Fragment) (w : DWord) (i : Instr) (hi : Issues s f g)
    (hf : fetch s f g = (.word w, u)) (hd : decode (g.level != 0) w = .ok i) :
    fetchIssue s = onNext (exec i (begin (ctxOf u f g))) (unissued u (ctxOf u f g)) := by
  have hl := fetch_looked s f g
  rw [hf] at hl
  change Looked s u at hl
  have hi' : Issues u f g := by
    obtain ⟨h1, h2⟩ := hi
    have hfl : u.flights = s.flights := looked_flights hl
    have hcur : u.cur = s.cur := by rw [hl]
    exact ⟨by rw [flight?, hfl, hcur]; exact h1, by rw [hcur]; exact h2⟩
  unfold fetchIssue
  rw [issuer?_eq s f g hi]
  simp only [ctxOf, hf, hd, issueInstr, issuer?_eq u f g hi']

/-- The turn of a fragment that may issue, with no halt, stop or step due, is its instruction. -/
theorem turn_issues (s0 : State) (fid n : Nat) (f : Flight) (g : Fragment) (hf : flight? s0 fid = some f) (hg : frag? f n = some g)
    (hm : mayTry s0 fid f g = true) (hh : g.halted = false) (hs : stepAsked s0 fid n = false) (hq : f.haltq = [])
    (hd : deadlinePassed s0 f = false) (hw : g.wait = .run ∨ ∃ y, g.wait = .stall y)
    (hl : g.level ≠ 0 ∨ (f.afq = [] ∧ f.timer = false)) : turn s0 fid n = fetchIssue { s0 with cur := (fid, n) } := by
  have hi : Issues { s0 with cur := (fid, n) } f g := ⟨hf, hg⟩
  have hnum := frag?_num f n g hg
  have hh' := halts_none { s0 with cur := (fid, n) } fid f g rfl hf hq hd
  have hstop : g.stopped = false := by
    have hs' : stepAsked s0 fid g.num = false := by rw [hnum]; exact hs
    unfold mayTry at hm
    rw [hs', Bool.or_false, Bool.and_eq_true, Bool.and_eq_true, Bool.and_eq_true, Bool.not_eq_true'] at hm
    simpa using hm.1.1.2
  have hgone : (g.wait != .gone) = true ∧ (g.wait == .step) = false := by rcases hw with h | ⟨y, h⟩ <;> rw [h] <;> exact ⟨rfl, rfl⟩
  have hr : stillRuns { s0 with cur := (fid, n) } g = true := by
    unfold stillRuns
    rw [issuer?_eq _ f g hi]
    simp [ctxOf, hh, hstop, hgone.1]
  have hfind : (s0.steps.find? fun x => x.fid == fid && x.frag == n) = none := by
    rw [List.find?_eq_none]
    intro x hx
    simp only [stepAsked, List.any_eq_false] at hs
    exact hs x hx
  have hm' : mayTry { s0 with cur := (fid, n) } fid f g = true := hm
  unfold turn
  simp only [issuer?_eq _ f g hi, ctxOf, hm', hgone.2, hh', hr, hfind, proceed_fetches _ f g hi hw hl]
  rfl

/-- A slot's move whose first fragment's turn goes on (16 R352): where it still waits to issue the slot tries the others. -/
theorem slotMove_next (s0 s1 v : State) (k slot fid n : Nat) (rest : List (Nat × Nat))
    (h1 : s1 = { s0 with cycle := s0.cycle + 1, free := s0.free + 1 }) (hc : candidates s1 k slot = (fid, n) :: rest)
    (ht : turn s1 fid n = .next v) :
    slotMove s0 k slot = if triesOn v fid n then onNext (tryEach rest v) (stamp s1) else .next (stamp s1 v) := by
  unfold slotMove
  simp only [← h1, hc, tryEach, ht]
  split <;> rfl

theorem slotMove_fault (s0 s1 : State) (x : Fault) (k slot fid n : Nat) (rest : List (Nat × Nat))
    (h1 : s1 = { s0 with cycle := s0.cycle + 1, free := s0.free + 1 }) (hc : candidates s1 k slot = (fid, n) :: rest)
    (ht : turn s1 fid n = .fault x) : slotMove s0 k slot = .fault x := by
  unfold slotMove
  simp only [← h1, hc, tryEach, ht]
  rfl

/-! ### What a fetch answers (01 R9, 02 R12, R39) -/

/-- A fetch outside the window goes to the physical address of the PC. -/
theorem fetch_translated (s u : State) (f : Flight) (g : Fragment) (e : TlbEntry) (ha : g.pc.toNat % 8 = 0)
    (hc : canonical g.pc = true) (hw : inWindow g.pc = false)
    (ht : translate s f.pid f.core none (g.level != 0) .fetch g.pc = (.ok e, u)) (ho : ownsPa u f.pid (e.phys (vaOf g.pc)) = true) :
    fetch s f g = fetchAt u f.core (e.phys (vaOf g.pc)) := by
  simp [fetch, ha, hc, hw, ht, ho]

/-- A stale word is one that the instruction cache holds. -/
theorem mem_staleWords (s : State) (cr k : Nat) (w : DWord) (h : w ∈ staleWords s cr k) : (k, w) ∈ (Machine.core s cr).icache := by
  simp only [staleWords, List.mem_map, List.mem_filter, Bool.and_eq_true, beq_iff_eq] at h
  obtain ⟨⟨a, b⟩, ⟨hx, rfl, -⟩, rfl⟩ := h
  exact hx

/-- A fetch from a key that the instruction cache does not hold answers the word of memory. -/
theorem fetchAt_unheld (s : State) (cr k : Nat) (hp : poisonedIn s k 8 = false) (h : ∀ x ∈ (Machine.core s cr).icache, x.1 ≠ k) :
    (fetchAt s cr k).1 = .word (dw (readNat s k 8)) := by
  have hs : staleWords s cr k = [] :=
    List.eq_nil_iff_forall_not_mem.2 fun w hw => h _ (mem_staleWords s cr k w hw) rfl
  unfold fetchAt
  simp only [hs, hp]
  split <;> rfl

/-- A fetch answers the word of memory or one that the instruction cache holds (01 R9). -/
theorem fetchAt_held (s : State) (cr k : Nat) (hp : poisonedIn s k 8 = false) :
    ∃ w, (fetchAt s cr k).1 = .word w ∧ (w = dw (readNat s k 8) ∨ (k, w) ∈ (Machine.core s cr).icache) := by
  have hfree (s1 : State) (hs1 : s1 = { s with free := s.free + 1 }) : poisonedIn s1 k 8 = false := by rw [hs1]; exact hp
  unfold fetchAt
  dsimp only
  split
  · rw [hp]
    split <;> exact ⟨_, rfl, Or.inl rfl⟩
  · next ws hne =>
    split
    · next w hw => exact ⟨w, rfl, Or.inr (mem_staleWords s cr k w (List.mem_of_getElem? hw))⟩
    · rw [hfree _ rfl]
      exact ⟨_, rfl, Or.inl rfl⟩

/-- An event that waits already is not noted twice (16 R344). -/
theorem addEvent_eq (l : List Pending) (e : Pending) : addEvent l e = if e ∈ l then l else l ++ [e] := by
  simp [addEvent]

/-- Settles O57: a slot's move by `slotMove_next` and `turn_issues`, a fetch by `fetchAt_unheld` and `fetchAt_held`, an event by the
branches of `eventMove`. -/
theorem stepRunsDecodedInstruction : Obligations.StepRunsDecodedInstruction := by
  refine ⟨?_, ?_, ?_, ?_, ?_, ?_⟩
  · intro s u k slot fid n r rest f g w i hag
    dsimp only
    intro hc hf hg hm hh hs hq hd hw hl hfetch hdec
    have ht : turn { s with agenda := r, cycle := s.cycle + 1, free := s.free + 1 } fid n =
        onNext (exec i (begin (ctxOf u f g))) (unissued u (ctxOf u f g)) :=
      (turn_issues { s with agenda := r, cycle := s.cycle + 1, free := s.free + 1 } fid n f g hf hg hm hh hs hq hd hw hl).trans
        (fetchIssue_decoded _ u f g w i ⟨hf, hg⟩ hfetch hdec)
    have hstep : step s = slotMove { s with agenda := r } k slot := by unfold step; rw [hag]
    refine ⟨fun t he => ?_, fun x he => ?_⟩
    · exact hstep.trans (slotMove_next _ _ _ k slot fid n rest rfl hc (ht.trans (by rw [he]; rfl)))
    · exact hstep.trans (slotMove_fault _ _ x k slot fid n rest rfl hc (ht.trans (by rw [he]; rfl)))
  · intro s u f g e ha hc hw ht
    dsimp only
    intro ho hp
    rw [fetch_translated s u f g e ha hc hw ht ho]
    exact ⟨fetchAt_unheld u f.core _ hp, fetchAt_held u f.core _ hp⟩
  · intro s r i hag
    have hstep : step s = eventMove { s with agenda := r } i := by unfold step; rw [hag]
    rw [hstep]
    unfold eventMove
    refine ⟨fun h => by simp [h], fun h k hk => ?_, fun h hk ht => ?_, fun h hk ht t he => ?_⟩
    · simp [h, hk, ringCommands, writeCommand, addEvent_eq]
    · simp [h, hk, ht, addEvent_eq]
    · simp [h, hk, ht, he, onNext]
  · intro s r o hag
    unfold step
    rw [hag]
    rfl
  · intro s hag
    unfold step
    rw [hag]
  · intro s r n hag
    unfold step
    rw [hag]

end Sys2Proof.Machine
end

section
/-!
SUPPORT. The words that the computations of one lane give, as the exact integers that the statements name (06 R158), and the scalar
and mask instructions (06 R157-R163).
-/
namespace Sys2Proof.Machine

/-! ### Exact results of word operations (06 R158) -/

theorem wrap_natCast (n : Nat) : wrap (n : Int) = w32 n := BitVec.ofInt_natCast 32 n

theorem wrap_toInt (x : Word) : wrap x.toInt = x := BitVec.ofInt_toInt

theorem signExtend_eq_wrap (imm : BitVec 25) : imm.signExtend 32 = wrap imm.toInt := rfl

theorem add_eq_sumOf (x y : Word) : x + y = sumOf x y := by
  rw [sumOf, ← Int.natCast_add, wrap_natCast]
  apply BitVec.eq_of_toNat_eq
  simp [w32]

theorem sub_eq_diffOf (x y : Word) : x - y = diffOf x y := by
  apply BitVec.eq_of_toNat_eq
  rw [diffOf, wrap, BitVec.toNat_ofInt, BitVec.toNat_sub]
  omega

theorem mul_eq_prodOf (x y : Word) : x * y = prodOf x y := by
  rw [prodOf, ← Int.natCast_mul, wrap_natCast]
  apply BitVec.eq_of_toNat_eq
  simp [w32]

theorem numOf_eq (t : Ty) (x : Word) : numOf t x = if isS t then x.toInt else (x.toNat : Int) := by
  cases t <;> rfl

theorem aMulh_eq_highOf (t : Ty) (x y : Word) : aMulh (isS t) x y = highOf t x y := by
  rw [aMulh, highOf, numOf_eq, numOf_eq]
  cases isS t
  · simp only [Bool.false_eq_true, if_false]
    rw [← wrap_natCast]
    rfl
  · rfl

theorem aShl_eq_shlOf (x y : Word) : aShl x y = shlOf x y := by
  unfold aShl shlOf
  split
  next h => exact BitVec.shiftLeft_eq_zero h
  next h =>
    have hp : (x.toNat : Int) * 2 ^ y.toNat = (x.toNat * 2 ^ y.toNat : Nat) := by push_cast; rfl
    rw [hp, wrap_natCast]
    apply BitVec.eq_of_toNat_eq
    simp [w32, Nat.shiftLeft_eq]

theorem aShr_eq_shrOf (x y : Word) : aShr x y = shrOf x y := by
  unfold aShr shrOf
  split
  next h => exact BitVec.ushiftRight_eq_zero h
  next h =>
    have hp : (x.toNat : Int) / 2 ^ y.toNat = (x.toNat / 2 ^ y.toNat : Nat) := by push_cast; rfl
    rw [hp, wrap_natCast]
    apply BitVec.eq_of_toNat_eq
    rw [BitVec.toNat_ushiftRight, Nat.shiftRight_eq_div_pow, w32, BitVec.toNat_ofNat]
    exact (Nat.mod_eq_of_lt (Nat.lt_of_le_of_lt (Nat.div_le_self _ _) x.isLt)).symm

/-- A word shifted right by 32 or more is all sign bits. -/
theorem sshiftRight_of_le (x : Word) {n : Nat} (h : 32 ≤ n) : x.sshiftRight n = if x.msb then 0xFFFF_FFFF else 0 := by
  apply BitVec.eq_of_getLsbD_eq
  intro i hi
  have hbit : ¬ n + i < 32 := by omega
  rw [BitVec.getLsbD_sshiftRight, if_neg hbit]
  cases x.msb
  · simp
  · have hones : (0xFFFF_FFFF : Word) = BitVec.allOnes 32 := by decide
    rw [hones, if_pos rfl, BitVec.getLsbD_allOnes]
    simp [hi]

theorem aSar_eq_sarOf (x y : Word) : aSar x y = sarOf x y := by
  unfold aSar sarOf
  split
  next h =>
    rw [sshiftRight_of_le x h, BitVec.msb_eq_toInt]
    simp
  next h =>
    have hs : (x.sshiftRight y.toNat).toInt = x.toInt / 2 ^ y.toNat := by
      rw [BitVec.toInt_sshiftRight, Int.shiftRight_eq_div_pow]
      push_cast
      rfl
    rw [← hs, wrap_toInt]

theorem aLt_eq (t : Ty) (x y : Word) : aLt (isS t) x y = decide (numOf t x < numOf t y) := by
  rw [aLt, numOf_eq, numOf_eq]
  cases isS t
  · simp [BitVec.ult]
  · simp [BitVec.slt]

theorem aMin_eq_minOf (t : Ty) (x y : Word) : aMin (isS t) x y = minOf t x y := by
  simp [aMin, minOf, aLt_eq]

theorem aMax_eq_maxOf (t : Ty) (x y : Word) : aMax (isS t) x y = maxOf t x y := by
  simp [aMax, maxOf, aLt_eq]

theorem numOf_inj (t : Ty) (x y : Word) : numOf t x = numOf t y ↔ x = y := by
  rw [numOf_eq, numOf_eq]
  cases isS t
  · simp [Int.natCast_inj, BitVec.toNat_inj]
  · simp [BitVec.toInt_inj]

theorem aCond_eq_condHolds (t : Ty) (q : Cond) (x y : Word) : aCond (isS t) q x y = condHolds q (numOf t x) (numOf t y) := by
  have hnot (u v : Word) : (!aLt (isS t) u v) = decide (numOf t v ≤ numOf t u) := by
    rw [aLt_eq, ← decide_not]
    exact decide_eq_decide.2 Int.not_lt
  cases q with
  | eq => rw [aCond, condHolds, beq_eq_decide, decide_eq_decide]; exact (numOf_inj t x y).symm
  | ne => rw [aCond, condHolds, bne, beq_eq_decide, ← decide_not, decide_eq_decide]; exact not_congr (numOf_inj t x y).symm
  | lt => exact aLt_eq t x y
  | le => exact hnot y x
  | gt => exact aLt_eq t y x
  | ge => exact hnot x y

theorem bitOf_top (f len : Nat) (hl : 0 < len) (hf : f < 2 ^ len) : bitOf f (len - 1) = decide (2 ^ len ≤ 2 * f) := by
  obtain ⟨k, rfl⟩ : ∃ k, len = k + 1 := ⟨len - 1, by omega⟩
  rw [Nat.pow_succ] at hf ⊢
  unfold bitOf
  rw [Nat.add_sub_cancel]
  have hpos : 0 < 2 ^ k := Nat.two_pow_pos k
  by_cases h : 2 ^ k ≤ f
  · have hq : f / 2 ^ k = 1 := Nat.div_eq_of_lt_le (by omega) (by omega)
    simp [hq]
    omega
  · have hq : f / 2 ^ k = 0 := Nat.div_eq_of_lt (by omega)
    simp [hq]
    omega

theorem aBfe_eq_fieldIn (t : Ty) (x y z : Word) :
    aBfe (isS t) x y z = fieldIn t x (y.toNat % 32) (min z.toNat 32) := by
  unfold aBfe fieldIn
  dsimp only
  generalize hf : x.toNat / 2 ^ (y.toNat % 32) % 2 ^ min z.toNat 32 = n
  have hn : n < 2 ^ min z.toNat 32 := hf ▸ Nat.mod_lt _ (Nat.two_pow_pos _)
  generalize min z.toNat 32 = len at hn
  have hs : isS t = true ↔ t = .s32 := by simp [isS]
  by_cases hl : 0 < len
  · simp only [bitOf_top n len hl hn, Bool.and_eq_true, decide_eq_true_eq, hs, wrap_natCast, and_assoc]
    push_cast
    rfl
  · simp [hl, wrap_natCast]

/-- Counting over the positions of a word as numbers below its width, or as a list of them. -/
theorem length_filter_range (n : Nat) (p : Nat → Bool) :
    ((List.range n).filter p).length = (List.finRange n).countP fun i => p i.val := by
  have hrange : List.range n = (List.finRange n).map Fin.val := List.ext_getElem (by simp) fun i _ _ => by simp
  rw [← List.countP_eq_length_filter, hrange, List.countP_map]
  rfl

theorem aPopc_eq_popOf (x : Word) : aPopc x = popOf x := by
  rw [aPopc, popOf, wrap_natCast, length_filter_range]
  rfl

theorem aClz_eq_clzOf (x : Word) : aClz x = clzOf x := by
  unfold aClz clzOf bitLen
  by_cases h : x = 0
  · subst h
    rfl
  · have hn : x.toNat ≠ 0 := fun h' => h (BitVec.eq_of_toNat_eq (by simpa using h'))
    have hlog : Nat.log2 x.toNat < 32 := (Nat.log2_lt hn).2 x.isLt
    have hz : (31 - (Nat.log2 x.toNat : Int)) = (32 - (Nat.log2 x.toNat + 1) : Nat) := by omega
    rw [if_neg h, hz, wrap_natCast]
    simp [hn]

/-! ### Instructions that write one scalar register (06 R158, R162) -/

section
variable (s : State) (f : Flight) (g : Fragment) (d a b x : Opnd) (hi : Issues s f g) (hu : Unwatched s f) (hd : IsScalar d)
include hi hu hd

/-- An instruction that issues and writes one word to a scalar destination. -/
theorem setsScalar_issue (i : Instr) (ops : List (Opnd × Nat)) (w : Word) (hm : MayName f g ops)
    (he : exec i s = issue ops false (fun c => retireNext c (putS c d w)) s) : SetsScalar i s f g d w :=
  setsScalar_of i s f g d w hi hu hd (he.trans (issue_acts ops false _ s f g hi hm (by simp)))

theorem setsScalar_of_issue (i : Instr) (ops : List (Opnd × Nat)) (k : Ctx → Word) (w : Word) (hm : MayName f g ops)
    (he : exec i s = issue ops false (fun c => retireNext c (putS c d (k c))) s) (hw : k (ctxOf s f g) = w) :
    SetsScalar i s f g d w := by
  subst hw
  exact setsScalar_of i s f g d _ hi hu hd (he.trans (issue_acts ops false _ s f g hi hm (by simp)))

theorem setsScalar_scalar2 (i : Instr) (k : Word → Word → Word) (w : Word) (hm : MayName f g [(d, 1), (a, 1), (b, 1)])
    (he : exec i s = scalar2 k d a b s) (hw : k (srcS (ctxOf s f g) a) (srcS (ctxOf s f g) b) = w) : SetsScalar i s f g d w :=
  setsScalar_of_issue s f g d hi hu hd i _ _ w hm he hw

theorem setsScalar_scalarI (i : Instr) (k : Word → Word → Word) (imm : BitVec 25) (w : Word) (hm : MayName f g [(d, 1), (a, 1)])
    (he : exec i s = scalarI k d a imm s) (hw : k (srcS (ctxOf s f g) a) (wrap imm.toInt) = w) : SetsScalar i s f g d w :=
  setsScalar_of_issue s f g d hi hu hd i _ _ w hm he hw

end

/-- Settles O1: each instruction is `scalar2` or `scalarI` of a computation whose result is the exact one. -/
theorem scalarArithmetic : Obligations.ScalarArithmetic := by
  refine ⟨fun s f g t q d a b hi hu hm hd => ?_, fun s f g d a imm hi hu hm hd => ?_, fun s f g d a imm hi hu hm hd => ?_⟩
  · have sets := fun i k w => setsScalar_scalar2 s f g d a b hi hu hd i k w hm
    exact ⟨sets _ _ _ rfl (add_eq_sumOf _ _), sets _ _ _ rfl (sub_eq_diffOf _ _), sets _ _ _ rfl (mul_eq_prodOf _ _),
      sets _ _ _ rfl (aMulh_eq_highOf t _ _), sets _ _ _ rfl rfl, sets _ _ _ rfl rfl, sets _ _ _ rfl rfl,
      sets _ _ _ rfl (aShl_eq_shlOf _ _), sets _ _ _ rfl (aShr_eq_shrOf _ _), sets _ _ _ rfl (aSar_eq_sarOf _ _),
      sets _ _ _ rfl (aMin_eq_minOf t _ _), sets _ _ _ rfl (aMax_eq_maxOf t _ _),
      sets _ (fun x y => if aCond (isS t) q x y then 1 else 0) _ (exec_scmp t q d a b s) (by rw [aCond_eq_condHolds])⟩
  · have sets := fun i k w => setsScalar_scalarI s f g d a hi hu hd i k imm w hm
    exact ⟨sets _ _ _ rfl (add_eq_sumOf _ _), sets _ _ _ rfl (sub_eq_diffOf _ _), sets _ _ _ rfl (mul_eq_prodOf _ _),
      sets _ _ _ rfl rfl, sets _ _ _ rfl rfl, sets _ _ _ rfl rfl, sets _ _ _ rfl (aShl_eq_shlOf _ _),
      sets _ _ _ rfl (aShr_eq_shrOf _ _), sets _ _ _ rfl (aSar_eq_sarOf _ _)⟩
  · exact setsScalar_of_issue s f g d hi hu hd _ _ (fun c => srcS c a + imm) _ hm (exec_saddi d a imm s) (add_eq_sumOf _ _)

/-! ### Selection, moves and counts (06 R158) -/

/-- An operand of a 32-bit integer type reads the same in each of them. -/
theorem src_integer (c : Ctx) (t : Ty) (a : Opnd) (l : Nat) (hfp : t.isFp = false) (hr : t.regs = 1) (hx : t ≠ .fx64) :
    src c t a l = src c .u32 a l := by
  have hf : fmtOf t = fmtOf .u32 := by cases t <;> simp_all [Ty.isFp, fmtOf]
  have hb (n : Nat) : both t n = both .u32 n := by cases t <;> simp_all [Ty.isFp, both, paired]
  have hi : inlineBits t a = inlineBits .u32 a := by
    cases a with
    | imm n => simp [inlineBits, hfp, hx, show Ty.u32.isFp = false from rfl]
    | cst n => rw [inlineBits, inlineBits, hf, hb]
    | _ => rfl
  simp [src, hi, hr, show Ty.u32.regs = 1 from rfl]

/-- An f32 operand that is not inline is the register's word. -/
theorem src_f32 (c : Ctx) (a : Opnd) (l : Nat) (h : isInline a = false) : src c .f32 a l = src c .u32 a l := by
  simp only [src, h, Bool.false_eq_true, if_false]
  rfl

/-- Settles O2: each instruction issues and writes one word, whose value is the exact one. -/
theorem scalarMovesAndBits : Obligations.ScalarMovesAndBits := by
  intro s f g t d a b x v hi hu hm hd
  have sets := fun i ops k w (hs : ops ⊆ [(d, 1), (a, 1), (b, 1), (x, 1)]) =>
    setsScalar_of_issue s f g d hi hu hd i ops k w (mayName_subset f g _ ops hm hs)
  have h1 : [(d, 1)] ⊆ [(d, 1), (a, 1), (b, 1), (x, 1)] := by simp
  have h2 : [(d, 1), (a, 1)] ⊆ [(d, 1), (a, 1), (b, 1), (x, 1)] := by simp
  have h4 := List.Subset.refl [(d, 1), (a, 1), (b, 1), (x, 1)]
  refine ⟨sets _ _ _ _ h4 rfl ?_, sets _ _ _ _ h4 rfl (aBfe_eq_fieldIn t _ _ _), fun hfp hr hx => sets _ _ _ _ h2 rfl ?_,
    fun hn => sets _ _ _ _ h2 rfl ?_, sets _ _ _ _ h2 rfl (aPopc_eq_popOf _), sets _ _ _ _ h2 rfl (aClz_eq_clzOf _),
    sets _ _ _ _ h1 rfl rfl, sets _ _ _ _ h2 rfl (add_eq_sumOf _ _)⟩
  · by_cases h : srcS (ctxOf s f g) x = 0 <;> simp [h]
  · rw [src_integer _ t a 0 hfp hr hx]
    rfl
  · rw [src_f32 _ a 0 hn]
    rfl

/-! ### Masks (06 R163) -/

theorem mem_list (m : Lanes) (l : Nat) : l ∈ m.list ↔ l < 96 ∧ m.getLsbD l = true := by
  simp [Lanes.list]

/-- A mask that is not empty has a lowest lane. -/
theorem lowestLane_some (m : Lanes) (h : m ≠ 0) :
    ∃ l, lowestLane m = some l ∧ l < 96 ∧ m.getLsbD l = true ∧ ∀ k, k < l → m.getLsbD k = false := by
  have hfind : lowestLane m = (List.range 96).find? fun l => m.getLsbD l := by
    rw [lowestLane, Lanes.list, List.head?_filter]
  cases hl : (List.range 96).find? fun l => m.getLsbD l with
  | none =>
    refine absurd (BitVec.eq_of_getLsbD_eq fun i hi => ?_) h
    simpa using List.find?_eq_none.1 hl i (List.mem_range.2 hi)
  | some l =>
    obtain ⟨hbit, hlt, hlow⟩ := List.find?_range_eq_some.1 hl
    exact ⟨l, hfind.trans hl, List.mem_range.1 hlt, hbit, fun k hk => by simpa using hlow k hk⟩

theorem lowestLane_zero : lowestLane 0 = none := by decide

theorem maskOfWords_maskWord (m : Lanes) : maskOfWords (maskWord m 0) (maskWord m 1) (maskWord m 2) = m := by
  apply BitVec.eq_of_getLsbD_eq
  intro i hi
  simp only [maskOfWords, maskWord, BitVec.getLsbD_or, BitVec.getLsbD_setWidth, BitVec.getLsbD_shiftLeft,
    BitVec.getLsbD_ushiftRight]
  by_cases h1 : i < 32
  · have h2 : i < 64 := by omega
    simp [hi, h1, h2]
  · by_cases h2 : i < 64
    · have e1 : i - 32 < 32 := by omega
      have e2 : 32 + (i - 32) = i := by omega
      have e3 : i - 32 < 96 := by omega
      simp [hi, h1, h2, e1, e2, e3]
    · have e1 : ¬ i - 32 < 32 := by omega
      have e2 : i - 64 < 32 := by omega
      have e3 : 64 + (i - 64) = i := by omega
      have e4 : i - 64 < 96 := by omega
      simp [hi, h1, h2, e1, e2, e3, e4]

theorem getMask_of_words (f : Flight) (g : Fragment) (m : Fin 24) (z : Lanes)
    (h : ∀ k, k < 3 → getS f g (4 * m.val + k) = maskWord z k) : getMask f g m = z := by
  rw [getMask, ← Nat.add_zero (4 * m.val), h 0 (by decide), Nat.add_zero, h 1 (by decide), h 2 (by decide), maskOfWords_maskWord]

/-- The first register of a mask. -/
def maskReg (m : Fin 24) : Fin 96 := ⟨4 * m.val, by omega⟩

/-- The three words of a mask. -/
def maskWords (z : Lanes) : List Word := [maskWord z 0, maskWord z 1, maskWord z 2]

theorem putMask_eq_puts (c : Ctx) (m : Fin 24) (z : Lanes) : putMask c m z = puts c (.s (maskReg m)) (maskWords z) := by
  have h1 := opAdd_s (maskReg m) 1 (by simp only [maskReg]; omega)
  have h2 := opAdd_s (maskReg m) 2 (by simp only [maskReg]; omega)
  simp only [puts, maskWords, List.length_cons, List.length_nil, List.range_succ, List.range_zero, List.nil_append,
    List.foldl_append, List.foldl_cons, List.foldl_nil, opAdd_zero, h1, h2]
  rfl

theorem regsFrom_maskWords (n : Nat) (z : Lanes) :
    regsFrom n (maskWords z) = [(n, maskWord z 0), (n + 1, maskWord z 1), (n + 2, maskWord z 2)] := rfl

/-- The scalar registers after the three words of a mask were written: the mask, of em the owned lanes, and no other register. -/
theorem getMask_of_scalarWrite (f f' : Flight) (g g' : Fragment) (m : Fin 24) (z : Lanes)
    (h : ScalarWrite f f' g g' (.s (maskReg m)) (maskWords z)) :
    getMask f' g' m = (if m.val = 22 then z &&& g.owned else z) ∧
      ∀ k, k / 4 ≠ m.val ∨ k % 4 = 3 → getS f' g' k = getS f g k := by
  obtain ⟨hregs, -, -⟩ := h
  have hwrites : regsFrom (maskReg m).val (maskWords z) = regsFrom (4 * m.val) (maskWords z) := rfl
  rw [hwrites, regsFrom_maskWords] at hregs
  constructor
  · refine getMask_of_words f' g' m _ fun k hk => ?_
    obtain ⟨hem, hplain⟩ := hregs (4 * m.val + k)
    have hlast : lastWrite [(4 * m.val, maskWord z 0), (4 * m.val + 1, maskWord z 1), (4 * m.val + 2, maskWord z 2)]
        (4 * m.val + k) (getS f g (4 * m.val + k)) = maskWord z k := by
      obtain rfl | rfl | rfl : k = 0 ∨ k = 1 ∨ k = 2 := by omega
      all_goals simp [lastWrite]
    rw [hlast] at hem hplain
    by_cases hm : m.val = 22
    · have hisEm : isEm (4 * m.val + k) = true := by simp [isEm, hm]; omega
      have hfirst : isEm (4 * m.val) = true := by simp [isEm, hm]
      have hsub : 4 * m.val + k - 88 = k := by omega
      rw [if_pos hm, maskWord_and, hem ⟨hisEm, _, List.mem_cons_self, hfirst⟩, hsub]
    · rw [if_neg hm]
      refine hplain fun hboth => hm ?_
      have hbetween : 88 ≤ 4 * m.val + k ∧ 4 * m.val + k ≤ 90 := by simpa [isEm] using hboth.1
      omega
  · intro k hk
    obtain ⟨-, hplain⟩ := hregs k
    have hlast : lastWrite [(4 * m.val, maskWord z 0), (4 * m.val + 1, maskWord z 1), (4 * m.val + 2, maskWord z 2)]
        k (getS f g k) = getS f g k := by
      have e0 : 4 * m.val ≠ k := by omega
      have e1 : 4 * m.val + 1 ≠ k := by omega
      have e2 : 4 * m.val + 2 ≠ k := by omega
      simp [lastWrite, e0, e1, e2]
    rw [hlast] at hplain
    refine hplain fun hboth => ?_
    obtain ⟨hk88, q, hq, hqem⟩ := hboth
    have hkb : 88 ≤ k ∧ k ≤ 90 := by simpa [isEm] using hk88
    have hqb : 88 ≤ q.1 ∧ q.1 ≤ 90 := by simpa [isEm] using hqem
    have hreg : q.1 = 4 * m.val ∨ q.1 = 4 * m.val + 1 ∨ q.1 = 4 * m.val + 2 := by
      simp only [List.mem_cons, List.not_mem_nil, or_false] at hq
      rcases hq with rfl | rfl | rfl <;> simp
    omega

/-- An instruction that writes a whole mask. -/
theorem setsMask_of (i : Instr) (s : State) (f : Flight) (g : Fragment) (m : Fin 24) (z : Lanes) (hi : Issues s f g)
    (hu : Unwatched s f) (he : exec i s = .next (retireNext (ctxOf s f g) (putMask (ctxOf s f g) m z))) :
    SetsMask i s f g m z := by
  rw [putMask_eq_puts] at he
  have hn : (Opnd.s (maskReg m)).idx + (maskWords z).length ≤ (Opnd.s (maskReg m)).cls.size := by
    simp [Opnd.idx, Opnd.cls, Cls.size, maskReg, maskWords]
    omega
  obtain ⟨t, f', g', hex, hf, hg, hout, hsib, hfrag, hflight, hw, hv, hl⟩ :=
    setsScalars_of i s f g (.s (maskReg m)) (maskWords z) hi hu (Or.inl rfl) hn he
  obtain ⟨hmask, hrest⟩ := getMask_of_scalarWrite f f' g g' m z hw
  exact ⟨t, f', g', hex, hf, hg, hout, hsib, hfrag, hflight, hmask, hrest, hv, hl, hw.2⟩

theorem one_eq_ofNat (n : Nat) : Lanes.one n = if n < 96 then BitVec.ofNat 96 (2 ^ n) else 0 := by
  split
  next h =>
    apply BitVec.eq_of_toNat_eq
    rw [Lanes.one, BitVec.toNat_twoPow, BitVec.toNat_ofNat]
  next h =>
    apply BitVec.eq_of_getLsbD_eq
    intro i hi
    have hne : ¬ n = i := by omega
    simp [Lanes.one, hne]

/-- Settles O3: each instruction writes the three words of its mask, or one word read from a mask. -/
theorem maskInstructions : Obligations.MaskInstructions := by
  intro s f g m ma mb d a hi hu hm hd
  have acts := fun ops body (hs : ops ⊆ [(d, 1), (a, 1)]) =>
    issue_acts ops false body s f g hi (mayName_subset f g _ ops hm hs) (by simp)
  have hnone : ([] : List (Opnd × Nat)) ⊆ [(d, 1), (a, 1)] := by simp
  have hdst : [(d, 1)] ⊆ [(d, 1), (a, 1)] := by simp
  have hsrc : [(a, 1)] ⊆ [(d, 1), (a, 1)] := by simp
  have scalar := fun i k w => setsScalar_of_issue s f g d hi hu hd i [(d, 1)] k w (mayName_subset f g _ _ hm hdst)
  refine ⟨setsMask_of _ s f g m _ hi hu (acts _ _ hnone), setsMask_of _ s f g m _ hi hu (acts _ _ hnone),
    setsMask_of _ s f g m _ hi hu (acts _ _ hnone), setsMask_of _ s f g m _ hi hu (acts _ _ hnone),
    ?_, scalar _ _ _ (exec_mpopc d ma s) ?_,
    _, scalar _ _ _ (exec_mfirst d ma s) rfl, ?_⟩
  · rw [← one_eq_ofNat]
    exact setsMask_of _ s f g m _ hi hu (acts _ _ hsrc)
  · rw [wrap_natCast, Lanes.count, Lanes.list, length_filter_range]
    rfl
  · split
    next hz => rw [show getMask (ctxOf s f g).f (ctxOf s f g).g ma = 0 from hz, lowestLane_zero]; rfl
    next hz =>
      obtain ⟨l, hl, h96, hset, hbelow⟩ := lowestLane_some (getMask f g ma) hz
      rw [show lowestLane (getMask (ctxOf s f g).f (ctxOf s f g).g ma) = some l from hl]
      have hval : (w32 l).toNat = l := by rw [w32, BitVec.toNat_ofNat]; exact Nat.mod_eq_of_lt (by omega)
      simp only [Option.elim_some, hval]
      exact ⟨h96, hset, hbelow⟩

/-! ### Pairs and special registers (06 R159-R161) -/

theorem sum_words (x y : DWord) :
    [loWord (x + y), hiWord (x + y)] = [wordOf ((x.toNat : Int) + y.toNat) 0, wordOf ((x.toNat : Int) + y.toNat) 1] := by
  rw [← Int.natCast_add, ← w32_div_eq_wordOf, ← w32_div_eq_wordOf]
  have hlo : loWord (x + y) = w32 ((x.toNat + y.toNat) / 2 ^ (32 * 0)) := by
    apply BitVec.eq_of_toNat_eq
    simp [loWord, w32]
  have hhi : hiWord (x + y) = w32 ((x.toNat + y.toNat) / 2 ^ (32 * 1)) := by
    apply BitVec.eq_of_toNat_eq
    simp [hiWord, w32, Nat.shiftRight_eq_div_pow]
    omega
  rw [hlo, hhi]

theorem isScalar_register (d : Opnd) (hd : IsScalar d) : isInline d = false := by
  cases d with
  | imm n => rcases hd with h | h <;> exact absurd h (by simp [Opnd.cls])
  | cst n => rcases hd with h | h <;> exact absurd h (by simp [Opnd.cls])
  | _ => rfl

/-- A register's number lies below the size of its class (02 R19). -/
theorem idx_lt_size (d : Opnd) (h : isInline d = false) : d.idx < d.cls.size := by
  cases d with
  | imm n => exact absurd h (by simp [isInline])
  | cst n => exact absurd h (by simp [isInline])
  | s n => exact n.isLt
  | ss n => exact n.isLt
  | v n => exact n.isLt
  | vt n => exact n.isLt

/-- An instruction that writes one scalar register of a flight in which it has also changed `f1`, but for fields that `SameFlight`
leaves open. -/
theorem completesIn_putS (i : Instr) (s : State) (f f1 : Flight) (g : Fragment) (d : Opnd) (w : Word) (hi : Issues s f g)
    (hu : Unwatched s f) (hd : IsScalar d) (h1 : f1 = { f with clkhi := f1.clkhi })
    (he : exec i s = .next (retireNext (ctxOf s f g) (putS { ctxOf s f g with f := f1 } d w))) :
    CompletesIn i s f g s f1 (g.pc + 8) fun t f' g' =>
      ScalarWrite f f' g g' d [w] ∧ VectorsSame s t f f' ∧ f'.lflags = f.lflags := by
  generalize hc : ({ ctxOf s f g with f := f1 } : Ctx) = c at he
  have hcf : c.f = { f with clkhi := f1.clkhi } := by rw [← hc]; exact h1
  have hcg : c.g = g := by rw [← hc]; rfl
  have hcs : c.st = s := by rw [← hc]; rfl
  obtain ⟨hst, -, hf, hg⟩ := putS_rest c d w
  have key := completesIn_of i s f g f1 (g.pc + 8) (putS c d w)
    (fun t f' g' => ScalarWrite f f' g g' d [w] ∧ VectorsSame s t f f' ∧ f'.lflags = f.lflags) hi
    (by rw [hf, hcf]; exact hu.1) (by rw [hst, hcs]) (by rw [hst, hcs]) (by rw [hf, hcf]) (by rw [hg, hcg])
    (by rw [he, retireNext, next, hg, hcg]) (by rw [hf, hcf, h1]) ?_
  · rw [hst, hcs] at key; exact key
  · intro t f' g' hfree hem hf'
    have hn : d.idx + [w].length ≤ d.cls.size := idx_lt_size d (isScalar_register d hd)
    have hput : puts c d [w] = putS c d w := by rw [puts_one, opAdd_zero]
    have hw := scalarWrite_puts c d [w] hd hn f' g' (by rw [hf', hput]; rfl) (by rw [hf', hput]; rfl) (by rw [hf', hput]; rfl)
      (by rw [hem, hput])
    rw [hcf, hcg] at hw
    refine ⟨hw, fun n l => getV_same _ _ _ _ _ _ ?_ ?_ ?_, ?_⟩
    · rw [hf', hf, hcf]; rfl
    · rw [hf', hf, hcf]; rfl
    · rw [hfree, hst, hcs]
    · rw [hf', hf, hcf]; rfl

/-- A value written to FPMODE or FPFLAGS may set the bits below `2 ^ k` only. -/
theorem ushiftRight_bne_zero (w : Word) (k : Nat) : (w >>> k != 0) = decide (2 ^ k ≤ w.toNat) := by
  have h : w >>> k = 0 ↔ ¬ 2 ^ k ≤ w.toNat := by
    rw [← BitVec.toNat_inj, BitVec.toNat_ushiftRight, Nat.shiftRight_eq_div_pow, show (0 : Word).toNat = 0 from rfl,
      Nat.div_eq_zero_iff]
    have := Nat.two_pow_pos k
    omega
  rw [bne, beq_eq_decide, ← decide_not, decide_eq_decide, h, Classical.not_not]

theorem execSmovw_acts (s : State) (f : Flight) (g : Fragment) (n : BitVec 8) (a : Opnd) (hi : Issues s f g)
    (hm : MayName f g [(a, 1)]) :
    exec (.smovw n a) s = .next
      (if reservedBits n.toNat (srcS (ctxOf s f g) a) then fault (ctxOf s f g) 1 5
       else retireNext (ctxOf s f g) { ctxOf s f g with f := putSpecial f n.toNat (srcS (ctxOf s f g) a) }) := by
  rw [exec_smovw, execSmovw, issue_acts _ _ _ s f g hi hm (by simp)]
  rfl

/-- Clearing the flags whose bits a number sets. -/
theorem fourBits_clear (w : Word) (p : Nat → Bool) (hw : w.toNat < 16) :
    fourBits (fun i => !w.getLsbD i && p i) = fourBits p &&& (15 - w.toNat) := by
  have h (n : Fin 16) (p0 p1 p2 p3 : Bool) :
      (0 + (if !n.val.testBit 0 && p0 then 2 ^ 0 else 0) + (if !n.val.testBit 1 && p1 then 2 ^ 1 else 0) +
        (if !n.val.testBit 2 && p2 then 2 ^ 2 else 0) + (if !n.val.testBit 3 && p3 then 2 ^ 3 else 0) : Nat) =
      (0 + (if p0 then 2 ^ 0 else 0) + (if p1 then 2 ^ 1 else 0) + (if p2 then 2 ^ 2 else 0) + (if p3 then 2 ^ 3 else 0)) &&&
        (15 - n.val) := by
    revert n p0 p1 p2 p3
    decide
  exact h ⟨w.toNat, hw⟩ (p 0) (p 1) (p 2) (p 3)

theorem laneFlags_eq_fourBits (f : Flight) (l : Nat) : laneFlags f l = fourBits fun i => (f.lflags.getD i 0).getLsbD l := rfl

theorem laneFlags_clearFlags (f : Flight) (w : Word) (l : Nat) (hw : w.toNat < 16) :
    laneFlags (clearFlags f w) l = laneFlags f l &&& (15 - w.toNat) := by
  rw [laneFlags_eq_fourBits, laneFlags_eq_fourBits, ← fourBits_clear w _ hw]
  unfold fourBits
  refine foldl_range_congr 4 _ _ 0 fun y i hi => ?_
  have hget : ((clearFlags f w).lflags.getD i 0).getLsbD l = (!w.getLsbD i && (f.lflags.getD i 0).getLsbD l) := by
    simp only [clearFlags, List.getD_eq_getElem?_getD, List.getElem?_map, List.getElem?_range hi, Option.map_some,
      Option.getD_some]
    cases w.getLsbD i <;> simp
  exact congrArg (fun b : Bool => y + if b then 2 ^ i else 0) hget

/-- An instruction that writes no register and moves to the next: what it leaves of its flight is `f1`. -/
theorem completesIn_flight (i : Instr) (s : State) (f f1 f2 : Flight) (g : Fragment) (p : State → Flight → Fragment → Prop)
    (hi : Issues s f g) (hu : Unwatched s f) (hcore : f1.core = f.core) (hfr : f1.frags = f.frags)
    (he : exec i s = .next (retireNext (ctxOf s f g) { ctxOf s f g with f := f1 }))
    (h1 : f1 = { f2 with s := f1.s, v := f1.v, t1 := f1.t1, t2 := f1.t2, mops := f1.mops, pend := f1.pend, dirty := f1.dirty,
                         asyncR := f1.asyncR, lflags := f1.lflags, frags := f1.frags })
    (hp : ∀ t f' g', t.free = s.free → g'.em = g.em → f' = putFrag { f1 with issued := f1.issued + 1 } g' → p t f' g') :
    CompletesIn i s f g s f2 (g.pc + 8) p :=
  completesIn_of i s f g f2 (g.pc + 8) { ctxOf s f g with f := f1 } p hi
    ((congrArg (fun k => (Machine.core s k).bcn) hcore).trans hu.1) rfl rfl hfr rfl he h1 hp

/-- Settles O4: pairs by `sum_words`, SMOVS by the scalar write, SMOVW by what `putSpecial` leaves. -/
theorem scalarPairsAndSpecials : Obligations.ScalarPairsAndSpecials := by
  intro s f g t d a b n hi hu hd
  refine ⟨fun hm hn => ?_, fun hm hne => ?_, fun hm => ?_, fun hm hw => ?_, fun hm hw => ?_, fun hm => ⟨fun hw => ?_, fun hw => ?_⟩⟩
  · show SetsScalars _ s f g d [wordOf ((srcS2 (ctxOf s f g) a).toNat + (srcS2 (ctxOf s f g) b).toNat) 0,
      wordOf ((srcS2 (ctxOf s f g) a).toNat + (srcS2 (ctxOf s f g) b).toNat) 1]
    rw [← sum_words]
    refine setsScalars_of _ s f g d _ hi hu hd hn ?_
    rw [exec_sadd64, execSadd64, issue_acts _ _ _ s f g hi hm (by simp), puts_two]
  · refine setsScalar_of_issue s f g d hi hu hd _ [(d, 1)] (fun c => special c n.toNat) _ hm ?_ rfl
    have hcap (c : Ctx) : captureClk c n.toNat = c := by simp [captureClk, hne]
    rw [exec_smovs, execSmovs]
    simp only [hcap]
  · refine completesIn_putS _ s f _ g d _ hi hu hd rfl ?_
    rw [exec_smovs, execSmovs, issue_acts _ _ _ s f g hi hm (by simp), wrap_natCast]
    have hdiv : (s.cycle : Int) / 2 ^ 32 = (s.cycle / 2 ^ 32 : Nat) := by rw [Int.natCast_ediv]; rfl
    rw [hdiv, wrap_natCast]
    rfl
  · refine completesIn_flight _ s f { f with fpmode := srcS (ctxOf s f g) a } _ g _ hi hu rfl rfl ?_ rfl fun t f' g' hfree hem hf' => ?_
    · rw [execSmovw_acts s f g _ a hi hm, if_neg]
      · rfl
      · simp only [reservedBits, ushiftRight_bne_zero]
        simpa using hw
    · subst hf'
      exact ⟨hem, fun k => getS_em _ _ _ _ _ rfl hem, fun n l => getV_same _ _ _ _ _ _ rfl rfl hfree, rfl, rfl, rfl, rfl, rfl, rfl⟩
  · refine completesIn_flight _ s f (clearFlags f (srcS (ctxOf s f g) a)) f g _ hi hu rfl rfl ?_ rfl fun t f' g' hfree hem hf' => ?_
    · rw [execSmovw_acts s f g _ a hi hm, if_neg]
      · rfl
      · simp only [reservedBits, ushiftRight_bne_zero]
        simpa using hw
    · subst hf'
      exact ⟨fun k => getS_em _ _ _ _ _ rfl hem, fun n l => getV_same _ _ _ _ _ _ rfl rfl hfree, rfl, rfl,
        fun l _ => laneFlags_clearFlags f _ l hw⟩
  · rw [execSmovw_acts s f g _ a hi hm, if_pos]
    simp only [reservedBits, ushiftRight_bne_zero]
    simpa using hw
  · rw [execSmovw_acts s f g _ a hi hm, if_pos]
    simp only [reservedBits, ushiftRight_bne_zero]
    simpa using hw

end Sys2Proof.Machine
end

section
/-!
SUPPORT. The vector instructions of one lane (08 R200-R204), pairs (R202), and the instructions across the lanes (R205-R208, R201).
-/
namespace Sys2Proof.Machine

theorem usesVector_register (d : Opnd) (hd : IsVector d) : isInline d = false := by
  cases d with
  | imm n => rcases hd with h | h <;> exact absurd h (by simp [Opnd.cls])
  | cst n => rcases hd with h | h <;> exact absurd h (by simp [Opnd.cls])
  | _ => rfl

theorem isVector_fits (d : Opnd) (hd : IsVector d) : d.idx + 1 ≤ d.cls.size := idx_lt_size d (usesVector_register d hd)

theorem vecWord_eq_vecs (c : Ctx) (d : Opnd) (val : Nat → Word) : vecWord c d val = vecs c d 1 fun _ => val := by
  simp [vecs, List.range_succ, opAdd_zero]

/-! ### Instructions that write one register of each active lane -/

section
variable (s : State) (f : Flight) (g : Fragment) (d a b x : Opnd) (hi : Issues s f g) (hu : Unwatched s f) (hd : IsVector d)
  (ha : Unread f d 1)
include hi hu hd ha

/-- An instruction that issues and writes one register of the active lanes. -/
theorem setsVector_of_issue (i : Instr) (ops : List (Opnd × Nat)) (k : Ctx → Nat → Word) (w : Nat → Word) (hm : MayName f g ops)
    (he : exec i s = issue ops false (fun c => retireNext c (vecWord c d (k c))) s) (hw : ∀ l, k (ctxOf s f g) l = w l) :
    SetsVector i s f g d 1 (fun _ l => w l) fun _ => 0 := by
  obtain rfl : k (ctxOf s f g) = w := funext hw
  refine setsVector_plain i s f g d 1 _ hi hu hd (isVector_fits d hd) ha ?_
  rw [he, issue_acts ops false _ s f g hi hm (by simp), vecWord_eq_vecs]

/-- The immediates write their register unseen by the beacons (06 R162), which watch nothing here. -/
theorem setsVector_of_putV (i : Instr) (ops : List (Opnd × Nat)) (k : Ctx → Nat → Word) (w : Nat → Word) (hm : MayName f g ops)
    (he : exec i s = issue ops false (fun c => retireNext c (putV c d c.g.em (k c))) s) (hw : ∀ l, k (ctxOf s f g) l = w l) :
    SetsVector i s f g d 1 (fun _ l => w l) fun _ => 0 := by
  obtain rfl : k (ctxOf s f g) = w := funext hw
  refine setsVector_plain i s f g d 1 _ hi hu hd (isVector_fits d hd) ha ?_
  have hcore : (putV (ctxOf s f g) d g.em (k (ctxOf s f g))).f.core = f.core := by
    rw [(putV_rest (ctxOf s f g) d g.em (k (ctxOf s f g))).2.2.2]; rfl
  rw [he, issue_acts ops false _ s f g hi hm (by simp), ← vecWord_eq_vecs]
  exact congrArg Host.Outcome.next (retireNext_obs (ctxOf s f g) (putV (ctxOf s f g) d g.em (k (ctxOf s f g))) _
    (by rw [hcore]; exact hu.1)).symm

theorem setsVector_vec2 (i : Instr) (k : Word → Word → Word) (w : Word → Word → Word) (hm : MayName f g [(d, 1), (a, 1), (b, 1)])
    (he : exec i s = vec2 k d a b s) (hw : ∀ p q, k p q = w p q) :
    SetsVector i s f g d 1 (fun _ l => w (src32 (ctxOf s f g) a l) (src32 (ctxOf s f g) b l)) fun _ => 0 :=
  setsVector_of_issue s f g d hi hu hd ha i _ _ _ hm he fun _ => hw _ _

theorem setsVector_vecI (i : Instr) (k : Word → Word → Word) (w : Word → Word → Word) (imm : BitVec 25)
    (hm : MayName f g [(d, 1), (a, 1)]) (he : exec i s = vecI k d a imm s) (hw : ∀ p q, k p q = w p q) :
    SetsVector i s f g d 1 (fun _ l => w (src32 (ctxOf s f g) a l) (wrap imm.toInt)) fun _ => 0 :=
  setsVector_of_issue s f g d hi hu hd ha i _ _ _ hm he fun _ => hw _ _

end

/-- Settles O5: each instruction is `vec2` or `vecI` of a computation whose result is the exact one. -/
theorem vectorArithmetic : Obligations.VectorArithmetic := by
  refine ⟨fun s f g t d a b hi hu hm hd ha => ?_, fun s f g d a imm hi hu hm hd ha => ?_⟩
  · have sets := fun i k w => setsVector_vec2 s f g d a b hi hu hd ha i k w hm
    exact ⟨sets _ _ _ rfl add_eq_sumOf, sets _ _ _ rfl sub_eq_diffOf, sets _ _ _ rfl mul_eq_prodOf,
      sets _ _ _ rfl (aMulh_eq_highOf t), sets _ _ _ rfl fun _ _ => rfl, sets _ _ _ rfl fun _ _ => rfl,
      sets _ _ _ rfl fun _ _ => rfl, sets _ (fun x y => x &&& ~~~y) _ (exec_vandn t d a b s) fun _ _ => rfl,
      sets _ _ _ rfl aShl_eq_shlOf, sets _ _ _ rfl aShr_eq_shrOf, sets _ _ _ rfl aSar_eq_sarOf, sets _ _ _ rfl (aMin_eq_minOf t),
      sets _ _ _ rfl (aMax_eq_maxOf t)⟩
  · have sets := fun i k w => setsVector_vecI s f g d a hi hu hd ha i k w imm hm
    exact ⟨sets _ _ _ rfl add_eq_sumOf, sets _ _ _ rfl sub_eq_diffOf, sets _ _ _ rfl mul_eq_prodOf, sets _ _ _ rfl fun _ _ => rfl,
      sets _ _ _ rfl fun _ _ => rfl, sets _ _ _ rfl fun _ _ => rfl, sets _ _ _ rfl aShl_eq_shlOf, sets _ _ _ rfl aShr_eq_shrOf,
      sets _ _ _ rfl aSar_eq_sarOf⟩

/-! ### The other operations of one lane (08 R200) -/

theorem mul_add_eq_wrap (p q r : Word) : p * q + r = wrap ((p.toNat * q.toNat : Int) + r.toNat) := by
  have hn : (p.toNat * q.toNat : Int) + r.toNat = (p.toNat * q.toNat + r.toNat : Nat) := by push_cast; rfl
  rw [hn, wrap_natCast]
  apply BitVec.eq_of_toNat_eq
  simp [w32]

theorem aAbs_eq_wrap (p : Word) : aAbs p = wrap (p.toInt.natAbs) := by
  rw [wrap_natCast]
  apply BitVec.eq_of_toNat_eq
  have hlt := p.isLt
  rw [aAbs, BitVec.msb_eq_toInt, BitVec.toInt_eq_toNat_cond, w32, BitVec.toNat_ofNat]
  by_cases h : 2 * p.toNat < 2 ^ 32
  · have hneg : ¬ (p.toNat : Int) < 0 := by omega
    rw [if_pos h, decide_eq_false hneg, if_neg Bool.false_ne_true]
    omega
  · have hneg : (p.toNat : Int) - (2 ^ 32 : Nat) < 0 := by omega
    have hzero : (0 : Word).toNat = 0 := rfl
    rw [if_neg h, decide_eq_true hneg, if_pos rfl, BitVec.toNat_sub, hzero]
    omega

/-- Bits `pos` to `pos + n - 1` of a word, as a mask. -/
theorem getLsbD_fieldMask (n pos k : Nat) (hk : k < 32) :
    (w32 ((2 ^ n - 1) * 2 ^ pos)).getLsbD k = decide (pos ≤ k ∧ k < pos + n) := by
  rw [w32, BitVec.getLsbD_ofNat, Nat.mul_comm, Nat.testBit_two_pow_mul, Nat.testBit_two_pow_sub_one]
  by_cases h : pos ≤ k
  · have hiff : k - pos < n ↔ k < pos + n := by omega
    simp [hk, h, hiff]
  · simp [h]

/-- Field insert: the bits of the field from `p`, the others from `r` (08 R200). -/
theorem getLsbD_aBfi (p q r : Word) (k : Nat) (hk : k < 32) :
    (aBfi p q r).getLsbD k =
      if q.toNat % 256 ≤ k ∧ k < q.toNat % 256 + q.toNat / 256 % 256 then p.getLsbD (k - q.toNat % 256) else r.getLsbD k := by
  have hpos : bitsOf q.toNat 7 0 = q.toNat % 256 := by simp [bitsOf]
  have hlen : bitsOf q.toNat 15 8 = q.toNat / 256 % 256 := by simp [bitsOf]
  unfold aBfi
  rw [hpos, hlen]
  generalize q.toNat % 256 = pos
  generalize q.toNat / 256 % 256 = len
  by_cases hout : 32 ≤ pos ∨ len = 0
  · have hno : ¬ (pos ≤ k ∧ k < pos + len) := by omega
    rw [if_neg hno, if_pos (by simpa using hout)]
  · rw [if_neg (by simpa using hout)]
    have hm := getLsbD_fieldMask (min len (32 - pos)) pos k hk
    simp only [BitVec.getLsbD_or, BitVec.getLsbD_and, BitVec.getLsbD_not, BitVec.getLsbD_shiftLeft, hm, hk, decide_true,
      Bool.true_and]
    by_cases hin : pos ≤ k ∧ k < pos + len
    · have hin' : pos ≤ k ∧ k < pos + min len (32 - pos) := by omega
      have hge : ¬ k < pos := by omega
      simp [hin, hin', hge]
    · have hin' : ¬ (pos ≤ k ∧ k < pos + min len (32 - pos)) := by omega
      simp [hin, hin']

/-- Settles O6: the operations of one lane by `setsVector_of_issue`, the moves by `vecPut_eq_vecs`. -/
theorem vectorMovesAndBits : Obligations.VectorMovesAndBits := by
  intro s f g t d a b x v n hi hu hm hd hn ha
  refine ⟨fun ht => ?_, ?_, ?_⟩
  · rw [ht] at hm ha
    have may := mayName_subset f g
    have h1 := may _ [(d, 1)] hm (by simp)
    have h2 := may _ [(d, 1), (a, 1)] hm (by simp)
    have sets := setsVector_of_issue s f g d hi hu hd ha
    have puts := setsVector_of_putV s f g d hi hu hd ha
    exact ⟨sets _ _ _ _ hm rfl fun l => mul_add_eq_wrap _ _ _, sets _ _ _ _ h2 rfl fun l => aAbs_eq_wrap _,
      sets _ _ _ _ h2 rfl fun l => aClz_eq_clzOf _, sets _ _ _ _ h2 rfl fun l => aPopc_eq_popOf _,
      sets _ _ _ _ hm rfl fun l => aBfe_eq_fieldIn t _ _ _,
      ⟨_, sets _ _ _ _ hm (exec_vbfi d a b x s) fun l => rfl, fun l k hk => getLsbD_aBfi _ _ _ k hk⟩,
      puts _ _ _ _ h1 rfl fun l => rfl, puts _ _ (fun c l => src32 c a l + v) _ h2 rfl fun l => add_eq_sumOf _ _,
      sets _ _ _ _ h1 rfl fun l => rfl⟩
  · refine setsVector_plain _ s f g d t.regs _ hi hu hd hn ha ?_
    rw [exec_vmov, execVmov, issue_acts _ _ _ s f g hi (mayName_subset f g _ _ hm (by simp)) (by simp), vecPut_eq_vecs]
  · refine setsVector_plain _ s f g d t.regs _ hi hu hd hn ha ?_
    rw [exec_vsel, execVsel, issue_acts _ _ _ s f g hi hm (by simp), vecPut_eq_vecs]
    congr 3
    funext k l
    by_cases h : src32 (ctxOf s f g) x l = 0#32 <;> simp [h]

/-! ### Pairs (08 R202) -/

/-- The words of a number depend on it modulo 2^64 only. -/
theorem wordOf_emod (z : Int) {k : Nat} (hk : k < 2) : wordOf (z % 2 ^ 64) k = wordOf z k := by
  apply BitVec.eq_of_toNat_eq
  rw [wordOf, wordOf, wrap, wrap, BitVec.toNat_ofInt, BitVec.toNat_ofInt]
  obtain rfl | rfl : k = 0 ∨ k = 1 := by omega
  · omega
  · omega

theorem wordOf_toNat_ofInt (z : Int) {k : Nat} (hk : k < 2) : wordOf ((BitVec.ofInt 64 z).toNat : Int) k = wordOf z k := by
  rw [← wordOf_emod z hk, BitVec.toNat_ofInt]
  congr 1
  omega

theorem dw_eq_ofInt (n : Nat) : dw n = BitVec.ofInt 64 n := (BitVec.ofInt_natCast 64 n).symm

theorem setWidth_eq_ofInt (p : Word) : p.setWidth 64 = BitVec.ofInt 64 p.toNat := by
  rw [BitVec.ofInt_natCast]
  exact (BitVec.ofNat_toNat 64 p).symm

theorem product_eq_ofInt (t : Ty) (p q : Word) :
    (if t == .s64 then p.signExtend 64 * q.signExtend 64 else p.setWidth 64 * q.setWidth 64 : DWord) =
      BitVec.ofInt 64 (if t = .s64 then p.toInt * q.toInt else p.toNat * q.toNat) := by
  by_cases h : t = .s64
  · simp only [h, beq_self_eq_true, if_true, BitVec.ofInt_mul]
    rfl
  · have hb : (t == Ty.s64) = false := by simpa using h
    simp only [h, hb, if_false, Bool.false_eq_true, BitVec.ofInt_mul, setWidth_eq_ofInt]

/-- Settles O7: the words of the exact number, which the model computes modulo 2^64. -/
theorem vectorPairs : Obligations.VectorPairs := by
  intro s f g t d a b x hi hu ht hd hn ha
  refine ⟨fun hm => ?_, fun hm => ?_⟩
  · refine setsVector_plain _ s f g d 2 _ hi hu hd hn ha ?_
    rw [exec_vadd64, execVadd64, issue_acts _ _ _ s f g hi hm (by simp), vecPut_eq_vecs, ht]
    simp only [Int.natCast_add]
  · have hex : exec (.vmad64 t d a b x) s = .next (retireNext (ctxOf s f g) (vecs (ctxOf s f g) d 2 fun k l =>
        wordOf ((BitVec.ofInt 64 ((if t = .s64 then (src32 (ctxOf s f g) a l).toInt * (src32 (ctxOf s f g) b l).toInt
          else (src32 (ctxOf s f g) a l).toNat * (src32 (ctxOf s f g) b l).toNat) + src (ctxOf s f g) t x l)).toNat : Int) k)) := by
      rw [exec_vmad64, execVmad64, issue_acts _ _ _ s f g hi hm (by simp), vecPut_eq_vecs, ht]
      simp only [product_eq_ofInt, dw_eq_ofInt, BitVec.ofInt_add]
    exact setsVector_congr _ s f g d 2 _ _ _ _ (setsVector_plain _ s f g d 2 _ hi hu hd hn ha hex)
      (fun k l hk _ _ => wordOf_toNat_ofInt _ hk) fun _ _ _ => rfl

/-! ### Across the lanes (08 R205-R208) -/

/-- The lane a shuffle names for lane `l` and word `y`. -/
def shflIndex (mode : ShMode) (l y : Nat) : Int :=
  match mode with
  | .idx => y
  | .up => l - y
  | .down => l + y
  | .xor => (l ^^^ y : Nat)

theorem shflLane_eq (mode : ShMode) (l : Nat) (y : Word) (hl : l < 96) :
    shflLane mode l y =
      if 0 ≤ shflIndex mode l y.toNat ∧ shflIndex mode l y.toNat < 96 then some (shflIndex mode l y.toNat).toNat else none := by
  have hword : (w32 l).toNat = l := by rw [w32, BitVec.toNat_ofNat]; exact Nat.mod_eq_of_lt (by omega)
  cases mode with
  | xor => simp only [shflLane, shflIndex, BitVec.toNat_xor, hword]; rfl
  | _ => rfl

/-- A shuffle reads the lane it names where that lane is active, and its own otherwise. -/
theorem shfl_select (em : Lanes) (mode : ShMode) (l : Nat) (y : Word) (v : Nat → Nat) (hl : l < 96) :
    (match shflLane mode l y with
      | some j => if em.getLsbD j then v j else v l
      | none => v l) =
    v (if 0 ≤ shflIndex mode l y.toNat ∧ shflIndex mode l y.toNat < 96 ∧ em.getLsbD (shflIndex mode l y.toNat).toNat then
      (shflIndex mode l y.toNat).toNat else l) := by
  rw [shflLane_eq mode l y hl]
  generalize shflIndex mode l y.toNat = j
  by_cases hj : 0 ≤ j ∧ j < 96
  · cases he : em.getLsbD j.toNat <;> simp [-BitVec.getLsbD_eq_getElem, hj, he]
  · have hno : ¬ (0 ≤ j ∧ j < 96 ∧ em.getLsbD j.toNat = true) := fun h => hj ⟨h.1, h.2.1⟩
    simp [hj, hno]

/-- Settles O8: every instruction writes numbers to its destination by `vecPut` or `putAny`. -/
theorem crossLane : Obligations.CrossLane := by
  intro s f g t mode op excl d a b hi hu hm hn
  have hm2 := mayName_subset f g _ [(d, t.regs), (a, t.regs)] hm (by simp)
  have hcast : exec (.vbcast t d a b) s = .next (retireNext (ctxOf s f g) (putAny (ctxOf s f g) t d
      (if (srcS (ctxOf s f g) b).toNat < 96 ∧ g.em.getLsbD (srcS (ctxOf s f g) b).toNat = true then
        src (ctxOf s f g) t a (srcS (ctxOf s f g) b).toNat else 0))) := by
    rw [exec_vbcast, execVbcast, issue_acts _ _ _ s f g hi hm (by simp)]
    simp only [Bool.and_eq_true, decide_eq_true_eq]
    rfl
  have hredu : exec (.vredu t op d a) s = .next (retireNext (ctxOf s f g) (putAny (raise (ctxOf s f g) (flagMasks (fun _ =>
      (reduce t op (fun l => g.em.getLsbD l) fun l => src (ctxOf s f g) t a l).2) g.em)) t d
      (reduce t op (fun l => g.em.getLsbD l) fun l => src (ctxOf s f g) t a l).1)) := by
    rw [exec_vredu, execVredu, issue_acts _ _ _ s f g hi hm2 (by simp)]
    rfl
  refine ⟨fun hd ha => ⟨?_, ?_, ?_, ?_⟩, fun hd => ⟨?_, ?_⟩⟩
  · have hex : exec (.vshfl t mode d a b) s = .next (retireNext (ctxOf s f g) (vecs (ctxOf s f g) d t.regs fun k l =>
        wordOf (match shflLane mode l (src32 (ctxOf s f g) b l) with
          | some j => if g.em.getLsbD j then src (ctxOf s f g) t a j else src (ctxOf s f g) t a l
          | none => src (ctxOf s f g) t a l : Nat) k)) := by
      rw [exec_vshfl, execVshfl, issue_acts _ _ _ s f g hi hm (by simp), vecPut_eq_vecs]
      rfl
    refine setsVector_congr _ s f g d t.regs _ _ _ _ (setsVector_plain _ s f g d t.regs _ hi hu hd hn ha hex)
      (fun k l _ hl _ => ?_) fun _ _ _ => rfl
    rw [shfl_select g.em mode l _ (fun j => src (ctxOf s f g) t a j) hl]
    cases mode <;> rfl
  · refine setsVector_plain _ s f g d t.regs _ hi hu hd hn ha ?_
    rw [hcast, putAny_vector _ t d _ hd]
  · refine setsVector_of _ s f g d t.regs _ _ hi hu hd hn ha ?_
    rw [hredu, putAny_vector _ t d _ hd]
  · refine setsVector_vecFlt _ s f g t d _ hi hu hd hn ha ?_
    rw [exec_vscan, execVscan, issue_acts _ _ _ s f g hi hm2 (by simp)]
    rfl
  · refine setsScalars_of _ s f g d _ hi hu hd (by simpa using hn) ?_
    obtain ⟨-, -, hf, -⟩ := puts_rest (ctxOf s f g) d ((List.range t.regs).map (wordOf
      ((if (srcS (ctxOf s f g) b).toNat < 96 ∧ g.em.getLsbD (srcS (ctxOf s f g) b).toNat = true then
        src (ctxOf s f g) t a (srcS (ctxOf s f g) b).toNat else 0 : Nat))))
    rw [hcast, putAny_scalar _ t d _ hd, retireNext_obs _ _ _ (by rw [hf]; exact hu.1)]
  · obtain ⟨-, -, hf, -⟩ := puts_rest (raise (ctxOf s f g) (flagMasks (fun _ =>
      (reduce t op (fun l => g.em.getLsbD l) fun l => src (ctxOf s f g) t a l).2) g.em)) d ((List.range t.regs).map (wordOf
      ((reduce t op (fun l => g.em.getLsbD l) fun l => src (ctxOf s f g) t a l).1)))
    rw [putAny_scalar _ t d _ hd, retireNext_obs _ _ _ (by rw [hf]; exact hu.1)] at hredu
    exact completes_puts_raise _ s f g d _ _ hi hu hd (by simpa using hn) hredu

/-! ### Sums over the lanes (08 R207) -/

theorem foldl_redStep_u32_add (x : Nat → Nat) (ls : List Nat) (a : Nat) (ha : a < 2 ^ 32) :
    ls.foldl (fun acc k => redStep .u32 .add acc (x k)) a = (a + (ls.map x).sum) % 2 ^ 32 := by
  induction ls generalizing a with
  | nil => exact (Nat.mod_eq_of_lt ha).symm
  | cons l ls ih =>
    have hstep : redStep .u32 .add a (x l) = (a + x l) % 2 ^ 32 := rfl
    rw [List.foldl_cons, hstep, ih _ (Nat.mod_lt _ (by decide)), List.map_cons, List.sum_cons]
    omega

/-- Settles O9: the u32 sum by induction on the lanes that take part; the f32 sum is `redSum`. -/
theorem reductionSums : Obligations.ReductionSums := by
  refine ⟨fun part x => ?_, fun part x => ?_⟩
  · have hf : (Ty.u32 == .f32) = false := rfl
    simp only [reduce, hf, Bool.false_and, Bool.false_eq_true, if_false]
    cases (List.range 96).filter part with
    | nil => rfl
    | cons l ls => exact foldl_redStep_u32_add (fun k => (x k).toNat) ls _ (x l).isLt
  · have hx (l : Nat) : w32 (x l).toNat = x l := BitVec.ofNat_toNat ..
    simp only [reduce, beq_self_eq_true, Bool.and_self, if_true, redSum, hx]

/-! ### Comparisons (08 R201, R212) -/

/-- A group of class S is neither of a trap bank nor out of bounds. -/
theorem mayName_cons_s (f : Flight) (g : Fragment) (n : Fin 96) (k : Nat) (ops : List (Opnd × Nat)) (h : MayName f g ops) :
    MayName f g ((.s n, k) :: ops) := by
  obtain ⟨hbank, hbound⟩ := h
  exact ⟨fun hl => by simpa [usesBank, Opnd.cls] using hbank hl, by simpa [outOfBound] using hbound⟩

theorem putCmp_vector (c : Ctx) (d : Opnd) (p : Nat → Bool) (hd : IsVector d) :
    putCmp c d p = vecWord c d fun l => if p l then 1 else 0 := by
  cases d with
  | s n => rcases hd with h | h <;> exact absurd h (by simp [Opnd.cls])
  | _ => rfl

/-- A comparison's whole mask, but for what the beacons are shown. -/
theorem putCmp_mask (c : Ctx) (m : Fin 24) (p : Nat → Bool) :
    putCmp c (.s (maskReg m)) p =
      { putMask c m (lanesOf fun l => c.g.em.getLsbD l && p l) with obs := (putCmp c (.s (maskReg m)) p).obs } := by
  have hm : maskOpnd (maskReg m) = m := by
    apply Fin.ext
    simp [maskOpnd, maskReg]
  simp only [putCmp, hm]
  rfl

section
variable (s : State) (f : Flight) (g : Fragment) (d : Opnd) (hi : Issues s f g) (hu : Unwatched s f)
include hi hu

theorem setsVector_putCmp (i : Instr) (ops : List (Opnd × Nat)) (p : Ctx → Nat → Bool) (r : Nat → Bool) (hm : MayName f g ops)
    (hd : IsVector d) (ha : Unread f d 1) (he : exec i s = issue ops false (fun c => retireNext c (putCmp c d (p c))) s)
    (hp : ∀ l, p (ctxOf s f g) l = r l) : SetsVector i s f g d 1 (fun _ l => if r l then 1 else 0) fun _ => 0 :=
  setsVector_of_issue s f g d hi hu hd ha i ops (fun c l => if p c l then 1 else 0) _ hm
    (by rw [he]; congr 1; funext c; rw [putCmp_vector c d _ hd]) fun l => by rw [hp]

theorem setsMask_putCmp (i : Instr) (ops : List (Opnd × Nat)) (p : Ctx → Nat → Bool) (r : Nat → Bool) (m : Fin 24)
    (hm : MayName f g ops) (he : exec i s = issue ops false (fun c => retireNext c (putCmp c (.s (maskReg m)) (p c))) s)
    (hp : ∀ l, p (ctxOf s f g) l = r l) :
    ∃ z : Lanes, (∀ l, l < 96 → z.getLsbD l = (g.em.getLsbD l && r l)) ∧ SetsMask i s f g m z := by
  obtain rfl : p (ctxOf s f g) = r := funext hp
  refine ⟨lanesOf fun l => g.em.getLsbD l && p (ctxOf s f g) l, fun l hl => getLsbD_lanesOf _ l hl, ?_⟩
  refine setsMask_of i s f g m _ hi hu ?_
  have hcore : (putMask (ctxOf s f g) m (lanesOf fun l => g.em.getLsbD l && p (ctxOf s f g) l)).f.core = f.core := by
    simp [putMask, ctxOf]
  rw [he, issue_acts ops false _ s f g hi hm (by simp), putCmp_mask]
  exact congrArg Host.Outcome.next (retireNext_obs (ctxOf s f g)
    (putMask (ctxOf s f g) m (lanesOf fun l => g.em.getLsbD l && p (ctxOf s f g) l)) _ (by rw [hcore]; exact hu.1))

end

/-- Settles O10: a comparison is `putCmp` of its condition in each lane. -/
theorem comparisons : Obligations.Comparisons := by
  intro s f g t q fq d a b m hi hu
  have hcmp (l : Nat) := aCond_eq_condHolds t q (src32 (ctxOf s f g) a l) (src32 (ctxOf s f g) b l)
  exact ⟨fun hm hd ha => setsVector_putCmp s f g d hi hu _ _ _ _ hm hd ha (exec_vcmp t q d a b s) hcmp,
    fun hm => setsMask_putCmp s f g hi hu _ _ _ _ m (mayName_cons_s f g _ 1 _ hm) (exec_vcmp t q (.s (maskReg m)) a b s) hcmp,
    fun hm hd ha => setsVector_putCmp s f g d hi hu _ _ _ _ hm hd ha (exec_vfcmp t fq d a b s) fun _ => rfl,
    fun hm => setsMask_putCmp s f g hi hu _ _ _ _ m (mayName_cons_s f g _ 1 _ hm) (exec_vfcmp t fq (.s (maskReg m)) a b s)
      fun _ => rfl⟩

end Sys2Proof.Machine
end

section
/-!
SUPPORT. Floating-point instructions (08 R209-R217), the rounding of a format's own values (07 R182), and the statistics and block
instructions (08 R221-R225).
-/
namespace Sys2Proof.Machine

theorem modeOf_eq (c : Ctx) (rm : Rm) : modeOf c rm = rmCode2 (c.f.fpmode.toNat % 4) rm := by
  simp [modeOf, bitsOf]

theorem unread_le (f : Flight) (d : Opnd) (r r' : Nat) (h : Unread f d r) (hr : r' ≤ r) : Unread f d r' := by
  cases d with
  | v n => exact fun k hk hk' => h k hk (by omega)
  | _ => exact trivial

theorem mayName_append (f : Flight) (g : Fragment) (xs ys : List (Opnd × Nat)) (hx : MayName f g xs) (hy : MayName f g ys) :
    MayName f g (xs ++ ys) := by
  obtain ⟨hbank, hbound⟩ := hx
  obtain ⟨hbank', hbound'⟩ := hy
  refine ⟨fun hl => ?_, ?_⟩
  · rw [usesBank, List.any_append, Bool.or_eq_false_iff]
    exact ⟨hbank hl, hbank' hl⟩
  · rw [List.any_append, hbound, hbound', Bool.or_false]

/-- A group that may be named may be named in part. -/
theorem mayName_le (f : Flight) (g : Fragment) (d : Opnd) (r r' : Nat) (h : MayName f g [(d, r)]) (hr : r' ≤ r) :
    MayName f g [(d, r')] := by
  obtain ⟨hbank, hbound⟩ := h
  refine ⟨hbank, ?_⟩
  cases d <;> simp only [List.any_cons, List.any_nil, Bool.or_false, outOfBound, decide_eq_false_iff_not] at hbound ⊢
  omega

section
variable (s : State) (f : Flight) (g : Fragment) (t : Ty) (d : Opnd) (hi : Issues s f g) (hu : Unwatched s f) (hd : IsVector d)
  (hn : d.idx + t.regs ≤ d.cls.size) (ha : Unread f d t.regs)
include hi hu hd hn ha

/-- An instruction that issues and writes a floating-point result in each active lane. -/
theorem setsVector_flt (i : Instr) (ops : List (Opnd × Nat)) (k : Ctx → Nat → FRes) (r : Nat → FRes) (hm : MayName f g ops)
    (he : exec i s = issue ops false (fun c => retireNext c (vecFlt c t d (k c))) s) (hr : ∀ l, k (ctxOf s f g) l = r l) :
    SetsVector i s f g d t.regs (fun j l => wordOf (r l).1 j) fun l => (r l).2 := by
  obtain rfl : k (ctxOf s f g) = r := funext hr
  exact setsVector_vecFlt i s f g t d _ hi hu hd hn ha (he.trans (issue_acts ops false _ s f g hi hm (by simp)))

end

/-- Settles O11: each instruction writes by `vecFlt` the result of its lane function under the resolved mode. -/
theorem floatArithmetic : Obligations.FloatArithmetic := by
  intro s f g t rm d a b x hi hu hm hd hn ha
  have may := fun ops => mayName_subset f g _ ops hm
  have h2 := may [(d, t.regs), (a, t.regs)] (by simp)
  have h3 := may [(d, t.regs), (a, t.regs), (b, t.regs)] (by simp)
  have sets := setsVector_flt s f g t d hi hu hd hn ha
  have hone : 1 ≤ t.regs := by rcases regs_eq_one_or_two t with h | h <;> omega
  refine ⟨sets _ _ _ _ h3 (exec_vfadd t rm d a b s) fun _ => by rw [modeOf_eq]; rfl, sets _ _ _ _ h3 (exec_vfsub t rm d a b s) fun _ => by rw [modeOf_eq]; rfl,
    sets _ _ _ _ h3 (exec_vfmul t rm d a b s) fun _ => by rw [modeOf_eq]; rfl, sets _ _ _ _ hm (exec_vfma t rm d a b x s) fun _ => by rw [modeOf_eq]; rfl,
    sets _ _ _ _ h3 (exec_vfmin t d a b s) fun _ => rfl, sets _ _ _ _ h3 (exec_vfmax t d a b s) fun _ => rfl,
    sets _ _ _ _ h2 (exec_vfrnd t rm d a s) fun _ => by rw [modeOf_eq]; rfl, fun hb => ?_, ?_⟩
  · have h3' : MayName f g [(d, t.regs), (a, t.regs), (b, 1)] := mayName_append f g _ _ h2 hb
    exact sets _ _ _ _ h3' (exec_vfscl t rm d a b s) fun _ => by rw [modeOf_eq]; rfl
  · have hd1 : MayName f g [(d, 1), (a, t.regs)] :=
      mayName_append f g [(d, 1)] [(a, t.regs)] (mayName_le f g d _ 1 (may _ (by simp)) hone) (may _ (by simp))
    exact setsVector_of_issue s f g d hi hu hd (unread_le f d _ 1 ha hone) _ _ _ _ hd1 (exec_vfclass t d a s)
      fun l => (wrap_natCast _).symm

/-! ### A format's own values (07 R178, R182) -/

theorem bitLen_one : bitLen 1 = 1 := by decide

theorem bitLen_pos (m : Nat) (h : m ≠ 0) : bitLen m = Nat.log2 m + 1 := by simp [bitLen, h]

/-- The leading bit of an integer number of units. -/
theorem leadExp_one (m : Nat) (e : Int) (h : m ≠ 0) : leadExp m 1 e = Nat.log2 m + e := by
  have hl : ((bitLen m : Nat) : Int) - (bitLen 1 : Nat) = Nat.log2 m := by
    rw [bitLen_pos m h, bitLen_one]
    omega
  have hq : (scaleDiv m 1 (-(Nat.log2 m : Int))).1 ≠ 0 := by
    unfold scaleDiv
    have hle : 2 ^ Nat.log2 m ≤ m := Nat.log2_self_le h
    by_cases h0 : Nat.log2 m = 0
    · simp [h0, h]
    · have hneg : ¬ (0 : Int) ≤ -(Nat.log2 m : Int) := by omega
      have hpos : 0 < m / 2 ^ Nat.log2 m := Nat.div_pos hle (Nat.two_pow_pos _)
      simp only [hneg, if_false, Int.neg_neg, Int.toNat_natCast, Nat.one_mul]
      omega
  unfold leadExp
  rw [hl]
  simp [hq]

theorem scaleDiv_zero (m : Nat) : scaleDiv m 1 0 = (m, 0, 1) := by
  simp [scaleDiv, Nat.mod_one]

theorem roundQ_exact (mode : Nat) (neg : Bool) (q : Nat) : roundQ mode neg q 0 1 = q := by
  unfold roundQ
  split <;> simp

/-- A finite value in the units of its own exponent field is its own rounding. -/
theorem roundTo_own (fm : Fmt) (mode : Nat) (neg : Bool) (e m : Nat) (he : e < fm.emax) (hm : m < 2 ^ fm.p)
    (hz : e = 0 → m ≠ 0) :
    roundTo fm mode neg (if e = 0 then m else m + 2 ^ fm.p) 1 ((max e 1 : Nat) - (fm.bias : Int) - fm.p) =
      (e * 2 ^ fm.p + m + (if neg then fm.sign else 0), 0) := by
  generalize hM : (if e = 0 then m else m + 2 ^ fm.p) = M
  have hpos : 0 < 2 ^ fm.p := Nat.two_pow_pos _
  have hM0 : M ≠ 0 := by
    rw [← hM]
    split
    next h => exact hz h
    next => omega
  have hlog : Nat.log2 M ≤ fm.p ∧ (e ≠ 0 → Nat.log2 M = fm.p) := by
    rw [← hM]
    split
    next h =>
      have := (Nat.log2_lt (hz h)).2 hm
      exact ⟨by omega, fun h' => absurd h h'⟩
    next h =>
      have hlog2 : Nat.log2 (m + 2 ^ fm.p) = fm.p :=
        (Nat.log2_eq_iff (by omega)).2 ⟨by omega, by rw [Nat.pow_succ]; omega⟩
      exact ⟨by omega, fun _ => hlog2⟩
  have hqe : max ((Nat.log2 M : Int) + ((max e 1 : Nat) - (fm.bias : Int) - fm.p) - fm.p) (1 - (fm.bias : Int) - fm.p) =
      (max e 1 : Nat) - (fm.bias : Int) - fm.p := by
    obtain ⟨hle, heq⟩ := hlog
    by_cases h0 : e = 0
    · subst h0
      have hmax : max 0 1 = 1 := rfl
      rw [hmax]
      omega
    · have := heq h0
      omega
  have hfield : ((((max e 1 : Nat) - (fm.bias : Int) - fm.p) + fm.p + fm.bias).toNat - 1) * 2 ^ fm.p + M = e * 2 ^ fm.p + m := by
    have hexp : (((max e 1 : Nat) - (fm.bias : Int) - fm.p) + fm.p + fm.bias).toNat - 1 = max e 1 - 1 := by omega
    rw [hexp, ← hM]
    by_cases h0 : e = 0
    · simp [h0]
    · obtain ⟨k, rfl⟩ : ∃ k, e = k + 1 := ⟨e - 1, by omega⟩
      have hk : max (k + 1) 1 - 1 = k := by omega
      rw [hk, if_neg h0, Nat.succ_mul]
      omega
  have hfin : ¬ fm.emax * 2 ^ fm.p ≤ e * 2 ^ fm.p + m := by
    have hmul : (e + 1) * 2 ^ fm.p ≤ fm.emax * 2 ^ fm.p := Nat.mul_le_mul_right _ he
    rw [Nat.succ_mul] at hmul
    omega
  unfold roundTo
  simp only [leadExp_one M _ hM0, hqe, Int.sub_self, scaleDiv_zero, roundQ_exact, hfield, hfin, if_false, beq_self_eq_true, if_true]

/-- A number of three digits, of which the middle one counts `p` and the top one `e * p`. -/
theorem split_digits (p e hi mid low : Nat) : p * (e * hi + mid) + low = e * p * hi + (mid * p + low) := by
  rw [Nat.mul_add, Nat.mul_comm p mid, ← Nat.mul_assoc, Nat.mul_comm p e, Nat.add_assoc]

/-- A bit pattern by its fields (07 R178). -/
theorem pattern_fields (fm : Fmt) (x : Nat) (hx : x < 2 * fm.sign) :
    x = x / 2 ^ fm.p % 2 ^ fm.eb * 2 ^ fm.p + x % 2 ^ fm.p + (if x / fm.sign % 2 == 1 then fm.sign else 0) := by
  have hsign : fm.sign = 2 ^ fm.eb * 2 ^ fm.p := by rw [Fmt.sign, Nat.pow_add, Nat.mul_comm]
  have hq : x / 2 ^ fm.p / 2 ^ fm.eb = x / fm.sign := by rw [Nat.div_div_eq_div_mul, hsign, Nat.mul_comm]
  have h1 := Nat.div_add_mod x (2 ^ fm.p)
  have h2 := Nat.div_add_mod (x / 2 ^ fm.p) (2 ^ fm.eb)
  rw [hq] at h2
  have hs2 : x / fm.sign < 2 := Nat.div_lt_of_lt_mul (by omega)
  have hsplit : x = fm.sign * (x / fm.sign) + (x / 2 ^ fm.p % 2 ^ fm.eb * 2 ^ fm.p + x % 2 ^ fm.p) := by
    calc x = 2 ^ fm.p * (x / 2 ^ fm.p) + x % 2 ^ fm.p := h1.symm
      _ = 2 ^ fm.p * (2 ^ fm.eb * (x / fm.sign) + x / 2 ^ fm.p % 2 ^ fm.eb) + x % 2 ^ fm.p := by rw [h2]
      _ = _ := by rw [hsign]; exact split_digits _ _ _ _ _
  obtain h | h := Nat.le_one_iff_eq_zero_or_eq_one.1 (Nat.le_of_lt_succ hs2)
  · rw [h] at hsplit ⊢
    simp at hsplit ⊢
    omega
  · rw [h] at hsplit ⊢
    simp at hsplit ⊢
    omega

/-- A finite value of a format is its own rounding and raises no flag. -/
theorem roundVal_val (fm : Fmt) (mode x : Nat) (hx : x < 2 * fm.sign) (he : x / 2 ^ fm.p % 2 ^ fm.eb ≠ fm.emax) :
    roundVal fm mode (fm.val x) = (x, 0) := by
  have hfields := pattern_fields fm x hx
  have hlt : x / 2 ^ fm.p % 2 ^ fm.eb < 2 ^ fm.eb := Nat.mod_lt _ (Nat.two_pow_pos _)
  have hm : x % 2 ^ fm.p < 2 ^ fm.p := Nat.mod_lt _ (Nat.two_pow_pos _)
  unfold Fmt.val
  dsimp only
  generalize x / 2 ^ fm.p % 2 ^ fm.eb = e at *
  generalize x % 2 ^ fm.p = m at *
  generalize (x / fm.sign % 2 == 1) = neg at *
  have he' : e < fm.emax := by unfold Fmt.emax at he ⊢; omega
  rw [if_neg (by simpa using he)]
  by_cases h0 : e = 0
  · rw [if_pos (by simpa using h0)]
    by_cases hm0 : m = 0
    · rw [hfields]
      simp [roundVal, h0, hm0, Fmt.zero]
    · have hown := roundTo_own fm mode neg e m he' hm (fun _ => hm0)
      rw [if_pos h0, h0] at hown
      rw [hfields, h0]
      simpa [roundVal, hm0] using hown
  · rw [if_neg (by simpa using h0)]
    have hown := roundTo_own fm mode neg e m he' hm (fun h => absurd h h0)
    have hmax : max e 1 = e := by omega
    rw [if_neg h0, hmax] at hown
    have hpos : 0 < 2 ^ fm.p := Nat.two_pow_pos _
    have hne : ¬ m + 2 ^ fm.p = 0 := by omega
    rw [hfields]
    simpa [roundVal, hne] using hown

/-- Settles O12: the conversions by `setsVector_flt`, the roundings by `roundVal_val`. -/
theorem conversions : Obligations.Conversions := by
  refine ⟨fun s f g t u rm d a b hi hu hm hd hn ha => ⟨fun ht hu1 hb => ?_, fun hb => ?_⟩,
    fun fm mode x _ hx he => roundVal_val fm mode x hx he⟩
  · have sets := setsVector_flt s f g t d hi hu hd hn ha
    have h3 : MayName f g [(d, 1), (a, 1), (b, 1)] := by
      rw [ht, hu1] at hm
      exact mayName_append f g _ _ hm hb
    exact ⟨sets _ _ _ _ h3 (exec_vf2i t rm u d a b s) fun l => by rw [modeOf_eq]; rfl,
      sets _ _ _ _ h3 (exec_vi2f t rm u d a b s) fun l => by rw [modeOf_eq]; rfl⟩
  · have h3 : MayName f g ([(d, t.regs), (a, u.regs)] ++ if paired t then [(b, 1)] else []) := by
      split
      next hp => exact mayName_append f g _ _ hm (hb hp)
      next => simpa using hm
    exact setsVector_flt s f g t d hi hu hd hn ha _ _ _ _ h3 (exec_vcvt t rm u d a b s) fun l => by rw [modeOf_eq]; rfl

/-! ### Statistics (08 R221, R222) -/

section
variable (s : State) (f : Flight) (g : Fragment) (d : Opnd) (hi : Issues s f g) (hu : Unwatched s f) (hd : IsVector d)
  (hn : d.idx + 4 ≤ d.cls.size) (ha : Unread f d 4)
include hi hu hd hn ha

/-- An instruction that issues and writes a statistics group in each active lane. -/
theorem setsVector_putStats (i : Instr) (ops : List (Opnd × Nat)) (k : Ctx → Nat → Stat × Nat) (r : Nat → Stat × Nat)
    (hm : MayName f g ops) (he : exec i s = issue ops false (fun c => retireNext c (putStats c d (k c))) s)
    (hr : ∀ l, k (ctxOf s f g) l = r l) :
    SetsVector i s f g d 3
      (fun j l => wrap (match j with
        | 0 => (r l).1.1
        | 1 => (r l).1.2.1
        | _ => (r l).1.2.2 : Nat)) fun l => (r l).2 := by
  obtain rfl : k (ctxOf s f g) = r := funext hr
  let at' (l : Nat) : Stat × Nat :=
    ((List.range 96).map fun l => if g.em.getLsbD l then k (ctxOf s f g) l else ((0, 0, 0), 0)).getD l ((0, 0, 0), 0)
  have hat (l : Nat) (hl : l < 96) (hem : g.em.getLsbD l = true) : at' l = k (ctxOf s f g) l := by
    simp only [at', List.getD_eq_getElem?_getD, List.getElem?_map, List.getElem?_range hl, Option.map_some, Option.getD_some,
      hem, if_true]
  have hputs : putStats (ctxOf s f g) d (k (ctxOf s f g)) = vecs (raise (ctxOf s f g) (flagMasks (fun l => (at' l).2) g.em)) d 3
      fun j l => w32 (match j with
        | 0 => (at' l).1.1
        | 1 => (at' l).1.2.1
        | _ => (at' l).1.2.2) := by
    simp only [vecs, List.range_succ, List.range_zero, List.nil_append, List.foldl_append, List.foldl_cons, List.foldl_nil,
      opAdd_zero]
    rfl
  have hw := setsVector_of i s f g d 3 _ _ hi hu hd (by omega) (unread_le f d 4 3 ha (by omega))
    (he.trans ((issue_acts ops false _ s f g hi hm (by simp)).trans (by rw [hputs])))
  refine setsVector_congr i s f g d 3 _ _ _ _ hw (fun j l _ hl hem => ?_) fun l hl hem => by rw [hat l hl hem]
  rw [hat l hl hem, wrap_natCast]

end

/-! ### Block exponents and packing (08 R223-R225) -/

theorem regs_of_isDxb (t : Ty) (h : t.isDxb = true) : t.regs = 1 := by
  cases t with
  | dxb8 => rfl
  | dxb6 => rfl
  | dxb4 => rfl
  | _ => exact absurd h (by decide)

theorem expAt_eq (c : Ctx) (o : Opnd) (k l : Nat) :
    expAt c o k l = ((regWord c o k l).toNat % 256, (regWord c o k l).toNat / 256 % 256) := by
  simp [expAt, bitsOf]

theorem bitsOf_byte (x j : Nat) : bitsOf x (8 * j + 7) (8 * j) = x / 256 ^ j % 256 := by
  have hw : 8 * j + 7 + 1 - 8 * j = 8 := by omega
  simp only [bitsOf, hw, Nat.pow_mul, Nat.reducePow]

/-- A packed element holds a byte (07 R189, R191). -/
theorem packElem_lt (t : Ty) (e0 e1 x : Nat) (ht : t.isDxb = true) : (packElem t e0 e1 x).1 < 256 := by
  have hmax : dxbMax t < 64 := by
    cases t with
    | dxb8 => decide
    | dxb6 => decide
    | dxb4 => decide
    | _ => exact absurd ht (by decide)
  have hsign : x / 2 ^ 31 % 2 * 128 ≤ 128 := by omega
  unfold packElem
  dsimp only
  generalize x / 2 ^ 31 % 2 * 128 = sign at *
  generalize dxbMax t = mx at *
  have hmin : min (blockQ x e0) mx < 64 := by omega
  repeat' split
  all_goals omega

/-- Four bytes packed into a word are its bytes. -/
theorem bytes_of_packed (r : Nat → Nat) (hr : ∀ j, j < 4 → r j < 256) (j : Nat) (hj : j < 4) :
    (w32 (r 0 + r 1 * 256 + r 2 * 256 ^ 2 + r 3 * 256 ^ 3)).toNat / 256 ^ j % 256 = r j := by
  have h0 := hr 0 (by decide)
  have h1 := hr 1 (by decide)
  have h2 := hr 2 (by decide)
  have h3 := hr 3 (by decide)
  rw [w32, BitVec.toNat_ofNat]
  obtain rfl | rfl | rfl | rfl : j = 0 ∨ j = 1 ∨ j = 2 ∨ j = 3 := by omega
  all_goals omega

/-- Flags raised by two steps are those of both. -/
theorem raise_raise (f : Flight) (p q : Nat → Nat) (m : Lanes) :
    (f.raise (flagMasks p m)).raise (flagMasks q m) = f.raise (flagMasks (fun l => p l ||| q l) m) := by
  have hbit (x y i : Nat) : bitOf (x ||| y) i = (bitOf x i || bitOf y i) := by
    have h (n : Nat) : bitOf n i = n.testBit i := by rw [bitOf, Nat.testBit_eq_decide_div_mod_eq, beq_eq_decide]
    rw [h, h, h, Nat.testBit_or]
  have hlanes (i : Nat) : flagLanes (fun l => p l ||| q l) m i = flagLanes p m i ||| flagLanes q m i := by
    apply BitVec.eq_of_getLsbD_eq
    intro l hl
    rw [BitVec.getLsbD_or, flagLanes, flagLanes, flagLanes, getLsbD_lanesOf _ _ hl, getLsbD_lanesOf _ _ hl,
      getLsbD_lanesOf _ _ hl, hbit]
    cases m.getLsbD l <;> simp
  unfold Flight.raise
  congr 1
  unfold orMasks
  refine List.map_congr_left fun i hi => ?_
  have hi4 : i < 4 := List.mem_range.1 hi
  have hget (r : Nat → Nat) : (flagMasks r m).getD i 0 = flagLanes r m i := by
    simp [flagMasks, List.getD_eq_getElem?_getD, List.getElem?_range hi4]
  rw [hget, hget, hlanes]
  have hfirst : ((List.range 4).map fun i => f.lflags.getD i 0 ||| (flagMasks p m).getD i 0).getD i 0 =
      f.lflags.getD i 0 ||| (flagMasks p m).getD i 0 := by
    simp [List.getD_eq_getElem?_getD, List.getElem?_range hi4]
  rw [hfirst, hget, BitVec.or_assoc]

/-- The flags that the first `n` of some steps raise. -/
def stepFlags (bits : Nat → Nat → Nat) (n l : Nat) : Nat := (List.range n).foldl (fun z j => z ||| bits j l) 0

theorem stepFlags_succ (bits : Nat → Nat → Nat) (n l : Nat) : stepFlags bits (n + 1) l = stepFlags bits n l ||| bits n l := by
  simp [stepFlags, List.range_succ]

/-- Two contexts are the same but for what the beacons are shown. -/
def SameButObs (c c' : Ctx) : Prop := c.st = c'.st ∧ c.f = c'.f ∧ c.g = c'.g

theorem SameButObs.trans {a b c : Ctx} (h : SameButObs a b) (h' : SameButObs b c) : SameButObs a c :=
  ⟨h.1.trans h'.1, h.2.1.trans h'.2.1, h.2.2.trans h'.2.2⟩

theorem SameButObs.raise {c c' : Ctx} (h : SameButObs c c') (ms : List Lanes) :
    SameButObs (Machine.raise c ms) (Machine.raise c' ms) := ⟨h.1, congrArg (·.raise ms) h.2.1, h.2.2⟩

theorem SameButObs.vecWord {c c' : Ctx} (h : SameButObs c c') (d : Opnd) (val : Nat → Word) :
    SameButObs (vecWord c d val) (Machine.vecWord c' d val) := by
  obtain ⟨st, f, g, o⟩ := c
  obtain ⟨st', f', g', o'⟩ := c'
  obtain ⟨rfl, rfl, rfl⟩ : st = st' ∧ f = f' ∧ g = g' := h
  cases d <;> exact ⟨rfl, rfl, rfl⟩

theorem retireNext_sameButObs (c0 c c' : Ctx) (h : SameButObs c c') (hb : (Machine.core c0.st c.f.core).bcn = []) :
    retireNext c0 c = retireNext c0 c' := by
  obtain ⟨st, f, g, o⟩ := c
  obtain ⟨st', f', g', o'⟩ := c'
  obtain ⟨rfl, rfl, rfl⟩ : st = st' ∧ f = f' ∧ g = g' := h
  exact retireNext_obs c0 ⟨st, f, g, o'⟩ o hb

theorem setBank_raise (f : Flight) (n : Nat) (t : TrapSet) (ms : List Lanes) :
    setBank (f.raise ms) n t = (setBank f n t).raise ms := by
  unfold setBank
  split <;> rfl

/-- A word written and flags raised, in either order. -/
theorem raise_vecWord (c : Ctx) (d : Opnd) (ms : List Lanes) (val : Nat → Word) :
    SameButObs (raise (vecWord c d val) ms) (vecWord (raise c ms) d val) := by
  cases d with
  | vt n =>
    refine ⟨rfl, ?_, rfl⟩
    exact congrArg (fun f => hitVt f c.g.level n.val c.g.em) (setBank_raise c.f c.g.level _ ms).symm
  | _ => exact ⟨rfl, rfl, rfl⟩

theorem raise_vecs (c : Ctx) (d : Opnd) (n : Nat) (ms : List Lanes) (val : Nat → Nat → Word) :
    SameButObs (raise (vecs c d n val) ms) (vecs (raise c ms) d n val) := by
  induction n with
  | zero => exact ⟨rfl, rfl, rfl⟩
  | succ n ih =>
    rw [vecs_succ, vecs_succ]
    exact (raise_vecWord _ _ ms _).trans (ih.vecWord _ _)

theorem vecs_sameButObs {c c' : Ctx} (h : SameButObs c c') (d : Opnd) (n : Nat) (val : Nat → Nat → Word) :
    SameButObs (vecs c d n val) (vecs c' d n val) := by
  induction n with
  | zero => exact h
  | succ n ih =>
    rw [vecs_succ, vecs_succ]
    exact ih.vecWord _ _

/-- A result of a lane, (0, 0) where it is not active. -/
def activeRes (m : Lanes) (r : Nat → FRes) (l : Nat) : FRes :=
  ((List.range 96).map fun l => if m.getLsbD l then r l else (0, 0)).getD l (0, 0)

theorem activeRes_eq (m : Lanes) (r : Nat → FRes) (l : Nat) (hl : l < 96) (h : m.getLsbD l = true) : activeRes m r l = r l := by
  simp only [activeRes, List.getD_eq_getElem?_getD, List.getElem?_map, List.getElem?_range hl, Option.map_some,
    Option.getD_some, h, if_true]

theorem vecFlt_one (c : Ctx) (t : Ty) (d : Opnd) (r : Nat → FRes) (ht : t.regs = 1) :
    vecFlt c t d r = vecWord (raise c (flagMasks (fun l => (activeRes c.g.em r l).2) c.g.em)) d fun l =>
      w32 (activeRes c.g.em r l).1 := by
  rw [vecFlt, vecPut, ht]
  rfl

/-- Steps that each write one register and raise flags write the registers and raise the flags of all. -/
theorem foldl_vecFlt (c : Ctx) (t : Ty) (d : Opnd) (r : Nat → Nat → FRes) (ht : t.regs = 1) (n : Nat) :
    SameButObs ((List.range (n + 1)).foldl (fun acc k => vecFlt acc t (opAdd d k) (r k)) c)
      (vecs (raise c (flagMasks (stepFlags (fun j l => (activeRes c.g.em (r j) l).2) (n + 1)) c.g.em)) d (n + 1)
        fun j l => w32 (activeRes c.g.em (r j) l).1) := by
  induction n with
  | zero =>
    have hflags : stepFlags (fun j l => (activeRes c.g.em (r j) l).2) 1 = fun l => (activeRes c.g.em (r 0) l).2 := by
      funext l
      simp [stepFlags, List.range_succ]
    have hstep : (List.range (0 + 1)).foldl (fun acc k => vecFlt acc t (opAdd d k) (r k)) c = vecFlt c t (opAdd d 0) (r 0) := rfl
    rw [hstep, hflags, vecFlt_one c t _ _ ht]
    exact ⟨rfl, rfl, rfl⟩
  | succ n ih =>
    rw [List.range_succ, List.foldl_append, List.foldl_cons, List.foldl_nil, vecFlt_one _ t _ _ ht, vecs_succ]
    generalize (List.range (n + 1)).foldl (fun acc k => vecFlt acc t (opAdd d k) (r k)) c = acc at ih ⊢
    have hem : acc.g.em = c.g.em := by rw [ih.2.2, (vecs_rest _ d (n + 1) _).2.1]; rfl
    rw [hem]
    refine SameButObs.vecWord ?_ _ _
    have hflags : (fun l => stepFlags (fun j l => (activeRes c.g.em (r j) l).2) (n + 1) l ||| (activeRes c.g.em (r (n + 1)) l).2) =
        stepFlags (fun j l => (activeRes c.g.em (r j) l).2) (n + 2) := funext fun l => (stepFlags_succ _ (n + 1) l).symm
    have hraise := raise_raise c.f (stepFlags (fun j l => (activeRes c.g.em (r j) l).2) (n + 1))
      (fun l => (activeRes c.g.em (r (n + 1)) l).2) c.g.em
    rw [hflags] at hraise
    refine (ih.raise _).trans ((raise_vecs _ _ _ _ _).trans (vecs_sameButObs ?_ d (n + 1) _))
    exact ⟨rfl, hraise, rfl⟩

theorem stepFlags_congr (p q : Nat → Nat → Nat) (n l : Nat) (h : ∀ j, p j l = q j l) : stepFlags p n l = stepFlags q n l := by
  simp [stepFlags, h]

/-- The bytes that VPKX packs in a lane, added up with their flags from the first `n` elements. -/
theorem foldl_pack (e : Nat → FRes) (n : Nat) :
    (List.range n).foldl (fun (acc : FRes) k => (acc.1 + (e k).1 * 256 ^ k, acc.2 ||| (e k).2)) (0, 0) =
      (((List.range n).map fun k => (e k).1 * 256 ^ k).sum, stepFlags (fun k _ => (e k).2) n 0) := by
  induction n with
  | zero => rfl
  | succ n ih => simp [List.range_succ, ih, stepFlags]

section
variable (s : State) (f : Flight) (g : Fragment) (t : Ty) (n : Fin 16) (d a b : Opnd) (hi : Issues s f g) (hu : Unwatched s f)
  (hd : IsVector d)
include hi hu hd

/-- VBEXP writes the exponents of the beat of its lane. -/
theorem setsVector_vbexp (ha : Unread f d 1) (hm : MayName f g [(d, 1), (a, 1)]) :
    SetsVector (.vbexp t n d a) s f g d 1
      (fun _ l =>
        let e := blockExp t ((n.val + 4) % 16)
          (((List.range 32).filter fun i => g.em.getLsbD (32 * (l / 32) + i)).map fun i =>
            src (ctxOf s f g) .f32 a (32 * (l / 32) + i))
        wrap (e.1 + e.2 * 256 : Nat)) (fun _ => 0) := by
  have hw := setsVector_of_issue s f g d hi hu hd ha _ _ _ _ hm (exec_vbexp t n d a s) fun _ => rfl
  refine setsVector_congr _ s f g d 1 _ _ _ _ hw (fun k l _ hl _ => ?_) fun _ _ _ => rfl
  have hk : l / 32 < 3 := by omega
  simp only [List.getD_eq_getElem?_getD, List.getElem?_map, List.getElem?_range hk, Option.map_some, Option.getD_some, wrap_natCast]
  rfl

/-- What VUNPKX makes of element `j` of a lane. -/
def unpacked (c : Ctx) (t : Ty) (a b : Opnd) (j l : Nat) : FRes :=
  unpackElem t (expAt c b j l).1 (expAt c b j l).2 (bitsOf (regWord c a 0 l).toNat (8 * j + 7) (8 * j))

/-- VUNPKX writes one element to each of four registers. -/
theorem setsVector_vunpkx (hn : d.idx + 4 ≤ d.cls.size) (ha : Unread f d 4) (ht : t.isDxb = true)
    (hm : MayName f g [(d, 4), (a, 1), (b, 4)]) :
    SetsVector (.vunpkx t d a b) s f g d 4 (fun j l => wrap (unpacked (ctxOf s f g) t a b j l).1)
      fun l => stepFlags (fun j l => (unpacked (ctxOf s f g) t a b j l).2) 4 l := by
  have hsteps := foldl_vecFlt (ctxOf s f g) t d (unpacked (ctxOf s f g) t a b) (regs_of_isDxb t ht) 3
  have he : exec (.vunpkx t d a b) s = .next (retireNext (ctxOf s f g) (vecs (raise (ctxOf s f g)
      (flagMasks (stepFlags (fun j l => (activeRes g.em (unpacked (ctxOf s f g) t a b j) l).2) 4) g.em)) d 4
        fun j l => w32 (activeRes g.em (unpacked (ctxOf s f g) t a b j) l).1)) := by
    rw [exec_vunpkx, execVunpkx, issue_acts _ _ _ s f g hi hm (by simp)]
    refine congrArg Host.Outcome.next (retireNext_sameButObs _ _ _ hsteps ?_)
    refine (congrArg (fun f : Flight => (Machine.core s f.core).bcn) hsteps.2.1).trans ?_
    rw [(vecs_rest _ d (3 + 1) _).2.2]
    exact hu.1
  refine setsVector_congr _ s f g d 4 _ _ _ _ (setsVector_of _ s f g d 4 _ _ hi hu hd hn ha he) (fun j l _ hl hem => ?_)
    fun l hl hem => ?_
  · rw [activeRes_eq _ _ _ hl hem, ← wrap_natCast]
  · refine stepFlags_congr _ (fun j l => (unpacked (ctxOf s f g) t a b j l).2) 4 l fun j => ?_
    rw [activeRes_eq _ _ _ hl hem]

/-- What VPKX makes of element `j` of a lane. -/
def packed (c : Ctx) (t : Ty) (a b : Opnd) (l j : Nat) : FRes :=
  packElem t (expAt c b j l).1 (expAt c b j l).2 (regWord c a j l).toNat

/-- VPKX writes the sum of the four elements at their bytes. -/
theorem setsVector_vpkx (hn : d.idx + 1 ≤ d.cls.size) (ha : Unread f d 1) (ht : t.isDxb = true)
    (hm : MayName f g [(d, 1), (a, 4), (b, 4)]) :
    SetsVector (.vpkx t d a b) s f g d 1
      (fun _ l => w32 ((List.range 4).map fun k => (packed (ctxOf s f g) t a b l k).1 * 256 ^ k).sum)
      fun l => stepFlags (fun k _ => (packed (ctxOf s f g) t a b l k).2) 4 0 := by
  have ht1 := regs_of_isDxb t ht
  have hw := setsVector_flt s f g t d hi hu hd (by omega) (unread_le f d 1 _ ha (by omega)) _ _ _ _ hm (exec_vpkx t d a b s)
    fun l => foldl_pack (packed (ctxOf s f g) t a b l) 4
  rw [ht1] at hw
  refine setsVector_congr _ s f g d 1 _ _ _ _ hw (fun k l hk _ _ => ?_) fun l _ _ => rfl
  obtain rfl : k = 0 := by omega
  rw [← w32_div_eq_wordOf, Nat.mul_zero, Nat.pow_zero, Nat.div_one]

end

theorem sum_four (p : Nat → Nat) :
    ((List.range 4).map fun k => p k * 256 ^ k).sum = p 0 + p 1 * 256 + p 2 * 256 ^ 2 + p 3 * 256 ^ 3 := by
  simp only [List.range_succ, List.range_zero, List.nil_append, List.map_append, List.map_cons, List.map_nil, List.sum_append,
    List.sum_cons, List.sum_nil, Nat.pow_zero, Nat.mul_one, Nat.pow_one, Nat.add_zero]

/-- Settles O15: the groups by `setsVector_putStats`, each block instruction by its own lemma. -/
theorem statisticsAndBlocks : Obligations.StatisticsAndBlocks := by
  intro s f g t rm n d a b hi hu hd hn ha
  have stats := setsVector_putStats s f g d hi hu hd hn ha
  have hn1 : d.idx + 1 ≤ d.cls.size := by omega
  have ha1 := unread_le f d 4 1 ha (by decide)
  refine ⟨fun hm => stats _ _ _ _ hm (exec_welf rm d a s) fun l => by rw [modeOf_eq]; rfl,
    fun hm => stats _ _ _ _ hm (exec_wmrg rm d a s) fun l => by rw [modeOf_eq]; rfl,
    fun hm => setsVector_vbexp s f g t n d a hi hu hd ha1 hm, fun ht hm => ?_, fun ht hm => ?_⟩
  · have hw := setsVector_vunpkx s f g t d a b hi hu hd hn ha ht hm
    simp only [unpacked, expAt_eq, bitsOf_byte] at hw
    exact hw
  · have hw := setsVector_vpkx s f g t d a b hi hu hd hn1 ha1 ht hm
    have hbyte (l j : Nat) : (packed (ctxOf s f g) t a b l j).1 < 256 := packElem_lt t _ _ _ ht
    refine ⟨_, setsVector_congr _ s f g d 1 _ _ _ _ hw (fun _ _ _ _ _ => rfl) fun l _ _ => ?_, fun l j hj => ?_⟩
    · simp only [stepFlags, packed, expAt_eq]
    · have hz := bytes_of_packed (fun j => (packed (ctxOf s f g) t a b l j).1) (fun j _ => hbyte l j) j hj
      rw [← sum_four fun j => (packed (ctxOf s f g) t a b l j).1] at hz
      rw [hz, packed, expAt_eq]
      refine (Nat.mod_eq_of_lt ?_).symm
      have hlt := hbyte l j
      rw [packed, expAt_eq] at hlt
      exact hlt

end Sys2Proof.Machine
end

section
/-!
SUPPORT. Instructions that move, wait or go on (06 R156, R164-R171), and the fences (13 R298, R301).
-/
namespace Sys2Proof.Machine

theorem mayName_nil (f : Flight) (g : Fragment) : MayName f g [] := ⟨fun _ => rfl, rfl⟩

/-! ### What a context that is committed leaves -/

/-- The flight and the fragments that a committed context leaves. -/
theorem commit_leaves (s : State) (f : Flight) (g : Fragment) (c : Ctx) (hi : Issues s f g) (hcur : c.st.cur = s.cur)
    (hfr : c.f.frags = f.frags) (hnum : c.g.num = g.num) :
    flight? (commit c) s.cur.1 = some (putFrag c.f c.g) ∧ frag? (putFrag c.f c.g) g.num = some c.g ∧
      Siblings f (putFrag c.f c.g) g ∧ ∀ k, k ≠ s.cur.1 → flight? (commit c) k = flight? c.st k := by
  have hfind (k : Nat) : frag? c.f k = frag? f k := by rw [frag?, hfr]; rfl
  refine ⟨?_, ?_, fun n hn => ?_, fun k hk => flight?_commit_ne c (by rw [hcur]; exact hk)⟩
  · rw [← hcur]
    exact flight?_commit c
  · rw [← hnum]
    exact frag?_putFrag_same c.f c.g g (by rw [hfind, hnum]; exact issues_frag s f g hi)
  · rw [frag?_putFrag_ne c.f c.g (by rw [hnum]; exact hn), hfind]

/-- An instruction whose committed context goes on. -/
theorem goesOn_of (i : Instr) (s : State) (f : Flight) (g : Fragment) (c : Ctx) (pc : DWord) (p : State → Flight → Fragment → Prop)
    (hi : Issues s f g) (he : exec i s = .next (commit c)) (hcur : c.st.cur = s.cur) (hfl : c.st.flights = s.flights)
    (hfr : c.f.frags = f.frags)
    (hg : c.g.num = g.num ∧ c.g.pc = pc ∧ c.g.wait = .run ∧ c.g.owned = g.owned ∧ c.g.level = g.level)
    (hp : p (commit c) (putFrag c.f c.g) c.g) : GoesOn i s g f pc p := by
  obtain ⟨hnum, hpc, hw, ho, hl⟩ := hg
  obtain ⟨h1, h2, h3, h4⟩ := commit_leaves s f g c hi hcur hfr hnum
  refine ⟨_, _, c.g, he, h1, h2, h3, fun k hk => (h4 k hk).trans ?_, hpc, hw, ho, hl, hp⟩
  rw [flight?, hfl, flight?]

/-- An instruction that completes unwatched and goes on at the next one. -/
theorem goesOn_retireNext (i : Instr) (s : State) (f : Flight) (g : Fragment) (c : Ctx) (p : State → Flight → Fragment → Prop)
    (hi : Issues s f g) (hu : (Machine.core s c.f.core).bcn = []) (he : exec i s = .next (retireNext (ctxOf s f g) c))
    (hcur : c.st.cur = s.cur) (hfl : c.st.flights = s.flights) (hfr : c.f.frags = f.frags)
    (hg : c.g.num = g.num ∧ c.g.pc = g.pc ∧ c.g.owned = g.owned ∧ c.g.level = g.level)
    (hp : p (commit (settled (next c))) (putFrag (settled (next c)).f (settled (next c)).g) (settled (next c)).g) :
    GoesOn i s g f (g.pc + 8) p := by
  obtain ⟨hnum, hpc, ho, hl⟩ := hg
  refine goesOn_of i s f g (settled (next c)) (g.pc + 8) p hi ?_ hcur hfl hfr ⟨hnum, ?_, rfl, ho, hl⟩ hp
  · rw [he, retireNext, retire_unwatched (ctxOf s f g) (next c) hu]
  · show c.g.pc + 8 = g.pc + 8
    rw [hpc]

/-- An instruction that stalls. -/
theorem stalls_of (i : Instr) (s : State) (f : Flight) (g : Fragment) (w : Why) (hi : Issues s f g)
    (he : exec i s = .next (stall (ctxOf s f g) w)) : Stalls i s f g w := by
  obtain ⟨h1, h2, h3, h4⟩ := commit_leaves s f g { ctxOf s f g with g := { g with wait := .stall w } } hi rfl rfl rfl
  exact ⟨_, _, he, rfl, h1, h2, h3, rfl, h4⟩

/-! ### Uniform transfers (06 R164-R166) -/

theorem target_eq (s : State) (f : Flight) (g : Fragment) (off : Word) :
    target (ctxOf s f g) off = g.pc + 8 + 8 * BitVec.ofInt 64 off.toInt := rfl

theorem aCc_eq (q : Cc) (x : Word) :
    aCc q x = match q with
      | .eqz => decide (x.toInt = 0)
      | .nez => decide (x.toInt ≠ 0)
      | .ltz => decide (x.toInt < 0)
      | .gez => decide (0 ≤ x.toInt)
      | .gtz => decide (0 < x.toInt)
      | .lez => decide (x.toInt ≤ 0) := by
  have hz : (x == 0) = decide (x.toInt = 0) := by
    rw [beq_eq_decide, decide_eq_decide]
    exact (BitVec.toInt_inj (x := x) (y := 0)).symm
  have hm : x.msb = decide (x.toInt < 0) := BitVec.msb_eq_toInt
  cases q with
  | eqz => exact hz
  | nez => simp only [aCc, bne, hz, ← decide_not, ne_eq]
  | ltz => exact hm
  | gez => simp only [aCc, hm, ← decide_not, Int.not_lt]
  | gtz =>
    simp only [aCc, bne, hz, hm, ← decide_not, ← Bool.decide_and]
    exact decide_eq_decide.2 (by omega)
  | lez =>
    simp only [aCc, hz, hm, ← Bool.decide_or]
    exact decide_eq_decide.2 (by omega)

/-- Two masks meet in no lane. -/
theorem and_eq_zero_iff (m z : Lanes) : m &&& z = 0 ↔ ∀ l, l < 96 → m.getLsbD l = true → z.getLsbD l = false := by
  constructor
  · intro h l _ hm
    have hl : (m &&& z).getLsbD l = false := by rw [h]; exact BitVec.getLsbD_zero
    rwa [BitVec.getLsbD_and, hm, Bool.true_and] at hl
  · intro h
    apply BitVec.eq_of_getLsbD_eq
    intro l hl
    rw [BitVec.getLsbD_and]
    cases hm : m.getLsbD l with
    | false => simp
    | true => simp [-BitVec.getLsbD_eq_getElem, h l hl hm]

theorem brmTaken_iff (mode : BrmMode) (em z : Lanes) :
    brmTaken mode em z = true ↔ match mode with
      | .all => ∀ l, l < 96 → em.getLsbD l = true → z.getLsbD l = true
      | .any => ∃ l, l < 96 ∧ em.getLsbD l = true ∧ z.getLsbD l = true
      | .none => ∀ l, l < 96 → em.getLsbD l = true → ¬ z.getLsbD l = true := by
  cases mode with
  | all =>
    rw [brmTaken, beq_iff_eq, and_eq_zero_iff]
    exact forall₃_congr fun l hl _ => by rw [BitVec.getLsbD_not, decide_eq_true hl]; simp
  | any =>
    rw [brmTaken, bne_iff_ne, ne_eq, and_eq_zero_iff]
    simp [-BitVec.getLsbD_eq_getElem]
  | none =>
    rw [brmTaken, beq_iff_eq, and_eq_zero_iff]
    exact forall₃_congr fun l _ _ => by simp

theorem exec_branch (s : State) (f : Flight) (g : Fragment) (i : Instr) (ops : List (Opnd × Nat)) (taken : Ctx → Bool) (off : Word)
    (hi : Issues s f g) (hu : Unwatched s f) (hm : MayName f g ops)
    (he : exec i s = issue ops false (fun c => branch c (taken c) off) s) :
    OnlyMoves i s f g (if taken (ctxOf s f g) then g.pc + 8 + 8 * BitVec.ofInt 64 off.toInt else g.pc + 8) :=
  onlyMoves_of i s f g _ hi hu (by rw [he, issue_acts ops false _ s f g hi hm (by simp), branch_off _ _ _ hu.2, target_eq]; rfl)

/-- An instruction that writes words to scalar registers and goes to an address. -/
theorem completes_puts_goto (i : Instr) (s : State) (f : Flight) (g : Fragment) (d : Opnd) (ws : List Word) (pc : DWord)
    (hi : Issues s f g) (hu : Unwatched s f) (hd : IsScalar d) (hn : d.idx + ws.length ≤ d.cls.size)
    (he : exec i s = .next (retire (ctxOf s f g) (goto (puts (ctxOf s f g) d ws) pc))) :
    Completes i s f g pc fun t f' g' => ScalarWrite f f' g g' d ws ∧ VectorsSame s t f f' ∧ f'.lflags = f.lflags := by
  obtain ⟨hst, -, hf, hg⟩ := puts_rest (ctxOf s f g) d ws
  have key := completesIn_of i s f g f pc (puts (ctxOf s f g) d ws)
    (fun t f' g' => ScalarWrite f f' g g' d ws ∧ VectorsSame s t f f' ∧ f'.lflags = f.lflags) hi
    (by rw [hf]; exact hu.1) (by rw [hst]; rfl) (by rw [hst]; rfl) (by rw [hf]; rfl) hg he (by rw [hf]; rfl) ?_
  · rw [hst] at key; exact key
  · intro t f' g' h1 h2 h3
    refine ⟨scalarWrite_puts (ctxOf s f g) d ws hd hn f' g' (by rw [h3]; rfl) (by rw [h3]; rfl) (by rw [h3]; rfl) h2, ?_, ?_⟩
    · exact fun n l => getV_same _ _ _ _ _ _ (by rw [h3, hf]; rfl) (by rw [h3, hf]; rfl) (by rw [h1, hst]; rfl)
    · rw [h3, hf]; rfl

/-- Settles O17: each transfer is a `goto` of the whole fragment, CALL after a write of its pair. -/
theorem uniformTransfers : Obligations.UniformTransfers := by
  intro s f g q mode m k a off hi hu
  have hbrm := exec_branch s f g (.brm mode m off) [] (fun c => brmTaken mode c.g.em (getMask c.f c.g m)) off hi hu
    (mayName_nil f g) (exec_brm mode m off s)
  have hiff := brmTaken_iff mode g.em (getMask f g m)
  refine ⟨?_, fun hm => ?_, fun h => ?_, fun h => ?_, fun hm => ?_, ?_⟩
  · refine onlyMoves_of _ s f g _ hi hu ?_
    rw [exec_bra, execBra, issue_acts _ _ _ s f g hi (mayName_nil f g) (by simp), target_eq]
  · have h := exec_branch s f g (.brc q a off) [(a, 1)] (fun c => aCc q (srcS c a)) off hi hu hm (exec_brc q a off s)
    rw [aCc_eq] at h
    exact h
  · have ht : brmTaken mode g.em (getMask f g m) = true := hiff.2 (by cases mode <;> exact h)
    have hb : brmTaken mode (ctxOf s f g).g.em (getMask (ctxOf s f g).f (ctxOf s f g).g m) = true := ht
    rw [if_pos hb] at hbrm
    exact hbrm
  · have ht : ¬ brmTaken mode g.em (getMask f g m) = true := fun h' => h (by cases mode <;> exact hiff.1 h')
    have hb : ¬ brmTaken mode (ctxOf s f g).g.em (getMask (ctxOf s f g).f (ctxOf s f g).g m) = true := ht
    rw [if_neg hb] at hbrm
    exact hbrm
  · refine onlyMoves_of _ s f g _ hi hu ?_
    rw [exec_ret, execRet, issue_acts _ _ _ s f g hi hm (by simp)]
    show Host.Outcome.next (retire _ (goto { ctxOf s f g with st := tracePacket s f g 2 _ } _)) = _
    rw [tracePacket_off s f g _ _ hu.2]
    rfl
  · have hreg : sReg (2 * k.val) = .s ⟨2 * k.val, by omega⟩ := by
      simp only [sReg, Nat.mod_eq_of_lt (show 2 * k.val < 96 by omega)]
    refine completes_puts_goto _ s f g (.s ⟨2 * k.val, by omega⟩) _ _ hi hu (Or.inl rfl) ?_ ?_
    · simp [Opnd.idx, Opnd.cls, Cls.size]
      omega
    · rw [exec_call, execCall, issue_acts _ _ _ s f g hi (mayName_nil f g) (by simp), hreg, puts_two, target_eq]
      rfl

/-! ### Flight control (06 R156, R168-R171) -/

theorem overLimit_none_iff (f : Flight) (level lim : Nat) :
    overLimit f level lim = none ↔ count f level .ld ≤ lim / 1024 % 64 ∧ count f level .sld ≤ lim / 64 % 16 ∧
      count f level .sfu ≤ lim / 4 % 16 ∧ count f level .acc ≤ lim % 4 := by
  have h0 : bitsOf lim 15 10 = lim / 1024 % 64 := rfl
  have h1 : bitsOf lim 9 6 = lim / 64 % 16 := rfl
  have h2 : bitsOf lim 5 2 = lim / 4 % 16 := rfl
  have h3 : bitsOf lim 1 0 = lim % 4 := by simp [bitsOf]
  unfold overLimit
  rw [h0, h1, h2, h3]
  repeat' split
  all_goals simp
  all_goals omega

theorem enterNext_off (c : Ctx) (h : (Machine.core c.st c.f.core).trcctl.getLsbD 0 = false) :
    enterNext c = { c with g := c.g.enter (c.g.pc + 8) } := by
  simp only [enterNext, tracePacket_off c.st c.f _ _ _ h]

theorem preemptPending_iff (s : State) (f : Flight) (g : Fragment) :
    preemptPending (ctxOf s f g) = true ↔ ∃ x, gangOf s f = some x ∧ x.state = .stopping ∧ x.why = 1 ∧ x.held = false := by
  have hc : gangOf (ctxOf s f g).st (ctxOf s f g).f = gangOf s f := rfl
  unfold preemptPending
  rw [hc]
  cases gangOf s f with
  | none => simp
  | some x => simp [and_assoc]

/-- Dropping a load cache changes cores only. -/
theorem dropCache_eq (s : State) (c : Nat) : dropCache s c = { s with cores := (dropCache s c).cores } := by
  unfold dropCache
  split <;> rfl

theorem dropCache_lcache (s : State) (c : Nat) : (Machine.core (dropCache s c) c).lcache = [] := by
  unfold dropCache
  split
  next h => simpa using h
  next => rw [core_modCore, if_pos rfl]

theorem core_dropCache_ne (s : State) (c k : Nat) (h : k ≠ c) : Machine.core (dropCache s c) k = Machine.core s k := by
  unfold dropCache
  split
  next => rfl
  next => rw [core_modCore, if_neg h]

theorem readByte_dropCache (s : State) (c a : Nat) : readByte (dropCache s c) a = readByte s a := by
  rw [dropCache_eq]
  rfl

/-- Where nothing changes but the fragment's bookkeeping, no register changes. -/
theorem noRegister_of (s t : State) (f f' : Flight) (g g' : Fragment) (hem : g'.em = g.em) (hs : f'.s = f.s) (hv : f'.v = f.v)
    (ha : f'.asyncR = f.asyncR) (hfree : t.free = s.free) (h1 : f'.t1 = f.t1) (h2 : f'.t2 = f.t2) (hl : f'.lflags = f.lflags)
    (hm : f'.mops = f.mops) (hp : f'.pend = f.pend) : NoRegister s t f f' g g' :=
  ⟨hem, fun k => getS_em _ _ _ _ k hs hem, fun n l => getV_same _ _ _ _ n l hv ha hfree, h1, h2, hl, hm, hp, ha⟩

/-- Settles O21: NOP, BRKPT and WAIT only move, stall or fault; REGN and YIELD change their fragment's bookkeeping; the fences wait for
open accesses and results. -/
theorem flightControl : Obligations.FlightControl := by
  intro s f g a lim kind sc hi hu
  have acts := fun body => issue_acts [] false body s f g hi (mayName_nil f g) (by simp)
  have moves : ∀ i, exec i s = .next (retireNext (ctxOf s f g) (ctxOf s f g)) → OnlyMoves i s f g (g.pc + 8) :=
    fun i he => onlyMoves_of i s f g _ hi hu he
  have hlim : lim.toNat / 1024 % 64 = lim.toNat / 1024 := Nat.mod_eq_of_lt (by have := lim.isLt; omega)
  have hover := overLimit_none_iff f g.level lim.toNat
  rw [hlim] at hover
  have hwait : exec (.wait lim) s = .next (match overLimit f g.level lim.toNat with
      | some code => stall (ctxOf s f g) (.wait code)
      | none => retireNext (ctxOf s f g) (ctxOf s f g)) := acts _
  refine ⟨moves _ (acts _), ?_, ?_, fun hm => ⟨fun hbp => ?_, fun hbp => moves _ ?_⟩, fun h => moves _ ?_, fun h => ?_,
    fun ho => stalls_of _ s f g _ hi ?_, fun ho => ⟨fun hk => moves _ ?_, fun h1 h2 h3 => ?_⟩, fun hz => ?_,
    fun hz => stalls_of _ s f g _ hi ?_⟩
  · refine goesOn_retireNext _ s f g { ctxOf s f g with g := g.enter (g.pc + 8) } _ hi hu.1 ?_ rfl rfl rfl ⟨rfl, rfl, rfl, rfl⟩
      ⟨⟨rfl, rfl, rfl⟩, noRegister_of _ _ _ _ _ _ rfl rfl rfl rfl rfl rfl rfl rfl rfl rfl, rfl⟩
    exact (acts _).trans (by rw [enterNext_off (ctxOf s f g) hu.2]; rfl)
  · exact goesOn_of _ s f g _ _ _ hi (acts _) rfl rfl rfl ⟨rfl, rfl, rfl, rfl, rfl⟩
      ⟨noRegister_of _ _ _ _ _ _ rfl rfl rfl rfl rfl rfl rfl rfl rfl rfl, rfl, preemptPending_iff s f g⟩
  · rw [Faults, exec_brkpt, execBrkpt, issue_acts _ _ _ s f g hi hm (by simp), if_pos (show (ctxOf s f g).f.bp = true from hbp)]
    rfl
  · rw [exec_brkpt, execBrkpt, issue_acts _ _ _ s f g hi hm (by simp),
      if_neg (show ¬ (ctxOf s f g).f.bp = true from by rw [show (ctxOf s f g).f.bp = f.bp from rfl, hbp]; exact Bool.false_ne_true)]
  · rw [hwait, hover.2 h]
  · cases hov : overLimit f g.level lim.toNat with
    | none => exact absurd (hover.1 hov) h
    | some code => exact ⟨code, stalls_of _ s f g _ hi (by rw [hwait, hov])⟩
  · exact (acts _).trans (congrArg _ (if_pos ho))
  · have hno : ¬ (kind != .rel && sc != .flight && sc != .block) = true := by
      rcases hk with rfl | rfl | rfl <;> simp
    exact (acts _).trans (by rw [show openFor (ctxOf s f g).f (ctxOf s f g).g.owned = false from ho]; simp [hno])
  · have hyes : (kind != .rel && sc != .flight && sc != .block) = true := by simp [h1, h2, h3]
    have hcur : (dropCache s f.core).cur = s.cur := by rw [dropCache_eq]
    have hfl : (dropCache s f.core).flights = s.flights := by rw [dropCache_eq]
    have hfree : (dropCache s f.core).free = s.free := by rw [dropCache_eq]
    refine goesOn_retireNext _ s f g { ctxOf s f g with st := dropCache s f.core } _ hi hu.1 ?_ hcur hfl rfl ⟨rfl, rfl, rfl, rfl⟩
      ⟨noRegister_of _ _ _ _ _ _ rfl rfl rfl rfl hfree rfl rfl rfl rfl rfl, readByte_dropCache s f.core,
        dropCache_lcache s f.core, core_dropCache_ne s f.core⟩
    exact (acts _).trans (by rw [show openFor (ctxOf s f g).f (ctxOf s f g).g.owned = false from ho]; simp [hyes, ctxOf])
  · refine completesIn_flight _ s f { f with dirty := [] } f g _ hi hu rfl rfl ?_ rfl fun t f' g' hfree hem hf' => ?_
    · exact (acts _).trans (by simp [hz, ctxOf])
    · subst hf'
      exact ⟨noRegister_of _ _ _ _ _ _ hem rfl rfl rfl hfree rfl rfl rfl rfl rfl, rfl⟩
  · obtain ⟨k, hk⟩ := hz
    have hany : [Counter.ld, .sld, .sfu, .acc].any (anyCount f) = true := by
      rw [List.any_eq_true]
      exact ⟨k, by cases k <;> simp, hk⟩
    exact (acts _).trans (congrArg _ (if_pos hany))

end Sys2Proof.Machine
end

section
/-!
SUPPORT. JOIN and its merge (06 R151): the least element of a list, the merged fragment, and the fragments a merge leaves.
-/
namespace Sys2Proof.Machine

/-! ### Least elements -/

theorem leastBy_some {β : Type} (key : β → Nat) (l : List β) (h : l ≠ []) :
    ∃ x, leastBy key l = some x ∧ x ∈ l ∧ ∀ y ∈ l, key x ≤ key y := by
  induction l with
  | nil => exact absurd rfl h
  | cons a r ih =>
    by_cases hr : r = []
    · subst hr
      exact ⟨a, rfl, by simp, by simp⟩
    · obtain ⟨y, hy, hmem, hle⟩ := ih hr
      by_cases hlt : key y < key a
      · refine ⟨y, by simp [leastBy, hy, hlt], List.mem_cons_of_mem a hmem, fun z hz => ?_⟩
        rcases List.mem_cons.1 hz with rfl | hz
        · omega
        · exact hle z hz
      · refine ⟨a, by simp [leastBy, hy, hlt], List.mem_cons_self, fun z hz => ?_⟩
        rcases List.mem_cons.1 hz with rfl | hz
        · omega
        · have := hle z hz
          omega

theorem foldl_max_spec (l : List Nat) (h : l ≠ []) : l.foldl max 0 ∈ l ∧ ∀ x ∈ l, x ≤ l.foldl max 0 := by
  induction l using fromEnd with
  | nil => exact absurd rfl h
  | snoc l a ih =>
    rw [List.foldl_append, List.foldl_cons, List.foldl_nil]
    by_cases hl : l = []
    · subst hl
      simp
    · obtain ⟨hmem, hle⟩ := ih hl
      refine ⟨?_, fun x hx => ?_⟩
      · by_cases hm : a ≤ l.foldl max 0
        · rw [Nat.max_eq_left hm]
          exact List.mem_append_left _ hmem
        · rw [Nat.max_eq_right (by omega)]
          simp
      · rcases List.mem_append.1 hx with hx | hx
        · have := hle x hx
          omega
        · obtain rfl : x = a := by simpa using hx
          omega

/-! ### The merged fragment (06 R151) -/

/-- The fragment that parked fragments merge into. -/
def MergeOf (gs : List Fragment) (m : Fragment) : Prop :=
  ((∃ h ∈ gs, h.num = m.num) ∧ ∀ h ∈ gs, m.num ≤ h.num) ∧
    m.owned = unionLanes (gs.map (·.owned)) ∧ m.em = unionLanes (gs.map (·.em)) ∧ m.wait = .run ∧
    (∃ h ∈ gs, (m.pc = h.pc + 8 ∧ m.rpc = h.pc + 8) ∧
      ∀ x ∈ gs, (lowestLane h.owned).getD 96 ≤ (lowestLane x.owned).getD 96) ∧
    ∃ h ∈ gs, m.region = h.region + 1 ∧ ∀ x ∈ gs, x.region.toNat ≤ h.region.toNat

theorem mergeFrags_spec (gs : List Fragment) (hne : gs ≠ []) : ∃ m, mergeFrags gs = some m ∧ MergeOf gs m := by
  obtain ⟨low, hlow, hlowmem, hlowle⟩ := leastBy_some (·.num) gs hne
  obtain ⟨first, hfirst, hfirstmem, hfirstle⟩ := leastBy_some (fun g : Fragment => (lowestLane g.owned).getD 96) gs hne
  obtain ⟨hmem, hle⟩ := foldl_max_spec (gs.map fun g => g.region.toNat) (by simpa using hne)
  obtain ⟨top, htop, hval⟩ := List.mem_map.1 hmem
  have hmerge : mergeFrags gs = some { low with
      owned := unionLanes (gs.map (·.owned)), em := unionLanes (gs.map (·.em)), pc := first.pc + 8,
      region := w32 ((gs.map fun g => g.region.toNat).foldl max 0 + 1), rpc := first.pc + 8,
      rmask := unionLanes (gs.map (·.em)), wait := .run, halted := gs.any (·.halted), stopped := gs.any (·.stopped),
      regionStop := gs.any (·.regionStop) } := by
    simp only [mergeFrags, hlow, hfirst]
  refine ⟨_, hmerge, ⟨⟨low, hlowmem, rfl⟩, hlowle⟩, rfl, rfl, rfl,
    ⟨first, hfirstmem, ⟨rfl, rfl⟩, hfirstle⟩, top, htop, ?_, fun x hx => ?_⟩
  · show w32 ((gs.map fun g => g.region.toNat).foldl max 0 + 1) = top.region + 1
    rw [← hval]
    apply BitVec.eq_of_toNat_eq
    simp [w32]
  · rw [hval]
    exact hle _ (List.mem_map.2 ⟨x, hx, rfl⟩)

/-- A merge reads the numbers, lanes, PCs and regions of the parked fragments only. -/
theorem MergeOf.congr (gs : List Fragment) (r : Fragment → Fragment) (m : Fragment) (h : MergeOf (gs.map r) m)
    (hr : ∀ x ∈ gs, (r x).num = x.num ∧ (r x).owned = x.owned ∧ (r x).em = x.em ∧ (r x).pc = x.pc ∧ (r x).region = x.region) :
    MergeOf gs m := by
  obtain ⟨⟨⟨n', hn', hnum⟩, hmin⟩, howned, hem, hwait, ⟨p', hp', ⟨hpc, hrpc⟩, hlow⟩, q', hq', hreg, hmax⟩ := h
  obtain ⟨n, hn, rfl⟩ := List.mem_map.1 hn'
  obtain ⟨p, hp, rfl⟩ := List.mem_map.1 hp'
  obtain ⟨q, hq, rfl⟩ := List.mem_map.1 hq'
  have ho : (gs.map r).map (·.owned) = gs.map (·.owned) := by
    rw [List.map_map]
    exact List.map_congr_left fun x hx => (hr x hx).2.1
  have he : (gs.map r).map (·.em) = gs.map (·.em) := by
    rw [List.map_map]
    exact List.map_congr_left fun x hx => (hr x hx).2.2.1
  rw [ho] at howned
  rw [he] at hem
  obtain ⟨hnn, -⟩ := hr n hn
  obtain ⟨-, hpo, -, hpp, -⟩ := hr p hp
  obtain ⟨-, -, -, -, hqr⟩ := hr q hq
  rw [hnn] at hnum
  rw [hpp] at hpc hrpc
  rw [hqr] at hreg hmax
  rw [hpo] at hlow
  refine ⟨⟨⟨n, hn, hnum⟩, fun x hx => ?_⟩, howned, hem, hwait, ⟨p, hp, ⟨hpc, hrpc⟩, fun x hx => ?_⟩, q, hq, hreg, fun x hx => ?_⟩
  · obtain ⟨hxn, -⟩ := hr x hx
    exact hxn ▸ hmin (r x) (List.mem_map.2 ⟨x, hx, rfl⟩)
  · obtain ⟨-, hxo, -⟩ := hr x hx
    exact hxo ▸ hlow (r x) (List.mem_map.2 ⟨x, hx, rfl⟩)
  · obtain ⟨-, -, -, -, hxr⟩ := hr x hx
    exact hxr ▸ hmax (r x) (List.mem_map.2 ⟨x, hx, rfl⟩)

theorem unionLanes_map (gs : List Fragment) (p : Fragment → Lanes) :
    unionLanes (gs.map p) = gs.foldl (fun m h => m ||| p h) 0 := by
  rw [unionLanes, List.foldl_map]

theorem subLanes_iff (e a : Lanes) : subLanes e a = true ↔ e &&& ~~~a = 0 := by
  rw [subLanes, beq_iff_eq]
  constructor
  · intro h
    rw [← h]
    apply BitVec.eq_of_getLsbD_eq
    intro l hl
    simp only [BitVec.getLsbD_and, BitVec.getLsbD_not, hl, decide_true, Bool.true_and]
    cases e.getLsbD l <;> cases a.getLsbD l <;> simp
  · intro h
    apply BitVec.eq_of_getLsbD_eq
    intro l hl
    have hb : (e &&& ~~~a).getLsbD l = false := by rw [h]; exact BitVec.getLsbD_zero
    simp only [BitVec.getLsbD_and, BitVec.getLsbD_not, hl, decide_true, Bool.true_and] at hb ⊢
    revert hb
    cases e.getLsbD l <;> cases a.getLsbD l <;> decide

/-! ### The fragments that a merge leaves -/

theorem find?_filter_of {β : Type} (p q : β → Bool) (l : List β) (h : ∀ x ∈ l, p x = true → q x = true) :
    (l.filter q).find? p = l.find? p := by
  induction l with
  | nil => rfl
  | cons x r ih =>
    have hr := ih fun y hy => h y (List.mem_cons_of_mem x hy)
    cases hp : p x with
    | true => rw [List.filter_cons_of_pos (h x List.mem_cons_self hp), List.find?_cons_of_pos hp, List.find?_cons_of_pos hp]
    | false =>
      rw [List.find?_cons_of_neg (by simp [hp]), ← hr]
      cases hq : q x with
      | true => rw [List.filter_cons_of_pos hq, List.find?_cons_of_neg (by simp [hp])]
      | false => rw [List.filter_cons_of_neg (by simp [hq])]

/-- The lookup of a number among the fragments left when the parked ones became `m`. -/
theorem find?_merged (frags : List Fragment) (parked : Fragment → Bool) (m : Fragment) (k : Nat)
    (hnd : (frags.map (·.num)).Nodup) (hm : ∃ h ∈ frags.filter parked, h.num = m.num) :
    (insBy (·.num) m (frags.filter fun g => !parked g)).find? (fun g => g.num == k) =
      if k = m.num then some m
      else if ∃ h ∈ frags.filter parked, h.num = k then none else frags.find? fun g => g.num == k := by
  have hgone (h : Fragment) (hh : h ∈ frags.filter parked) :
      ((frags.filter fun g => !parked g).find? fun g => g.num == h.num) = none := by
    obtain ⟨hhf, hhp⟩ := List.mem_filter.1 hh
    rw [List.find?_eq_none]
    intro x hx hnum
    obtain ⟨hxf, hxp⟩ := List.mem_filter.1 hx
    obtain rfl : x = h := eq_of_key hnd hxf hhf (by simpa using hnum)
    simp [hhp] at hxp
  have hnew : ((frags.filter fun g => !parked g).find? fun g => g.num == m.num) = none := by
    obtain ⟨h, hh, hnum⟩ := hm
    rw [← hnum]
    exact hgone h hh
  rw [find?_insBy_num m k _ hnew]
  split
  next => rfl
  next =>
    split
    next hex =>
      obtain ⟨h, hh, rfl⟩ := hex
      exact hgone h hh
    next hno =>
      refine find?_filter_of _ _ frags fun x hx hnum => ?_
      cases hp : parked x with
      | false => rfl
      | true => exact absurd ⟨x, List.mem_filter.2 ⟨hx, hp⟩, by simpa using hnum⟩ hno

/-! ### JOIN (06 R151) -/

/-- The fragment as it stands parked at a token. -/
def parkedFrag (s : State) (g : Fragment) (tok : Nat) : Fragment :=
  { g with wait := .join tok, last := some s.cycle, run := g.run + 1, ready := s.cycle, aged := false, skip := false }

/-- The state in which the issuing fragment stands parked at a token. -/
def parkedState (s : State) (f : Flight) (g : Fragment) (tok : Nat) : State :=
  commit { ctxOf s f g with f := { f with issued := f.issued + 1 }, g := parkedFrag s g tok }

/-- The flight whose issuing fragment stands parked at a token. -/
def parkedFlight (s : State) (f : Flight) (g : Fragment) (tok : Nat) : Flight :=
  putFrag { f with issued := f.issued + 1 } (parkedFrag s g tok)

/-- The issuing fragment's place in its flight's list, taken by the parked one. -/
def putParked (s : State) (g : Fragment) (tok : Nat) (h : Fragment) : Fragment :=
  if h.num == g.num then parkedFrag s g tok else h

/-- The fragments that stand at a token once the issuing one does. -/
def atJoin (g : Fragment) (tok : Nat) (h : Fragment) : Bool := h.num = g.num ∨ (h.wait = .join tok ∧ h.halted = false)

section
variable (s : State) (f : Flight) (g : Fragment) (tok : Nat)

theorem parkedFlight_frags : (parkedFlight s f g tok).frags = f.frags.map (putParked s g tok) := rfl

theorem isParked_putParked (hh : g.halted = false) (h : Fragment) :
    ((putParked s g tok h).wait == .join tok && !(putParked s g tok h).halted) = atJoin g tok h := by
  by_cases hn : h.num = g.num
  · simp [putParked, atJoin, hn, parkedFrag, hh]
  · simp [putParked, atJoin, hn, beq_eq_decide]

theorem joined_parkedFlight (hh : g.halted = false) :
    joined (parkedFlight s f g tok) tok = (f.frags.filter (atJoin g tok)).map (putParked s g tok) := by
  rw [joined, parkedFlight_frags, List.filter_map]
  congr 1
  exact List.filter_congr fun h _ => isParked_putParked s g tok hh h

theorem putParked_same (hi : Issues s f g) (hnd : (f.frags.map (·.num)).Nodup) (h : Fragment) (hf : h ∈ f.frags) :
    (putParked s g tok h).num = h.num ∧ (putParked s g tok h).owned = h.owned ∧ (putParked s g tok h).em = h.em ∧
      (putParked s g tok h).pc = h.pc ∧ (putParked s g tok h).region = h.region := by
  unfold putParked
  split
  next hn =>
    obtain rfl : h = g := eq_of_key hnd hf (List.mem_of_find?_eq_some (issues_frag s f g hi)) (by simpa using hn)
    exact ⟨rfl, rfl, rfl, rfl, rfl⟩
  next => exact ⟨rfl, rfl, rfl, rfl, rfl⟩

theorem exec_join_parks (tok : Fin 16) (hi : Issues s f g) (hz : mgetD f.tokens tok.val 0 &&& g.owned ≠ 0) :
    exec (.join tok) s = .next (tryMerge (parkedState s f g tok.val) s.cur.1 g.num tok.val) := by
  have hz' : ¬ (g.owned &&& mgetD f.tokens tok.val 0 == 0) = true := by
    rw [BitVec.and_comm]
    simpa using hz
  exact (issue_acts [] false _ s f g hi (mayName_nil f g) (by simp)).trans (congrArg _ (if_neg hz'))

end

/-- While an expected lane is missing, a merge waits. -/
theorem tryMerge_waits (s : State) (fid by' k : Nat) (f : Flight) (e : Lanes) (hf : flight? s fid = some f)
    (he : mget? f.tokens k = some e) (hsub : subLanes e (unionLanes ((joined f k).map (·.owned))) = false) :
    tryMerge s fid by' k = s := by
  simp [tryMerge, hf, he, hsub]

/-- When every expected lane has arrived, the parked fragments become the merged one. -/
theorem tryMerge_merges (s : State) (fid by' k : Nat) (f : Flight) (e : Lanes) (m : Fragment) (hf : flight? s fid = some f)
    (he : mget? f.tokens k = some e) (hsub : subLanes e (unionLanes ((joined f k).map (·.owned))) = true)
    (hm : mergeFrags (joined f k) = some m) (ht : (Machine.core s f.core).trcctl.getLsbD 0 = false) :
    tryMerge s fid by' k = modFlight s fid fun _ =>
      { f with tokens := mdel f.tokens k, frags := insBy (·.num) m (f.frags.filter fun g => g.wait != .join k || g.halted) } := by
  simp only [tryMerge, hf, he, hsub, hm, Bool.not_true, Bool.false_eq_true, if_false]
  rw [tracePacket_off _ _ _ 4 _ (by exact ht), tracePacket_off _ _ _ 3 _ (by exact ht)]

section
variable (s : State) (f : Flight) (g : Fragment) (tok : Fin 16) (hi : Issues s f g) (hu : Unwatched s f)
  (hh : g.halted = false) (hz : mgetD f.tokens tok.val 0 &&& g.owned ≠ 0)

include hz in
theorem token_armed : mget? f.tokens tok.val = some (mgetD f.tokens tok.val 0) := by
  unfold mgetD at hz ⊢
  cases he : mget? f.tokens tok.val with
  | none => simp [he] at hz
  | some e => rfl

include hi hh

/-- The lanes that have arrived once the issuing fragment has. -/
theorem union_joined (hnd : (f.frags.map (·.num)).Nodup) :
    unionLanes ((joined (parkedFlight s f g tok.val) tok.val).map (·.owned)) =
      (f.frags.filter (atJoin g tok.val)).foldl (fun m h => m ||| h.owned) 0 := by
  rw [joined_parkedFlight s f g tok.val hh, List.map_map, ← unionLanes_map]
  congr 1
  exact List.map_congr_left fun h hm => (putParked_same s f g tok.val hi hnd h (mem_of_mem_filter hm)).2.1

include hz in
/-- JOIN parks its fragment while an expected lane is missing. -/
theorem join_parks (hnd : (f.frags.map (·.num)).Nodup)
    (hwait : mgetD f.tokens tok.val 0 &&& ~~~((f.frags.filter (atJoin g tok.val)).foldl (fun m h => m ||| h.owned) 0) ≠ 0) :
    exec (.join tok) s = .next (parkedState s f g tok.val) := by
  rw [exec_join_parks s f g tok hi hz]
  refine congrArg _ (tryMerge_waits _ _ _ _ (parkedFlight s f g tok.val) _ (flight?_commit _)
    (token_armed f g tok hz) ?_)
  rw [union_joined s f g tok hi hh hnd, Bool.eq_false_iff, ne_eq, subLanes_iff]
  exact hwait

/-- The flight after a merge into `m`. -/
def mergedFlight (s : State) (f : Flight) (g : Fragment) (tok : Nat) (m : Fragment) : Flight :=
  { parkedFlight s f g tok with
    tokens := mdel f.tokens tok
    frags := insBy (·.num) m ((parkedFlight s f g tok).frags.filter fun g => g.wait != .join tok || g.halted) }

include hz hu in
/-- JOIN merges when every expected lane has arrived. -/
theorem join_merges (hnd : (f.frags.map (·.num)).Nodup)
    (hall : mgetD f.tokens tok.val 0 &&& ~~~((f.frags.filter (atJoin g tok.val)).foldl (fun m h => m ||| h.owned) 0) = 0) :
    ∃ m, MergeOf (f.frags.filter (atJoin g tok.val)) m ∧
      exec (.join tok) s = .next (modFlight (parkedState s f g tok.val) s.cur.1 fun _ => mergedFlight s f g tok.val m) := by
  have hg : g ∈ f.frags.filter (atJoin g tok.val) :=
    List.mem_filter.2 ⟨List.mem_of_find?_eq_some (issues_frag s f g hi), by simp [atJoin]⟩
  obtain ⟨m, hm, hof⟩ := mergeFrags_spec (joined (parkedFlight s f g tok.val) tok.val) (by
    rw [joined_parkedFlight s f g tok.val hh]
    exact List.ne_nil_of_mem (List.mem_map.2 ⟨g, hg, rfl⟩))
  rw [joined_parkedFlight s f g tok.val hh] at hof
  refine ⟨m, MergeOf.congr _ _ m hof fun x hx => putParked_same s f g tok.val hi hnd x (mem_of_mem_filter hx), ?_⟩
  rw [exec_join_parks s f g tok hi hz]
  refine congrArg _ (tryMerge_merges _ _ _ _ (parkedFlight s f g tok.val) _ m (flight?_commit _)
    (token_armed f g tok hz) ?_ hm hu.2)
  rw [union_joined s f g tok hi hh hnd, subLanes_iff]
  exact hall

/-- The fragments of a flight after a merge. -/
theorem frag?_mergedFlight (hnd : (f.frags.map (·.num)).Nodup) (m : Fragment)
    (hm : ∃ h ∈ f.frags.filter (atJoin g tok.val), h.num = m.num) (k : Nat) :
    frag? (mergedFlight s f g tok.val m) k =
      if k = m.num then some m
      else if ∃ h ∈ f.frags.filter (atJoin g tok.val), h.num = k then none else frag? f k := by
  have hnums : (parkedFlight s f g tok.val).frags.map (·.num) = f.frags.map (·.num) := by
    rw [parkedFlight_frags, List.map_map]
    exact List.map_congr_left fun h hf => (putParked_same s f g tok.val hi hnd h hf).1
  have hrest : ((parkedFlight s f g tok.val).frags.filter fun g => g.wait != .join tok.val || g.halted) =
      (parkedFlight s f g tok.val).frags.filter fun h => !(h.wait == .join tok.val && !h.halted) :=
    List.filter_congr fun h _ => by cases h.halted <;> simp [bne]
  have hgone (k : Nat) : (∃ h ∈ (parkedFlight s f g tok.val).frags.filter fun h => h.wait == .join tok.val && !h.halted, h.num = k) ↔
      ∃ h ∈ f.frags.filter (atJoin g tok.val), h.num = k := by
    have hj := joined_parkedFlight s f g tok.val hh
    rw [joined] at hj
    rw [hj]
    constructor
    · rintro ⟨_, hx', rfl⟩
      obtain ⟨x, hx, rfl⟩ := List.mem_map.1 hx'
      exact ⟨x, hx, (putParked_same s f g tok.val hi hnd x (mem_of_mem_filter hx)).1.symm⟩
    · rintro ⟨x, hx, rfl⟩
      exact ⟨_, List.mem_map.2 ⟨x, hx, rfl⟩, (putParked_same s f g tok.val hi hnd x (mem_of_mem_filter hx)).1⟩
  have hmerged := find?_merged (parkedFlight s f g tok.val).frags (fun h => h.wait == .join tok.val && !h.halted) m k
    (by rw [hnums]; exact hnd) ((hgone m.num).2 hm)
  rw [frag?, mergedFlight]
  dsimp only
  rw [hrest, hmerged]
  by_cases hk : k = m.num
  · simp only [hk, if_true]
  · rw [if_neg hk, if_neg hk]
    by_cases hex : ∃ h ∈ f.frags.filter (atJoin g tok.val), h.num = k
    · rw [if_pos ((hgone k).2 hex), if_pos hex]
    · rw [if_neg fun h => hex ((hgone k).1 h), if_neg hex]
      have hne : k ≠ g.num := fun h => hex ⟨g,
        List.mem_filter.2 ⟨List.mem_of_find?_eq_some (issues_frag s f g hi), by simp [atJoin]⟩, h.symm⟩
      exact frag?_putFrag_ne { f with issued := f.issued + 1 } (parkedFrag s g tok.val) hne

end

/-- Settles O19: a token that expects no lane makes a NOP; otherwise JOIN parks (`join_parks`) or merges (`join_merges`). -/
theorem joinsMerge : Obligations.JoinsMerge := by
  intro s f g tok hi hu hh hnd
  refine ⟨fun hz => ?_, fun hz hwait => ?_, fun hz hall => ?_⟩
  · refine onlyMoves_of _ s f g _ hi hu ?_
    have hz' : (g.owned &&& mgetD f.tokens tok.val 0 == 0) = true := by
      rw [BitVec.and_comm]
      simpa using hz
    exact (issue_acts [] false _ s f g hi (mayName_nil f g) (by simp)).trans (congrArg _ (if_pos hz'))
  · obtain ⟨h1, h2, h3, h4⟩ := commit_leaves s f g
      { ctxOf s f g with f := { f with issued := f.issued + 1 }, g := parkedFrag s g tok.val } hi rfl rfl rfl
    exact ⟨_, _, _, join_parks s f g tok hi hh hz hnd hwait, h1, h2, ⟨rfl, h4, fun _ => rfl⟩, h3, rfl, rfl, rfl, rfl, rfl, rfl, rfl⟩
  · obtain ⟨m, hof, he⟩ := join_merges s f g tok hi hu hh hz hnd hall
    obtain ⟨⟨hnum, hmin⟩, howned, hem, hrun, ⟨p, hp, ⟨hpc, hrpc⟩, hlow⟩, q, hq, hreg, hmax⟩ := hof
    have hfrag := frag?_mergedFlight s f g tok hi hh hnd m hnum
    have hparked : flight? (parkedState s f g tok.val) s.cur.1 = some (parkedFlight s f g tok.val) := flight?_commit _
    refine ⟨_, mergedFlight s f g tok.val m, m, he, ?_, ?_, ⟨rfl, fun k hk => ?_, fun _ => rfl⟩, hnum, hmin, ?_, ?_, hrun,
      ⟨p, hp, hpc, hrpc, hlow⟩, ⟨q, hq, hreg, hmax⟩, fun h hgs hne => ?_, fun k hk => ?_, ?_, fun k hk => ?_, rfl, rfl⟩
    · rw [flight?_modFlight, if_pos rfl, hparked]
      rfl
    · rw [hfrag, if_pos rfl]
    · rw [flight?_modFlight, if_neg hk]
      exact flight?_commit_ne _ hk
    · rw [howned, unionLanes_map]
      rfl
    · rw [hem, unionLanes_map]
      rfl
    · rw [hfrag, if_neg hne, if_pos ⟨h, hgs, rfl⟩]
    · have hno : ¬ ∃ h ∈ f.frags.filter (atJoin g tok.val), h.num = k := fun ⟨h, hgs, hk'⟩ => hk h hgs hk'
      rw [hfrag, if_neg fun h : k = m.num => hno (h ▸ hnum), if_neg hno]
    · exact (mget?_mdel f.tokens tok.val tok.val).trans (if_pos rfl)
    · exact (mget?_mdel f.tokens tok.val k).trans (if_neg hk)

end Sys2Proof.Machine
end

section
/-!
SUPPORT. Lanes that exit by EXIT and KILL (06 R152, 19 R403), where they complete no merge, closure or barrier.
-/
namespace Sys2Proof.Machine

/-! ### A map and its entries -/

theorem foldl_fixed {β γ : Type} (p : β → γ → β) (l : List γ) (b : β) (h : ∀ x ∈ l, p b x = b) : l.foldl p b = b := by
  induction l with
  | nil => rfl
  | cons x r ih =>
    rw [List.foldl_cons, h x List.mem_cons_self]
    exact ih fun y hy => h y (List.mem_cons_of_mem x hy)

theorem find?_unique {β : Type} (p : β → Bool) (l : List β) (a : β) (hmem : a ∈ l) (ha : p a = true)
    (h : ∀ x ∈ l, p x = true → x = a) : l.find? p = some a := by
  cases hf : l.find? p with
  | none => exact absurd ha (by simpa using List.find?_eq_none.1 hf a hmem)
  | some x => rw [h x (List.mem_of_find?_eq_some hf) (List.find?_some hf)]

/-! ### Lanes that exit -/

/-- A state that differs from `s` in what exits change: its flights, gangs, engines and the work of engines. -/
structure ExitFrame (s t : State) (fid : Nat) (f' : Flight) : Prop where
  rest   : t = { s with flights := t.flights, gangs := t.gangs, engines := t.engines, work := t.work }
  flight : flight? t fid = some f'
  others : ∀ k, k ≠ fid → flight? t k = flight? s k

theorem ExitFrame.modFlight {s t : State} {fid : Nat} {f' : Flight} (h : ExitFrame s t fid f') (k : Flight → Flight) :
    ExitFrame s (modFlight t fid k) fid (k f') where
  rest := by
    rw [h.rest]
    rfl
  flight := by rw [flight?_modFlight, if_pos rfl, h.flight]; rfl
  others n hn := by rw [flight?_modFlight, if_neg hn, h.others n hn]

theorem ExitFrame.mem {s t : State} {fid : Nat} {f' : Flight} (h : ExitFrame s t fid f') (a : Nat) : readByte t a = readByte s a := by
  rw [h.rest]
  rfl

section
variable (s : State) (fid by' : Nat) (m : Lanes) (f : Flight) (hf : flight? s fid = some f) (htok : f.tokens = [])
  (htiles : s.tiles = []) (hbar : ∀ h ∈ f.frags, ∀ n, atBar n h = false) (hafq : f.afq = [])
  (hbars : ∀ x, gangOf s f = some x → ∀ n, mget? x.bars (f.rank * 16 + n) = none)
include hf htok

theorem tryMerges_plain : tryMerges s fid by' = s := by
  refine foldl_fixed _ _ _ fun k _ => ?_
  simp [tryMerge, hf, htok, mget?]

omit hf htok in
include htiles in
theorem exitInsts_plain : exitInsts s fid m = s := by
  simp [exitInsts, htiles]

omit htok in
include hbar in
theorem exitBar_plain (n : Nat) : exitBar s fid n = s := by
  have hset : barSet f n = false := by
    unfold barSet
    cases hl : f.frags with
    | nil => rfl
    | cons g r =>
      have hg : atBar n g = false := hbar g (hl ▸ List.mem_cons_self) n
      simp [hg]
  simp [exitBar, hf, hset]

omit hf htok in
include hbars in
theorem barTry_plain (n : Nat) : barTry s f.gid f.rank n = s := by
  unfold barTry
  have hnone : ((mget? s.gangs f.gid).bind fun g => mget? g.bars (f.rank * 16 + n)) = none := by
    cases hg : mget? s.gangs f.gid with
    | none => rfl
    | some x => exact hbars x hg n
  rw [hnone]

end

/-- A set of fragments at a barrier stands there with what its fragments wait for. -/
theorem atBar_wait (n : Nat) (g h : Fragment) (hw : g.wait = h.wait) : atBar n g = atBar n h := by
  unfold atBar
  rw [hw]

theorem atBar_dropLanes (f : Flight) (m : Lanes) (hbar : ∀ h ∈ f.frags, ∀ n, atBar n h = false) :
    ∀ h ∈ (dropLanes f m).frags, ∀ n, atBar n h = false := by
  intro h hh n
  obtain ⟨x, hx, rfl⟩ := List.mem_map.1 (mem_of_mem_filter hh)
  exact (atBar_wait n _ x rfl).trans (hbar x hx n)

/-- An exit whose merges, closures and arrivals leave the state as it is. -/
theorem exitLanes_of (s s1 : State) (fid by' : Nat) (m : Lanes) (f1 : Flight)
    (hmerge : tryMerges (modFlight s fid fun f => dropLanes f m) fid by' = s1) (hinst : exitInsts s1 fid m = s1)
    (hbar : (List.range 16).foldl (fun s n => exitBar s fid n) s1 = s1) (hf1 : flight? s1 fid = some f1)
    (htry : (List.range 16).foldl (fun s n => barTry s f1.gid f1.rank n) s1 = s1) :
    exitLanes s fid by' m = if ended f1 then startRetiring (flushFaults (dropFills s1 fid) fid) f1.gid else s1 := by
  unfold exitLanes
  rw [hmerge, hinst]
  dsimp only
  rw [hbar, hf1]
  dsimp only
  rw [htry]

/-- An exit that completes nothing takes the lanes from its flight. -/
theorem exitLanes_plain (s : State) (fid by' : Nat) (m : Lanes) (f : Flight) (hf : flight? s fid = some f) (htok : f.tokens = [])
    (htiles : s.tiles = []) (hbar : ∀ h ∈ f.frags, ∀ n, atBar n h = false) (hafq : f.afq = [])
    (hbars : ∀ x, gangOf s f = some x → ∀ n, mget? x.bars (f.rank * 16 + n) = none) :
    ExitFrame s (exitLanes s fid by' m) fid (dropLanes f m) := by
  obtain ⟨s1, hs1⟩ : ∃ s1, s1 = Machine.modFlight s fid fun f => dropLanes f m := ⟨_, rfl⟩
  have hf1 : flight? s1 fid = some (dropLanes f m) := by rw [hs1, flight?_modFlight, if_pos rfl, hf]; rfl
  have hframe : ExitFrame s s1 fid (dropLanes f m) :=
    ⟨by rw [hs1]; rfl, hf1, fun k hk => by rw [hs1, flight?_modFlight, if_neg hk]⟩
  have hmerge : tryMerges s1 fid by' = s1 := tryMerges_plain s1 fid by' (dropLanes f m) hf1 (show f.tokens.map _ = [] by rw [htok]; rfl)
  have hinst : exitInsts s1 fid m = s1 := exitInsts_plain s1 fid m (by rw [hs1]; exact htiles)
  have hbarx : (List.range 16).foldl (fun s n => exitBar s fid n) s1 = s1 :=
    foldl_fixed _ _ _ fun n _ => exitBar_plain s1 fid (dropLanes f m) hf1 (atBar_dropLanes f m hbar) n
  have htry : (List.range 16).foldl (fun s n => barTry s (dropLanes f m).gid (dropLanes f m).rank n) s1 = s1 :=
    foldl_fixed _ _ _ fun n _ => barTry_plain s1 (dropLanes f m) (by rw [hs1]; exact hbars) n
  have hexit : exitLanes s fid by' m =
      if ended (dropLanes f m) then startRetiring (flushFaults (dropFills s1 fid) fid) (dropLanes f m).gid else s1 := by
    exact exitLanes_of s s1 fid by' m (dropLanes f m) (hs1 ▸ hmerge) hinst hbarx hf1 htry
  rw [hexit]
  split
  · have hfill : ExitFrame s (dropFills s1 fid) fid (dropLanes f m) := ⟨by rw [hframe.rest]; rfl, hf1, hframe.others⟩
    have hflush : ExitFrame s (flushFaults (dropFills s1 fid) fid) fid (dropLanes f m) := by
      have hq : (dropLanes f m).afq = [] := hafq
      have hstep := hfill.modFlight fun f => { f with afq := [] }
      simp only [flushFaults, hfill.flight, hq, List.foldl_nil]
      rw [show ({ dropLanes f m with afq := [] } : Flight) = dropLanes f m by rw [← hq]] at hstep
      exact hstep
    unfold startRetiring
    split
    · exact ⟨by rw [hflush.rest]; rfl, hflush.flight, hflush.others⟩
    · exact hflush
  · exact hframe

/-! ### The fragment whose lanes exit -/

/-- A fragment without some lanes. -/
def Fragment.less (g : Fragment) (m : Lanes) : Fragment :=
  { g with owned := g.owned &&& ~~~m, em := g.em &&& ~~~m, rmask := g.rmask &&& ~~~m }

/-- A fragment without lanes has ended; one with lanes keeps its number. -/
theorem frag?_dropLanes (f : Flight) (m : Lanes) (g : Fragment) (hg : g ∈ f.frags) (hone : ∀ h ∈ f.frags, h.num = g.num → h = g) :
    frag? (dropLanes f m) g.num = if g.owned &&& ~~~m = 0 then none else some (g.less m) := by
  have honly (x : Fragment) (hx : x ∈ (dropLanes f m).frags) (hn : (x.num == g.num) = true) : x = g.less m := by
    obtain ⟨h, hh, rfl⟩ := List.mem_map.1 (mem_of_mem_filter hx)
    rw [hone h hh (by simpa using hn)]
    rfl
  split
  next hz =>
    rw [frag?, List.find?_eq_none]
    intro x hx hn
    have hown := (List.mem_filter.1 hx).2
    rw [honly x hx hn] at hown
    simp [Fragment.less, hz] at hown
  next hz =>
    refine find?_unique _ _ (g.less m) (List.mem_filter.2 ⟨List.mem_map.2 ⟨g, hg, rfl⟩, ?_⟩) (by simp [Fragment.less]) honly
    simpa [Fragment.less] using hz

/-- After the lanes of a mask exit from the fragment put into its flight. -/
theorem lanesExit_dropLanes (f f0 : Flight) (g g1 : Fragment) (m : Lanes) (pc : DWord) (hg : frag? f g.num = some g)
    (hnum : g1.num = g.num) (hfr : f0.frags = f.frags) (hex : f0.exited = f.exited) (ho : g1.owned = g.owned) (he : g1.em = g.em)
    (hpc : g1.pc = pc) (hw : g1.wait = .run) (hr : g1.rmask = g.rmask) (hl : g1.level = g.level) (f' : Flight)
    (hf' : f'.frags = (dropLanes (putFrag f0 g1) m).frags) (hex' : f'.exited = (dropLanes (putFrag f0 g1) m).exited) :
    LanesExit f f' g m pc := by
  have hmem : g1 ∈ (putFrag f0 g1).frags := by
    refine List.mem_map.2 ⟨g, by rw [hfr]; exact List.mem_of_find?_eq_some hg, ?_⟩
    simp [hnum]
  have hone : ∀ h ∈ (putFrag f0 g1).frags, h.num = g1.num → h = g1 := by
    intro h hh hn
    obtain ⟨x, -, rfl⟩ := List.mem_map.1 hh
    split at hn
    next hx => rw [if_pos hx]
    next hx => exact absurd (by simpa using hn) hx
  have hfrag := frag?_dropLanes (putFrag f0 g1) m g1 hmem hone
  have hfind : frag? f' g.num = frag? (dropLanes (putFrag f0 g1) m) g1.num := by rw [frag?, hf', hnum]; rfl
  refine ⟨by rw [hex', ← hex]; rfl, ?_⟩
  rw [hfind, hfrag, ho]
  split
  next => rfl
  next => exact ⟨g1.less m, rfl, by simp [Fragment.less, ho], by simp [Fragment.less, he], hpc, hw, by simp [Fragment.less, hr], hl⟩

/-! ### EXIT (06 R152, R168, 09 R249) -/

/-- The state in which an instruction that goes on is committed. -/
def goneOn (s : State) (f : Flight) (g : Fragment) : State := commit (settled (next (ctxOf s f g)))

/-- The fragment after an instruction that goes on. -/
def goneOnFrag (s : State) (g : Fragment) : Fragment :=
  { g with pc := g.pc + 8, wait := .run, last := some s.cycle, run := g.run + 1, ready := s.cycle, aged := false, skip := false }

/-- The flight after an instruction that goes on. -/
def goneOnFlight (s : State) (f : Flight) (g : Fragment) : Flight :=
  putFrag { f with issued := f.issued + 1 } (goneOnFrag s g)

theorem flight?_goneOn (s : State) (f : Flight) (g : Fragment) : flight? (goneOn s f g) s.cur.1 = some (goneOnFlight s f g) :=
  flight?_commit _

theorem flight?_goneOn_ne (s : State) (f : Flight) (g : Fragment) {k : Nat} (h : k ≠ s.cur.1) :
    flight? (goneOn s f g) k = flight? s k := flight?_commit_ne _ h

theorem exitPacket_off (s : State) (fid : Nat) (f : Flight) (g : Fragment)
    (h : (Machine.core s f.core).trcctl.getLsbD 0 = false) : exitPacket s fid f g = s := by
  unfold exitPacket
  split
  · exact tracePacket_off s f g _ _ h
  · rfl

theorem exit_frame (s : State) (f : Flight) (g : Fragment) (t : State) (f' : Flight) (h : ExitFrame (goneOn s f g) t s.cur.1 f') :
    MemorySame s t ∧ (∀ k, k ≠ s.cur.1 → flight? t k = flight? s k) ∧ Machine.core t f.core = Machine.core s f.core := by
  refine ⟨fun a => h.mem a, fun k hk => (h.others k hk).trans (flight?_goneOn_ne s f g hk), ?_⟩
  rw [h.rest]
  rfl

section
variable (s : State) (f : Flight) (g : Fragment) (hp : PlainExits s f) (hafq : f.afq = [])
  (hbars : ∀ x, gangOf s f = some x → ∀ n, mget? x.bars (f.rank * 16 + n) = none)
include hp hafq hbars

/-- Lanes that exit by an instruction that goes on. -/
theorem exitLanes_goneOn (m : Lanes) :
    ExitFrame (goneOn s f g) (exitLanes (goneOn s f g) s.cur.1 g.num m) s.cur.1 (dropLanes (goneOnFlight s f g) m) := by
  obtain ⟨htok, htiles, hbar⟩ := hp
  refine exitLanes_plain (goneOn s f g) s.cur.1 g.num m (goneOnFlight s f g) (flight?_goneOn s f g) htok htiles ?_ hafq hbars
  intro h hh n
  obtain ⟨x, hx, rfl⟩ := List.mem_map.1 hh
  split
  · rfl
  · exact hbar x hx n

end

/-- Where no fragment owns an exited lane, the exit of the last lanes leaves no fragment. -/
theorem frags_of_allExit (f : Flight) (m : Lanes) (h : ∀ x ∈ f.frags, x.owned &&& f.exited = 0) (hall : f.exited ||| m = allLanes) :
    (dropLanes f m).frags = [] := by
  refine List.filter_eq_nil_iff.2 fun y hy => ?_
  obtain ⟨x, hx, rfl⟩ := List.mem_map.1 hy
  have hz : x.owned &&& ~~~m = 0 := by
    apply BitVec.eq_of_getLsbD_eq
    intro l hl
    have h1 : (x.owned &&& f.exited).getLsbD l = false := by rw [h x hx]; exact BitVec.getLsbD_zero
    have h2 : (f.exited ||| m).getLsbD l = true := by rw [hall, allLanes, BitVec.getLsbD_allOnes, decide_eq_true hl]
    rw [BitVec.getLsbD_and] at h1 ⊢
    rw [BitVec.getLsbD_or] at h2
    have h0 : (0 : Lanes).getLsbD l = false := BitVec.getLsbD_zero
    rw [BitVec.getLsbD_not, decide_eq_true hl, Bool.true_and, h0]
    revert h1 h2
    cases x.owned.getLsbD l <;> cases f.exited.getLsbD l <;> cases m.getLsbD l <;> decide
  simp [hz]

/-- Settles O20: an EXIT that completes nothing takes its lanes (`exitLanes_plain`). -/
theorem exitsTakeLanes : Obligations.ExitsTakeLanes := by
  intro s f g hi hu hp hafq howned hbars
  have acts := fun body => issue_acts [] false body s f g hi (mayName_nil f g) (by simp)
  refine ⟨fun hall hne => ?_, fun hor => ?_⟩
  · refine (acts _).trans (congrArg _ (if_pos ?_))
    show (f.exited ||| g.em == allLanes && f.sq.length != f.psets.length) = true
    simp [hall, hne]
  · have hframe := exitLanes_goneOn s f g hp hafq hbars g.em
    obtain ⟨hmem, hothers, hcore⟩ := exit_frame s f g _ _ hframe
    have hpass : ¬ (f.exited ||| g.em == allLanes && f.sq.length != f.psets.length) = true := by
      rcases hor with h | h <;> simp [h]
    have he : exec .exit s = .next (exitLanes (goneOn s f g) s.cur.1 g.num g.em) :=
      (acts _).trans (congrArg _ ((if_neg hpass).trans (exitPacket_off _ _ f g ((congrArg (fun k : Core => k.trcctl.getLsbD 0) hcore).trans hu.2))))
    refine ⟨_, _, he, hframe.flight, ?_, rfl, rfl, rfl, rfl, hmem, hothers, fun hall => ?_⟩
    · exact lanesExit_dropLanes f { f with issued := f.issued + 1 } g (goneOnFrag s g) g.em _ (issues_frag s f g hi) rfl rfl rfl rfl
        rfl rfl rfl rfl rfl _ rfl rfl
    · refine frags_of_allExit (goneOnFlight s f g) g.em (fun x hx => ?_) hall
      obtain ⟨y, hy, rfl⟩ := List.mem_map.1 hx
      split
      · exact howned g (List.mem_of_find?_eq_some (issues_frag s f g hi))
      · exact howned y hy

/-! ### KILL (19 R403) -/

/-- A flight that ends by KILL loses its scale records and partial sets. -/
def emptied (f : Flight) : Flight := if ended f then { f with sq := [], psets := [] } else f

/-- The halts that a flight has queued, without those whose target is gone. -/
def haltsLeft (f : Flight) : Flight := { f with haltq := f.haltq.filter fun q => !haltGone f q }

/-- Lanes that exit by KILL and complete nothing. -/
theorem killLanes_none (s : State) (fid n : Nat) (m : Lanes) (f f1 : Flight) (g : Fragment) (hf : flight? s fid = some f)
    (hg : frag? f n = some g) (h : ExitFrame s (exitLanes s fid n (g.owned &&& m)) fid f1) :
    ExitFrame s (killLanes s fid n m none) fid (emptied f1) := by
  have he : killLanes s fid n m none =
      if ended f1 then modFlight (exitLanes s fid n (g.owned &&& m)) fid fun f => { f with sq := [], psets := [] }
      else exitLanes s fid n (g.owned &&& m) := by
    simp only [killLanes, hf, hg, h.flight]
  rw [he, emptied]
  split
  · exact h.modFlight _
  · exact h

/-- KILL with a cause also marks the launch and cancels it. -/
theorem killLanes_some (s : State) (fid n : Nat) (m : Lanes) (f : Flight) (c d : Nat) (pc : DWord) (hf : flight? s fid = some f) :
    killLanes s fid n m (some (c, d, pc)) =
      cancelLaunch (markFault (killLanes s fid n m none) (lkey f.pid f.launch) c d pc) (lkey f.pid f.launch) := by
  simp only [killLanes, hf]

theorem reportGone_none (s : State) (fid : Nat) (g : Fragment) (tcause : Word) (f : Flight) (hf : flight? s fid = some f)
    (hq : f.haltq = []) : reportGone s fid g tcause = modFlight s fid haltsLeft := by
  simp only [reportGone, hf, hq, List.filter_nil, List.foldl_nil]
  rfl

/-- A KILL with no queued halt and no trace reports nothing. -/
theorem killReport_quiet (s : State) (fid : Nat) (f : Flight) (g : Fragment) (m : Lanes) (cause : Option (Nat × Nat × DWord))
    (tcause : Word) (f1 : Flight) (hf : flight? (killLanes s fid g.num m cause) fid = some f1) (hq : f1.haltq = [])
    (htr : (Machine.core (killLanes s fid g.num m cause) f.core).trcctl.getLsbD 0 = false) :
    killReport s fid f g m cause tcause = modFlight (killLanes s fid g.num m cause) fid haltsLeft := by
  rw [killReport, reportGone_none _ fid g tcause f1 hf hq]
  exact exitPacket_off _ fid f g htr

/-! ### A launch that is marked faulted and cancelled -/

/-- A launch with its first fault. -/
def Launch.marked (l : Launch) (c d : Nat) (pc : DWord) : Launch := if l.fault.isNone then { l with fault := some (c, d, pc) } else l

/-- A flight of a cancelled launch. -/
def Flight.cancelled (f : Flight) : Flight :=
  { f with
    frags := f.frags.map fun g => { g with wait := .gone }
    mops := f.mops.map fun o => { o with lanes := o.lanes.filter fun l => !l.st.waits } }

theorem marked_state (l : Launch) (c d : Nat) (pc : DWord) : (l.marked c d pc).state = l.state := by
  unfold Launch.marked
  split <;> rfl

theorem launches_cancelMarked (s : State) (key c d : Nat) (pc : DWord) (l : Launch) (hl : mget? s.launches key = some l)
    (hst : l.state < 2) :
    mget? (cancelLaunch (markFault s key c d pc) key).launches key =
      some { l.marked c d pc with cancel := true, contribs := [] } := by
  have hm : mget? (markFault s key c d pc).launches key = some (l.marked c d pc) := by
    rw [markFault, modLaunch, mget?_mmod, if_pos rfl, hl]
    rfl
  have hlt : ¬ 2 ≤ (l.marked c d pc).state := by rw [marked_state]; omega
  simp only [cancelLaunch, hm, if_neg hlt, mget?_mset_same]

theorem flight?_cancelMarked (s : State) (key c d : Nat) (pc : DWord) (l : Launch) (hl : mget? s.launches key = some l)
    (hst : l.state < 2) (k : Nat) (f : Flight) (hf : flight? s k = some f) (hkey : lkey f.pid f.launch = key) :
    flight? (cancelLaunch (markFault s key c d pc) key) k = some f.cancelled := by
  have hm : mget? (markFault s key c d pc).launches key = some (l.marked c d pc) := by
    rw [markFault, modLaunch, mget?_mmod, if_pos rfl, hl]
    rfl
  have hlt : ¬ 2 ≤ (l.marked c d pc).state := by rw [marked_state]; omega
  have hfm : mget? (markFault s key c d pc).flights k = some f := hf
  simp only [cancelLaunch, hm, if_neg hlt, flight?, mget?_mmap, hfm, Option.map_some, hkey, beq_self_eq_true, if_true]
  rfl

theorem cancelMarked_rest (s : State) (key c d : Nat) (pc : DWord) :
    (cancelLaunch (markFault s key c d pc) key).cores = s.cores ∧
      ∀ a, readByte (cancelLaunch (markFault s key c d pc) key) a = readByte s a := by
  unfold cancelLaunch
  split
  · exact ⟨rfl, fun _ => rfl⟩
  · split
    · exact ⟨rfl, fun _ => rfl⟩
    · exact ⟨rfl, fun _ => rfl⟩

/-! ### KILL and KILL.fault of a fragment -/

theorem emptied_frags (f : Flight) : (emptied f).frags = f.frags := by
  unfold emptied
  split <;> rfl

theorem emptied_exited (f : Flight) : (emptied f).exited = f.exited := by
  unfold emptied
  split <;> rfl

theorem emptied_rest (f : Flight) :
    emptied f = { f with sq := (emptied f).sq, psets := (emptied f).psets } := by
  unfold emptied
  split <;> rfl

theorem emptied_sets (f : Flight) :
    if f.exited = allLanes then (emptied f).sq = [] ∧ (emptied f).psets = []
    else (emptied f).sq = f.sq ∧ (emptied f).psets = f.psets := by
  unfold emptied ended
  split <;> rename_i h
  · simp [h]
  · simp [h]

theorem issue_kill (flt : Bool) (m : Fin 24) (s : State) (f : Flight) (g : Fragment) (hi : Issues s f g)
    (hl : g.level = 1 ∨ g.level = 2) :
    killBy flt m s = .next (killReport (goneOn s f g) s.cur.1 f g (getMask f g m)
      (if flt then some ((bank f g.level).code, bitsOf (bank f g.level).cause.toNat 15 8, (bank f g.level).pc) else none)
      (bank f g.level).cause) := by
  refine issue_acts [] true _ s f g hi (mayName_nil f g) fun _ => ?_
  rcases hl with h | h <;> simp [h]

/-- Settles O34: the lanes of a KILL that completes nothing exit (`exitLanes_goneOn`), and one with fault marks and cancels the launch. -/
theorem kills : Obligations.Kills := by
  intro s f g m l hi hu hp hafq hhalt hlev hlaunch hst hbars z b
  have hown : (goneOnFrag s g).owned &&& getMask f g m = z := rfl
  have hfrag : frag? (goneOnFlight s f g) g.num = some (goneOnFrag s g) :=
    frag?_putFrag_same _ _ _ (issues_frag s f g hi)
  have hexit := exitLanes_goneOn s f g hp hafq hbars z
  have hkill : ExitFrame (goneOn s f g) (killLanes (goneOn s f g) s.cur.1 g.num (getMask f g m) none) s.cur.1
      (emptied (dropLanes (goneOnFlight s f g) z)) :=
    killLanes_none _ _ _ _ _ _ _ (flight?_goneOn s f g) hfrag hexit
  obtain ⟨f1, hf1⟩ : ∃ f1, f1 = emptied (dropLanes (goneOnFlight s f g) z) := ⟨_, rfl⟩
  rw [← hf1] at hkill
  obtain ⟨u, hu1⟩ : ∃ u, u = killLanes (goneOn s f g) s.cur.1 g.num (getMask f g m) none := ⟨_, rfl⟩
  rw [← hu1] at hkill
  have hrest := emptied_rest (dropLanes (goneOnFlight s f g) z)
  rw [← hf1] at hrest
  obtain ⟨hmem, hothers, hcore⟩ := exit_frame s f g _ _ hkill
  have hlu : mget? u.launches (lkey f.pid f.launch) = some l := by
    rw [hkill.rest]
    exact hlaunch
  have hq : f1.haltq = [] := by rw [hrest]; exact hhalt
  have htr : (Machine.core u f.core).trcctl.getLsbD 0 = false := by rw [hcore]; exact hu.2
  refine ⟨?_, ?_⟩
  · have he := (issue_kill false m s f g hi hlev).trans
      (congrArg _ (killReport_quiet _ _ f g _ none _ f1 (by rw [← hu1]; exact hkill.flight) hq (by rw [← hu1]; exact htr)))
    rw [← hu1] at he
    have hend := hkill.modFlight haltsLeft
    obtain ⟨hmem', hothers', -⟩ := exit_frame s f g _ _ hend
    refine ⟨_, _, he, hend.flight, ?_, ?_, ?_, ?_, ?_, hmem', hothers'⟩
    · refine lanesExit_dropLanes f { f with issued := f.issued + 1 } g (goneOnFrag s g) z _ (issues_frag s f g hi) rfl rfl rfl rfl
        rfl rfl rfl rfl rfl _ ?_ ?_
      · show f1.frags = _
        rw [hf1, emptied_frags]
        rfl
      · show f1.exited = _
        rw [hf1, emptied_exited]
        rfl
    · show f1.s = f.s
      rw [hrest]
      rfl
    · show f1.v = f.v
      rw [hrest]
      rfl
    · have h := emptied_sets (dropLanes (goneOnFlight s f g) z)
      rw [← hf1] at h
      exact h
    · exact hlu
  · obtain ⟨t1, ht1⟩ : ∃ t1, t1 = cancelLaunch (markFault u (lkey f.pid f.launch) b.code (bitsOf b.cause.toNat 15 8) b.pc)
        (lkey f.pid f.launch) := ⟨_, rfl⟩
    have hkt : killLanes (goneOn s f g) s.cur.1 g.num (getMask f g m) (some (b.code, bitsOf b.cause.toNat 15 8, b.pc)) = t1 := by
      rw [killLanes_some _ _ _ _ _ _ _ _ (flight?_goneOn s f g), ← hu1, ht1]
      rfl
    have hkey : lkey f1.pid f1.launch = lkey f.pid f.launch := by rw [hrest]; rfl
    have hft : flight? t1 s.cur.1 = some f1.cancelled := by
      rw [ht1]
      exact flight?_cancelMarked u _ _ _ _ l hlu hst _ f1 hkill.flight hkey
    have hlt : mget? t1.launches (lkey f.pid f.launch) =
        some { l.marked b.code (bitsOf b.cause.toNat 15 8) b.pc with cancel := true, contribs := [] } := by
      rw [ht1]
      exact launches_cancelMarked u _ _ _ _ l hlu hst
    obtain ⟨hcores, hbytes⟩ := cancelMarked_rest u (lkey f.pid f.launch) b.code (bitsOf b.cause.toNat 15 8) b.pc
    rw [← ht1] at hcores hbytes
    have htr1 : (Machine.core t1 f.core).trcctl.getLsbD 0 = false := by
      have : Machine.core t1 f.core = Machine.core u f.core := by unfold Machine.core; rw [hcores]
      rw [this]
      exact htr
    have he := (issue_kill true m s f g hi hlev).trans
      (congrArg _ (killReport_quiet _ _ f g _ _ _ f1.cancelled (by rw [if_pos rfl, hkt]; exact hft) hq (by rw [if_pos rfl, hkt]; exact htr1)))
    rw [if_pos rfl, hkt] at he
    have hend : flight? (modFlight t1 s.cur.1 haltsLeft) s.cur.1 = some (haltsLeft f1.cancelled) := by
      rw [flight?_modFlight, if_pos rfl, hft]
      rfl
    refine ⟨_, _, _, he, hend, ?_, ?_, ?_, hlt, rfl, rfl, ?_, ?_, fun a => (hbytes a).trans (hmem a)⟩
    · show f1.exited = _
      rw [hf1, emptied_exited]
      rfl
    · show f1.s = f.s
      rw [hrest]
      rfl
    · show f1.v = f.v
      rw [hrest]
      rfl
    · show (l.marked _ _ _).fault = _
      unfold Launch.marked
      cases hlf : l.fault with
      | none => simp [TrapSet.code, bitsOf]
      | some x => simp [hlf]
    · intro h hh
      obtain ⟨x, -, rfl⟩ := List.mem_map.1 hh
      rfl

end Sys2Proof.Machine
end

section
/-!
SUPPORT. The checks of one address in their order (04 R89), where each outcome of `checkOne` is one of its branches.
-/
namespace Sys2Proof.Machine

/-- The bits of an address from 55 on, as one number. -/
theorem testBit_top (va : DWord) (i : Nat) (h : 55 ≤ i) : va.getLsbD i = (va.toNat / 2 ^ 55).testBit (i - 55) := by
  rw [Nat.testBit_div_two_pow, Nat.sub_add_cancel h]
  rfl

/-- An address is canonical where its bits from 55 on are all equal (04 R77). -/
theorem canonical_iff (va : DWord) : canonical va = true ↔ ∀ i, 55 ≤ i → i < 64 → va.getLsbD i = va.getLsbD 63 := by
  have hlt : va.toNat / 2 ^ 55 < 2 ^ 9 := by have := va.isLt; omega
  have hbit (i : Nat) (h : 9 ≤ i) : (va.toNat / 2 ^ 55).testBit i = false :=
    Nat.testBit_lt_two_pow (Nat.lt_of_lt_of_le hlt (Nat.pow_le_pow_right (by omega) h))
  have hones (i : Nat) : Nat.testBit 511 i = decide (i < 9) := Nat.testBit_two_pow_sub_one 9 i
  constructor
  · intro h i hi hi2
    rw [testBit_top va i hi, testBit_top va 63 (by omega)]
    rcases (by simpa [canonical] using h : va.toNat / 2 ^ 55 = 0 ∨ va.toNat / 2 ^ 55 = 511) with h0 | h1
    · rw [h0, Nat.zero_testBit, Nat.zero_testBit]
    · rw [h1, hones, hones, decide_eq_true (by omega : i - 55 < 9), decide_eq_true (by omega : 63 - 55 < 9)]
  · intro h
    have hall (j : Nat) (hj : j < 9) : (va.toNat / 2 ^ 55).testBit j = va.getLsbD 63 := by
      have := h (j + 55) (by omega) (by omega)
      rwa [testBit_top va (j + 55) (by omega), Nat.add_sub_cancel] at this
    cases hb : va.getLsbD 63 with
    | false =>
      have hz : va.toNat / 2 ^ 55 = 0 := Nat.eq_of_testBit_eq fun j => by
        rw [Nat.zero_testBit]
        by_cases hj : j < 9
        · rw [hall j hj, hb]
        · exact hbit j (by omega)
      rw [canonical, hz]
      rfl
    | true =>
      have hz : va.toNat / 2 ^ 55 = 511 := Nat.eq_of_testBit_eq fun j => by
        rw [hones]
        by_cases hj : j < 9
        · rw [hall j hj, hb, decide_eq_true hj]
        · rw [hbit j (by omega), decide_eq_false hj]
      rw [canonical, hz]
      rfl

theorem inWindow_iff (va : DWord) : inWindow va = true ↔ 0x7F00_0000_0000 ≤ va.toNat ∧ va.toNat < 0x7F01_0000_0000 := by
  simp only [inWindow, beq_iff_eq]
  omega

section
variable (s : State) (pid cr : Nat) (sup : Bool) (lp : Option TlbEntry) (ms : MSpec) (va : DWord)

/-- An address that is not canonical traps with code 06. -/
theorem checkOne_notCanonical (h : canonical va = false) : (checkOne s pid cr sup lp ms va).1 = .trap 1 0x06 := by
  rw [checkOne, if_pos (by simp [h])]

/-- A canonical address that is not aligned traps with code 07. -/
theorem checkOne_unaligned (h : canonical va = true) (ha : va.toNat % ms.align ≠ 0) :
    (checkOne s pid cr sup lp ms va).1 = .trap 2 0x07 := by
  rw [checkOne, if_neg (by simp [h]), if_pos (by simpa using ha)]

/-- An address in the scratch window is the one of its core's slice or its gang's, or traps with code 08. -/
theorem checkOne_window (h : canonical va = true) (ha : va.toNat % ms.align = 0) (hw : inWindow va = true) :
    (checkOne s pid cr sup lp ms va).1 =
      (if ms.noWin then none else windowKey s pid cr va).elim (.trap 3 0x08) fun k => .ok k true 0 := by
  rw [checkOne, if_neg (by simp [h]), if_neg (by simp [ha]), if_pos hw]
  cases if ms.noWin then none else windowKey s pid cr va <;> rfl

/-- A full-empty qualifier outside the scratch window traps with code 09. -/
theorem checkOne_outside (h : canonical va = true) (ha : va.toNat % ms.align = 0) (hw : inWindow va = false) (hin : ms.inWin = true) :
    (checkOne s pid cr sup lp ms va).1 = .trap 4 0x09 := by
  rw [checkOne, if_neg (by simp [h]), if_neg (by simp [ha]), if_neg (by simp [hw]), if_pos hin]

/-- Any other address is a doorbell page's or is translated. -/
theorem checkOne_global (h : canonical va = true) (ha : va.toNat % ms.align = 0) (hw : inWindow va = false) (hin : ms.inWin = false) :
    (checkOne s pid cr sup lp ms va).1 =
      (if ms.noWin then none else doorKey s pid va).elim (checkGlobal s pid cr sup lp ms.acc ms.size va).1
        fun k => .ok k true 0 := by
  rw [checkOne, if_neg (by simp [h]), if_neg (by simp [ha]), if_neg (by simp [hw]), if_neg (by simp [hin])]
  cases if ms.noWin then none else doorKey s pid va <;> rfl

theorem checkGlobal_outside (a : Acc) (size : Nat) (h : (translate s pid cr lp sup a va).1 = .outside) :
    (checkGlobal s pid cr sup lp a size va).1 = .trap 5 0x0A := by
  obtain ⟨s1, hs1⟩ : ∃ s1, translate s pid cr lp sup a va = (.outside, s1) := ⟨_, Prod.ext h rfl⟩
  rw [checkGlobal, hs1]

theorem checkGlobal_page (a : Acc) (size p : Nat) (h : (translate s pid cr lp sup a va).1 = .page p) :
    (checkGlobal s pid cr sup lp a size va).1 = .page p := by
  obtain ⟨s1, hs1⟩ : ∃ s1, translate s pid cr lp sup a va = (.page p, s1) := ⟨_, Prod.ext h rfl⟩
  rw [checkGlobal, hs1]

theorem checkGlobal_ok (a : Acc) (size : Nat) (e : TlbEntry) (h : (translate s pid cr lp sup a va).1 = .ok e) :
    (checkGlobal s pid cr sup lp a size va).1 =
      if ownsPa s pid (e.phys (vaOf va)) ∧ ownsPa s pid (e.phys (vaOf va) + size - 1) then
        .ok (e.phys (vaOf va)) (e.lcx || isHost (e.phys (vaOf va))) e.bits
      else .trap 5 0x0A := by
  obtain ⟨s1, hs1⟩ : ∃ s1, translate s pid cr lp sup a va = (.ok e, s1) := ⟨_, Prod.ext h rfl⟩
  rw [checkGlobal, hs1]
  simp only [Bool.and_eq_true]
  split <;> rfl

end

/-- Settles O24: each clause is one branch of the checks. -/
theorem addressChecks : Obligations.AddressChecks := by
  intro s pid cr sup lp ms va k canon aligned window
  have hcanon : canon ↔ canonical va = true := (canonical_iff va).symm
  have hwin : window ↔ inWindow va = true := (inWindow_iff va).symm
  have hnone {o : Option Nat} (h : ms.noWin = true ∨ o = none) : (if ms.noWin then none else o) = none := by
    rcases h with h | h <;> simp [h]
  refine ⟨fun hc => ?_, fun hc ha => ?_, fun hc ha hw h => ?_, fun hc ha hw hno a h => ?_, fun hc ha hw hin => ?_,
    fun hc ha hw hin hno a h => ?_, fun hc ha hw hin h => ?_⟩
  · exact checkOne_notCanonical s pid cr sup lp ms va (by simpa [hcanon] using hc)
  · exact checkOne_unaligned s pid cr sup lp ms va (hcanon.1 hc) ha
  · rw [show k = _ from checkOne_window s pid cr sup lp ms va (hcanon.1 hc) ha (hwin.1 hw), hnone h, Option.elim_none]
  · rw [show k = _ from checkOne_window s pid cr sup lp ms va (hcanon.1 hc) ha (hwin.1 hw), hno, h]
    rfl
  · exact checkOne_outside s pid cr sup lp ms va (hcanon.1 hc) ha (by simpa [hwin] using hw) hin
  · rw [show k = _ from checkOne_global s pid cr sup lp ms va (hcanon.1 hc) ha (by simpa [hwin] using hw) hin, hno, h]
    rfl
  · have hk : k = (checkGlobal s pid cr sup lp ms.acc ms.size va).1 := by
      rw [show k = _ from checkOne_global s pid cr sup lp ms va (hcanon.1 hc) ha (by simpa [hwin] using hw) hin, hnone h, Option.elim_none]
    rw [hk]
    refine ⟨checkGlobal_outside s pid cr sup lp va ms.acc ms.size, fun p => checkGlobal_page s pid cr sup lp va ms.acc ms.size p,
      fun e he => ?_⟩
    rw [checkGlobal_ok s pid cr sup lp va ms.acc ms.size e he]
    show if ownsPa s pid (e.phys (vaOf va)) ∧ ownsPa s pid (e.phys (vaOf va) + ms.size - 1) then _ else _
    split <;> rfl

end Sys2Proof.Machine
end

section
/-!
SUPPORT. Results that land (04 R103, 06 R155): what the write of one register leaves, and what a counter's fall loses. Special functions
(08 R218).
-/
namespace Sys2Proof.Machine

theorem map_fixed {β : Type} (k : β → β) (l : List β) (h : ∀ x ∈ l, k x = x) : l.map k = l :=
  (List.map_congr_left h).trans (List.map_id l)

/-! ### Registers that an LCONA reads -/

theorem getLsbD_asyncFold (as : List AsyncReg) (n : Nat) (x : Lanes) (i : Nat) :
    (as.foldl (fun acc a => if a.reg == n then acc ||| a.lanes else acc) x).getLsbD i =
      (x.getLsbD i || as.any fun a => a.reg == n && a.lanes.getLsbD i) := by
  induction as generalizing x with
  | nil => simp
  | cons a r ih =>
    rw [List.foldl_cons, ih, List.any_cons]
    by_cases h : a.reg == n
    · rw [if_pos h, h, BitVec.getLsbD_or, Bool.true_and, Bool.or_assoc]
    · rw [if_neg h, Bool.eq_false_iff.2 h, Bool.false_and, Bool.false_or]

/-- Where no LCONA reads a register, none has a lane of it. -/
theorem lanes_of_asyncLanes_zero (f : Flight) (n : Nat) (h : asyncLanes f n = 0) (a : AsyncReg) (ha : a ∈ f.asyncR) (hn : (a.reg == n) = true) :
    a.lanes = 0 := by
  apply BitVec.eq_of_getLsbD_eq
  intro i _
  have hi : (asyncLanes f n).getLsbD i = false := by rw [h]; exact BitVec.getLsbD_zero
  rw [asyncLanes, getLsbD_asyncFold, Bool.or_eq_false_iff, List.any_eq_false] at hi
  have := hi.2 a ha
  rw [hn, Bool.true_and] at this
  exact (Bool.eq_false_iff.2 this).trans BitVec.getLsbD_zero.symm

theorem unionLanes_zero (ms : List Lanes) (h : ∀ m ∈ ms, m = 0) : unionLanes ms = 0 :=
  foldl_fixed _ ms 0 fun m hm => by rw [h m hm]; simp

theorem getV_free_register (s : State) (f : Flight) (n l : Nat) (h : asyncLanes f n = 0) : getV s f n l = rowAt (mgetD f.v n []) l := by
  have hz : (0 : Lanes).getLsbD l = false := BitVec.getLsbD_zero
  rw [getV, h, hz]
  rfl

/-- Flights whose registers read by LCONA are the same. -/
theorem asyncLanes_congr (f f' : Flight) (k : Nat → AsyncReg → AsyncReg) (n : Nat) (hr : ∀ i a, (k i a).reg = a.reg ∧ (k i a).lanes = a.lanes)
    (i : Nat) (h : f'.asyncR = f.asyncR.map (k i)) : asyncLanes f' n = asyncLanes f n := by
  unfold asyncLanes
  rw [h, List.foldl_map]
  congr 1
  funext acc a
  rw [(hr i a).1, (hr i a).2]

/-! ### The write of a register -/

/-- The result of instruction `id` in a register that LCONA instances read. -/
def AsyncReg.landed (n : Nat) (m : Lanes) (old : Row) (id : Nat) (a : AsyncReg) : AsyncReg :=
  if a.reg != n then a
  else if a.made ≤ id then { a with hit := a.hit ||| (m &&& a.lanes) }
  else { a with olds := (m &&& a.lanes, old) :: a.olds }

theorem landed_keeps (n : Nat) (m : Lanes) (old : Row) (id : Nat) (a : AsyncReg) :
    (a.landed n m old id).reg = a.reg ∧ (a.landed n m old id).lanes = a.lanes := by
  unfold AsyncReg.landed
  split
  · exact ⟨rfl, rfl⟩
  · split <;> exact ⟨rfl, rfl⟩

/-- A row in which lanes that were written early are undefined and the others of a mask hold a result. -/
def landedRow (s : State) (old : Row) (n : Nat) (m : Lanes) (hits : List (Nat × Lanes)) (val : Nat → Word) : Row :=
  rowSet old m fun l => if wasHit hits n l then freeAt s n l else val l

theorem hitV_outside (n : Nat) (m : Lanes) (o : Mop) (h : inGroupV (memDst o.instr) n = false) : o.hitV n m = o := by
  rw [Mop.hitV, h]
  rfl

theorem pendHitV_outside (n : Nat) (m : Lanes) (p : Pend) (h : inGroupV (some (p.dst, p.rows.length)) n = false) : p.hitV n m = p := by
  rw [Pend.hitV, h]
  rfl

/-- The result of one instruction lands in a register that no other outstanding one has as destination. -/
theorem landV_eq (s : State) (f : Flight) (id n : Nat) (m : Lanes) (hits : List (Nat × Lanes)) (val : Nat → Word)
    (ha : asyncLanes f n = 0) (hm : ∀ o ∈ f.mops, o.id ≠ id → inGroupV (memDst o.instr) n = false)
    (hp : ∀ p ∈ f.pend, p.id ≠ id → inGroupV (some (p.dst, p.rows.length)) n = false) :
    landV s f id n m hits val =
      { f with
        v := mset f.v n (landedRow s (mgetD f.v n []) n m hits val)
        dirty := mset f.dirty n ((m, mgetD f.v n []) :: mgetD f.dirty n [])
        asyncR := f.asyncR.map (AsyncReg.landed n m (mgetD f.v n []) id) } := by
  have hlater : unionLanes ((f.asyncR.filter fun a => a.reg == n && a.made ≤ id).map (·.lanes)) = 0 := by
    refine unionLanes_zero _ fun x hx => ?_
    obtain ⟨a, hmem, rfl⟩ := List.mem_map.1 hx
    obtain ⟨hin, hreg⟩ := List.mem_filter.1 hmem
    exact lanes_of_asyncLanes_zero f n ha a hin (Bool.and_eq_true_iff.1 hreg).1
  have hmops : (f.mops.map fun o => if o.id == id then o else o.hitV n m) = f.mops :=
    map_fixed _ _ fun o ho => by
      split
      · rfl
      next hne => exact hitV_outside n m o (hm o ho (by simpa using hne))
  have hpend : (f.pend.map fun p => if p.id == id then p else p.hitV n m) = f.pend :=
    map_fixed _ _ fun p ho => by
      split
      · rfl
      next hne => exact pendHitV_outside n m p (hp p ho (by simpa using hne))
  have hz (l : Nat) : (0 : Lanes).getLsbD l = false := BitVec.getLsbD_zero
  unfold landV
  simp only [hlater, hmops, hpend, hz, Bool.or_false]
  rfl

/-- Lane `l` of register `n` after a result landed there. -/
theorem rowAt_landedRow (s : State) (old : Row) (n : Nat) (m : Lanes) (hits : List (Nat × Lanes)) (val : Nat → Word) (l : Nat)
    (hl : l < 96) (hh : wasHit hits n l = false) :
    rowAt (landedRow s old n m hits val) l = if m.getLsbD l then val l else rowAt old l := by
  rw [landedRow, rowAt_rowSet _ _ _ _ hl, hh]
  rfl

/-! ### What a counter's fall loses -/

/-- A flight that differs from another in lanes of a vector register that were written early. -/
structure Lost (f f' : Flight) (n : Nat) (hits : List (Nat × Lanes)) : Prop where
  rest   : f' = { f with v := f'.v }
  others : ∀ k, k ≠ n → mgetD f'.v k [] = mgetD f.v k []
  lanes  : ∀ l, l < 96 → wasHit hits n l = false → rowAt (mgetD f'.v n []) l = rowAt (mgetD f.v n []) l

theorem Lost.refl (f : Flight) (n : Nat) (hits : List (Nat × Lanes)) : Lost f f n hits := ⟨rfl, fun _ _ => rfl, fun _ _ _ => rfl⟩

theorem Lost.trans {f f' f'' : Flight} {n : Nat} {hits : List (Nat × Lanes)} (h : Lost f f' n hits) (h' : Lost f' f'' n hits) :
    Lost f f'' n hits where
  rest := by rw [h'.rest, h.rest]
  others k hk := (h'.others k hk).trans (h.others k hk)
  lanes l hl hh := (h'.lanes l hl hh).trans (h.lanes l hl hh)

theorem lost_foldl {α : Type} (k : Flight → α → Flight) (n : Nat) (hits : List (Nat × Lanes)) (xs : List α)
    (h : ∀ x ∈ xs, ∀ f, Lost f (k f x) n hits) (f : Flight) : Lost f (xs.foldl k f) n hits := by
  induction xs generalizing f with
  | nil => exact Lost.refl f n hits
  | cons x r ih =>
    exact (h x List.mem_cons_self f).trans (ih (fun y hy => h y (List.mem_cons_of_mem x hy)) (k f x))

theorem lost_loseV (s : State) (level : Nat) (f : Flight) (n : Nat) (hn : n < 192) (hits : List (Nat × Lanes)) (h : Nat × Lanes) (hmem : h ∈ hits)
    (hreg : h.1 = n) : Lost f (loseV s level f h) n hits := by
  have he : loseV s level f h = { f with v := mset f.v n (rowSet (mgetD f.v n []) h.2 (freeAt s n)) } := by
    rw [loseV, hreg, if_pos hn]
  rw [he]
  refine ⟨rfl, fun k hk => ?_, fun l hl hh => ?_⟩
  · show mgetD (mset f.v n _) k [] = _
    rw [mgetD_mset, if_neg hk]
  · show rowAt (mgetD (mset f.v n _) n []) l = _
    rw [mgetD_mset, if_pos rfl, rowAt_rowSet _ _ _ _ hl]
    have : h.2.getLsbD l = false := by
      rw [wasHit, List.any_eq_false] at hh
      simpa [hreg] using hh h hmem
    rw [this]
    rfl

/-- The registers that some dropped access or result had been written early in. -/
theorem mem_pruneMops (op : List (Option Counter × Nat)) (ms : List Mop) (h : Hits) (hh : h ∈ (pruneMops op ms).2) :
    ∃ o ∈ ms, h.v = o.vhits ∧ h.s = o.shits := by
  induction ms generalizing op with
  | nil => simp [pruneMops] at hh
  | cons o r ih =>
    rw [pruneMops] at hh
    have tail (op : List (Option Counter × Nat)) (hr : h ∈ (pruneMops op r).2) : ∃ x ∈ o :: r, h.v = x.vhits ∧ h.s = x.shits := by
      obtain ⟨x, hx, hv⟩ := ih op hr
      exact ⟨x, List.mem_cons_of_mem o hx, hv⟩
    split at hh
    · rcases List.mem_cons.1 hh with rfl | hr
      · exact ⟨o, List.mem_cons_self, rfl, rfl⟩
      · exact tail _ hr
    · exact tail _ hh

theorem mem_prunePend (op : List (Counter × Nat)) (ps : List Pend) (h : Hits) (hh : h ∈ (prunePend op ps).2) :
    ∃ p ∈ ps, h.v = p.vhits ∧ h.s = [] := by
  induction ps generalizing op with
  | nil => simp [prunePend] at hh
  | cons o r ih =>
    rw [prunePend] at hh
    have tail (op : List (Counter × Nat)) (hr : h ∈ (prunePend op r).2) : ∃ x ∈ o :: r, h.v = x.vhits ∧ h.s = [] := by
      obtain ⟨x, hx, hv⟩ := ih op hr
      exact ⟨x, List.mem_cons_of_mem o hx, hv⟩
    split at hh
    · rcases List.mem_cons.1 hh with rfl | hr
      · exact ⟨o, List.mem_cons_self, rfl, rfl⟩
      · exact tail _ hr
    · exact tail _ hh

/-- Where what was written early lies in one vector register, only lanes of that are lost. -/
theorem lost_prune (s : State) (f : Flight) (n : Nat) (hn : n < 192) (hits : List (Nat × Lanes))
    (hm : ∀ o ∈ f.mops, (∀ h ∈ o.vhits, h ∈ hits ∧ h.1 = n) ∧ o.shits = []) (hp : ∀ p ∈ f.pend, ∀ h ∈ p.vhits, h ∈ hits ∧ h.1 = n) :
    Lost { f with mops := (pruneMops [] f.mops).1, pend := (prunePend [] f.pend).1 } (prune s f) n hits := by
  refine lost_foldl (lose s) n hits _ (fun h hh f0 => ?_) _
  have hall : (∀ x ∈ h.v, x ∈ hits ∧ x.1 = n) ∧ h.s = [] := by
    rcases List.mem_append.1 hh with h1 | h2
    · obtain ⟨o, ho, hv, hs⟩ := mem_pruneMops _ _ h h1
      rw [hv, hs]
      exact hm o ho
    · obtain ⟨p, ho, hv, hs⟩ := mem_prunePend _ _ h h2
      rw [hv, hs]
      exact ⟨hp p ho, rfl⟩
  rw [lose, hall.2]
  exact lost_foldl _ n hits h.v (fun x hx f1 => lost_loseV s h.level f1 n hn hits x (hall.1 x hx).1 (hall.1 x hx).2) f0

/-- Where nothing was written early, nothing is lost. -/
theorem prune_noEarly (s : State) (f : Flight) (h : NoEarly f) :
    prune s f = { f with mops := (pruneMops [] f.mops).1, pend := (prunePend [] f.pend).1 } := by
  refine foldl_fixed (lose s) _ _ fun x hx => ?_
  have hall : x.v = [] ∧ x.s = [] := by
    rcases List.mem_append.1 hx with h1 | h2
    · obtain ⟨o, ho, hv, hs⟩ := mem_pruneMops _ _ x h1
      rw [hv, hs]
      exact h.1 o ho
    · obtain ⟨p, ho, hv, hs⟩ := mem_prunePend _ _ x h2
      rw [hv, hs]
      exact ⟨h.2 p ho, rfl⟩
  rw [lose, hall.1, hall.2]
  rfl

/-! ### Special functions (08 R218, R219) -/

/-- The result that a special function issues. -/
def sfuPend (s : State) (f : Flight) (g : Fragment) (t : Ty) (k : Fmt → FVal → FRes) (d a : Opnd) : Pend :=
  let r := activeRes g.em fun l => k (fmtOf t) (fval t (src (ctxOf s f g) t a l))
  { id := s.nextId, acc := false, frag := g.num, level := g.level, dst := d
    rows := [((List.range 96).map fun l => if g.em.getLsbD l then k (fmtOf t) (fval t (src (ctxOf s f g) t a l)) else (0, 0)).map
      fun r => w32 r.1]
    lanes := g.em, flags := flagMasks (fun l => (r l).2) g.em, pc := g.pc, seq := f.seqNo, vhits := [], cleared := []
    late := lateWatch (Machine.core s f.core).bcn f g, watch := (Machine.core s f.core).bcn, held := false }

theorem count_append_sfu (f : Flight) (level : Nat) (p : Pend) (hl : p.level = level) (hc : p.acc = false) :
    count { f with pend := f.pend ++ [p] } level .sfu = count f level .sfu + 1 := by
  simp [count, List.filter_append, hl, Pend.counter, hc, Nat.add_assoc]

theorem getLsbD_flagMasks (bits : Nat → Nat) (m : Lanes) (j l : Nat) (hj : j < 4) (hl : l < 96) :
    ((flagMasks bits m).getD j 0).getLsbD l = (m.getLsbD l && (bits l).testBit j) := by
  rw [flagMasks, List.getD_eq_getElem?_getD, List.getElem?_map, List.getElem?_range hj, Option.map_some, Option.getD_some,
    flagLanes, getLsbD_lanesOf _ l hl, bitOf, Nat.testBit_eq_decide_div_mod_eq]
  rfl

/-- A special function below its limit issues its result. -/
theorem issues_special (i : Instr) (s : State) (f : Flight) (g : Fragment) (t : Ty) (k : Fmt → FVal → FRes) (d a : Opnd)
    (hi : Issues s f g) (hu : Unwatched s f) (hm : MayName f g [(d, 1), (a, 1)]) (hc : count f g.level .sfu < 15)
    (he : exec i s = special1 k t d a s) :
    CompletesIn i s f g { s with nextId := s.nextId + 1 } f (g.pc + 8) fun t' f' g' =>
      g'.em = g.em ∧ ScalarsSame f f' g g' ∧ VectorsSame s t' f f' ∧ f'.lflags = f.lflags ∧ f'.t1 = f.t1 ∧ f'.t2 = f.t2 ∧
        count f' g.level .sfu = count f g.level .sfu + 1 ∧
        ∃ p, f'.pend = f.pend ++ [p] ∧ p.id = s.nextId ∧ p.acc = false ∧ p.dst = d ∧ p.lanes = g.em ∧ p.level = g.level ∧
          (∀ l, l < 96 → g.em.getLsbD l →
            rowAt (p.rows.headD []) l = wrap (k (fmtOf t) (fval t (src (ctxOf s f g) t a l))).1) ∧
          ∀ j l, j < 4 → l < 96 → (p.flags.getD j 0).getLsbD l =
            (g.em.getLsbD l && (k (fmtOf t) (fval t (src (ctxOf s f g) t a l))).2.testBit j) := by
  have hpass : ¬ Counter.limit .sfu ≤ count (ctxOf s f g).f (ctxOf s f g).g.level .sfu := Nat.not_le.2 hc
  let c : Ctx := { ctxOf s f g with
    st := { s with nextId := s.nextId + 1 }, f := { f with pend := f.pend ++ [sfuPend s f g t k d a] } }
  have hrun : exec i s = .next (retireNext (ctxOf s f g) c) :=
    he.trans ((issue_acts _ false _ s f g hi hm (by simp)).trans (congrArg Host.Outcome.next (if_neg hpass)))
  refine completesIn_of i s f g f (g.pc + 8) c _ hi hu.1 rfl rfl rfl rfl hrun rfl fun t' f' g' hfree hem hf' => ?_
  have hpend : f'.pend = f.pend ++ [sfuPend s f g t k d a] := by rw [hf']; rfl
  refine ⟨hem, fun n => getS_em _ _ _ _ n (by rw [hf']; rfl) hem,
    fun n l => getV_same s t' f f' n l (by rw [hf']; rfl) (by rw [hf']; rfl) hfree, by rw [hf']; rfl, by rw [hf']; rfl, by rw [hf']; rfl, ?_,
    sfuPend s f g t k d a, hpend, rfl, rfl, rfl, rfl, rfl, fun l hl hact => ?_, fun j l hj hl => ?_⟩
  · have := count_append_sfu f g.level (sfuPend s f g t k d a) rfl rfl
    rw [← this, hf']
    rfl
  · have hrow : (sfuPend s f g t k d a).rows.headD [] = ((List.range 96).map fun l =>
        if g.em.getLsbD l then k (fmtOf t) (fval t (src (ctxOf s f g) t a l)) else (0, 0)).map fun r => w32 r.1 := rfl
    rw [hrow, rowAt, List.getD_eq_getElem?_getD, List.getElem?_map, List.getElem?_map, List.getElem?_range hl, Option.map_some, Option.map_some,
      Option.getD_some, if_pos hact, wrap_natCast]
  · refine (getLsbD_flagMasks _ g.em j l hj hl).trans ?_
    cases hact : g.em.getLsbD l with
    | false => rfl
    | true => rw [activeRes_eq g.em _ l hl hact]

/-- A result none of whose flags was cleared raises its flags. -/
theorem raised_uncleared (s : State) (p : Pend) (h : ∀ m ∈ p.cleared, m = 0) : p.raised s = p.flags := by
  have hz (k : Nat) : p.cleared.getD k 0 = 0 := by
    rw [List.getD_eq_getElem?_getD]
    cases hk : p.cleared[k]? with
    | none => rfl
    | some m => exact h m (List.mem_of_getElem? hk)
  have hone (k : Nat) : p.flags.getD k 0 &&& ~~~(lanesOf fun l =>
      (p.cleared.getD k 0).getLsbD l && Config.freeBool (s.free * 65536 + k * 96 + l)) = p.flags.getD k 0 := by
    apply BitVec.eq_of_getLsbD_eq
    intro l hl
    have h0 : (0 : Lanes).getLsbD l = false := BitVec.getLsbD_zero
    rw [BitVec.getLsbD_and, BitVec.getLsbD_not, getLsbD_lanesOf _ l hl, hz, h0, decide_eq_true hl]
    simp
  unfold Pend.raised
  simp only [hone]
  apply List.ext_getElem
  · simp
  · intro k h1 h2
    simp [List.getD_eq_getElem?_getD, List.getElem?_eq_getElem h2]

/-- The flight after a special function's result has been written, before its counter falls. -/
def landed1 (s : State) (f : Flight) (p : Pend) (n : Nat) (r : Row) : Flight :=
  { f with
    v := mset f.v n (landedRow s (mgetD f.v n []) n p.lanes p.vhits (rowAt r))
    dirty := mset f.dirty n ((p.lanes, mgetD f.v n []) :: mgetD f.dirty n [])
    asyncR := f.asyncR.map (AsyncReg.landed n p.lanes (mgetD f.v n []) p.id)
    lflags := orMasks f.lflags p.flags
    pend := f.pend.map fun q => if q.id == p.id then { q with rows := [] } else q }

/-- Settles O14: the issue is `issues_special`; a landing writes its register (`landV_eq`) and then loses only what was written early
(`lost_prune`). -/
theorem specialFunctions : Obligations.SpecialFunctions := by
  refine ⟨fun s f g t rm d a hi hu hm hc => ?_, ?_⟩
  · have all := fun i k => issues_special i s f g t k d a hi hu hm hc
    exact ⟨all _ _ (exec_vrcp t rm d a s), all _ _ (exec_vrsq t rm d a s), all _ _ (exec_vsqrt t rm d a s),
      all _ _ (exec_vexp2 t rm d a s), all _ _ (exec_vlog2 t rm d a s), all _ _ (exec_vsinpi t rm d a s),
      all _ _ (exec_vcospi t rm d a s), all _ _ (exec_vtanh t rm d a s)⟩
  · intro s fid f p n r hf hp hone hacc hdst hrows hlate hasync hready hfrz hclear hearly hhits hdest
    have hfind : f.pend.find? (fun q => q.id == p.id && !q.acc) = some p :=
      find?_unique _ _ p hp (by simp [hacc]) fun q hq h => hone q hq (by simpa using (Bool.and_eq_true_iff.1 h).1)
    have hrun : exec (.sfuResultWrite fid p.id) s = .next (landPend s fid p) := by
      show execSfuResultWrite fid p.id s = _
      simp only [execSfuResultWrite, hf, hfind, hready, hfrz, Bool.not_false, Bool.and_self, if_true]
    have hin : inGroupV (some (Opnd.v n, 1)) n.val = true := by simp [inGroupV]
    have hland : landReg s f p.id p.level (opAdd p.dst 0) p.lanes p.vhits (rowAt r) =
        { f with
          v := mset f.v n.val (landedRow s (mgetD f.v n.val []) n.val p.lanes p.vhits (rowAt r))
          dirty := mset f.dirty n.val ((p.lanes, mgetD f.v n.val []) :: mgetD f.dirty n.val [])
          asyncR := f.asyncR.map (AsyncReg.landed n.val p.lanes (mgetD f.v n.val []) p.id) } := by
      have h0 : opAdd p.dst 0 = .v n := by rw [hdst, opAdd]; simp [Nat.mod_eq_of_lt n.isLt]
      rw [h0]
      exact landV_eq s f p.id n.val p.lanes p.vhits (rowAt r) hasync (fun o ho _ => (hdest.1 o ho n.val).1 hin)
        fun q hq hne => hdest.2 q (List.mem_filter.2 ⟨hq, by simpa using hne⟩) n.val hin
    have hstate : landPend s fid p = { Machine.modFlight s fid (fun f => prune s ((landReg s f p.id p.level (opAdd p.dst 0) p.lanes p.vhits
        (rowAt r)).raise p.flags |> fun f2 => { f2 with pend := f2.pend.map fun q => if q.id == p.id then { q with rows := [] } else q }))
        with free := s.free + 1 } := by
      unfold landPend
      rw [raised_uncleared s p hclear, hrows, hlate]
      rfl
    have hpruned : Lost { landed1 s f p n.val r with mops := (pruneMops [] (landed1 s f p n.val r).mops).1,
                                                     pend := (prunePend [] (landed1 s f p n.val r).pend).1 }
        (prune s (landed1 s f p n.val r)) n.val p.vhits := by
      refine lost_prune s _ n.val n.isLt p.vhits (fun o ho => ?_) fun q hq h hh => ?_
      · have := hearly.1 o ho
        rw [this.1, this.2]
        simp
      · obtain ⟨q0, hq0, rfl⟩ := List.mem_map.1 hq
        by_cases hid : q0.id = p.id
        · rw [if_pos (by simpa using hid)] at hh
          rw [hone q0 hq0 hid] at hh
          exact ⟨hh, hhits h hh⟩
        · rw [if_neg (by simpa using hid), hearly.2 q0 (List.mem_filter.2 ⟨hq0, by simpa using hid⟩)] at hh
          simp at hh
    obtain ⟨f', hf'⟩ : ∃ f', f' = prune s (landed1 s f p n.val r) := ⟨_, rfl⟩
    rw [← hf'] at hpruned
    obtain ⟨hrest, hoth, hlanes⟩ := hpruned
    have hflight : flight? (landPend s fid p) fid = some f' := by
      rw [hstate]
      show flight? (Machine.modFlight s fid _) fid = _
      rw [flight?_modFlight, if_pos rfl, hf, Option.map_some, hland, hf']
      rfl
    have hasync' : asyncLanes f' n.val = 0 := by
      rw [← hasync]
      refine asyncLanes_congr f f' (fun _ => AsyncReg.landed n.val p.lanes (mgetD f.v n.val []) p.id) n.val
        (fun _ a => landed_keeps _ _ _ _ a) 0 ?_
      rw [hrest]
      rfl
    have hval (l : Nat) (hl : l < 96) (hh : wasHit p.vhits n.val l = false) :
        getV (landPend s fid p) f' n.val l = if p.lanes.getLsbD l then rowAt r l else getV s f n.val l := by
      rw [getV_free_register _ _ _ _ hasync', getV_free_register _ _ _ _ hasync, hlanes l hl hh]
      show rowAt (mgetD (mset f.v n.val _) n.val []) l = _
      rw [mgetD_mset, if_pos rfl]
      exact rowAt_landedRow s _ n.val p.lanes p.vhits (rowAt r) l hl hh
    refine ⟨_, f', hrun, hflight, fun l hl hact hh => ?_, fun l hl hact hh => ?_, fun k hk => ?_, ?_, ?_, fun a => ?_, fun k hk => ?_⟩
    · rw [hval l hl hh, if_pos hact]
    · rw [hval l hl hh, if_neg hact]
    · rw [hoth k hk]
      show mgetD (mset f.v n.val _) k [] = _
      rw [mgetD_mset, if_neg hk]
    · rw [hrest]
      rfl
    · rw [hrest]
      rfl
    · rw [hstate]
      rfl
    · rw [hstate]
      show flight? (Machine.modFlight s fid _) k = _
      rw [flight?_modFlight, if_neg hk]

end Sys2Proof.Machine
end

section
/-!
SUPPORT. Exceptions (19 R384-R403): the trap that a fragment takes, and the return from it.
-/
namespace Sys2Proof.Machine

/-! ### Taking an exception (19 R390) -/

/-- The fragment in the handler. -/
def trapped (f : Flight) (g : Fragment) : Fragment :=
  { g with level := g.level + 1, pc := f.tvec, region := 0, rpc := f.tvec, rmask := g.em, wait := .run, run := 0, skip := false }

theorem trapOpen_of (f : Flight) (g : Fragment) (h : MayTrap f g) : trapOpen f g.level = true := by
  rcases h with h | ⟨h, ht⟩
  · rw [trapOpen, h]
    rfl
  · rw [trapOpen, h, ht]
    rfl

/-! ### What the entry leaves -/

section
variable (f : Flight) (g : Fragment) (fi : FaultInfo) (more : Bool) (sch : List Word)

/-- The trap set of the level entered. -/
def entrySet : TrapSet :=
  { bank f (g.level + 1) with
    cause := causeWord fi more, pc := fi.pc, region := g.region, mask := fi.mask.getD g.em, em := g.em, addr := fi.addr,
    seq := fi.seq, cpc := fi.cpc, rpc := g.rpc, te := false, rmask := g.rmask, kept := fi.kept, skip := g.skip, sch := sch }

/-- The flight after the entry, but for its fragments: its trap set, and what it has outstanding at the level entered. -/
def entryFlight : Flight := orphan (setBank { f with afMore := false } (g.level + 1) (entrySet f g fi more sch)) (g.level + 1)

theorem entrySet_files : (entrySet f g fi more sch).ss = (bank f (g.level + 1)).ss ∧ (entrySet f g fi more sch).vt = (bank f (g.level + 1)).vt := by
  unfold entrySet
  exact ⟨rfl, rfl⟩

theorem enterTrap_eq : enterTrap f g fi more sch = putFrag (entryFlight f g fi more sch) (trapped f g) := by
  have hb : bank { f with afMore := false } (g.level + 1) = bank f (g.level + 1) := rfl
  rfl

theorem bank_enterTrap : bank (enterTrap f g fi more sch) (g.level + 1) = entrySet f g fi more sch :=
  bank_setBank { f with afMore := false } (g.level + 1) (entrySet f g fi more sch)

/-- Setting a trap set changes nothing else of the flight. -/
theorem setBank_rest (n : Nat) (t : TrapSet) : setBank f n t = { f with t1 := (setBank f n t).t1, t2 := (setBank f n t).t2 } := by
  unfold setBank
  split <;> rfl

theorem entryFlight_rest : entryFlight f g fi more sch =
    { f with afMore := false, t1 := (entryFlight f g fi more sch).t1, t2 := (entryFlight f g fi more sch).t2
             mops := (orphan f (g.level + 1)).mops, pend := (orphan f (g.level + 1)).pend } := by
  unfold entryFlight
  rw [setBank_rest]
  rfl

theorem count_enterTrap (level : Nat) (k : Counter) :
    count (enterTrap f g fi more sch) level k = count (orphan f (g.level + 1)) level k := by
  rw [enterTrap_eq, entryFlight_rest]
  rfl

theorem orphan_count_level (n : Nat) (k : Counter) : count (orphan f n) n k = 0 := by
  have hm : (orphan f n).mops.filter (fun o => o.level == n && mopCounter o.instr == some k) = [] := by
    refine List.filter_eq_nil_iff.2 fun o ho => ?_
    obtain ⟨x, -, rfl⟩ := List.mem_map.1 ho
    split
    · simp
    next h => simp [show x.level ≠ n by simpa using h]
  have hp : (orphan f n).pend.filter (fun o => o.level == n && o.counter == k) = [] := by
    refine List.filter_eq_nil_iff.2 fun o ho => ?_
    obtain ⟨x, -, rfl⟩ := List.mem_map.1 ho
    split
    · simp
    next h => simp [show x.level ≠ n by simpa using h]
  rw [count, hm, hp]
  rfl

theorem orphan_count_other (n level : Nat) (k : Counter) (h : level ≠ n) (h10 : level ≠ n + 10) :
    count (orphan f n) level k = count f level k := by
  unfold count orphan
  congr 1
  · rw [List.filter_map, List.length_map]
    congr 1
    refine List.filter_congr fun o _ => ?_
    by_cases ho : o.level = n
    · simp [ho, show (n + 10 == level) = false by simpa using h10.symm, show (n == level) = false by simpa using h.symm]
    · simp [ho]
  · rw [List.filter_map, List.length_map]
    congr 1
    refine List.filter_congr fun o _ => ?_
    by_cases ho : o.level = n
    · simp [ho, show (n + 10 == level) = false by simpa using h10.symm, show (n == level) = false by simpa using h.symm]
    · simp [ho, Pend.counter]

end

section
variable (s : State) (fid : Nat) (f : Flight) (g : Fragment) (fi : FaultInfo) (more : Bool) (hf : flight? s fid = some f)
  (hg : frag? f g.num = some g)
include hf hg

/-- Without a handler the fragment is killed with all its lanes. -/
theorem takeTrap_kills (hl : g.level = 0) (ht : f.tvec = 0) :
    takeTrap s fid g.num fi more = killReport s fid f g g.owned (some (fi.code, fi.detail, fi.pc)) (causeWord fi more) := by
  have hopen : trapOpen f g.level = true := trapOpen_of f g (.inl hl)
  simp only [takeTrap, hf, hg, hopen, Bool.not_true, Bool.false_eq_true, if_false]
  rw [hl, ht]
  rfl

omit hf in
theorem frag?_enterTrap (sch : List Word) : frag? (enterTrap f g fi more sch) g.num = some (trapped f g) := by
  have hfr : frag? (entryFlight f g fi more sch) g.num = some g := by
    rw [entryFlight_rest]
    exact hg
  rw [enterTrap_eq]
  exact frag?_putFrag_same _ (trapped f g) g hfr

/-- With a handler the fragment enters the next level. -/
theorem takeTrap_enters (hopen : MayTrap f g) (hu : (Machine.core s f.core).trcctl.getLsbD 0 = false) (hh : g.level = 0 → f.tvec ≠ 0) :
    takeTrap s fid g.num fi more = modFlight s fid fun _ => enterTrap f g fi more (schWords s f g) := by
  have hvec : (g.level == 0 && f.tvec == 0) = false := by
    by_cases hl : g.level = 0
    · rw [beq_eq_false_iff_ne.2 (hh hl), Bool.and_false]
    · simp [hl]
  have hcore : (enterTrap f g fi more (schWords s f g)).core = f.core := by
    rw [enterTrap_eq, entryFlight_rest]
    rfl
  simp only [takeTrap, hf, hg, trapOpen_of f g hopen, hvec, Bool.not_true, Bool.false_eq_true, if_false,
    frag?_enterTrap f g fi more hg]
  refine tracePacket_off _ _ _ _ _ ?_
  rw [hcore]
  exact hu

end

theorem toNat_causeWord (fi : FaultInfo) (more : Bool) (h : fi.origin < 4) :
    (causeWord fi more).toNat = fi.code % 256 + fi.detail % 256 * 2 ^ 8 + fi.origin * 2 ^ 20 + (if more then 2 ^ 24 else 0) := by
  unfold causeWord w32
  have hm : (if more then 2 ^ 24 else 0) ≤ 2 ^ 24 := by split <;> omega
  rw [BitVec.toNat_ofNat, Nat.mod_eq_of_lt (by omega), show (256 : Nat) = 2 ^ 8 from rfl]

/-- TCOUNT of a level (19 R393). -/
theorem privReg_counts (s : State) (f : Flight) (level : Nat) : privReg s f level 0x15 = countsWord f (level - 1) := by
  simp [privReg]

/-- Settles O30: the entry is `takeTrap_enters`. -/
theorem trapEntry : Obligations.TrapEntry := by
  intro s fid f g fi more hf hg hu hmay horigin t
  refine ⟨fun hl ht => takeTrap_kills s fid f g fi more hf hg hl ht, fun hh => ?_⟩
  have ht : t = modFlight s fid fun _ => enterTrap f g fi more (schWords s f g) := takeTrap_enters s fid f g fi more hf hg hmay hu.2 hh
  rw [ht]
  have hflight : flight? (modFlight s fid fun _ => enterTrap f g fi more (schWords s f g)) fid =
      some (enterTrap f g fi more (schWords s f g)) := by
    rw [flight?_modFlight, if_pos rfl, hf]
    rfl
  have hrest := entryFlight_rest f g fi more (schWords s f g)
  have hlev : g.level < 2 := by rcases hmay with h | h <;> omega
  refine ⟨_, hflight, rfl, fun k hk => by rw [flight?_modFlight, if_neg hk], fun n hn => ?_, fun _ => rfl,
    frag?_enterTrap f g fi more hg _, ?_⟩
  · rw [enterTrap_eq, frag?_putFrag_ne _ (trapped f g) hn, hrest]
    rfl
  · intro b o
    have hb : b = entrySet f g fi more (schWords s f g) := bank_enterTrap f g fi more _
    obtain ⟨hss, hvt⟩ := entrySet_files f g fi more (schWords s f g)
    clear_value b
    subst hb
    refine ⟨toNat_causeWord fi more horigin, rfl, rfl, rfl, rfl, rfl, rfl, rfl, rfl, rfl, rfl, hss, hvt, ?_, fun k => ?_, ?_, ?_, ?_, ?_⟩
    · rw [privReg_counts]
      simp only [countsWord, Nat.add_sub_cancel, count_enterTrap]
      rw [orphan_count_other _ _ _ _ (by omega) (by omega), orphan_count_other _ _ _ _ (by omega) (by omega),
        orphan_count_other _ _ _ _ (by omega) (by omega), orphan_count_other _ _ _ _ (by omega) (by omega)]
    · rw [count_enterTrap, orphan_count_level]
    · split
      next h => rw [enterTrap_eq]; simp [entryFlight, orphan, setBank, h]
      next h => rw [enterTrap_eq]; simp [entryFlight, orphan, setBank, h]
    · rw [enterTrap_eq, hrest]
      rfl
    · rw [enterTrap_eq, hrest]
      rfl
    · rw [enterTrap_eq, hrest]
      rfl

/-! ### A watched result (20 R424) -/

/-- Where an instruction that beacons watch is still to be decided, no asynchronous fault or timer trap is taken. -/
theorem taker?_watched (s : State) (f : Flight) (g : Fragment) (hi : Issues s f g) (hw : g.wait = .run) (h : watchedOpen f = true) :
    taker? s = none := by
  have htry : mayTry s s.cur.1 f g = false := by
    rw [mayTry, hw, h]
    exact Bool.and_false _
  simp only [taker?, issuer?_eq s f g hi, ctxOf, htry, Bool.and_false, Bool.false_and, Bool.false_eq_true, if_false]

/-- A fragment of all lanes at the start of its kernel. -/
def firstFragment : Fragment :=
  { num := 0, owned := allLanes, em := allLanes, pc := 0, region := 0, rpc := 0, rmask := allLanes, level := 0, wait := .run,
    halted := false, stopped := false, regionStop := false, skip := false, ready := 0, last := none, run := 0, aged := false }

/-- A special function's result that is outstanding and that beacons watch. -/
def watchedResult : Pend :=
  { id := 0, acc := false, frag := 0, level := 0, dst := .v 0, rows := [[]], lanes := allLanes, flags := [], pc := 0, seq := 0,
    vhits := [], late := true, watch := [], cleared := [], held := false }

/-- A flight with a watched result, a handler and a pending timer trap. -/
def watchedFlight : Flight :=
  { gid := 0, pid := 0, launch := 0, rank := 0, idx := 0, core := 0, slot := 0, pos := 0, frags := [firstFragment], exited := 0,
    vregs := 8, s := [], v := [], tokens := [], pend := [watchedResult], mops := [], seqNo := 0, fpmode := 0, lflags := [], clkhi := 0,
    lseq := [], pts := [], t1 := TrapSet.start, t2 := TrapSet.start, tvec := 8, bp := false, sq := [], psets := [], afq := [],
    afMore := false, timer := true, haltq := [], lpr := [], slpr := none, dirty := [], asyncR := [], issued := 0, dblFlt := none,
    refused := [] }

/-- A machine that holds the watched flight alone. -/
def watchedState : State := { State.reset with flights := [(0, watchedFlight)] }

theorem issues_watchedState : Issues watchedState watchedFlight firstFragment := ⟨rfl, rfl⟩

/-- The watched flight after its timer trap has been taken up. -/
def takenState : State := modFlight watchedState 0 fun f => { f with timer := false }

/-- The timer trap of its fragment. -/
def timerFault : FaultInfo := ⟨0x23, 0, 3, 0, none, 0, 0, 0, none⟩

/-- The flight has no timer trap pending once it has taken it. -/
theorem timer_takenState : (flight? (takeTrap takenState 0 0 timerFault false) 0).map (·.timer) = some false := by
  have ht : takeTrap takenState 0 firstFragment.num timerFault false = modFlight takenState 0 fun _ =>
      enterTrap { watchedFlight with timer := false } firstFragment timerFault false
        (schWords takenState { watchedFlight with timer := false } firstFragment) :=
    takeTrap_enters takenState 0 { watchedFlight with timer := false } firstFragment timerFault false rfl rfl (.inl rfl) rfl
      fun _ => by decide
  show (flight? (takeTrap takenState 0 firstFragment.num timerFault false) 0).map (·.timer) = some false
  rw [ht]
  rfl

/-- Refutes O31: in `watchedState` the timer trap is due, but the flight waits for a result that beacons watch, so it is not taken. -/
theorem not_trapSources : ¬ Obligations.TrapSources := by
  intro h
  obtain ⟨-, hsources⟩ := h
  obtain ⟨-, -, -, -, -, htimer⟩ := hsources watchedState watchedFlight firstFragment (.s 0) 0 issues_watchedState
  have htaken : exec .timerTrapTaken watchedState = .next (takeTrap takenState 0 0 timerFault false) :=
    htimer ⟨rfl, rfl, rfl, rfl, rfl, rfl, rfl⟩ rfl (by decide)
  have hstays : exec .timerTrapTaken watchedState = .next watchedState := by
    rw [exec_timerTrapTaken, execTimerTrapTaken, taker?_watched watchedState watchedFlight firstFragment issues_watchedState rfl rfl]
  have hsame : watchedState = takeTrap takenState 0 0 timerFault false := Host.Outcome.next.inj (hstays.symm.trans htaken)
  have hpending : (flight? watchedState 0).map (·.timer) = some true := rfl
  rw [hsame, timer_takenState] at hpending
  exact absurd hpending (by decide)

end Sys2Proof.Machine
end

section
/-!
SUPPORT. The return from an exception (19 R402).
-/
namespace Sys2Proof.Machine

section
variable (s : State) (f : Flight) (g : Fragment)

/-- The fragment after a return: at the level below, with the trap set's region and restart. -/
def returnFrag (pc : DWord) (em : Lanes) (w : Wait) (skip : Bool) : Fragment :=
  { g with level := g.level - 1, pc := pc, em := em &&& g.owned, region := (bank f g.level).region, rpc := (bank f g.level).rpc,
           rmask := (bank f g.level).rmask &&& g.owned, wait := w, last := some s.cycle, run := 0, ready := s.cycle, aged := false,
           skip := skip }

/-- The fragment as it has issued an instruction. -/
def issuedFrag : Fragment := { g with last := some s.cycle, run := g.run + 1, ready := s.cycle, aged := false, skip := false }

/-- The flight after a return: its trap set keeps no instruction. -/
def returnFlight : Flight := setBank { f with issued := f.issued + 1 } g.level { bank f g.level with kept := none }

theorem returnFlight_rest : returnFlight f g =
    { f with issued := f.issued + 1, t1 := (returnFlight f g).t1, t2 := (returnFlight f g).t2 } := by
  unfold returnFlight
  rw [setBank_rest]

/-- The context after a return. -/
def returnCtx (pc : DWord) (em : Lanes) (w : Wait) (skip : Bool) : Ctx :=
  ⟨s, putFrag (returnFlight f g) (returnFrag s f g pc em g.wait (skip && (bank f g.level).skip)),
    returnFrag s f g pc em w (skip && (bank f g.level).skip), Obs.none⟩

variable (hi : Issues s f g) (hu : Unwatched s f)
include hi hu

theorem returnTo_eq (pc shown : DWord) (em : Lanes) (same : Bool) :
    returnTo (ctxOf s f g) pc shown em same = returnCtx s f g pc em .run same := by
  have hst : tracePacket s f g 2 shown.toNat = s := tracePacket_off s f g _ _ hu.2
  have hfrag : frag? (returnFlight f g) g.num = some g := by
    rw [returnFlight_rest]
    exact issues_frag s f g hi
  have hput : frag? (putFrag (returnFlight f g) (returnFrag s f g pc em g.wait (same && (bank f g.level).skip))) g.num =
      some (returnFrag s f g pc em g.wait (same && (bank f g.level).skip)) := frag?_putFrag_same _ _ g hfrag
  have hleave : leaveTrap { f with issued := f.issued + 1 } (issuedFrag s g) pc em same =
      putFrag (returnFlight f g) (returnFrag s f g pc em g.wait (same && (bank f g.level).skip)) := rfl
  have hctx : ({ ctxOf s f g with st := tracePacket (ctxOf s f g).st (ctxOf s f g).f (ctxOf s f g).g 2 shown.toNat } : Ctx) = ctxOf s f g :=
    congrArg (fun u => Ctx.mk u f g Obs.none) hst
  unfold returnTo
  rw [hctx]
  show goto ⟨s, leaveTrap { f with issued := f.issued + 1 } (issuedFrag s g) pc em same,
    (frag? (leaveTrap { f with issued := f.issued + 1 } (issuedFrag s g) pc em same) g.num).getD (issuedFrag s g), Obs.none⟩ pc = _
  rw [hleave, hput]
  rfl

omit hu in
/-- A fragment whose return is committed is back. -/
theorem comesBack_of (i : Instr) (pc : DWord) (em : Lanes) (w : Wait) (same skip : Bool)
    (he : exec i s = .next (commit { returnCtx s f g pc em w same with g := returnFrag s f g pc em w skip })) :
    ∃ t f' g', exec i s = .next t ∧ flight? t s.cur.1 = some f' ∧ frag? f' g.num = some g' ∧ Outside s t ∧ Siblings f f' g ∧
      g'.pc = pc ∧ g'.em = em &&& g.owned ∧ g'.level = g.level - 1 ∧ g'.region = (bank f g.level).region ∧
      g'.rpc = (bank f g.level).rpc ∧ g'.rmask = (bank f g.level).rmask &&& g.owned ∧ g'.owned = g.owned ∧ g'.wait = w ∧
      f'.s = f.s ∧ f'.v = f.v ∧ f'.lflags = f.lflags ∧ (bank f' g.level).ss = (bank f g.level).ss ∧
      (bank f' g.level).vt = (bank f g.level).vt := by
  obtain ⟨c, hc⟩ : ∃ c, c = { returnCtx s f g pc em w same with g := returnFrag s f g pc em w skip } := ⟨_, rfl⟩
  rw [← hc] at he
  have hst : c.st = s := by rw [hc]; rfl
  have hg : c.g = returnFrag s f g pc em w skip := by rw [hc]
  have hf : c.f = putFrag (returnFlight f g) (returnFrag s f g pc em g.wait (same && (bank f g.level).skip)) := by rw [hc]; rfl
  have hfrag : frag? (returnFlight f g) g.num = some g := by
    rw [returnFlight_rest]
    exact issues_frag s f g hi
  have hput : frag? c.f g.num = some (returnFrag s f g pc em g.wait (same && (bank f g.level).skip)) := by
    rw [hf]
    exact frag?_putFrag_same _ (returnFrag s f g pc em g.wait (same && (bank f g.level).skip)) g hfrag
  have hflight : flight? (commit c) s.cur.1 = some (putFrag c.f c.g) := by
    have := flight?_commit c
    rwa [hst] at this
  have hthis : frag? (putFrag c.f c.g) g.num = some (returnFrag s f g pc em w skip) := by
    rw [hg]
    exact frag?_putFrag_same c.f (returnFrag s f g pc em w skip) _ hput
  have hbank : bank (putFrag c.f c.g) g.level = { bank f g.level with kept := none } := by
    rw [hf]
    exact bank_setBank { f with issued := f.issued + 1 } g.level _
  have hrest : putFrag c.f c.g = { f with issued := f.issued + 1, t1 := (returnFlight f g).t1, t2 := (returnFlight f g).t2,
                                          frags := (putFrag c.f c.g).frags } := by
    rw [hf, returnFlight_rest]
    rfl
  refine ⟨commit c, putFrag c.f c.g, _, he, hflight, hthis, ⟨?_, fun k hk => ?_, fun a => ?_⟩, fun n hn => ?_, rfl, rfl, rfl, rfl, rfl,
    rfl, rfl, rfl, ?_, ?_, ?_, ?_, ?_⟩
  · rw [← hst]
    rfl
  · rw [flight?_commit_ne c (by rw [hst]; exact hk), hst]
  · rw [← hst]
    rfl
  · rw [hg, hf, frag?_putFrag_ne _ (returnFrag s f g pc em w skip) hn,
      frag?_putFrag_ne _ (returnFrag s f g pc em g.wait (same && (bank f g.level).skip)) hn, returnFlight_rest]
    rfl
  · rw [hrest]
  · rw [hrest]
  · rw [hrest]
  · rw [hbank]
  · rw [hbank]

end

/-- The origin of a cause (19 R393). -/
theorem origin_eq (t : TrapSet) : t.origin = t.cause.toNat / 2 ^ 20 % 16 := rfl

/-- Settles O32: each form commits a return (`returnTo_eq`, `comesBack_of`), and a retry of a partial fault goes on from one. -/
theorem trapReturn : Obligations.TrapReturn := by
  intro s f g hi hu hlev b origin comesBack returns
  have acts := fun body => issue_acts [] true body s f g hi (mayName_nil f g) fun _ => by rcases hlev with h | h <;> omega
  have back := returnTo_eq s f g hi hu
  have hret (i : Instr) (pc shown : DWord) (em : Lanes) (same : Bool) (he : exec i s = .next (commit (returnTo (ctxOf s f g) pc shown em same))) :
      returns i pc em := by
    rw [back] at he
    exact comesBack_of s f g hi i pc em .run same _ he
  have horigin : b.origin = origin := origin_eq b
  have run : exec .tretRetry s = execTretRetry s := exec_tretRetry s
  rw [execTretRetry, acts] at run
  refine ⟨fun hne => ?_, ?_, hret _ _ _ _ _ (acts _), fun h1 va hk => ?_, fun h1 i ls hk hls => ?_⟩
  · have hno : ((bank (ctxOf s f g).f (ctxOf s f g).g.level).origin == 1) = false := beq_eq_false_iff_ne.2 hne
    cases hk : (bank (ctxOf s f g).f (ctxOf s f g).g.level).kept with
    | none => exact hret .tretRetry b.pc b.pc b.em true (by rw [run]; simp only [hk]; rfl)
    | some k =>
      cases k with
      | packet va => exact hret .tretRetry b.pc b.pc b.em true (by rw [run]; simp only [hk, hno]; rfl)
      | access i ls =>
        cases ls with
        | nil =>
          refine comesBack_of s f g hi .tretRetry b.pc b.em .run true
            ((returnCtx s f g b.pc b.em .run true).g.skip || (b.code == 0x22 && writes i)) ?_
          rw [run]
          simp only [hk]
          rw [back]
          rfl
        | cons l ls => exact hret .tretRetry b.pc b.pc b.em true (by rw [run]; simp only [hk, hno]; rfl)
  · have hbefore : (b.origin == 2 || b.origin == 3) = decide (origin = 2 ∨ origin = 3) := by
      rw [horigin]
      simp only [Bool.decide_or, beq_eq_decide]
    refine hret .tretSkip _ (if origin = 2 ∨ origin = 3 then b.pc else b.pc + 8) b.em (b.origin == 2 || b.origin == 3) ((acts _).trans ?_)
    show Host.Outcome.next (commit (returnTo (ctxOf s f g) (if (b.origin == 2 || b.origin == 3) then b.pc else b.pc + 8)
      (if (b.origin == 2 || b.origin == 3) then b.pc else b.pc + 8) b.em (b.origin == 2 || b.origin == 3))) = _
    rw [hbefore]
    simp only [decide_eq_true_eq]
  · have hyes : ((bank (ctxOf s f g).f (ctxOf s f g).g.level).origin == 1) = true := beq_iff_eq.2 h1
    have hk' : (bank (ctxOf s f g).f (ctxOf s f g).g.level).kept = some (.packet va) := hk
    refine comesBack_of s f g hi .tretRetry b.pc b.em (.redo va) true (returnCtx s f g b.pc b.em .run true).g.skip ?_
    rw [run]
    simp only [hk', hyes]
    rw [back]
    rfl
  · have hyes : ((bank (ctxOf s f g).f (ctxOf s f g).g.level).origin == 1) = true := beq_iff_eq.2 h1
    have hk' : (bank (ctxOf s f g).f (ctxOf s f g).g.level).kept = some (.access i ls) := hk
    refine ⟨returnCtx s f g b.pc b.em .run false, ?_, rfl, rfl, rfl, rfl, rfl, rfl, ?_, ?_⟩
    · cases ls with
      | nil => exact absurd rfl hls
      | cons l ls =>
        rw [run]
        simp only [hk', hyes]
        rw [back]
        rfl
    · show (returnFlight f g).s = f.s
      rw [returnFlight_rest]
    · show (returnFlight f g).v = f.v
      rw [returnFlight_rest]

end Sys2Proof.Machine
end

section
/-!
SUPPORT. Privilege (02 R21, R23) and the privileged registers (19 R393, R401).
-/
namespace Sys2Proof.Machine

/-! ### The checks before an instruction's meaning -/

/-- At level 0 a privileged instruction is illegal with detail 6. -/
theorem faults_privileged (i : Instr) (s : State) (f : Flight) (g : Fragment) (hi : Issues s f g) (hl : g.level = 0)
    (ops : List (Opnd × Nat)) (body : Ctx → State) (he : exec i s = issue ops true body s) : Faults i s f g 0x01 6 := by
  refine he.trans ?_
  simp only [issue, issuer?_eq s f g hi, ctxOf, hl, beq_self_eq_true, Bool.true_or, Bool.and_self, if_true]
  rfl

/-- At level 0 so is one that names a register of a trap bank. -/
theorem faults_bank (i : Instr) (s : State) (f : Flight) (g : Fragment) (hi : Issues s f g) (hl : g.level = 0)
    (ops : List (Opnd × Nat)) (body : Ctx → State) (he : exec i s = issue ops false body s) (hb : usesBank ops = true) :
    Faults i s f g 0x01 6 := by
  refine he.trans ?_
  simp only [issue, issuer?_eq s f g hi, ctxOf, hl, hb, beq_self_eq_true, Bool.false_or, Bool.and_self, if_true]
  rfl

/-- A vector register at or above the allocation is the register-bound fault. -/
theorem faults_bound (i : Instr) (s : State) (f : Flight) (g : Fragment) (hi : Issues s f g)
    (ops : List (Opnd × Nat)) (body : Ctx → State) (he : exec i s = issue ops false body s)
    (hb : g.level = 0 → usesBank ops = false) (ho : ops.any (outOfBound f.vregs) = true) : Faults i s f g 0x05 0 := by
  refine he.trans ?_
  have hlev : (g.level == 0 && (false || usesBank ops)) = false := by
    by_cases hl : g.level = 0
    · simp [hb hl]
    · simp [hl]
  simp only [issue, issuer?_eq s f g hi, ctxOf, hlev, ho, Bool.false_eq_true, if_false, if_true]
  rfl

theorem usesBank_iff (ops : List (Opnd × Nat)) : usesBank ops = true ↔ ∃ o ∈ ops, o.1.cls = .SS ∨ o.1.cls = .VT := by
  simp [usesBank]

/-- The instructions listed are checked by the groups of registers listed with them. -/
def ChecksGroups (s : State) (p : Instr × List (Opnd × Nat)) : Prop := ∃ body, exec p.1 s = issue p.2 false body s

/-- What the checks say of an instruction and its groups. -/
theorem faults_of_checksGroups (s : State) (f : Flight) (g : Fragment) (hi : Issues s f g) (p : Instr × List (Opnd × Nat))
    (h : ChecksGroups s p) :
    (g.level = 0 → (∃ o ∈ p.2, o.1.cls = .SS ∨ o.1.cls = .VT) → Faults p.1 s f g 0x01 6) ∧
      (g.level ≠ 0 ∨ (∀ o ∈ p.2, o.1.cls ≠ .SS ∧ o.1.cls ≠ .VT) →
        (∃ o ∈ p.2, ∃ n : Fin 192, o.1 = .v n ∧ f.vregs < n.val + o.2) → Faults p.1 s f g 0x05 0) := by
  obtain ⟨body, he⟩ := h
  refine ⟨fun hl hb => faults_bank p.1 s f g hi hl p.2 body he ((usesBank_iff p.2).2 hb), fun hor ho => ?_⟩
  refine faults_bound p.1 s f g hi p.2 body he (fun hl => ?_) ?_
  · rcases hor with h | h
    · exact absurd hl h
    · refine Bool.eq_false_iff.2 fun hb => ?_
      obtain ⟨o, ho, hc⟩ := (usesBank_iff p.2).1 hb
      rcases hc with hc | hc
      · exact (h o ho).1 hc
      · exact (h o ho).2 hc
  · obtain ⟨o, hmem, n, hn, hlt⟩ := ho
    refine List.any_eq_true.2 ⟨o, hmem, ?_⟩
    rw [outOfBound, hn]
    exact decide_eq_true hlt

theorem checksGroups_scalar (s : State) (t : Ty) (d a b x : Opnd) (m : Fin 24) (n : BitVec 8) (v : Word) (imm : BitVec 25) :
    ∀ p ∈ [(Instr.sadd t d a b, [(d, 1), (a, 1), (b, 1)]), (.ssub t d a b, [(d, 1), (a, 1), (b, 1)]),
        (.saddI d a imm, [(d, 1), (a, 1)]), (.saddi d a v, [(d, 1), (a, 1)]), (.ssel t d a b x, [(d, 1), (a, 1), (b, 1), (x, 1)]),
        (.sadd64 t d a b, [(d, 2), (a, 2), (b, 2)]), (.smovi d v, [(d, 1)]), (.smovs d n, [(d, 1)]), (.smovw n a, [(a, 1)]),
        (.mlane m a, [(a, 1)]), (.mpopc d m, [(d, 1)])], ChecksGroups s p := by
  simp only [List.forall_mem_cons]
  exact ⟨⟨_, rfl⟩, ⟨_, rfl⟩, ⟨_, rfl⟩, ⟨_, rfl⟩, ⟨_, rfl⟩, ⟨_, rfl⟩, ⟨_, rfl⟩, ⟨_, rfl⟩, ⟨_, rfl⟩, ⟨_, rfl⟩, ⟨_, rfl⟩, by simp⟩

theorem checksGroups_vector (s : State) (t : Ty) (d a b x : Opnd) (q : Cond) (mode : ShMode) (op : RedOp) (excl : Bool) (imm : BitVec 25) :
    ∀ p ∈ [(Instr.vadd t d a b, [(d, 1), (a, 1), (b, 1)]), (.vmul t d a b, [(d, 1), (a, 1), (b, 1)]), (.vaddI d a imm, [(d, 1), (a, 1)]),
        (.vmad t d a b x, [(d, 1), (a, 1), (b, 1), (x, 1)]), (.vmov t d a, [(d, t.regs), (a, t.regs)]),
        (.vadd64 t d a b, [(d, 2), (a, 2), (b, 2)]), (.vshfl t mode d a b, [(d, t.regs), (a, t.regs), (b, 1)]),
        (.vbcast t d a b, [(d, t.regs), (a, t.regs), (b, 1)]), (.vredu t op d a, [(d, t.regs), (a, t.regs)]),
        (.vscan t op excl d a, [(d, t.regs), (a, t.regs)]), (.vcmp t q d a b, [(d, 1), (a, 1), (b, 1)])], ChecksGroups s p := by
  simp only [List.forall_mem_cons]
  exact ⟨⟨_, rfl⟩, ⟨_, rfl⟩, ⟨_, rfl⟩, ⟨_, rfl⟩, ⟨_, rfl⟩, ⟨_, rfl⟩, ⟨_, rfl⟩, ⟨_, rfl⟩, ⟨_, rfl⟩, ⟨_, rfl⟩, ⟨_, rfl⟩, by simp⟩

theorem checksGroups_float (s : State) (t : Ty) (d a b x : Opnd) (fq : FCond) (rm : Rm) :
    ∀ p ∈ [(Instr.vfadd t rm d a b, [(d, t.regs), (a, t.regs), (b, t.regs)]), (.vfmul t rm d a b, [(d, t.regs), (a, t.regs), (b, t.regs)]),
        (.vfma t rm d a b x, [(d, t.regs), (a, t.regs), (b, t.regs), (x, t.regs)]),
        (.vfcmp t fq d a b, [(d, 1), (a, t.regs), (b, t.regs)]), (.vsqrt t rm d a, [(d, 1), (a, 1)]),
        (.vunpkx t d a b, [(d, 4), (a, 1), (b, 4)]), (.vpkx t d a b, [(d, 1), (a, 4), (b, 4)])], ChecksGroups s p := by
  simp only [List.forall_mem_cons]
  exact ⟨⟨_, rfl⟩, ⟨_, rfl⟩, ⟨_, rfl⟩, ⟨_, rfl⟩, ⟨_, rfl⟩, ⟨_, rfl⟩, ⟨_, rfl⟩, by simp⟩

theorem checksGroups_control (s : State) (d a b : Opnd) (cc : Cc) (tok : Fin 16) (v : Word) :
    ∀ p ∈ [(Instr.brc cc a v, [(a, 1)]), (.brv cc a tok v, [(a, 1)]), (.ret a, [(a, 2)]), (.brkpt a, [(a, 1)]), (.barw a b, [(a, 1), (b, 1)]),
        (.reggive a, [(a, 1)]), (.regclaimTry d a, [(d, 1), (a, 1)]), (.trap a, [(a, 1)])], ChecksGroups s p := by
  simp only [List.forall_mem_cons]
  exact ⟨⟨_, rfl⟩, ⟨_, rfl⟩, ⟨_, rfl⟩, ⟨_, rfl⟩, ⟨_, rfl⟩, ⟨_, rfl⟩, ⟨_, rfl⟩, ⟨_, rfl⟩, by simp⟩

theorem checksGroups_memory (s : State) (d : Opnd) (wd : Width) (sc : Scope) (fe : Fe) (at' : AType) (sf img nt : Bool) (ma : MAddr) :
    ∀ p ∈ [(Instr.ld wd sc fe nt d ma, [(d, wd.regs), addrGroup ma]), (.st wd sc sf img nt d ma, [(d, wd.regs), addrGroup ma]),
        (.aadd at' sc img nt d ma, [(d, at'.regs), addrGroup ma]), (.pf nt ma, [addrGroup ma])], ChecksGroups s p := by
  simp only [List.forall_mem_cons]
  exact ⟨⟨_, rfl⟩, ⟨_, rfl⟩, ⟨_, rfl⟩, ⟨_, rfl⟩, by simp⟩

/-- At level 0 each privileged instruction is illegal. -/
theorem faults_privileged_all (s : State) (f : Flight) (g : Fragment) (d a b x : Opnd) (m : Fin 24) (n : BitVec 8)
    (hi : Issues s f g) (hl : g.level = 0) :
    ∀ i ∈ [Instr.tretRetry, .tretSkip, .tretRegion, .kill m, .killFault m, .smovp d n, .smovq n a, .invlp a, .invlpAll, .invlpIcache, .frz,
        .frzSnap, .dbgrd d a b, .dbgwr d a b x, .dstep d a, .dstepIsolate d a b, .accsv d a, .accld d a], Faults i s f g 0x01 6 := by
  have all := fun i ops body he => faults_privileged i s f g hi hl ops body he
  simp only [List.forall_mem_cons]
  exact ⟨all _ _ _ rfl, all _ _ _ rfl, all _ _ _ rfl, all _ _ _ rfl, all _ _ _ rfl, all _ _ _ rfl, all _ _ _ rfl, all _ _ _ rfl,
    all _ _ _ rfl, all _ _ _ rfl, all _ _ _ rfl, all _ _ _ rfl, all _ _ _ rfl, all _ _ _ rfl, all _ _ _ rfl, all _ _ _ rfl, all _ _ _ rfl,
    all _ _ _ rfl, by simp⟩

/-! ### Halves of a 64-bit register -/

@[simp] theorem loWord_pairOf (lo hi : Word) : loWord (pairOf lo hi) = lo := by
  apply BitVec.eq_of_getLsbD_eq
  intro i h
  rw [loWord, pairOf, BitVec.getLsbD_setWidth, BitVec.getLsbD_append, decide_eq_true h, Bool.true_and, if_pos h]

@[simp] theorem hiWord_pairOf (lo hi : Word) : hiWord (pairOf lo hi) = hi := by
  apply BitVec.eq_of_getLsbD_eq
  intro i h
  rw [hiWord, pairOf, BitVec.getLsbD_setWidth, decide_eq_true h, Bool.true_and, BitVec.getLsbD_ushiftRight, BitVec.getLsbD_append,
    if_neg (by omega), Nat.add_sub_cancel_left]

theorem half_setHalf (x : DWord) (a b : Bool) (w : Word) : half (setHalf x b w) a = if a = b then w else half x a := by
  cases a <;> cases b <;> simp [half, setHalf]

/-! ### Reading a privileged register (19 R393) -/

/-- What the privileged registers of a level read of a flight. -/
structure SamePriv (j level : Nat) (f f' : Flight) : Prop where
  cause  : (bank f' level).cause = (bank f level).cause
  region : (bank f' level).region = (bank f level).region
  addr   : (bank f' level).addr = (bank f level).addr
  seq    : (bank f' level).seq = (bank f level).seq
  cpc    : (bank f' level).cpc = (bank f level).cpc
  sch    : (bank f' level).sch = (bank f level).sch
  counts : countsWord f' (level - 1) = countsWord f (level - 1)
  place  : f'.pid = f.pid ∧ f'.core = f.core
  pcLo   : j = 0x01 → loWord (bank f' level).pc = loWord (bank f level).pc
  pcHi   : j = 0x02 → hiWord (bank f' level).pc = hiWord (bank f level).pc
  mask   : ∀ k, k < 3 → j = 4 + k → maskWord (bank f' level).mask k = maskWord (bank f level).mask k
  em     : ∀ k, k < 3 → j = 7 + k → maskWord (bank f' level).em k = maskWord (bank f level).em k
  rpcLo  : j = 0x0F → loWord (bank f' level).rpc = loWord (bank f level).rpc
  rpcHi  : j = 0x10 → hiWord (bank f' level).rpc = hiWord (bank f level).rpc
  enable : j = 0x12 → tenable f' level = tenable f level
  vecLo  : j = 0x13 → loWord f'.tvec = loWord f.tvec
  vecHi  : j = 0x14 → hiWord f'.tvec = hiWord f.tvec

/-- A privileged register reads the same of two such flights. -/
theorem privReg_same (s : State) (f f' : Flight) (level j : Nat) (h : SamePriv j level f f') : privReg s f' level j = privReg s f level j := by
  unfold privReg
  rw [h.place.1, h.place.2]
  dsimp only
  split
  · rfl
  · split
    · rw [h.sch]
    · split
      · exact h.cause
      · exact h.pcLo rfl
      · exact h.pcHi rfl
      · exact h.region
      · exact h.mask 0 (by omega) rfl
      · exact h.mask 1 (by omega) rfl
      · exact h.mask 2 (by omega) rfl
      · exact h.em 0 (by omega) rfl
      · exact h.em 1 (by omega) rfl
      · exact h.em 2 (by omega) rfl
      · rw [h.addr]
      · rw [h.addr]
      · exact h.seq
      · rw [h.cpc]
      · rw [h.cpc]
      · exact h.rpcLo rfl
      · exact h.rpcHi rfl
      · rfl
      · exact h.enable rfl
      · exact h.vecLo rfl
      · exact h.vecHi rfl
      · exact h.counts
      · rfl

/-- A trap set but for the registers that SMOVQ writes. -/
structure SameSet (t t' : TrapSet) : Prop where
  cause  : t'.cause = t.cause
  region : t'.region = t.region
  addr   : t'.addr = t.addr
  seq    : t'.seq = t.seq
  cpc    : t'.cpc = t.cpc
  sch    : t'.sch = t.sch

theorem sameSet_put (t : TrapSet) (n : Nat) (w : Word) : SameSet t (t.put n w) := by
  unfold TrapSet.put
  split <;> exact ⟨rfl, rfl, rfl, rfl, rfl, rfl⟩

theorem putPriv_frags (f : Flight) (level n : Nat) (w : Word) : (putPriv f level n w).frags = f.frags := by
  have hf1 : (if level == 0 then f else setBank f level ((bank f level).put n w)).frags = f.frags := by
    split
    · rfl
    · rw [setBank_rest]
  unfold putPriv
  dsimp only
  split <;> exact hf1

theorem put_pc (t : TrapSet) (n : Nat) (w : Word) :
    (t.put n w).pc = if n = 0x01 then setHalf t.pc false w else if n = 0x02 then setHalf t.pc true w else t.pc := by
  unfold TrapSet.put trapMoved
  split <;> simp_all

theorem put_rpc (t : TrapSet) (n : Nat) (w : Word) :
    (t.put n w).rpc = if n = 0x0F then setHalf t.rpc false w else if n = 0x10 then setHalf t.rpc true w else t.rpc := by
  unfold TrapSet.put trapMoved
  split <;> simp_all

theorem put_te (t : TrapSet) (n : Nat) (w : Word) : (t.put n w).te = if n = 0x12 then w.getLsbD 0 else t.te := by
  unfold TrapSet.put trapMoved
  split <;> simp_all

theorem maskWord_put_mask (t : TrapSet) (n : Nat) (w : Word) (k : Nat) (hk : k < 3) :
    maskWord (t.put n w).mask k = if n = 4 + k then w else maskWord t.mask k := by
  have hne (h : ∀ m, m < 3 → n ≠ 4 + m) : (t.put n w).mask = t.mask := by
    have h0 := h 0 (by omega)
    have h1 := h 1 (by omega)
    have h2 := h 2 (by omega)
    unfold TrapSet.put trapMoved
    split <;> first | rfl | omega
  by_cases h : ∃ m, m < 3 ∧ n = 4 + m
  · obtain ⟨m, hm, rfl⟩ := h
    have hput : (t.put (4 + m) w).mask = setMaskWord t.mask m w := by
      obtain rfl | rfl | rfl : m = 0 ∨ m = 1 ∨ m = 2 := by omega
      all_goals rfl
    rw [hput, maskWord_set _ _ _ _ hm hk]
    simp only [Nat.add_left_cancel_iff, eq_comm]
  · rw [hne fun m hm he => h ⟨m, hm, he⟩, if_neg fun he => h ⟨k, hk, he⟩]

theorem maskWord_put_em (t : TrapSet) (n : Nat) (w : Word) (k : Nat) (hk : k < 3) :
    maskWord (t.put n w).em k = if n = 7 + k then w else maskWord t.em k := by
  have hne (h : ∀ m, m < 3 → n ≠ 7 + m) : (t.put n w).em = t.em := by
    have h0 := h 0 (by omega)
    have h1 := h 1 (by omega)
    have h2 := h 2 (by omega)
    unfold TrapSet.put trapMoved
    split <;> first | rfl | omega
  by_cases h : ∃ m, m < 3 ∧ n = 7 + m
  · obtain ⟨m, hm, rfl⟩ := h
    have hput : (t.put (7 + m) w).em = setMaskWord t.em m w := by
      obtain rfl | rfl | rfl : m = 0 ∨ m = 1 ∨ m = 2 := by omega
      all_goals rfl
    rw [hput, maskWord_set _ _ _ _ hm hk]
    simp only [Nat.add_left_cancel_iff, eq_comm]
  · rw [hne fun m hm he => h ⟨m, hm, he⟩, if_neg fun he => h ⟨k, hk, he⟩]

/-- A flight with a privileged register written: its trap set is that with the register written, and the rest of it is as before but for
TENABLE, TVEC, its fragments and its count of issues. -/
structure PutPriv (f f' : Flight) (level n : Nat) (w : Word) : Prop where
  bank : bank f' level = (bank f level).put n w
  rest : f' = { f with t1 := f'.t1, t2 := f'.t2, tvec := f'.tvec, bp := f'.bp, frags := f'.frags, issued := f'.issued }
  tvec : f'.tvec = if n = 0x13 then setHalf f.tvec false w else if n = 0x14 then setHalf f.tvec true w else f.tvec
  bp   : f'.bp = if n = 0x12 then w.getLsbD 1 else f.bp

theorem putPriv_spec (f : Flight) (level n : Nat) (w : Word) (hl : level ≠ 0) : PutPriv f (putPriv f level n w) level n w := by
  have hf1 : (if level == 0 then f else setBank f level ((bank f level).put n w)) = setBank f level ((bank f level).put n w) := by
    simp [hl]
  have hbank := bank_setBank f level ((bank f level).put n w)
  have hrest := setBank_rest f level ((bank f level).put n w)
  obtain ⟨f1, h1⟩ : ∃ f1, f1 = setBank f level ((bank f level).put n w) := ⟨_, rfl⟩
  rw [← h1] at hf1 hbank hrest
  have hvec : f1.tvec = f.tvec := by rw [hrest]
  have hbp : f1.bp = f.bp := by rw [hrest]
  unfold putPriv
  rw [← h1, hf1]
  dsimp only
  split
  · exact ⟨hbank, by rw [hrest], by simp [hvec], by simp⟩
  · exact ⟨hbank, by rw [hrest], by simp [hvec], by simp [hbp]⟩
  · exact ⟨hbank, by rw [hrest], by simp [hvec], by simp [hbp]⟩
  next h12 h13 h14 => exact ⟨hbank, by rw [hrest], by rw [if_neg h13, if_neg h14, hvec], by rw [if_neg h12, hbp]⟩

/-- No other privileged register changes. -/
theorem samePriv_put (f f' : Flight) (level n j : Nat) (w : Word) (h : PutPriv f f' level n w) (hne : j ≠ n) :
    SamePriv j level f f' := by
  obtain ⟨hbank, hrest, hvec, hbp⟩ := h
  have hset : SameSet (bank f level) (bank f' level) := hbank ▸ sameSet_put (bank f level) n w
  refine ⟨hset.cause, hset.region, hset.addr, hset.seq, hset.cpc, hset.sch, by rw [hrest]; rfl, by rw [hrest]; exact ⟨rfl, rfl⟩, ?_, ?_, ?_,
    ?_, ?_, ?_, ?_, ?_, ?_⟩
  · rintro rfl
    rw [hbank, put_pc, if_neg hne.symm]
    split
    · exact half_setHalf _ false true w
    · rfl
  · rintro rfl
    rw [hbank, put_pc]
    split
    · exact half_setHalf _ true false w
    · rw [if_neg hne.symm]
  · rintro k hk rfl
    rw [hbank, maskWord_put_mask _ _ _ _ hk, if_neg hne.symm]
  · rintro k hk rfl
    rw [hbank, maskWord_put_em _ _ _ _ hk, if_neg hne.symm]
  · rintro rfl
    rw [hbank, put_rpc, if_neg hne.symm]
    split
    · exact half_setHalf _ false true w
    · rfl
  · rintro rfl
    rw [hbank, put_rpc]
    split
    · exact half_setHalf _ true false w
    · rw [if_neg hne.symm]
  · rintro rfl
    rw [tenable, tenable, hbank, put_te, if_neg hne.symm, hbp, if_neg hne.symm]
  · rintro rfl
    rw [hvec, if_neg hne.symm]
    split
    · exact half_setHalf _ false true w
    · rfl
  · rintro rfl
    rw [hvec]
    split
    · exact half_setHalf _ true false w
    · rw [if_neg hne.symm]

/-- A word below 4 is its two lowest bits. -/
theorem word_of_bits (w : Word) (h : w.toNat < 4) : (if w.getLsbD 0 then 1 else 0) + (if w.getLsbD 1 then 2 else 0) = w := by
  obtain ⟨n, hn⟩ : ∃ n, n = w.toNat := ⟨_, rfl⟩
  have hw : w = BitVec.ofNat 32 n := by rw [hn, BitVec.ofNat_toNat, BitVec.setWidth_eq]
  rw [← hn] at h
  rw [hw]
  obtain rfl | rfl | rfl | rfl : n = 0 ∨ n = 1 ∨ n = 2 ∨ n = 3 := by omega
  all_goals decide

/-- The registers below the beacons that SMOVQ admits (19 R393). -/
def admitted : List Nat := [0x01, 0x02, 0x04, 0x05, 0x06, 0x07, 0x08, 0x09, 0x0F, 0x10, 0x12, 0x13, 0x14]

/-- A register that SMOVQ wrote reads as written. -/
theorem privReg_put (s : State) (f f' : Flight) (level n : Nat) (w : Word) (h : PutPriv f f' level n w) (hl : level ≠ 0)
    (hn : n ∈ admitted) (hres : privReserved n w = false) : privReg s f' level n = w := by
  obtain ⟨hbank, -, hvec, hbp⟩ := h
  simp only [admitted, List.mem_cons, List.not_mem_nil, or_false] at hn
  rcases hn with rfl | rfl | rfl | rfl | rfl | rfl | rfl | rfl | rfl | rfl | rfl | rfl | rfl
  · show loWord (bank f' level).pc = w
    rw [hbank, put_pc, if_pos rfl]
    exact half_setHalf _ false false w
  · show hiWord (bank f' level).pc = w
    rw [hbank, put_pc, if_neg (by omega), if_pos rfl]
    exact half_setHalf _ true true w
  · show maskWord (bank f' level).mask 0 = w
    rw [hbank, maskWord_put_mask _ _ _ 0 (by omega), if_pos rfl]
  · show maskWord (bank f' level).mask 1 = w
    rw [hbank, maskWord_put_mask _ _ _ 1 (by omega), if_pos rfl]
  · show maskWord (bank f' level).mask 2 = w
    rw [hbank, maskWord_put_mask _ _ _ 2 (by omega), if_pos rfl]
  · show maskWord (bank f' level).em 0 = w
    rw [hbank, maskWord_put_em _ _ _ 0 (by omega), if_pos rfl]
  · show maskWord (bank f' level).em 1 = w
    rw [hbank, maskWord_put_em _ _ _ 1 (by omega), if_pos rfl]
  · show maskWord (bank f' level).em 2 = w
    rw [hbank, maskWord_put_em _ _ _ 2 (by omega), if_pos rfl]
  · show loWord (bank f' level).rpc = w
    rw [hbank, put_rpc, if_pos rfl]
    exact half_setHalf _ false false w
  · show hiWord (bank f' level).rpc = w
    rw [hbank, put_rpc, if_neg (by omega), if_pos rfl]
    exact half_setHalf _ true true w
  · show tenable f' level = w
    have hw : w.toNat < 4 := by
      have := ushiftRight_bne_zero w 2
      rw [show privReserved 0x12 w = (w >>> 2 != 0) from rfl, this] at hres
      simpa using hres
    have hlev : (level == 0) = false := beq_eq_false_iff_ne.2 hl
    rw [tenable, hbank, put_te, if_pos rfl, hbp, if_pos rfl, hlev, Bool.false_or]
    exact word_of_bits w hw
  · show loWord f'.tvec = w
    rw [hvec, if_pos rfl]
    exact half_setHalf _ false false w
  · show hiWord f'.tvec = w
    rw [hvec, if_neg (by omega), if_pos rfl]
    exact half_setHalf _ true true w

/-! ### Beacons (20 R420) -/

/-- A beacon register's half that SMOVQ wrote reads as written, and no other privileged register changes. -/
theorem privReg_putBcn (s t : State) (f : Flight) (level n j : Nat) (w : Word) (hn : 0x40 ≤ n ∧ n < 0xC0) (hcores : t.cores = (putBcn s f.core n w).cores)
    (hparts : t.parts = s.parts) : privReg t f level j = if j = n then w else privReg s f level j := by
  have hcore : (Machine.core t f.core).bcn = mput 0 (Machine.core s f.core).bcn ((n - 0x40) / 2)
      (setHalf (mgetD (Machine.core s f.core).bcn ((n - 0x40) / 2) 0) (n % 2 == 1) w) := by
    have : Machine.core t f.core = Machine.core (putBcn s f.core n w) f.core := by rw [Machine.core, hcores, Machine.core]
    rw [this, putBcn, core_modCore, if_pos rfl]
  have hpart : part? t f.pid = part? s f.pid := by rw [part?, hparts, part?]
  by_cases hj : 0x40 ≤ j ∧ j ≤ 0xBF
  · have hread (u : State) : privReg u f level j = half (mgetD (Machine.core u f.core).bcn ((j - 0x40) / 2) 0) (j % 2 == 1) := by
      unfold privReg
      rw [if_pos (by simpa using hj)]
    rw [hread, hread, hcore, mgetD_mput]
    by_cases hpair : (j - 0x40) / 2 = (n - 0x40) / 2
    · rw [if_pos hpair, half_setHalf, hpair]
      by_cases he : j = n
      · rw [if_pos he, he, if_pos rfl]
      · have hpar : ¬ (j % 2 == 1) = (n % 2 == 1) := by
          intro hp
          have hmod : j % 2 = n % 2 := by
            rcases Nat.mod_two_eq_zero_or_one j with h0 | h0 <;> rcases Nat.mod_two_eq_zero_or_one n with h1 | h1 <;> simp [h0, h1] at hp ⊢
          omega
        rw [if_neg he, if_neg hpar]
    · rw [if_neg hpair, if_neg fun he => hpair (by rw [he])]
  · have hne : j ≠ n := by omega
    have hnot : ¬ (decide (0x40 ≤ j) && decide (j ≤ 0xBF)) = true := by simpa using hj
    rw [if_neg hne]
    unfold privReg
    rw [if_neg hnot, if_neg hnot, hpart]

/-! ### SMOVP and SMOVQ -/

section
variable (s : State) (f : Flight) (g : Fragment) (d a : Opnd) (n : BitVec 8) (hi : Issues s f g) (hu : Unwatched s f)
  (hm : MayName f g [(d, 1), (a, 1)]) (hl : g.level ≠ 0)
include hi hu hm hl

/-- SMOVP reads a register of the table. -/
theorem setsScalar_smovp (hd : IsScalar d) (hok : pregOk n.toNat = true) (v : Word) (hv : privReg s f g.level n.toNat = v) :
    SetsScalar (.smovp d n) s f g d v := by
  refine setsScalars_of _ s f g d [v] hi hu hd (idx_lt_size d (isScalar_register d hd)) ?_
  rw [exec_smovp, execSmovp, issue_acts _ _ _ s f g hi (mayName_subset f g _ _ hm (by simp)) (fun _ => hl),
    show pregOk n.toNat = true from hok, ← hv]
  rw [puts_one, opAdd_zero]
  rfl

omit hu in
theorem faults_smovp (hok : pregOk n.toNat = false) : Faults (.smovp d n) s f g 0x01 5 := by
  refine ((exec_smovp d n s).trans (issue_acts _ _ _ s f g hi (mayName_subset f g _ [(d, 1)] hm (by simp)) fun _ => hl)).trans ?_
  simp only [hok, Bool.not_false, if_true]
  rfl

omit hu in
theorem faults_smovq (h : (!pregRw n.toNat || privReserved n.toNat (srcS (ctxOf s f g) a)) = true) : Faults (.smovq n a) s f g 0x01 5 := by
  refine ((exec_smovq n a s).trans (issue_acts _ _ _ s f g hi (mayName_subset f g _ [(a, 1)] hm (by simp)) fun _ => hl)).trans ?_
  simp only [h, if_true]
  rfl

/-- SMOVQ writes a register of the flight. -/
theorem goesOn_smovq_flight (hn : n.toNat ∈ admitted) (hres : privReserved n.toNat (srcS (ctxOf s f g) a) = false) :
    GoesOn (.smovq n a) s g f (g.pc + 8) fun t f' g' =>
      privReg t f' g.level n.toNat = srcS (ctxOf s f g) a ∧
        (∀ j, j < 0xC8 → j ≠ n.toNat → privReg t f' g.level j = privReg s f g.level j) ∧ g'.em = g.em ∧
        ScalarsSame f f' g g' ∧ VectorsSame s t f f' ∧ MemorySame s t ∧ f'.lflags = f.lflags := by
  obtain ⟨w, hw⟩ : ∃ w, w = srcS (ctxOf s f g) a := ⟨_, rfl⟩
  rw [← hw] at hres ⊢
  have hput := putPriv_spec f g.level n.toNat w hl
  obtain ⟨f1, hf1⟩ : ∃ f1, f1 = putPriv f g.level n.toNat w := ⟨_, rfl⟩
  rw [← hf1] at hput
  have hlow : n.toNat < 0x40 := by
    simp only [admitted, List.mem_cons, List.not_mem_nil, or_false] at hn
    omega
  have hrw : pregRw n.toNat = true := by
    have hc : admitted.contains n.toNat = true := List.elem_eq_true_of_mem hn
    exact Bool.or_eq_true_iff.2 (.inl hc)
  have hrest := hput.rest
  have hrun : exec (.smovq n a) s = .next (retireNext (ctxOf s f g) { ctxOf s f g with f := f1 }) := by
    rw [exec_smovq, execSmovq, issue_acts _ _ _ s f g hi (mayName_subset f g _ [(a, 1)] hm (by simp)) fun _ => hl, ← hw]
    simp only [hrw, hres, Bool.not_true, Bool.or_false, Bool.false_eq_true, if_false, if_neg (Nat.not_le.2 hlow)]
    rw [hf1]
    rfl
  refine goesOn_retireNext _ s f g { ctxOf s f g with f := f1 } _ hi ?_ hrun rfl rfl ?_ ⟨rfl, rfl, rfl, rfl⟩ ?_
  · rw [show ({ ctxOf s f g with f := f1 } : Ctx).f = f1 from rfl, hrest]
    exact hu.1
  · rw [hf1]
    exact putPriv_frags f g.level n.toNat w
  · obtain ⟨f', hf'⟩ : ∃ f', f' = putFrag (settled (next { ctxOf s f g with f := f1 })).f (settled (next { ctxOf s f g with f := f1 })).g :=
      ⟨_, rfl⟩
    have hputs : PutPriv f f' g.level n.toNat w := by
      rw [hf']
      exact ⟨hput.bank, by rw [hrest]; rfl, hput.tvec, hput.bp⟩
    have hparts (j : Nat) : privReg (commit (settled (next { ctxOf s f g with f := f1 }))) f' g.level j = privReg s f' g.level j := rfl
    have hs : f'.s = f.s := by rw [hputs.rest]
    have hv : f'.v = f.v := by rw [hputs.rest]
    have ha : f'.asyncR = f.asyncR := by rw [hputs.rest]
    have hflags : f'.lflags = f.lflags := by rw [hputs.rest]
    rw [← hf']
    refine ⟨(hparts _).trans (privReg_put s f f' g.level n.toNat w hputs hl hn hres), fun j _ hj => (hparts j).trans
      (privReg_same s f f' g.level j (samePriv_put f f' g.level n.toNat j w hputs hj)), rfl, fun k => getS_em _ _ _ _ k hs rfl,
      fun k l => getV_same _ _ _ _ k l hv ha rfl, fun _ => rfl, hflags⟩

/-- SMOVQ writes a half of a beacon register. -/
theorem goesOn_smovq_beacon (hn : 0x40 ≤ n.toNat ∧ n.toNat < 0xC0) (hres : privReserved n.toNat (srcS (ctxOf s f g) a) = false) :
    GoesOn (.smovq n a) s g f (g.pc + 8) fun t f' g' =>
      privReg t f' g.level n.toNat = srcS (ctxOf s f g) a ∧
        (∀ j, j < 0xC8 → j ≠ n.toNat → privReg t f' g.level j = privReg s f g.level j) ∧ g'.em = g.em ∧
        ScalarsSame f f' g g' ∧ VectorsSame s t f f' ∧ MemorySame s t ∧ f'.lflags = f.lflags := by
  obtain ⟨w, hw⟩ : ∃ w, w = srcS (ctxOf s f g) a := ⟨_, rfl⟩
  rw [← hw] at hres ⊢
  have hrw : pregRw n.toNat = true := by
    unfold pregRw
    rw [decide_eq_true hn.1, decide_eq_true (by omega : n.toNat ≤ 0xBF)]
    exact Bool.or_true _
  have hrun : exec (.smovq n a) s = .next (retireNext (ctxOf s f g) { ctxOf s f g with st := putBcn s f.core n.toNat w }) := by
    rw [exec_smovq, execSmovq, issue_acts _ _ _ s f g hi (mayName_subset f g _ [(a, 1)] hm (by simp)) fun _ => hl, ← hw]
    simp only [hrw, hres, Bool.not_true, Bool.or_false, Bool.false_eq_true, if_false, if_pos hn.1]
    rfl
  refine goesOn_retireNext _ s f g { ctxOf s f g with st := putBcn s f.core n.toNat w } _ hi hu.1 hrun rfl rfl rfl ⟨rfl, rfl, rfl, rfl⟩ ?_
  have hread (j : Nat) := privReg_putBcn s (commit (settled (next { ctxOf s f g with st := putBcn s f.core n.toNat w }))) f g.level
    n.toNat j w hn rfl rfl
  refine ⟨(hread n.toNat).trans (if_pos rfl), fun j _ hj => (hread j).trans (if_neg hj), rfl, fun k => rfl, fun k l => rfl, fun _ => rfl, rfl⟩

end

/-- Settles O33: the checks by `faults_privileged_all` and `faults_of_checksGroups`, SMOVP by what the table reads, SMOVQ by
`goesOn_smovq_flight` and `goesOn_smovq_beacon`. -/
theorem privilege : Obligations.Privilege := by
  refine ⟨⟨fun s f g i d a b x m n hi hl hmem => faults_privileged_all s f g d a b x m n hi hl i hmem, ?_⟩, ?_⟩
  · intro s f g t d a b x q fq cc rm mode op excl m tok n v imm wd sc fe at' sf img nt ma p hi hp
    refine faults_of_checksGroups s f g hi p ?_
    have hall := List.forall_mem_append.2 ⟨checksGroups_scalar s t d a b x m n v imm, List.forall_mem_append.2
      ⟨checksGroups_vector s t d a b x q mode op excl imm, List.forall_mem_append.2 ⟨checksGroups_float s t d a b x fq rm,
        List.forall_mem_append.2 ⟨checksGroups_control s d a b cc tok v, checksGroups_memory s d wd sc fe at' sf img nt ma⟩⟩⟩⟩
    exact hall p hp
  · intro s f g d a n hi hu hm hd hlev b k w half reads
    have hl : g.level ≠ 0 := by rcases hlev with h | h <;> omega
    have hread (v : Word) (hok : k ≤ 0x16 ∨ 0x40 ≤ k ∧ k ≤ 0xC7) (hv : privReg s f g.level k = v) : reads v :=
      setsScalar_smovp s f g d a n hi hu hm hl hd (by simpa [pregOk] using hok) v hv
    have hbcn (h : 0x40 ≤ k ∧ k < 0xC0) :
        privReg s f g.level k = half (mgetD (Machine.core s f.core).bcn ((k - 0x40) / 2) 0) (k % 2) := by
      have hin : (decide (0x40 ≤ k) && decide (k ≤ 0xBF)) = true := by simp; omega
      unfold privReg
      rw [if_pos hin]
      show Machine.half _ (k % 2 == 1) = if k % 2 = 0 then _ else _
      rcases Nat.mod_two_eq_zero_or_one k with h0 | h0 <;> rw [h0] <;> rfl
    have hsch (h : 0xC0 ≤ k) : privReg s f g.level k = b.sch.getD (k - 0xC0) 0 := by
      have hout : ¬ (decide (0x40 ≤ k) && decide (k ≤ 0xBF)) = true := by simp; omega
      unfold privReg
      rw [if_neg hout, if_pos h]
    refine ⟨fun h => ?_, fun h => ?_, fun h => ?_, fun h1 h2 => ?_, fun h1 h2 => ?_, fun h => ?_, fun h => ?_, fun h => ?_, fun h => ?_,
      fun h => ?_, fun h => ?_, fun h => ?_, fun h => ?_, fun p hp h => ?_, fun h1 h2 => ?_, fun h1 h2 => ?_, fun h => ?_, fun h1 h2 => ?_,
      fun h1 h2 => ?_, fun h hres => ?_⟩
    · exact hread _ (by omega) (by rw [h]; rfl)
    · rcases h with h | h <;> exact hread _ (by omega) (by rw [h]; rfl)
    · exact hread _ (by omega) (by rw [h]; rfl)
    · obtain h | h | h : k = 4 ∨ k = 5 ∨ k = 6 := by omega
      all_goals exact hread _ (by omega) (by rw [h]; rfl)
    · obtain h | h | h : k = 7 ∨ k = 8 ∨ k = 9 := by omega
      all_goals exact hread _ (by omega) (by rw [h]; rfl)
    · rcases h with h | h <;> exact hread _ (by omega) (by rw [h]; rfl)
    · exact hread _ (by omega) (by rw [h]; rfl)
    · rcases h with h | h <;> exact hread _ (by omega) (by rw [h]; rfl)
    · rcases h with h | h <;> exact hread _ (by omega) (by rw [h]; rfl)
    · exact hread _ (by omega) (by rw [h, wrap_natCast]; rfl)
    · refine hread _ (by omega) ?_
      have hlev0 : (g.level == 0) = false := beq_eq_false_iff_ne.2 hl
      rw [h]
      show (if g.level == 0 || b.te then 1 else 0) + (if f.bp then 2 else 0) = _
      rw [hlev0, Bool.false_or]
      cases b.te <;> cases f.bp <;> rfl
    · rcases h with h | h <;> exact hread _ (by omega) (by rw [h]; rfl)
    · exact hread _ (by omega) (by rw [h]; exact privReg_counts s f g.level)
    · refine hread _ (by omega) ?_
      rw [h, wrap_natCast]
      show w32 ((part? s f.pid).elim 0 (·.desc.pmax)) = _
      rw [hp]
      rfl
    · exact hread _ (by omega) (hbcn ⟨h1, h2⟩)
    · exact hread _ (by omega) (hsch h1)
    · refine faults_smovp s f g d a n hi hm hl (Bool.eq_false_iff.2 fun hok => ?_)
      have hok' : k ≤ 0x16 ∨ 0x40 ≤ k ∧ k ≤ 0xC7 := by simpa [pregOk] using hok
      omega
    · refine faults_smovq s f g d a n hi hm hl ?_
      have hout : pregRw n.toNat = false := by
        refine Bool.eq_false_iff.2 fun hin => ?_
        rcases Bool.or_eq_true_iff.1 hin with hc | hc
        · exact h1 (List.mem_of_elem_eq_true hc)
        · have : 0x40 ≤ k ∧ k ≤ 0xBF := by simpa using hc
          omega
      rw [hout]
      rfl
    · refine faults_smovq s f g d a n hi hm hl (Bool.or_eq_true_iff.2 (.inr ?_))
      show privReserved k w = true
      rw [h1, show privReserved 0x12 w = (w >>> 2 != 0) from rfl, ushiftRight_bne_zero]
      exact decide_eq_true h2
    · rcases h with h | h
      · exact goesOn_smovq_flight s f g d a n hi hu hm hl h hres
      · exact goesOn_smovq_beacon s f g d a n hi hu hm hl h hres

end Sys2Proof.Machine
end

section
/-!
SUPPORT. Sweeps of held translations and of instruction caches (04 R86-R88, 22 R453).
-/
namespace Sys2Proof.Machine

/-! ### Entries of a map -/

theorem mem_of_mem_mset {β : Type} (m : Cells β) (n : Nat) (b : β) (x : Nat × β) (h : x ∈ mset m n b) : x = (n, b) ∨ x ∈ m := by
  induction m with
  | nil => exact .inl (by simpa [mset] using h)
  | cons y r ih =>
    rw [mset] at h
    split at h
    · rcases List.mem_cons.1 h with h | h
      · exact .inl h
      · exact .inr h
    · split at h
      · rcases List.mem_cons.1 h with h | h
        · exact .inl h
        · exact .inr (List.mem_cons_of_mem y h)
      · rcases List.mem_cons.1 h with h | h
        · exact .inr (h ▸ List.mem_cons_self)
        · rcases ih h with h | h
          · exact .inl h
          · exact .inr (List.mem_cons_of_mem y h)

theorem mem_of_mget? {β : Type} (m : Cells β) (n : Nat) (b : β) (h : mget? m n = some b) : (n, b) ∈ m := by
  induction m with
  | nil => simp [mget?] at h
  | cons y r ih =>
    obtain ⟨k, v⟩ := y
    rw [mget?] at h
    split at h
    next hk =>
      obtain rfl := Option.some.inj h
      rw [hk]
      exact List.mem_cons_self
    next => exact List.mem_cons_of_mem _ (ih h)

theorem mgetD_mmap {β : Type} (m : Cells β) (k : Nat → β → β) (n : Nat) (d : β) (h : k n d = d) :
    mgetD (mmap m k) n d = k n (mgetD m n d) := by
  unfold mgetD
  rw [mget?_mmap]
  cases mget? m n with
  | none => exact h.symm
  | some b => rfl

/-- An entry of a flight list after one flight changed. -/
theorem mem_modFlight (s : State) (fid : Nat) (k : Flight → Flight) (x : Nat × Flight) (h : x ∈ (modFlight s fid k).flights) :
    x ∈ s.flights ∨ ∃ f, (fid, f) ∈ s.flights ∧ x = (fid, k f) := by
  rw [modFlight_flights, mmod] at h
  split at h
  next f hf =>
    rcases mem_of_mem_mset _ _ _ _ h with h | h
    · exact .inr ⟨f, mem_of_mget? _ _ _ hf, h⟩
    · exact .inl h
  next => exact .inl h

/-- Fragment `m` of a flight one of whose fragments changed but for its number. -/
theorem find?_modFrag (l : List Fragment) (n m : Nat) (k : Fragment → Fragment) (hk : ∀ g ∈ l, g.num = n → (k g).num = g.num) :
    (l.map fun g => if g.num == n then k g else g).find? (fun g => g.num == m) =
      (l.find? fun g => g.num == m).map fun g => if m = n then k g else g := by
  induction l with
  | nil => rfl
  | cons x r ih =>
    have ih' := ih fun g hg => hk g (List.mem_cons_of_mem x hg)
    have hnum : (if x.num == n then k x else x).num = x.num := by
      split
      next h => exact hk x List.mem_cons_self (by simpa using h)
      next => rfl
    rw [List.map_cons, List.find?_cons, List.find?_cons, hnum, ih']
    by_cases hm : x.num = m
    · simp [hm]
    · simp [show (x.num == m) = false by simpa using hm]

/-! ### The sweep begins -/

/-- An INVLP waits for its sweep. -/
theorem sweepBy_waits (i : Instr) (icache : Bool) (page : Ctx → Option DWord) (ops : List (Opnd × Nat)) (s : State) (f : Flight) (g : Fragment)
    (hi : Issues s f g) (hm : MayName f g ops) (hl : g.level ≠ 0) (he : exec i s = sweepBy icache page ops s) :
    ∃ t f' g', exec i s = .next t ∧ flight? t s.cur.1 = some f' ∧ frag? f' g.num = some g' ∧ Siblings f f' g ∧
      g'.wait = .sweep s.nextId ∧ g'.pc = g.pc ∧
      t = { s with flights := t.flights, nextId := s.nextId + 1,
                   sweeps := s.sweeps ++ [⟨s.nextId, f.pid, icache, page (ctxOf s f g), some (s.cur.1, g.num)⟩] } ∧
      f'.s = f.s ∧ f'.v = f.v ∧ MemorySame s t ∧ ∀ k, k ≠ s.cur.1 → flight? t k = flight? s k := by
  let c : Ctx :=
    { settled (ctxOf s f g) with
      st := { s with nextId := s.nextId + 1, sweeps := s.sweeps ++ [⟨s.nextId, f.pid, icache, page (ctxOf s f g), some (s.cur.1, g.num)⟩] }
      g := { (settled (ctxOf s f g)).g with wait := .sweep s.nextId } }
  have hrun : exec i s = .next (commit c) := he.trans (issue_acts ops true _ s f g hi hm fun _ => hl)
  obtain ⟨h1, h2, h3, h4⟩ := commit_leaves s f g c hi rfl rfl rfl
  exact ⟨_, _, c.g, hrun, h1, h2, h3, rfl, rfl, rfl, rfl, rfl, fun _ => rfl, h4⟩

/-! ### What a sweep removes -/

theorem swept_iff (pid : Nat) (page : Option DWord) (e : TlbEntry) :
    swept pid page e = true ↔ e.pid = pid ∧ ∀ va, page = some va → va.toNat % 2 ^ 56 / 2 ^ e.bits = e.vbase / 2 ^ e.bits := by
  cases page with
  | none => simp [swept]
  | some va =>
    simp only [swept, TlbEntry.maps, vaOf, Bool.and_eq_true, beq_iff_eq, Option.some.injEq, forall_eq']
    exact ⟨fun ⟨_, hpid, hpage⟩ => ⟨hpid, hpage⟩, fun ⟨hpid, hpage⟩ => ⟨hpid, hpid, hpage⟩⟩

theorem mem_sweepOut (pid : Nat) (page : Option DWord) (es : List TlbEntry) (e : TlbEntry) :
    e ∈ sweepOut pid page es ↔ e ∈ es ∧ ¬ swept pid page e = true := by
  simp [sweepOut]

/-- The flight without what a sweep removes. -/
def Flight.swept (pid : Nat) (page : Option DWord) (f : Flight) : Flight :=
  { f with lpr := f.lpr.filter fun x => !Machine.swept pid page x.2, slpr := f.slpr.filter fun e => !Machine.swept pid page e }

theorem core_sweepAll (s : State) (pid c : Nat) (page : Option DWord) :
    Machine.core (sweepAll s pid page) c = { Machine.core s c with tlb := sweepOut pid page (Machine.core s c).tlb } := by
  exact mgetD_mmap s.cores (fun _ k => { k with tlb := sweepOut pid page k.tlb }) c Core.reset rfl

theorem dieTlb_sweepAll (s : State) (pid d : Nat) (page : Option DWord) :
    dieTlb (sweepAll s pid page) d = sweepOut pid page (dieTlb s d) := by
  exact mgetD_mmap s.dieTlb (fun _ es => sweepOut pid page es) d [] rfl

theorem core_dropIcaches (s : State) (pid c : Nat) (h : ownsCore s pid c = true) :
    (Machine.core (dropIcaches s pid) c).icache = [] := by
  have hcore : Machine.core (dropIcaches s pid) c = { Machine.core s c with icache := [] } := by
    exact (mgetD_mmap s.cores (fun c k => if ownsCore s pid c then { k with icache := [] } else k) c Core.reset (if_pos h)).trans (if_pos h)
  rw [hcore]

/-- What a sweep leaves: the places swept, or the instruction caches. -/
def sweptState (s : State) (w : Sweep) : State :=
  { (if w.icache then dropIcaches s w.pid else sweepAll s w.pid w.page) with sweeps := s.sweeps.filter fun x => x.id != w.id }

theorem sweepDone_acts (s : State) (w : Sweep) (hw : w ∈ s.sweeps) (hone : ∀ x ∈ s.sweeps, x.id = w.id → x = w)
    (hfrz : frozen s w.pid = false) (hbusy : w.icache = false → sweepBusy s w.pid w.page = false) :
    exec (.invalidationSweepDone w.id) s = .next (w.waiter.elim (send (sweptState s w) (.completion 0)) fun x =>
      modFrag (sweptState s w) x.1 x.2 fun g => if g.wait == .sweep w.id then { g with wait := .run, pc := g.pc + 8 } else g) := by
  have hfind : s.sweeps.find? (fun x => x.id == w.id) = some w :=
    find?_unique _ _ w hw (by simp) fun x hx h => hone x hx (by simpa using h)
  have hgo : (!w.icache && sweepBusy s w.pid w.page || (w.waiter.isSome && frozen s w.pid)) = false := by
    rw [hfrz, Bool.and_false, Bool.or_false]
    cases hi : w.icache with
    | true => rfl
    | false => rw [hbusy hi]; rfl
  have hsweeps : (if w.icache then dropIcaches s w.pid else sweepAll s w.pid w.page).sweeps = s.sweeps := by
    split <;> rfl
  rw [exec_invalidationSweepDone, execInvalidationSweepDone, hfind]
  simp only [hgo, Bool.false_eq_true, if_false, hsweeps]
  cases w.waiter with
  | none => rfl
  | some x => rfl

/-- A state with the memory, cores and translations of another, and flights that are those of the other but for their fragments. -/
structure SweptLike (u t : State) : Prop where
  mem     : ∀ a, readByte t a = readByte u a
  sweeps  : t.sweeps = u.sweeps
  cores   : t.cores = u.cores
  dies    : t.dieTlb = u.dieTlb
  bridge  : t.bridTlb = u.bridTlb
  flights : ∀ x ∈ t.flights, ∃ y ∈ u.flights, x.2.lpr = y.2.lpr ∧ x.2.slpr = y.2.slpr

theorem sweptLike_send (u : State) (m : Msg) : SweptLike u (send u m) :=
  ⟨fun _ => rfl, rfl, rfl, rfl, rfl, fun x hx => ⟨x, hx, rfl, rfl⟩⟩

theorem sweptLike_modFrag (u : State) (fid n : Nat) (k : Fragment → Fragment) : SweptLike u (modFrag u fid n k) := by
  refine ⟨fun _ => rfl, rfl, rfl, rfl, rfl, fun x hx => ?_⟩
  rcases mem_modFlight u fid _ x hx with h | ⟨f, hf, rfl⟩
  · exact ⟨x, h, rfl, rfl⟩
  · exact ⟨(fid, f), hf, rfl, rfl⟩

theorem core_of_cores (s t : State) (c : Nat) (h : t.cores = s.cores) : Machine.core t c = Machine.core s c := by
  rw [Machine.core, h, Machine.core]

/-- What a completed sweep of translations removes. -/
theorem swept_removes (s t : State) (w : Sweep) (hi : w.icache = false) (h : SweptLike (sweptState s w) t) :
    let gone (e : TlbEntry) : Prop := e.pid = w.pid ∧ ∀ va, w.page = some va → va.toNat % 2 ^ 56 / 2 ^ e.bits = e.vbase / 2 ^ e.bits
    (∀ c e, e ∈ (Machine.core t c).tlb ↔ e ∈ (Machine.core s c).tlb ∧ ¬ gone e) ∧
      (∀ d e, e ∈ dieTlb t d ↔ e ∈ dieTlb s d ∧ ¬ gone e) ∧ (∀ e, e ∈ t.bridTlb ↔ e ∈ s.bridTlb ∧ ¬ gone e) ∧
      ∀ x ∈ t.flights, (∀ y ∈ x.2.lpr, ¬ gone y.2) ∧ ∀ y ∈ x.2.slpr, ¬ gone y := by
  intro gone
  have hgone (e : TlbEntry) : swept w.pid w.page e = true ↔ gone e := swept_iff w.pid w.page e
  have hstate : sweptState s w = { sweepAll s w.pid w.page with sweeps := s.sweeps.filter fun x => x.id != w.id } := by
    rw [sweptState, hi]
    rfl
  rw [hstate] at h
  refine ⟨fun c e => ?_, fun d e => ?_, fun e => ?_, fun x hx => ?_⟩
  · rw [core_of_cores (sweepAll s w.pid w.page) t c h.cores, core_sweepAll, mem_sweepOut, hgone]
  · rw [dieTlb, h.dies, ← hgone, ← mem_sweepOut, ← dieTlb_sweepAll]
    rfl
  · rw [h.bridge, ← hgone, ← mem_sweepOut]
    rfl
  · obtain ⟨y, hy, hlpr, hslpr⟩ := h.flights x hx
    obtain ⟨z, -, rfl⟩ := List.mem_map.1 (show y ∈ s.flights.map fun x => (x.1, x.2.swept w.pid w.page) from hy)
    rw [hlpr, hslpr]
    refine ⟨fun v hv => ?_, fun v hv => ?_⟩
    · rw [← hgone]
      simpa using (List.mem_filter.1 hv).2
    · rw [← hgone]
      have := (Option.filter_eq_some_iff.1 (Option.mem_def.1 hv)).2
      simpa using this

/-- The fragment that waits for a completed sweep goes on. -/
theorem sweep_wakes (u : State) (fid n id : Nat) (f : Flight) (g : Fragment) (hf : flight? u fid = some f) (hg : frag? f n = some g)
    (hw : g.wait = .sweep id) :
    ∃ f' g', flight? (modFrag u fid n fun g => if g.wait == .sweep id then { g with wait := .run, pc := g.pc + 8 } else g) fid = some f' ∧
      frag? f' n = some g' ∧ g' = { g with wait := .run, pc := g.pc + 8 } := by
  refine ⟨_, _, by rw [modFrag, flight?_modFlight, if_pos rfl, hf]; rfl, ?_, rfl⟩
  have := find?_modFrag f.frags n n (fun g => if g.wait == .sweep id then { g with wait := .run, pc := g.pc + 8 } else g)
    fun x _ _ => by split <;> rfl
  refine this.trans ?_
  rw [show f.frags.find? (fun g => g.num == n) = some g from hg, Option.map_some, if_pos rfl, hw, if_pos (beq_self_eq_true _)]

/-- A sweep that the host asks for begins where the partition's commands are served. -/
theorem hostSweep_begins (s : State) (pid : Nat) (p : Part) (icache : Bool) (page : Option DWord) (hp : part? s pid = some p)
    (hd : p.destroyed = false) (ht : inTurn s pid = false) :
    served s pid (fun s => .next (hostSweep s pid icache page)) =
      .next { s with nextId := s.nextId + 1, sweeps := s.sweeps ++ [⟨s.nextId, pid, icache, page, none⟩] } := by
  have hlive : (live? s pid).isNone = false := by
    simp [live?, hp, hd]
  simp only [served, ht, hostSweep, hlive, Bool.false_eq_true, if_false]

/-- Settles O35: INVLP by `sweepBy_waits`, the completed sweep by `sweepDone_acts` and `swept_removes`, the host's by `hostSweep_begins`. -/
theorem invalidations : Obligations.Invalidations := by
  refine ⟨fun s f g a i page hi hu hm hl hor => ?_, fun s w hw hone hfrz hbusy => ?_, fun s pid p all va hp hd ht => ?_⟩
  · rcases hor with ⟨rfl, rfl⟩ | ⟨rfl | rfl, rfl⟩
    · exact sweepBy_waits _ false (fun c => some (srcS2 c a)) _ s f g hi hm hl (exec_invlp a s)
    · exact sweepBy_waits _ false (fun _ => none) [] s f g hi (mayName_nil f g) hl (exec_invlpAll s)
    · exact sweepBy_waits _ true (fun _ => none) [] s f g hi (mayName_nil f g) hl (exec_invlpIcache s)
  · have hrun := sweepDone_acts s w hw hone hfrz hbusy
    have hmem (a : Nat) : readByte (sweptState s w) a = readByte s a := by
      unfold sweptState
      split <;> rfl
    have hsweeps : (sweptState s w).sweeps = s.sweeps.filter fun x => x.id ≠ w.id := by
      refine List.filter_congr fun x _ => ?_
      rw [bne, beq_eq_decide, decide_not]
    have hlike : SweptLike (sweptState s w) (w.waiter.elim (send (sweptState s w) (.completion 0)) fun x =>
        modFrag (sweptState s w) x.1 x.2 fun g => if g.wait == .sweep w.id then { g with wait := .run, pc := g.pc + 8 } else g) := by
      cases w.waiter with
      | none => exact sweptLike_send _ _
      | some x => exact sweptLike_modFrag _ _ _ _
    refine ⟨_, hrun, hlike.sweeps.trans hsweeps, fun a => (hlike.mem a).trans (hmem a), fun hic c hc => ?_,
      fun hic => swept_removes s _ w hic hlike, fun fid n f g hwait hf hg hgw => ?_, fun hwait => ?_⟩
    · rw [core_of_cores _ _ c hlike.cores, core_of_cores (dropIcaches s w.pid) _ c (by rw [sweptState, if_pos hic])]
      exact core_dropIcaches s w.pid c hc
    · rw [hwait]
      have hfl : ∃ f1, flight? (sweptState s w) fid = some f1 ∧ frag? f1 n = some g := by
        cases hic : w.icache with
        | true => exact ⟨f, by rw [sweptState, hic]; exact hf, hg⟩
        | false =>
          refine ⟨f.swept w.pid w.page, ?_, hg⟩
          rw [sweptState, hic]
          show mget? (mmap s.flights fun _ f => f.swept w.pid w.page) fid = _
          rw [mget?_mmap, show mget? s.flights fid = some f from hf]
          rfl
      obtain ⟨f1, hf1, hg1⟩ := hfl
      exact sweep_wakes (sweptState s w) fid n w.id f1 g hf1 hg1 hgw
    · rw [hwait]
      have hout : (sweptState s w).outbox = s.outbox := by
        unfold sweptState
        split <;> rfl
      show (sweptState s w).outbox ++ _ = _
      rw [hout]
  · exact ⟨⟨_, (exec_shootdown pid all va s).trans (hostSweep_begins s pid p false _ hp hd ht), rfl⟩,
      ⟨_, (exec_codeInvalidate pid s).trans (hostSweep_begins s pid p true none hp hd ht), rfl⟩⟩

end Sys2Proof.Machine
end

section
/-!
SUPPORT. The freeze line and the snapshot registers (19 R412-R414).
-/
namespace Sys2Proof.Machine

/-! ### Lists that are sorted and folded -/

theorem mem_of_mem_insBy {β : Type} (key : β → Nat) (x y : β) (l : List β) (h : y ∈ insBy key x l) : y = x ∨ y ∈ l := by
  induction l with
  | nil => exact .inl (by simpa [insBy] using h)
  | cons z r ih =>
    rw [insBy] at h
    split at h
    · exact List.mem_cons.1 h
    · rcases List.mem_cons.1 h with h | h
      · exact .inr (h ▸ List.mem_cons_self)
      · rcases ih h with h | h
        · exact .inl h
        · exact .inr (List.mem_cons_of_mem z h)

theorem mem_of_mem_foldl_insBy {β : Type} (key : β → Nat) (l acc : List β) (y : β)
    (h : y ∈ l.foldl (fun acc x => insBy key x acc) acc) : y ∈ acc ∨ y ∈ l := by
  induction l generalizing acc with
  | nil => exact .inl h
  | cons x r ih =>
    rcases ih _ h with h | h
    · rcases mem_of_mem_insBy key x y acc h with h | h
      · exact .inr (h ▸ List.mem_cons_self)
      · exact .inl h
    · exact .inr (List.mem_cons_of_mem x h)

theorem mem_of_mem_sortBy {β : Type} (key : β → Nat) (l : List β) (y : β) (h : y ∈ sortBy key l) : y ∈ l := by
  rcases mem_of_mem_foldl_insBy key l [] y h with h | h
  · exact absurd h List.not_mem_nil
  · exact h

/-! ### The snapshot registers (19 R414) -/

theorem mget?_append {β : Type} (a b : Cells β) (n : Nat) : mget? (a ++ b) n = (mget? a n).or (mget? b n) := by
  induction a with
  | nil => simp [mget?]
  | cons x r ih =>
    obtain ⟨k, v⟩ := x
    by_cases h : k = n
    · simp [mget?, h]
    · simp [mget?, h, ih]

theorem mget?_listed {β : Type} (k : Nat → β) (n c : Nat) (hc : c < n) : mget? ((List.range n).map fun c => (c, k c)) c = some (k c) := by
  induction n with
  | zero => omega
  | succ n ih =>
    rw [List.range_succ, List.map_append, mget?_append]
    by_cases h : c < n
    · rw [ih h]
      rfl
    · obtain rfl : c = n := by omega
      have hnone : mget? ((List.range c).map fun c => (c, k c)) c = none := by
        cases hg : mget? ((List.range c).map fun c => (c, k c)) c with
        | none => rfl
        | some b =>
          obtain ⟨m, hm, he⟩ := List.mem_map.1 (mem_of_mget? _ _ _ hg)
          have := List.mem_range.1 hm
          have := (Prod.mk.inj he).1
          omega
      rw [hnone]
      simp [mget?]

/-- Every snapshot register that was latched holds the cycle. -/
theorem stamp_latch (s : State) (u : Nat) (x : Snap) (h : mget? (latch s).snaps u = some x) : x.stamp = dw s.cycle := by
  have hmem := mem_of_mget? _ _ _ h
  simp only [latch, List.mem_append, List.mem_map, List.mem_singleton] at hmem
  rcases hmem with (((⟨c, -, he⟩ | ⟨c, -, he⟩) | ⟨c, -, he⟩) | he) | ⟨c, -, he⟩
  · rw [← (Prod.mk.inj he).2]
    rfl
  · rw [← (Prod.mk.inj he).2]
    unfold snapEngine
    split <;> rfl
  · rw [← (Prod.mk.inj he).2]
    rfl
  · rw [(Prod.mk.inj he).2]
    unfold snapBridle
    split <;> rfl
  · rw [← (Prod.mk.inj he).2]
    rfl

/-- A core's snapshot registers hold the PCs of its slots. -/
theorem mget?_latch (s : State) (c : Nat) (hc : c < 192) : mget? (latch s).snaps c = some (snapCore s c) := by
  simp only [latch, mget?_append, mget?_listed (snapCore s) 192 c hc, Option.some_or]

/-- What the snapshot registers hold after they were latched in a machine with the cores of `s`. -/
theorem latched (s u t : State) (hcyc : u.cycle = s.cycle) (hcores : u.cores = s.cores) (hsnaps : t.snaps = (latch u).snaps) :
    (∀ n x, mget? t.snaps n = some x → x.stamp = dw s.cycle) ∧
      ∀ c, c < 192 → ∃ x, mget? t.snaps c = some x ∧ (∀ y, mget? (Machine.core s c).slots 0 = some y → x.r0 = y.pc) ∧
        (∀ y, mget? (Machine.core s c).slots 3 = some y → x.r3 = y.pc) := by
  refine ⟨fun n x h => ?_, fun c hc => ⟨snapCore u c, by rw [hsnaps]; exact mget?_latch u c hc, fun y hy => ?_, fun y hy => ?_⟩⟩
  · rw [hsnaps] at h
    rw [← hcyc]
    exact stamp_latch u n x h
  · rw [← core_of_cores s u c hcores] at hy
    simp only [snapCore, hy]
  · rw [← core_of_cores s u c hcores] at hy
    simp only [snapCore, hy]

/-! ### The freeze line -/

theorem part?_assertFreeze (s : State) (pid : Nat) (p : Part) (hp : part? s pid = some p) :
    part? (assertFreeze s pid) pid = some { p with freeze := if p.freeze = .clear then .asserted s.cycle else p.freeze } := by
  rw [assertFreeze, part?_modPart, if_pos rfl, hp, Option.map_some]
  by_cases h : p.freeze = .clear
  · rw [if_pos (by simp [h]), if_pos h]
  · rw [if_neg (by simpa using h), if_neg h]

/-- A fragment that a slot tries is of a flight whose job is not frozen. -/
theorem candidates_running (t : State) (core slot : Nat) (x : Nat × Nat) (h : x ∈ candidates t core slot) :
    ∃ f, (x.1, f) ∈ t.flights ∧ frozen t f.pid = false := by
  simp only [candidates, List.mem_map, List.mem_append] at h
  obtain ⟨z, hz, rfl⟩ := h
  have hall : z ∈ ((slotOrder t core slot).map fun x =>
      (sortBy (turnKey x.2) (x.2.frags.filter (mayTry t x.1 x.2))).map fun g => (x.1, g)).flatten := by
    rcases hz with hz | hz
    · exact (List.mem_filter.1 (mem_of_mem_sortBy _ _ _ hz)).1
    · exact (List.mem_filter.1 hz).1
  obtain ⟨gs, hgs, hzg⟩ := List.mem_flatten.1 hall
  obtain ⟨y, hy, rfl⟩ := List.mem_map.1 hgs
  obtain ⟨g, -, rfl⟩ := List.mem_map.1 hzg
  obtain ⟨hmem, hcond⟩ := List.mem_filter.1 (mem_of_mem_sortBy _ _ _ hy)
  refine ⟨y.2, hmem, ?_⟩
  have := (Bool.and_eq_true_iff.1 hcond).2
  simpa using this

/-- A flight list without repeated numbers holds one flight at each. -/
theorem flight_unique (fs : List (Nat × Flight)) (hn : (fs.map (·.1)).Nodup) (k : Nat) (f g : Flight) (hf : (k, f) ∈ fs) (hg : (k, g) ∈ fs) :
    f = g := by
  induction fs with
  | nil => simp at hf
  | cons x r ih =>
    rw [List.map_cons, List.nodup_cons] at hn
    obtain ⟨hx, hr⟩ := hn
    rcases List.mem_cons.1 hf with hf | hf
    · rcases List.mem_cons.1 hg with hg | hg
      · exact (Prod.mk.inj (hf.trans hg.symm)).2
      · exact absurd (List.mem_map.2 ⟨(k, g), hg, rfl⟩) (by rw [← hf] at hx; exact hx)
    · rcases List.mem_cons.1 hg with hg | hg
      · exact absurd (List.mem_map.2 ⟨(k, f), hf, rfl⟩) (by rw [← hg] at hx; exact hx)
      · exact ih hr hf hg

/-! ### A thaw (19 R412) -/

/-- No engine takes up anything where nothing is owed. -/
theorem takeUp_nothingOwed (s : State) (pid : Nat) (h : NothingOwed s) : takeUp s pid = s := by
  obtain ⟨hcmds, hcomms⟩ := h
  have hdoomed : failDoomed s pid = s := by
    have hengines : ((s.engines.map fun e => (e.2.cmds.filter fun c => c.pid == pid && c.doomed).map fun c => (e.1, c)).flatten) = [] := by
      refine List.flatten_eq_nil_iff.2 fun l hl => ?_
      obtain ⟨e, he, rfl⟩ := List.mem_map.1 hl
      rw [List.map_eq_nil_iff, List.filter_eq_nil_iff]
      intro c hc
      simp [hcmds e he c hc]
    unfold failDoomed
    rw [hengines]
    refine foldl_fixed _ _ _ fun x hx => ?_
    obtain ⟨c, hc, rfl⟩ := List.mem_map.1 hx
    obtain ⟨hcolls, hputs⟩ := hcomms c (List.mem_filter.1 hc).1
    have h1 : c.2.colls.filter (·.doomed) = [] := List.filter_eq_nil_iff.2 fun o ho => by simp [hcolls o ho]
    have h2 : c.2.puts.filter (·.doomed) = [] := List.filter_eq_nil_iff.2 fun o ho => by simp [(hputs o ho).1]
    simp only [h1, h2, List.foldl_nil]
  rw [takeUp, hdoomed]
  refine foldl_fixed _ _ _ fun x _ => ?_
  cases hc : comm? s pid x.1 with
  | none => rfl
  | some c =>
    cases ho : c.puts.find? fun o => o.id == x.2 with
    | none => simp only [ho]
    | some o =>
      have hsent := ((hcomms _ (mem_of_mget? _ _ _ hc)).2 o (List.mem_of_find?_eq_some ho)).2
      have hskip : (o.sent || o.stall.isSome || putWaits s pid c o || !unitRuns s pid o.gid .bridle) = true := by
        rcases hsent with h | h <;> simp [h]
      simp only [ho, hskip, if_true]

/-- Settles O36. -/
theorem freezes : Obligations.Freezes := by
  intro s f g p hi hu hp stamped pcs
  have acts := fun body hl => issue_acts [] true body s f g hi (mayName_nil f g) hl
  refine ⟨fun hl => ?_, fun hl => ?_, ?_, ?_, fun c hc => ?_, fun hd ht ho => ?_⟩
  · let c : Ctx := { settled (next (ctxOf s f g)) with g := { (settled (next (ctxOf s f g))).g with wait := .gone } }
    have hrun : exec .frz s = .next (assertFreeze (latch (commit c)) f.pid) := acts _ fun _ => hl
    obtain ⟨h1, h2, -, -⟩ := commit_leaves s f g c hi rfl rfl rfl
    obtain ⟨hstamp, hpcs⟩ := latched s (commit c) (assertFreeze (latch (commit c)) f.pid) rfl rfl rfl
    refine ⟨_, _, _, _, hrun, h1, h2, rfl, rfl, part?_assertFreeze _ f.pid p hp, fun hclear => ?_, hstamp, hpcs, fun _ => rfl, rfl, rfl⟩
    rw [if_pos hclear]
    rfl
  · let c : Ctx := { ctxOf s f g with st := latch s }
    have hrun : exec .frzSnap s = .next (retireNext (ctxOf s f g) c) := acts _ fun _ => hl
    refine goesOn_retireNext _ s f g c _ hi hu.1 hrun rfl rfl rfl ⟨rfl, rfl, rfl, rfl⟩ ⟨?_, fun _ => rfl, ?_⟩
    · exact noRegister_of _ _ _ _ _ _ rfl rfl rfl rfl rfl rfl rfl rfl rfl rfl
    · obtain ⟨hstamp, hpcs⟩ := latched s s (commit (settled (next c))) rfl rfl rfl
      exact ⟨hstamp, hpcs, rfl⟩
  · obtain ⟨hstamp, hpcs⟩ := latched s s (latch s) rfl rfl rfl
    exact ⟨latch s, rfl, rfl, hstamp, hpcs⟩
  · exact ⟨_, _, rfl, part?_assertFreeze s f.pid p hp, rfl, rfl, fun k hk => by rw [assertFreeze, part?_modPart, if_neg hk]⟩
  · obtain ⟨t, ht⟩ : ∃ t, t = latch (modPart s f.pid fun p => { p with freeze := .inEffect }) := ⟨_, rfl⟩
    have hrun : exec (.freezeTakesEffect f.pid) s = .next t := by
      rw [exec_freezeTakesEffect, execFreezeTakesEffect, hp, ht]
      simp only [hc]
    have hpart : part? t f.pid = some { p with freeze := .inEffect } := by
      rw [ht]
      show part? (modPart s f.pid _) f.pid = _
      rw [part?_modPart, if_pos rfl, hp]
      rfl
    have hfrozen : frozen t f.pid = true := by
      simp only [frozen, hpart]
      rfl
    obtain ⟨hstamp, -⟩ := latched s (modPart s f.pid fun p => { p with freeze := .inEffect }) t rfl rfl (by rw [ht])
    refine ⟨t, _, hrun, hpart, rfl, by rw [ht]; rfl, hstamp, hfrozen, fun core slot x hx y hy hmem hn he => ?_⟩
    obtain ⟨z, hz, hzf⟩ := candidates_running t core slot x hx
    rw [flight_unique t.flights hn x.1 z y hz hmem, he, hfrozen] at hzf
    exact absurd hzf (by decide)
  · have hlive : (live? s f.pid).isNone = false := by simp [live?, hp, hd]
    obtain ⟨s0, hs0⟩ : ∃ s0, s0 = modPart s f.pid fun p => { p with freeze := .clear } := ⟨_, rfl⟩
    have hp0 : part? s0 f.pid = some { p with freeze := .clear } := by
      rw [hs0, part?_modPart, if_pos rfl, hp]
      rfl
    have hmem0 (a : Nat) : readByte s0 a = readByte s a := by rw [hs0]; rfl
    let s1 : State := { s0 with gangs := mmap s0.gangs fun _ g => if g.pid == f.pid then retryGang g else g }
    let s2 : State := { s1 with flights := mmap s1.flights fun _ x => if x.pid == f.pid then thawFrags s1 x else x }
    have hthaw : thawJob s f.pid = s2 := by
      have hup : takeUp s2 f.pid = s2 := by
        refine takeUp_nothingOwed s2 f.pid ?_
        have he : s2.engines = s.engines := by show s0.engines = _; rw [hs0]; rfl
        have hcm : s2.comms = s.comms := by show s0.comms = _; rw [hs0]; rfl
        rw [NothingOwed, he, hcm]
        exact ho
      rw [thawJob, ← hs0]
      exact hup
    have hrun : exec (.thaw f.pid) s = .next (done s2 0) := by
      rw [exec_thaw, execThaw, onLive, served, ht]
      simp only [Bool.false_eq_true, if_false, hlive, hthaw]
    refine ⟨_, _, hrun, hp0, rfl, ?_, fun a => hmem0 a⟩
    have : part? (done s2 0) f.pid = some { p with freeze := .clear } := hp0
    simp only [frozen, this]
    rfl

end Sys2Proof.Machine
end

section
/-!
SUPPORT. Inspection of halted flights (20 R430-R435): a machine in which two fragments of a flight have one number.
-/
namespace Sys2Proof.Machine

/-- A gang of one flight. -/
def plainGang : Gang :=
  { pid := 0, launch := 0, num := 0, die := 0, quad := 0, offset := 0, scratch := 0, tiles := 0, nflight := 1, nblock := 1,
    state := .running, why := 0, acks := [], deadline := none, held := false, engStop := false, pmaxAt := [], bars := [], pools := [],
    order := 0, ran := 0, started := 0, savedT := [] }

/-- A halted fragment. -/
def haltedFragment : Fragment := { firstFragment with halted := true }

/-- A halted fragment of the same number that waits for a claim. -/
def claimingTwin : Fragment := { haltedFragment with wait := .claim 8 0 }

/-- The target flight: two halted fragments of number 0. -/
def targetFlight : Flight := { watchedFlight with frags := [haltedFragment, claimingTwin], pend := [], timer := false }

/-- The fragment that inspects, in a handler. -/
def inspectingFragment : Fragment := { firstFragment with level := 1 }

/-- The inspecting flight. -/
def inspectingFlight : Flight := { watchedFlight with idx := 1, frags := [inspectingFragment], pend := [], timer := false }

/-- The machine that holds both. -/
def inspectedState : State :=
  { State.reset with flights := [(0, inspectingFlight), (1, targetFlight)], gangs := [(0, plainGang)] }

theorem issues_inspectedState : Issues inspectedState inspectingFlight inspectingFragment := ⟨rfl, rfl⟩

/-- The answer of a step asked for, as the fragments' waits of the target flight. -/
def waitsAfter (x : Ans) : Option (List Wait) :=
  match x with
  | .next t => (flight? t 1).map fun f => f.frags.map (·.wait)
  | _ => none

/-- Asking for a step of fragment 0 lets both of that number go on. -/
theorem waits_dstep : waitsAfter (exec (.dstep (.s 4) (.s 0)) inspectedState) = some [.run, .run] := by
  decide

/-- The inspector's operands name the target, its fragment 0 and its lane 0. -/
theorem found_inspectedState : findFlight inspectedState 0 0 0 0 0 = some (1, targetFlight) := by rfl

/-- Refutes O37: DSTEP of a target one of whose fragments has the number of another lets that one go on too, so the target flight is not
as it was (`waits_dstep`). -/
theorem not_inspection : ¬ Obligations.Inspection := by
  intro h
  obtain ⟨-, -, -, -, hstep⟩ := h inspectedState inspectingFlight inspectingFragment (.s 4) (.s 0) (.s 0) (.s 0) 1 targetFlight
    haltedFragment issues_inspectedState ⟨rfl, rfl⟩ ⟨fun h => absurd h (by decide), by decide⟩ (.inl rfl) (by decide) (by decide) (by decide)
  obtain ⟨⟨t, f', g', he, -, -, -, -, -, ht⟩, -⟩ := hstep
    ⟨⟨by decide, by decide⟩, found_inspectedState, rfl, by decide, rfl, rfl, rfl, .inr ⟨by decide, by decide⟩⟩ (by decide) rfl
  have hwaits := waits_dstep
  rw [he] at hwaits
  simp only [waitsAfter, ht] at hwaits
  exact absurd hwaits (by decide)

end Sys2Proof.Machine
end

section
/-!
SUPPORT. Halts of the other flights of a gang (20 R426-R429): the record of a halt that names a beacon.
-/
namespace Sys2Proof.Machine

/-- A partition with halt records at 0x10_0000. -/
def recordingPart : Part :=
  { desc := { pid := 0, cores := 3, groups := 1, engines := 1, engineOf := [(0, 0)], slots := 1, root := 0x1_0000, grants := [],
              admits := 1, stream := false, vector := 0, bp := false, pmax := 1024 }
    frctl := 0, jnlctl := 0, jnlhead := 0, jnltail := 0, hrctl := 0x10_0001, hrhead := 0, tmrctl := 0, preemptdl := 50, hcmd := 0,
    nextId := 1, offers := [], phase := none, freeze := .clear, destroyed := false, jobCount := 0, jobFault := false, jobEnds := 0,
    moving := none }

/-- A halt of a gang for its other flights, by beacon 0. -/
def beaconHalt : QHalt := ⟨3, 4, 1, 0, 0, 0, 0, false⟩

/-- A flight with the halt queued. -/
def haltingFlight : Flight := { watchedFlight with pend := [], timer := false, haltq := [beaconHalt] }

/-- The machine that holds it. -/
def haltingState : State :=
  { State.reset with flights := [(0, haltingFlight)], gangs := [(0, plainGang)], parts := [(0, recordingPart)] }

/-- Byte 18 of the record that an answer leaves. -/
def beaconByte (x : Ans) : Option Byte :=
  match x with
  | .next t => some ((readBytes t (recordPlace recordingPart) 64).getD 18 0)
  | _ => none

theorem beaconByte_halt : beaconByte (exec (.gangHaltOtherFlight 0 0) haltingState) = some 1 := by
  decide

/-- Refutes O38: the record of a halt that a beacon caused names the beacon (`beaconByte_halt`), where the statement has a record
without one. -/
theorem not_halts : ¬ Obligations.Halts := by
  intro h
  obtain ⟨-, hother, -⟩ := h
  obtain ⟨t, f', he, -, -, hrec, -⟩ := hother haltingState 0 0 haltingFlight firstFragment beaconHalt rfl rfl rfl rfl rfl rfl rfl rfl rfl
    (by decide) (by decide)
  obtain ⟨hbytes, -⟩ := (hrec plainGang recordingPart rfl rfl).1 (by decide) (by decide) (by decide)
  have hbyte := beaconByte_halt
  rw [he] at hbyte
  simp only [beaconByte, hbytes] at hbyte
  exact absurd hbyte (by decide)

end Sys2Proof.Machine
end

section
/-!
SUPPORT. Block barriers (06 R172-R174): an arrival in a machine whose list of flights is not in the order of their numbers, which the
statement admits.
-/
namespace Sys2Proof.Machine

/-- A flight of all lanes. -/
def plainFlight : Flight := { watchedFlight with pend := [], timer := false }

/-- A machine with one flight of gang 0, listed after a flight of gang 1 with a higher number. -/
def disorderedState : State :=
  { State.reset with flights := [(5, { plainFlight with gid := 1 }), (0, plainFlight)], gangs := [(0, plainGang)] }

theorem issues_disorderedState : Issues disorderedState plainFlight firstFragment := ⟨rfl, rfl⟩

/-- What the first fragment of flight 0 waits for after an answer. -/
def firstWait (x : Ans) : Option Wait :=
  match x with
  | .next t => (flight? t 0).bind fun f => (frag? f 0).map (·.wait)
  | _ => none

/-- The flight that arrives is put in the place of its number, and stands in the list a second time, so the count of its block's live
flights is two. -/
theorem firstWait_barw : firstWait (exec (.barw (.s 0) (.s 0)) disorderedState) = some (.bar 0 0 true true) := by
  decide

/-- Refutes O22: in `disorderedState` the one flight of its block arrives at a barrier without a count, and waits (`firstWait_barw`). -/
theorem not_blockBarriers : ¬ Obligations.BlockBarriers := by
  intro h
  obtain ⟨-, -, -, harrive⟩ := h disorderedState plainFlight firstFragment (.s 0) (.s 0) true plainGang issues_disorderedState ⟨rfl, rfl⟩
    ⟨fun _ => by decide, by decide⟩ rfl rfl rfl
  obtain ⟨t, f', g', x', he, hf', hg', -, -, -, -, -, -, -, hdone, -⟩ := harrive (by decide) (by decide) (by decide) rfl (by decide)
  obtain ⟨-, hrun, -⟩ := hdone rfl
  have hwait := firstWait_barw
  rw [show exec (.barw (.s 0) (.s 0)) disorderedState = .next t from he] at hwait
  have hf0 : flight? t 0 = some f' := hf'
  have hg0 : frag? f' 0 = some g' := hg'
  simp only [firstWait, hf0, Option.bind_some, hg0, Option.map_some, hrun] at hwait
  exact absurd hwait (by decide)

end Sys2Proof.Machine
end

section
/-!
SUPPORT. Register re-division (06 R175-R177).
-/
namespace Sys2Proof.Machine

theorem gangOf_modPool (s : State) (f : Flight) (k : Nat → Nat) (x : Gang) (hx : gangOf s f = some x) :
    gangOf (modPool s f k) f = some { x with pools := mset x.pools (poolKey f) (k (mgetD x.pools (poolKey f) 0)) } := by
  show mget? (mmod s.gangs f.gid _) f.gid = _
  rw [mget?_mmod, if_pos rfl, show mget? s.gangs f.gid = some x from hx]
  rfl

theorem poolOf_eq (s : State) (f : Flight) (x : Gang) (hx : gangOf s f = some x) : poolOf s f = mgetD x.pools (poolKey f) 0 := by
  rw [poolOf, hx]
  rfl

/-- What an allocation keeps of the vector registers. -/
theorem mget?_filter_lt {β : Type} (m : Cells β) (n k : Nat) : mget? (m.filter fun r => decide (r.1 < n)) k = if k < n then mget? m k else none := by
  induction m with
  | nil => simp [mget?]
  | cons x r ih =>
    obtain ⟨j, v⟩ := x
    by_cases hj : j < n
    · rw [List.filter_cons_of_pos (by simpa using hj), mget?, mget?, ih]
      by_cases hk : j = k
      · simp [hk, hk ▸ hj]
      · simp [hk]
    · rw [List.filter_cons_of_neg (by simpa using hj), ih, mget?]
      by_cases hk : j = k
      · simp [hk ▸ hj]
      · simp [hk]

theorem setVregs_keeps (f : Flight) (n k : Nat) (hk : k < min n f.vregs) : mgetD (setVregs f n).v k [] = mgetD f.v k [] := by
  rw [mgetD, setVregs, mget?_filter_lt, if_pos hk, mgetD]

theorem setVregs_drops (f : Flight) (n k : Nat) (hk : min n f.vregs ≤ k) : mget? (setVregs f n).v k = none := by
  rw [setVregs, mget?_filter_lt, if_neg (Nat.not_lt.2 hk)]

theorem badAlloc_iff (n : Nat) : badAlloc n = true ↔ ¬ (n % 8 = 0 ∧ 8 ≤ n ∧ n ≤ 192) := by
  simp only [badAlloc, Bool.or_eq_true, bne_iff_ne, ne_eq, decide_eq_true_eq]
  omega

/-- The stalled claims of a pool. -/
theorem mem_claims (s : State) (gid rank slot : Nat) (z : Nat × Nat × Nat × Nat) :
    z ∈ claims s gid rank slot ↔ ∃ j y h, (j, y) ∈ s.flights ∧ y.gid = gid ∧ y.rank = rank ∧ y.slot = slot ∧ h ∈ y.frags ∧
      ∃ n o, h.wait = .claim n o ∧ z = (j, h.num, n, o) := by
  simp only [claims, List.mem_flatten, List.mem_map, List.mem_filter, Bool.and_eq_true, beq_iff_eq]
  constructor
  · rintro ⟨_, ⟨⟨j, y⟩, ⟨hmem, ⟨hgid, hrank⟩, hslot⟩, rfl⟩, hz⟩
    obtain ⟨h, hh, hw⟩ := List.mem_filterMap.1 hz
    refine ⟨j, y, h, hmem, hgid, hrank, hslot, hh, ?_⟩
    split at hw
    next n o hwait => exact ⟨n, o, hwait, (Option.some.inj hw).symm⟩
    next => exact absurd hw (by simp)
  · rintro ⟨j, y, h, hmem, hgid, hrank, hslot, hh, n, o, hwait, rfl⟩
    refine ⟨_, ⟨(j, y), ⟨hmem, ⟨hgid, hrank⟩, hslot⟩, rfl⟩, List.mem_filterMap.2 ⟨h, hh, ?_⟩⟩
    rw [hwait]

theorem claims_empty_iff (s : State) (gid rank slot : Nat) : (claims s gid rank slot).isEmpty = true ↔
    ∀ j y h p q, (j, y) ∈ s.flights → y.gid = gid → y.rank = rank → y.slot = slot → h ∈ y.frags → h.wait ≠ .claim p q := by
  rw [List.isEmpty_iff, List.eq_nil_iff_forall_not_mem]
  constructor
  · intro hno j y h p q hmem hg hr hs hh hw
    exact hno (j, h.num, p, q) ((mem_claims _ _ _ _ _).2 ⟨j, y, h, hmem, hg, hr, hs, hh, p, q, hw, rfl⟩)
  · intro hno z hz
    obtain ⟨j, y, h, hmem, hg, hr, hs, hh, n, o, hw, -⟩ := (mem_claims _ _ _ _ _).1 hz
    exact hno j y h n o hmem hg hr hs hh hw

section
variable (s : State) (f : Flight) (g : Fragment) (d a : Opnd) (x : Gang) (hi : Issues s f g) (hu : Unwatched s f)
  (hm : MayName f g [(d, 1), (a, 1)]) (hx : gangOf s f = some x)

/-- The claim that `canClaim` grants: the pool serves it, and none stands before it. -/
theorem canClaim_iff (n : Nat) (hx : gangOf s f = some x) : canClaim (ctxOf s f g) n = true ↔
    (n - f.vregs) / 8 ≤ mgetD x.pools (poolKey f) 0 ∧
      ∀ j y h p q, (j, y) ∈ s.flights → y.gid = f.gid → y.rank = f.rank → y.slot = f.slot → h ∈ y.frags → h.wait ≠ .claim p q := by
  rw [← claims_empty_iff, canClaim, Bool.and_eq_true, decide_eq_true_eq]
  show (n - f.vregs) / 8 ≤ poolOf s f ∧ _ ↔ _
  rw [poolOf_eq s f x hx]
  exact Iff.rfl

/-- A change of the pool and of the allocation. -/
def redivided (n : Nat) (k : Nat → Nat) : Ctx := { ctxOf s f g with st := modPool s f k, f := setVregs f n }

include hi hu hx

/-- An instruction that redivides registers, and nothing else. -/
theorem goesOn_redivided (i : Instr) (n : Nat) (k : Nat → Nat) (he : exec i s = .next (retireNext (ctxOf s f g) (redivided s f g n k))) :
    GoesOn i s g f (g.pc + 8) fun t f' g' =>
      f'.vregs = n ∧ (∃ x', gangOf t f = some x' ∧ x' = { x with pools := mset x.pools (poolKey f) (k (mgetD x.pools (poolKey f) 0)) }) ∧
        (∀ j, j < min n f.vregs → mgetD f'.v j [] = mgetD f.v j []) ∧ (∀ j, min n f.vregs ≤ j → mget? f'.v j = none) ∧
        ScalarsSame f f' g g' ∧ MemorySame s t := by
  refine goesOn_retireNext i s f g (redivided s f g n k) _ hi hu.1 he rfl rfl rfl ⟨rfl, rfl, rfl, rfl⟩ ?_
  exact ⟨rfl, ⟨_, gangOf_modPool s f k x hx, rfl⟩, setVregs_keeps f n, setVregs_drops f n, fun _ => rfl, fun _ => rfl⟩

/-- An instruction that redivides registers and writes a scalar. -/
theorem goesOn_redivided_put (i : Instr) (n : Nat) (k : Nat → Nat) (w : Word) (hd : IsScalar d)
    (he : exec i s = .next (retireNext (ctxOf s f g) (putS (redivided s f g n k) d w))) :
    GoesOn i s g f (g.pc + 8) fun t f' g' =>
      (f'.vregs = n ∧ (∃ x', gangOf t f = some x' ∧ x' = { x with pools := mset x.pools (poolKey f) (k (mgetD x.pools (poolKey f) 0)) }) ∧
        (∀ j, j < min n f.vregs → mgetD f'.v j [] = mgetD f.v j []) ∧ (∀ j, min n f.vregs ≤ j → mget? f'.v j = none) ∧
        MemorySame s t) ∧ ScalarWrite f f' g g' d [w] := by
  obtain ⟨hst, -, hf, hg⟩ := putS_rest (redivided s f g n k) d w
  obtain ⟨c, hc⟩ : ∃ c, c = putS (redivided s f g n k) d w := ⟨_, rfl⟩
  rw [← hc] at he hst hf hg
  have hgang : gangOf (commit (settled (next c))) f = gangOf (modPool s f k) f := by
    show mget? c.st.gangs f.gid = _
    rw [hst]
    rfl
  refine goesOn_retireNext i s f g c _ hi (by rw [hf]; exact hu.1) he (by rw [hst]; rfl) (by rw [hst]; rfl) (by rw [hf]; rfl)
    (by rw [hg]; exact ⟨rfl, rfl, rfl, rfl⟩) ⟨⟨?_, ⟨_, hgang.trans (gangOf_modPool s f k x hx), rfl⟩, fun j hj => ?_, fun j hj => ?_, fun b => ?_⟩, ?_⟩
  · show c.f.vregs = n
    rw [hf]
    rfl
  · show mgetD c.f.v j [] = _
    rw [hf]
    exact setVregs_keeps f n j hj
  · show mget? c.f.v j = _
    rw [hf]
    exact setVregs_drops f n j hj
  · show readByte (commit (settled (next c))) b = _
    have : readByte (commit (settled (next c))) b = readByte c.st b := rfl
    rw [this, hst]
    rfl
  · have hput : puts (redivided s f g n k) d [w] = c := by rw [puts_one, opAdd_zero, hc]
    have hn : d.idx + [w].length ≤ d.cls.size := idx_lt_size d (isScalar_register d hd)
    exact scalarWrite_puts (redivided s f g n k) d [w] hd hn _ _ (by rw [hput]; rfl) (by rw [hput]; rfl) (by rw [hput]; rfl) (by rw [hput]; rfl)

end

/-- The oldest claim of a pool is that of a flight whose one fragment alone claims of it. -/
theorem leastBy_claims (s : State) (fid : Nat) (f : Flight) (g : Fragment) (n order : Nat) (hf : flight? s fid = some f)
    (hfr : f.frags = [g]) (hw : g.wait = .claim n order)
    (hothers : ∀ y ∈ s.flights, y.1 ≠ fid → ∀ h ∈ y.2.frags, ∀ p q, h.wait ≠ .claim p q) (hself : ∀ y ∈ s.flights, y.1 = fid → y.2 = f) :
    leastBy (fun x : Nat × Nat × Nat × Nat => x.2.2.2) (claims s f.gid f.rank f.slot) = some (fid, g.num, n, order) := by
  have hin : (fid, g.num, n, order) ∈ claims s f.gid f.rank f.slot :=
    (mem_claims _ _ _ _ _).2 ⟨fid, f, g, mem_of_mget? _ _ _ hf, rfl, rfl, rfl, by rw [hfr]; exact List.mem_singleton.2 rfl, n, order, hw, rfl⟩
  obtain ⟨z, hz, hmem, -⟩ := leastBy_some (fun x : Nat × Nat × Nat × Nat => x.2.2.2) _ (List.ne_nil_of_mem hin)
  obtain ⟨j, y, h, hfl, -, -, -, hh, n', o', hwait, rfl⟩ := (mem_claims _ _ _ _ _).1 hmem
  have hj : j = fid := by
    refine Classical.byContradiction fun hne => ?_
    exact hothers (j, y) hfl hne h hh n' o' hwait
  subst hj
  obtain rfl : y = f := hself (j, y) hfl rfl
  rw [hfr] at hh
  obtain rfl := List.mem_singleton.1 hh
  rw [hw] at hwait
  obtain ⟨rfl, rfl⟩ := Wait.claim.inj hwait
  exact hz

/-- A grant takes the granules and lets the fragment go on. -/
theorem regclaimGrant_acts (s : State) (fid : Nat) (f : Flight) (g : Fragment) (x : Gang) (n order : Nat) (hf : flight? s fid = some f)
    (hx : gangOf s f = some x) (hfr : f.frags = [g]) (hh : g.halted = false) (hs : g.stopped = false) (hsaved : isSaved s f = false)
    (hfrz : frozen s f.pid = false) (hn : f.vregs < n) (hpool : (n - f.vregs) / 8 ≤ mgetD x.pools (poolKey f) 0)
    (hleast : leastBy (fun x : Nat × Nat × Nat × Nat => x.2.2.2) (claims s f.gid f.rank f.slot) = some (fid, g.num, n, order)) :
    exec (.regclaimGrant f.gid f.rank f.slot) s =
      .next (modFrag (modFlight (modPool s f (· - (n - f.vregs) / 8)) fid fun f => setVregs f n) fid g.num fun g =>
        { g with wait := .run, pc := g.pc + 8 }) := by
  have hfrag : frag? f g.num = some g := by
    rw [frag?, hfr]
    simp
  have hopen : openClaim s (fid, g.num, n, order) = true := by
    simp only [openClaim, hf, Option.bind_some, hfrag, Option.elim_some, hh, hs]
    rfl
  have hgo : ¬ (decide (poolOf s f < (n - f.vregs) / 8) || !openClaim s (fid, g.num, n, order) || isSaved s f || frozen s f.pid) = true := by
    rw [poolOf_eq s f x hx, hopen, hsaved, hfrz, decide_eq_false (Nat.not_lt.2 hpool)]
    decide
  show execRegclaimGrant f.gid f.rank f.slot s = _
  simp only [execRegclaimGrant, hleast, hf, if_neg hgo, if_neg (Nat.not_le.2 hn)]

/-- The grant leaves memory, and every other flight, as they were; the claiming flight holds its new registers. -/
theorem granted_flight (s : State) (fid : Nat) (f : Flight) (g : Fragment) (n : Nat) (k : Nat → Nat) (hf : flight? s fid = some f)
    (hfr : f.frags = [g]) :
    flight? (modFrag (modFlight (modPool s f k) fid fun f => setVregs f n) fid g.num fun g => { g with wait := .run, pc := g.pc + 8 }) fid =
      some { setVregs f n with frags := [{ g with wait := .run, pc := g.pc + 8 }] } := by
  have hpool : flight? (modPool s f k) fid = some f := hf
  rw [modFrag, flight?_modFlight, if_pos rfl, flight?_modFlight, if_pos rfl, hpool]
  simp only [Option.map_some, setVregs, hfr, List.map_cons, List.map_nil, beq_self_eq_true, if_true]

/-- Settles O23: the instructions by `goesOn_redivided` and `goesOn_redivided_put`, the grant by `regclaimGrant_acts`. -/
theorem registerRedivision : Obligations.RegisterRedivision := by
  refine ⟨?_, ?_⟩
  · intro s f g d a x hi hu hm hd hx n key pool bad free takes
    have hm1 : MayName f g [(a, 1)] := mayName_subset f g _ _ hm (by simp)
    have hgive := (exec_reggive a s).trans (issue_acts _ _ _ s f g hi hm1 (by simp))
    have hclaim := (exec_regclaim a s).trans (issue_acts _ _ _ s f g hi hm1 (by simp))
    have htry := (exec_regclaimTry d a s).trans (issue_acts _ _ _ s f g hi hm (by simp))
    have hbad : badAlloc n = true ↔ bad := badAlloc_iff n
    have hfree : canClaim (ctxOf s f g) n = true ↔ free := canClaim_iff s f g x n hx
    have hgood (h : ¬ bad) : ¬ badAlloc n = true := fun hb => h (hbad.1 hb)
    have moves (i : Instr) (he : exec i s = .next (retireNext (ctxOf s f g) (ctxOf s f g))) : OnlyMoves i s f g (g.pc + 8) :=
      onlyMoves_of i s f g _ hi hu he
    refine ⟨fun hb => ⟨?_, ?_, ?_⟩, fun hb hn => ?_, fun hb hn h1 h2 h3 h4 => ?_, fun hb hn => ⟨?_, ?_⟩, fun hb hn hf => ⟨?_, ?_⟩,
      fun hb hn hf => ⟨?_, ?_⟩⟩
    · exact hgive.trans (congrArg _ (if_pos (hbad.2 hb)))
    · exact hclaim.trans (congrArg _ (if_pos (hbad.2 hb)))
    · exact htry.trans (congrArg _ (if_pos (hbad.2 hb)))
    · exact moves _ (hgive.trans (congrArg _ ((if_neg (hgood hb)).trans (if_pos hn))))
    · have hquiet : ¬ (anyCount f .ld || anyCount f .sfu || anyCount f .acc || readsRegs s f s.cur.1) = true := by
        rw [h1, h2, h3, h4]
        decide
      have hmin : min n f.vregs = n := Nat.min_eq_left (Nat.le_of_lt hn)
      have key := goesOn_redivided s f g x hi hu hx (.reggive a) n (· + (f.vregs - n) / 8)
        (hgive.trans (congrArg _ ((if_neg (hgood hb)).trans ((if_neg (Nat.not_le.2 hn)).trans (if_neg hquiet)))))
      rw [hmin] at key
      exact key
    · exact moves _ (hclaim.trans (congrArg _ ((if_neg (hgood hb)).trans (if_pos hn))))
    · exact setsScalar_of _ s f g d 1 hi hu hd (htry.trans (congrArg _ ((if_neg (hgood hb)).trans (if_pos hn))))
    · have hmin : min n f.vregs = f.vregs := Nat.min_eq_right (Nat.le_of_lt hn)
      have key := goesOn_redivided s f g x hi hu hx (.regclaim a) n (· - (n - f.vregs) / 8)
        (hclaim.trans (congrArg _ ((if_neg (hgood hb)).trans ((if_neg (Nat.not_le.2 hn)).trans (if_pos (hfree.2 hf))))))
      rw [hmin] at key
      obtain ⟨t, f', g', he, hff, hfg, hsib, hothers, hpc, hwait, howned, hlevel, hval⟩ := key
      obtain ⟨hv, hgang, hkeep, hdrop, hsc, hmem⟩ := hval
      exact ⟨t, f', g', he, hff, hfg, hsib, hothers, hpc, hwait, howned, hlevel, ⟨hv, hgang, hkeep, hdrop, hmem⟩, hsc⟩
    · have hmin : min n f.vregs = f.vregs := Nat.min_eq_right (Nat.le_of_lt hn)
      have key := goesOn_redivided_put s f g d x hi hu hx (.regclaimTry d a) n (· - (n - f.vregs) / 8) 1 hd
        (htry.trans (congrArg _ ((if_neg (hgood hb)).trans ((if_neg (Nat.not_le.2 hn)).trans (if_pos (hfree.2 hf))))))
      rw [hmin] at key
      exact key
    · exact setsScalar_of _ s f g d 0 hi hu hd
        (htry.trans (congrArg _ ((if_neg (hgood hb)).trans ((if_neg (Nat.not_le.2 hn)).trans (if_neg fun hc => hf (hfree.1 hc))))))
    · have hrun := hclaim.trans (congrArg _ ((if_neg (hgood hb)).trans ((if_neg (Nat.not_le.2 hn)).trans (if_neg fun hc => hf (hfree.1 hc)))))
      obtain ⟨hflight, hfrag, -, -⟩ := commit_leaves s f g
        { ctxOf s f g with st := { s with nextId := s.nextId + 1 }, g := { g with wait := .claim n s.nextId } } hi rfl rfl rfl
      exact ⟨_, _, _, hrun, hflight, hfrag, rfl, rfl, rfl, hx⟩
  · intro s fid f g x n order hf hx hfr hw hh hs hsaved hfrz hothers hself hnodup hn hpool
    have hrun := regclaimGrant_acts s fid f g x n order hf hx hfr hh hs hsaved hfrz hn hpool
      (leastBy_claims s fid f g n order hf hfr hw hothers hself)
    refine ⟨_, _, _, hrun, granted_flight s fid f g n _ hf hfr, rfl, rfl, rfl, rfl,
      fun k hk => setVregs_keeps f n k (by omega), fun k hk => setVregs_drops f n k (by omega), fun _ => rfl,
      ⟨_, (rfl : gangOf _ f = gangOf (modPool s f (· - (n - f.vregs) / 8)) f).trans (gangOf_modPool s f _ x hx), rfl⟩, fun k hk => ?_⟩
    rw [modFrag, flight?_modFlight, if_neg hk, flight?_modFlight, if_neg hk]
    rfl

end Sys2Proof.Machine
end

section
/-!
SUPPORT. Barrier objects (05 R116-R121).
-/
namespace Sys2Proof.Machine

theorem writeBytes_unmonitored (s : State) (a : Nat) (bs : List Byte) (h : Unmonitored s a bs.length) :
    writeBytes s a bs = { s with
      mem := putBytes s.mem a bs, undef := cut s.undef a (a + bs.length), outbox := s.outbox ++ forwardMsgs s.forwards a bs } := by
  refine alert_quiet _ _ _ _ ?_
  rw [List.any_eq_false]
  exact fun q hq => by rw [h q hq]; exact Bool.false_ne_true

/-- A map over cells that changes none of their values. -/
theorem mmap_same {β : Type} (m : Cells β) (k : Nat → β → β) (h : ∀ x ∈ m, k x.1 x.2 = x.2) : mmap m k = m := by
  rw [mmap]
  refine (List.map_congr_left (g := id) fun x hx => ?_).trans (List.map_id m)
  rw [h x hx]
  rfl

theorem fireArms_none (es : Cells Engine) (o : Nat) (h : ∀ e ∈ es, ∀ a ∈ e.2.arms, a.trig ≠ o) : fireArms es o = (es, []) := by
  have hlate : (es.map fun e => e.2.arms.filter fun a => a.trig == o && a.every && 4 ≤ a.queued).flatten = [] := by
    rw [List.flatten_eq_nil_iff]
    intro l hl
    obtain ⟨e, he, rfl⟩ := List.mem_map.1 hl
    exact List.filter_eq_nil_iff.2 fun a ha => by simp [h e he a ha]
  have hsame : (mmap es fun _ e => { e with arms := e.arms.map fun a =>
      if a.trig == o && a.queued < (if a.every then 4 else 1) then { a with queued := a.queued + 1 } else a }) = es := by
    refine mmap_same es _ fun e he => ?_
    have harms : (e.2.arms.map fun a =>
        if a.trig == o && a.queued < (if a.every then 4 else 1) then { a with queued := a.queued + 1 } else a) = e.2.arms := by
      refine (List.map_congr_left (g := id) fun a ha => ?_).trans (List.map_id e.2.arms)
      rw [beq_false_of_ne (h e he a ha), Bool.false_and]
      rfl
    rw [harms]
  simp only [fireArms, hlate, hsame]

/-- No register of an LCONA waits for the object. -/
theorem dropRead_none (fs : Cells Flight) (o : Nat) (h : ∀ x ∈ fs, ∀ a ∈ x.2.asyncR, a.obj ≠ o) :
    (mmap fs fun _ f => { f with asyncR := f.asyncR.filter fun a => !(a.fin && a.obj == o) }) = fs := by
  refine mmap_same fs _ fun x hx => ?_
  have hall : (x.2.asyncR.filter fun a => !(a.fin && a.obj == o)) = x.2.asyncR :=
    List.filter_eq_self.2 fun a ha => by rw [beq_false_of_ne (h x hx a ha), Bool.and_false]; rfl
  rw [hall]

/-- A successful update of an object that nothing waits for writes the object, and may end operations. -/
theorem boUpdate_counts (s : State) (o eb ab n : Nat) (hroom : readNat s (o + 10) 2 + n ≤ readNat s (o + 8) 2) (hw : NoWaiters s o) :
    ∃ ws, boUpdate s o eb ab n =
      ⟨{ writeBytes s o (updatedObject s o eb ab n) with work := ws }, false, bitOf (readNat s (o + 12) 4) 0, []⟩ := by
  obtain ⟨harm, hread⟩ := hw
  have hno : ¬ readNat s (o + 8) 2 < readNat s (o + 10) 2 + n := Nat.not_lt.2 hroom
  by_cases hflip : readNat s (o + 10) 2 + n = readNat s (o + 8) 2 ∧
      (readNat s (o + 4) 4 + ab) % 2 ^ 32 = (readNat s o 4 + eb) % 2 ^ 32
  · have hb : (readNat s (o + 10) 2 + n == readNat s (o + 8) 2 &&
        (readNat s (o + 4) 4 + ab) % 2 ^ 32 == (readNat s o 4 + eb) % 2 ^ 32) = true := by
      rw [Bool.and_eq_true, beq_iff_eq, beq_iff_eq]
      exact hflip
    refine ⟨reportWork s.work o, ?_⟩
    simp only [boUpdate, updatedObject, if_neg hno, hb, if_true, if_pos hflip, writeBytes_engines, writeBytes_work, fireArms_none _ _ harm,
      List.isEmpty_nil]
    have hfl (bs : List Byte) := dropRead_none (writeBytes s o bs).flights o (by rw [writeBytes_flights]; exact hread)
    have heng (bs : List Byte) : (writeBytes s o bs).engines = s.engines := writeBytes_engines s o bs
    simp only [hfl, ← heng (objectBytes 0 0 (readNat s (o + 8) 2) 0 (readNat s (o + 12) 4 ^^^ 1))]
    rfl
  · have hb : (readNat s (o + 10) 2 + n == readNat s (o + 8) 2 &&
        (readNat s (o + 4) 4 + ab) % 2 ^ 32 == (readNat s o 4 + eb) % 2 ^ 32) = false := by
      rw [Bool.and_eq_false_iff, beq_eq_false_iff_ne, beq_eq_false_iff_ne]
      exact Classical.not_and_iff_not_or_not.1 hflip
    refine ⟨(writeBytes s o (updatedObject s o eb ab n)).work, ?_⟩
    simp only [boUpdate, updatedObject, if_neg hno, hb, Bool.false_eq_true, if_false, if_neg hflip]
    rfl

theorem boUpdate_overflows (s : State) (o eb ab n : Nat) (h : ¬ readNat s (o + 10) 2 + n ≤ readNat s (o + 8) 2) :
    boUpdate s o eb ab n = ⟨boSet s o 4, true, bitOf (readNat s (o + 12) 4) 0, []⟩ := by
  simp only [boUpdate, if_pos (Nat.lt_of_not_le h)]

theorem boPhase_eq (s : State) (o : Nat) : boPhase s o = decide (readNat s (o + 12) 4 % 2 = 1) := by
  rw [boPhase, bitOf, Nat.pow_zero, Nat.div_one, beq_eq_decide]

theorem boFault_iff (s : State) (o : Nat) : boFault s o = true ↔ readNat s (o + 12) 4 / 2 % 2 = 1 := by
  rw [boFault, bitOf, Nat.pow_one, beq_iff_eq]

theorem length_objectBytes (expb arrb expv arrv ctl : Nat) : (objectBytes expb arrb expv arrv ctl).length = 16 := by
  simp [objectBytes, bytesOfNat]

theorem length_updatedObject (s : State) (o eb ab n : Nat) : (updatedObject s o eb ab n).length = 16 := by
  simp only [updatedObject]
  split <;> exact length_objectBytes _ _ _ _ _

section
variable (s : State) (f : Flight) (g : Fragment) (a : Opnd) (o : Nat) (hi : Issues s f g) (hu : Unwatched s f)
  (hk : objKey s f.pid f.core (srcS2 (ctxOf s f g) a) = .inr o) (hbusy : objBusy (ctxOf s f g) o = false)
  (hopen : openFor f g.owned = false) (hpoison : poisonedIn s o 16 = false)

include hi hk hbusy hopen hpoison

/-- An instruction on an object, past the checks of its address and its order. -/
theorem objIssue_acts (ops : List (Opnd × Nat)) (rel : Bool) (act : Ctx → DWord → Nat → State) (hm : MayName f g (ops ++ [(a, 2)])) :
    objIssue ops a rel act s = .next (act (ctxOf s f g) (srcS2 (ctxOf s f g) a) o) := by
  rw [objIssue, issue_acts _ _ _ s f g hi hm (by simp)]
  have hkey : objKey (ctxOf s f g).st (ctxOf s f g).f.pid (ctxOf s f g).f.core (srcS2 (ctxOf s f g) a) = .inr o := hk
  have hgo : (objBusy (ctxOf s f g) o || (rel && openFor (ctxOf s f g).f (ctxOf s f g).g.owned)) = false := by
    rw [hbusy, show openFor (ctxOf s f g).f (ctxOf s f g).g.owned = false from hopen, Bool.and_false]
    rfl
  have hclean : poisonedIn (ctxOf s f g).st o 16 = false := hpoison
  simp only [hkey, hgo, hclean, Bool.false_eq_true, if_false]

end

/-- The state of an update: what it wrote, and the operations that have ended. -/
def objectState (s : State) (o : Nat) (bs : List Byte) (ws : List Work) : State := { writeBytes s o bs with work := ws }

section
variable (s : State) (f : Flight) (g : Fragment) (o : Nat) (bs : List Byte) (ws : List Work) (hi : Issues s f g) (hu : Unwatched s f)
  (hq : Unmonitored s o bs.length)

include hq in
theorem objectState_eq : objectState s o bs ws = { s with
    mem := putBytes s.mem o bs, undef := cut s.undef o (o + bs.length), outbox := s.outbox ++ forwardMsgs s.forwards o bs, work := ws } := by
  rw [objectState, writeBytes_unmonitored s o bs hq]

include hi hu hq

/-- An instruction that writes an object goes on, and writes no register. -/
theorem goesOn_object (i : Instr) (he : exec i s = .next (retireNext (ctxOf s f g) (ctxOf (objectState s o bs ws) f g))) :
    GoesOn i s g f (g.pc + 8) fun t f' g' => NoRegister s t f f' g g' ∧
      (t = { s with flights := t.flights, mem := t.mem, undef := t.undef, outbox := t.outbox, work := t.work } ∧
        MemorySame (writeBytes s o bs) t) := by
  have hmem : MemorySame (writeBytes s o bs) (objectState s o bs ws) := fun _ => rfl
  obtain ⟨s1, hs1⟩ : ∃ s1, s1 = objectState s o bs ws := ⟨_, rfl⟩
  rw [← hs1] at he hmem
  have hs := hs1.trans (objectState_eq s o bs ws hq)
  refine goesOn_retireNext i s f g (ctxOf s1 f g) _ hi ?_ he (by rw [hs]; rfl) (by rw [hs]; rfl) rfl ⟨rfl, rfl, rfl, rfl⟩
    ⟨noRegister_of _ _ _ _ _ _ rfl rfl rfl rfl (by rw [hs]; rfl) rfl rfl rfl rfl rfl, by rw [hs]; rfl, fun b => hmem b⟩
  exact hu.1

/-- An instruction that writes an object and a scalar. -/
theorem goesOn_object_put (i : Instr) (d : Opnd) (w : Word) (hd : IsScalar d)
    (he : exec i s = .next (retireNext (ctxOf s f g) (putS (ctxOf (objectState s o bs ws) f g) d w))) :
    GoesOn i s g f (g.pc + 8) fun t f' g' => ScalarWrite f f' g g' d [w] ∧ VectorsSame s t f f' ∧ f'.lflags = f.lflags ∧
      (t = { s with flights := t.flights, mem := t.mem, undef := t.undef, outbox := t.outbox, work := t.work } ∧
        MemorySame (writeBytes s o bs) t) := by
  have hmem : MemorySame (writeBytes s o bs) (objectState s o bs ws) := fun _ => rfl
  obtain ⟨s1, hs1⟩ : ∃ s1, s1 = objectState s o bs ws := ⟨_, rfl⟩
  rw [← hs1] at he hmem
  have hs := hs1.trans (objectState_eq s o bs ws hq)
  obtain ⟨hst, -, hf, hg⟩ := putS_rest (ctxOf s1 f g) d w
  obtain ⟨c, hc⟩ : ∃ c, c = putS (ctxOf s1 f g) d w := ⟨_, rfl⟩
  rw [← hc] at he hst hf hg
  have hst' : c.st = s1 := hst
  refine goesOn_retireNext i s f g c _ hi (by rw [hf]; exact hu.1) he (by rw [hst', hs]) (by rw [hst', hs]) (by rw [hf]; rfl)
    (by rw [hg]; exact ⟨rfl, rfl, rfl, rfl⟩) ⟨?_, fun n l => getV_same _ _ _ _ _ _ ?_ ?_ ?_, ?_, ?_, fun b => ?_⟩
  · have hput : puts (ctxOf s1 f g) d [w] = c := by rw [puts_one, opAdd_zero, hc]
    exact scalarWrite_puts (ctxOf s1 f g) d [w] hd (idx_lt_size d (isScalar_register d hd)) _ _ (by rw [hput]; rfl) (by rw [hput]; rfl)
      (by rw [hput]; rfl) (by rw [hput]; rfl)
  · show c.f.v = f.v
    rw [hf]; rfl
  · show c.f.asyncR = f.asyncR
    rw [hf]; rfl
  · show c.st.free = s.free
    rw [hst', hs]
  · show c.f.lflags = f.lflags
    rw [hf]; rfl
  · have hcommit : commit (settled (next c)) = { c.st with flights := (commit (settled (next c))).flights } := rfl
    rw [hcommit, hst', hs]
  · have hread : readByte (commit (settled (next c))) b = readByte c.st b := rfl
    rw [hread, hst']
    exact hmem b

end

theorem flag_put (ph : Bool) : (if ph then 1 else 0 : Word) = if ph = true then 1 else 0 := rfl

section
variable (s : State) (f : Flight) (g : Fragment) (o : Nat) (hi : Issues s f g) (hu : Unwatched s f) (hw : NoWaiters s o)
  (hstill : storeOpen s (some (s.cur.1, g.num)) o = false)

include hstill in
theorem racedObj_still : racedObj (ctxOf s f g).st (some ((ctxOf s f g).st.cur.1, (ctxOf s f g).g.num)) o = s := by
  rw [racedObj, show storeOpen (ctxOf s f g).st (some ((ctxOf s f g).st.cur.1, (ctxOf s f g).g.num)) o = false from hstill]
  rfl

include hstill in
theorem objUpdate_overflows (va : DWord) (eb n : Nat) (put : Ctx → Bool → Ctx)
    (h : ¬ readNat s (o + 10) 2 + n ≤ readNat s (o + 8) 2) :
    objUpdate (ctxOf s f g) va o eb n put =
      takeTrap (writeNat s (o + 12) 4 (readNat s (o + 12) 4 ||| 4)) s.cur.1 g.num ⟨0x0D, 0, 0, g.pc, none, va, 0, 0, none⟩ f.afMore := by
  rw [objUpdate, racedObj_still s f g o hstill, boUpdate_overflows s o eb 0 n h]
  have hcur : (boSet s o 4).cur = s.cur := writeBytes_cur _ _ _
  simp only [if_true, faultAt, trapNow, hcur]
  rfl

include hi hw hstill in
theorem objUpdate_counts (va : DWord) (eb n : Nat) (put : Ctx → Bool → Ctx) (h : readNat s (o + 10) 2 + n ≤ readNat s (o + 8) 2) :
    ∃ ws, objUpdate (ctxOf s f g) va o eb n put =
      retireNext (ctxOf s f g) (put (ctxOf (objectState s o (updatedObject s o eb 0 n) ws) f g) (boPhase s o)) := by
  obtain ⟨ws, hup⟩ := boUpdate_counts s o eb 0 n h hw
  have hissue : Issues (objectState s o (updatedObject s o eb 0 n) ws) f g := by
    obtain ⟨hf, hg⟩ := hi
    have hcur : (objectState s o (updatedObject s o eb 0 n) ws).cur = s.cur := writeBytes_cur _ _ _
    have hfl : (objectState s o (updatedObject s o eb 0 n) ws).flights = s.flights := writeBytes_flights _ _ _
    exact ⟨by rw [flight?, hfl, hcur]; exact hf, by rw [hcur]; exact hg⟩
  have hreload : reload (ctxOf s f g) (objectState s o (updatedObject s o eb 0 n) ws) =
      ctxOf (objectState s o (updatedObject s o eb 0 n) ws) f g := by
    rw [reload, issuer?_eq _ f g hissue]
    rfl
  refine ⟨ws, ?_⟩
  rw [objUpdate, racedObj_still s f g o hstill, hup]
  simp only [Bool.false_eq_true, if_false, lateFirings, List.foldl_nil]
  rw [show ({ writeBytes s o (updatedObject s o eb 0 n) with work := ws } : State) = objectState s o (updatedObject s o eb 0 n) ws from rfl,
    hreload]
  rfl

end

theorem dropCache_cur (s : State) (c : Nat) : (dropCache s c).cur = s.cur := by rw [dropCache_eq]

theorem dropCache_flights (s : State) (c : Nat) : (dropCache s c).flights = s.flights := by rw [dropCache_eq]

theorem dropCache_free (s : State) (c : Nat) : (dropCache s c).free = s.free := by rw [dropCache_eq]

/-- The instruction of a fragment that finds its object flipped drops the load cache (04 R99). -/
theorem dropped_retired (s : State) (f : Flight) (c : Ctx) (hc : c.st = dropCache s f.core) :
    MemorySame s (commit c) ∧ (Machine.core (commit c) f.core).lcache = [] ∧
      ∀ k, k ≠ f.core → Machine.core (commit c) k = Machine.core s k := by
  have hcore (k : Nat) : Machine.core (commit c) k = Machine.core (dropCache s f.core) k := by rw [← hc]; rfl
  refine ⟨fun a => ?_, ?_, fun k hk => ?_⟩
  · rw [readByte_commit, hc, readByte_dropCache]
  · rw [hcore, dropCache_lcache]
  · rw [hcore, core_dropCache_ne s f.core k hk]

/-- What wakes at an object (05 R121): its flight as the one that acts. -/
theorem ctxAt_eq (s : State) (fid n : Nat) (f : Flight) (g : Fragment) (hf : flight? s fid = some f) (hg : frag? f n = some g) :
    Issues { s with cur := (fid, n) } f g ∧ ctxAt s fid n = some (ctxOf { s with cur := (fid, n) } f g) :=
  ⟨⟨hf, hg⟩, issuer?_eq _ f g ⟨hf, hg⟩⟩

/-- A change of a fragment that keeps its number. -/
theorem modFrag_leaves (s : State) (fid n : Nat) (f : Flight) (g : Fragment) (k : Fragment → Fragment) (hf : flight? s fid = some f)
    (hg : frag? f n = some g) (hk : ∀ h, (k h).num = h.num) :
    ∃ f', flight? (modFrag s fid n k) fid = some f' ∧ f' = { f with frags := f'.frags } ∧ frag? f' n = some (k g) ∧ Siblings f f' g ∧
      ∀ j, j ≠ fid → flight? (modFrag s fid n k) j = flight? s j := by
  have hnum : g.num = n := by simpa using List.find?_some hg
  have hfind (m : Nat) := find?_modFrag f.frags n m k fun h _ _ => hk h
  refine ⟨_, by rw [modFrag, flight?_modFlight, if_pos rfl, hf]; rfl, rfl, ?_, fun m hm => ?_, fun j hj => ?_⟩
  · refine (hfind n).trans ?_
    rw [show f.frags.find? (fun h => h.num == n) = some g from hg]
    simp
  · refine (hfind m).trans ?_
    rw [hnum] at hm
    simp only [if_neg hm, frag?]
    exact Option.map_id'
  · rw [modFrag, flight?_modFlight, if_neg hj]

/-- Settles O39: an update through `boUpdate_counts`, a wait by the phase. -/
theorem barrierObjects : Obligations.BarrierObjects := by
  refine ⟨?_, ?_⟩
  · intro s f g d a b sc o hi hu hm hd c va n ph flt room holds overflows dropped still hk hbusy hopen hpoison hw hq
    have acts := objIssue_acts s f g a o hi hk hbusy hopen hpoison
    have hm0 : MayName f g ([] ++ [(a, 2)]) := mayName_subset f g _ _ hm (by simp)
    have hmb : MayName f g ([(b, 1)] ++ [(a, 2)]) := mayName_subset f g _ _ hm (by simp)
    have hmd : MayName f g (optGroup (some d) ++ [(a, 2)]) := mayName_subset f g _ _ hm (by simp [optGroup])
    have hmt : MayName f g ([(d, 1), (b, 1)] ++ [(a, 2)]) := hm
    have hlen (eb k : Nat) : Unmonitored s o (updatedObject s o eb 0 k).length := by rw [length_updatedObject]; exact hq
    have hphase : boPhase s o = ph := boPhase_eq s o
    have hflt : boFault s o = true ↔ flt := boFault_iff s o
    have hinit := (exec_boinit a b s).trans (acts [(b, 1)] false _ hmb)
    have hwait := (exec_bowait sc a b s).trans (acts [(b, 1)] false _ hmb)
    have htry := (exec_botry sc d a b s).trans (acts [(d, 1), (b, 1)] false _ hmt)
    have hodd : (srcS c b).getLsbD 0 = decide (n % 2 = 1) := by
      rw [← BitVec.testBit_toNat, Nat.testBit_zero]
    refine ⟨fun hn => ?_, fun h1 h2 => ?_, fun arr => ⟨fun hr hs => ?_, fun hr hs => ?_⟩, fun lanes => ⟨fun hr hs => ⟨?_, ?_⟩, fun hr hs => ⟨?_, ?_⟩⟩,
      fun hfl => ⟨?_, ?_⟩, fun hfl hp => ⟨?_, ?_⟩, fun hfl hp => ⟨?_, ?_⟩⟩
    · have hbad : (n == 0 || decide (65535 < n)) = true := by
        rw [Bool.or_eq_true, beq_iff_eq, decide_eq_true_eq]
        exact hn
      exact hinit.trans (congrArg _ (if_pos hbad))
    · have hgood : ¬ (n == 0 || decide (65535 < n)) = true := by
        rw [Bool.or_eq_true, beq_iff_eq, decide_eq_true_eq]
        omega
      exact goesOn_object s f g o (objectBytes 0 0 n 0 0) (writeBytes s o (objectBytes 0 0 n 0 0)).work hi hu (by rw [length_objectBytes]; exact hq) _
        ((hinit.trans (congrArg _ (if_neg hgood))).trans rfl)
    · exact ((exec_boexp arr sc a b s).trans (acts [(b, 1)] arr _ hmb)).trans
        (congrArg _ (objUpdate_overflows s f g o hs va n _ _ hr))
    · obtain ⟨ws, hrun⟩ := objUpdate_counts s f g o hi hw hs va n _ (fun c _ => c) hr
      exact goesOn_object s f g o _ ws hi hu (hlen _ _) _
        (((exec_boexp arr sc a b s).trans (acts [(b, 1)] arr _ hmb)).trans (congrArg _ hrun))
    · exact ((exec_boarr lanes sc none a s).trans (acts [] true _ hm0)).trans
        (congrArg _ (objUpdate_overflows s f g o hs va 0 _ _ hr))
    · exact ((exec_boarr lanes sc (some d) a s).trans (acts (optGroup (some d)) true _ hmd)).trans
        (congrArg _ (objUpdate_overflows s f g o hs va 0 _ _ hr))
    · obtain ⟨ws, hrun⟩ := objUpdate_counts s f g o hi hw hs va 0 _ (fun c _ => c) hr
      exact goesOn_object s f g o _ ws hi hu (hlen _ _) _
        (((exec_boarr lanes sc none a s).trans (acts [] true _ hm0)).trans (congrArg _ hrun))
    · obtain ⟨ws, hrun⟩ := objUpdate_counts s f g o hi hw hs va 0 _ (fun c p => putS c d (if p then 1 else 0)) hr
      rw [hphase] at hrun
      exact goesOn_object_put s f g o _ ws hi hu (hlen _ _) _ d _ hd
        (((exec_boarr lanes sc (some d) a s).trans (acts (optGroup (some d)) true _ hmd)).trans (congrArg _ hrun))
    · exact hwait.trans (congrArg _ (if_pos (hflt.2 hfl)))
    · exact htry.trans (congrArg _ (if_pos (hflt.2 hfl)))
    · have hgo : ¬ boFault s o = true := fun h => hfl (hflt.1 h)
      have hturn : (boPhase s o != (srcS c b).getLsbD 0) = true := by
        rw [hphase, hodd, bne_iff_ne]
        exact hp
      have hrun := hwait.trans (congrArg _ ((if_neg hgo).trans (if_pos hturn)))
      refine goesOn_retireNext _ s f g { ctxOf s f g with st := dropCache s f.core } _ hi hu.1 hrun (by rw [dropCache_eq])
        (by rw [dropCache_eq]) rfl ⟨rfl, rfl, rfl, rfl⟩ ⟨noRegister_of _ _ _ _ _ _ rfl rfl rfl rfl ?_ rfl rfl rfl rfl rfl, ?_⟩
      · show (dropCache s f.core).free = s.free
        rw [dropCache_eq]
      · exact dropped_retired s f _ rfl
    · have hgo : ¬ boFault s o = true := fun h => hfl (hflt.1 h)
      have hturn : (boPhase s o != (srcS c b).getLsbD 0) = true := by
        rw [hphase, hodd, bne_iff_ne]
        exact hp
      have hrun := htry.trans (congrArg _ ((if_neg hgo).trans (if_pos hturn)))
      obtain ⟨x, hx⟩ : ∃ x, x = putS { ctxOf s f g with st := dropCache s f.core } d 1 := ⟨_, rfl⟩
      obtain ⟨hst, -, hf, hg⟩ := putS_rest { ctxOf s f g with st := dropCache s f.core } d 1
      rw [← hx] at hst hf hg
      have hrun' : exec (.botry sc d a b) s = .next (retireNext (ctxOf s f g) x) := by rw [hx]; exact hrun
      refine goesOn_retireNext _ s f g x _ hi (by rw [hf]; exact hu.1) hrun' (by rw [hst]; exact dropCache_cur s f.core)
        (by rw [hst]; exact dropCache_flights s f.core) (by rw [hf]; rfl) (by rw [hg]; exact ⟨rfl, rfl, rfl, rfl⟩)
        ⟨?_, fun n l => getV_same _ _ _ _ _ _ ?_ ?_ ?_, ?_, dropped_retired s f _ hst⟩
      · have hput : puts { ctxOf s f g with st := dropCache s f.core } d [1] = x := by rw [puts_one, opAdd_zero, hx]
        exact scalarWrite_puts { ctxOf s f g with st := dropCache s f.core } d [1] hd (idx_lt_size d (isScalar_register d hd)) _ _
          (by rw [hput]; rfl) (by rw [hput]; rfl) (by rw [hput]; rfl) (by rw [hput]; rfl)
      · show x.f.v = f.v
        rw [hf]; rfl
      · show x.f.asyncR = f.asyncR
        rw [hf]; rfl
      · show x.st.free = s.free
        rw [hst]
        exact dropCache_free s f.core
      · show x.f.lflags = f.lflags
        rw [hf]; rfl
    · have hgo : ¬ boFault s o = true := fun h => hfl (hflt.1 h)
      have hturn : ¬ (boPhase s o != (srcS c b).getLsbD 0) = true := by
        rw [hphase, hodd, bne_iff_ne]
        exact fun h => h hp
      exact setsScalar_of _ s f g d 0 hi hu hd (htry.trans (congrArg _ ((if_neg hgo).trans (if_neg hturn))))
    · have hgo : ¬ boFault s o = true := fun h => hfl (hflt.1 h)
      have hturn : ¬ (boPhase s o != (srcS c b).getLsbD 0) = true := by
        rw [hphase, hodd, bne_iff_ne]
        exact fun h => h hp
      have hrun := hwait.trans (congrArg _ ((if_neg hgo).trans (if_neg hturn)))
      rw [hodd, ← hp] at hrun
      obtain ⟨h1, h2, h3, h4⟩ := commit_leaves s f g { ctxOf s f g with g := { g with wait := .bowait va o ph sc } } hi rfl rfl rfl
      exact ⟨_, _, hrun, rfl, h1, h2, h3, rfl, rfl, h4⟩
  · intro s fid n o f g va p sc hf hg hw hmove hh hs hlevels hpoison ph flt
    obtain ⟨hi, hctx⟩ := ctxAt_eq s fid n f g hf hg
    have hflt : boFault s o = true ↔ flt := boFault_iff s o
    have hphase : boPhase s o = ph := boPhase_eq s o
    have hquiet : (!moving s f || g.halted || g.stopped || (f.frags.any fun g => g.num != n && g.level != 0)) = false := by
      have hany : (f.frags.any fun g => g.num != n && g.level != 0) = false := by
        rw [List.any_eq_false]
        intro h hmem hb
        rw [Bool.and_eq_true, bne_iff_ne, bne_iff_ne] at hb
        exact hb.2 (hlevels h hmem hb.1)
      rw [hmove, hh, hs, hany]
      rfl
    have hrun : exec (.bowaitWake fid n) s =
        if boFault s o || poisonedIn s o 16 then .next (modFrag s fid n fun g => { g with wait := .run })
        else if boPhase s o != p then .next (back s (commit (settled (next
          { ctxOf { s with cur := (fid, n) } f g with st := dropCache { s with cur := (fid, n) } f.core }))))
        else .next s := by
      rw [exec_bowaitWake, execBowaitWake, hctx]
      have hwait : (ctxOf { s with cur := (fid, n) } f g).g.wait = .bowait va o p sc := hw
      simp only [hwait]
      rw [if_neg (by rw [show (!moving s (ctxOf { s with cur := (fid, n) } f g).f || (ctxOf { s with cur := (fid, n) } f g).g.halted ||
        (ctxOf { s with cur := (fid, n) } f g).g.stopped ||
        ((ctxOf { s with cur := (fid, n) } f g).f.frags.any fun g => g.num != n && g.level != 0)) = false from hquiet]; decide)]
      rfl
    have hnum : g.num = n := by simpa using List.find?_some hg
    by_cases hfl : flt
    · rw [hpoison, hflt.2 hfl, Bool.or_false, if_pos rfl] at hrun
      obtain ⟨f', h1, h2, h3, h4, h5⟩ := modFrag_leaves s fid n f g (fun g => { g with wait := .run }) hf hg fun _ => rfl
      exact ⟨_, f', _, hrun, h1, h3, h4, by rw [h2], by rw [h2], fun _ => rfl, h5, fun _ => rfl, fun h => absurd hfl h, fun h => absurd hfl h⟩
    · have hgo : boFault s o = false := by
        rw [Bool.eq_false_iff]
        exact fun h => hfl (hflt.1 h)
      rw [hpoison, hgo, Bool.or_false, if_neg Bool.false_ne_true, hphase] at hrun
      by_cases hp : ph = p
      · rw [if_neg (by rw [bne_iff_ne]; exact fun h => h hp)] at hrun
        exact ⟨s, f, g, hrun, hf, hg, fun _ _ => rfl, rfl, rfl, fun _ => rfl, fun _ _ => rfl, fun h => absurd h hfl,
          fun _ h => absurd hp h, fun _ _ => rfl⟩
      · rw [if_pos (by rw [bne_iff_ne]; exact hp)] at hrun
        obtain ⟨c, hc⟩ : ∃ c, c = settled (next { ctxOf { s with cur := (fid, n) } f g with
          st := dropCache { s with cur := (fid, n) } f.core }) := ⟨_, rfl⟩
        have hst : c.st = dropCache { s with cur := (fid, n) } f.core := by rw [hc]; rfl
        have hcur : c.st.cur = (fid, n) := by rw [hst, dropCache_cur]
        have hfl' : c.st.flights = s.flights := by rw [hst, dropCache_flights]
        obtain ⟨h1, h2, h3, h4⟩ := commit_leaves { s with cur := (fid, n) } f g c hi hcur (by rw [hc]; rfl) (by rw [hc]; rfl)
        obtain ⟨d1, d2, -⟩ := dropped_retired { s with cur := (fid, n) } f c hst
        rw [← hc] at hrun
        refine ⟨_, _, c.g, hrun, h1, hnum ▸ h2, h3, by rw [hc]; rfl, by rw [hc]; rfl, fun b => d1 b, fun k hk => (h4 k hk).trans ?_,
          fun h => absurd h hfl, fun _ _ => ?_, fun _ h => absurd h hp⟩
        · rw [flight?, hfl', flight?]
        · rw [hc]
          exact ⟨rfl, rfl, rfl, rfl, by rw [← hc]; exact d2⟩

end Sys2Proof.Machine
end

section
/-!
SUPPORT. Copy commands at their issue (05 R123-R125, R134-R141).
-/
namespace Sys2Proof.Machine

theorem goesOn_mono (i : Instr) (s : State) (g : Fragment) (f : Flight) (pc : DWord) (p q : State → Flight → Fragment → Prop)
    (h : GoesOn i s g f pc p) (hpq : ∀ t f' g', p t f' g' → q t f' g') : GoesOn i s g f pc q := by
  obtain ⟨t, f', g', he, hf, hg, hsib, hot, hpc, hw, ho, hl, hp⟩ := h
  exact ⟨t, f', g', he, hf, hg, hsib, hot, hpc, hw, ho, hl, hpq _ _ _ hp⟩

theorem engine_modEngine (s : State) (e k : Nat) (h : Engine → Engine) :
    engine (modEngine s e h) k = if k = e then h (engine s e) else engine s k := by
  rw [engine, modEngine, mgetD_mset]
  rfl

theorem engine_mmap (es : Cells Engine) (h : Engine → Engine) (k : Nat) (hd : h ⟨[], [], []⟩ = ⟨[], [], []⟩) :
    mgetD (mmap es fun _ e => h e) k ⟨[], [], []⟩ = h (mgetD es k ⟨[], [], []⟩) := by
  rw [mgetD, mget?_mmap, mgetD]
  cases mget? es k with
  | none => exact hd.symm
  | some x => rfl

section
variable (s : State) (f : Flight) (g : Fragment) (d : Option Opnd) (hi : Issues s f g) (hu : Unwatched s f)
  (hd : ∀ x, d = some x → IsScalar x)

/-- The flight after its command has been numbered. -/
def countedFlight : Flight := { f with seqNo := f.seqNo + 1 }

theorem numbered_none : numbered (ctxOf s f g) none = ⟨{ s with nextId := s.nextId + 1 }, countedFlight f, g, Obs.none⟩ := rfl

theorem numbered_some (x : Opnd) :
    numbered (ctxOf s f g) (some x) = putS ⟨{ s with nextId := s.nextId + 1 }, countedFlight f, g, Obs.none⟩ x f.seqNo := rfl

theorem numbered_st : (numbered (ctxOf s f g) d).st = { s with nextId := s.nextId + 1 } := by
  cases d with
  | none => rfl
  | some x => exact (putS_rest _ x _).1

theorem numbered_f : (numbered (ctxOf s f g) d).f = { countedFlight f with
    s := (numbered (ctxOf s f g) d).f.s, mops := (numbered (ctxOf s f g) d).f.mops, t1 := (numbered (ctxOf s f g) d).f.t1
    t2 := (numbered (ctxOf s f g) d).f.t2 } := by
  cases d with
  | none => rfl
  | some x => exact (putS_rest _ x _).2.2.1

theorem numbered_g : (numbered (ctxOf s f g) d).g = { g with em := (numbered (ctxOf s f g) d).g.em } := by
  cases d with
  | none => rfl
  | some x => exact (putS_rest _ x _).2.2.2

include hd in
/-- The number of a command goes to its optional destination. -/
theorem optWrite_numbered (t : State) (f' : Flight) (g' : Fragment) (hs : f'.s = (numbered (ctxOf s f g) d).f.s)
    (h1 : f'.t1 = (numbered (ctxOf s f g) d).f.t1) (h2 : f'.t2 = (numbered (ctxOf s f g) d).f.t2)
    (he : g'.em = (numbered (ctxOf s f g) d).g.em) (hv : f'.v = f.v) (ha : f'.asyncR = f.asyncR) (hl : f'.lflags = f.lflags)
    (hfree : t.free = s.free) : OptWrite s t f f' g g' d f.seqNo := by
  refine ⟨fun n l => getV_same _ _ _ _ n l hv ha hfree, hl, ?_⟩
  cases d with
  | none => exact fun k => getS_em _ _ _ _ k hs he
  | some x =>
    have hx := hd x rfl
    have hput : puts ⟨{ s with nextId := s.nextId + 1 }, countedFlight f, g, Obs.none⟩ x [f.seqNo] = numbered (ctxOf s f g) (some x) := by
      rw [puts_one, opAdd_zero, numbered_some]
    exact scalarWrite_puts ⟨{ s with nextId := s.nextId + 1 }, countedFlight f, g, Obs.none⟩ x [f.seqNo] hx
      (idx_lt_size x (isScalar_register x hx)) f' g' (by rw [hput, hs]) (by rw [hput, h1]) (by rw [hput, h2]) (by rw [hput, he])

/-- A fragment that enters a region after its instruction, or does not. -/
def enteredIf (b : Bool) (h : Fragment) : Fragment := if b then h.enter (h.pc + 8) else h

theorem enteredIf_rest (b : Bool) (h : Fragment) : (enteredIf b h).num = h.num ∧ (enteredIf b h).pc = h.pc ∧ (enteredIf b h).owned = h.owned ∧
    (enteredIf b h).level = h.level ∧ (enteredIf b h).em = h.em := by
  cases b <;> exact ⟨rfl, rfl, rfl, rfl, rfl⟩

/-- The machine after a command that is numbered and handed on: `s1` is the machine with it, and `b` tells whether the instruction ends
a region. -/
def numberedState (b : Bool) (s1 : State) : State :=
  retireNext (ctxOf s f g) { numbered (ctxOf s f g) d with st := s1, g := enteredIf b (numbered (ctxOf s f g) d).g }

include hi hu hd in
theorem numbered_leaves (b : Bool) (s1 : State) (hcur : s1.cur = s.cur) (hfl : s1.flights = s.flights) :
    ∃ f' g', flight? (numberedState s f g d b s1) s.cur.1 = some f' ∧ frag? f' g.num = some g' ∧ Siblings f f' g ∧
      (∀ k, k ≠ s.cur.1 → flight? (numberedState s f g d b s1) k = flight? s k) ∧ g'.pc = g.pc + 8 ∧ g'.wait = .run ∧
      g'.owned = g.owned ∧ g'.level = g.level ∧ f'.seqNo = f.seqNo + 1 ∧ (∀ t : State, t.free = s.free → OptWrite s t f f' g g' d f.seqNo) ∧
      (d = none → g'.em = g.em) ∧ (b = true → EnteredAs g g') ∧
      numberedState s f g d b s1 = { s1 with flights := (numberedState s f g d b s1).flights } := by
  obtain ⟨c, hc⟩ : ∃ c, c = numbered (ctxOf s f g) d := ⟨_, rfl⟩
  have hf : c.f = { countedFlight f with s := c.f.s, mops := c.f.mops, t1 := c.f.t1, t2 := c.f.t2 } := by
    rw [hc]; exact numbered_f s f g d
  have hg : c.g = { g with em := c.g.em } := by rw [hc]; exact numbered_g s f g d
  obtain ⟨h1, h2, h3, h4, h5⟩ := enteredIf_rest b c.g
  have hquiet : (Machine.core (ctxOf s f g).st (next { c with st := s1, g := enteredIf b c.g }).f.core).bcn = [] := by
    show (Machine.core s c.f.core).bcn = []
    rw [hf]
    exact hu.1
  have hst : numberedState s f g d b s1 = commit (settled (next { c with st := s1, g := enteredIf b c.g })) := by
    rw [numberedState, ← hc]
    exact retire_unwatched (ctxOf s f g) _ hquiet
  rw [hst]
  obtain ⟨l1, l2, l3, l4⟩ := commit_leaves s f g (settled (next { c with st := s1, g := enteredIf b c.g })) hi hcur
    (by show c.f.frags = _; rw [hf]; rfl) (by show (enteredIf b c.g).num = _; rw [h1, hg])
  refine ⟨_, _, l1, l2, l3, fun k hk => (l4 k hk).trans ?_, ?_, rfl, ?_, ?_, ?_, fun t ht => ?_, fun hnone => ?_, fun hb => ?_, rfl⟩
  · show mget? s1.flights k = _
    rw [hfl]
    rfl
  · show (enteredIf b c.g).pc + 8 = _
    rw [h2, hg]
  · show (enteredIf b c.g).owned = _
    rw [h3, hg]
  · show (enteredIf b c.g).level = _
    rw [h4, hg]
  · show c.f.seqNo = f.seqNo + 1
    rw [hf]
    rfl
  · refine optWrite_numbered s f g d hd _ _ _ (congrArg (·.f.s) hc) (congrArg (·.f.t1) hc) (congrArg (·.f.t2) hc)
      (h5.trans (congrArg (·.g.em) hc)) ?_ ?_ ?_ ht
    · show c.f.v = f.v
      rw [hf]; rfl
    · show c.f.asyncR = f.asyncR
      rw [hf]; rfl
    · show c.f.lflags = f.lflags
      rw [hf]; rfl
  · show (enteredIf b c.g).em = g.em
    rw [h5, hc, hnone]
    rfl
  · subst hb
    refine ⟨?_, ?_, rfl⟩
    · show c.g.region + 1 = g.region + 1
      rw [hg]
    · show c.g.pc + 8 = g.pc + 8
      rw [hg]

include hi hu hd in
theorem goesOn_numbered (i : Instr) (b : Bool) (s1 : State) (hcur : s1.cur = s.cur) (hfl : s1.flights = s.flights) (hfree : s1.free = s.free)
    (he : exec i s = .next (numberedState s f g d b s1)) :
    GoesOn i s g f (g.pc + 8) fun t f' g' =>
      f'.seqNo = f.seqNo + 1 ∧ OptWrite s t f f' g g' d f.seqNo ∧ (d = none → g'.em = g.em) ∧ (b = true → EnteredAs g g') ∧
        t = { s1 with flights := t.flights } := by
  obtain ⟨f', g', h1, h2, h3, h4, h5, h6, h7, h8, h9, h10, h11, h12, h13⟩ := numbered_leaves s f g d hi hu hd b s1 hcur hfl
  exact ⟨_, f', g', he, h1, h2, h3, h4, h5, h6, h7, h8, h9, h10 _ (by rw [h13]; exact hfree), h11, h12, h13⟩

end

theorem engine_congr (s t : State) (k : Nat) (h : t.engines = s.engines) : engine t k = engine s k := by rw [engine, h, engine]

theorem engine_giveCmd (s : State) (e k : Nat) (x : Cmd) :
    engine (giveCmd s e x) k = if k = e then { engine s e with cmds := (engine s e).cmds ++ [x] } else engine s k := by
  rw [giveCmd, engine_modEngine]
  rfl

/-- A command as its instruction gives it (05 R124, R125). -/
def GivenCmd (s : State) (f : Flight) (g : Fragment) (kind : CopyKind) (par : List Word) (obj : DWord) (x : Cmd) : Prop :=
  x.kind = kind ∧ x.par = par ∧ x.obj = obj ∧ x.fid = s.cur.1 ∧ x.gid = f.gid ∧ x.pid = f.pid ∧ x.core = f.core ∧ x.pc = g.pc ∧
    x.seq = f.seqNo ∧ x.sup = decide (g.level ≠ 0) ∧ x.done = 0 ∧ x.stall = none

theorem newCmd_given (s : State) (f : Flight) (g : Fragment) (kind : CopyKind) (par : List Word) (obj : DWord) :
    GivenCmd s f g kind par obj (newCmd (ctxOf s f g) kind par obj) :=
  ⟨rfl, rfl, rfl, rfl, rfl, rfl, rfl, rfl, rfl, (by
    rw [show (newCmd (ctxOf s f g) kind par obj).sup = (g.level != 0) from rfl, Bool.eq_iff_iff, bne_iff_ne, decide_eq_true_eq]), rfl, rfl⟩

/-- What the numbering of a command leaves, but for its engine (05 R124). -/
def Numbered (s : State) (f : Flight) (g : Fragment) (d : Option Opnd) (e : Nat) (t : State) (f' : Flight) (g' : Fragment) : Prop :=
  f'.seqNo = f.seqNo + 1 ∧ OptWrite s t f f' g g' d f.seqNo ∧ MemorySame s t ∧ ∀ k, k ≠ e → engine t k = engine s k

section
variable (s : State) (f : Flight) (g : Fragment) (d : Option Opnd) (hi : Issues s f g) (hu : Unwatched s f)
  (hd : ∀ x, d = some x → IsScalar x)

include hi hu hd

/-- The checks of a copy command in their order, and what it leaves (05 R123-R126, R134). -/
theorem copyIssue_answers (i : Instr) (kind : CopyKind) (par : Ctx → List Word) (ops : List (Opnd × Nat)) (o : Opnd)
    (hm : MayName f g (optGroup d ++ (o, 2) :: ops)) (he : exec i s = copyIssue kind d par ops o s) :
    let ps := par (ctxOf s f g)
    let obj := srcS2 (ctxOf s f g) o
    let e := engineFor s f.pid f.core
    (parOk s f kind ps = false → Faults i s f g 0x0F 0) ∧
      (parOk s f kind ps = true → objOk s f.pid f.core obj = false → FaultsAt i s s f g 0x0F 0 obj) ∧
      (parOk s f kind ps = true → objOk s f.pid f.core obj = true → 64 ≤ (engine s e).queue.length → Stalls i s f g .engine) ∧
      (parOk s f kind ps = true → objOk s f.pid f.core obj = true → (engine s e).queue.length < 64 →
        GoesOn i s g f (g.pc + 8) fun t f' g' => Numbered s f g d e t f' g' ∧ (engine t e).arms = (engine s e).arms ∧
          ∃ x, GivenCmd s f g kind ps obj x ∧ (engine t e).cmds = (engine s e).cmds ++ [x]) := by
  intro ps obj e
  have hrun := he.trans (issue_acts _ _ _ s f g hi hm (by simp))
  have hpar (h : parOk s f kind ps = true) : ¬ (!parOk (ctxOf s f g).st (ctxOf s f g).f kind (par (ctxOf s f g))) = true := by
    rw [show parOk (ctxOf s f g).st (ctxOf s f g).f kind (par (ctxOf s f g)) = true from h]
    decide
  have hobj (h : objOk s f.pid f.core obj = true) :
      ¬ (!objOk (ctxOf s f g).st (ctxOf s f g).f.pid (ctxOf s f g).f.core (srcS2 (ctxOf s f g) o)) = true := by
    rw [show objOk (ctxOf s f g).st (ctxOf s f g).f.pid (ctxOf s f g).f.core (srcS2 (ctxOf s f g) o) = true from h]
    decide
  refine ⟨fun h => ?_, fun h1 h2 => ?_, fun h1 h2 h3 => ?_, fun h1 h2 h3 => ?_⟩
  · refine hrun.trans (congrArg _ (if_pos ?_))
    rw [show parOk (ctxOf s f g).st (ctxOf s f g).f kind (par (ctxOf s f g)) = false from h]
    rfl
  · refine hrun.trans (congrArg _ ((if_neg (hpar h1)).trans (if_pos ?_)))
    rw [show objOk (ctxOf s f g).st (ctxOf s f g).f.pid (ctxOf s f g).f.core (srcS2 (ctxOf s f g) o) = false from h2]
    rfl
  · exact stalls_of i s f g .engine hi (hrun.trans (congrArg _ ((if_neg (hpar h1)).trans ((if_neg (hobj h2)).trans (if_pos h3)))))
  · have hgo := hrun.trans (congrArg _ ((if_neg (hpar h1)).trans ((if_neg (hobj h2)).trans (if_neg (Nat.not_le.2 h3)))))
    obtain ⟨s1, hs1⟩ : ∃ s1, s1 = giveCmd (numbered (ctxOf s f g) d).st e (newCmd (ctxOf s f g) kind ps obj) := ⟨_, rfl⟩
    have heng (k : Nat) := engine_giveCmd (numbered (ctxOf s f g) d).st e k (newCmd (ctxOf s f g) kind ps obj)
    rw [← hs1] at heng
    have hst : (numbered (ctxOf s f g) d).st = { s with nextId := s.nextId + 1 } := numbered_st s f g d
    have hsame (k : Nat) : engine (numbered (ctxOf s f g) d).st k = engine s k := by rw [hst]; rfl
    refine goesOn_mono i s g f _ _ _ (goesOn_numbered s f g d hi hu hd i false s1 (by rw [hs1, hst]; rfl) (by rw [hs1, hst]; rfl)
      (by rw [hs1, hst]; rfl) (by rw [hs1]; exact hgo)) fun t f' g' ht => ?_
    obtain ⟨hseq, hopt, -, -, ht⟩ := ht
    have hmem : MemorySame s t := fun b => by rw [ht, hs1, hst]; rfl
    have hk (k : Nat) := (engine_congr s1 t k (by rw [ht])).trans (heng k)
    have he' := hk e
    rw [if_pos rfl, hsame] at he'
    exact ⟨⟨hseq, hopt, hmem, fun k hne => (hk k).trans ((if_neg hne).trans (hsame k))⟩, by rw [he'], _, newCmd_given s f g kind ps obj, by rw [he']⟩

end

/-- The armed copy of a CPYT (05 R140). -/
def armOf (c : Ctx) (every : Bool) (par : List Word) (obj tva : DWord) (k : Nat) : Arm :=
  { id := c.st.nextId, cmd := newCmd c .cpy par obj, trig := k, trigVa := tva, every := every, queued := 0 }

section
variable (s : State) (f : Flight) (g : Fragment) (d : Option Opnd) (a o tr : Opnd) (every : Bool) (hi : Issues s f g) (hu : Unwatched s f)
  (hd : ∀ x, d = some x → IsScalar x) (hm : MayName f g (optGroup d ++ [(a, 8), (o, 2), (tr, 2)]))

include hi hm

theorem cpyt_refuses (h : parOk s f .cpy (blockAt (ctxOf s f g) a) = false) : Faults (.cpyt every d a o tr) s f g 0x0F 0 := by
  refine ((exec_cpyt every d a o tr s).trans (issue_acts _ _ _ s f g hi hm (by simp))).trans (congrArg _ (if_pos ?_))
  rw [show parOk (ctxOf s f g).st (ctxOf s f g).f .cpy (blockAt (ctxOf s f g) a) = false from h]
  rfl

/-- CPYT past its checks: it takes an arming slot, if one is free. -/
theorem cpyt_arms (k : Nat) (h1 : parOk s f .cpy (blockAt (ctxOf s f g) a) = true)
    (h2 : objOk s f.pid f.core (srcS2 (ctxOf s f g) o) = true) (hk : objKey s f.pid f.core (srcS2 (ctxOf s f g) tr) = .inr k) :
    exec (.cpyt every d a o tr) s = .next (
      if 64 ≤ (engine s (engineFor s f.pid f.core)).arms.length then fault (ctxOf s f g) 0x0F 0
      else retireNext (ctxOf s f g) { numbered (ctxOf s f g) d with
        st := modEngine (numbered (ctxOf s f g) d).st (engineFor s f.pid f.core) fun x => { x with
          arms := x.arms ++ [armOf (ctxOf s f g) every (blockAt (ctxOf s f g) a) (srcS2 (ctxOf s f g) o) (srcS2 (ctxOf s f g) tr) k] } }) := by
  have hpar : ¬ (!parOk (ctxOf s f g).st (ctxOf s f g).f .cpy (blockAt (ctxOf s f g) a)) = true := by
    rw [show parOk (ctxOf s f g).st (ctxOf s f g).f .cpy (blockAt (ctxOf s f g) a) = true from h1]
    decide
  have hobj : ¬ (!objOk (ctxOf s f g).st (ctxOf s f g).f.pid (ctxOf s f g).f.core (srcS2 (ctxOf s f g) o)) = true := by
    rw [show objOk (ctxOf s f g).st (ctxOf s f g).f.pid (ctxOf s f g).f.core (srcS2 (ctxOf s f g) o) = true from h2]
    decide
  have hkey : objKey (ctxOf s f g).st (ctxOf s f g).f.pid (ctxOf s f g).f.core (srcS2 (ctxOf s f g) tr) = .inr k := hk
  have hrun := ((exec_cpyt every d a o tr s).trans (issue_acts _ _ _ s f g hi hm (by simp))).trans
    (congrArg _ ((if_neg hpar).trans (if_neg hobj)))
  simp only [hkey] at hrun
  exact hrun

end

/-- Settles O40: the queued commands by `copyIssue_answers`, the armed one by `cpyt_arms`. -/
theorem copyCommands : Obligations.CopyCommands := by
  intro s f g d a b o tr every kind par i hi hu hm hd c block obj tva e isCmd numbered
  have hblock : MayName f g (optGroup d ++ (o, 2) :: [(a, 8)]) := mayName_subset f g _ _ hm (by intro x; simp; rintro (h | h | h) <;> simp [h])
  have harm : MayName f g (optGroup d ++ [(a, 8), (o, 2), (tr, 2)]) := mayName_subset f g _ _ hm (by intro x; simp; rintro (h | h | h | h) <;> simp [h])
  have hfill : MayName f g (optGroup d ++ (o, 2) :: [(a, 2), (b, 1)]) := by
    have h1 : MayName f g (optGroup d ++ [(o, 2)]) := mayName_subset f g _ _ hm (by simp)
    have h2 : MayName f g [(a, 2)] := mayName_le f g a 8 2 (mayName_subset f g _ _ hm (by simp)) (by omega)
    have h3 : MayName f g [(b, 1)] := mayName_le f g b 2 1 (mayName_subset f g _ _ hm (by simp)) (by omega)
    exact mayName_subset f g _ _ (mayName_append f g _ _ (mayName_append f g _ _ h1 h2) h3) (by simp)
  refine ⟨fun h => ?_, fun hkind hpar => ⟨fun h => ?_, fun h1 h2 k hk => ⟨fun h3 => ?_, fun h3 => ?_⟩⟩, fun k hk => ?_⟩
  · obtain ⟨rfl, rfl, rfl⟩ | ⟨rfl, rfl, rfl⟩ | ⟨rfl, rfl, rfl⟩ | ⟨rfl, rfl, rfl⟩ | ⟨rfl, rfl, rfl⟩ := h
    · exact copyIssue_answers s f g d hi hu hd _ _ _ _ o hblock (exec_cpy d a o s)
    · exact copyIssue_answers s f g d hi hu hd _ _ _ _ o hblock (exec_cpyg d a o s)
    · exact copyIssue_answers s f g d hi hu hd _ _ _ _ o hblock (exec_cpys d a o s)
    · exact copyIssue_answers s f g d hi hu hd _ _ _ _ o hblock (exec_cpyb d a o s)
    · exact copyIssue_answers s f g d hi hu hd _ _ _ _ o hfill (exec_sqfill d a b o s)
  · subst hpar
    exact cpyt_refuses s f g d a o tr every hi harm h
  · subst hpar
    exact (cpyt_arms s f g d a o tr every hi harm k h1 h2 hk).trans (congrArg _ (if_pos h3))
  · subst hpar hkind
    have hrun := (cpyt_arms s f g d a o tr every hi harm k h1 h2 hk).trans (congrArg _ (if_neg (Nat.not_le.2 h3)))
    obtain ⟨arm, harmed⟩ : ∃ arm, arm = armOf (ctxOf s f g) every (blockAt (ctxOf s f g) a) obj tva k := ⟨_, rfl⟩
    obtain ⟨s1, hs1⟩ : ∃ s1, s1 = modEngine (Machine.numbered (ctxOf s f g) d).st e fun x => { x with arms := x.arms ++ [arm] } := ⟨_, rfl⟩
    have heng (k : Nat) := engine_modEngine (Machine.numbered (ctxOf s f g) d).st e k fun x => { x with arms := x.arms ++ [arm] }
    rw [← hs1] at heng
    have hst : (Machine.numbered (ctxOf s f g) d).st = { s with nextId := s.nextId + 1 } := numbered_st s f g d
    have hsame (k : Nat) : engine (Machine.numbered (ctxOf s f g) d).st k = engine s k := by rw [hst]; rfl
    refine goesOn_mono _ s g f _ _ _ (goesOn_numbered s f g d hi hu hd _ false s1 (by rw [hs1, hst]; rfl) (by rw [hs1, hst]; rfl)
      (by rw [hs1, hst]; rfl) (by rw [hs1, harmed]; exact hrun)) fun t f' g' ht => ?_
    obtain ⟨hseq, hopt, -, -, ht⟩ := ht
    have hmem : MemorySame s t := fun b => by rw [ht, hs1, hst]; rfl
    have hk' (k : Nat) := (engine_congr s1 t k (by rw [ht])).trans (heng k)
    have he' := hk' e
    rw [if_pos rfl, hsame] at he'
    refine ⟨⟨hseq, hopt, hmem, fun k hne => (hk' k).trans ((if_neg hne).trans (hsame k))⟩, by rw [he'], arm, ?_, ?_, ?_, ?_, by rw [he']⟩
    · rw [harmed]
      exact newCmd_given s f g .cpy _ obj
    all_goals rw [harmed]; rfl
  · have hrun := (exec_cpytCancel tr s).trans (issue_acts _ _ _ s f g hi (mayName_subset f g _ _ hm (by simp)) (by simp))
    have hkey : objKey (ctxOf s f g).st (ctxOf s f g).f.pid (ctxOf s f g).f.core (srcS2 (ctxOf s f g) tr) = .inr k := hk
    simp only [hkey] at hrun
    refine goesOn_retireNext _ s f g _ _ hi ?_ hrun rfl rfl rfl ⟨rfl, rfl, rfl, rfl⟩
      ⟨noRegister_of _ _ _ _ _ _ rfl rfl rfl rfl rfl rfl rfl rfl rfl rfl, fun _ => rfl, fun x => ?_⟩
    · exact hu.1
    · obtain ⟨t, ht⟩ : ∃ t : State, t = commit (settled (next { ctxOf s f g with st := { s with engines := mmap s.engines fun _ y =>
        { y with arms := y.arms.filter fun z => !(z.trig == k && z.cmd.gid == f.gid) } } })) := ⟨_, rfl⟩
      have hx : engine t x = { engine s x with arms := (engine s x).arms.filter fun z => !(z.trig == k && z.cmd.gid == f.gid) } := by
        rw [ht]
        exact engine_mmap s.engines (fun y => { y with arms := y.arms.filter fun z => !(z.trig == k && z.cmd.gid == f.gid) }) x rfl
      suffices h : (engine t x).cmds = (engine s x).cmds ∧
          ∀ y, y ∈ (engine t x).arms ↔ y ∈ (engine s x).arms ∧ ¬(y.trig = k ∧ y.cmd.gid = f.gid) from ht ▸ h
      rw [hx]
      refine ⟨rfl, fun y => ?_⟩
      rw [List.mem_filter, Bool.not_eq_true', Bool.and_eq_false_iff, beq_eq_false_iff_ne, beq_eq_false_iff_ne, Classical.not_and_iff_not_or_not]

end Sys2Proof.Machine
end

section
/-!
SUPPORT. Results of more than one register that land (06 R155); tiles (09 R227-R229, R253).
-/
namespace Sys2Proof.Machine

/-! ### What a counter's fall loses of several registers -/

/-- A flight that differs from another in lanes of vector registers that were written early. -/
structure LostLanes (f f' : Flight) (hits : List (Nat × Lanes)) : Prop where
  rest  : f' = { f with v := f'.v }
  lanes : ∀ k l, l < 96 → wasHit hits k l = false → rowAt (mgetD f'.v k []) l = rowAt (mgetD f.v k []) l

theorem LostLanes.refl (f : Flight) (hits : List (Nat × Lanes)) : LostLanes f f hits := ⟨rfl, fun _ _ _ _ => rfl⟩

theorem LostLanes.trans {f f' f'' : Flight} {hits : List (Nat × Lanes)} (h : LostLanes f f' hits) (h' : LostLanes f' f'' hits) :
    LostLanes f f'' hits where
  rest := by rw [h'.rest, h.rest]
  lanes k l hl hh := (h'.lanes k l hl hh).trans (h.lanes k l hl hh)

theorem lostLanes_foldl {α : Type} (k : Flight → α → Flight) (hits : List (Nat × Lanes)) (xs : List α)
    (h : ∀ x ∈ xs, ∀ f, LostLanes f (k f x) hits) (f : Flight) : LostLanes f (xs.foldl k f) hits := by
  induction xs generalizing f with
  | nil => exact LostLanes.refl f hits
  | cons x r ih =>
    exact (h x List.mem_cons_self f).trans (ih (fun y hy => h y (List.mem_cons_of_mem x hy)) (k f x))

theorem lostLanes_loseV (s : State) (level : Nat) (f : Flight) (hits : List (Nat × Lanes)) (h : Nat × Lanes) (hmem : h ∈ hits)
    (hreg : h.1 < 192) : LostLanes f (loseV s level f h) hits := by
  have he : loseV s level f h = { f with v := mset f.v h.1 (rowSet (mgetD f.v h.1 []) h.2 (freeAt s h.1)) } := by
    rw [loseV, if_pos hreg]
  rw [he]
  refine ⟨rfl, fun k l hl hh => ?_⟩
  show rowAt (mgetD (mset f.v h.1 _) k []) l = _
  rw [mgetD_mset]
  by_cases hk : k = h.1
  · rw [if_pos hk, rowAt_rowSet _ _ _ _ hl, hk]
    have : h.2.getLsbD l = false := by
      rw [wasHit, List.any_eq_false] at hh
      simpa [hk] using hh h hmem
    rw [this]
    rfl
  · rw [if_neg hk]

/-- Where what was written early are lanes of vector registers, only those are lost. -/
theorem lostLanes_prune (s : State) (f : Flight) (hits : List (Nat × Lanes))
    (hm : ∀ o ∈ f.mops, (∀ h ∈ o.vhits, h ∈ hits ∧ h.1 < 192) ∧ o.shits = []) (hp : ∀ p ∈ f.pend, ∀ h ∈ p.vhits, h ∈ hits ∧ h.1 < 192) :
    LostLanes { f with mops := (pruneMops [] f.mops).1, pend := (prunePend [] f.pend).1 } (prune s f) hits := by
  refine lostLanes_foldl (lose s) hits _ (fun h hh f0 => ?_) _
  have hall : (∀ x ∈ h.v, x ∈ hits ∧ x.1 < 192) ∧ h.s = [] := by
    rcases List.mem_append.1 hh with h1 | h2
    · obtain ⟨o, ho, hv, hs⟩ := mem_pruneMops _ _ h h1
      rw [hv, hs]
      exact hm o ho
    · obtain ⟨p, ho, hv, hs⟩ := mem_prunePend _ _ h h2
      rw [hv, hs]
      exact ⟨hp p ho, rfl⟩
  rw [lose, hall.2]
  exact lostLanes_foldl _ hits h.v (fun x hx f1 => lostLanes_loseV s h.level f1 hits x (hall.1 x hx).1 (hall.1 x hx).2) f0

/-! ### The write of several registers -/

/-- The first `m` registers from `n` on hold a result, but for lanes written early, and the others are as they were. -/
structure LandedRows (s : State) (f f' : Flight) (lanes : Lanes) (hits : List (Nat × Lanes)) (rows : Nat → Row) (n m : Nat) : Prop where
  rest   : f' = { f with v := f'.v, dirty := f'.dirty, asyncR := f'.asyncR }
  reads  : ∀ k, asyncLanes f' k = asyncLanes f k
  landed : ∀ j, j < m → mgetD f'.v (n + j) [] = landedRow s (mgetD f.v (n + j) []) (n + j) lanes hits (rowAt (rows j))
  others : ∀ k, (k < n ∨ n + m ≤ k) → mgetD f'.v k [] = mgetD f.v k []

/-- A result of `m` registers that no other outstanding one has as destination lands. -/
theorem landedRows_foldl (s : State) (f : Flight) (id level : Nat) (n : Fin 192) (lanes : Lanes) (hits : List (Nat × Lanes))
    (rows : Nat → Row) (m : Nat) (hn : n.val + m ≤ 192) (ha : ∀ k, asyncLanes f k = 0)
    (hm : ∀ o ∈ f.mops, o.id ≠ id → ∀ k, n.val ≤ k → k < n.val + m → inGroupV (memDst o.instr) k = false)
    (hp : ∀ p ∈ f.pend, p.id ≠ id → ∀ k, n.val ≤ k → k < n.val + m → inGroupV (some (p.dst, p.rows.length)) k = false) :
    LandedRows s f ((List.range m).foldl (fun f k => landReg s f id level (opAdd (.v n) k) lanes hits (rowAt (rows k))) f) lanes hits rows
      n.val m := by
  induction m with
  | zero => exact ⟨rfl, fun _ => rfl, fun j hj => absurd hj (Nat.not_lt_zero j), fun _ _ => rfl⟩
  | succ m ih =>
    obtain ⟨hrest, hreads, hland, hoth⟩ := ih (by omega) (fun o ho hid k h1 h2 => hm o ho hid k h1 (by omega))
      (fun p ho hid k h1 h2 => hp p ho hid k h1 (by omega))
    rw [List.range_succ, List.foldl_append]
    obtain ⟨f1, hf1⟩ : ∃ f1, f1 = (List.range m).foldl (fun f k => landReg s f id level (opAdd (.v n) k) lanes hits (rowAt (rows k))) f :=
      ⟨_, rfl⟩
    rw [← hf1] at hrest hreads hland hoth ⊢
    rw [List.foldl_cons, List.foldl_nil, opAdd_v n m (by omega)]
    have heq : landReg s f1 id level (.v ⟨n.val + m, by omega⟩) lanes hits (rowAt (rows m)) = _ :=
      landV_eq s f1 id (n.val + m) lanes hits (rowAt (rows m)) (by rw [hreads, ha])
        (fun o ho hid => hm o (by rw [hrest] at ho; exact ho) hid _ (by omega) (by omega))
        (fun p ho hid => hp p (by rw [hrest] at ho; exact ho) hid _ (by omega) (by omega))
    rw [heq]
    refine ⟨by rw [hrest], fun k => ?_, fun j hj => ?_, fun k hk => ?_⟩
    · rw [← hreads k]
      exact asyncLanes_congr f1 _ (fun _ => AsyncReg.landed (n.val + m) lanes (mgetD f1.v (n.val + m) []) id) k
        (fun _ a => landed_keeps _ _ _ _ a) 0 rfl
    · show mgetD (mset f1.v (n.val + m) _) (n.val + j) [] = _
      rw [mgetD_mset]
      by_cases hjm : j = m
      · subst hjm
        rw [if_pos rfl, hoth _ (Or.inr (Nat.le_refl _))]
      · rw [if_neg (by omega)]
        exact hland j (by omega)
    · show mgetD (mset f1.v (n.val + m) _) k [] = _
      rw [mgetD_mset, if_neg (by omega)]
      exact hoth k (by omega)

/-! ### Instructions on tiles -/

section
variable (s : State) (f : Flight) (g : Fragment) (e : Opnd) (hi : Issues s f g) (hu : Unwatched s f)

include hi in
theorem tileIssue_dead (ops : List (Opnd × Nat)) (act : Ctx → Nat → State) (hm : MayName f g ((e, 1) :: ops))
    (h : liveTile (ctxOf s f g) e = none) : tileIssue ops e act s = .next (fault (ctxOf s f g) 0x13 0) := by
  rw [tileIssue, issue_acts _ _ _ s f g hi hm (by simp), h]

include hi in
/-- An instruction on a live tile at which nothing is outstanding. -/
theorem tileIssue_acts (ops : List (Opnd × Nat)) (act : Ctx → Nat → State) (k : Nat) (hm : MayName f g ((e, 1) :: ops))
    (h : liveTile (ctxOf s f g) e = some k) (hinst : (tileAt s k).insts = []) (hfold : (tileAt s k).folds = []) :
    tileIssue ops e act s = .next (act (ctxOf s f g) k) := by
  have hheld : heldBy (tileAt (ctxOf s f g).st k) (ctxOf s f g).st.cur.1 false = false := by
    rw [heldBy, show (tileAt (ctxOf s f g).st k).insts = [] from hinst]
    rfl
  have hsettle : settleFolds (ctxOf s f g).st k = s := by
    rw [settleFolds, show (tileAt (ctxOf s f g).st k).folds = [] from hfold]
    rfl
  rw [tileIssue, issue_acts _ _ _ s f g hi hm (by simp), h]
  simp only [hheld, hsettle, Bool.false_eq_true, if_false]
  rfl

theorem openOwn_empty (tl : Tile) (fid : Nat) (h : tl.insts = []) : openOwn tl fid = [] := by rw [openOwn, h]; rfl

theorem spoil_empty (k : Nat) (h : (tileAt s k).insts = []) : spoil s k = s := by
  rw [spoil, h]
  rfl

theorem actOn_empty (k fid : Nat) (a : TileAct) (h : (tileAt s k).insts = []) : actOn s k fid a = tileAct s k a := by
  rw [actOn, openOwn_empty _ fid h, spoil_empty s k h]

include hi hu in
/-- An instruction that changes one tile. -/
theorem completesIn_tile (i : Instr) (k : Nat) (tl : Tile)
    (he : exec i s = .next (retireNext (ctxOf s f g) { ctxOf s f g with st := { s with tiles := mset s.tiles k tl } })) :
    CompletesIn i s f g { s with tiles := mset s.tiles k tl } f (g.pc + 8) fun t f' g' => NoRegister s t f f' g g' :=
  completesIn_of i s f g f (g.pc + 8) { ctxOf s f g with st := { s with tiles := mset s.tiles k tl } } _ hi hu.1 rfl rfl rfl rfl he rfl
    fun _ _ _ hfree hem hf' => noRegister_of _ _ _ _ _ _ hem (by rw [hf']; rfl) (by rw [hf']; rfl) (by rw [hf']; rfl) hfree (by rw [hf']; rfl)
      (by rw [hf']; rfl) (by rw [hf']; rfl) (by rw [hf']; rfl) (by rw [hf']; rfl)

include hi hu in
/-- An instruction that leaves the machine outside its flight as `s1` and writes a scalar. -/
theorem completesIn_state_put (i : Instr) (s1 : State) (d : Opnd) (w : Word) (hd : IsScalar d) (hcur : s1.cur = s.cur)
    (hcyc : s1.cycle = s.cycle) (hfree : s1.free = s.free)
    (he : exec i s = .next (retireNext (ctxOf s f g) (putS { ctxOf s f g with st := s1 } d w))) :
    CompletesIn i s f g s1 f (g.pc + 8) fun t f' g' =>
      ScalarWrite f f' g g' d [w] ∧ VectorsSame s t f f' ∧ f'.lflags = f.lflags := by
  obtain ⟨c, hc⟩ : ∃ c : Ctx, c = { ctxOf s f g with st := s1 } := ⟨_, rfl⟩
  rw [← hc] at he
  obtain ⟨hst, -, hf, hg⟩ := putS_rest c d w
  have hcf : c.f = f := by rw [hc]; rfl
  have hcg : c.g = g := by rw [hc]; rfl
  have hcs : c.st = s1 := by rw [hc]
  have hlf : (putS c d w).f.lflags = f.lflags := by rw [hf, hcf]
  have hput : puts c d [w] = putS c d w := by rw [puts_one, opAdd_zero]
  have key := completesIn_of i s f g f (g.pc + 8) (putS c d w)
    (fun t f' g' => ScalarWrite f f' g g' d [w] ∧ VectorsSame s t f f' ∧ f'.lflags = f.lflags) hi (by rw [hf, hcf]; exact hu.1)
    (by rw [hst, hcs, hcur]) (by rw [hst, hcs, hcyc]) (by rw [hf, hcf]) (by rw [hg, hcg]) ?_ (by rw [hf, hcf]) fun t f' g' hfree' hem hf' => ?_
  · rw [hst, hcs] at key
    exact key
  · rw [he, retireNext, next, hg, hcg]
  · have hsw := scalarWrite_puts c d [w] hd (idx_lt_size d (isScalar_register d hd)) f' g' (by rw [hput, hf']; rfl) (by rw [hput, hf']; rfl)
      (by rw [hput, hf']; rfl) (by rw [hput, hem])
    rw [hcf, hcg] at hsw
    refine ⟨hsw, fun n l => getV_same _ _ _ _ n l ?_ ?_ ?_, ?_⟩
    · rw [hf', hf, hcf]; rfl
    · rw [hf', hf, hcf]; rfl
    · rw [hfree', hst, hcs, hfree]
    · rw [hf']; exact hlf

end

/-! ### Elements (09 R253) -/

theorem elems_unnamed (ws : List (Nat × Word)) (tl : Tile) (n : Nat) (h : ∀ w ∈ ws, w.1 ≠ n) :
    mgetD (ws.foldl (fun tl w => putElem tl w.1 w.2) tl).elems n 0 = mgetD tl.elems n 0 := by
  induction ws generalizing tl with
  | nil => rfl
  | cons w r ih =>
    rw [List.foldl_cons, ih _ fun x hx => h x (List.mem_cons_of_mem w hx), putElem]
    show mgetD (mput 0 tl.elems w.1 w.2) n 0 = _
    rw [mgetD_mput, if_neg (h w List.mem_cons_self).symm]

theorem putElem_rest (ws : List (Nat × Word)) (tl : Tile) :
    ws.foldl (fun tl w => putElem tl w.1 w.2) tl = { tl with elems := (ws.foldl (fun tl w => putElem tl w.1 w.2) tl).elems } := by
  induction ws generalizing tl with
  | nil => rfl
  | cons w r ih =>
    rw [List.foldl_cons, ih]
    rfl

/-- The eight elements that a lane writes. -/
def laneWords (entry : Nat → Nat) (val : Nat → Nat → Word) (l : Nat) : List (Nat × Word) :=
  (List.range 8).map fun m => (entry l + m, val l m)

theorem mem_laneWords (entry : Nat → Nat) (val : Nat → Nat → Word) (l : Nat) (w : Nat × Word) :
    w ∈ laneWords entry val l ↔ ∃ m, m < 8 ∧ w = (entry l + m, val l m) := by
  simp only [laneWords, List.mem_map, List.mem_range, eq_comm]

/-- The elements of a lane after it has written them. -/
theorem elems_laneWords (entry : Nat → Nat) (val : Nat → Nat → Word) (l m : Nat) (tl : Tile) (hm : m < 8) :
    mgetD ((laneWords entry val l).foldl (fun tl w => putElem tl w.1 w.2) tl).elems (entry l + m) 0 = val l m := by
  obtain ⟨r, hr⟩ : ∃ r, List.range 8 = List.range m ++ m :: r := ⟨(List.range 8).drop (m + 1), by
    have h1 := List.take_append_drop m (List.range 8)
    have h2 : (List.range 8).drop m = m :: (List.range 8).drop (m + 1) := by
      rw [List.drop_eq_getElem_cons (by simpa using hm), List.getElem_range]
    rw [h2, List.take_range, Nat.min_eq_left (Nat.le_of_lt hm)] at h1
    exact h1.symm⟩
  have hlater : ∀ j ∈ r, j ≠ m := by
    have hnd : (List.range m ++ m :: r).Nodup := hr ▸ List.nodup_range
    have := (List.nodup_cons.1 (List.nodup_append.1 hnd).2.1).1
    exact fun j hj he => this (he ▸ hj)
  rw [laneWords, hr, List.map_append, List.map_cons, List.foldl_append, List.foldl_cons, elems_unnamed]
  · show mgetD (mput 0 _ (entry l + m) (val l m)) (entry l + m) 0 = _
    rw [mgetD_mput, if_pos rfl]
  · intro w hw
    obtain ⟨j, hj, rfl⟩ := List.mem_map.1 hw
    have := hlater j hj
    omega

/-- What lanes in ascending order write: the last that names an element decides. -/
theorem elems_lanes (entry : Nat → Nat) (val : Nat → Nat → Word) (ls : List Nat) (hs : ls.Pairwise (· < ·)) (tl : Tile)
    (ha : ∀ l ∈ ls, entry l % 8 = 0) (l m : Nat) (hl : l ∈ ls) (hm : m < 8) (hlast : ∀ j ∈ ls, l < j → entry j ≠ entry l) :
    mgetD (((ls.map (laneWords entry val)).flatten).foldl (fun tl w => putElem tl w.1 w.2) tl).elems (entry l + m) 0 = val l m := by
  obtain ⟨pre, post, rfl⟩ := List.append_of_mem hl
  rw [List.map_append, List.map_cons, List.flatten_append, List.flatten_cons, List.foldl_append, List.foldl_append, elems_unnamed]
  · exact elems_laneWords entry val l m _ hm
  · intro w hw
    obtain ⟨ws, hws, hmem⟩ := List.mem_flatten.1 hw
    obtain ⟨j, hj, rfl⟩ := List.mem_map.1 hws
    obtain ⟨k, hk, rfl⟩ := (mem_laneWords _ _ _ _).1 hmem
    have hlt : l < j := (List.pairwise_cons.1 (List.pairwise_append.1 hs).2.1).1 j hj
    have hne := hlast j (by simp [hj]) hlt
    have h1 := ha j (by simp [hj])
    have h2 := ha l hl
    show entry j + k ≠ entry l + m
    omega

theorem list_sorted (m : Lanes) : m.list.Pairwise (· < ·) := List.Pairwise.filter _ List.pairwise_lt_range

theorem badEntry_iff (c : Ctx) (b : Opnd) : badEntry c b = true ↔
    ∃ l, l < 96 ∧ c.g.em.getLsbD l = true ∧ ((src32 c b l).toNat % 8 ≠ 0 ∨ 1016 < (src32 c b l).toNat) := by
  simp only [badEntry, List.any_eq_true, mem_list, Bool.or_eq_true, bne_iff_ne, decide_eq_true_eq, and_assoc]

theorem entryWords_eq (c : Ctx) (a b : Opnd) :
    entryWords c a b = (c.g.em.list.map (laneWords (fun l => (src32 c b l).toNat) fun l m => regWord c a m l)).flatten := rfl

theorem mget?_lanes (entry : Nat → Nat) (ls : List Nat) (l : Nat) (h : l ∈ ls) : mget? (ls.map fun l => (l, entry l)) l = some (entry l) := by
  induction ls with
  | nil => simp at h
  | cons x r ih =>
    rw [List.map_cons, mget?]
    by_cases hx : x = l
    · simp [hx]
    · rw [if_neg hx]
      exact ih ((List.mem_cons.1 h).resolve_left (Ne.symm hx))

/-- What an instruction reads of a tile at which no contraction is open. -/
theorem rowAt_readRows (s : State) (tl : Tile) (entry : Nat → Nat) (ls : List Nat) (m l : Nat) (h : tl.insts = []) (hm : m < 8) (hl : l < 96)
    (hmem : l ∈ ls) : rowAt ((readRows s tl (ls.map fun l => (l, entry l))).getD m []) l = mgetD tl.elems (entry l + m) 0 := by
  have hread (e : Nat) : readElem s tl e = mgetD tl.elems e 0 := by
    rw [readElem, asyncRegion, h]
    rfl
  rw [readRows, List.getD_eq_getElem?_getD, List.getElem?_map, List.getElem?_range hm, Option.map_some, Option.getD_some, rowAt,
    List.getD_eq_getElem?_getD, List.getElem?_map, List.getElem?_range hl, Option.map_some, Option.getD_some, mget?_lanes entry ls l hmem]
  exact hread _

theorem count_append_acc (f : Flight) (level : Nat) (p : Pend) (hl : p.level = level) (hc : p.acc = true) :
    count { f with pend := f.pend ++ [p] } level .acc = count f level .acc + 1 := by
  simp [count, List.filter_append, hl, Pend.counter, hc, Nat.add_assoc]

/-- The result that an ACCRD issues. -/
def accPend (s : State) (f : Flight) (g : Fragment) (d : Opnd) (rows : List Row) : Pend :=
  { id := s.nextId, acc := true, frag := g.num, level := g.level, dst := d, rows := rows, lanes := g.em, flags := [], pc := g.pc
    seq := f.seqNo, vhits := [], cleared := [], late := false, watch := (Machine.core s f.core).bcn, held := false }

theorem pendResult_acc (s : State) (f : Flight) (g : Fragment) (d : Opnd) (rows : List Row) :
    pendResult (ctxOf s f g) true d rows [] = { ctxOf s f g with
      st := { s with nextId := s.nextId + 1 }, f := { f with pend := f.pend ++ [accPend s f g d rows] } } := rfl

theorem issues_accrd (i : Instr) (s : State) (f : Flight) (g : Fragment) (d : Opnd) (rows : List Row) (hi : Issues s f g) (hu : Unwatched s f)
    (he : exec i s = .next (retireNext (ctxOf s f g) (pendResult (ctxOf s f g) true d rows []))) :
    CompletesIn i s f g { s with nextId := s.nextId + 1 } f (g.pc + 8) fun t f' g' =>
      g'.em = g.em ∧ ScalarsSame f f' g g' ∧ VectorsSame s t f f' ∧ f'.lflags = f.lflags ∧
        count f' g.level .acc = count f g.level .acc + 1 ∧ f'.pend = f.pend ++ [accPend s f g d rows] := by
  rw [pendResult_acc] at he
  refine completesIn_of i s f g f (g.pc + 8) _ _ hi hu.1 rfl rfl rfl rfl he rfl fun t f' g' hfree hem hf' => ?_
  refine ⟨hem, fun n => getS_em _ _ _ _ n (by rw [hf']; rfl) hem,
    fun n l => getV_same s t f f' n l (by rw [hf']; rfl) (by rw [hf']; rfl) hfree, by rw [hf']; rfl, ?_, by rw [hf']; rfl⟩
  rw [← count_append_acc f g.level (accPend s f g d rows) rfl rfl, hf']
  rfl

/-- The flight after an ACCRD's result has been written, before its counter falls. -/
def landedAcc (s : State) (f : Flight) (p : Pend) (n : Fin 192) : Flight :=
  let f1 := (List.range 8).foldl (fun f k => landReg s f p.id p.level (opAdd (.v n) k) p.lanes p.vhits (rowAt (p.rows.getD k []))) f
  let f2 := f1.raise (p.raised s)
  { f2 with pend := f2.pend.map fun q => if q.id == p.id then { q with rows := [] } else q }

theorem landPend_acc (s : State) (fid : Nat) (p : Pend) (n : Fin 192) (hd : p.dst = .v n) (hr : p.rows.length = 8) (hl : p.late = false) :
    landPend s fid p = { modFlight s fid (fun f => prune s (landedAcc s f p n)) with free := s.free + 1 } := by
  unfold landPend
  rw [hl, hd, hr]
  rfl

/-- The landing of an ACCRD's result (09 R253, 06 R155). -/
theorem accrd_lands (s : State) (fid : Nat) (f : Flight) (p : Pend) (n : Fin 192) (hf : flight? s fid = some f) (hp : p ∈ f.pend)
    (hone : ∀ q ∈ f.pend, q.id = p.id → q = p) (hacc : p.acc = true) (hdst : p.dst = .v n) (hn : n.val + 8 ≤ 192)
    (hrows : p.rows.length = 8) (hlate : p.late = false) (hasync : ∀ k, asyncLanes f k = 0) (hready : pendReady f p = true)
    (hfrz : frozen s f.pid = false) (hearly : NoEarly { f with pend := f.pend.filter fun q => q.id ≠ p.id })
    (hhits : ∀ h ∈ p.vhits, n.val ≤ h.1 ∧ h.1 < n.val + 8) (hdest : NoDest f.mops (f.pend.filter fun q => q.id ≠ p.id) (.v n) 8) :
    ∃ t f', exec (.accrdResultWrite fid p.id) s = .next t ∧ flight? t fid = some f' ∧
      (∀ m l, m < 8 → l < 96 → p.lanes.getLsbD l → wasHit p.vhits (n.val + m) l = false →
        getV t f' (n.val + m) l = rowAt (p.rows.getD m []) l) ∧
      (∀ k l, l < 96 → ¬((n.val ≤ k ∧ k < n.val + 8) ∧ p.lanes.getLsbD l) → wasHit p.vhits k l = false →
        getV t f' k l = getV s f k l) ∧ f'.s = f.s ∧
      MemorySame s t ∧ ∀ k, k ≠ fid → flight? t k = flight? s k := by
  have hfind : f.pend.find? (fun q => q.id == p.id && q.acc) = some p :=
    find?_unique _ _ p hp (by simp [hacc]) fun q hq h => hone q hq (by simpa using (Bool.and_eq_true_iff.1 h).1)
  have hrun : exec (.accrdResultWrite fid p.id) s = .next (landPend s fid p) := by
    show execAccrdResultWrite fid p.id s = _
    simp only [execAccrdResultWrite, hf, hfind, hready, hfrz, Bool.not_false, Bool.and_self, if_true]
  have hstate := landPend_acc s fid p n hdst hrows hlate
  have hin (k : Nat) (h1 : n.val ≤ k) (h2 : k < n.val + 8) : inGroupV (some (Opnd.v n, 8)) k = true := by simp [inGroupV]; omega
  have hland := landedRows_foldl s f p.id p.level n p.lanes p.vhits (fun k => p.rows.getD k []) 8 hn hasync
    (fun o ho _ k h1 h2 => (hdest.1 o ho k).1 (hin k h1 h2))
    (fun q hq hne k h1 h2 => hdest.2 q (List.mem_filter.2 ⟨hq, by simpa using hne⟩) k (hin k h1 h2))
  obtain ⟨f1, hf1⟩ : ∃ f1, f1 = landedAcc s f p n := ⟨_, rfl⟩
  obtain ⟨f0, hf0⟩ : ∃ f0, f0 = (List.range 8).foldl
    (fun f k => landReg s f p.id p.level (opAdd (.v n) k) p.lanes p.vhits (rowAt (p.rows.getD k []))) f := ⟨_, rfl⟩
  rw [← hf0] at hland
  obtain ⟨hrest, hreads, hdone, hothers⟩ := hland
  have hv1 : f1.v = f0.v := by rw [hf1, hf0]; rfl
  have hmops1 : f1.mops = f.mops := by rw [hf1, landedAcc, ← hf0, hrest]; rfl
  have hs1 : f1.s = f.s := by rw [hf1, landedAcc, ← hf0, hrest]; rfl
  have hpend1 : f1.pend = f.pend.map fun q => if q.id == p.id then { q with rows := [] } else q := by
    rw [hf1, landedAcc, ← hf0, hrest]; rfl
  have hasync1 : f1.asyncR = f0.asyncR := by rw [hf1, hf0]; rfl
  have hpruned := lostLanes_prune s f1 p.vhits
    (fun o ho => by
      have := hearly.1 o (hmops1 ▸ ho)
      rw [this.1, this.2]
      simp)
    (fun q hq h hh => by
      rw [hpend1] at hq
      obtain ⟨q0, hq0, rfl⟩ := List.mem_map.1 hq
      by_cases hid : q0.id = p.id
      · rw [if_pos (by simpa using hid)] at hh
        rw [hone q0 hq0 hid] at hh
        exact ⟨hh, by have := (hhits h hh).2; omega⟩
      · rw [if_neg (by simpa using hid), hearly.2 q0 (List.mem_filter.2 ⟨hq0, by simpa using hid⟩)] at hh
        simp at hh)
  obtain ⟨f', hf'⟩ : ∃ f', f' = prune s f1 := ⟨_, rfl⟩
  rw [← hf'] at hpruned
  obtain ⟨hrest', hlanes⟩ := hpruned
  have hasync' (k : Nat) : asyncLanes f' k = 0 := by
    have h1 : f'.asyncR = f0.asyncR := by rw [hrest', ← hasync1]
    have h2 : asyncLanes f' k = asyncLanes f0 k := by rw [asyncLanes, h1, asyncLanes]
    rw [h2, hreads, hasync]
  have hval (k l : Nat) (hl : l < 96) (hh : wasHit p.vhits k l = false) :
      getV (landPend s fid p) f' k l = rowAt (mgetD f0.v k []) l := by
    rw [getV_free_register _ _ _ _ (hasync' k), hlanes k l hl hh]
    show rowAt (mgetD f1.v k []) l = _
    rw [hv1]
  have hflight : flight? (landPend s fid p) fid = some f' := by
    rw [hstate]
    show flight? (Machine.modFlight s fid _) fid = _
    rw [flight?_modFlight, if_pos rfl, hf, Option.map_some, hf', hf1]
  refine ⟨_, f', hrun, hflight, fun m l hm hl hact hh => ?_, fun k l hl hact hh => ?_, ?_, fun a => ?_, fun k hk => ?_⟩
  · rw [hval _ l hl hh, hdone m hm, rowAt_landedRow s _ _ _ _ _ l hl hh, if_pos hact]
  · rw [hval k l hl hh, getV_free_register _ _ _ _ (hasync k)]
    by_cases hk : n.val ≤ k ∧ k < n.val + 8
    · obtain ⟨j, rfl⟩ : ∃ j, k = n.val + j := ⟨k - n.val, by omega⟩
      rw [hdone j (by omega), rowAt_landedRow s _ _ _ _ _ l hl hh, if_neg fun h => hact ⟨hk, h⟩]
    · rw [hothers k (by omega)]
  · rw [hrest']
    exact hs1
  · rw [hstate]
    rfl
  · rw [hstate]
    show flight? (Machine.modFlight s fid _) k = _
    rw [flight?_modFlight, if_neg hk]

theorem freeTile_spec (s : State) (f : Flight) (reserve k : Nat) (h : freeTile s f reserve = some k) :
    (tileAt s k).owner = none ∧ k / 128 = f.core := by
  have key (p : Nat → Bool) (hk : ((List.range 128).map fun n => f.core * 128 + n).find? (fun t => (tileAt s t).owner.isNone && p t) = some k) :
      (tileAt s k).owner = none ∧ k / 128 = f.core := by
    have h1 := List.find?_some hk
    obtain ⟨n, hn, rfl⟩ := List.mem_map.1 (List.mem_of_find?_eq_some hk)
    rw [List.mem_range] at hn
    exact ⟨Option.isNone_iff_eq_none.1 (Bool.and_eq_true_iff.1 h1).1, by omega⟩
  unfold freeTile at h
  dsimp only at h
  split at h
  · exact key _ h
  · exact key _ h

/-- Settles O42: the instructions by `tileIssue_acts`, the landing by `accrd_lands`. -/
theorem tiles : Obligations.Tiles := by
  refine ⟨?_, ?_⟩
  · intro s f g d e a b x hi hu hm hd hx c entry badGroup
    have hme : MayName f g [(e, 1)] := mayName_subset f g _ _ hm (by simp)
    have hmrd : MayName f g ((e, 1) :: [(d, 8), (b, 1)]) := mayName_subset f g _ _ hm (by intro y; simp; rintro (h | h | h) <;> simp [h])
    have hmwr : MayName f g ((e, 1) :: [(a, 8), (b, 1)]) := mayName_subset f g _ _ hm (by intro y; simp; rintro (h | h | h) <;> simp [h])
    have hget := (exec_accget e s).trans (issue_acts _ _ _ s f g hi hme (by simp))
    have htiles : (gangOf (ctxOf s f g).st (ctxOf s f g).f).elim 0 (·.tiles) = x.tiles := by
      rw [show gangOf (ctxOf s f g).st (ctxOf s f g).f = some x from hx]
      rfl
    refine ⟨fun hfree => ?_, fun k hfree => ?_, fun hdead i hmem => ?_, fun k hlive hinst hfold => ?_⟩
    · simp only [htiles, show freeTile (ctxOf s f g).st (ctxOf s f g).f x.tiles = none from hfree] at hget
      exact setsScalar_of _ s f g e 0 hi hu hd hget
    · obtain ⟨hown, hcore⟩ := freeTile_spec s f x.tiles k hfree
      simp only [htiles, show freeTile (ctxOf s f g).st (ctxOf s f g).f x.tiles = some k from hfree] at hget
      exact ⟨hown, hcore, completesIn_state_put s f g hi hu _ { s with tiles := mset s.tiles k _ } e _ hd rfl rfl rfl hget⟩
    · simp only [List.mem_cons, List.not_mem_nil, or_false] at hmem
      rcases hmem with rfl | rfl | rfl | rfl
      · exact (exec_accput e s).trans (tileIssue_dead s f g e hi _ _ hme hdead)
      · exact (exec_accz e s).trans (tileIssue_dead s f g e hi _ _ hme hdead)
      · exact (exec_accrd d e b s).trans (tileIssue_dead s f g e hi _ _ hmrd hdead)
      · exact (exec_accwr e a b s).trans (tileIssue_dead s f g e hi _ _ hmwr hdead)
    · have hput := (exec_accput e s).trans (tileIssue_acts s f g e hi _ _ k hme hlive hinst hfold)
      have hzero := (exec_accz e s).trans (tileIssue_acts s f g e hi _ _ k hme hlive hinst hfold)
      have hread := (exec_accrd d e b s).trans (tileIssue_acts s f g e hi _ _ k hmrd hlive hinst hfold)
      have hwrite := (exec_accwr e a b s).trans (tileIssue_acts s f g e hi _ _ k hmwr hlive hinst hfold)
      have hbad : badEntry (ctxOf s f g) b = true ↔ badGroup := badEntry_iff (ctxOf s f g) b
      have hstream : streamBad f = true ↔ f.sq.length ≠ f.psets.length := by rw [streamBad, bne_iff_ne]
      have hbelow (h : count f g.level .acc < 3) : ¬ Counter.limit .acc ≤ count (ctxOf s f g).f (ctxOf s f g).g.level .acc := Nat.not_le.2 h
      have heven (h : f.sq.length = f.psets.length) : ¬ streamBad (ctxOf s f g).f = true := fun hb => hstream.1 hb h
      have hgood (h : ¬ badGroup) : ¬ badEntry (ctxOf s f g) b = true := fun hb => h (hbad.1 hb)
      intro tl
      refine ⟨fun h => ⟨?_, fun hc => ?_⟩, fun h hps => ?_, fun h hps => ?_, ?_, fun hc => ?_, fun h => ⟨?_, fun hc hev => ?_⟩, fun h hc hev => ?_,
        fun h => ?_⟩
      · exact hput.trans (congrArg _ (if_pos (hstream.2 h)))
      · exact hread.trans (congrArg _ ((if_neg (hbelow hc)).trans (if_pos (hstream.2 h))))
      · have hopen : (!(tileAt s k).insts.isEmpty || !(tilePsets s k).isEmpty) = true := by
          rw [hinst, List.isEmpty_eq_false_iff.2 hps]
          rfl
        exact hput.trans (congrArg _ ((if_neg (heven h)).trans (if_pos hopen)))
      · have hclosed : ¬ (!(tileAt s k).insts.isEmpty || !(tilePsets s k).isEmpty) = true := by
          rw [hinst, hps]
          decide
        exact completesIn_tile s f g hi hu _ k _ (hput.trans (congrArg _ ((if_neg (heven h)).trans (if_neg hclosed))))
      · have hact := actOn_empty s k s.cur.1 .zero hinst
        exact completesIn_tile s f g hi hu _ k _ (hzero.trans (congrArg (fun y => Host.Outcome.next (retireNext (ctxOf s f g)
          { ctxOf s f g with st := y })) hact))
      · exact stalls_of _ s f g _ hi (hread.trans (congrArg _ (if_pos hc)))
      · exact hwrite.trans (congrArg _ (if_pos (hbad.2 h)))
      · exact hread.trans (congrArg _ ((if_neg (hbelow hc)).trans ((if_neg (heven hev)).trans (if_pos (hbad.2 h)))))
      · have hown : openOwn (tileAt (ctxOf s f g).st k) (ctxOf s f g).st.cur.1 = [] := openOwn_empty _ _ hinst
        have hspoil : spoil (ctxOf s f g).st k = s := spoil_empty s k hinst
        have hrun := hread.trans (congrArg _ ((if_neg (hbelow hc)).trans ((if_neg (heven hev)).trans (if_neg (hgood h)))))
        simp only [hown, hspoil] at hrun
        obtain ⟨t, f', g', he, hf, hg, hout, hsib, hsf, hfl, hval⟩ := issues_accrd _ s f g d _ hi hu hrun
        obtain ⟨hem, hsc, hvec, hlf, hcount, hpend⟩ := hval
        refine ⟨t, f', g', he, hf, hg, hout, hsib, hsf, hfl, hem, hsc, hvec, hlf, hcount, _, hpend, rfl, rfl, rfl, rfl, rfl, rfl, rfl,
          fun m l hm hl hact => ?_⟩
        exact rowAt_readRows s tl entry g.em.list m l hinst hm hl ((mem_list g.em l).2 ⟨hl, hact⟩)
      · have hact := actOn_empty s k s.cur.1 (.put (entryWords (ctxOf s f g) a b)) hinst
        have hrun := hwrite.trans (congrArg _ (if_neg (hgood h)))
        have halign (l : Nat) (hl : l ∈ g.em.list) : entry l % 8 = 0 := by
          refine Classical.byContradiction fun hne => ?_
          exact h ⟨l, ((mem_list g.em l).1 hl).1, ((mem_list g.em l).1 hl).2, Or.inl hne⟩
        refine ⟨(entryWords (ctxOf s f g) a b).foldl (fun (tl : Tile) (w : Nat × Word) => putElem tl w.1 w.2) tl, putElem_rest _ tl,
          completesIn_tile s f g hi hu _ k _ (hrun.trans (congrArg (fun y => Host.Outcome.next (retireNext (ctxOf s f g)
            { ctxOf s f g with st := y })) hact)), fun n hn => ?_, fun l m hl hm hact hlast => ?_⟩
        · refine elems_unnamed _ _ n fun w hw => ?_
          rw [entryWords_eq] at hw
          obtain ⟨ws, hws, hmem⟩ := List.mem_flatten.1 hw
          obtain ⟨l, hl, rfl⟩ := List.mem_map.1 hws
          obtain ⟨j, hj, rfl⟩ := (mem_laneWords _ _ _ _).1 hmem
          obtain ⟨hl1, hl2⟩ := (mem_list g.em l).1 hl
          have := hn l hl1 hl2
          show entry l + j ≠ n
          omega
        · exact elems_lanes entry (fun l m => regWord (ctxOf s f g) a m l) g.em.list (list_sorted g.em) tl halign l m
            ((mem_list g.em l).2 ⟨hl, hact⟩) hm fun j hj hlt => hlast j hlt ((mem_list g.em j).1 hj).1 ((mem_list g.em j).1 hj).2
  · intro s fid f p n hf hp hone hacc hdst hn hrows hlate hasync hready hfrz hearly hhits hdest
    exact accrd_lands s fid f p n hf hp hone hacc hdst hn hrows hlate hasync hready hfrz hearly hhits hdest

end Sys2Proof.Machine
end

section
/-!
SUPPORT. Cancels and counts by name (15 R325, R333, R334).
-/
namespace Sys2Proof.Machine

/-! ### What a cancel leaves -/

theorem cancelLaunch_eq (s : State) (key : Nat) (l : Launch) (hl : mget? s.launches key = some l) (hlt : l.state < 2) :
    cancelLaunch s key = { s with
      launches := mset s.launches key { l with cancel := true, contribs := [] }
      gangs := (cancelLaunch s key).gangs
      flights := mmap s.flights fun _ f => if lkey f.pid f.launch == key then f.cancelled else f
      global := s.global.map fun q => q.filter (· != key)
      dies := (cancelLaunch s key).dies } := by
  simp only [cancelLaunch, hl, if_neg (Nat.not_le.2 hlt)]
  rfl

theorem cancelLaunch_absent (s : State) (key : Nat) (h : ∀ l, mget? s.launches key = some l → 2 ≤ l.state) : cancelLaunch s key = s := by
  unfold cancelLaunch
  split
  next => rfl
  next l hl => rw [if_pos (h l hl)]

/-- What a cancel leaves untouched. -/
theorem cancelLaunch_rest (s : State) (key : Nat) : cancelLaunch s key = { s with
    launches := (cancelLaunch s key).launches, gangs := (cancelLaunch s key).gangs, flights := (cancelLaunch s key).flights
    global := (cancelLaunch s key).global, dies := (cancelLaunch s key).dies } := by
  unfold cancelLaunch
  split
  · rfl
  · split <;> rfl

theorem cancelTree_rest (s : State) (pid root : Nat) : cancelTree s pid root = { s with
    launches := (cancelTree s pid root).launches, gangs := (cancelTree s pid root).gangs, flights := (cancelTree s pid root).flights
    global := (cancelTree s pid root).global, dies := (cancelTree s pid root).dies } := by
  have hfold (ks : List Nat) (s : State) : ks.foldl cancelLaunch s = { s with
      launches := (ks.foldl cancelLaunch s).launches, gangs := (ks.foldl cancelLaunch s).gangs
      flights := (ks.foldl cancelLaunch s).flights, global := (ks.foldl cancelLaunch s).global, dies := (ks.foldl cancelLaunch s).dies } := by
    induction ks generalizing s with
    | nil => rfl
    | cons k r ih => rw [List.foldl_cons, ih, cancelLaunch_rest s k]
  have h := hfold (treeKeys s pid root) s
  rw [cancelTree, modLaunch, h]

/-- A launch that a cancel has marked. -/
def CancelMarked (t : State) (k : Nat) : Prop := ∃ l', mget? t.launches k = some l' ∧ l'.cancel = true ∧ l'.contribs = []

theorem cancelLaunch_marks (s : State) (key : Nat) (l : Launch) (hl : mget? s.launches key = some l) (hlt : l.state < 2) :
    CancelMarked (cancelLaunch s key) key := by
  rw [CancelMarked, cancelLaunch_eq s key l hl hlt]
  exact ⟨_, mget?_mset_same _ _ _, rfl, rfl⟩

theorem cancelLaunch_other (s : State) (key k : Nat) (h : k ≠ key) : mget? (cancelLaunch s key).launches k = mget? s.launches k := by
  by_cases hl : ∃ l, mget? s.launches key = some l ∧ l.state < 2
  · obtain ⟨l, hl, hlt⟩ := hl
    rw [cancelLaunch_eq s key l hl hlt]
    exact mget?_mset_ne _ _ h
  · rw [cancelLaunch_absent s key fun l hl' => Nat.not_lt.1 fun hlt => hl ⟨l, hl', hlt⟩]

/-- A cancel keeps each launch's state and whether it is a root. -/
theorem cancelLaunch_keeps (s : State) (key k : Nat) : (mget? (cancelLaunch s key).launches k).map (fun l => (l.state, l.isRoot)) =
    (mget? s.launches k).map fun l => (l.state, l.isRoot) := by
  by_cases hl : ∃ l, mget? s.launches key = some l ∧ l.state < 2
  · obtain ⟨l, hl, hlt⟩ := hl
    by_cases hk : k = key
    · subst hk
      rw [cancelLaunch_eq s k l hl hlt, hl]
      show (mget? (mset s.launches k _) k).map _ = _
      rw [mget?_mset_same]
      rfl
    · rw [cancelLaunch_other s key k hk]
  · rw [cancelLaunch_absent s key fun l hl' => Nat.not_lt.1 fun hlt => hl ⟨l, hl', hlt⟩]

/-- A marked launch stays marked when others are cancelled. -/
theorem cancelMarked_stays (s : State) (key k : Nat) (h : CancelMarked s k) : CancelMarked (cancelLaunch s key) k := by
  obtain ⟨l, hl, hc, hz⟩ := h
  by_cases hk : k = key
  · subst hk
    by_cases hlt : l.state < 2
    · exact cancelLaunch_marks s k l hl hlt
    · rw [cancelLaunch_absent s k fun l' hl' => by rw [hl] at hl'; cases hl'; exact Nat.not_lt.1 hlt]
      exact ⟨l, hl, hc, hz⟩
  · exact ⟨l, (cancelLaunch_other s key k hk).trans hl, hc, hz⟩

/-- Every launch among some that has not ended is marked. -/
theorem cancelAll_marks (ks : List Nat) (s : State) (k : Nat) (l : Launch) (hl : mget? s.launches k = some l) (hlt : l.state < 2)
    (hk : k ∈ ks ∨ CancelMarked s k) : CancelMarked (ks.foldl cancelLaunch s) k := by
  induction ks generalizing s l with
  | nil => exact hk.resolve_left (by simp)
  | cons x r ih =>
    have hkeep := cancelLaunch_keeps s x k
    rw [hl, Option.map_some] at hkeep
    obtain ⟨l', hl', he⟩ := Option.map_eq_some_iff.1 hkeep
    have hst : l'.state = l.state := congrArg Prod.fst he
    refine ih (cancelLaunch s x) l' hl' (hst ▸ hlt) ?_
    rcases hk with hk | hm
    · rcases List.mem_cons.1 hk with rfl | hr
      · exact Or.inr (cancelLaunch_marks s k l hl hlt)
      · exact Or.inl hr
    · exact Or.inr (cancelMarked_stays s x k hm)

theorem cancelAll_keeps (ks : List Nat) (s : State) (k : Nat) : (mget? (ks.foldl cancelLaunch s).launches k).map (fun l => (l.state, l.isRoot)) =
    (mget? s.launches k).map fun l => (l.state, l.isRoot) := by
  induction ks generalizing s with
  | nil => rfl
  | cons x r ih => rw [List.foldl_cons, ih, cancelLaunch_keeps]

/-- A flight of a cancelled launch. -/
theorem flight?_cancelLaunch (s : State) (key : Nat) (l : Launch) (hl : mget? s.launches key = some l) (hlt : l.state < 2) (k : Nat)
    (f : Flight) (hf : flight? s k = some f) (hkey : lkey f.pid f.launch = key) : flight? (cancelLaunch s key) k = some f.cancelled := by
  rw [cancelLaunch_eq s key l hl hlt]
  refine (mget?_mmap s.flights (fun _ f => if lkey f.pid f.launch == key then f.cancelled else f) k).trans ?_
  rw [show mget? s.flights k = some f from hf, Option.map_some, hkey, beq_self_eq_true, if_pos rfl]

theorem knownLaunch_listed (s : State) (pid id : Nat) (l : Launch) (h : knownLaunch s pid id = some l) :
    mget? s.launches (lkey pid id) = some l := by
  unfold knownLaunch at h
  split at h
  next p l' hp hl =>
    dsimp only at h
    rw [Option.ite_none_right_eq_some] at h
    rw [hl, h.2]
  next => simp at h

/-! ### The instructions -/

section
variable (s : State) (f : Flight) (g : Fragment) (d : Opnd) (hi : Issues s f g) (hu : Unwatched s f) (hd : IsScalar d)

include hi hu hd in
/-- An instruction that has left the machine as `s1` and writes a scalar. -/
theorem state_put_leaves (i : Instr) (w : Word) (s1 : State) (hcur : s1.cur = s.cur) (hfree : s1.free = s.free) (hmem : MemorySame s s1)
    (he : exec i s = .next (retireNext (ctxOf s f g) (putS { ctxOf s f g with st := s1 } d w))) :
    ∃ t f' g', exec i s = .next t ∧ flight? t s.cur.1 = some f' ∧ frag? f' g.num = some g' ∧ g'.pc = g.pc + 8 ∧ g'.wait = .run ∧
      ScalarWrite f f' g g' d [w] ∧ VectorsSame s t f f' ∧ MemorySame s t ∧ t.launches = s1.launches ∧ t.global = s1.global ∧
      ∀ k, k ≠ s.cur.1 → flight? t k = flight? s1 k := by
  obtain ⟨hst, -, hf, hg⟩ := putS_rest { ctxOf s f g with st := s1 } d w
  have hput : puts { ctxOf s f g with st := s1 } d [w] = putS { ctxOf s f g with st := s1 } d w := by rw [puts_one, opAdd_zero]
  have hsw := scalarWrite_puts { ctxOf s f g with st := s1 } d [w] hd (idx_lt_size d (isScalar_register d hd))
  rw [hput] at hsw
  obtain ⟨c, hc⟩ : ∃ c, c = putS { ctxOf s f g with st := s1 } d w := ⟨_, rfl⟩
  rw [← hc] at he hst hf hg hsw
  rw [retireNext, retire_unwatched _ _ (by rw [next, goto, hf]; exact hu.1)] at he
  obtain ⟨h1, h2, -, h4⟩ := commit_leaves s f g (settled (next c)) hi (by show c.st.cur = _; rw [hst]; exact hcur)
    (by show c.f.frags = _; rw [hf]; rfl) (by show c.g.num = _; rw [hg]; rfl)
  refine ⟨_, _, _, he, h1, h2, ?_, rfl, hsw _ _ rfl rfl rfl rfl, fun n l => getV_same _ _ _ _ n l ?_ ?_ ?_, fun a => ?_, ?_, ?_,
    fun k hk => (h4 k hk).trans ?_⟩
  · show c.g.pc + 8 = _
    rw [hg]; rfl
  · show c.f.v = _
    rw [hf]; rfl
  · show c.f.asyncR = _
    rw [hf]; rfl
  · show c.st.free = _
    rw [hst]; exact hfree
  · show readByte c.st a = _
    rw [hst]; exact hmem a
  · show c.st.launches = _
    rw [hst]
  · show c.st.global = _
    rw [hst]
  · show flight? c.st k = _
    rw [hst]

variable (a : Opnd) (hm : MayName f g [(d, 1), (a, 1)])

include hi hm

theorem cancelBy_stalls (tree : Bool) (h : openFor f g.owned ≠ false) : cancelBy tree d a s = .next (stall (ctxOf s f g) .order) :=
  (issue_acts _ _ _ s f g hi hm (by simp)).trans (congrArg _ (if_pos (eq_true_of_ne_false h)))

/-- A cancel that names nothing, or what has ended, tells so. -/
theorem cancelBy_tells (tree : Bool) (r : Nat) (hq : openFor f g.owned = false) (hr : r ≠ 0)
    (h : cancelNamed s f.pid (srcS (ctxOf s f g) a).toNat tree = (r, s)) :
    cancelBy tree d a s = .next (retireNext (ctxOf s f g) (putS (ctxOf s f g) d (BitVec.ofNat 32 r))) := by
  have hgo : ¬ openFor (ctxOf s f g).f (ctxOf s f g).g.owned = true := by
    rw [show openFor (ctxOf s f g).f (ctxOf s f g).g.owned = false from hq]
    decide
  have hn : cancelNamed (ctxOf s f g).st (ctxOf s f g).f.pid (srcS (ctxOf s f g) a).toNat tree = (r, s) := h
  refine (issue_acts _ _ _ s f g hi hm (by simp)).trans (congrArg _ ((if_neg hgo).trans ?_))
  simp only [hn]
  cases r with
  | zero => exact absurd rfl hr
  | succ r => rfl

/-- A cancel that takes effect, of other launches or of its own. -/
theorem cancelBy_takes (tree : Bool) (s1 : State) (hq : openFor f g.owned = false)
    (h : cancelNamed s f.pid (srcS (ctxOf s f g) a).toNat tree = (0, s1)) :
    cancelBy tree d a s = .next (if cancelsOwn (ctxOf s f g) (srcS (ctxOf s f g) a).toNat tree then
      (cancelNamed (commit (settled (next (ctxOf s f g)))) f.pid (srcS (ctxOf s f g) a).toNat tree).2
      else retireNext (ctxOf s f g) (putS { ctxOf s f g with st := s1 } d 0)) := by
  have hgo : ¬ openFor (ctxOf s f g).f (ctxOf s f g).g.owned = true := by
    rw [show openFor (ctxOf s f g).f (ctxOf s f g).g.owned = false from hq]
    decide
  have hn : cancelNamed (ctxOf s f g).st (ctxOf s f g).f.pid (srcS (ctxOf s f g) a).toNat tree = (0, s1) := h
  refine (issue_acts _ _ _ s f g hi hm (by simp)).trans (congrArg _ ((if_neg hgo).trans ?_))
  simp only [hn]
  rfl

end

/-! ### What a cancel by name answers (15 R333) -/

section
variable (s : State) (pid id : Nat)

theorem cancelNamed_unknown (tree : Bool) (h : knownLaunch s pid id = none) : cancelNamed s pid id tree = (2, s) := by
  simp only [cancelNamed, h]

theorem cancelNamed_noRoot (l : Launch) (h : knownLaunch s pid id = some l) (hr : l.isRoot = false) : cancelNamed s pid id true = (2, s) := by
  simp only [cancelNamed, h, hr, Bool.not_false, Bool.and_self, if_true]

theorem cancelNamed_ended (l : Launch) (h : knownLaunch s pid id = some l) (he : 2 ≤ l.state) : cancelNamed s pid id false = (1, s) := by
  simp only [cancelNamed, h, Bool.false_and, Bool.false_eq_true, if_false, if_pos he]

theorem cancelNamed_runs (l : Launch) (h : knownLaunch s pid id = some l) (he : l.state < 2) :
    cancelNamed s pid id false = (0, cancelLaunch s (lkey pid id)) := by
  simp only [cancelNamed, h, Bool.false_and, Bool.false_eq_true, if_false, if_neg (Nat.not_le.2 he)]

theorem treeOver_iff : ((treeKeys s pid id).all fun k => (mget? s.launches k).elim true fun l => 2 ≤ l.state) = true ↔
    ∀ k ∈ treeKeys s pid id, ∀ x, mget? s.launches k = some x → 2 ≤ x.state := by
  rw [List.all_eq_true]
  refine forall_congr' fun k => forall_congr' fun _ => ?_
  cases mget? s.launches k with
  | none => simp
  | some x => simp

theorem cancelNamed_treeEnded (l : Launch) (h : knownLaunch s pid id = some l) (hr : l.isRoot = true)
    (he : ∀ k ∈ treeKeys s pid id, ∀ x, mget? s.launches k = some x → 2 ≤ x.state) : cancelNamed s pid id true = (1, s) := by
  simp only [cancelNamed, h, hr, Bool.not_true, Bool.and_false, Bool.false_eq_true, if_false, if_pos ((treeOver_iff s pid id).2 he), if_true]

theorem cancelNamed_treeRuns (l : Launch) (h : knownLaunch s pid id = some l) (hr : l.isRoot = true)
    (he : ∃ k ∈ treeKeys s pid id, ∃ x, mget? s.launches k = some x ∧ x.state < 2) :
    cancelNamed s pid id true = (0, cancelTree s pid id) := by
  have hno : ¬ ((treeKeys s pid id).all fun k => (mget? s.launches k).elim true fun l => 2 ≤ l.state) = true := fun hall => by
    obtain ⟨k, hk, x, hx, hlt⟩ := he
    exact absurd ((treeOver_iff s pid id).1 hall k hk x hx) (Nat.not_le.2 hlt)
  simp only [cancelNamed, h, hr, Bool.not_true, Bool.and_false, Bool.false_eq_true, if_false, if_neg hno, if_true]

end

theorem lkey_inj (pid a b : Nat) (h : lkey pid a = lkey pid b) : a = b := Nat.add_left_cancel h

section
variable (s : State) (f : Flight) (g : Fragment) (d a : Opnd) (hi : Issues s f g) (hu : Unwatched s f) (hd : IsScalar d)
  (hm : MayName f g [(d, 1), (a, 1)])

include hi hu hd hm

theorem countOf_unknown (i : Instr) (acq : Bool) (k : Launch → Nat) (he : exec i s = countOf acq k d a s)
    (h : knownLaunch s f.pid (srcS (ctxOf s f g) a).toNat = none) : SetsScalar i s f g d 0xFFFF_FFFF := by
  have hk : knownLaunch (ctxOf s f g).st (ctxOf s f g).f.pid (srcS (ctxOf s f g) a).toNat = none := h
  have hrun := he.trans (issue_acts _ _ _ s f g hi hm (by simp))
  simp only [hk] at hrun
  exact setsScalar_of i s f g d _ hi hu hd hrun

theorem countOf_known (i : Instr) (acq : Bool) (k : Launch → Nat) (l : Launch) (he : exec i s = countOf acq k d a s)
    (h : knownLaunch s f.pid (srcS (ctxOf s f g) a).toNat = some l) (hst : acq = false ∨ l.state < 2) :
    SetsScalar i s f g d (BitVec.ofNat 32 (k l)) := by
  have hk : knownLaunch (ctxOf s f g).st (ctxOf s f g).f.pid (srcS (ctxOf s f g) a).toNat = some l := h
  have hno : (acq && decide (2 ≤ l.state)) = false := by
    rcases hst with rfl | hlt
    · rfl
    · rw [decide_eq_false (Nat.not_le.2 hlt), Bool.and_false]
  have hrun := he.trans (issue_acts _ _ _ s f g hi hm (by simp))
  simp only [hk, hno, Bool.false_eq_true, if_false] at hrun
  exact setsScalar_of i s f g d _ hi hu hd hrun

/-- A count that acquires, of a launch that has ended (15 R334, 04 R99). -/
theorem countOf_acquires (i : Instr) (k : Launch → Nat) (l : Launch) (he : exec i s = countOf true k d a s)
    (h : knownLaunch s f.pid (srcS (ctxOf s f g) a).toNat = some l) (hst : 2 ≤ l.state) :
    CompletesIn i s f g (dropCache s f.core) f (g.pc + 8) fun t f' g' =>
      ScalarWrite f f' g g' d [BitVec.ofNat 32 (k l)] ∧ VectorsSame s t f f' ∧ f'.lflags = f.lflags := by
  have hk : knownLaunch (ctxOf s f g).st (ctxOf s f g).f.pid (srcS (ctxOf s f g) a).toNat = some l := h
  have hrun := he.trans (issue_acts _ _ _ s f g hi hm (by simp))
  simp only [hk, decide_eq_true hst, Bool.and_self, if_true] at hrun
  exact completesIn_state_put s f g hi hu i (dropCache s f.core) d _ hd (dropCache_cur s f.core) (by rw [dropCache_eq])
    (dropCache_free s f.core) hrun

/-- A cancel of other launches takes effect (15 R333): the machine is as the cancel leaves it, but for the issuing flight. -/
theorem cancelBy_others (i : Instr) (tree : Bool) (s1 : State) (he : exec i s = cancelBy tree d a s) (hq : openFor f g.owned = false)
    (h : cancelNamed s f.pid (srcS (ctxOf s f g) a).toNat tree = (0, s1)) (hown : cancelsOwn (ctxOf s f g) (srcS (ctxOf s f g) a).toNat tree = false)
    (hrest : s1 = { s with launches := s1.launches, gangs := s1.gangs, flights := s1.flights, global := s1.global, dies := s1.dies }) :
    ∃ t f' g', exec i s = .next t ∧ flight? t s.cur.1 = some f' ∧ frag? f' g.num = some g' ∧ g'.pc = g.pc + 8 ∧ g'.wait = .run ∧
      ScalarWrite f f' g g' d [0] ∧ VectorsSame s t f f' ∧ MemorySame s t ∧ t.launches = s1.launches ∧ t.global = s1.global ∧
      ∀ k, k ≠ s.cur.1 → flight? t k = flight? s1 k := by
  have hrun := he.trans (cancelBy_takes s f g d hi a hm tree s1 hq h)
  rw [hown, if_neg Bool.false_ne_true] at hrun
  exact state_put_leaves s f g d hi hu hd i 0 s1 (by rw [hrest]) (by rw [hrest]) (fun b => by rw [hrest]; rfl) hrun

omit hu hd in
/-- A cancel of the issuing flight's own launch (15 R333). -/
theorem cancelBy_own (l : Launch) (hq : openFor f g.owned = false) (hk : knownLaunch s f.pid (srcS (ctxOf s f g) a).toNat = some l)
    (hlt : l.state < 2) (hown : (srcS (ctxOf s f g) a).toNat = f.launch) :
    ∃ t f', exec (.lcancel d a) s = .next t ∧ flight? t s.cur.1 = some f' ∧ f'.s = f.s ∧ f'.v = f.v ∧
      (∀ h ∈ f'.frags, h.wait = .gone) ∧ CancelMarked t (lkey f.pid (srcS (ctxOf s f g) a).toNat) ∧ MemorySame s t := by
  have hself : cancelsOwn (ctxOf s f g) (srcS (ctxOf s f g) a).toNat false = true := by
    rw [cancelsOwn, hown]
    exact beq_self_eq_true _
  have hrun := (exec_lcancel d a s).trans (cancelBy_takes s f g d hi a hm false _ hq (cancelNamed_runs s f.pid _ l hk hlt))
  rw [hself, if_pos rfl] at hrun
  obtain ⟨u, hu'⟩ : ∃ u, u = commit (settled (next (ctxOf s f g))) := ⟨_, rfl⟩
  have hku : knownLaunch u f.pid (srcS (ctxOf s f g) a).toNat = some l := by rw [hu']; exact hk
  have hlu := knownLaunch_listed u f.pid _ l hku
  rw [← hu', cancelNamed_runs u f.pid _ l hku hlt] at hrun
  obtain ⟨h1, -, -, -⟩ := commit_leaves s f g (settled (next (ctxOf s f g))) hi rfl rfl rfl
  rw [← hu'] at h1
  have hfl := flight?_cancelLaunch u (lkey f.pid (srcS (ctxOf s f g) a).toNat) l hlu hlt s.cur.1 _ h1 (by rw [hown]; rfl)
  refine ⟨_, _, hrun, hfl, rfl, rfl, fun h hh => ?_, cancelLaunch_marks u _ l hlu hlt, fun b => ?_⟩
  · obtain ⟨h0, -, rfl⟩ := List.mem_map.1 hh
    rfl
  · rw [cancelLaunch_rest, hu']
    rfl

end

/-- Settles O46: what a cancel by name answers decides, and what it leaves is `cancelLaunch_eq`. -/
theorem cancelsAndCounts : Obligations.CancelsAndCounts := by
  intro s f g d a hi hu hm hd id key known quiet tells took cancelled
  have told (i : Instr) (tree : Bool) (r : Nat) (he : exec i s = cancelBy tree d a s) (hq : quiet) (hr : r ≠ 0)
      (h : cancelNamed s f.pid id tree = (r, s)) : tells i (BitVec.ofNat 32 r) :=
    setsScalar_of i s f g d _ hi hu hd (he.trans (cancelBy_tells s f g d hi a hm tree r hq hr h))
  refine ⟨fun hq => ⟨?_, ?_⟩, fun hk => ⟨fun hq => ⟨?_, ?_⟩, ?_, ?_, ?_⟩, fun l hk => ⟨fun hq h2 => ?_, fun hq hr => ?_, fun hq hr he => ?_,
    fun hq hlt hne => ?_, fun hq hlt hown => ?_, fun hq hr he hown => ?_, ?_, ?_, fun hlt => ?_, fun h2 => ?_⟩⟩
  · exact stalls_of _ s f g _ hi ((exec_lcancel d a s).trans (cancelBy_stalls s f g d hi a hm false hq))
  · exact stalls_of _ s f g _ hi ((exec_lcancelTree d a s).trans (cancelBy_stalls s f g d hi a hm true hq))
  · exact told _ false 2 (exec_lcancel d a s) hq (by decide) (cancelNamed_unknown s f.pid id false hk)
  · exact told _ true 2 (exec_lcancelTree d a s) hq (by decide) (cancelNamed_unknown s f.pid id true hk)
  · exact countOf_unknown s f g d a hi hu hd hm _ _ _ (exec_lcntGangs d a s) hk
  · exact countOf_unknown s f g d a hi hu hd hm _ _ _ (exec_lcntTree d a s) hk
  · exact countOf_unknown s f g d a hi hu hd hm _ _ _ (exec_lcntState d a s) hk
  · exact told _ false 1 (exec_lcancel d a s) hq (by decide) (cancelNamed_ended s f.pid id l hk h2)
  · exact told _ true 2 (exec_lcancelTree d a s) hq (by decide) (cancelNamed_noRoot s f.pid id l hk hr)
  · exact told _ true 1 (exec_lcancelTree d a s) hq (by decide) (cancelNamed_treeEnded s f.pid id l hk hr he)
  · have hl := knownLaunch_listed s f.pid id l hk
    have hother : cancelsOwn (ctxOf s f g) id false = false := by
      rw [cancelsOwn, if_neg Bool.false_ne_true, beq_eq_false_iff_ne]
      exact Ne.symm hne
    obtain ⟨t, f', g', he, hf, hg, hpc, hw, hsw, hv, hmem, hls, hgl, hfl⟩ := cancelBy_others s f g d a hi hu hd hm _ false _
      (exec_lcancel d a s) hq (cancelNamed_runs s f.pid id l hk hlt) hother (cancelLaunch_rest s key)
    refine ⟨t, f', g', he, hf, hg, hpc, hw, hsw, hv, hmem, ?_, fun k hk' => ?_, fun q hq' => ?_, fun k y hy hpid hlaunch => ?_⟩
    · obtain ⟨l', h1, h2⟩ := cancelLaunch_marks s key l hl hlt
      exact ⟨l', hls ▸ h1, h2⟩
    · rw [hls]
      exact cancelLaunch_other s key k hk'
    · rw [hgl, cancelLaunch_eq s key l hl hlt] at hq'
      obtain ⟨q0, -, rfl⟩ := List.mem_map.1 hq'
      simp
    · have hkc : k ≠ s.cur.1 := fun hkc => by
        rw [hkc, hi.1] at hy
        exact hne ((congrArg Flight.launch (Option.some.inj hy)).trans hlaunch).symm
      refine ⟨y.cancelled, (hfl k hkc).trans (flight?_cancelLaunch s key l hl hlt k y hy (by rw [hpid, hlaunch])), rfl, rfl, fun h hh => ?_⟩
      obtain ⟨h0, -, rfl⟩ := List.mem_map.1 hh
      rfl
  · exact cancelBy_own s f g d a hi hm l hq hk hlt hown
  · have hother : cancelsOwn (ctxOf s f g) id true = false := by
      rw [cancelsOwn, if_pos rfl, Bool.eq_false_iff]
      exact fun h => hown (List.contains_iff_mem.1 h)
    obtain ⟨t, f', g', he', hf, hg, hpc, hw, hsw, hv, hmem, hls, -, -⟩ := cancelBy_others s f g d a hi hu hd hm _ true _
      (exec_lcancelTree d a s) hq (cancelNamed_treeRuns s f.pid id l hk hr he) hother (cancelTree_rest s f.pid id)
    have hl := knownLaunch_listed s f.pid id l hk
    have hmod (k : Nat) : mget? t.launches k = if k = key then (mget? ((treeKeys s f.pid id).foldl cancelLaunch s).launches key).map
        (fun l => { l with treeEnd := true }) else mget? ((treeKeys s f.pid id).foldl cancelLaunch s).launches k := by
      rw [hls]
      exact mget?_mmod _ _ _ _
    refine ⟨t, f', g', he', hf, hg, hpc, hw, hsw, hv, hmem, fun k hk' x hx hlt => ?_, ?_⟩
    · obtain ⟨l', h1, h2, h3⟩ := cancelAll_marks (treeKeys s f.pid id) s k x hx hlt (Or.inl hk')
      by_cases hkk : k = key
      · exact ⟨{ l' with treeEnd := true }, by rw [hmod, if_pos hkk, ← hkk, h1]; rfl, h2, h3⟩
      · exact ⟨l', by rw [hmod, if_neg hkk, h1], h2, h3⟩
    · have hkeep := cancelAll_keeps (treeKeys s f.pid id) s key
      rw [hl, Option.map_some] at hkeep
      obtain ⟨l', hl', -⟩ := Option.map_eq_some_iff.1 hkeep
      exact ⟨{ l' with treeEnd := true }, by rw [hmod, if_pos rfl, hl']; rfl, rfl⟩
  · have h := countOf_known s f g d a hi hu hd hm _ _ _ l (exec_lcntGangs d a s) hk (Or.inl rfl)
    by_cases h2 : 2 ≤ l.state
    · rw [if_pos h2]
      rw [Launch.gangsLeft, if_pos h2] at h
      exact h
    · rw [if_neg h2]
      rw [Launch.gangsLeft, if_neg h2] at h
      exact h
  · have h := countOf_known s f g d a hi hu hd hm _ _ _ l (exec_lcntTree d a s) hk (Or.inl rfl)
    cases hr : l.isRoot with
    | true =>
      rw [hr] at h
      exact h
    | false =>
      rw [hr] at h
      exact h
  · exact countOf_known s f g d a hi hu hd hm _ _ _ l (exec_lcntState d a s) hk (Or.inr hlt)
  · exact countOf_acquires s f g d a hi hu hd hm _ _ l (exec_lcntState d a s) hk h2

end Sys2Proof.Machine
end

section
/-!
SUPPORT. The instructions of the fabric at the issuing member (17 R371-R380).
-/
namespace Sys2Proof.Machine

theorem objOk_false (s : State) (f : Flight) (obj : DWord) (h : ¬ objOk s f.pid f.core obj = true) : objOk s f.pid f.core obj = false :=
  Bool.eq_false_iff.2 h

theorem enterNext_numbered (s : State) (f : Flight) (g : Fragment) (d : Option Opnd) (hu : Unwatched s f) :
    enterNext (numbered (ctxOf s f g) d) =
      { numbered (ctxOf s f g) d with g := enteredIf true (numbered (ctxOf s f g) d).g } := by
  refine enterNext_off _ ?_
  rw [numbered_st, numbered_f]
  exact hu.2

theorem comm?_modComm (s : State) (pid n : Nat) (k : Comm → Comm) (cm : Comm) (h : comm? s pid n = some cm) :
    comm? (modComm s pid n k) pid n = some (k cm) := by
  rw [comm?, modComm]
  refine (mget?_mmod _ _ _ _).trans ?_
  rw [if_pos rfl, show mget? s.comms (ckey pid n) = some cm from h]
  rfl

theorem comms_modComm (s : State) (pid n : Nat) (k : Comm → Comm) (cm : Comm) (h : comm? s pid n = some cm) :
    modComm s pid n k = { s with comms := mset s.comms (ckey pid n) (k cm) } := by
  rw [modComm, mmod, show mget? s.comms (ckey pid n) = some cm from h]

/-- A collective that no other member has ended is not among the ended ones. -/
theorem joinedGone_none (c : Comm) (bar : Bool) (num : Nat) (h : c.goneWith bar num = none) : c.joinedGone bar num = c := by
  have hno : c.failed.find? (fun x => x.1 == bar && x.2.1 == num) = none := Option.map_eq_none_iff.1 h
  rw [List.find?_eq_none] at hno
  have hall : (c.failed.filter fun x => !(x.1 == bar && x.2.1 == num)) = c.failed :=
    List.filter_eq_self.2 fun x hx => by rw [Bool.eq_false_iff.2 (hno x hx)]; rfl
  rw [Comm.joinedGone, hall]

/-- The machine when an operation has been numbered and has joined its communicator. -/
def joinedState (s : State) (comms : Cells Comm) (work : List Work) (out : List Msg) : State :=
  { s with nextId := s.nextId + 1, comms := comms, work := work, outbox := out }

/-- An operation that joins a communicator changes nothing else outside its flight. -/
theorem goesOn_joins (s : State) (f : Flight) (g : Fragment) (d : Option Opnd) (hi : Issues s f g) (hu : Unwatched s f)
    (hd : ∀ x, d = some x → IsScalar x) (i : Instr) (b : Bool) (comms : Cells Comm) (work : List Work) (out : List Msg)
    (he : exec i s = .next (numberedState s f g d b (joinedState s comms work out))) :
    GoesOn i s g f (g.pc + 8) fun t f' g' =>
      ((d = none → g'.em = g.em) ∧ f'.seqNo = f.seqNo + 1 ∧ OptWrite s t f f' g g' d f.seqNo ∧ MemorySame s t) ∧
        (b = true → EnteredAs g g') ∧ t.outbox = out ∧ t.comms = comms := by
  refine goesOn_mono _ s g f _ _ _ (goesOn_numbered s f g d hi hu hd i b (joinedState s comms work out) rfl rfl rfl he) fun t f' g' ht => ?_
  obtain ⟨hseq, hopt, hem, hent, ht⟩ := ht
  exact ⟨⟨hem, hseq, hopt, fun a => by rw [ht]; rfl⟩, hent, by rw [ht]; rfl, by rw [ht]; rfl⟩

section
variable (s : State) (f : Flight) (g : Fragment) (d : Option Opnd) (a b : Opnd) (hi : Issues s f g) (hu : Unwatched s f)
  (hd : ∀ x, d = some x → IsScalar x)

/-! ### COLL (17 R371, R372) -/

section
variable (kind : CollKind) (hm : MayName f g (optGroup d ++ [(a, 8), (b, 2)]))

include hi hm

theorem coll_unknown (h : comm? s f.pid (collComm (blockAt (ctxOf s f g) a)) = none) : Faults (.coll kind d a b) s f g 0x19 0 := by
  have hc : comm? (ctxOf s f g).st (ctxOf s f g).f.pid (collComm (blockAt (ctxOf s f g) a)) = none := h
  have hrun := (exec_coll kind d a b s).trans (issue_acts _ _ _ s f g hi hm (by simp))
  simp only [hc] at hrun
  exact hrun

/-- The collective that a COLL opens. -/
def openedColl (s : State) (f : Flight) (g : Fragment) (kind : CollKind) (par : List Word) (obj : DWord) (num : Nat) : CollOp :=
  { id := s.nextId, num := num, kind := kind, par := par, obj := obj, fid := s.cur.1, gid := f.gid, launch := f.launch, core := f.core
    sup := g.level != 0, pc := g.pc, seq := f.seqNo, stalls := [], begun := false, chunks := 0 }

/-- COLL of a communicator: its checks, and what it opens. -/
theorem coll_known (cm : Comm) (h : comm? s f.pid (collComm (blockAt (ctxOf s f g) a)) = some cm) :
    exec (.coll kind d a b) s = .next (
      let c := ctxOf s f g
      let par := blockAt c a
      let obj := srcS2 c b
      if !collOk kind cm par then fault c 0x19 0
      else if !objOk s f.pid f.core obj then faultAt c 0x19 0 obj
      else if 4 ≤ cm.colls.length then stall c .coll
      else if openFor f g.owned || flightOpen f then stall c .order
      else
        let o := openedColl s f g kind par obj cm.collNo
        let c1 := enterNext (numbered c d)
        let s1 := modComm c1.st f.pid (collComm par) fun cm =>
          { cm.joinedGone false o.num with colls := cm.colls ++ [o], collNo := cm.collNo + 1 }
        let s2 := openWork s1 o.id o.gid o.fid o.id (opObjs s1 f.pid o.core obj)
        let s3 := retireNext c { c1 with st := send s2 (.joined f.pid (collComm par) o.num (some kind) par) }
        (cm.goneWith false o.num).elim s3 fun status => dropColl s3 f.pid (collComm par) o status) := by
  have hc : comm? (ctxOf s f g).st (ctxOf s f g).f.pid (collComm (blockAt (ctxOf s f g) a)) = some cm := h
  have hrun := (exec_coll kind d a b s).trans (issue_acts _ _ _ s f g hi hm (by simp))
  simp only [hc] at hrun
  refine hrun.trans (congrArg _ ?_)
  cases hgone : cm.goneWith false cm.collNo <;> simp only [openedColl, hgone] <;> rfl

include hu hd in
/-- A COLL that passes its checks opens a collective (17 R372). -/
theorem coll_joins (cm : Comm) (h : comm? s f.pid (collComm (blockAt (ctxOf s f g) a)) = some cm)
    (hok : collOk kind cm (blockAt (ctxOf s f g) a) = true) (hgood : objOk s f.pid f.core (srcS2 (ctxOf s f g) b) = true)
    (hlen : cm.colls.length < 4) (hopen : openFor f g.owned = false) (hfl : flightOpen f = false) (hgone : cm.goneWith false cm.collNo = none) :
    let o := openedColl s f g kind (blockAt (ctxOf s f g) a) (srcS2 (ctxOf s f g) b) cm.collNo
    GoesOn (.coll kind d a b) s g f (g.pc + 8) fun t f' g' =>
      ((d = none → g'.em = g.em) ∧ f'.seqNo = f.seqNo + 1 ∧ OptWrite s t f f' g g' d f.seqNo ∧ MemorySame s t) ∧ EnteredAs g g' ∧
        t.outbox = s.outbox ++ [.joined f.pid (collComm (blockAt (ctxOf s f g) a)) cm.collNo (some kind) (blockAt (ctxOf s f g) a)] ∧
        comm? t f.pid (collComm (blockAt (ctxOf s f g) a)) = some { cm with colls := cm.colls ++ [o], collNo := cm.collNo + 1 } := by
  intro o
  have hrun := coll_known s f g d a b hi kind hm cm h
  have hready : ¬ (openFor f g.owned || flightOpen f) = true := by rw [hopen, hfl]; decide
  dsimp only at hrun
  rw [hok, hgood, if_neg (by decide), if_neg (by decide), if_neg (Nat.not_le.2 hlen), if_neg hready,
    show cm.goneWith false (openedColl s f g kind (blockAt (ctxOf s f g) a) (srcS2 (ctxOf s f g) b) cm.collNo).num = none from hgone,
    Option.elim_none, enterNext_numbered s f g d hu, numbered_st,
    comms_modComm { s with nextId := s.nextId + 1 } f.pid (collComm (blockAt (ctxOf s f g) a)) _ cm h,
    show cm.joinedGone false (openedColl s f g kind (blockAt (ctxOf s f g) a) (srcS2 (ctxOf s f g) b) cm.collNo).num = cm from
      joinedGone_none cm false cm.collNo hgone] at hrun
  refine goesOn_mono _ s g f _ _ _ (goesOn_joins s f g d hi hu hd _ true _ _ _ hrun) fun t f' g' ht => ?_
  obtain ⟨hj, hent, hout, hcomms⟩ := ht
  exact ⟨hj, hent rfl, hout, (congrArg (mget? · _) hcomms).trans (mget?_mset_same _ _ _)⟩

end

/-! ### CBAR (17 R375) and CTREE (17 R380) -/

section
variable (hm : MayName f g (optGroup d ++ [(a, 1), (b, 2)]))

include hi hm

/-- The communicator that a scalar names. -/
def namedComm (s : State) (f : Flight) (n : Nat) : Option Comm := if 256 ≤ n then none else comm? s f.pid n

theorem cbar_unknown (h : namedComm s f (srcS (ctxOf s f g) a).toNat = none) : Faults (.cbar d a b) s f g 0x19 0 := by
  have hc : (if 256 ≤ (srcS (ctxOf s f g) a).toNat then none else comm? (ctxOf s f g).st (ctxOf s f g).f.pid (srcS (ctxOf s f g) a).toNat) =
      none := h
  have hrun := (exec_cbar d a b s).trans (issue_acts _ _ _ s f g hi hm (by simp))
  simp only [hc] at hrun
  exact hrun

/-- The pod barrier that a CBAR joins. -/
def joinedCbar (s : State) (f : Flight) (g : Fragment) (obj : DWord) (num : Nat) : CbarOp :=
  { id := s.nextId, num := num, obj := obj, fid := s.cur.1, gid := f.gid, launch := f.launch, core := f.core, pc := g.pc, seq := f.seqNo
    agree := linksDown s }

theorem cbar_known (cm : Comm) (h : namedComm s f (srcS (ctxOf s f g) a).toNat = some cm) :
    exec (.cbar d a b) s = .next (
      let c := ctxOf s f g
      let n := (srcS c a).toNat
      let obj := srcS2 c b
      if !objOk s f.pid f.core obj then faultAt c 0x19 0 obj
      else if openFor f g.owned then stall c .order
      else
        let o := joinedCbar s f g obj cm.cbarNo
        let c1 := numbered c d
        let s1 := modComm c1.st f.pid n fun cm => { cm.joinedGone true o.num with cbars := cm.cbars ++ [o], cbarNo := cm.cbarNo + 1 }
        let s2 := retireNext c { c1 with st := send s1 (.joined f.pid n o.num none []) }
        (cm.goneWith true o.num).elim s2 fun status => dropCbar s2 f.pid n o status) := by
  have hc : (if 256 ≤ (srcS (ctxOf s f g) a).toNat then none else comm? (ctxOf s f g).st (ctxOf s f g).f.pid (srcS (ctxOf s f g) a).toNat) =
      some cm := h
  have hrun := (exec_cbar d a b s).trans (issue_acts _ _ _ s f g hi hm (by simp))
  simp only [hc] at hrun
  refine hrun.trans (congrArg _ ?_)
  cases hgone : cm.goneWith true cm.cbarNo <;> simp only [joinedCbar, hgone] <;> rfl

include hu hd in
/-- A CBAR joins the next pod barrier (17 R375). -/
theorem cbar_joins (cm : Comm) (h : namedComm s f (srcS (ctxOf s f g) a).toNat = some cm)
    (hc : comm? s f.pid (srcS (ctxOf s f g) a).toNat = some cm) (hgood : objOk s f.pid f.core (srcS2 (ctxOf s f g) b) = true)
    (hopen : openFor f g.owned = false) (hgone : cm.goneWith true cm.cbarNo = none) :
    let o := joinedCbar s f g (srcS2 (ctxOf s f g) b) cm.cbarNo
    GoesOn (.cbar d a b) s g f (g.pc + 8) fun t f' g' =>
      ((d = none → g'.em = g.em) ∧ f'.seqNo = f.seqNo + 1 ∧ OptWrite s t f f' g g' d f.seqNo ∧ MemorySame s t) ∧
        t.outbox = s.outbox ++ [.joined f.pid (srcS (ctxOf s f g) a).toNat cm.cbarNo none []] ∧
        comm? t f.pid (srcS (ctxOf s f g) a).toNat = some { cm with cbars := cm.cbars ++ [o], cbarNo := cm.cbarNo + 1 } := by
  intro o
  have hrun := cbar_known s f g d a b hi hm cm h
  have hready : ¬ openFor f g.owned = true := by rw [hopen]; decide
  dsimp only at hrun
  rw [hgood, if_neg (by decide), if_neg hready,
    show cm.goneWith true (joinedCbar s f g (srcS2 (ctxOf s f g) b) cm.cbarNo).num = none from hgone, Option.elim_none, numbered_st,
    comms_modComm { s with nextId := s.nextId + 1 } f.pid (srcS (ctxOf s f g) a).toNat _ cm hc,
    show cm.joinedGone true (joinedCbar s f g (srcS2 (ctxOf s f g) b) cm.cbarNo).num = cm from joinedGone_none cm true cm.cbarNo hgone] at hrun
  refine goesOn_mono _ s g f _ _ _ (goesOn_joins s f g d hi hu hd _ false _ s.work _ hrun) fun t f' g' ht => ?_
  obtain ⟨hj, -, hout, hcomms⟩ := ht
  exact ⟨hj, hout, (congrArg (mget? · _) hcomms).trans (mget?_mset_same _ _ _)⟩

end

section
variable (e : Opnd) (q : TreeQuery) (hm : MayName f g [(e, 1), (a, 1), (b, 1)])

include hi hm

theorem ctree_unknown (h : namedComm s f (srcS (ctxOf s f g) a).toNat = none) : Faults (.ctree q e a b) s f g 0x19 0 := by
  have hc : (if 256 ≤ (srcS (ctxOf s f g) a).toNat then none else comm? (ctxOf s f g).st (ctxOf s f g).f.pid (srcS (ctxOf s f g) a).toNat) =
      none := h
  have hrun := (exec_ctree q e a b s).trans (issue_acts _ _ _ s f g hi hm (by simp))
  simp only [hc] at hrun
  exact hrun

include hu in
/-- A query of a communicator's trees, derived when there are none (17 R380). -/
theorem ctree_answers (cm : Comm) (he : IsScalar e) (h : namedComm s f (srcS (ctxOf s f g) a).toNat = some cm)
    (hc : comm? s f.pid (srcS (ctxOf s f g) a).toNat = some cm) :
    CompletesIn (.ctree q e a b) s f g
      { s with comms := mset s.comms (ckey f.pid (srcS (ctxOf s f g) a).toNat) (derivedOnce s cm) } f (g.pc + 8) fun t f' g' =>
      ScalarWrite f f' g g' e [treeQuery q (derivedOnce s cm) (srcS (ctxOf s f g) b).toNat] ∧ VectorsSame s t f f' ∧ f'.lflags = f.lflags := by
  have hcm : (if 256 ≤ (srcS (ctxOf s f g) a).toNat then none else comm? (ctxOf s f g).st (ctxOf s f g).f.pid (srcS (ctxOf s f g) a).toNat) =
      some cm := h
  have hrun := (exec_ctree q e a b s).trans (issue_acts _ _ _ s f g hi hm (by simp))
  simp only [hcm] at hrun
  have hst : modComm (ctxOf s f g).st (ctxOf s f g).f.pid (srcS (ctxOf s f g) a).toNat (fun _ => derivedOnce (ctxOf s f g).st cm) =
      { s with comms := mset s.comms (ckey f.pid (srcS (ctxOf s f g) a).toNat) (derivedOnce s cm) } := comms_modComm s f.pid _ _ cm hc
  rw [hst] at hrun
  exact completesIn_state_put s f g hi hu _
    { s with comms := mset s.comms (ckey f.pid (srcS (ctxOf s f g) a).toNat) (derivedOnce s cm) } e _ he rfl rfl rfl hrun

end

/-! ### CPUT (17 R377) -/

section
variable (hm : MayName f g (optGroup d ++ [(a, 8), (b, 2)]))

include hi hm

theorem cput_unknown (h : comm? s f.pid (putComm (blockAt (ctxOf s f g) a)) = none) : Faults (.cput d a b) s f g 0x19 0 := by
  have hc : comm? (ctxOf s f g).st (ctxOf s f g).f.pid (putComm (blockAt (ctxOf s f g) a)) = none := h
  have hrun := (exec_cput d a b s).trans (issue_acts _ _ _ s f g hi hm (by simp))
  simp only [hc] at hrun
  exact hrun

/-- The put that a CPUT issues. -/
def issuedPut (s : State) (f : Flight) (g : Fragment) (par : List Word) (obj : DWord) : PutOp :=
  { id := s.nextId, frag := g.num, par := par, obj := obj, fid := s.cur.1, gid := f.gid, launch := f.launch, core := f.core
    sup := g.level != 0, pc := g.pc, seq := f.seqNo, sent := false, stall := none }

/-- The machine when a put has been numbered and has joined its communicator. -/
def putState (s : State) (f : Flight) (g : Fragment) (d : Option Opnd) (par : List Word) (cd : Comm) (o : PutOp) : State :=
  numberedState s f g d true (joinedState s (mset s.comms (ckey f.pid (putComm par)) { cd with puts := cd.puts ++ [o] })
    (openWork s o.id o.gid o.fid o.id (opObjs s f.pid o.core o.obj)).work s.outbox)

include hu in
theorem cput_known (cm : Comm) (h : comm? s f.pid (putComm (blockAt (ctxOf s f g) a)) = some cm) :
    exec (.cput d a b) s = .next (
      let c := ctxOf s f g
      let par := blockAt c a
      let obj := srcS2 c b
      if !putOk cm par then fault c 0x19 0
      else if !objOk s f.pid f.core obj then faultAt c 0x19 0 obj
      else if openFor f g.owned || flightOpen f then stall c .order
      else
        let cd := derivedOnce s cm
        let o := issuedPut s f g par obj
        let s1 := putState s f g d par cd o
        if cd.planes.isEmpty then endPut s1 f.pid (putComm par) o 2
        else if putWaits s1 f.pid cd o || !unitRuns s1 f.pid o.gid .bridle then s1
        else sendPut s1 f.pid (putComm par) cd o) := by
  have hc : comm? (ctxOf s f g).st (ctxOf s f g).f.pid (putComm (blockAt (ctxOf s f g) a)) = some cm := h
  have hrun := (exec_cput d a b s).trans (issue_acts _ _ _ s f g hi hm (by simp))
  simp only [hc] at hrun
  have hcomm (ws : List Work) (k : Comm → Comm) := comms_modComm { s with nextId := s.nextId + 1, work := ws } f.pid
    (putComm (blockAt (ctxOf s f g) a)) k cm h
  rw [enterNext_numbered s f g d hu, numbered_st] at hrun
  have hst : modComm (openWork { s with nextId := s.nextId + 1 } s.nextId f.gid s.cur.1 s.nextId
      (opObjs { s with nextId := s.nextId + 1 } f.pid f.core (srcS2 (ctxOf s f g) b))) f.pid (putComm (blockAt (ctxOf s f g) a))
      (fun _ => { derivedOnce s cm with puts := (derivedOnce s cm).puts ++ [issuedPut s f g (blockAt (ctxOf s f g) a) (srcS2 (ctxOf s f g) b)] }) =
      joinedState s (mset s.comms (ckey f.pid (putComm (blockAt (ctxOf s f g) a))) { derivedOnce s cm with
          puts := (derivedOnce s cm).puts ++ [issuedPut s f g (blockAt (ctxOf s f g) a) (srcS2 (ctxOf s f g) b)] })
        (openWork s s.nextId f.gid s.cur.1 s.nextId (opObjs s f.pid f.core (srcS2 (ctxOf s f g) b))).work s.outbox := hcomm _ _
  refine hrun.trans (congrArg _ ?_)
  exact congrArg (fun st =>
    if !putOk cm (blockAt (ctxOf s f g) a) then fault (ctxOf s f g) 0x19 0
    else if !objOk s f.pid f.core (srcS2 (ctxOf s f g) b) then faultAt (ctxOf s f g) 0x19 0 (srcS2 (ctxOf s f g) b)
    else if openFor f g.owned || flightOpen f then stall (ctxOf s f g) .order
    else if (derivedOnce s cm).planes.isEmpty then endPut (numberedState s f g d true st) f.pid (putComm (blockAt (ctxOf s f g) a))
      (issuedPut s f g (blockAt (ctxOf s f g) a) (srcS2 (ctxOf s f g) b)) 2
    else if putWaits (numberedState s f g d true st) f.pid (derivedOnce s cm)
        (issuedPut s f g (blockAt (ctxOf s f g) a) (srcS2 (ctxOf s f g) b)) ||
        !unitRuns (numberedState s f g d true st) f.pid f.gid .bridle then numberedState s f g d true st
    else sendPut (numberedState s f g d true st) f.pid (putComm (blockAt (ctxOf s f g) a)) (derivedOnce s cm)
      (issuedPut s f g (blockAt (ctxOf s f g) a) (srcS2 (ctxOf s f g) b))) hst

end

theorem mem_commsOf (s : State) (pid : Nat) (x : Nat × Comm) (h : x ∈ commsOf s pid) : ∃ y ∈ s.comms, y.2 = x.2 := by
  obtain ⟨y, hy, rfl⟩ := List.mem_map.1 h
  exact ⟨y, (List.mem_filter.1 hy).1, rfl⟩

/-- A put waits for no earlier one of its fragment where all of them have been sent. -/
theorem putWaits_none (t : State) (pid key : Nat) (cd : Comm) (o : PutOp) (ms : Cells Comm) (hc : t.comms = mset ms key { cd with puts := cd.puts ++ [o] })
    (hold : ∀ y ∈ cd.puts, y.sent = false → y.fid ≠ o.fid ∨ y.frag ≠ o.frag)
    (hall : ∀ x ∈ ms, ∀ y ∈ x.2.puts, y.sent = false → y.fid ≠ o.fid ∨ y.frag ≠ o.frag) : putWaits t pid cd o = false := by
  rw [putWaits, List.any_eq_false]
  intro x hx
  rw [Bool.not_eq_true, List.any_eq_false]
  intro y hy hb
  simp only [Bool.and_eq_true, decide_eq_true_eq, beq_iff_eq, Bool.not_eq_true'] at hb
  obtain ⟨⟨⟨⟨hid, hsent⟩, hfid⟩, hfrag⟩, -⟩ := hb
  have hno : ¬ (y.fid ≠ o.fid ∨ y.frag ≠ o.frag) := fun h => h.elim (fun h => h hfid) fun h => h hfrag
  obtain ⟨z, hz, hzx⟩ := mem_commsOf t pid x hx
  rw [hc] at hz
  rw [← hzx] at hy
  rcases mset_mem _ _ _ _ hz with rfl | hz
  · rcases List.mem_append.1 hy with hy | hy
    · exact hno (hold y hy hsent)
    · rw [List.mem_singleton.1 hy] at hid
      exact Nat.lt_irrefl _ hid
  · exact hno (hall z hz y hy hsent)

/-- A put whose source can be read is sent (17 R377). -/
theorem sendPut_sends (s s2 : State) (pid n : Nat) (cm cd : Comm) (o : PutOp) (bs : List (List Byte)) (hc : comm? s pid n = some cm)
    (ho : o ∈ cm.puts)
    (hr : engReads s ⟨none, pid, o.core, o.sup⟩ (units (parPair o.par 0) (o.par.getD 4 0).toNat) = (.got bs, s2))
    (h2 : s2 = { s with bridTlb := s2.bridTlb }) :
    ∃ cm', sendPut s pid n cd o = { s with
        bridTlb := s2.bridTlb, comms := mset s.comms (ckey pid n) cm'
        outbox := s.outbox ++ [.put (parBits o.par 5 10 0) ⟨(cd.members.getD (parBits o.par 5 10 0) (0, 0)).2, parPair o.par 2, parPair o.par 6,
          bs.flatten, parBits o.par 5 19 19 == 1⟩] } ∧ { o with sent := true, stall := none } ∈ cm'.puts := by
  refine ⟨{ cm with puts := cm.puts.map fun x => if x.id == o.id then { x with sent := true, stall := none } else x }, ?_, ?_⟩
  · have hc2 : comm? s2 pid n = some cm := by rw [h2]; exact hc
    rw [sendPut, hr]
    dsimp only
    rw [comms_modComm s2 pid n _ cm hc2, h2]
    rfl
  · exact List.mem_map.2 ⟨o, ho, by rw [beq_self_eq_true, if_pos rfl]⟩

section
variable (hm : MayName f g (optGroup d ++ [(a, 8), (b, 2)]))

include hi hm hu hd in
/-- A put that waits for no earlier one is sent (17 R377, R379). -/
theorem cput_sends (cm : Comm) (bs : List (List Byte)) (h : comm? s f.pid (putComm (blockAt (ctxOf s f g) a)) = some cm)
    (hok : putOk cm (blockAt (ctxOf s f g) a) = true) (hgood : objOk s f.pid f.core (srcS2 (ctxOf s f g) b) = true)
    (hopen : openFor f g.owned = false) (hfl : flightOpen f = false) (hplanes : (derivedOnce s cm).planes ≠ [])
    (hfirst : ∀ x ∈ s.comms, ∀ y ∈ x.2.puts, y.sent = false → y.fid ≠ s.cur.1 ∨ y.frag ≠ g.num) (hruns : unitRuns s f.pid f.gid .bridle = true)
    (hread : ∀ s', s' = { s with flights := s'.flights, comms := s'.comms, nextId := s'.nextId, work := s'.work } → ∃ s2,
      engReads s' ⟨none, f.pid, f.core, decide (g.level ≠ 0)⟩
        (units (parPair (blockAt (ctxOf s f g) a) 0) ((blockAt (ctxOf s f g) a).getD 4 0).toNat) = (.got bs, s2) ∧
        s2 = { s' with bridTlb := s2.bridTlb }) :
    let par := blockAt (ctxOf s f g) a
    GoesOn (.cput d a b) s g f (g.pc + 8) fun t f' g' =>
      ((d = none → g'.em = g.em) ∧ f'.seqNo = f.seqNo + 1 ∧ OptWrite s t f f' g g' d f.seqNo ∧ MemorySame s t) ∧ EnteredAs g g' ∧
        t.outbox = s.outbox ++ [.put (parBits par 5 10 0) ⟨(cm.members.getD (parBits par 5 10 0) (0, 0)).2, parPair par 2, parPair par 6,
          bs.flatten, parBits par 5 19 19 == 1⟩] ∧
        ∃ o cm', comm? t f.pid (putComm par) = some cm' ∧ o ∈ cm'.puts ∧ o.id = s.nextId ∧ o.sent = true ∧
          o.obj = srcS2 (ctxOf s f g) b ∧ o.seq = f.seqNo := by
  intro par
  have hrun := cput_known s f g d a b hi hu hm cm h
  have hready : ¬ (openFor f g.owned || flightOpen f) = true := by rw [hopen, hfl]; decide
  obtain ⟨cd, hcd⟩ : ∃ cd, cd = derivedOnce s cm := ⟨_, rfl⟩
  obtain ⟨o, ho⟩ : ∃ o, o = issuedPut s f g par (srcS2 (ctxOf s f g) b) := ⟨_, rfl⟩
  have hputs : cd.puts = cm.puts := by rw [hcd, derivedOnce]; split <;> rfl
  have hmembers : cd.members = cm.members := by rw [hcd, derivedOnce]; split <;> rfl
  obtain ⟨t, ht⟩ : ∃ t, t = putState s f g d par cd o := ⟨_, rfl⟩
  obtain ⟨f', g', h1, h2, h3, h4, h5, h6, h7, h8, h9, h10, h11, h12, h13⟩ := numbered_leaves s f g d hi hu hd true
    (joinedState s (mset s.comms (ckey f.pid (putComm par)) { cd with puts := cd.puts ++ [o] })
      (openWork s o.id o.gid o.fid o.id (opObjs s f.pid o.core o.obj)).work s.outbox) rfl rfl
  rw [← putState, ← ht] at h1 h4 h13
  have hcomms : t.comms = mset s.comms (ckey f.pid (putComm par)) { cd with puts := cd.puts ++ [o] } := by rw [h13]; rfl
  have hcomm : comm? t f.pid (putComm par) = some { cd with puts := cd.puts ++ [o] } := by rw [comm?, hcomms, mget?_mset_same]
  have hwaits : putWaits t f.pid cd o = false := by
    refine putWaits_none t f.pid _ cd o s.comms hcomms (fun y hy => ?_) (by rw [ho]; exact hfirst)
    rw [hputs] at hy
    rw [ho]
    exact hfirst _ (mem_of_mget? _ _ _ h) y hy
  have hruns' : unitRuns t f.pid o.gid .bridle = true := by rw [h13, ho]; exact hruns
  obtain ⟨s2, hs2, hrest⟩ := hread t (by rw [h13]; rfl)
  have hsup : decide (g.level ≠ 0) = (g.level != 0) := by rw [Bool.eq_iff_iff, bne_iff_ne, decide_eq_true_eq]
  rw [hsup] at hs2
  obtain ⟨cm', hsend, hmem⟩ := sendPut_sends t s2 f.pid (putComm par) _ cd o bs hcomm (by simp) (by rw [ho]; exact hs2) hrest
  have hemp : ¬ cd.planes.isEmpty = true := fun h => hplanes (hcd ▸ List.isEmpty_iff.1 h)
  dsimp only at hrun
  rw [hok, hgood, if_neg (by decide), if_neg (by decide), if_neg hready, ← hcd, ← ho, ← ht, if_neg hemp, hwaits, hruns',
    if_neg (by decide), hsend] at hrun
  refine ⟨_, f', g', hrun, h1, h2, h3, h4, h5, h6, h7, h8, ⟨h11, h9, h10 _ ?_, fun b => ?_⟩, h12 rfl, ?_, _, cm', ?_, hmem, ?_, rfl, ?_, ?_⟩
  · rw [h13]; rfl
  · rw [h13]; rfl
  · rw [h13, ho, hmembers]; rfl
  · exact mget?_mset_same _ _ _
  all_goals rw [ho]; rfl

end

end

theorem bitsOf_top (w : Word) : bitsOf w.toNat 31 24 = w.toNat / 2 ^ 24 := by
  have := w.isLt
  exact Nat.mod_eq_of_lt (by omega)

theorem bitsOf_low (x : Nat) : bitsOf x 10 0 = x % 2 ^ 11 := by rw [bitsOf, Nat.pow_zero, Nat.div_one]

/-- Settles O47: COLL, CBAR and CPUT by what they answer for a known communicator, CTREE by `ctree_answers`. -/
theorem collectiveInstructions : Obligations.CollectiveInstructions := by
  intro s f g d e a b kind hi hu hm hd he c par obj good joins
  have hblock : MayName f g (optGroup d ++ [(a, 8), (b, 2)]) := mayName_subset f g _ _ hm (by simp)
  have hone : MayName f g [(a, 1)] := mayName_le f g a 8 1 (mayName_subset f g _ _ hm (by simp)) (by omega)
  have hbar : MayName f g (optGroup d ++ [(a, 1), (b, 2)]) := by
    have h1 : MayName f g (optGroup d ++ [(b, 2)]) := mayName_subset f g _ _ hm (by simp)
    exact mayName_subset f g _ _ (mayName_append f g _ _ h1 hone) (by simp)
  have htree : MayName f g [(e, 1), (a, 1), (b, 1)] := by
    have h1 : MayName f g [(e, 1)] := mayName_subset f g _ _ hm (by simp)
    have h2 : MayName f g [(b, 1)] := mayName_le f g b 2 1 (mayName_subset f g _ _ hm (by simp)) (by omega)
    exact mayName_append f g _ _ h1 (mayName_append f g _ _ hone h2)
  have hcollNo : collComm par = (par.getD 5 0).toNat / 2 ^ 24 := bitsOf_top _
  refine ⟨?_, ?_, ?_⟩
  · intro n
    have hn : n = collComm (blockAt c a) := hcollNo.symm
    rw [hn]
    refine ⟨fun h => coll_unknown s f g d a b hi kind hblock h, fun cm h => ?_⟩
    have hrun := coll_known s f g d a b hi kind hblock cm h
    dsimp only at hrun
    refine ⟨fun hok => ?_, fun hok hbad => ?_, fun hok hgood hfull => ?_, fun hok hgood hlt ho => ?_, fun hok hgood hlt ho hf hgone => ?_⟩
    · rw [show collOk kind cm (blockAt (ctxOf s f g) a) = false from hok] at hrun
      exact hrun
    · rw [show collOk kind cm (blockAt (ctxOf s f g) a) = true from hok, objOk_false s f _ hbad] at hrun
      exact hrun
    · rw [show collOk kind cm (blockAt (ctxOf s f g) a) = true from hok, show objOk s f.pid f.core (srcS2 (ctxOf s f g) b) = true from hgood,
        if_neg (by decide), if_neg (by decide), if_pos hfull] at hrun
      exact stalls_of _ s f g _ hi hrun
    · rw [show collOk kind cm (blockAt (ctxOf s f g) a) = true from hok, show objOk s f.pid f.core (srcS2 (ctxOf s f g) b) = true from hgood,
        if_neg (by decide), if_neg (by decide), if_neg (Nat.not_le.2 hlt), ho, Bool.true_or, if_pos rfl] at hrun
      exact stalls_of _ s f g _ hi hrun
    · refine goesOn_mono _ s g f _ _ _ (coll_joins s f g d a b hi hu hd kind hblock cm h hok hgood hlt ho hf hgone) fun t f' g' ht => ?_
      obtain ⟨hj, hent, hout, hcomm⟩ := ht
      exact ⟨hj, hent, hout, _, hcomm, rfl, rfl, rfl, rfl, rfl, rfl, rfl, rfl⟩
  · intro n i q
    refine ⟨fun hno => ?_, fun cm hlt hcm => ?_⟩
    · have hnone : namedComm s f n = none := by
        rcases hno with h | h
        · exact if_pos h
        · rw [namedComm, h, ite_self]
      exact ⟨cbar_unknown s f g d a b hi hbar hnone, fun x => ctree_unknown s f g a b hi e x htree hnone⟩
    · have hnamed : namedComm s f n = some cm := (if_neg (Nat.not_le.2 hlt)).trans hcm
      have hrun := cbar_known s f g d a b hi hbar cm hnamed
      dsimp only at hrun
      refine ⟨fun hbad => ?_, fun hgood ho => ?_, fun hgood ho hgone => ?_, ?_⟩
      · rw [objOk_false s f _ hbad] at hrun
        exact hrun
      · rw [show objOk s f.pid f.core (srcS2 (ctxOf s f g) b) = true from hgood, if_neg (by decide), if_pos ho] at hrun
        exact stalls_of _ s f g _ hi hrun
      · refine goesOn_mono _ s g f _ _ _ (cbar_joins s f g d a b hi hu hd hbar cm hnamed hcm hgood ho hgone) fun t f' g' ht => ?_
        obtain ⟨hj, hout, hcomm⟩ := ht
        exact ⟨hj, hout, _, hcomm, rfl, rfl, rfl, rfl, rfl⟩
      · intro cd tr j answers
        have all (x : TreeQuery) : answers x (treeQuery x cd tr) := ctree_answers s f g a b hi hu e x htree cm he hnamed hcm
        have hcount : cd.count = cm.count := by
          show (derivedOnce s cm).count = _
          rw [derivedOnce]; split <;> rfl
        have hrank : cd.rank = cm.rank := by
          show (derivedOnce s cm).rank = _
          rw [derivedOnce]; split <;> rfl
        refine ⟨all .count, fun p v hd => ?_, ?_, ?_⟩
        · have h := all .version
          rw [treeQuery, hd] at h
          exact h
        · have h := all .plane
          rw [treeQuery] at h
          cases hp : cd.planes[tr]? <;> rw [hp] at h <;> exact h
        · have h := all .parent
          have hj : positionOf cd.count tr cd.rank = j := by rw [hcount, hrank]; rfl
          rw [treeQuery, hj, hcount] at h
          by_cases hz : cd.planes.length ≤ tr ∨ j = 0
          · rw [if_pos hz]
            rw [if_pos (by simpa using hz)] at h
            exact h
          · rw [if_neg hz]
            rw [if_neg (by simpa using hz)] at h
            exact h
  · intro n i
    refine ⟨fun h => cput_unknown s f g d a b hi hblock h, fun cm h => ?_⟩
    have hrun := cput_known s f g d a b hi hu hblock cm h
    dsimp only at hrun
    refine ⟨fun hok => ?_, fun hok hbad => ?_, fun hok hgood ho => ?_, ?_⟩
    · rw [show putOk cm (blockAt (ctxOf s f g) a) = false from hok] at hrun
      exact hrun
    · rw [show putOk cm (blockAt (ctxOf s f g) a) = true from hok, objOk_false s f _ hbad] at hrun
      exact hrun
    · rw [show putOk cm (blockAt (ctxOf s f g) a) = true from hok, show objOk s f.pid f.core (srcS2 (ctxOf s f g) b) = true from hgood,
        if_neg (by decide), if_neg (by decide), ho, Bool.true_or, if_pos rfl] at hrun
      exact stalls_of _ s f g _ hi hrun
    · intro cd rank bs hok hgood ho hf hplanes hfirst hruns hread
      have key := cput_sends s f g d a b hi hu hd hblock cm bs h hok hgood ho hf hplanes hfirst hruns hread
      refine goesOn_mono _ s g f _ _ _ key fun t f' g' ht => ?_
      obtain ⟨hj, hent, hout, o, cm', hcomm, hmem, hid, hsent, hobj, hseq⟩ := ht
      have hlow : parBits (blockAt (ctxOf s f g) a) 5 10 0 = rank := bitsOf_low _
      have hbit : (parBits (blockAt (ctxOf s f g) a) 5 19 19 == 1) = decide ((par.getD 5 0).toNat / 2 ^ 19 % 2 = 1) := beq_eq_decide _ _
      rw [hlow, hbit] at hout
      exact ⟨hj, hent, hout, o, cm', hcomm, hmem, hid, hsent, hobj, hseq⟩

end Sys2Proof.Machine
end

section
/-!
SUPPORT. The mapper of the queues (16 R337-R345): what a notification, a mapping, a displacement and a quantum that has run out leave of
the table of queues.
-/
namespace Sys2Proof.Machine

theorem queue?_listed {s : State} {pid k : Nat} {q : Queue} (h : queue? s pid k = some q) : mget? s.queues k = some q := by
  simp only [queue?, Option.bind_eq_some_iff] at h
  obtain ⟨v, hv, hp⟩ := h
  split at hp
  · exact hv.trans hp
  · exact nomatch hp

theorem dropEvent_events (s : State) (e : Pending) : (dropEvent s e).events = s.events.filter (· ≠ e) :=
  List.filter_congr fun x _ => by by_cases h : x = e <;> simp [h]

/-- A write of QNOTIFY waits in its queue, and one event waits for a tender core. -/
theorem ring_waits {s : State} {k : Nat} {q : Queue} (hq : mget? s.queues k = some q) (w : Word) :
    (∀ j, j ≠ k → mget? (ring s k w).queues j = mget? s.queues j) ∧
      ring s k w = { s with queues := (ring s k w).queues, events := (ring s k w).events } ∧
      mget? (ring s k w).queues k = some { q with bell := some w } ∧
      (ring s k w).events = if .bell k ∈ s.events then s.events else s.events ++ [.bell k] := by
  refine ⟨fun j hj => ?_, rfl, ?_, addEvent_eq _ _⟩
  · simp [ring, mget?_mmod, hj]
  · simp [ring, mget?_mmod, hq]

theorem mget?_mapTo (s : State) (k slot j : Nat) :
    mget? (mapTo s k slot).queues j = if j = k then (mget? s.queues k).map
      fun q => { q with state := .mapped, slot := some slot, mappedAt := s.cycle } else mget? s.queues j :=
  mget?_mmod _ _ _ _

theorem mget?_unmap (s : State) (k j : Nat) :
    mget? (unmap s k).queues j = if j = k then (mget? s.queues k).map
      fun q => { q with state := .ready, slot := none, since := s.cycle } else mget? s.queues j :=
  mget?_mmod _ _ _ _

theorem mapTo_only {s : State} {k : Nat} {q : Queue} (slot : Nat) (hq : mget? s.queues k = some q) :
    (mapTo s k slot = { s with queues := (mapTo s k slot).queues } ∧
      ∀ j, j ≠ k → mget? (mapTo s k slot).queues j = mget? s.queues j) ∧
      mget? (mapTo s k slot).queues k = some { q with state := .mapped, slot := some slot, mappedAt := s.cycle } :=
  ⟨⟨rfl, fun j hj => (mget?_mapTo s k slot j).trans (if_neg hj)⟩, by rw [mget?_mapTo, if_pos rfl, hq]; rfl⟩

/-- One queue passes its slot on to another. -/
theorem mapTo_unmap {s : State} {k j : Nat} {q v : Queue} (slot : Nat) (hq : mget? s.queues k = some q) (hv : mget? s.queues j = some v)
    (hj : j ≠ k) :
    mapTo (unmap s j) k slot = { s with queues := (mapTo (unmap s j) k slot).queues } ∧
      mget? (mapTo (unmap s j) k slot).queues k = some { q with state := .mapped, slot := some slot, mappedAt := s.cycle } ∧
      mget? (mapTo (unmap s j) k slot).queues j = some { v with state := .ready, slot := none, since := s.cycle } := by
  refine ⟨rfl, ?_, ?_⟩
  · rw [mget?_mapTo, if_pos rfl, mget?_unmap, if_neg hj.symm, hq]; rfl
  · rw [mget?_mapTo, if_neg hj, mget?_unmap, if_pos rfl, hv]; rfl

/-! ### The device reads a write of QNOTIFY -/

/-- A queue after the device has read a write of its QNOTIFY that does not overrun the ring. -/
def Queue.notified (q : Queue) (w : Word) (now : Nat) : Queue :=
  if q.state = .idle ∧ w ≠ q.r then { q with widx := w, bell := none, state := .ready, since := now } else { q with widx := w, bell := none }

theorem notify_announces {s : State} {k : Nat} {q : Queue} {w : Word} (hq : mget? s.queues k = some q)
    (hw : (w - q.r).toNat ≤ 2 ^ q.size ∨ q.state = .error) :
    notify s k w = putQueue (dropEvent s (.bell k)) k (q.notified w s.cycle) := by
  unfold notify Queue.notified
  simp only [hq, beq_iff_eq, bne_iff_ne, Bool.and_eq_true, ne_eq]
  by_cases he : q.state = .error
  · simp [he]
  · have hle : ¬ 2 ^ q.size < (w - q.r).toNat := fun h => he (hw.resolve_left (Nat.not_le_of_lt h))
    rw [if_neg he, if_neg hle]
    split <;> rfl

/-- A write of the device raises no monitor of a queue that watches no line. -/
theorem writeBytes_unwatching {s : State} {k : Nat} {q : Queue} (hq : mget? s.queues k = some q) (hl : q.line = none) (a : Nat)
    (bs : List Byte) : mget? (writeBytes s a bs).queues k = some q := by
  have hm : ∀ n, q.monitors a n = false := fun n => by simp [Queue.monitors, hl]
  unfold writeBytes alert
  dsimp only
  split
  · rw [mget?_mmap, hq]
    simp [hm]
  · exact hq

theorem journal_unwatching {s : State} {k : Nat} {q : Queue} (hq : mget? s.queues k = some q) (hl : q.line = none) (pid : Nat)
    (o : Option Nat) (transition reason : Nat) (pidx : Word) (launch : Nat) (tag : Word) :
    mget? (journal s pid o transition reason pidx launch tag).queues k = some q := by
  unfold journal
  split
  · exact hq
  · split
    · exact hq
    · dsimp only [modPart, devWrite]
      split
      · exact writeBytes_unwatching hq hl _ _
      · exact hq

theorem journal_flights (s : State) (pid : Nat) (o : Option Nat) (transition reason : Nat) (pidx : Word) (launch : Nat) (tag : Word) :
    (journal s pid o transition reason pidx launch tag).flights = s.flights := by
  unfold journal
  split
  · rfl
  · split
    · rfl
    · dsimp only [modPart, devWrite]
      split
      · exact writeBytes_flights _ _ _
      · rfl

theorem notify_overruns {s : State} {k : Nat} {q : Queue} {w : Word} (hq : mget? s.queues k = some q) (he : q.state ≠ .error)
    (hw : 2 ^ q.size < (w - q.r).toNat) :
    mget? (notify s k w).queues k = some { q with widx := w, bell := none, state := .error, slot := none, line := none } ∧
      (notify s k w).flights = s.flights := by
  unfold notify
  simp only [hq, beq_iff_eq, he, if_false, hw, if_true]
  exact ⟨journal_unwatching (by simp [putQueue]) rfl _ _ _ _ _ _ _, journal_flights _ _ _ _ _ _ _ _⟩

theorem tender_bell {s : State} {n k : Nat} {q : Queue} {w : Word} (ht : taken s n = some (.bell k)) (hq : mget? s.queues k = some q)
    (hb : q.bell = some w) : tender s n = .next (notify s k w) := by
  simp [tender, ht, takeBell, hq, hb]

theorem tender_nothing {s : State} {n : Nat} (ht : taken s n = none) : tender s n = .next s := by
  simp [tender, ht]

/-- The events of one queue are taken in their order. -/
theorem taken_inOrder {s : State} {n k : Nat} {e : Pending} (he : (s.events.take 12)[n]? = some e) (hk : e.queue = some k) :
    taken s n = some e ↔ ∀ x ∈ s.events.take n, x.queue ≠ some k := by
  unfold taken
  rw [he]
  simp [hk]

/-! ### The mapper -/

/-- The queues that one may displace. -/
def belowOf (s : State) (q : Queue) : List (Nat × Queue) :=
  s.queues.filter fun x => x.2.state == .mapped && x.2.lat == q.lat && q.prio < x.2.prio

theorem mem_belowOf (s : State) (q : Queue) (x : Nat × Queue) (hp : ∀ x ∈ s.queues, x.2.prio ≤ 3) :
    x ∈ belowOf s q ↔ x ∈ s.queues ∧ x.2.state = .mapped ∧ x.2.lat = q.lat ∧ q.prio < x.2.prio ∧ x.2.prio ≤ 3 := by
  simp only [belowOf, List.mem_filter, Bool.and_eq_true, beq_iff_eq, decide_eq_true_eq]
  constructor
  · rintro ⟨hm, ⟨hs, hl⟩, hlt⟩
    exact ⟨hm, hs, hl, hlt, hp x hm⟩
  · rintro ⟨hm, hs, hl, hlt, -⟩
    exact ⟨hm, ⟨hs, hl⟩, hlt⟩

theorem victim_none (s : State) (q : Queue) : victim s q = none ↔ belowOf s q = [] := by
  constructor
  · intro h
    refine Classical.byContradiction fun hne => ?_
    obtain ⟨x, hx, -⟩ := leastBy_some (fun x : Nat × Queue => (3 - x.2.prio) * 2 ^ 64 + x.2.mappedAt) _ hne
    exact absurd (hx.symm.trans h) (by simp)
  · intro h
    have : victim s q = leastBy (fun x : Nat × Queue => (3 - x.2.prio) * 2 ^ 64 + x.2.mappedAt) (belowOf s q) := rfl
    rw [this, h]
    rfl

/-- The victim has the lowest priority, and was mapped first among those that have it. -/
theorem victim_least {s : State} {q : Queue} {n : Nat × Queue} (h : victim s q = some n) (hp : ∀ x ∈ s.queues, x.2.prio ≤ 3)
    (hm : ∀ x ∈ s.queues, x.2.mappedAt < 2 ^ 64) :
    n ∈ belowOf s q ∧
      ∀ x ∈ belowOf s q, x.2.prio < n.2.prio ∨ (x.2.prio = n.2.prio ∧ n.2.mappedAt ≤ x.2.mappedAt) := by
  have hne : belowOf s q ≠ [] := fun he => absurd ((victim_none s q).2 he) (by simp [h])
  obtain ⟨y, hy, hmem, hle⟩ := leastBy_some (fun x : Nat × Queue => (3 - x.2.prio) * 2 ^ 64 + x.2.mappedAt) _ hne
  obtain rfl : y = n := Option.some.inj (hy.symm.trans h)
  refine ⟨hmem, fun x hx => ?_⟩
  have hxs := (List.mem_filter.1 hx).1
  have hys := (List.mem_filter.1 hmem).1
  have h1 := hle x hx
  have h2 := hp x hxs
  have h3 := hp y hys
  have h4 := hm x hxs
  have h5 := hm y hys
  omega

theorem execQueueMap_maps {s : State} {pid k slot : Nat} {q : Queue} (hq : queue? s pid k = some q) (hs : q.state = .ready)
    (hf : slotFits q.lat slot = true) (hm : mappedTo s slot = none) (h1 : firstReady s q.lat (fun _ => true) = some (k, q)) :
    execQueueMap pid k slot s = .next (mapTo s k slot) := by
  simp [execQueueMap, hq, hs, hf, hm, h1]

theorem execQueueDisplace_displaces {s : State} {pid k slot j : Nat} {q v : Queue} (hq : queue? s pid k = some q) (hs : q.state = .ready)
    (ht : mayTake s q = false) (hv : victim s q = some (j, v)) (hvs : v.slot = some slot)
    (h1 : firstReady (unmap s j) q.lat (fun _ => true) = some (k, q)) :
    execQueueDisplace pid k slot s = .next (mapTo (unmap s j) k slot) := by
  simp [execQueueDisplace, hq, hs, ht, hv, hvs, h1]

theorem execQueueDisplace_waits {s : State} {pid k slot : Nat} {q : Queue} (hq : queue? s pid k = some q) (hv : victim s q = none) :
    execQueueDisplace pid k slot s = .next s := by
  simp [execQueueDisplace, hq, hv]

theorem execQueueQuantumExpiry_passes {s : State} {k slot j : Nat} {q v : Queue} (hv : mappedTo s slot = some (j, v))
    (hc : v.mappedAt + 240000 ≤ s.cycle)
    (h1 : firstReady { (unmap s j) with queues := mdel (unmap s j).queues j } v.lat (fun x => x.prio = v.prio) = some (k, q))
    (ht : mayTake (unmap s j) q = true) : execQueueQuantumExpiry slot s = .next (mapTo (unmap s j) k slot) := by
  have hp : (fun x : Queue => x.prio == v.prio) = fun x => decide (x.prio = v.prio) := by
    funext x; exact Bool.eq_iff_iff.2 (by simp)
  simp only [execQueueQuantumExpiry, hv, if_neg (Nat.not_lt.2 hc), hp, h1, ht, if_true]

/-- Settles O51: each event writes the one queue's cell or the two queues' cells that it names. -/
theorem queueMapping : Obligations.QueueMapping := by
  unfold Obligations.QueueMapping
  intro s pid k q hq others only read
  have hk : mget? s.queues k = some q := queue?_listed hq
  refine ⟨?_, ?_, ?_, ?_, ?_, ?_, ?_, ?_, ?_, ?_, ?_⟩
  · intro w
    obtain ⟨hothers, hrest, hcell, hevents⟩ := ring_waits hk w
    refine ⟨ring s k w, ?_, hothers, hrest, hcell, hevents⟩
    rw [exec_qnotifyWrite, execQnotifyWrite, hq]
    rfl
  · intro n w ht hb hw
    refine ⟨_, tender_bell ht hk hb, ?_⟩
    rw [notify_announces hk hw]
    refine ⟨fun j hj => mget?_mset_ne _ _ hj, ?_, mget?_mset_same _ _ _⟩
    rw [← dropEvent_events]
    rfl
  · intro n w ht hb he hw
    exact ⟨_, tender_bell ht hk hb, notify_overruns (q := q) hk he hw⟩
  · exact fun n ht => tender_nothing ht
  · exact fun n e he hek => taken_inOrder he hek
  · intro off v
    obtain ⟨hothers, hrest, hcell, hevents⟩ := ring_waits hk (loWord v)
    refine ⟨fun hoff => ?_, ring s k (loWord v), ?_, hothers, hrest, hcell, hevents⟩
    · simp [exec_registerWrite, execRegisterWrite, hoff]
    · simp [exec_registerWrite, execRegisterWrite, ringBell, hq]
  · intro slot hs hf hm h1
    exact ⟨_, execQueueMap_maps hq hs hf hm h1, mapTo_only slot hk⟩
  · intro slot j v hs ht hv hvs hj hvj h1
    exact ⟨_, execQueueDisplace_displaces hq hs ht hv hvs h1, mapTo_unmap slot hk hvj hj⟩
  · exact fun slot hv => execQueueDisplace_waits hq hv
  · intro n hm below hp
    refine ⟨?_, fun hn => ?_⟩
    · rw [victim_none, List.eq_nil_iff_forall_not_mem]
      exact forall_congr' fun x => not_congr (mem_belowOf s q x hp)
    · obtain ⟨hin, hle⟩ := victim_least hn hp hm
      exact ⟨(mem_belowOf s q n hp).1 hin, fun x hx => hle x ((mem_belowOf s q x hp).2 hx)⟩
  · intro slot j v hv hc hj hvj h1 ht
    exact ⟨_, execQueueQuantumExpiry_passes hv hc h1 ht, mapTo_unmap slot hk hvj hj⟩

end Sys2Proof.Machine
end

section
/-!
SUPPORT. The host's side (22 R447-R454): the bits that a register takes, the accesses over the link, the lock and the verification of
boot, a reset, the attestation and the thermal limits.
-/
namespace Sys2Proof.Machine

/-! ### Bits of registers -/

theorem toNat_dw {n : Nat} (h : n < 2 ^ 64) : (dw n).toNat = n := by
  rw [dw, BitVec.toNat_ofNat, Nat.mod_eq_of_lt h]

/-- A number in three parts: below a field, the field, and above it. -/
theorem split_field (x lo w : Nat) : x = 2 ^ lo * (2 ^ w * (x / 2 ^ lo / 2 ^ w) + x / 2 ^ lo % 2 ^ w) + x % 2 ^ lo := by
  rw [Nat.div_add_mod, Nat.div_add_mod]

theorem testBit_fields (a g b lo w i : Nat) (hg : g < 2 ^ w) (hb : b < 2 ^ lo) :
    (2 ^ lo * (2 ^ w * a + g) + b).testBit i =
      if i < lo then b.testBit i else if i - lo < w then g.testBit (i - lo) else a.testBit (i - lo - w) := by
  rw [Nat.testBit_two_pow_mul_add _ hb]
  split
  · rfl
  · rw [Nat.testBit_two_pow_mul_add _ hg]

theorem toNat_take (old new : DWord) {lo hi : Nat} (hle : lo ≤ hi) (hhi : hi < 64) :
    (take old new hi lo).toNat =
      2 ^ lo * (2 ^ (hi + 1 - lo) * (old.toNat / 2 ^ lo / 2 ^ (hi + 1 - lo)) + bitsOf new.toNat hi lo) + old.toNat % 2 ^ lo := by
  obtain ⟨w, hw⟩ : ∃ w, w = hi + 1 - lo := ⟨_, rfl⟩
  have hx := split_field old.toNat lo w
  have hg : bitsOf new.toNat hi lo < 2 ^ w := by rw [bitsOf, hw]; exact Nat.mod_lt _ (Nat.two_pow_pos _)
  have hf : bitsOf old.toNat hi lo = old.toNat / 2 ^ lo % 2 ^ w := by rw [bitsOf, hw]
  have hb : old.toNat % 2 ^ lo < 2 ^ lo := Nat.mod_lt _ (Nat.two_pow_pos _)
  obtain ⟨a, ha⟩ : ∃ a, a = old.toNat / 2 ^ lo / 2 ^ w := ⟨_, rfl⟩
  obtain ⟨g, hgd⟩ : ∃ g, g = bitsOf new.toNat hi lo := ⟨_, rfl⟩
  obtain ⟨f, hfd⟩ : ∃ f, f = old.toNat / 2 ^ lo % 2 ^ w := ⟨_, rfl⟩
  obtain ⟨b, hbd⟩ : ∃ b, b = old.toNat % 2 ^ lo := ⟨_, rfl⟩
  rw [take, hf, ← hw, ← ha, ← hgd, ← hfd, ← hbd]
  rw [← ha, ← hfd, ← hbd] at hx
  rw [← hgd] at hg
  rw [← hbd] at hb
  have hsum : old.toNat - f * 2 ^ lo + g * 2 ^ lo = 2 ^ lo * (2 ^ w * a + g) + b := by
    rw [hx]
    have : 2 ^ lo * (2 ^ w * a + f) + b - f * 2 ^ lo = 2 ^ lo * (2 ^ w * a) + b := by
      rw [Nat.mul_add, Nat.mul_comm (2 ^ lo) f]; omega
    rw [this, Nat.mul_add, Nat.mul_comm g]
    omega
  rw [hsum]
  refine toNat_dw ?_
  have hlt : old.toNat < 2 ^ (lo + w) * 2 ^ (63 - hi) := by
    rw [← Nat.pow_add, show lo + w + (63 - hi) = 64 by omega]; exact old.isLt
  have hatop : a < 2 ^ (63 - hi) := by
    rw [ha, Nat.div_div_eq_div_mul, ← Nat.pow_add]
    exact Nat.div_lt_of_lt_mul hlt
  have h1 : 2 ^ w * a + g < 2 ^ w * 2 ^ (63 - hi) := by
    calc 2 ^ w * a + g < 2 ^ w * a + 2 ^ w := by omega
      _ = 2 ^ w * (a + 1) := (Nat.mul_succ _ _).symm
      _ ≤ 2 ^ w * 2 ^ (63 - hi) := Nat.mul_le_mul_left _ hatop
  calc 2 ^ lo * (2 ^ w * a + g) + b < 2 ^ lo * (2 ^ w * a + g) + 2 ^ lo := by omega
    _ = 2 ^ lo * (2 ^ w * a + g + 1) := (Nat.mul_succ _ _).symm
    _ ≤ 2 ^ lo * (2 ^ w * 2 ^ (63 - hi)) := Nat.mul_le_mul_left _ h1
    _ = 2 ^ 64 := by rw [← Nat.pow_add, ← Nat.pow_add]; congr 1; omega

/-- A register after a field of it was written. -/
theorem getLsbD_take (old new : DWord) {lo hi : Nat} (hle : lo ≤ hi) (hhi : hi < 64) (i : Nat) :
    (take old new hi lo).getLsbD i = if lo ≤ i ∧ i ≤ hi then new.getLsbD i else old.getLsbD i := by
  have hg : bitsOf new.toNat hi lo < 2 ^ (hi + 1 - lo) := Nat.mod_lt _ (Nat.two_pow_pos _)
  simp only [BitVec.getLsbD, toNat_take old new hle hhi]
  rw [testBit_fields _ _ _ _ _ _ hg (Nat.mod_lt _ (Nat.two_pow_pos _))]
  by_cases h1 : i < lo
  · rw [if_pos h1, if_neg (by omega), Nat.testBit_mod_two_pow]
    simp [h1]
  · rw [if_neg h1]
    by_cases h2 : i ≤ hi
    · rw [if_pos (by omega), if_pos ⟨by omega, h2⟩, bitsOf, Nat.testBit_mod_two_pow, Nat.testBit_div_two_pow,
        decide_eq_true (by omega), Bool.true_and, Nat.sub_add_cancel (by omega)]
    · rw [if_neg (by omega), if_neg (by omega), Nat.testBit_div_two_pow, Nat.testBit_div_two_pow,
        show i - lo - (hi + 1 - lo) + (hi + 1 - lo) + lo = i by omega]

theorem getLsbD_takeIf (ok : Nat → Bool) (old new : DWord) {lo hi : Nat} (hle : lo ≤ hi) (hhi : hi < 64) (i : Nat) :
    (takeIf ok old new hi lo).getLsbD i =
      if ok (bitsOf new.toNat hi lo) = true ∧ lo ≤ i ∧ i ≤ hi then new.getLsbD i else old.getLsbD i := by
  unfold takeIf
  by_cases h : ok (bitsOf new.toNat hi lo) = true
  · rw [if_pos h, getLsbD_take old new hle hhi]
    simp only [h, true_and]
  · rw [if_neg h, if_neg (fun hc => h hc.1)]

theorem getLsbD_clearBit (old new : DWord) {k : Nat} (hk : k < 64) (i : Nat) :
    (clearBit old new k).getLsbD i = (old.getLsbD i && !(decide (i = k) && new.getLsbD k)) := by
  unfold clearBit
  by_cases h : new.getLsbD k = true
  · rw [if_pos h, h]
    by_cases hi : i < 64
    · by_cases hik : i = k
      · subst hik
        simp
      · simp [hi, hik]
    · simp [BitVec.getLsbD_of_ge _ _ (Nat.not_lt.1 hi)]
  · rw [if_neg h]
    simp [h]

/-- A register takes the bits of `b` from the value written. -/
theorem takes_of {r r' v : DWord} {b : Nat → Prop} [DecidablePred b] (h : ∀ i, r'.getLsbD i = if b i then v.getLsbD i else r.getLsbD i) (i : Nat)
    (_ : i < 64) : (b i → r'.getLsbD i = v.getLsbD i) ∧ (¬ b i → r'.getLsbD i = r.getLsbD i) :=
  ⟨fun hb => (h i).trans (if_pos hb), fun hb => (h i).trans (if_neg hb)⟩

theorem getLsbD_putFrctl (r v : DWord) (i : Nat) :
    (putFrctl r v).getLsbD i =
      ((if i = 0 ∨ (12 ≤ i ∧ i ≤ 51) ∨ (4 ≤ i ∧ i ≤ 7 ∧ v.toNat / 2 ^ 4 % 2 ^ 4 < 11) then v.getLsbD i else r.getLsbD i) &&
        !(decide (i = 3) && v.getLsbD 3)) := by
  rw [putFrctl, getLsbD_clearBit _ _ (by omega), getLsbD_take _ _ (by omega) (by omega),
    getLsbD_takeIf _ _ _ (by omega) (by omega), getLsbD_take _ _ (by omega) (by omega)]
  congr 1
  rw [← ite_ite_or, ← ite_ite_or]
  refine ite_iff ?_
  simp only [decide_eq_true_eq]
  simp only [bitsOf, Nat.reduceAdd, Nat.reduceSub]
  omega

theorem getLsbD_putJnlctl (r v : DWord) (i : Nat) :
    (putJnlctl r v).getLsbD i =
      if i = 0 ∨ (12 ≤ i ∧ i ≤ 51) ∨ (1 ≤ i ∧ i ≤ 4 ∧ v.toNat / 2 ^ 1 % 2 ^ 4 < 13) then v.getLsbD i else r.getLsbD i := by
  rw [putJnlctl, getLsbD_take _ _ (by omega) (by omega),
    getLsbD_takeIf _ _ _ (by omega) (by omega), getLsbD_take _ _ (by omega) (by omega)]
  rw [← ite_ite_or, ← ite_ite_or]
  refine ite_iff ?_
  simp only [decide_eq_true_eq]
  simp only [bitsOf, Nat.reduceAdd, Nat.reduceSub]
  omega

theorem getLsbD_putHrctl (r v : DWord) (i : Nat) :
    (putHrctl r v).getLsbD i = if i ≤ 4 ∨ (12 ≤ i ∧ i ≤ 51) then v.getLsbD i else r.getLsbD i := by
  rw [putHrctl, getLsbD_take _ _ (by omega) (by omega), getLsbD_take _ _ (by omega) (by omega), getLsbD_take _ _ (by omega) (by omega)]
  rw [← ite_ite_or, ← ite_ite_or]
  exact ite_iff (by omega)

theorem getLsbD_putTmrctl (r v : DWord) (i : Nat) :
    (putTmrctl r v).getLsbD i =
      if i = 0 ∨ (16 ≤ i ∧ i ≤ 39 ∧ v.toNat / 2 ^ 16 % 2 ^ 24 ≠ 0) then v.getLsbD i else r.getLsbD i := by
  rw [putTmrctl, getLsbD_take _ _ (by omega) (by omega), getLsbD_takeIf _ _ _ (by omega) (by omega)]
  rw [← ite_ite_or]
  refine ite_iff ?_
  simp only [decide_eq_true_eq]
  simp only [bitsOf, Nat.reduceAdd, Nat.reduceSub]
  omega

theorem getLsbD_putPreempt (r v : DWord) (i : Nat) :
    (takeIf (1 ≤ ·) r v 15 0).getLsbD i = if i ≤ 15 ∧ v.toNat / 2 ^ 0 % 2 ^ 16 ≠ 0 then v.getLsbD i else r.getLsbD i := by
  rw [getLsbD_takeIf _ _ _ (by omega) (by omega)]
  refine ite_iff ?_
  simp only [decide_eq_true_eq]
  simp only [bitsOf, Nat.reduceAdd, Nat.reduceSub]
  omega

/-! ### Accesses over the link -/

theorem hostReach_iff (s : State) (a n : Nat) :
    hostReach s a n = true ↔
      (a + n ≤ 0x90_0000_0000 ∨ (2 ^ 51 ≤ a ∧ a + n ≤ 2 ^ 52)) ∧ ∀ i, i < n → inCarveOut s (a + i) = false := by
  simp only [hostReach, Bool.and_eq_true, Bool.or_eq_true, decide_eq_true_eq, Bool.not_eq_true', List.any_eq_false, List.mem_range,
    Bool.not_eq_true]
  rfl

theorem doPuts_one {s : State} (hp : s.poison = []) (k : Nat) (bs : List Byte) (a : DWord) (src : List Source) :
    doPuts s [⟨k, bs, a, src⟩] = writeBytes s k bs := by
  simp [doPuts, hp]

theorem hostAccess_refused {s : State} {a : Nat} {data : List Byte} (h : hostReach s a data.length = false) (w : Bool) :
    exec (.hostAccess w a data) s = .next (send s .linkError) := by
  simp [exec_hostAccess, execHostAccess, h]

theorem hostAccess_writes {s : State} {a : Nat} {data : List Byte} (h : hostReach s a data.length = true) (hp : s.poison = []) :
    exec (.hostAccess true a data) s = .next (writeBytes s a data) := by
  simp [exec_hostAccess, execHostAccess, h, doPuts_one hp]

theorem hostAccess_reads {s : State} {a : Nat} {data : List Byte} (h : hostReach s a data.length = true) (hp : s.poison = []) :
    exec (.hostAccess false a data) s =
      .next (send { s with free := s.free + 1 } (.hostRead ((List.range data.length).map fun i => readByte s (a + i)))) := by
  simp [exec_hostAccess, execHostAccess, h, poisoned, hp]

/-! ### The windows -/

/-- A write of a register of a partition's window changes that partition alone. -/
theorem mgmt_writes {s : State} {pid : Nat} {p : Part} (hp : part? s pid = some p) {off : Nat} {v : DWord} {k : Part → Part}
    (hk : putMgmt s pid off v = modPart s pid k) {Q : Part → Prop} (hQ : Q (k p)) :
    ∃ t p', exec (.registerWrite (.mgmt pid) off v) s = .next t ∧
      t = { s with parts := t.parts } ∧ part? t pid = some p' ∧ Q p' ∧ ∀ j, j ≠ pid → part? t j = part? s j := by
  refine ⟨modPart s pid k, k p, ?_, rfl, ?_, hQ, fun j hj => ?_⟩
  · rw [exec_registerWrite]
    exact congrArg _ hk
  · rw [part?_modPart, if_pos rfl, hp, Option.map_some]
  · rw [part?_modPart, if_neg hj]

theorem putMgmt_hcmd {s : State} {pid : Nat} {p : Part} (hp : part? s pid = some p) (v : DWord) :
    putMgmt s pid 0x40 v = ringCommands (modPart s pid fun p => { p with hcmd := v }) pid := by
  simp [putMgmt, hp]

theorem mgmtReg_unlisted {s : State} {pid off : Nat} (h1 : 0x40 < off) (h2 : off < 0x1000) : mgmtReg s pid off = 0 := by
  unfold mgmtReg
  split
  · rfl
  · split
    iterate 9 omega
    rw [if_neg]
    simp only [Bool.and_eq_true, decide_eq_true_eq]
    omega

theorem mgmtReg_between {s : State} {pid off : Nat} (h1 : off < 0x40) (h2 : off % 8 ≠ 0) : mgmtReg s pid off = 0 := by
  unfold mgmtReg
  split
  · rfl
  · split
    iterate 9 omega
    rw [if_neg]
    simp only [Bool.and_eq_true, decide_eq_true_eq]
    omega

/-- PWRCTL in its fields. -/
theorem toNat_pwrctlReg (s : State) :
    (pwrctlReg s).toNat = s.tmax.toNat * 2 ^ 48 + s.pnow.toNat * 2 ^ 32 + (if s.thr then 2 ^ 16 else 0) + s.plim.toNat := by
  have h1 := s.tmax.isLt
  have h2 := s.pnow.isLt
  have h3 := s.plim.isLt
  refine toNat_dw ?_
  split <;> omega

theorem pwrctl_fields (s : State) :
    (windowReg s .pwrctl 0).toNat % 2 ^ 12 = s.plim.toNat ∧ (windowReg s .pwrctl 0).getLsbD 16 = s.thr ∧
      (windowReg s .pwrctl 0).toNat / 2 ^ 32 % 2 ^ 16 = s.pnow.toNat ∧ (windowReg s .pwrctl 0).toNat / 2 ^ 48 = s.tmax.toNat := by
  have h1 := s.tmax.isLt
  have h2 := s.pnow.isLt
  have h3 := s.plim.isLt
  have hw : (windowReg s .pwrctl 0).toNat = _ := toNat_pwrctlReg s
  rw [BitVec.getLsbD, Nat.testBit_eq_decide_div_mod_eq, hw]
  cases s.thr with
  | true =>
    simp only [if_true]
    exact ⟨by omega, decide_eq_true (by omega), by omega, by omega⟩
  | false =>
    simp only [Bool.false_eq_true, if_false]
    exact ⟨by omega, decide_eq_false (by omega), by omega, by omega⟩

theorem putPwrctl_limits (s : State) (v : DWord) :
    (putPwrctl s v).plim.toNat = max 500 (min 2800 (v.toNat % 2 ^ 12)) := by
  have hn : bitsOf v.toNat 11 0 = v.toNat % 2 ^ 12 := by rw [bitsOf, Nat.pow_zero, Nat.div_one]
  simp only [putPwrctl, hn, BitVec.toNat_ofNat]
  split
  · omega
  · split <;> omega

/-! ### Boot -/

/-- The status of BOOTCTL becomes `n`, and no other bit changes. -/
theorem status_take (b : DWord) {n : Nat} (hn : n < 8) : (take b (dw n) 2 0).toNat % 8 = n ∧ (take b (dw n) 2 0).toNat / 8 = b.toNat / 8 := by
  have hd : bitsOf (dw n).toNat 2 0 = n := by
    rw [toNat_dw (by omega), bitsOf, Nat.pow_zero, Nat.div_one]
    exact Nat.mod_eq_of_lt hn
  rw [toNat_take b _ (by omega) (by omega), hd]
  simp only [Nat.pow_zero, Nat.div_one, Nat.mod_one]
  omega

theorem bitsOf_or_lock (b : DWord) (lo w : Nat) (h : 4 ≤ lo) :
    (b ||| 8#64).toNat / 2 ^ lo % 2 ^ w = b.toNat / 2 ^ lo % 2 ^ w := by
  have h8 : (8 : Nat) / 2 ^ lo = 0 := Nat.div_eq_of_lt (Nat.lt_of_lt_of_le (by decide : (8 : Nat) < 2 ^ 4) (Nat.pow_le_pow_right (n := 2) (by decide) h))
  rw [BitVec.toNat_or, Nat.or_div_two_pow]
  simp [h8]

theorem carveOk_iff (b : DWord) :
    carveOk (b ||| 8#64) = true ↔ 1 ≤ b.toNat / 16 % 2 ^ 12 ∧
      b.toNat / 2 ^ 16 % 2 ^ 32 * 65536 + b.toNat / 16 % 2 ^ 12 * 65536 ≤ 0x90_0000_0000 := by
  have hunits : (b ||| 8#64).toNat / 2 ^ 4 % 2 ^ 12 = b.toNat / 16 % 2 ^ 12 := bitsOf_or_lock b 4 12 (by omega)
  simp only [carveOk, bitsOf, Nat.reduceAdd, Nat.reduceSub, Bool.and_eq_true, decide_eq_true_eq, Config.hbmBytes,
    hunits, bitsOf_or_lock b 16 32 (by omega)]

theorem bootStat_eq (s : State) : bootStat s = s.bootctl.toNat % 8 := by
  simp only [bootStat, bitsOf, Nat.reduceAdd, Nat.reduceSub, Nat.pow_zero, Nat.div_one, Nat.reducePow]

/-- What the verification finds: the header is wrong, or the image is not trusted, or it is. -/
theorem bootVerify_answers {s : State} (hs : bootStat s = 1) {h key : List Byte} {m : BitVec 256}
    (hh : h = readBytes s (s.bootctl.toNat / 2 ^ 16 % 2 ^ 32 * 65536) 4096) (hkey : key = (h.drop 0x10).take 1312)
    (hm : m = Config.sha3 (readBytes s (s.bootctl.toNat / 2 ^ 16 % 2 ^ 32 * 65536 + 4096) (fieldOf h 8 8))) :
    exec .bootVerifyDone s =
      if headerRight h (s.bootctl.toNat / 16 % 2 ^ 12) = false then .next { s with bootctl := take s.bootctl (dw 4) 2 0 }
      else if Config.sha3 key = Config.fusedKeyHash ∧
          Config.mldsaVerify key ((h.drop 0x530).take 2420) (bytesOfNat 32 m.toNat) = true then
        .next { s with bootctl := take s.bootctl (dw 2) 2 0, measured := m }
      else .next { s with bootctl := take s.bootctl (dw 5) 2 0 } := by
  have hb : bitsOf s.bootctl.toNat 47 16 = s.bootctl.toNat / 2 ^ 16 % 2 ^ 32 := rfl
  have hu : bitsOf s.bootctl.toNat 15 4 = s.bootctl.toNat / 16 % 2 ^ 12 := rfl
  rw [exec_bootVerifyDone, execBootVerifyDone, if_neg (by simp [hs])]
  simp only [hb, hu, ← hh, ← hm, ← hkey]
  cases headerRight h (s.bootctl.toNat / 16 % 2 ^ 12) with
  | false => rfl
  | true =>
    rw [if_neg (by simp)]
    by_cases h1 : Config.sha3 key = Config.fusedKeyHash ∧
        Config.mldsaVerify key ((h.drop 0x530).take 2420) (bytesOfNat 32 m.toNat) = true
    · rw [if_neg (by simp [h1]), if_neg (by simp), if_pos h1]
    · rw [if_pos (by simpa [Decidable.imp_iff_not_or] using h1), if_neg (by simp), if_neg h1]

/-! ### Reset -/

theorem mget?_filter_key {β : Type} (m : Cells β) (p : Nat → Bool) (k : Nat) :
    mget? (m.filter fun c => p c.1) k = if p k then mget? m k else none := by
  induction m with
  | nil => simp [mget?]
  | cons x r ih =>
    obtain ⟨j, v⟩ := x
    by_cases hj : p j = true
    · rw [List.filter_cons_of_pos (by simpa using hj), mget?, mget?, ih]
      by_cases hk : j = k
      · simp [hk, hk ▸ hj]
      · simp [hk]
    · rw [List.filter_cons_of_neg (by simpa using hj), ih, mget?]
      by_cases hk : j = k
      · simp [hk ▸ hj]
      · simp [hk]

/-- The host's memory after a reset, and no other. -/
theorem mget?_hostMemory (s : State) (a : Nat) :
    mget? (s.mem.filter fun c => Config.hostBase ≤ c.1 && c.1 < Config.scratchBase) a =
      if 2 ^ 51 ≤ a ∧ a < 2 ^ 52 then mget? s.mem a else none := by
  rw [mget?_filter_key s.mem (fun n => Config.hostBase ≤ n && n < Config.scratchBase)]
  refine ite_iff ?_
  simp only [Bool.and_eq_true, decide_eq_true_eq]
  rfl

/-! ### The thermal limits -/

theorem part?_freezeAll (ps : List (Nat × Part)) (s : State) :
    (ps.foldl (fun s p => assertFreeze s p.1) s) = { s with parts := (ps.foldl (fun s p => assertFreeze s p.1) s).parts } ∧
      ∀ k, part? (ps.foldl (fun s p => assertFreeze s p.1) s) k = (part? s k).map fun p =>
        if k ∈ ps.map (·.1) then { p with freeze := if p.freeze = .clear then .asserted s.cycle else p.freeze } else p := by
  induction ps generalizing s with
  | nil => exact ⟨rfl, fun k => by simp⟩
  | cons x r ih =>
    obtain ⟨hrest, hparts⟩ := ih (assertFreeze s x.1)
    refine ⟨hrest.trans rfl, fun k => (hparts k).trans ?_⟩
    by_cases hk : k = x.1
    · subst hk
      cases hp : part? s x.1 with
      | none =>
        have : part? (assertFreeze s x.1) x.1 = none := by rw [assertFreeze, part?_modPart, if_pos rfl, hp]; rfl
        rw [this]; rfl
      | some p =>
        rw [part?_assertFreeze s x.1 p hp]
        simp only [Option.map_some, List.map_cons, List.mem_cons, true_or, if_true]
        by_cases hf : p.freeze = .clear
        · simp [hf]
        · simp [hf]
    · rw [assertFreeze, part?_modPart, if_neg hk]
      simp only [List.map_cons, List.mem_cons, hk, false_or]
      rfl

/-- A measurement at or above the temperature of the shutdown asserts the freeze line of every job. -/
theorem measure_hot (s : State) (power temp : BitVec 16) (h : 920 ≤ temp.toNat) :
    measure s power temp =
        { s with tmax := temp, pnow := power, thr := decide (s.thr = true ∨ s.plim.toNat < power.toNat ∨ 840 ≤ temp.toNat),
                 parts := (measure s power temp).parts, outbox := s.outbox ++ [.thermal] } ∧
      ∀ k p, part? s k = some p →
        part? (measure s power temp) k = some { p with freeze := if p.freeze = .clear then .asserted s.cycle else p.freeze } := by
  have hthr : (s.thr || decide (s.plim.toNat < power.toNat) || decide (840 ≤ temp.toNat)) =
      decide (s.thr = true ∨ s.plim.toNat < power.toNat ∨ 840 ≤ temp.toNat) := by
    simp [Bool.or_assoc]
  unfold measure
  rw [if_neg (by omega), hthr]
  obtain ⟨s1, hs1⟩ : ∃ s1 : State, s1 = { s with
    tmax := temp, pnow := power, thr := decide (s.thr = true ∨ s.plim.toNat < power.toNat ∨ 840 ≤ temp.toNat) } := ⟨_, rfl⟩
  obtain ⟨hrest, hparts⟩ := part?_freezeAll s1.parts s1
  rw [← hs1]
  refine ⟨?_, fun k p hp => ?_⟩
  · refine (congrArg (fun t => send t .thermal) hrest).trans ?_
    rw [hs1]
    rfl
  · have hp1 : part? s1 k = some p := by rw [hs1]; exact hp
    have hmem : k ∈ s1.parts.map (·.1) := List.mem_map_of_mem (f := (·.1)) (mem_of_mget? s1.parts k p hp1)
    refine (hparts k).trans ?_
    rw [hp1, Option.map_some, if_pos hmem, hs1]

theorem measure_cool (s : State) (power temp : BitVec 16) (h : temp.toNat < 920) :
    measure s power temp =
      { s with tmax := temp, pnow := power, thr := decide (s.thr = true ∨ s.plim.toNat < power.toNat ∨ 840 ≤ temp.toNat) } := by
  rw [measure, if_pos h]
  simp [Bool.or_assoc]

/-! ### The parts of the obligation -/

theorem link_reaches (s : State) (a : Nat) (data : List Byte) :
    let n := data.length
    let reach : Prop := (a + n ≤ 0x90_0000_0000 ∨ (2 ^ 51 ≤ a ∧ a + n ≤ 2 ^ 52)) ∧ ∀ i, i < n → inCarveOut s (a + i) = false
    (¬ reach → ∀ w, ∃ t, exec (.hostAccess w a data) s = .next t ∧ t = { s with outbox := s.outbox ++ [.linkError] }) ∧
      (reach → s.poison = [] →
        (∃ t, exec (.hostAccess true a data) s = .next t ∧ MemorySame (writeBytes s a data) t ∧ t.flights = s.flights ∧
          t.parts = s.parts) ∧
        ∃ t, exec (.hostAccess false a data) s = .next t ∧ MemorySame s t ∧
          t.outbox = s.outbox ++ [.hostRead ((List.range n).map fun i => readByte s (a + i))]) := by
  intro n reach
  refine ⟨fun h w => ?_, fun h hp => ?_⟩
  · have hf : hostReach s a data.length = false := Bool.eq_false_iff.2 fun hr => h ((hostReach_iff s a _).1 hr)
    exact ⟨_, hostAccess_refused hf w, rfl⟩
  · have ht : hostReach s a data.length = true := (hostReach_iff s a _).2 h
    exact ⟨⟨_, hostAccess_writes ht hp, fun _ => rfl, writeBytes_flights _ _ _, writeBytes_parts _ _ _⟩,
      ⟨_, hostAccess_reads ht hp, fun _ => rfl, rfl⟩⟩

theorem hcmd_rings {s : State} {pid : Nat} {p : Part} (hp : part? s pid = some p) (v : DWord) :
    ∃ t p', exec (.registerWrite (.mgmt pid) 0x40 v) s = .next t ∧ p' = { p with hcmd := v } ∧ part? t pid = some p' ∧
      t = { s with parts := t.parts, events := if .ring pid ∈ s.events then s.events else s.events ++ [.ring pid] } ∧
      ∀ k, k ≠ pid → part? t k = part? s k := by
  refine ⟨ringCommands (modPart s pid fun p => { p with hcmd := v }) pid, _, ?_, rfl, ?_, ?_, fun k hk => ?_⟩
  · rw [exec_registerWrite, ← putMgmt_hcmd hp]
    rfl
  · show part? (modPart s pid _) pid = _
    rw [part?_modPart, if_pos rfl, hp, Option.map_some]
  · rw [← addEvent_eq]
    rfl
  · show part? (modPart s pid _) k = _
    rw [part?_modPart, if_neg hk]

theorem window_reads {s : State} {pid : Nat} {p : Part} (hp : part? s pid = some p) :
    let reads (off : Nat) (r : DWord) : Prop := windowReg s (.mgmt pid) off = r
    reads 0x00 p.frctl ∧ reads 0x08 p.jnlctl ∧ reads 0x10 (p.jnlhead.setWidth 64) ∧ reads 0x18 (p.jnltail.setWidth 64) ∧
      reads 0x20 p.hrctl ∧ reads 0x28 (p.hrhead.setWidth 64) ∧ reads 0x30 p.tmrctl ∧ reads 0x38 p.preemptdl ∧ reads 0x40 p.hcmd ∧
      (∀ off, 0x40 < off → off < 0x1000 → reads off 0) ∧ ∀ off, off < 0x40 → off % 8 ≠ 0 → reads off 0 := by
  intro reads
  have h (off : Nat) : windowReg s (.mgmt pid) off = mgmtReg s pid off := rfl
  refine ⟨?_, ?_, ?_, ?_, ?_, ?_, ?_, ?_, ?_, fun off h1 h2 => mgmtReg_unlisted h1 h2, fun off h1 h2 => mgmtReg_between h1 h2⟩
  all_goals exact (h _).trans (by simp only [mgmtReg, hp])

theorem mgmtReg_congr {s t : State} (hp : t.parts = s.parts) (hc : t.cores = s.cores) (pid off : Nat) :
    mgmtReg t pid off = mgmtReg s pid off := by
  have hpart : part? t pid = part? s pid := by rw [part?, hp]; rfl
  have hcore (c o : Nat) : coreReg t c o = coreReg s c o := by simp only [coreReg, core, hc]
  have howns (c : Nat) : ownsCore t pid c = ownsCore s pid c := by simp only [ownsCore, hpart]
  simp only [mgmtReg, hpart, hcore, howns]

theorem windowReg_anytime (s : State) (r : List Move) (n : Nat) (w : Window) (off : Nat) :
    windowReg { s with agenda := r, free := n } w off = windowReg s w off := by
  cases w with
  | mgmt pid =>
    simp only [windowReg]
    exact mgmtReg_congr (s := s) (t := { s with agenda := r, free := n }) rfl rfl pid off
  | doorbell pid q => rfl
  | bootctl => rfl
  | pwrctl => rfl

/-- A read of a register answers and changes nothing else. -/
theorem readRegister_sends {s : State} {w : Window} {off : Nat} {r : List Move} (h : s.agenda = .other (.readRegister w off) :: r) :
    ∃ t, step s = .next t ∧ t.outbox = s.outbox ++ [.register (windowReg s w off)] ∧ MemorySame s t := by
  have hstep : step s = otherMove { s with agenda := r } (.readRegister w off) := by
    rw [step, h]
  obtain ⟨s1, hs1⟩ : ∃ s1, s1 = { s with agenda := r, free := s.free + 1 } := ⟨_, rfl⟩
  have hmove : otherMove { s with agenda := r } (.readRegister w off) = .next (stamp s1 (send s1 (.register (windowReg s1 w off)))) := by
    rw [hs1]
    rfl
  refine ⟨_, hstep.trans hmove, ?_, fun a => ?_⟩
  · rw [hs1, windowReg_anytime]
    rfl
  · rw [hs1]
    rfl

theorem bootctl_takes (s : State) (v : DWord) :
    ∃ t, exec (.registerWrite .bootctl 0 v) s = .next t ∧ t = { s with bootctl := t.bootctl } ∧
      (s.bootctl.getLsbD 3 = true → t.bootctl = s.bootctl) ∧
      (s.bootctl.getLsbD 3 = false → v.getLsbD 3 = false → ∀ i, i < 64 →
        t.bootctl.getLsbD i = if 4 ≤ i ∧ i ≤ 47 then v.getLsbD i else s.bootctl.getLsbD i) := by
  refine ⟨putBootctl s v, rfl, ?_, fun h => ?_, fun h hv i _ => ?_⟩
  · unfold putBootctl lockBoot
    dsimp only
    (repeat' split) <;> rfl
  · simp [putBootctl, lockBoot, h]
  · rw [putBootctl, hv, h]
    exact getLsbD_take _ _ (by omega) (by omega) i

theorem bootLock_starts (s : State) :
    ∃ t, exec .bootLock s = .next t ∧ t = { s with bootctl := t.bootctl } ∧ (s.bootctl.getLsbD 3 = true → t = s) ∧
      (s.bootctl.getLsbD 3 = false → t.bootctl.toNat % 8 = (if 1 ≤ s.bootctl.toNat / 16 % 2 ^ 12 ∧
          s.bootctl.toNat / 2 ^ 16 % 2 ^ 32 * 65536 + s.bootctl.toNat / 16 % 2 ^ 12 * 65536 ≤ 0x90_0000_0000 then 1 else 3) ∧
        t.bootctl.toNat / 8 = (s.bootctl ||| 8).toNat / 8) := by
  refine ⟨lockBoot s, rfl, ?_, fun h => ?_, fun h => ?_⟩
  · unfold lockBoot
    split <;> rfl
  · simp [lockBoot, h]
  · have hl : (lockBoot s).bootctl = take (s.bootctl ||| 8#64) (dw (if carveOk (s.bootctl ||| 8#64) then 1 else 3)) 2 0 := by
      rw [lockBoot, h]
      cases hc : carveOk (s.bootctl ||| 8#64) with
      | true => simp [hc, dw]
      | false => simp [hc, dw]
    rw [hl, ← ite_iff (carveOk_iff s.bootctl)]
    exact status_take _ (by split <;> omega)

theorem reset_leaves (s : State) :
    ∃ t, exec .reset s = .next t ∧
      t = { State.reset with agenda := s.agenda, free := s.free, nextId := s.nextId, package := s.package, outbox := s.outbox,
                             mem := t.mem, poison := t.poison } ∧
      (∀ a, 2 ^ 51 ≤ a → a < 2 ^ 52 → mgetD t.mem a 0 = mgetD s.mem a 0) ∧
      ∀ a, a < 2 ^ 51 ∨ 2 ^ 52 ≤ a → readByte t a = 0 := by
  refine ⟨_, rfl, rfl, fun a h1 h2 => ?_, fun a h => ?_⟩
  · show (mget? (s.mem.filter _) a).getD 0 = _
    rw [mget?_hostMemory, if_pos ⟨h1, h2⟩]
    rfl
  · refine (readByte_defined _ a rfl).trans ?_
    show (mget? (s.mem.filter _) a).getD 0 = 0
    rw [mget?_hostMemory, if_neg (by omega)]
    rfl

theorem length_bytesOfNat (n x : Nat) : (bytesOfNat n x).length = n := by simp [bytesOfNat]

theorem attest_reports (s : State) (nonce : List Byte) (hs : bootStat s = 2) (hn : nonce.length = 32) :
    ∃ r sig, exec (.attest nonce) s = .next { s with outbox := s.outbox ++ [.report (r ++ sig), .completion 0] } ∧ r.length = 128 ∧
      r.take 32 = bytesOfNat 32 s.measured.toNat ∧ (r.drop 64).take 32 = nonce ∧ sig = Config.mldsaSign r := by
  obtain ⟨tail, htail⟩ : ∃ tail, tail = bytesOfNat 4 Config.stepping ++ (bytesOfNat 4 (s.parts.map fun p => 2 ^ p.1).sum ++
    bytesOfNat 24 0) := ⟨_, rfl⟩
  obtain ⟨r, hr⟩ : ∃ r, r = bytesOfNat 32 s.measured.toNat ++ (bytesOfNat 32 Config.fusedKeyHash.toNat ++ (nonce ++ tail)) := ⟨_, rfl⟩
  refine ⟨r, _, ?_, ?_, ?_, ?_, rfl⟩
  · rw [exec_attest, execAttest, if_neg (by simp [hs]), if_neg (by simp [hn])]
    simp [done, send, hr, htail]
  · simp [hr, htail, length_bytesOfNat, hn]
  · rw [hr, List.take_left' (length_bytesOfNat _ _)]
  · rw [hr, ← List.append_assoc, List.drop_left' (by simp [length_bytesOfNat]), List.take_left' hn]

/-- Settles O53: the link by `link_reaches`, the windows by `mgmt_writes` with the bits that each register takes, boot by
`bootLock_starts` and `bootVerify_answers`, and the temperature by `measure_cool` and `measure_hot`. -/
theorem hostAndBoot : Obligations.HostAndBoot := by
  unfold Obligations.HostAndBoot
  intro s stat status base units
  refine ⟨link_reaches s, ?_, fun w off r h => readRegister_sends h, rfl, pwrctl_fields s, ?_, bootctl_takes s, bootLock_starts s, ?_,
    reset_leaves s, ?_, ?_⟩
  · intro pid p v hp writes takes f
    have hpart : ¬ (part? s pid).isNone = true := by simp [hp]
    refine ⟨?_, ?_, ?_, ?_, ?_, ?_, hcmd_rings hp v, window_reads hp⟩
    · refine mgmt_writes hp (k := fun p => { p with frctl := putFrctl p.frctl v }) (by simp [putMgmt, hp]) ⟨rfl, fun i hi h3 => ?_, ?_⟩
      · exact ⟨fun hb => by rw [getLsbD_putFrctl, if_pos hb]; simp [h3], fun hb => by rw [getLsbD_putFrctl, if_neg hb]; simp [h3]⟩
      · rw [getLsbD_putFrctl]
        simp
    · exact mgmt_writes hp (k := fun p => { p with jnlctl := putJnlctl p.jnlctl v }) (by simp [putMgmt, hp])
        ⟨rfl, takes_of (getLsbD_putJnlctl _ _)⟩
    · exact mgmt_writes hp (k := fun p => { p with jnltail := loWord v }) (by simp [putMgmt, hp]) rfl
    · exact mgmt_writes hp (k := fun p => { p with hrctl := putHrctl p.hrctl v }) (by simp [putMgmt, hp])
        ⟨rfl, takes_of (getLsbD_putHrctl _ _)⟩
    · exact mgmt_writes hp (k := fun p => { p with tmrctl := putTmrctl p.tmrctl v }) (by simp [putMgmt, hp])
        ⟨rfl, takes_of (getLsbD_putTmrctl _ _)⟩
    · exact mgmt_writes hp (k := fun p => { p with preemptdl := takeIf (1 ≤ ·) p.preemptdl v 15 0 }) (by simp [putMgmt, hp])
        ⟨rfl, takes_of (getLsbD_putPreempt _ _)⟩
  · exact fun v => ⟨putPwrctl s v, rfl, rfl, putPwrctl_limits s v, rfl⟩
  · intro h key m trusted
    refine ⟨fun hs => ?_, fun hs => ?_⟩
    · rw [exec_bootVerifyDone, execBootVerifyDone, if_pos (by simpa [bootStat_eq] using hs)]
    · have hv := bootVerify_answers ((bootStat_eq s).trans hs) (h := h) (key := key) (m := m) rfl rfl rfl
      by_cases hh : headerRight h units = false
      · refine ⟨_, hv.trans (if_pos hh), rfl, fun _ => ⟨status_take _ (by omega), rfl⟩, fun h' => ?_, fun h' => ?_⟩
        · rw [hh] at h'; exact nomatch h'
        · rw [hh] at h'; exact nomatch h'
      · by_cases htr : trusted
        · exact ⟨_, (hv.trans (if_neg hh)).trans (if_pos htr), rfl, fun h' => absurd h' hh, fun _ h' => absurd htr h',
            fun _ _ => ⟨status_take _ (by omega), rfl⟩⟩
        · exact ⟨_, (hv.trans (if_neg hh)).trans (if_neg htr), rfl, fun h' => absurd h' hh, fun _ _ => ⟨status_take _ (by omega), rfl⟩,
            fun _ h' => absurd h' htr⟩
  · intro nonce
    refine ⟨fun hs => ?_, fun hs hn => ?_, fun hs hn => attest_reports s nonce ((bootStat_eq s).trans hs) hn⟩
    · rw [exec_attest, execAttest, if_pos (by simpa [bootStat_eq] using hs)]
    · rw [exec_attest, execAttest, if_neg (by simpa [bootStat_eq] using hs), if_pos (by simpa using hn)]
      rfl
  · intro power temp measured hot
    refine ⟨fun hc => ⟨?_, ?_⟩, fun hh => ⟨?_, ?_⟩⟩
    · exact congrArg _ (measure_cool s power temp hc)
    · rw [exec_thermalShutdown, execThermalShutdown, if_pos hc]
    · exact ⟨_, rfl, measure_hot s power temp hh⟩
    · refine ⟨_, ?_, measure_hot s s.pnow temp hh⟩
      rw [exec_thermalShutdown, execThermalShutdown, if_neg (by omega)]

end Sys2Proof.Machine
end

section
/-!
SUPPORT. The firmware's commands over partitions (22 R452, R453): a migration of a partition that is being destroyed, in a machine whose
list of partitions is not in the order of their numbers, which the statement admits.
-/
namespace Sys2Proof.Machine

/-- A machine with partition 3, which is being destroyed, listed after partition 5. -/
def disorderedParts : State :=
  { State.reset with parts := [(5, recordingPart), (3, { recordingPart with destroyed := true })] }

/-- How many partitions an answer lists. -/
def listedParts (x : Ans) : Nat :=
  match x with
  | .next t => t.parts.length
  | _ => 0

/-- The command that answers status 3 writes partition 3 back in the place of its number, and it stands in the list a second time. -/
theorem listedParts_migration : listedParts (exec (.migration 3 []) disorderedParts) = 3 := by
  decide

/-- Refutes O54: in `disorderedParts` a migration of partition 3, which is not alive, answers status 3 in a state whose list of partitions
is longer than before (`listedParts_migration`). -/
theorem not_partitions : ¬ Obligations.Partitions := by
  intro h
  obtain ⟨-, -, -, -, -, -, hmigration, -⟩ := h disorderedParts
  obtain ⟨hanswers, -, -⟩ := hmigration 3 [] (by decide)
  have hdead : ¬ ∃ p, part? disorderedParts 3 = some p ∧ p.destroyed = false := by
    rintro ⟨p, hp, hd⟩
    have hp3 : p = { recordingPart with destroyed := true } := (Option.some.inj hp).symm
    rw [hp3] at hd
    exact absurd hd (by decide)
  have hlisted := listedParts_migration
  rw [hanswers hdead] at hlisted
  exact absurd hlisted (by decide)

end Sys2Proof.Machine
end

section
/-!
SUPPORT. The end of a frozen job (19 R399): a spawn tree whose root is cancelled and holds a lower place than its last running member, so
that the end of the member ends the root as cancelled before the firmware ends it as faulted (15 R322, R325).
-/
namespace Sys2Proof.Machine

/-- A running member, number 1, of the tree of launch 2. -/
def memberLaunch : Launch :=
  { pid := 0, id := 1, kind := 1, compat := false, tag := 0, desc := none, ext := [96, 1, 1], karg := 0, next := 0, spill := 0,
    status := 0, points := 96, gangs := 1, handed := 1, placed := 1, retired := 0, state := 1, reason := 0, fault := none,
    antisym := false, root := some 2, isRoot := false, tree := 0, treeFlt := none, treeEnd := false, graph := none, queue := none,
    qlive := false, device := false, prio := 1, pidx := 0, cancel := true, order := 0, contribs := [] }

/-- The root, whose own gangs are done: one member is left. -/
def cancelledRoot : Launch := { memberLaunch with id := 2, kind := 2, root := none, isRoot := true, tree := 1 }

/-- A frozen job with the tree, and a flight with a double fault. -/
def frozenTree : State :=
  { State.reset with
    parts := [(0, { recordingPart with freeze := .inEffect })], launches := [(1, memberLaunch), (2, cancelledRoot)]
    flights := [(0, { watchedFlight with launch := 1, pend := [], timer := false, dblFlt := some 5 })] }

/-- The state of a launch after an answer. -/
def launchState (x : Ans) (k : Nat) : Option Nat :=
  match x with
  | .next t => (mget? t.launches k).map (·.state)
  | _ => none

theorem launchState_frozenTree : launchState (exec (.firmwareEndsJob 0) frozenTree) 2 = some 3 := by
  decide

/-- Refutes O55: the firmware ends the job of `frozenTree`, and the root of its tree ends cancelled, not faulted
(`launchState_frozenTree`). -/
theorem not_jobControlAndTrace : ¬ Obligations.JobControlAndTrace := by
  intro h
  obtain ⟨-, -, hends, -⟩ := h
  obtain ⟨t, p', he, -, -, -, hlaunches⟩ := hends frozenTree 0 5 (by decide) (by decide)
  obtain ⟨l', hl', hstate, -⟩ := hlaunches 2 cancelledRoot rfl rfl (by decide)
  have hroot := launchState_frozenTree
  rw [he] at hroot
  simp only [launchState, hl', Option.map_some, hstate] at hroot
  exact absurd hroot (by decide)

end Sys2Proof.Machine
end

section
/-!
SUPPORT. Queue packets (16 R338-R340): a machine that lists two queues of one number, which the statement admits; the journal's write
reaches the line that the second one watches.
-/
namespace Sys2Proof.Machine

/-- A blocked queue whose wait has met its condition, with one packet announced. -/
def metQueue : Queue :=
  { pid := 0, ring := 0, size := 4, prio := 0, lat := false, rdidx := 0, err := 0, errsize := 4, r := 0, widx := 1, state := .blocked,
    slot := none, since := 0, mappedAt := 0, graph := none, line := some 0x2000, head := [], fromGraph := [], bell := none, met := true }

/-- A queue of the same number that watches the partition's journal. -/
def journalWatcher : Queue := { metQueue with line := some 0x1000 }

/-- A partition with a journal at 0x1000. -/
def journalPart : Part := { recordingPart with jnlctl := 0x1001 }

/-- A machine where the hit of queue 0's monitor waits for a tender core. -/
def twinQueues : State :=
  { State.reset with parts := [(0, journalPart)], queues := [(0, metQueue), (0, journalWatcher)], events := [.monitor 0] }

/-- The events after an answer. -/
def eventsAfter (x : Ans) : List Pending :=
  match x with
  | .next t => t.events
  | _ => []

/-- The hit is taken, the packet is accepted, and its entry in the journal raises the monitor of number 0 again. -/
theorem eventsAfter_twinQueues : eventsAfter (exec (.waitMonitorHit 0 0) twinQueues) = [.monitor 0] := by
  decide

/-- Refutes O52: in `twinQueues` the event of queue 0's monitor waits again after its hit was taken (`eventsAfter_twinQueues`). -/
theorem not_queuePackets : ¬ Obligations.QueuePackets := by
  intro h
  obtain ⟨-, hblocked⟩ := h
  obtain ⟨hhit, -⟩ := hblocked twinQueues 0 0 metQueue rfl rfl (by decide)
  obtain ⟨t, he, hgone, -⟩ := hhit 0x2000 rfl (by decide) (.inl rfl)
  have hevents := eventsAfter_twinQueues
  rw [he] at hevents
  rw [show t.events = [.monitor 0] from hevents] at hgone
  exact hgone (List.mem_singleton.2 rfl)

end Sys2Proof.Machine
end

section
/-!
SUPPORT. An agreement on new trees (17 R365, R366): the Bridle engine holds two translations of the page of the marks, one to read by and
one that it may write by, so that it does not read the marks that it clears.
-/
namespace Sys2Proof.Machine

/-- A translation of the page of the marks that may only be read. -/
def readingEntry : TlbEntry :=
  { pid := 0, vbase := 0x1_0000, bits := 16, pbase := 0x2_0000, u := true, x := false, w := false, lcx := false }

/-- One of the same page to another place, that may be written. -/
def writingEntry : TlbEntry := { readingEntry with pbase := 0x3_0000, w := true }

/-- A collective of one chunk of one word. -/
def disturbedColl : CollOp :=
  { id := 7, num := 0, kind := .allreduce, par := [0, 0, 0, 0, 1, 0, 0, 0], obj := 0, fid := 0, gid := 0, launch := 0, core := 0,
    sup := false, pc := 0, seq := 0, stalls := [], begun := true, chunks := 1 }

/-- A communicator of one member, in agreement. -/
def agreeingComm : Comm :=
  { count := 1, rank := 0, maxtrees := 1, marks := 0x1_0000, members := [(0, 0)], derived := none, running := [], colls := [disturbedColl],
    cbars := [], puts := [], agree := true, restart := [], collNo := 1, cbarNo := 0, failed := [] }

/-- A machine in which the chunk's marks read 3 at the place that is read. -/
def agreeingState : State :=
  { State.reset with
    mem := [(0x2_0000, 0xFF)], parts := [(0, recordingPart)], gangs := [(0, plainGang)], bridTlb := [readingEntry, writingEntry]
    comms := [(0, agreeingComm)] }

/-- The numbers of the collectives of communicator 0 after an answer. -/
def collsAfter (x : Ans) : Option (List Nat) :=
  match x with
  | .next t => (comm? t 0 0).map fun c => c.colls.map (·.id)
  | _ => none

/-- The chunk is to be restarted, and yet its collective ends: its marks still read 3. -/
theorem collsAfter_agreeingState : collsAfter (exec (.agreement 0 0 ⟨[], []⟩ []) agreeingState) = some [] := by
  decide

/-- Refutes O48: in `agreeingState` the agreement ends the disturbed collective (`collsAfter_agreeingState`). -/
theorem not_fabricEvents : ¬ Obligations.FabricEvents := by
  intro h
  obtain ⟨-, -, -, -, -, -, -, hagreement, -⟩ := h
  obtain ⟨-, -, hagreed⟩ := hagreement agreeingState 0 0 agreeingComm agreeingComm disturbedColl [] [] [] [] rfl rfl rfl (by decide)
    (by decide) rfl
  obtain ⟨t, c', he, hc', -, -, hcolls, -⟩ := hagreed (by decide) ⟨rfl, by simp⟩ (by decide) (by decide) (by decide)
  have hended := collsAfter_agreeingState
  rw [he] at hended
  simp only [collsAfter, hc', Option.map_some, hcolls] at hended
  exact absurd hended (by decide)

end Sys2Proof.Machine
end

section
/-!
SUPPORT. Memory instructions (04 R100-R103, 05 R114, 11 R262-R270) in a machine whose next access number is that of an access which is
outstanding: what settles the new access finds the old one, and its parked lane keeps the fragment.
-/
namespace Sys2Proof.Machine

/-- A store that is parked in lane 5; its number is 0. -/
def parkedStore : Mop :=
  { id := 0, instr := .st .w .relaxed false false false (.v 4) ⟨true, 3, 0⟩, pc := 0, seq := 0, frag := 0, level := 0, owned := allLanes
    lanes := [⟨5, 0, 0, 0, false, false, [0], [], .parked 1⟩], vhits := [], shits := [], late := false, watch := [], once := [] }

/-- A fragment with no active lane. -/
def idleFragment : Fragment := { firstFragment with em := 0 }

/-- Its flight, whose first register pair holds an address in the scratch window. -/
def clashFlight : Flight :=
  { plainFlight with frags := [idleFragment], mops := [parkedStore], launch := 1, s := [(0, 0x0FC0_0000), (1, 0x7F00)] }

/-- A machine that holds it, whose next number is 0 again, and whose partition records page faults. -/
def clashState : State :=
  { State.reset with
    flights := [(0, clashFlight)], gangs := [(0, plainGang)], launches := [(1, memberLaunch)]
    parts := [(0, { recordingPart with frctl := 1 })] }

theorem issues_clashState : Issues clashState clashFlight idleFragment := ⟨rfl, rfl⟩

theorem unwatched_clashState : Unwatched clashState clashFlight := ⟨rfl, rfl⟩

theorem noEarly_clashFlight : NoEarly clashFlight := by
  constructor <;> simp [clashFlight, plainFlight, parkedStore]

/-- The base pair that the witnesses' memory operands name. -/
def windowBase : MAddr := ⟨false, 0, 0⟩

theorem mayName_clashFlight (ops : List (Opnd × Nat)) (h : usesBank ops = false ∧ ops.any (outOfBound 8) = false) :
    MayName clashFlight idleFragment ops := ⟨fun _ => h.1, h.2⟩

/-- A parked store has no destination. -/
theorem noDest_clashFlight (d : Opnd) (n : Nat) : NoDest clashFlight.mops clashFlight.pend d n := by
  constructor <;> simp [clashFlight, plainFlight, parkedStore, memDst, inGroupV, inGroupS]

/-- A memory instruction of a machine with the number clash does not let its fragment go on. -/
theorem firstWait_clash_sld : firstWait (exec (.sld .w .relaxed .none false (.s 8) windowBase) clashState) = some (.park 0) := by
  decide

theorem firstWait_clash_sst : firstWait (exec (.sst .w .relaxed false false (.s 8) windowBase) clashState) = some (.park 0) := by
  decide

theorem firstWait_clash_fest : firstWait (exec (.fest .relaxed true windowBase) clashState) = some (.park 0) := by
  decide

theorem firstWait_clash_aadd :
    firstWait (exec (.aadd .u32 .relaxed false false (.v 0) windowBase) clashState) = some (.park 0) := by
  decide

theorem firstWait_clash_aseal : firstWait (exec (.aseal .relaxed windowBase) clashState) = some (.park 0) := by
  decide

/-- An answer whose fragment runs is none whose fragment is parked. -/
theorem not_running_of_park {x : Ans} {t : State} {f' : Flight} {g' : Fragment} (hx : firstWait x = some (.park 0)) (he : x = .next t)
    (hf : flight? t 0 = some f') (hg : frag? f' 0 = some g') : g'.wait ≠ .run := by
  intro hw
  subst he
  simp [firstWait, hf, hg, hw] at hx

theorem not_goesOn_clash {i : Instr} {pc : DWord} {p : State → Flight → Fragment → Prop}
    (h : firstWait (exec i clashState) = some (.park 0)) : ¬ GoesOn i clashState idleFragment clashFlight pc p := by
  rintro ⟨t, f', g', he, hf, hg, -, -, -, hw, -⟩
  exact not_running_of_park h he hf hg hw

theorem not_completesIn_clash {i : Instr} {pc : DWord} {s1 : State} {f1 : Flight} {p : State → Flight → Fragment → Prop}
    (h : firstWait (exec i clashState) = some (.park 0)) :
    ¬ CompletesIn i clashState clashFlight idleFragment s1 f1 pc p := by
  rintro ⟨t, f', g', he, hf, hg, -, -, hsame, -⟩
  refine not_running_of_park h he hf hg ?_
  rw [hsame]

/-- The one access of a scalar load or store in the window. -/
def windowAccess : List (Tgt × Chk) := [(⟨96, 0x7F00_0FC0_0000, 0, false⟩, .ok (scratchKey 0 0) true 0)]

theorem reaches_clash_sld : Reaches (.sld .w .relaxed .none false (.s 8) windowBase) clashState clashFlight idleFragment windowAccess
    clashFlight clashState := ⟨rfl, by simp [windowAccess, Chk.key?]⟩

theorem reaches_clash_sst : Reaches (.sst .w .relaxed false false (.s 8) windowBase) clashState clashFlight idleFragment windowAccess
    clashFlight clashState := ⟨rfl, by simp [windowAccess, Chk.key?]⟩

/-- With no active lane an instruction of the lanes makes no access. -/
theorem reaches_clash_none (i : Instr) (h : (mspec i).once = false) :
    Reaches i clashState clashFlight idleFragment [] clashFlight clashState := by
  refine ⟨?_, by simp⟩
  have hts : allTgts (ctxOf clashState clashFlight idleFragment) (mspec i) = [] := by
    rw [allTgts, h]
    rfl
  rw [hts]
  rfl

/-- Refutes O25: where the number of the new access is that of an outstanding one, a load's fragment parks with that one
(`firstWait_clash_sld`). -/
theorem not_loads : ¬ Obligations.Loads := by
  rintro ⟨hissue, -⟩
  exact not_completesIn_clash firstWait_clash_sld (hissue clashState clashFlight idleFragment .w .relaxed .none false (.s 8) windowBase _
    windowAccess clashFlight clashState issues_clashState unwatched_clashState (mayName_clashFlight _ (by decide)) (Or.inl rfl)
    (Or.inr ⟨rfl, by decide⟩) reaches_clash_sld)

/-- Refutes O26: where the number of the new access is that of an outstanding one, a store's fragment parks with that one
(`firstWait_clash_sst`). -/
theorem not_stores : ¬ Obligations.Stores := by
  rintro ⟨hissue, -⟩
  exact not_completesIn_clash firstWait_clash_sst (hissue clashState clashFlight idleFragment .w .relaxed false false false (.s 8)
    windowBase _ windowAccess clashFlight clashState issues_clashState unwatched_clashState (mayName_clashFlight _ (by decide))
    (Or.inr rfl) reaches_clash_sst)

/-- Refutes O27: where the number of the new access is that of an outstanding one, the fragment of a FEST parks with that one
(`firstWait_clash_fest`). -/
theorem not_fullEmptyAndImages : ¬ Obligations.FullEmptyAndImages := by
  rintro ⟨hact, -⟩
  refine not_goesOn_clash firstWait_clash_fest ((hact clashState clashFlight idleFragment .relaxed true 0 windowBase _ [] clashFlight
    clashState issues_clashState unwatched_clashState (mayName_clashFlight _ (by decide)) (by decide) rfl noEarly_clashFlight
    (reaches_clash_none _ rfl)).1 rfl)

/-- Refutes O28: where the number of the new access is that of an outstanding one, the fragment of an atomic parks with that one
(`firstWait_clash_aadd`). -/
theorem not_atomics : ¬ Obligations.Atomics := by
  intro h
  refine not_goesOn_clash firstWait_clash_aadd (h clashState clashFlight idleFragment .u32 .relaxed false false (.v 0) windowBase _
    (fun x v _ => (x + v) % 2 ^ 32) 1 0 [] clashFlight clashState issues_clashState unwatched_clashState
    (mayName_clashFlight _ (by decide)) rfl (Or.inl ⟨rfl, Or.inl ⟨rfl, by decide, rfl⟩⟩) (by simp) (by decide)
    (fun _ _ _ => rfl) rfl noEarly_clashFlight (noDest_clashFlight _ _) (reaches_clash_none _ rfl) (by simp))

theorem launchOf_clash : launchOf clashState clashFlight = some memberLaunch := by
  simp [launchOf, clashState, clashFlight, plainFlight, watchedFlight, lkey, mget?]

/-- Refutes O29: where the number of the new access is that of an outstanding one, the fragment of an ASEAL parks with that one
(`firstWait_clash_aseal`). -/
theorem not_orderedSumsAndCounters : ¬ Obligations.OrderedSumsAndCounters := by
  intro h
  refine not_goesOn_clash firstWait_clash_aseal ((h clashState clashFlight idleFragment .relaxed false false (.v 0) 0 windowBase _
    [] clashFlight clashState memberLaunch plainGang issues_clashState unwatched_clashState (mayName_clashFlight _ (by decide)) rfl
    (by decide) rfl noEarly_clashFlight (noDest_clashFlight _ _) (reaches_clash_none _ rfl) launchOf_clash rfl (fun _ hk => nomatch hk)
    (fun _ _ _ hk => nomatch hk) (fun _ hj => nomatch hj)).2.1 rfl ?_)
  simp [memberLaunch]

end Sys2Proof.Machine
end

section
/-!
SUPPORT. The steps of a contraction (09 R245, R256) in a machine that lists two flights of one number: the step takes its flight from
the gang's, and deposits with the first of the number.
-/
namespace Sys2Proof.Machine

/-- A closed block-format contraction of block 0 at which lane 0 of flight 0 has arrived. -/
def closedInst : Inst :=
  { id := 0, scope := 1, own := 0, rank := 0, tag := 0, header := 0, ty := .dxb8, sp := false, expected := [], arrived := [(0, 1)]
    part := [], arrs := [], closed := some 0, progress := 0, frun := [], krun := [], staged := [], undef := false }

/-- A tile of gang 0 that holds it. -/
def contractingTile : Tile := { Tile.reset with owner := some (0, 0), insts := [closedInst] }

/-- The tile's gang, and two flights of number 0, of which the gang's is listed second. -/
def twinFlights : State :=
  { State.reset with
    flights := [(0, { plainFlight with gid := 1 }), (0, plainFlight)], gangs := [(0, plainGang)], tiles := [(0, contractingTile)] }

/-- The gang of flight 0 after an answer. -/
def firstGang (x : Ans) : Option Nat :=
  match x with
  | .next t => (flight? t 0).map (·.gid)
  | _ => none

theorem firstGang_step : firstGang (exec (.contractionStep 0 0) twinFlights) = some 1 := by
  decide

/-- Refutes O44: of two flights of one number a step of a block-format contraction leaves the partial set with the one listed first
(`firstGang_step`), where the statement has it with the flight of its own gang. -/
theorem not_contraction : ¬ Obligations.Contraction := by
  rintro ⟨-, -, hsteps, -⟩
  obtain ⟨-, hdeposit, -⟩ := hsteps twinFlights 0 0 0 plainGang contractingTile closedInst rfl rfl rfl rfl rfl rfl
  obtain ⟨t, x', z, he, -, -, hx, hflight, -⟩ := hdeposit 0 0 0 0 plainFlight rfl rfl rfl
  have hgang : firstGang (exec (.contractionStep 0 closedInst.id) twinFlights) = some 1 := firstGang_step
  rw [he] at hgang
  simp only [firstGang, hx, hflight, Option.map_some] at hgang
  exact absurd hgang (by decide)

end Sys2Proof.Machine
end

section
/-!
SUPPORT. Scheduling and pre-emption (06 R153, 16 R350-R353, 19 R404-R408): requests, deadlines, the stops of the engine classes, and the
restoration of a gang.
-/
namespace Sys2Proof.Machine

/-! ### The order of fragments -/

/-- A fragment that has been ready long enough ages. -/
theorem fragmentAged_ages (s : State) (fid n : Nat) (f : Flight) (g : Fragment) (hf : flight? s fid = some f) (hg : frag? f n = some g)
    (haged : agedNow s g = true) :
    ∃ t f', exec (.fragmentAged fid n) s = .next t ∧ t = { s with flights := t.flights } ∧ flight? t fid = some f' ∧
      frag? f' n = some { g with aged := true } ∧ Siblings f f' g ∧ ∀ k, k ≠ fid → flight? t k = flight? s k := by
  obtain ⟨f', h1, -, h2, h3, h4⟩ := modFrag_leaves s fid n f g (fun g => if agedNow s g then { g with aged := true } else g) hf hg
    fun h => by split <;> rfl
  rw [if_pos haged] at h2
  exact ⟨_, f', rfl, rfl, h1, h2, h3, h4⟩

/-- A slot turns to a fragment that may be tried. -/
theorem fragmentSwitch_turns (s : State) (cr slot : Nat) (x : SlotCur) (f : Flight) (g h : Fragment)
    (hx : mget? (Machine.core s cr).slots slot = some x) (hf : flight? s x.fid = some f) (hg : frag? f x.frag = some g)
    (hrun : 64 ≤ g.run) (hsaved : isSaved s f = false) (hfrozen : frozen s f.pid = false) (hh : h ∈ f.frags) (hne : h.num ≠ x.frag)
    (htry : mayTry s x.fid f h = true) (hw : h.wait = .run) :
    ∃ t z, exec (.fragmentSwitch cr slot) s = .next t ∧ t = { s with cores := t.cores } ∧ z ∈ f.frags ∧ z.num ≠ x.frag ∧
      mayTry s x.fid f z = true ∧ mget? (Machine.core t cr).slots slot = some { x with frag := z.num } := by
  let ready := f.frags.filter fun g => g.num != x.frag && mayTry s x.fid f g && g.wait == .run
  have hmem : h ∈ ready := List.mem_filter.2 ⟨hh, by simp [hne, htry, hw]⟩
  obtain ⟨z, hz, hzmem, -⟩ := leastBy_some (turnKey f) ready (List.ne_nil_of_mem hmem)
  obtain ⟨hzin, hzok⟩ := List.mem_filter.1 hzmem
  simp only [Bool.and_eq_true, bne_iff_ne] at hzok
  have hguard : (g.run < 64 || isSaved s f || frozen s f.pid) = false := by simp [hsaved, hfrozen, hrun]
  refine ⟨modCore s cr fun k => { k with slots := mset k.slots slot { x with frag := z.num } }, z, ?_, rfl, hzin, hzok.1.1, hzok.1.2, ?_⟩
  · show execFragmentSwitch cr slot s = _
    rw [execFragmentSwitch, hx]
    simp only [hf, hg]
    rw [show leastBy (turnKey f) (f.frags.filter fun g => g.num != x.frag && mayTry s x.fid f g && g.wait == .run) = some z from hz]
    simp only [hguard, Bool.false_eq_true, if_false]
  · rw [core_modCore, if_pos rfl]
    exact mget?_mset_same _ _ _

/-! ### Requests -/

/-- A gang that a request has reached. -/
def askedGang (s : State) (gid : Nat) (g : Gang) : Gang :=
  { g with
    state := .stopping, why := 1, acks := [], held := gangHalted s gid, pmaxAt := [], ran := g.ran + (s.cycle - g.started)
    deadline := if gangHalted s gid then none else some (s.cycle + deadlineCycles s g.pid) }

/-- A request to one gang changes gangs alone; one that it names has been asked. -/
theorem requestGang_leaves (s t : State) (gid k : Nat) (g : Gang) (ht : t = { s with gangs := t.gangs }) (hr : g.state = .running)
    (hg : mget? t.gangs gid = some g ∨ mget? t.gangs gid = some (askedGang s gid g)) :
    requestGang t k = { s with gangs := (requestGang t k).gangs } ∧
      (k = gid → mget? (requestGang t k).gangs gid = some (askedGang s gid g)) ∧
      (k ≠ gid → mget? (requestGang t k).gangs gid = mget? t.gangs gid) := by
  refine ⟨?_, ?_, fun h => ?_⟩
  · rw [requestGang, modGang]
    generalize mmod t.gangs k _ = gs
    rw [ht]
  · rintro rfl
    rw [requestGang, modGang_gangs, mget?_mmod, if_pos rfl, ht]
    rcases hg with hg | hg
    · simp only [hg, Option.map_some, hr]
      rfl
    · simp only [hg, Option.map_some, askedGang]
  · rw [requestGang, modGang_gangs, mget?_mmod, if_neg (Ne.symm h)]

/-- A request to some gangs reaches each of them that runs. -/
theorem foldl_requestGang (s : State) (gid : Nat) (g : Gang) (hr : g.state = .running) (l : List (Nat × Gang)) (t : State)
    (ht : t = { s with gangs := t.gangs })
    (hg : ((∃ x ∈ l, x.1 = gid) ∧ mget? t.gangs gid = some g) ∨ mget? t.gangs gid = some (askedGang s gid g)) :
    let u := l.foldl (fun s x => requestGang s x.1) t
    u = { s with gangs := u.gangs } ∧ mget? u.gangs gid = some (askedGang s gid g) := by
  induction l generalizing t with
  | nil =>
    rcases hg with ⟨⟨x, hx, -⟩, -⟩ | hg
    · simp at hx
    · exact ⟨ht, hg⟩
  | cons x r ih =>
    obtain ⟨hframe, hsame, hother⟩ := requestGang_leaves s t gid x.1 g ht hr (hg.imp_left And.right)
    refine ih _ hframe ?_
    by_cases hx : x.1 = gid
    · exact .inr (hsame hx)
    · refine hg.imp ?_ fun hg => (hother hx).trans hg
      rintro ⟨⟨y, hy, rfl⟩, hg⟩
      rcases List.mem_cons.1 hy with rfl | hy
      · exact absurd rfl hx
      · exact ⟨⟨y, hy, rfl⟩, (hother hx).trans hg⟩

/-- A request to a launch reaches its gang that runs. -/
theorem requestLaunch_asks (s : State) (gid : Nat) (g : Gang) (hg : mget? s.gangs gid = some g) (hr : g.state = .running) :
    requestLaunch s g.pid g.launch = { s with gangs := (requestLaunch s g.pid g.launch).gangs } ∧
      mget? (requestLaunch s g.pid g.launch).gangs gid = some (askedGang s gid g) :=
  foldl_requestGang s gid g hr _ s rfl
    (.inl ⟨⟨(gid, g), List.mem_filter.2 ⟨mem_of_mget? _ _ _ hg, by simp⟩, rfl⟩, hg⟩)

/-! ### Frozen saves -/

/-- A pre-emption that ends as a frozen save asserts the freeze line and tells firmware. -/
theorem frozenSave_leaves (s : State) (pid : Nat) (p : Part) (hp : part? s pid = some p) :
    ∃ p', frozenSave s pid = { s with parts := (frozenSave s pid).parts, gangs := (frozenSave s pid).gangs
                                      outbox := (frozenSave s pid).outbox } ∧
      (∀ k x, mget? s.gangs k = some x →
        mget? (frozenSave s pid).gangs k = some (if x.pid = pid ∧ x.state = .stopping ∧ x.why = 1 then { x with why := 4 } else x)) ∧
      part? (frozenSave s pid) pid = some p' ∧ (p.freeze = .clear → p'.freeze = .asserted s.cycle) ∧
      (frozenSave s pid).outbox = s.outbox ++ [.firmware pid 0] := by
  refine ⟨_, rfl, fun k x hx => ?_, part?_assertFreeze _ pid p hp, fun hclear => ?_, rfl⟩
  · have hgangs : (frozenSave s pid).gangs = mmap s.gangs fun _ g =>
        if g.pid == pid && g.state == .stopping && g.why == 1 then { g with why := 4 } else g := rfl
    rw [hgangs, mget?_mmap, hx, Option.map_some]
    simp only [Bool.and_eq_true, beq_iff_eq, and_assoc]
  · rw [if_pos hclear]

/-- A masked fragment at a trap level keeps its flight from stopping. -/
theorem maskedFlight_of (f : Flight) (h : Fragment) (hmem : h ∈ f.frags) (hs : h.stopped = false) (hopen : stopOpen f h.level = false) :
    maskedFlight f = true :=
  List.any_eq_true.2 ⟨h, hmem, by simp [hs, hopen]⟩

/-- Pre-emption may stop a fragment where traps are open at its level. -/
theorem stopOpen_iff (f : Flight) (h : Fragment) (hl : h.level ≤ 2) : stopOpen f h.level = true ↔ MayStop f h := by
  have : h.level = 0 ∨ h.level = 1 ∨ h.level = 2 := by omega
  rcases this with h0 | h1 | h2
  · simp [stopOpen, MayStop, h0]
  · simp [stopOpen, MayStop, bank, h1]
  · simp [stopOpen, MayStop, bank, h2]

/-! ### The stops of the engine classes -/

/-- The units whose stop changes nothing, and which acknowledge for the gang alone. -/
theorem stopUnit_still (s : State) (gid : Nat) (g : Gang) (u : StopUnit) (hu : u ∈ [StopUnit.vector, .copy, .bridle, .fresnel]) :
    stopUnit s gid g u = some s ∧ ackGangs s gid g u = [gid] := by
  simp only [List.mem_cons, List.not_mem_nil, or_false] at hu
  rcases hu with rfl | rfl | rfl | rfl <;> exact ⟨rfl, rfl⟩

/-- What a unit's stop that is asked for and may be acknowledged does. -/
theorem engineStopAck_asked (s : State) (gid : Nat) (g : Gang) (u : StopUnit) (hg : mget? s.gangs gid = some g)
    (hst : g.state = .stopping) (hh : g.held = false) (hack : u ∉ g.acks) (hfrozen : frozen s g.pid = false)
    (hstop : unitStopped s gid g u = true) :
    exec (.engineStopAck gid u) s =
      .next ((stopUnit s gid g u).elim (frozenSave s g.pid) fun s1 =>
        (ackGangs s gid g u).foldl collect
          ((ackGangs s gid g u).foldl (fun s k => modGang s k fun g => { g with acks := u :: g.acks.filter (· != u) }) s1)) := by
  have hasked : (g.state == .stopping && !g.held) = true := by simp [hst, hh]
  have hguard : (!(true || g.engStop) || g.acks.contains u || frozen s g.pid || !unitStopped s gid g u) = false := by
    simp [hack, hfrozen, hstop]
  show execEngineStopAck gid u s = _
  rw [execEngineStopAck, hg]
  simp only [hasked, if_true, hguard, Bool.false_eq_true, if_false]
  cases stopUnit s gid g u <;> rfl

/-- The gang after its acknowledgement. -/
theorem modGang_ack (s : State) (gid : Nat) (g : Gang) (u : StopUnit) (hg : mget? s.gangs gid = some g) (hack : u ∉ g.acks) :
    modGang s gid (fun g => { g with acks := u :: g.acks.filter (· != u) }) =
      { s with gangs := mset s.gangs gid { g with acks := u :: g.acks } } := by
  have hfilter : g.acks.filter (· != u) = g.acks :=
    List.filter_eq_self.2 fun x hx => by
      rw [bne_iff_ne]
      rintro rfl
      exact hack hx
  rw [modGang, mmod, hg]
  simp only [hfilter]

/-- The collector waits while it lacks an acknowledgement. -/
theorem collect_waits (s : State) (gid : Nat) (g : Gang) (hg : mget? s.gangs gid = some g) (h : collected s gid g = false) :
    collect s gid = s := by
  rw [collect, hg]
  simp only [h, Bool.and_false, Bool.false_eq_true, if_false]

/-- The collector of a pre-empted gang that is complete saves it. -/
theorem collect_saves (s : State) (gid : Nat) (g : Gang) (hg : mget? s.gangs gid = some g) (hst : g.state = .stopping)
    (hh : g.held = false) (hw : g.why = 1) (h : collected s gid g = true) : collect s gid = saveGang s gid := by
  rw [collect, hg]
  simp only [hst, hh, h, hw, beq_self_eq_true, Bool.not_false, Bool.and_self, if_true]

/-- What a fold of writes to a map leaves at a key that is written with one value alone. -/
theorem mget?_foldl_mset {β γ : Type} (l : List (Nat × γ)) (v : γ → β) (m : Cells β) (k : Nat) (x : γ) (hmem : (k, x) ∈ l)
    (hone : ∀ z ∈ l, z.1 = k → z.2 = x) : mget? (l.foldl (fun m t => mset m t.1 (v t.2)) m) k = some (v x) := by
  have hkeep (l : List (Nat × γ)) (m : Cells β) (hone : ∀ z ∈ l, z.1 = k → z.2 = x) (hm : mget? m k = some (v x)) :
      mget? (l.foldl (fun m t => mset m t.1 (v t.2)) m) k = some (v x) := by
    induction l generalizing m with
    | nil => exact hm
    | cons y r ih =>
      refine ih _ (fun z hz => hone z (List.mem_cons_of_mem y hz)) ?_
      rw [mget?_mset]
      split
      next hy => rw [hone y List.mem_cons_self hy.symm]
      next => exact hm
  induction l generalizing m with
  | nil => simp at hmem
  | cons y r ih =>
    have hone' := fun z hz => hone z (List.mem_cons_of_mem y hz)
    rcases List.mem_cons.1 hmem with rfl | hmem
    · exact hkeep r _ hone' (mget?_mset_same _ _ _)
    · exact ih _ hmem hone'

/-- A saved gang's tiles are free. -/
theorem saveGang_leaves (s : State) (gid : Nat) (g : Gang) (hg : mget? s.gangs gid = some g) :
    saveGang s gid = { s with gangs := (saveGang s gid).gangs, tiles := (saveGang s gid).tiles } ∧
      mget? (saveGang s gid).gangs gid = some { g with state := .saved, deadline := none, pmaxAt := [], savedT := gangTiles s gid } ∧
      ∀ k x, (k, x) ∈ gangTiles s gid → (∀ z ∈ s.tiles, z.1 = k → z.2 = x) → mget? (saveGang s gid).tiles k = some x.freed := by
  refine ⟨rfl, ?_, fun k x hmem hone => ?_⟩
  · show mget? (mmod s.gangs gid _) gid = _
    rw [mget?_mmod, if_pos rfl, hg]
    rfl
  · exact mget?_foldl_mset _ Tile.freed _ k x hmem fun z hz => hone z (List.mem_filter.1 hz).1

/-! ### The yield deadline -/

/-- No fragment of the gang is halted, and no halt is queued for its flights. -/
def NoHalts (gid : Nat) (f : Flight) : Prop := f.gid = gid → f.haltq = [] ∧ ∀ h ∈ f.frags, h.halted = false

/-- A machine in which the deadline of a gang stops fragments: no halt is queued for the gang's flights, all of which are there. -/
structure AtDeadline (s : State) (gid : Nat) (t : State) : Prop where
  rest  : t = { s with flights := t.flights }
  quiet : ∀ x ∈ t.flights, NoHalts gid x.2
  kept  : ∀ k y, flight? s k = some y → y.gid = gid → ∃ y', flight? t k = some y' ∧ y'.gid = gid

/-- The deadline of a gang has passed and nothing holds it. -/
def DeadlinePassed (s : State) (gid : Nat) (g : Gang) : Prop :=
  mget? s.gangs gid = some g ∧ g.state = .stopping ∧ g.why = 1 ∧ g.held = false ∧ ∃ c, g.deadline = some c ∧ c ≤ s.cycle

theorem gangHalted_quiet (s : State) (gid : Nat) (h : ∀ x ∈ s.flights, NoHalts gid x.2) : gangHalted s gid = false := by
  rw [gangHalted, List.any_eq_false]
  intro x hx
  obtain ⟨hmem, hgid⟩ := List.mem_filter.1 hx
  have hq := (h x hmem (by simpa using hgid)).2
  simpa using hq

/-- What the deadline makes of a fragment. -/
def dueFrag (f : Flight) (h : Fragment) : Fragment := if stopOpen f h.level then stopFrag h else h

theorem dueFrag_halted (f : Flight) (h : Fragment) : (dueFrag f h).halted = h.halted := by
  unfold dueFrag stopFrag
  (repeat' split) <;> rfl

theorem dueFrag_num (f : Flight) (h : Fragment) : (dueFrag f h).num = h.num := by
  unfold dueFrag stopFrag
  (repeat' split) <;> rfl

/-- No halt comes before the stop of a fragment, and the deadline has passed for it. -/
theorem haltThenStop_due (s t : State) (gid : Nat) (g : Gang) (k n : Nat) (y : Flight) (hd : DeadlinePassed s gid g)
    (ht : AtDeadline s gid t) (hy : flight? t k = some y) (hgid : y.gid = gid) : haltThenStop t k n = modFrag t k n (dueFrag y) := by
  obtain ⟨hg, hst, hw, hh, c, hc, hle⟩ := hd
  have hq : y.haltq = [] := (ht.quiet _ (mem_of_mget? _ _ _ hy) hgid).1
  have hnone : takeHalts t k n = t := by
    rw [takeHalts, hy]
    simp only [hq, List.foldl_nil]
  have hgang : gangOf t y = some g := by
    rw [gangOf, hgid, ht.rest]
    exact hg
  have hcycle : t.cycle = s.cycle := by rw [ht.rest]
  have hpassed : deadlinePassed t y = true := by
    rw [deadlinePassed, hgang]
    simp [hst, hw, hh, hgid, gangHalted_quiet t gid ht.quiet, hc, hcycle, hle]
  rw [haltThenStop, hnone, stopIfDue, hy]
  simp only [hpassed, if_true]
  rfl

theorem modFrag_due (s t : State) (gid : Nat) (k n : Nat) (y : Flight) (ht : AtDeadline s gid t) (hy : flight? t k = some y)
    (hgid : y.gid = gid) : AtDeadline s gid (modFrag t k n (dueFrag y)) := by
  refine ⟨?_, fun x hx => ?_, fun j z hj hz => ?_⟩
  · have : (modFrag t k n (dueFrag y)) = { t with flights := (modFrag t k n (dueFrag y)).flights } := rfl
    rw [this]
    generalize (modFrag t k n (dueFrag y)).flights = fs
    rw [ht.rest]
  · simp only [modFrag, modFlight_flights, mmod, show mget? t.flights k = some y from hy] at hx
    rcases mem_of_mem_mset _ _ _ _ hx with rfl | hx
    · intro _
      obtain ⟨hq, hfrags⟩ := ht.quiet _ (mem_of_mget? _ _ _ hy) hgid
      refine ⟨hq, fun h hh => ?_⟩
      obtain ⟨h0, hmem, rfl⟩ := List.mem_map.1 hh
      split
      · exact (dueFrag_halted _ _).trans (hfrags h0 hmem)
      · exact hfrags h0 hmem
    · exact ht.quiet x hx
  · obtain ⟨y', hy', hgid'⟩ := ht.kept j z hj hz
    by_cases h : j = k
    · subst h
      refine ⟨_, by rw [modFrag, flight?_modFlight, if_pos rfl, hy]; rfl, ?_⟩
      exact hgid
    · exact ⟨y', by rw [modFrag, flight?_modFlight, if_neg h]; exact hy', hgid'⟩

/-- The stops of one flight's fragments leave the other flights. -/
theorem stopFlight_due (s t : State) (gid : Nat) (g : Gang) (k : Nat) (hs : List Fragment) (hd : DeadlinePassed s gid g)
    (ht : AtDeadline s gid t) (hk : ∃ y, flight? t k = some y ∧ y.gid = gid) :
    let u := hs.foldl (fun s h => haltThenStop s k h.num) t
    AtDeadline s gid u ∧ (∀ j, j ≠ k → flight? u j = flight? t j) ∧ ∃ y, flight? u k = some y ∧ y.gid = gid := by
  induction hs generalizing t with
  | nil => exact ⟨ht, fun _ _ => rfl, hk⟩
  | cons h r ih =>
    obtain ⟨y, hy, hgid⟩ := hk
    have hstep := haltThenStop_due s t gid g k h.num y hd ht hy hgid
    simp only [List.foldl_cons, hstep]
    have hself : flight? (modFrag t k h.num (dueFrag y)) k =
        some { y with frags := y.frags.map fun g => if g.num == h.num then dueFrag y g else g } := by
      rw [modFrag, flight?_modFlight, if_pos rfl, hy, Option.map_some]
    obtain ⟨h1, h2, h3⟩ := ih _ (modFrag_due s t gid k h.num y ht hy hgid) ⟨_, hself, hgid⟩
    exact ⟨h1, fun j hj => (h2 j hj).trans (by rw [modFrag, flight?_modFlight, if_neg hj]), h3⟩

/-- The stops of a gang at its deadline; a flight of one fragment has that one stopped where it may. -/
theorem stopGang_due (s : State) (gid : Nat) (g : Gang) (fid : Nat) (f : Flight) (h : Fragment) (hd : DeadlinePassed s gid g)
    (hgid : f.gid = gid) (hfrags : f.frags = [h]) (l : List (Nat × Flight)) (hl : ∀ x ∈ l, flight? s x.1 = some x.2 ∧ x.2.gid = gid)
    (hn : (l.map (·.1)).Nodup) (t : State) (ht : AtDeadline s gid t) (hone : ∀ x ∈ l, x.1 = fid → x.2 = f)
    (hf : flight? t fid = some (if fid ∈ l.map (·.1) then f else { f with frags := [dueFrag f h] })) :
    let u := l.foldl (fun s x => x.2.frags.foldl (fun s h => haltThenStop s x.1 h.num) s) t
    AtDeadline s gid u ∧ flight? u fid = some { f with frags := [dueFrag f h] } := by
  induction l generalizing t with
  | nil => exact ⟨ht, by simpa using hf⟩
  | cons x r ih =>
    obtain ⟨hx, hxgid⟩ := hl x List.mem_cons_self
    obtain ⟨h1, h2, -⟩ := stopFlight_due s t gid g x.1 x.2.frags hd ht (ht.kept _ _ hx hxgid)
    rw [List.map_cons, List.nodup_cons] at hn
    obtain ⟨hnot, hn⟩ := hn
    refine ih (fun y hy => hl y (List.mem_cons_of_mem x hy)) hn _ h1 (fun y hy => hone y (List.mem_cons_of_mem x hy)) ?_
    by_cases hfid : x.1 = fid
    · have hxf : x.2 = f := hone x List.mem_cons_self hfid
      rw [List.map_cons, hfid, if_pos List.mem_cons_self] at hf
      rw [hfid] at hnot
      rw [if_neg hnot]
      simp only [hxf, hfrags, hfid, List.foldl_cons, List.foldl_nil, haltThenStop_due s t gid g fid h.num f hd ht hf hgid]
      rw [modFrag, flight?_modFlight, if_pos rfl, hf, Option.map_some]
      simp only [hfrags, List.map_cons, List.map_nil, beq_self_eq_true, if_true]
    · refine (h2 fid (Ne.symm hfid)).trans (hf.trans ?_)
      simp only [List.map_cons, List.mem_cons, Ne.symm hfid, false_or]

/-- A flight list without repeated numbers finds what it lists. -/
theorem mget?_of_mem {β : Type} (m : Cells β) (hn : (m.map (·.1)).Nodup) (x : Nat × β) (hx : x ∈ m) : mget? m x.1 = some x.2 := by
  induction m with
  | nil => simp at hx
  | cons y r ih =>
    rw [List.map_cons, List.nodup_cons] at hn
    obtain ⟨hy, hn⟩ := hn
    rw [mget?]
    rcases List.mem_cons.1 hx with rfl | hx
    · rw [if_pos rfl]
    · rw [if_neg fun h => hy (List.mem_map.2 ⟨x, hx, h.symm⟩)]
      exact ih hn hx

/-- PREEMPTMAX begins for a masked flight for which it does not run yet. -/
theorem mget?_pmaxAt (l : List (Nat × Flight)) (v fid : Nat) (m : Cells Nat)
    (h : ((∃ x ∈ l, x.1 = fid) ∧ mget? m fid = none) ∨ mget? m fid = some v) :
    mget? (l.foldl (fun m x => if (mget? m x.1).isSome then m else mset m x.1 v) m) fid = some v := by
  induction l generalizing m with
  | nil =>
    rcases h with ⟨⟨x, hx, -⟩, -⟩ | h
    · simp at hx
    · exact h
  | cons x r ih =>
    refine ih _ ?_
    by_cases hx : x.1 = fid
    · refine .inr ?_
      rcases h with ⟨-, h⟩ | h
      · simp only [hx, h, Option.isSome_none, Bool.false_eq_true, if_false, mget?_mset_same]
      · simp only [hx, h, Option.isSome_some, if_true]
    · have hkeep : mget? (if (mget? m x.1).isSome then m else mset m x.1 v) fid = mget? m fid := by
        split
        · rfl
        · exact mget?_mset_ne _ _ (Ne.symm hx)
      refine h.imp ?_ fun h => hkeep.trans h
      rintro ⟨⟨y, hy, rfl⟩, h⟩
      rcases List.mem_cons.1 hy with rfl | hy
      · exact absurd rfl hx
      · exact ⟨⟨y, hy, rfl⟩, hkeep.trans h⟩

/-- A gang whose deadline has passed stops its fragments, or gives a masked flight PREEMPTMAX. -/
theorem preemptDeadline_stops (s : State) (gid fid : Nat) (g : Gang) (f : Flight) (h : Fragment) (p : Part)
    (hd : DeadlinePassed s gid g) (hhalted : gangHalted s gid = false) (hfrozen : frozen s g.pid = false) (hf : flight? s fid = some f)
    (hgid : f.gid = gid) (hfrags : f.frags = [h]) (hn : (s.flights.map (·.1)).Nodup)
    (hq : ∀ x ∈ s.flights, x.2.gid = gid → x.2.haltq = []) (hp : part? s g.pid = some p) :
    ∃ t g', exec (.preemptDeadline gid) s = .next t ∧ flight? t fid = some { f with frags := [dueFrag f h] } ∧
      mget? t.gangs gid = some g' ∧ g' = { g with pmaxAt := g'.pmaxAt } ∧ t = { s with flights := t.flights, gangs := t.gangs } ∧
      (h.stopped = false → stopOpen f h.level = false → mget? g.pmaxAt fid = none →
        mget? g'.pmaxAt fid = some (s.cycle + p.desc.pmax)) := by
  let s1 := (gangFlights s gid).foldl (fun s x => x.2.frags.foldl (fun s h => haltThenStop s x.1 h.num) s) s
  have hstart : AtDeadline s gid s := by
    refine ⟨rfl, fun x hx hxg => ⟨hq x hx hxg, fun h hh => ?_⟩, fun k y hk hy => ⟨y, hk, hy⟩⟩
    have := List.any_eq_false.1 hhalted x (List.mem_filter.2 ⟨hx, by simpa using hxg⟩)
    simpa using (List.any_eq_false.1 (by simpa using this)) h hh
  have hmem : (fid, f) ∈ gangFlights s gid := List.mem_filter.2 ⟨mem_of_mget? _ _ _ hf, by simpa using hgid⟩
  have hl : ∀ x ∈ gangFlights s gid, flight? s x.1 = some x.2 ∧ x.2.gid = gid := fun x hx =>
    ⟨mget?_of_mem _ hn x (List.mem_filter.1 hx).1, by simpa using (List.mem_filter.1 hx).2⟩
  obtain ⟨h1, h2⟩ : AtDeadline s gid s1 ∧ flight? s1 fid = some { f with frags := [dueFrag f h] } := by
    refine stopGang_due s gid g fid f h hd hgid hfrags _ hl (hn.sublist (List.filter_sublist.map _)) s hstart (fun x hx hxf => ?_) ?_
    · have := (hl x hx).1
      rw [hxf, hf] at this
      exact (Option.some.inj this).symm
    · rw [if_pos (List.mem_map.2 ⟨_, hmem, rfl⟩), hf]
  obtain ⟨hg, hst, hw, hh, c, hc, hle⟩ := hd
  let masked := (gangFlights s1 gid).filter fun x => maskedFlight x.2
  let pmaxAt := masked.foldl (fun m x => if (mget? m x.1).isSome then m else mset m x.1 (s.cycle + p.desc.pmax)) g.pmaxAt
  have hgangs : s1.gangs = s.gangs := by rw [h1.rest]
  have hguard : (g.state != .stopping || g.why != 1 || g.held || gangHalted s gid || frozen s g.pid ||
      !g.deadline.any (· ≤ s.cycle)) = false := by
    simp [hst, hw, hh, hhalted, hfrozen, hc, hle]
  let t := modGang s1 gid fun g =>
    { g with pmaxAt := masked.foldl (fun m x => if (mget? m x.1).isSome then m else mset m x.1 (s.cycle + p.desc.pmax)) g.pmaxAt }
  refine ⟨t, { g with pmaxAt := pmaxAt }, ?_, h2, ?_, rfl, ?_, fun hs hopen hnone => ?_⟩
  · show execPreemptDeadline gid s = _
    rw [execPreemptDeadline, hg]
    simp only [hguard, Bool.false_eq_true, if_false, hp, Option.elim_some]
    rw [show gangHalted ((gangFlights s gid).foldl (fun s x => x.2.frags.foldl (fun s h => haltThenStop s x.1 h.num) s) s) gid = false
      from gangHalted_quiet s1 gid h1.quiet, if_neg Bool.false_ne_true]
  · show mget? (mmod s1.gangs gid _) gid = _
    rw [mget?_mmod, if_pos rfl, hgangs, hg]
    rfl
  · have : t = { s1 with gangs := t.gangs } := rfl
    rw [this]
    generalize t.gangs = gs
    rw [h1.rest]
  · refine mget?_pmaxAt masked _ fid g.pmaxAt (.inl ⟨⟨_, List.mem_filter.2 ⟨List.mem_filter.2 ⟨mem_of_mget? _ _ _ h2, ?_⟩, ?_⟩, rfl⟩, hnone⟩)
    · simpa using hgid
    · refine maskedFlight_of _ h ?_ hs ?_
      · simp [dueFrag, hopen]
      · exact hopen

/-! ### The stops of contraction and of a die's entries -/

/-- A collector sees alike two machines in which each unit that has not acknowledged holds work of the gang alike. -/
theorem collected_congr (s t : State) (gid : Nat) (g : Gang) (h : ∀ u, u ∉ g.acks → holdsWork t gid u = holdsWork s gid u) :
    collected t gid g = collected s gid g := by
  rw [collected, collected, Bool.eq_iff_iff, List.all_eq_true, List.all_eq_true]
  refine forall₂_congr fun u _ => ?_
  by_cases hu : u ∈ g.acks
  · simp [hu]
  · rw [h u hu]

/-- Where the gang keeps its launch, the engine classes but contraction and ordered entries hold work alike. -/
theorem holdsWork_congr (s t : State) (gid : Nat) (u : StopUnit) (hf : t.flights = s.flights) (he : t.engines = s.engines)
    (hc : t.comms = s.comms) (hu : u ∈ [StopUnit.vector, .copy, .bridle, .fresnel]) : holdsWork t gid u = holdsWork s gid u := by
  simp only [List.mem_cons, List.not_mem_nil, or_false] at hu
  rcases hu with rfl | rfl | rfl | rfl <;> simp only [holdsWork, gangFlights, gangCopies, hf, he, hc]

/-- The entries that a die holds for a gang. -/
theorem holdsWork_ordered (s : State) (gid die : Nat) (g : Gang) (hg : mget? s.gangs gid = some g) :
    holdsWork s gid (.ordered die) = (mget? s.launches (lkey g.pid g.launch)).elim false fun l => l.contribs.any (onDie s g.pid die) := by
  rw [holdsWork, hg, Option.elim_some]

/-- A tile after contraction has stopped for a gang. -/
def stoppedTile (g : Gang) (tl : Tile) : Tile := { tl with insts := tl.insts.map (rollBack g (tl.owner.elim 0 (·.2))) }

theorem rollBack_eq (g : Gang) (owner : Nat) (i : Inst) :
    rollBack g owner i =
      if i.scope = 2 ∧ i.closed.isSome ∧ i.ty.isDxb = false ∧ i.progress % (3 * g.nflight) ≠ 0 ∧ i.progress / (3 * g.nflight) ≠ owner then
        { i with progress := i.progress / (3 * g.nflight) * (3 * g.nflight), frun := [], krun := [] }
      else i := by
  by_cases h : i.scope = 2
  · have hn : instNF g i = g.nflight := by simp [instNF, h]
    simp only [rollBack, hn, h, beq_self_eq_true, Bool.true_and, true_and, Bool.and_eq_true, Bool.not_eq_true', bne_iff_ne, and_assoc]
  · have h' : (i.scope == 2) = false := by simpa using h
    simp [rollBack, h, h']

/-- Work that has been given up is not given up again. -/
theorem rollBack_again (g : Gang) (owner : Nat) (i : Inst) : rollBack g owner (rollBack g owner i) = rollBack g owner i := by
  rw [rollBack_eq g owner i]
  split
  · rw [rollBack_eq, if_neg]
    rintro ⟨-, -, -, h, -⟩
    exact h (Nat.mul_mod_left _ _)
  · rename_i h
    rw [rollBack_eq, if_neg h]

theorem stoppedTile_again (g : Gang) (tl : Tile) : stoppedTile g (stoppedTile g tl) = stoppedTile g tl := by
  simp only [stoppedTile, List.map_map]
  congr 1
  exact List.map_congr_left fun i _ => rollBack_again g _ i

/-- The stop of some tiles changes tiles alone. -/
theorem foldl_modTile (l : List (Nat × Tile)) (k : Tile → Tile) (s : State) :
    l.foldl (fun s t => modTile s t.1 k) s =
      { s with tiles := l.foldl (fun m t => mset m t.1 (k (mgetD m t.1 Tile.reset))) s.tiles } := by
  induction l generalizing s with
  | nil => rfl
  | cons x r ih =>
    rw [List.foldl_cons, ih]
    rfl

theorem mget?_foldl_tiles_ne (l : List (Nat × Tile)) (k : Tile → Tile) (m : Cells Tile) (n : Nat) (h : ∀ x ∈ l, x.1 ≠ n) :
    mget? (l.foldl (fun m t => mset m t.1 (k (mgetD m t.1 Tile.reset))) m) n = mget? m n := by
  induction l generalizing m with
  | nil => rfl
  | cons x r ih =>
    rw [List.foldl_cons, ih _ fun y hy => h y (List.mem_cons_of_mem x hy)]
    exact mget?_mset_ne _ _ (Ne.symm (h x List.mem_cons_self))

/-- A change that is the same when made again, of some tiles, is made once of each. -/
theorem mget?_foldl_tiles (l : List (Nat × Tile)) (k : Tile → Tile) (hk : ∀ x, k (k x) = k x) (m : Cells Tile) (n : Nat) (x : Tile)
    (h : ((∃ y ∈ l, y.1 = n) ∧ mget? m n = some x) ∨ mget? m n = some (k x)) :
    mget? (l.foldl (fun m t => mset m t.1 (k (mgetD m t.1 Tile.reset))) m) n = some (k x) := by
  induction l generalizing m with
  | nil =>
    rcases h with ⟨⟨y, hy, -⟩, -⟩ | h
    · simp at hy
    · exact h
  | cons y r ih =>
    refine ih _ ?_
    by_cases hy : y.1 = n
    · subst hy
      rw [mget?_mset_same, mgetD]
      rcases h with ⟨-, h⟩ | h <;> simp [h, hk]
    · rw [mget?_mset_ne _ _ (Ne.symm hy)]
      refine h.imp_left ?_
      rintro ⟨⟨z, hz, rfl⟩, h⟩
      rcases List.mem_cons.1 hz with rfl | hz
      · exact absurd rfl hy
      · exact ⟨⟨z, hz, rfl⟩, h⟩

/-- A map that lists one value at a key finds it. -/
theorem mget?_of_mem_one {β : Type} (m : Cells β) (k : Nat) (x : β) (hx : (k, x) ∈ m) (hone : ∀ y z, (k, y) ∈ m → (k, z) ∈ m → y = z) :
    mget? m k = some x := by
  induction m with
  | nil => simp at hx
  | cons y r ih =>
    obtain ⟨j, v⟩ := y
    rw [mget?]
    by_cases hj : j = k
    · subst hj
      rw [if_pos rfl, hone v x List.mem_cons_self hx]
    · rw [if_neg hj]
      refine ih ?_ fun y z hy hz => hone y z (List.mem_cons_of_mem _ hy) (List.mem_cons_of_mem _ hz)
      rcases List.mem_cons.1 hx with h | h
      · exact absurd (Prod.mk.inj h).1.symm hj
      · exact h

/-- Contraction stops for a gang whose vector issue has. -/
theorem contraction_stops (s : State) (gid : Nat) (g : Gang) (hg : mget? s.gangs gid = some g) (hst : g.state = .stopping)
    (hh : g.held = false) (hfrozen : frozen s g.pid = false) (hvec : .vector ∈ g.acks) (hack : .contraction ∉ g.acks)
    (hwait : collected s gid { g with acks := .contraction :: g.acks } = false) :
    ∃ t, exec (.engineStopAck gid .contraction) s = .next t ∧
      t = { s with gangs := mset s.gangs gid { g with acks := .contraction :: g.acks }, tiles := t.tiles } ∧
      (∀ k, (∀ x, (k, x) ∉ gangTiles s gid) → mget? t.tiles k = mget? s.tiles k) ∧
      ∀ k x, (k, x) ∈ gangTiles s gid → (∀ y z, (k, y) ∈ s.tiles → (k, z) ∈ s.tiles → y = z) →
        mget? t.tiles k = some (stoppedTile g x) := by
  obtain ⟨tiles, htiles⟩ : ∃ m, m = (gangTiles s gid).foldl (fun m t => mset m t.1 (stoppedTile g (mgetD m t.1 Tile.reset))) s.tiles :=
    ⟨_, rfl⟩
  have hunit : stopUnit s gid g .contraction = some { s with tiles := tiles } := by
    rw [htiles]
    exact congrArg some (foldl_modTile _ (stoppedTile g) s)
  let g1 : Gang := { g with acks := .contraction :: g.acks }
  let t : State := { s with gangs := mset s.gangs gid g1, tiles := tiles }
  have hsame : collected t gid g1 = collected s gid g1 := by
    refine collected_congr s t gid g1 fun u hu => ?_
    have hcont : u ≠ .contraction := fun h => hu (h ▸ List.mem_cons_self)
    cases u with
    | contraction => exact absurd rfl hcont
    | ordered die => rw [holdsWork_ordered t gid die g1 (mget?_mset_same _ _ _), holdsWork_ordered s gid die g hg]; rfl
    | vector => exact holdsWork_congr s t gid _ rfl rfl rfl (by decide)
    | copy => exact holdsWork_congr s t gid _ rfl rfl rfl (by decide)
    | bridle => exact holdsWork_congr s t gid _ rfl rfl rfl (by decide)
    | fresnel => exact holdsWork_congr s t gid _ rfl rfl rfl (by decide)
  refine ⟨t, ?_, rfl, fun k hk => ?_, fun k x hx hone => ?_⟩
  · rw [engineStopAck_asked s gid g _ hg hst hh hack hfrozen (by simpa [unitStopped] using hvec), hunit]
    simp only [Option.elim_some, ackGangs, List.foldl_cons, List.foldl_nil]
    rw [modGang_ack { s with tiles := tiles } gid g _ hg hack]
    exact congrArg _ (collect_waits t gid g1 (mget?_mset_same _ _ _) (hsame.trans hwait))
  · show mget? tiles k = _
    rw [htiles]
    exact mget?_foldl_tiles_ne _ _ _ _ fun x hx hxk => hk x.2 (hxk ▸ hx)
  · show mget? tiles k = _
    rw [htiles]
    exact mget?_foldl_tiles _ _ (stoppedTile_again g) _ k x
      (.inl ⟨⟨_, hx, rfl⟩, mget?_of_mem_one _ k x (List.mem_filter.1 hx).1 hone⟩)

/-- The contributions of a launch with a die's entries spilled. -/
def spilled (s : State) (pid die : Nat) (cs : List Contrib) : List Contrib :=
  cs.map fun x => if onDie s pid die x then { x with chip := false } else x

/-- A die holds of the spilled contributions what it held, and none where it is the one that spills. -/
theorem any_onDie_spilled (s : State) (pid die d : Nat) (hd : d ≠ die) (cs : List Contrib) :
    (spilled s pid die cs).any (onDie s pid d) = cs.any (onDie s pid d) := by
  rw [spilled, List.any_map]
  congr 1
  funext x
  show onDie s pid d (if onDie s pid die x = true then { x with chip := false } else x) = _
  split
  next h =>
    have hother : onDie s pid d x = false := by
      simp only [onDie, Bool.and_eq_true, beq_iff_eq] at h
      simp [onDie, h.2, Ne.symm hd]
    rw [hother]
    rfl
  next => rfl

/-- A die's entries of a launch of one gang stop: they are spilled, or the job is saved frozen. -/
theorem ordered_stops (s : State) (gid die : Nat) (g : Gang) (l : Launch) (hg : mget? s.gangs gid = some g) (hst : g.state = .stopping)
    (hh : g.held = false) (hw : g.why ≠ 3) (hfrozen : frozen s g.pid = false) (hvec : .vector ∈ g.acks) (hack : .ordered die ∉ g.acks)
    (hone : launchGangs s g.pid g.launch = [(gid, g)]) (hl : mget? s.launches (lkey g.pid g.launch) = some l) (hpid : l.pid = g.pid)
    (hwait : collected s gid { g with acks := .ordered die :: g.acks } = false) :
    exec (.engineStopAck gid (.ordered die)) s =
      .next (if ((spilled s g.pid die l.contribs).filter fun x => !x.chip).length ≤ (l.desc.elim 0 (·.spill)) / 32 then
        { s with
          gangs := mset s.gangs gid { g with acks := .ordered die :: g.acks }
          launches := mset s.launches (lkey g.pid g.launch) { l with contribs := spilled s g.pid die l.contribs } }
      else frozenSave s g.pid) := by
  have hnone : noneEnters s g = true := by
    rw [noneEnters, if_neg (by simpa using hw), hone]
    simp [hvec]
  have hgangs : ackGangs s gid g (.ordered die) = [gid] := by
    rw [ackGangs, hone]
    simp
  rw [engineStopAck_asked s gid g _ hg hst hh hack hfrozen hnone, hgangs]
  have hspill : spillDie s die l = if ((spilled s g.pid die l.contribs).filter fun x => !x.chip).length ≤ (l.desc.elim 0 (·.spill)) / 32 then
      some { l with contribs := spilled s g.pid die l.contribs } else none := by
    rw [spillDie, hpid]
    rfl
  have hunit : stopUnit s gid g (.ordered die) = (spillDie s die l).map fun l =>
      { s with launches := mset s.launches (lkey g.pid g.launch) l } := by
    simp only [stopUnit, hl, Option.bind_some]
  rw [hunit, hspill]
  split
  · let g1 : Gang := { g with acks := .ordered die :: g.acks }
    let l1 : Launch := { l with contribs := spilled s g.pid die l.contribs }
    let t : State := { s with gangs := mset s.gangs gid g1, launches := mset s.launches (lkey g.pid g.launch) l1 }
    have hsame : collected t gid g1 = collected s gid g1 := by
      refine collected_congr s t gid g1 fun u hu => ?_
      cases u with
      | contraction => rfl
      | ordered d =>
        have hd : d ≠ die := fun h => hu (h ▸ List.mem_cons_self)
        rw [holdsWork_ordered t gid d g1 (mget?_mset_same _ _ _), holdsWork_ordered s gid d g hg, hl]
        rw [show mget? t.launches (lkey g1.pid g1.launch) = some l1 from mget?_mset_same _ _ _]
        exact any_onDie_spilled s g.pid die d hd l.contribs
      | vector => exact holdsWork_congr s t gid _ rfl rfl rfl (by decide)
      | copy => exact holdsWork_congr s t gid _ rfl rfl rfl (by decide)
      | bridle => exact holdsWork_congr s t gid _ rfl rfl rfl (by decide)
      | fresnel => exact holdsWork_congr s t gid _ rfl rfl rfl (by decide)
    simp only [Option.map_some, Option.elim_some, List.foldl_cons, List.foldl_nil]
    rw [modGang_ack { s with launches := mset s.launches (lkey g.pid g.launch) l1 } gid g _ hg hack]
    exact congrArg _ (collect_waits t gid g1 (mget?_mset_same _ _ _) (hsame.trans hwait))
  · rfl

/-! ### Restoration -/

/-- A flight after the restoration of a gang, with the positions of the gang's flights. -/
def restoredFlight (ps : Cells Nat) (now gid k : Nat) (f : Flight) : Flight :=
  if f.gid == gid then { f with lpr := [], slpr := none, pos := mgetD ps k 0, frags := f.frags.map (restoreFrag now) } else f

/-- A restored gang none of whose collectives has begun goes on. -/
theorem gangRestore_restores (s : State) (gid fid : Nat) (g : Gang) (f : Flight) (hg : mget? s.gangs gid = some g)
    (hst : g.state = .saved) (hw2 : g.why ≠ 2) (hw4 : g.why ≠ 4) (hfrozen : frozen s g.pid = false)
    (hone : launchGangs s g.pid g.launch = [(gid, g)]) (hroom : restorable s gid g = true)
    (hcolls : ∀ x ∈ s.comms, ∀ o ∈ x.2.colls, o.gid = gid → o.begun = false) (howed : NothingOwed s) (hf : flight? s fid = some f)
    (hgid : f.gid = gid) (hex : f.exited ≠ allLanes) :
    ∃ t f' g', exec (.gangRestore gid) s = .next t ∧ flight? t fid = some f' ∧ mget? t.gangs gid = some g' ∧
      g'.state = .running ∧ g'.acks = [] ∧ g'.savedT = [] ∧ MemorySame s t ∧
      f' = { f with lpr := [], slpr := none, pos := f'.pos, frags := f'.frags } ∧
      f'.frags.map (fun h => (h.num, h.owned, h.em, h.pc, h.level, h.stopped)) =
        f.frags.map (fun h => (h.num, h.owned, h.em, h.pc, h.level, false)) ∧
      ∀ k y, flight? s k = some y → y.gid ≠ gid → flight? t k = some y := by
  let ps := newPositions s (gangFlights s gid)
  let s1 : State := { s with
    tiles := g.savedT.foldl (fun m t => mset m t.1 t.2) s.tiles
    gangs := mset s.gangs gid { g with state := .running, why := 0, acks := [], started := s.cycle, savedT := [] }
    flights := mmap s.flights (restoredFlight ps s.cycle gid) }
  have hflight (k : Nat) (y : Flight) (hy : flight? s k = some y) : flight? s1 k = some (restoredFlight ps s.cycle gid k y) := by
    refine (mget?_mmap s.flights (restoredFlight ps s.cycle gid) k).trans ?_
    rw [show mget? s.flights k = some y from hy, Option.map_some]
  have hrestored := hflight fid f hf
  rw [restoredFlight, if_pos (by simpa using hgid)] at hrestored
  have hcoll : resumeColls s1 gid = s1 := by
    refine foldl_fixed _ _ _ fun x hx => ?_
    cases ho : x.2.colls with
    | nil => simp only
    | cons o r =>
      have hbegun : (o.gid == gid && o.begun) = false := by
        by_cases h : o.gid = gid
        · simp [hcolls x hx o (by rw [ho]; exact List.mem_cons_self) h]
        · simp [h]
      simp only [hbegun, Bool.false_eq_true, if_false]
  have hretire : startRetiring s1 gid = s1 := by
    rw [startRetiring, if_neg]
    intro h
    have := List.all_eq_true.1 h _ (List.mem_filter.2 ⟨mem_of_mget? _ _ _ hrestored, by simpa using hgid⟩)
    exact hex (by simpa [ended] using this)
  have hrestore : restoreGang s gid g = s1 := by
    show startRetiring (takeUp (resumeColls s1 gid) g.pid) gid = s1
    rw [hcoll, takeUp_nothingOwed s1 g.pid howed, hretire]
  have hguard : (g.why == 2 || g.why == 4 || frozen s g.pid || !([(gid, g)] : List (Nat × Gang)).all fun x => x.2.state == .saved) = false := by
    simp [hw2, hw4, hfrozen, hst]
  refine ⟨s1, _, _, ?_, hrestored, mget?_mset_same _ _ _, rfl, rfl, rfl, fun _ => rfl, rfl, ?_, fun k y hy hne => ?_⟩
  · show execGangRestore gid s = _
    rw [execGangRestore, hg]
    simp only [hone, hguard, Bool.false_eq_true, if_false, List.map_cons, List.map_nil, restoreAll, hg, hroom, if_true, hrestore]
  · simp only [List.map_map]
    exact List.map_congr_left fun h _ => rfl
  · rw [hflight k y hy, restoredFlight, if_neg (by simpa using hne)]

/-- A flight after the end of a period of its partition's timer. -/
def timedFlight (s : State) (pid : Nat) (f : Flight) : Flight :=
  if f.pid == pid && !ended f && !isSaved s f && f.tvec != 0 then { f with timer := true } else f

/-- The timer marks each resident flight of its partition that has a trap vector. -/
theorem timerPeriodEnd_marks (s : State) (pid k : Nat) (p : Part) (f : Flight) (hp : part? s pid = some p)
    (hon : p.tmrctl.getLsbD 0 = true) (hper : p.tmrctl.toNat / 2 ^ 16 % 2 ^ 24 ≠ 0) (hfrozen : frozen s pid = false)
    (hf : flight? s k = some f) :
    ∃ t, exec (.timerPeriodEnd pid) s = .next t ∧ t = { s with flights := t.flights } ∧
      flight? t k = some (if f.pid = pid ∧ f.exited ≠ allLanes ∧ isSaved s f = false ∧ f.tvec ≠ 0 then { f with timer := true }
        else f) := by
  have hguard : (!p.tmrctl.getLsbD 0 || bitsOf p.tmrctl.toNat 39 16 == 0 || frozen s pid) = false := by
    simpa [hon, hfrozen, bitsOf] using hper
  refine ⟨{ s with flights := mmap s.flights fun _ => timedFlight s pid }, ?_, rfl, ?_⟩
  · show execTimerPeriodEnd pid s = _
    rw [execTimerPeriodEnd, hp]
    simp only [hguard, Bool.false_eq_true, if_false]
    rfl
  · refine (mget?_mmap s.flights (fun _ => timedFlight s pid) k).trans ?_
    rw [show mget? s.flights k = some f from hf, Option.map_some]
    simp only [timedFlight, ended, Bool.and_eq_true, beq_iff_eq, Bool.not_eq_true', bne_iff_ne, beq_eq_false_iff_ne, and_assoc, ne_eq]

/-- Settles O49, each clause by the lemma of its event. -/
theorem preemption : Obligations.Preemption := by
  refine ⟨fun s fid n f g hf hg hw hh hst hr => ?_, fun s cr slot x f g h hx hf hg hr hs hz hh hn ht hw => ?_, fun s gid g l p hg hr hl hp hz => ?_,
    fun s gid fid g f h p hg hst hw hh hhalt hz hd hf hgid hfr hn hq hp hs hgone hperf => ?_,
    fun s fid f g p c h hf hg hst hw hm hc hp hz hh hs hmay hl => ?_, fun s gid g u hg hst hh hack hz hstop hu => ?_,
    fun s gid g hg hst hz hvec => ⟨?_, ?_, ?_⟩, ?_, ?_⟩
  · exact fragmentAged_ages s fid n f g hf hg (by simp [agedNow, hw, hh, hst, hr])
  · exact fragmentSwitch_turns s cr slot x f g h hx hf hg hr hs hz hh hn ht hw
  · obtain ⟨h1, h2⟩ := requestLaunch_asks s gid g hg hr
    have hasked : askedGang s gid g = { g with
        state := .stopping, why := 1, acks := [], held := gangHalted s gid, pmaxAt := [], ran := g.ran + (s.cycle - g.started)
        deadline := if gangHalted s gid then none else some (s.cycle + p.preemptdl.toNat % 65536 * 2400) } := by
      simp only [askedGang, deadlineCycles, hp, Option.elim_some]
    rw [hasked] at h2
    refine ⟨fun hc hs => ⟨_, ?_, h1, h2⟩, fun die d pid launch num rest v hd hlist hat hz' hv hvp hvi => ⟨_, ?_, h1, h2⟩⟩
    · show execPreemptRequest g.pid g.launch s = _
      rw [execPreemptRequest, hl]
      simp [hc, hz, Nat.not_le_of_lt hs]
    · show execPreemptWaitTimeout die s = _
      rw [execPreemptWaitTimeout, hd]
      have hguard : (decide (s.cycle < d.headAt + 480000) || frozen s pid) = false := by simp [hz', hat]
      simp only [hlist, hguard, Bool.false_eq_true, if_false, hv, hvp, hvi]
  · obtain ⟨t, g', he, h1, h2, h3, h4, h5⟩ := preemptDeadline_stops s gid fid g f h p ⟨hg, hst, hw, hh, hd⟩ hhalt hz hf hgid hfr hn hq hp
    refine ⟨t, _, g', he, h1, h2, h3, h4, fun hmay => ?_, fun hmay hl => ?_⟩
    · have hopen : stopOpen f h.level = true := by
        rcases hmay with h0 | ⟨h1, ht⟩ | ⟨h2, ht⟩ <;> simp [stopOpen, bank, *]
      have hstops : (h.stopped || h.wait == .gone || performing h) = false := by
        have hp : performing h = false := by
          unfold performing
          split
          next op hop => exact absurd hop (hperf op)
          next => rfl
        simp [hs, hgone, hp]
      constructor <;> intro hsaved <;> simp [dueFrag, hopen, stopFrag, hstops, hsaved]
    · have hopen : stopOpen f h.level = false := by simpa using mt (stopOpen_iff f h hl).1 hmay
      exact ⟨by simp [dueFrag, hopen], h5 hs hopen⟩
  · obtain ⟨p', h1, h2, h3, h4, h5⟩ := frozenSave_leaves s f.pid p hp
    refine ⟨_, p', ?_, h1, h2, h3, h4, h5⟩
    have hmasked : maskedFlight f = true := maskedFlight_of f h hh hs (by simpa using mt (stopOpen_iff f h hl).1 hmay)
    show execPreemptmaxExpiry fid s = _
    rw [execPreemptmaxExpiry, hf]
    simp [hg, hst, hw, hm, hc, hz, hmasked]
  · obtain ⟨hunit, hgangs⟩ := stopUnit_still s gid g u hu
    intro g1 s1
    have hrun : exec (.engineStopAck gid u) s = .next (collect s1 gid) := by
      rw [engineStopAck_asked s gid g u hg hst hh hack hz hstop, hunit, hgangs]
      simp only [Option.elim_some, List.foldl_cons, List.foldl_nil, modGang_ack s gid g u hg hack]
      rfl
    have hg1 : mget? s1.gangs gid = some g1 := mget?_mset_same _ _ _
    refine ⟨fun hc => ?_, fun hc hw => ?_⟩
    · rw [hrun, collect_waits s1 gid g1 hg1 hc]
    · rw [collect_saves s1 gid g1 hg1 hst hh hw hc] at hrun
      obtain ⟨h1, h2, h3⟩ := saveGang_leaves s1 gid g1 hg1
      exact ⟨_, hrun, h1, h2, h3⟩
  · intro hh hes u
    show execEngineStopAck gid u s = _
    rw [execEngineStopAck, hg]
    simp [hh, hes]
  · intro hh hack hwait
    obtain ⟨t, he, h1, h2, h3⟩ := contraction_stops s gid g hg hst hh hz hvec hack hwait
    refine ⟨t, he, h1, h2, fun k x hx hone => ?_⟩
    refine (h3 k x hx hone).trans ?_
    rw [stoppedTile, show rollBack g (x.owner.elim 0 (·.2)) = fun i => _ from funext fun i => rollBack_eq g _ i]
  · intro die l _ hh hw hack hone hl hwait cs hpid
    rw [ordered_stops s gid die g l hg hst hh hw hz hvec hack hone hl hpid hwait]
    by_cases hfits : ((spilled s g.pid die l.contribs).filter fun x => !x.chip).length ≤ (l.desc.elim 0 (·.spill)) / 32
    · rw [if_pos hfits]
      exact (if_pos hfits).mpr rfl
    · rw [if_neg hfits]
      exact (if_neg hfits).mpr rfl
  · exact fun s gid fid g f hg hst hw2 hw4 hz hone hroom hcolls howed hf hgid hex =>
      gangRestore_restores s gid fid g f hg hst hw2 hw4 hz hone hroom hcolls howed hf hgid hex
  · exact fun s pid k p f hp hon hper hz hf => timerPeriodEnd_marks s pid k p f hp hon hper hz hf

end Sys2Proof.Machine
end

section
/-!
SUPPORT. The front end and the dispatchers (15 R311-R325, 16 R348, R349): what the bookkeeping of launches leaves, acceptance, placement,
retirement and the end of a cancel.
-/
namespace Sys2Proof.Machine

/-! ### What bookkeeping leaves -/

/-- A launch is as before but for the contributions that it holds. -/
def SameLaunch (l l' : Launch) : Prop := l' = { l with contribs := l'.contribs }

theorem SameLaunch.trans {l m n : Launch} (h : SameLaunch l m) (h' : SameLaunch m n) : SameLaunch l n := by
  rw [SameLaunch, h', h]

/-- The machine has written, sent and counted, but no flight, gang or list of launches has changed, no launch but for its contributions, and
of no partition what waits for acceptance. -/
structure Tells (s t : State) : Prop where
  flights  : t.flights = s.flights
  gangs    : t.gangs = s.gangs
  global   : t.global = s.global
  launches : ∀ k l, mget? s.launches k = some l → ∃ l', mget? t.launches k = some l' ∧ SameLaunch l l'
  parts    : ∀ pid p, part? s pid = some p → ∃ p', part? t pid = some p' ∧ p'.offers = p.offers ∧ p'.nextId = p.nextId

theorem tells_of (s t : State) (hf : t.flights = s.flights) (hg : t.gangs = s.gangs) (hq : t.global = s.global)
    (hl : t.launches = s.launches) (hp : t.parts = s.parts) : Tells s t :=
  ⟨hf, hg, hq, fun k l h => ⟨l, by rw [hl]; exact h, rfl⟩, fun pid p h => ⟨p, by rw [part?, hp]; exact h, rfl, rfl⟩⟩

theorem tells_work (s : State) (ws : List Work) : Tells s { s with work := ws } := tells_of _ _ rfl rfl rfl rfl rfl

theorem tells_free (s : State) (n : Nat) : Tells s { s with free := n } := tells_of _ _ rfl rfl rfl rfl rfl

theorem tells_graphs (s : State) (gs : Cells Graph) : Tells s { s with graphs := gs } := tells_of _ _ rfl rfl rfl rfl rfl

theorem tells_phases (s : State) (ps : Cells Phase) : Tells s { s with phases := ps } := tells_of _ _ rfl rfl rfl rfl rfl

theorem tells_refl (s : State) : Tells s s := tells_of s s rfl rfl rfl rfl rfl

theorem Tells.trans {s t u : State} (h : Tells s t) (h' : Tells t u) : Tells s u := by
  refine ⟨h'.flights.trans h.flights, h'.gangs.trans h.gangs, h'.global.trans h.global, fun k l hl => ?_, fun pid p hp => ?_⟩
  · obtain ⟨l1, h1, h2⟩ := h.launches k l hl
    obtain ⟨l2, h3, h4⟩ := h'.launches k l1 h1
    exact ⟨l2, h3, h2.trans h4⟩
  · obtain ⟨p1, h1, h2, h3⟩ := h.parts pid p hp
    obtain ⟨p2, h4, h5, h6⟩ := h'.parts pid p1 h1
    exact ⟨p2, h4, h5.trans h2, h6.trans h3⟩

theorem tells_foldl {α : Type} (k : State → α → State) (hk : ∀ s x, Tells s (k s x)) (xs : List α) (s : State) :
    Tells s (xs.foldl k s) := by
  induction xs generalizing s with
  | nil => exact tells_refl s
  | cons x r ih => exact (hk s x).trans (ih _)

theorem tells_send (s : State) (m : Msg) : Tells s (send s m) := tells_of _ _ rfl rfl rfl rfl rfl

theorem tells_writeBytes (s : State) (a : Nat) (bs : List Byte) : Tells s (writeBytes s a bs) :=
  tells_of _ _ (by simp) (by simp) (by simp) (by simp) (by simp)

theorem tells_forget (s : State) (a z : Nat) : Tells s (forget s a z) := tells_of _ _ rfl rfl rfl rfl rfl

theorem tells_devWrite (s : State) (pid a : Nat) (bs : List Byte) : Tells s (devWrite s pid a bs) := by
  unfold devWrite
  split
  · exact tells_writeBytes s a bs
  · exact tells_send s _

theorem tells_modPart (s : State) (pid : Nat) (k : Part → Part) (ho : ∀ p, (k p).offers = p.offers) (hn : ∀ p, (k p).nextId = p.nextId) :
    Tells s (modPart s pid k) := by
  refine ⟨rfl, rfl, rfl, fun _ l h => ⟨l, h, rfl⟩, fun n p hp => ?_⟩
  rw [part?_modPart]
  by_cases h : n = pid
  · subst h
    exact ⟨k p, by rw [if_pos rfl, hp]; rfl, ho p, hn p⟩
  · exact ⟨p, by rw [if_neg h, hp], rfl, rfl⟩

theorem tells_journal (s : State) (pid : Nat) (queue : Option Nat) (transition reason : Nat) (pidx : Word) (launch : Nat) (tag : Word) :
    Tells s (journal s pid queue transition reason pidx launch tag) := by
  unfold journal
  split
  · exact tells_refl s
  · split
    · exact tells_refl s
    · exact (tells_devWrite s _ _ _).trans (tells_modPart _ _ _ (fun _ => rfl) fun _ => rfl)

theorem tells_feTell (s : State) (pid : Nat) (a : Acc) (va : DWord) (n : Nat) : Tells s (feTell s pid a va n) := by
  unfold feTell
  split
  · exact tells_send s _
  · exact tells_refl s

theorem tells_feWrite (s : State) (pid : Nat) (va : DWord) (bs : List Byte) : Tells s (feWrite s pid va bs) := by
  unfold feWrite
  split
  · split
    · exact tells_refl s
    · exact tells_writeBytes s _ _
  · exact tells_feTell s _ _ _ _

theorem tells_loseHit (key len : Nat) (src : List Source) (s : State) (h : Nat × Nat) : Tells s (loseHit key len src s h) := by
  have hsrc := tells_foldl (fun s (y : Source) => match y.lost h key len with | some (a, z) => if a < z then forget s a z else s | none => s)
    (fun s y => by
      split
      · split
        · exact tells_forget s _ _
        · exact tells_refl s
      · exact tells_refl s) src s
  unfold loseHit
  dsimp only
  split
  · exact hsrc.trans (tells_forget _ _ _)
  · exact hsrc

theorem tells_noteWrite (s : State) (who : Option (Nat × Nat)) (a n : Nat) : Tells s (noteWrite s who a n) := by
  unfold noteWrite
  dsimp only
  refine (Tells.trans ?_ (tells_foldl _ (fun s (w : Work) => tells_foldl _ (fun s x => tells_loseHit _ _ _ s _) w.wrote s) _ _)).trans
    (tells_work _ _)
  exact tells_foldl _ (fun s o => by
    split
    · exact tells_forget s _ _
    · exact tells_refl s) _ s

theorem tells_writeNat (s : State) (a n x : Nat) : Tells s (writeNat s a n x) := tells_writeBytes s a _

/-- A change of a launch's contributions. -/
theorem tells_modLaunch (s : State) (key : Nat) (k : Launch → Launch) (hk : ∀ l, SameLaunch l (k l)) : Tells s (modLaunch s key k) := by
  refine ⟨rfl, rfl, rfl, fun n l hl => ?_, fun _ p hp => ⟨p, hp, rfl, rfl⟩⟩
  rw [modLaunch_launches, mget?_mmod]
  by_cases h : n = key
  · subst h
    exact ⟨k l, by rw [if_pos rfl, hl]; rfl, hk l⟩
  · exact ⟨l, by rw [if_neg h, hl], rfl⟩

theorem tells_sealWord (s : State) (key pa : Nat) : Tells s (sealWord s key pa) := by
  unfold sealWord
  split
  · exact tells_refl s
  · have h (x : Nat) : Tells s (modLaunch { noteWrite (writeNat s pa 4 x) none pa 4 with free := s.free + 1 } key fun l =>
        { l with contribs := l.contribs.filter fun x => x.pa != pa }) :=
      (((tells_writeNat s pa 4 x).trans (tells_noteWrite _ none pa 4)).trans (tells_free _ _)).trans (tells_modLaunch _ _ _ fun _ => rfl)
    exact h _

theorem tells_sealAll (s : State) (key : Nat) : Tells s (sealAll s key) := by
  unfold sealAll
  split
  · exact tells_foldl _ (fun s pa => tells_sealWord s key pa) _ s
  · exact tells_refl s

theorem tells_decrement (s : State) (who : Option (Nat × Nat)) (pa pid launch : Nat) (queue graph : Option Nat) (pc : DWord) (seq : Word) :
    Tells s (decrement s who pa pid launch queue graph pc seq).2 := by
  unfold decrement
  dsimp only
  have h1 : Tells s (if readNat s pa 4 == 0 then s else noteWrite (writeNat s pa 4 (readNat s pa 4 - 1)) who pa 4) := by
    split
    · exact tells_refl s
    · exact (tells_writeNat s _ _ _).trans (tells_noteWrite _ _ _ _)
  split
  · exact h1.trans (tells_send _ _)
  · exact h1

theorem tells_nextStep (s : State) (l : Launch) : Tells s (nextStep s l) := by
  unfold nextStep
  split
  · exact tells_refl s
  · split
    next k _ =>
      generalize (if readNat s k 4 == 1 then 128 else 4) = n
      split
      · exact tells_refl s
      · exact tells_decrement s _ _ _ _ _ _ _ _
    next => exact tells_feTell s _ _ _ _

theorem tells_phaseEnd (s : State) (k : Nat) : Tells s (phaseEnd s k) := by
  unfold phaseEnd
  split
  · split
    · exact ((tells_phases s _).trans (tells_journal _ _ _ _ _ _ _ _)).trans (tells_modPart _ _ _ (by intro; rfl) (by intro; rfl))
    · exact tells_refl s
  · exact tells_refl s

theorem tells_graphEnd (s : State) (k : Nat) : Tells s (graphEnd s k) := by
  unfold graphEnd
  split
  · split
    · exact (((tells_graphs s _).trans (tells_journal _ _ _ _ _ _ _ _)).trans (tells_phases _ _)).trans (tells_phaseEnd _ _)
    · exact tells_refl s
  · exact tells_refl s

theorem tells_graphStep (s : State) (k : Nat) (faulted : Bool) : Tells s (graphStep s k faulted) := by
  unfold graphStep
  split
  · exact (tells_graphs s _).trans (tells_graphEnd _ _)
  · exact tells_refl s

/-! ### The end of a launch -/

/-- A launch is as before but for its contributions and what its tree counts. -/
def SameButTree (l l' : Launch) : Prop := l' = { l with contribs := l'.contribs, tree := l'.tree, treeFlt := l'.treeFlt }

theorem SameLaunch.butTree {l l' : Launch} (h : SameLaunch l l') : SameButTree l l' := by
  rw [SameButTree, h]

theorem SameButTree.trans {l m n : Launch} (h : SameButTree l m) (h' : SameButTree m n) : SameButTree l n := by
  rw [SameButTree, h', h]

/-- A running launch that ends, apart from its tree: it has the state, and every other launch keeps its own. -/
theorem finishOne_ends (s : State) (key st : Nat) (l : Launch) (hl : mget? s.launches key = some l) (hst : l.state < 2) :
    let t := finishOne s key st
    t.flights = s.flights ∧ t.gangs = s.gangs ∧
      (∃ l', mget? t.launches key = some l' ∧ SameLaunch { l with state := st } l') ∧
      (∀ k m, k ≠ key → mget? s.launches k = some m → ∃ m', mget? t.launches k = some m' ∧ SameLaunch m m') ∧
      ∀ pid p, part? s pid = some p → ∃ p', part? t pid = some p' ∧ p'.offers = p.offers ∧ p'.nextId = p.nextId := by
  intro t
  let s0 := if st == 2 then sealAll s key else s
  let s1 : State := { s0 with
    launches := mmod s0.launches key fun l => { l with state := st, contribs := [] }
    global := s0.global.map fun q => q.filter (· != key)
    dies := mmap s0.dies fun _ d => dropGangs s0.cycle key d }
  have h0 : Tells s s0 := by
    show Tells s (if st == 2 then sealAll s key else s)
    split
    · exact tells_sealAll s key
    · exact tells_refl s
  obtain ⟨l0, hl0, hsame0⟩ := h0.launches key l hl
  have h1 : Tells s1 t := by
    show Tells s1 (finishOne s key st)
    rw [finishOne, hl]
    simp only [Nat.not_le.2 hst, if_false]
    refine Tells.trans (t := journal (if l.status == 0 then s1 else feWrite s1 l.pid l.status (bytesOfNat 8 (statusWord l st (endReason l st))))
      l.pid l.jq (st + 1) (endReason l st) l.pidx l.id l.tag) (Tells.trans ?_ (tells_journal _ _ _ _ _ _ _ _)) ?_
    · split
      · exact tells_refl _
      · exact tells_feWrite _ _ _ _
    · generalize journal _ l.pid l.jq (st + 1) (endReason l st) l.pidx l.id l.tag = s3
      have h4 : Tells s3 (if st == 2 then nextStep s3 l else s3) := by
        split
        · exact tells_nextStep s3 l
        · exact tells_refl s3
      split
      · exact h4.trans (tells_graphStep _ _ _)
      · exact h4
  refine ⟨h1.flights.trans h0.flights, h1.gangs.trans h0.gangs, ?_, fun k m hk hm => ?_, fun pid p hp => ?_⟩
  · obtain ⟨l', hl', hsame⟩ := h1.launches key { l0 with state := st, contribs := [] } (by
      show mget? (mmod s0.launches key _) key = _
      rw [mget?_mmod, if_pos rfl, hl0]
      rfl)
    refine ⟨l', hl', ?_⟩
    rw [SameLaunch, hsame, hsame0]
  · obtain ⟨m0, hm0, hsame⟩ := h0.launches k m hm
    obtain ⟨m', hm', hsame'⟩ := h1.launches k m0 (by
      show mget? (mmod s0.launches key _) k = _
      rw [mget?_mmod, if_neg hk, hm0])
    exact ⟨m', hm', hsame.trans hsame'⟩
  · obtain ⟨p0, hp0, ho, hn⟩ := h0.parts pid p hp
    obtain ⟨p', hp', ho', hn'⟩ := h1.parts pid p0 hp0
    exact ⟨p', hp', ho'.trans ho, hn'.trans hn⟩

/-- The counter of a tree falls: a launch that has ended keeps its state, whether it is the root or not. -/
theorem treeStep_ended (s : State) (pid root : Nat) (flt : Option Nat) (key : Nat) (l : Launch) (hl : mget? s.launches key = some l)
    (hst : 2 ≤ l.state) :
    let t := treeStep s pid root flt
    t.flights = s.flights ∧ t.gangs = s.gangs ∧ ∃ l', mget? t.launches key = some l' ∧ SameButTree l l' := by
  intro t
  let s1 := modLaunch s (lkey pid root) fun l => { l with tree := l.tree - 1, treeFlt := l.treeFlt.or flt }
  have hkey : ∃ l1, mget? s1.launches key = some l1 ∧ SameButTree l l1 := by
    show ∃ l1, mget? (mmod s.launches _ _) key = _ ∧ _
    rw [mget?_mmod]
    by_cases h : key = lkey pid root
    · rw [if_pos h, ← h, hl]
      exact ⟨_, rfl, rfl⟩
    · rw [if_neg h, hl]
      exact ⟨l, rfl, rfl⟩
  obtain ⟨l1, hl1, hsame⟩ := hkey
  have hstate : 2 ≤ l1.state := by rw [hsame]; exact hst
  have ht : t = (mget? s1.launches (lkey pid root)).elim s1 fun m =>
      if m.tree == 0 && decide (m.state < 2) then
        finishOne s1 (lkey pid root) (if m.fault.isSome then 4 else if m.cancel then 3 else if m.treeFlt.isSome then 4 else 2) else s1 := by
    show treeStep s pid root flt = _
    rw [treeStep]
    show (match mget? s1.launches (lkey pid root) with | some l => _ | none => s1) = _
    cases mget? s1.launches (lkey pid root) <;> rfl
  rw [ht]
  cases hm : mget? s1.launches (lkey pid root) with
  | none => exact ⟨rfl, rfl, l1, hl1, hsame⟩
  | some m =>
    rw [Option.elim_some]
    split
    next hc =>
      simp only [Bool.and_eq_true, decide_eq_true_eq] at hc
      obtain ⟨hf, hg, -, hother, -⟩ := finishOne_ends s1 (lkey pid root)
        (if m.fault.isSome then 4 else if m.cancel then 3 else if m.treeFlt.isSome then 4 else 2) m hm hc.2
      have hne : key ≠ lkey pid root := by
        rintro rfl
        rw [hl1] at hm
        have := Option.some.inj hm
        rw [this] at hstate
        omega
      obtain ⟨l2, hl2, hsame2⟩ := hother key l1 hne hl1
      exact ⟨hf, hg, l2, hl2, hsame.trans hsame2.butTree⟩
    next => exact ⟨rfl, rfl, l1, hl1, hsame⟩

/-- A running launch ends with a state. -/
theorem finish_ends (s : State) (key st : Nat) (l : Launch) (hl : mget? s.launches key = some l) (hst : l.state < 2) (h2 : 2 ≤ st) :
    let t := finish s key st
    t.flights = s.flights ∧ t.gangs = s.gangs ∧ ∃ l', mget? t.launches key = some l' ∧ SameButTree { l with state := st } l' := by
  intro t
  obtain ⟨hf, hg, ⟨l1, hl1, hsame⟩, -, -⟩ := finishOne_ends s key st l hl hst
  have ht : t = l.root.elim (finishOne s key st) fun r =>
      treeStep (finishOne s key st) l.pid r (if st == 4 then some (endReason l st) else none) := by
    show finish s key st = _
    rw [finish, hl]
    simp only [Nat.not_le.2 hst, if_false]
    cases l.root <;> rfl
  obtain hr | ⟨r, hr⟩ : l.root = none ∨ ∃ r, l.root = some r := by
    cases l.root <;> simp
  · rw [hr] at ht
    rw [ht]
    exact ⟨hf, hg, l1, hl1, hsame.butTree⟩
  · rw [hr] at ht
    rw [ht]
    have hstate : 2 ≤ l1.state := by rw [hsame]; exact h2
    obtain ⟨hf', hg', l2, hl2, hsame2⟩ := treeStep_ended (finishOne s key st) l.pid r
      (if st == 4 then some (endReason l st) else none) key l1 hl1 hstate
    exact ⟨hf'.trans hf, hg'.trans hg, l2, hl2, hsame.butTree.trans hsame2⟩

/-- A launch that is not below a root ends as it is, apart from its state. -/
theorem finish_rootless (s : State) (key st : Nat) (l : Launch) (hl : mget? s.launches key = some l) (hst : l.state < 2)
    (hr : l.root = none) : finish s key st = finishOne s key st := by
  rw [finish, hl]
  simp only [Nat.not_le.2 hst, if_false, hr]

/-- The counter of a running root falls by one: at 0 the root ends. -/
theorem treeStep_own (s : State) (l : Launch) (hl : mget? s.launches (lkey l.pid l.id) = some l) (hst : l.state < 2) :
    let t := treeStep s l.pid l.id none
    t.flights = s.flights ∧ t.gangs = s.gangs ∧ ∃ l', mget? t.launches (lkey l.pid l.id) = some l' ∧ l'.retired = l.retired ∧
      (l.tree = 1 → l'.state = if l.fault.isSome then 4 else if l.cancel then 3 else if l.treeFlt.isSome then 4 else 2) := by
  intro t
  let st := if l.fault.isSome then 4 else if l.cancel then 3 else if l.treeFlt.isSome then 4 else 2
  let s1 := modLaunch s (lkey l.pid l.id) fun l => { l with tree := l.tree - 1, treeFlt := l.treeFlt.or none }
  let l1 : Launch := { l with tree := l.tree - 1 }
  have hl1 : mget? s1.launches (lkey l.pid l.id) = some l1 := by
    show mget? (mmod s.launches _ _) _ = _
    rw [mget?_mmod, if_pos rfl, hl, Option.map_some]
    simp only [Option.or_none, l1]
  have ht : t = if l1.tree == 0 && decide (l1.state < 2) then finishOne s1 (lkey l.pid l.id) st else s1 := by
    show treeStep s l.pid l.id none = _
    rw [treeStep]
    show (match mget? s1.launches (lkey l.pid l.id) with | some l => _ | none => s1) = _
    rw [hl1]
  rw [ht]
  split
  · obtain ⟨hf, hg, ⟨l', hl', hsame⟩, -, -⟩ := finishOne_ends s1 (lkey l.pid l.id) st l1 hl1 hst
    exact ⟨hf, hg, l', hl', by rw [hsame], fun _ => by rw [hsame]⟩
  next h =>
    refine ⟨rfl, rfl, l1, hl1, rfl, fun htree => absurd ?_ h⟩
    simp [l1, htree, hst]

/-! ### Acceptance -/

/-- The front end accepts a packet that is below no root and in no graph. -/
theorem accept_takes (s : State) (pid : Nat) (p : Part) (o : Offer) (device qlive : Bool) (prio : Nat) (hp : part? s pid = some p)
    (hgraph : o.graph = none) (hroot : o.root = none) (hlists : prio < s.global.length) :
    let t := (accept s pid o device qlive prio).2
    let reason := (checkLaunch s pid o.bytes false).1
    ∃ p' l, part? t pid = some p' ∧ p'.offers = p.offers ∧ p'.nextId = afterId p.nextId ∧
      mget? t.launches (lkey pid p.nextId.toNat) = some l ∧ l.id = p.nextId.toNat ∧ l.queue = o.queue ∧ l.device = device ∧
      l.tag = w32 (fieldOf o.bytes 4 4) ∧ l.reason = reason ∧ (reason ≠ 0 → l.state = 5) ∧ t.flights = s.flights ∧
      (reason = 0 → l.state = 0 ∧ ∃ q ∈ t.global, lkey pid p.nextId.toNat ∈ q) := by
  intro t reason
  let key := lkey pid p.nextId.toNat
  let l := newLaunch s pid p.nextId.toNat o device qlive prio
  let s1 := modPart { s with launches := mset s.launches key l, nextId := s.nextId + 1 } pid fun q => { q with nextId := afterId p.nextId }
  let s2 := journal (if l.reason == 2 then feTell s1 pid .read (dw (fieldOf o.bytes 8 8)) 128 else s1) pid l.jq 1 0 l.pidx l.id l.tag
  have hreason : l.reason = reason := by
    show (newLaunch s pid p.nextId.toNat o device qlive prio).reason = _
    simp only [newLaunch, hroot, Option.bind_none, Option.elim_none, reason]
  have hnoroot : l.root = none := by
    show (newLaunch s pid p.nextId.toNat o device qlive prio).root = _
    simp only [newLaunch, hroot, Option.bind_none, Option.elim_none, Bool.false_eq_true, if_false]
  have hjoin : joinGraph s o = (none, false) := by
    rw [joinGraph, hgraph]
    rfl
  have h12 : Tells s1 s2 := by
    refine Tells.trans ?_ (tells_journal _ _ _ _ _ _ _ _)
    split
    · exact tells_feTell _ _ _ _ _
    · exact tells_refl _
  have ht : t = if l.reason != 0 then finish s2 key 5 else
      { s2 with global := (List.range s2.global.length).map fun k =>
          if k == prio then s2.global.getD k [] ++ [key] else s2.global.getD k [] } := by
    show (accept s pid o device qlive prio).2 = _
    rw [accept, hp]
    simp only [hjoin, show (newLaunch s pid p.nextId.toNat o device qlive prio).root = none from hnoroot, Bool.false_eq_true, if_false]
    rfl
  obtain ⟨p1, hp1, ho1, hn1⟩ : ∃ p1, part? s1 pid = some p1 ∧ p1.offers = p.offers ∧ p1.nextId = afterId p.nextId := by
    refine ⟨{ p with nextId := afterId p.nextId }, ?_, rfl, rfl⟩
    refine (part?_modPart _ pid pid _).trans ?_
    rw [if_pos rfl]
    exact congrArg _ hp
  obtain ⟨p2, hp2, ho2, hn2⟩ := h12.parts pid p1 hp1
  obtain ⟨l2, hl2, hsame⟩ := h12.launches key l (mget?_mset_same _ _ _)
  have hstate : l2.state < 2 := by rw [hsame]; exact Nat.zero_lt_two
  by_cases hr : reason = 0
  · have hzero : (l.reason != 0) = false := by rw [hreason, hr]; rfl
    rw [ht, hzero, if_neg Bool.false_ne_true]
    refine ⟨p2, l2, hp2, ho2.trans ho1, hn2.trans hn1, hl2, by rw [hsame]; rfl, by rw [hsame]; rfl, by rw [hsame]; rfl, by rw [hsame]; rfl,
      by rw [hsame]; exact hreason, fun h => absurd hr h, h12.flights, fun _ => ⟨by rw [hsame]; rfl, _, List.mem_map.2 ⟨prio, ?_, rfl⟩, ?_⟩⟩
    · rw [h12.global]
      exact List.mem_range.2 hlists
    · simp [key]
  · have hone : (l.reason != 0) = true := by rw [hreason]; simpa using hr
    have hroot2 : l2.root = none := by rw [hsame]; exact hnoroot
    rw [ht, hone, if_pos rfl, finish_rootless s2 key 5 l2 hl2 hstate hroot2]
    obtain ⟨hf, -, ⟨l3, hl3, hsame3⟩, -, hparts⟩ := finishOne_ends s2 key 5 l2 hl2 hstate
    obtain ⟨p3, hp3, ho3, hn3⟩ := hparts pid p2 hp2
    have hl : SameLaunch { l with state := 5 } l3 := by rw [SameLaunch, hsame3, hsame]
    refine ⟨p3, l3, hp3, ho3.trans (ho2.trans ho1), hn3.trans (hn2.trans hn1), hl3, by rw [hl]; rfl, by rw [hl]; rfl, by rw [hl]; rfl,
      by rw [hl]; rfl, by rw [hl]; exact hreason, fun _ => by rw [hl], hf.trans h12.flights, fun h => absurd h hr⟩

/-- LAUNCH_ACCEPT takes the oldest packet. -/
theorem launchAccept_takes (s : State) (pid : Nat) (p : Part) (o : Offer) (r : List Offer) (hp : part? s pid = some p)
    (hoffers : p.offers = o :: r) (hopen : acceptOpen s pid = true) (hfrozen : frozen s pid = false) :
    exec (.launchAccept pid) s =
      .next (accept { s with parts := mset s.parts pid { p with offers := r } } pid o false (o.queue.bind fun q => mget? s.queues q).isSome
        ((o.queue.bind fun q => mget? s.queues q).elim 1 fun q => if q.lat then 0 else q.prio + 1)).2 := by
  have hmod : modPart s pid (fun p => { p with offers := r }) = { s with parts := mset s.parts pid { p with offers := r } } := by
    rw [modPart, mmod, show mget? s.parts pid = some p from hp]
  have hguard : (!acceptOpen s pid || frozen s pid) = false := by simp [hopen, hfrozen]
  show execLaunchAccept pid s = _
  rw [execLaunchAccept, hp]
  simp only [hoffers, hguard, Bool.false_eq_true, if_false, hmod]

/-! ### Handing over -/

/-- A launch that has been taken from the global lists is on none. -/
theorem not_mem_dropGlobal (s : State) (key : Nat) : ∀ q ∈ (dropGlobal s key).global, key ∉ q := by
  intro q hq hmem
  obtain ⟨q0, -, rfl⟩ := List.mem_map.1 hq
  simpa using (List.mem_filter.1 hmem).2

theorem handOver_list (s : State) (die pid launch first n : Nat) :
    (mgetD (handOver s die pid launch first n).dies die ⟨[], 0, 0⟩).list =
      (mgetD s.dies die ⟨[], 0, 0⟩).list ++ (List.range n).map fun k => (pid, launch, first + k) := by
  simp only [handOver, mgetD_mset, if_true]

/-- The global dispatcher hands gangs of the launch at the head to the die with the most room. -/
theorem globalDispatch_hands (s : State) (pid launch die n : Nat) (l : Launch) (d : Desc)
    (hl : mget? s.launches (lkey pid launch) = some l) (hd : l.desc = some d) (hhead : globalHead s = some (lkey pid launch))
    (hc : l.cancel = false) (hr : d.resident = false)
    (hdie : roomiest s ((List.range 4).filter fun k => 1 ≤ slotRoom s pid d k) = some die) (h1 : 1 ≤ n) (h64 : n ≤ 64)
    (hroom : n ≤ slotRoom s pid d die) (hleft : l.handed + n ≤ l.gangs) :
    let key := lkey pid launch
    ∃ t, exec (.globalDispatch pid launch die n) s = .next t ∧
      t = { s with launches := t.launches, dies := t.dies, global := t.global } ∧
      mget? t.launches key = some { l with handed := l.handed + n } ∧
      (mgetD t.dies die ⟨[], 0, 0⟩).list = (mgetD s.dies die ⟨[], 0, 0⟩).list ++
        (List.range n).map (fun k => (pid, launch, l.handed + k)) ∧
      (l.handed + n = l.gangs → ∀ q ∈ t.global, key ∉ q) ∧ (l.handed + n ≠ l.gangs → t.global = s.global) := by
  intro key
  let s1 := modLaunch (handOver s die pid launch l.handed n) key fun l => { l with handed := l.handed + n }
  have hguard : (roomiest s ((List.range 4).filter fun k => 1 ≤ slotRoom s pid d k) != some die || n == 0 || decide (64 < n) ||
      decide (slotRoom s pid d die < n) || decide (l.gangs < l.handed + n)) = false := by
    simp only [hdie, bne_self_eq_false, Bool.false_or, Bool.or_eq_false_iff, beq_eq_false_iff_ne, decide_eq_false_iff_not]
    omega
  have hrun : exec (.globalDispatch pid launch die n) s = .next (if l.handed + n == l.gangs then dropGlobal s1 key else s1) := by
    show execGlobalDispatch pid launch die n s = _
    rw [execGlobalDispatch, hl]
    simp only [hd, hhead, bne_self_eq_false, hc, hr, Bool.or_self, Bool.false_eq_true, if_false, hguard]
    rfl
  have hl1 : mget? s1.launches key = some { l with handed := l.handed + n } := by
    show mget? (mmod s.launches key _) key = _
    rw [mget?_mmod, if_pos rfl, hl]
    rfl
  by_cases hall : l.handed + n = l.gangs
  · rw [if_pos (by simpa using hall)] at hrun
    exact ⟨_, hrun, rfl, hl1, handOver_list s die pid launch l.handed n, fun _ => not_mem_dropGlobal s1 key, fun h => absurd hall h⟩
  · rw [if_neg (by simpa using hall)] at hrun
    exact ⟨_, hrun, rfl, hl1, handOver_list s die pid launch l.handed n, fun h => absurd h hall, fun _ => rfl⟩

/-! ### Placement -/

/-- Blocks have started: the flights of some numbers are new, and besides them the machine's gangs, launches, partitions and counts are
as before. -/
structure Started (s t : State) (n : Nat) : Prop where
  gangs    : t.gangs = s.gangs
  launches : t.launches = s.launches
  parts    : t.parts = s.parts
  nextId   : t.nextId = s.nextId + n
  old      : ∀ k, k < s.nextId ∨ s.nextId + n ≤ k → flight? t k = flight? s k

theorem Started.trans {s t u : State} {m n : Nat} (h : Started s t m) (h' : Started t u n) : Started s u (m + n) := by
  refine ⟨h'.gangs.trans h.gangs, h'.launches.trans h.launches, h'.parts.trans h.parts, ?_, fun k hk => ?_⟩
  · rw [h'.nextId, h.nextId, Nat.add_assoc]
  · rw [h'.old k (by rw [h.nextId]; omega), h.old k (by omega)]

/-- A block's scratch, tiles and cache are made ready before its flights start. -/
theorem block_ready (s : State) (gid rank core off size n : Nat) :
    Started s (dropCache (setAside (newReservation s core off size) gid rank core n) core) 0 := by
  have hres : ∀ s, Started s (newReservation s core off size) 0 := by
    intro s
    unfold newReservation
    split
    · exact ⟨rfl, rfl, rfl, rfl, fun _ _ => rfl⟩
    · exact ⟨rfl, rfl, rfl, rfl, fun _ _ => rfl⟩
  have haside : ∀ s, Started s (setAside s gid rank core n) 0 := by
    intro s
    have hfold (l : List Nat) (s : State) :
        Started s (l.foldl (fun s t => modTile s t fun tl => { tl with aside := some (gid, rank) }) s) 0 := by
      induction l generalizing s with
      | nil => exact ⟨rfl, rfl, rfl, rfl, fun _ _ => rfl⟩
      | cons x r ih =>
        have hone : Started s (modTile s x fun tl => { tl with aside := some (gid, rank) }) 0 := ⟨rfl, rfl, rfl, rfl, fun _ _ => rfl⟩
        exact hone.trans (ih _)
    exact hfold _ s
  have hdrop : ∀ s, Started s (dropCache s core) 0 := by
    intro s
    rw [dropCache_eq]
    exact ⟨rfl, rfl, rfl, rfl, fun _ _ => rfl⟩
  exact ((hres s).trans (haside _)).trans (hdrop _)

/-- The start of flight `idx` of a block. -/
def startOne (l : Launch) (d : Desc) (gid num die quad off rank : Nat) (s : State) (idx : Nat) : State :=
  { s with nextId := s.nextId + 1, flights := mset s.flights s.nextId (startFlight s l d gid num die quad off rank idx) }

/-- The flights of a block start one after the other. -/
theorem startFlights (l : Launch) (d : Desc) (gid num die quad off rank n : Nat) (s : State) :
    let t := (List.range n).foldl (startOne l d gid num die quad off rank) s
    Started s t n ∧ ∀ i, i < n → ∃ u : State, u.parts = s.parts ∧
      flight? t (s.nextId + i) = some (startFlight u l d gid num die quad off rank i) := by
  induction n with
  | zero => exact ⟨⟨rfl, rfl, rfl, rfl, fun _ _ => rfl⟩, fun i hi => absurd hi (Nat.not_lt_zero i)⟩
  | succ n ih =>
    obtain ⟨h, hf⟩ := ih
    intro t
    let u := (List.range n).foldl (startOne l d gid num die quad off rank) s
    have ht : t = startOne l d gid num die quad off rank u n := by
      show (List.range (n + 1)).foldl _ s = _
      rw [List.range_succ, List.foldl_append]
      rfl
    have hone : Started u t 1 := by
      rw [ht]
      exact ⟨rfl, rfl, rfl, rfl, fun k hk => mget?_mset_ne _ _ (by omega)⟩
    refine ⟨h.trans hone, fun i hi => ?_⟩
    by_cases hin : i < n
    · obtain ⟨v, hv, hfv⟩ := hf i hin
      exact ⟨v, hv, by rw [hone.old _ (by rw [h.nextId]; omega), hfv]⟩
    · have : i = n := by omega
      subst this
      refine ⟨u, h.parts, ?_⟩
      rw [ht, ← h.nextId]
      exact mget?_mset_same _ _ _

theorem startBlock_starts (s : State) (l : Launch) (d : Desc) (gid num die quad off rank : Nat) :
    let t := startBlock s l d gid num die quad off rank
    Started s t d.nflight ∧ ∀ i, i < d.nflight → ∃ u : State, u.parts = s.parts ∧
      flight? t (s.nextId + i) = some (startFlight u l d gid num die quad off rank i) := by
  intro t
  have hready := block_ready s gid rank (rankCore die quad rank) off d.reservation d.tiles
  obtain ⟨h, hf⟩ := startFlights l d gid num die quad off rank d.nflight
    (dropCache (setAside (newReservation s (rankCore die quad rank) off d.reservation) gid rank (rankCore die quad rank) d.tiles)
      (rankCore die quad rank))
  refine ⟨?_, fun i hi => ?_⟩
  · have := hready.trans h
    rw [Nat.zero_add] at this
    exact this
  · obtain ⟨u, hu, hfu⟩ := hf i hi
    rw [hready.nextId] at hfu
    exact ⟨u, hu.trans hready.parts, hfu⟩

/-- The flights of a gang start block after block. -/
theorem startBlocks (s : State) (l : Launch) (d : Desc) (gid num die quad off n : Nat) :
    let t := (List.range n).foldl (fun s r => startBlock s l d gid num die quad off r) s
    Started s t (n * d.nflight) ∧ ∀ r i, r < n → i < d.nflight → ∃ u : State, u.parts = s.parts ∧
      flight? t (s.nextId + r * d.nflight + i) = some (startFlight u l d gid num die quad off r i) := by
  induction n with
  | zero =>
    refine ⟨?_, fun r i hr => absurd hr (Nat.not_lt_zero r)⟩
    rw [Nat.zero_mul]
    exact ⟨rfl, rfl, rfl, rfl, fun _ _ => rfl⟩
  | succ n ih =>
    obtain ⟨h, hf⟩ := ih
    intro t
    let u := (List.range n).foldl (fun s r => startBlock s l d gid num die quad off r) s
    have ht : t = startBlock u l d gid num die quad off n := by
      show (List.range (n + 1)).foldl _ s = _
      rw [List.range_succ, List.foldl_append]
      rfl
    obtain ⟨hone, hfone⟩ := startBlock_starts u l d gid num die quad off n
    rw [← ht] at hone hfone
    refine ⟨by rw [Nat.succ_mul]; exact h.trans hone, fun r i hr hi => ?_⟩
    by_cases hrn : r < n
    · obtain ⟨v, hv, hfv⟩ := hf r i hrn hi
      have hbound : r * d.nflight + i < n * d.nflight := by
        calc r * d.nflight + i < r * d.nflight + d.nflight := by omega
          _ = (r + 1) * d.nflight := (Nat.succ_mul r d.nflight).symm
          _ ≤ n * d.nflight := Nat.mul_le_mul_right _ hrn
      exact ⟨v, hv, by rw [hone.old _ (by rw [h.nextId]; omega), hfv]⟩
    · have : r = n := by omega
      subst this
      obtain ⟨v, hv, hfv⟩ := hfone i hi
      rw [h.nextId] at hfv
      exact ⟨v, hv.trans h.parts, hfv⟩

/-- A gang that is placed: it runs, its launch counts it, and its flights start. -/
theorem placeGang_places (s : State) (l : Launch) (d : Desc) (num die quad off : Nat)
    (hl : mget? s.launches (lkey l.pid l.id) = some l) :
    let t := placeGang s l d num die quad off
    (∃ l', mget? t.launches (lkey l.pid l.id) = some l' ∧ l'.placed = l.placed + 1 ∧ l'.state = max l.state 1) ∧
      (∃ g, mget? t.gangs s.nextId = some g ∧ g.pid = l.pid ∧ g.launch = l.id ∧ g.num = num ∧ g.die = die ∧ g.quad = quad ∧
        g.offset = off ∧ g.state = .running) ∧
      ∀ r i, r < d.nblock → i < d.nflight → ∃ u : State, u.parts = s.parts ∧
        flight? t (s.nextId + 1 + r * d.nflight + i) = some (startFlight u l d s.nextId num die quad off r i) := by
  intro t
  let g : Gang :=
    { pid := l.pid, launch := l.id, num := num, die := die, quad := quad, offset := off, scratch := d.reservation,
      tiles := d.tiles, nflight := d.nflight, nblock := d.nblock, state := .running, why := 0, acks := [], deadline := none,
      held := false, engStop := false, pmaxAt := [], bars := [], pools := [], order := s.nextId, ran := 0, started := s.cycle, savedT := [] }
  let s1 : State := { s with nextId := s.nextId + 1, gangs := mset s.gangs s.nextId g }
  let s2 := (List.range d.nblock).foldl (fun s' r => startBlock s' l d s.nextId num die quad off r) s1
  let s3 := modLaunch s2 (lkey l.pid l.id) fun l => { l with placed := l.placed + 1, state := max l.state 1 }
  obtain ⟨h, hf⟩ := startBlocks s1 l d s.nextId num die quad off d.nblock
  have h3 : Tells s3 t := by
    show Tells s3 (placeGang s l d num die quad off)
    rw [placeGang]
    split
    · exact tells_journal _ _ _ _ _ _ _ _
    · exact tells_refl _
  refine ⟨?_, ⟨g, ?_, rfl, rfl, rfl, rfl, rfl, rfl, rfl⟩, fun r i hr hi => ?_⟩
  · obtain ⟨l', hl', hsame⟩ := h3.launches (lkey l.pid l.id) { l with placed := l.placed + 1, state := max l.state 1 } (by
      show mget? (mmod s2.launches _ _) _ = _
      rw [mget?_mmod, if_pos rfl, show s2.launches = s.launches from h.launches, hl]
      rfl)
    exact ⟨l', hl', by rw [hsame], by rw [hsame]⟩
  · rw [h3.gangs]
    show mget? s2.gangs s.nextId = _
    rw [show s2.gangs = mset s.gangs s.nextId g from h.gangs]
    exact mget?_mset_same _ _ _
  · obtain ⟨u, hu, hfu⟩ := hf r i hr hi
    refine ⟨u, hu, ?_⟩
    rw [flight?, h3.flights]
    exact hfu

/-- A launch has as many gangs after the placement of one as before. -/
theorem placeGang_gangs (s : State) (l : Launch) (d : Desc) (num die quad off key : Nat) (m : Launch) (hm : mget? s.launches key = some m) :
    ∃ m', mget? (placeGang s l d num die quad off).launches key = some m' ∧ m'.gangs = m.gangs := by
  let g : Gang :=
    { pid := l.pid, launch := l.id, num := num, die := die, quad := quad, offset := off, scratch := d.reservation,
      tiles := d.tiles, nflight := d.nflight, nblock := d.nblock, state := .running, why := 0, acks := [], deadline := none,
      held := false, engStop := false, pmaxAt := [], bars := [], pools := [], order := s.nextId, ran := 0, started := s.cycle, savedT := [] }
  let s1 : State := { s with nextId := s.nextId + 1, gangs := mset s.gangs s.nextId g }
  let s2 := (List.range d.nblock).foldl (fun s' r => startBlock s' l d s.nextId num die quad off r) s1
  let s3 := modLaunch s2 (lkey l.pid l.id) fun l => { l with placed := l.placed + 1, state := max l.state 1 }
  have h2 : s2.launches = s.launches := (startBlocks s1 l d s.nextId num die quad off d.nblock).1.launches
  have h3 : Tells s3 (placeGang s l d num die quad off) := by
    rw [placeGang]
    split
    · exact tells_journal _ _ _ _ _ _ _ _
    · exact tells_refl _
  obtain ⟨m1, hm1, hgangs⟩ : ∃ m1, mget? s3.launches key = some m1 ∧ m1.gangs = m.gangs := by
    show ∃ m1, mget? (mmod s2.launches _ _) key = _ ∧ _
    rw [h2, mget?_mmod]
    by_cases h : key = lkey l.pid l.id
    · rw [if_pos h, ← h, hm]
      exact ⟨_, rfl, rfl⟩
    · rw [if_neg h, hm]
      exact ⟨m, rfl, rfl⟩
  obtain ⟨m', hm', hsame⟩ := h3.launches key m1 hm1
  exact ⟨m', hm', by rw [hsame]; exact hgangs⟩

theorem placeAll_gangs (d : Desc) (key : Nat) (n num : Nat) (s t : State) (h : placeAll d key n num s = some t) (k : Nat) (m : Launch)
    (hm : mget? s.launches k = some m) : ∃ m', mget? t.launches k = some m' ∧ m'.gangs = m.gangs := by
  induction n generalizing num s m with
  | zero =>
    rw [← Option.some.inj h]
    exact ⟨m, hm, rfl⟩
  | succ n ih =>
    rw [placeAll] at h
    split at h
    · exact absurd h (by simp)
    next l _ =>
      split at h
      · exact absurd h (by simp)
      next die _ =>
        split at h
        next q o _ =>
          obtain ⟨m1, hm1, h1⟩ := placeGang_gangs s l d num die q o k m hm
          obtain ⟨m2, hm2, h2⟩ := ih (num + 1) (passHead (placeGang s l d num die q o) die) h m1 hm1
          exact ⟨m2, hm2, h2.trans h1⟩
        · exact absurd h (by simp)

/-- The global dispatcher places a resident launch whole. -/
theorem globalDispatch_places (s s1 : State) (pid launch die n : Nat) (l l1 : Launch) (d : Desc)
    (hl : mget? s.launches (lkey pid launch) = some l) (hd : l.desc = some d) (hhead : globalHead s = some (lkey pid launch))
    (hc : l.cancel = false) (hr : d.resident = true) (hall : placeAll d (lkey pid launch) l.gangs 0 s = some s1)
    (hl1 : mget? s1.launches (lkey pid launch) = some l1) :
    let key := lkey pid launch
    ∃ t l', exec (.globalDispatch pid launch die n) s = .next t ∧ mget? t.launches key = some l' ∧ l'.handed = l.gangs ∧
      (∀ q ∈ t.global, key ∉ q) ∧ t.gangs = s1.gangs ∧ t.flights = s1.flights := by
  intro key
  obtain ⟨l2, hl2, hgangs⟩ := placeAll_gangs d key l.gangs 0 s s1 hall key l hl
  rw [hl1] at hl2
  refine ⟨dropGlobal (modLaunch s1 key fun x => { x with handed := x.gangs }) key, { l1 with handed := l1.gangs }, ?_, ?_,
    by rw [Option.some.inj hl2]; exact hgangs, not_mem_dropGlobal _ key, rfl, rfl⟩
  · show execGlobalDispatch pid launch die n s = _
    rw [execGlobalDispatch, hl]
    simp only [hd, hhead, bne_self_eq_false, hc, hr, Bool.or_self, Bool.false_eq_true, if_false, if_true, hall]
    rfl
  · show mget? (mmod s1.launches key _) key = _
    rw [mget?_mmod, if_pos rfl, hl1]
    rfl

/-! ### Retirement and the end of a cancel -/

/-- A gang that is quiet and retires goes, with its flights; its launch counts it. -/
theorem gangRetire_goes (s : State) (gid : Nat) (g : Gang) (l : Launch) (hg : mget? s.gangs gid = some g) (hst : g.state = .retiring)
    (hfrozen : frozen s g.pid = false) (hquiet : gangQuiet s gid = true) (hl : mget? s.launches (lkey g.pid g.launch) = some l)
    (hrun : l.state < 2) (hpid : l.pid = g.pid) (hid : l.id = g.launch) :
    ∃ t l', exec (.gangRetire gid) s = .next t ∧ mget? t.gangs gid = none ∧ (∀ x ∈ t.flights, x.2.gid ≠ gid) ∧
      mget? t.launches (lkey g.pid g.launch) = some l' ∧ l'.retired = l.retired + 1 ∧
      (l.isRoot = false → l.retired + 1 ≠ l.gangs → l'.state = l.state) ∧
      (l.isRoot = false → l.retired + 1 = l.gangs → l'.state = if l.fault.isSome then 4 else 2) ∧
      (l.isRoot = true → l.tree = 1 →
        l'.state = if l.fault.isSome then 4 else if l.cancel then 3 else if l.treeFlt.isSome then 4 else 2) := by
  let key := lkey g.pid g.launch
  let s1 := modLaunch (removeGang s gid) key fun l => { l with retired := l.retired + 1 }
  let l1 : Launch := { l with retired := l.retired + 1 }
  have hl1 : mget? s1.launches key = some l1 := by
    show mget? (mmod s.launches key _) key = _
    rw [mget?_mmod, if_pos rfl, show mget? s.launches key = some l from hl]
    rfl
  have hgone : mget? s1.gangs gid = none := by
    show mget? (mdel s.gangs gid) gid = none
    rw [mget?_mdel, if_pos rfl]
  have hflights : ∀ x ∈ s1.flights, x.2.gid ≠ gid := by
    intro x hx
    simpa using (List.mem_filter.1 (show x ∈ s.flights.filter fun x => x.2.gid != gid from hx)).2
  have hguard : (g.state != .retiring || frozen s g.pid || !gangQuiet s gid) = false := by simp [hst, hfrozen, hquiet]
  have hstep : exec (.gangRetire gid) s = .next (if l1.isRoot then treeStep s1 l1.pid l1.id none
      else if l1.retired == l1.gangs then finish s1 key (if l1.fault.isSome then 4 else 2) else s1) := by
    show execGangRetire gid s = _
    rw [execGangRetire, hg]
    simp only [hguard, Bool.false_eq_true, if_false]
    show (match mget? s1.launches key with | none => _ | some l => _) = _
    rw [hl1]
    dsimp only
    (repeat' split) <;> rfl
  by_cases hroot : l.isRoot = true
  · rw [if_pos (show l1.isRoot = true from hroot)] at hstep
    have hkey : mget? s1.launches (lkey l1.pid l1.id) = some l1 := by
      show mget? s1.launches (lkey l.pid l.id) = _
      rw [hpid, hid]
      exact hl1
    obtain ⟨hf, hgs, l', hl', hret, hstate⟩ := treeStep_own s1 l1 hkey hrun
    refine ⟨_, l', hstep, by rw [hgs]; exact hgone, by rw [hf]; exact hflights, ?_, hret, ?_, ?_, fun _ htree => hstate htree⟩
    · have : lkey l1.pid l1.id = key := by
        show lkey l.pid l.id = _
        rw [hpid, hid]
      rw [this] at hl'
      exact hl'
    · intro h
      rw [hroot] at h
      exact absurd h (by decide)
    · intro h
      rw [hroot] at h
      exact absurd h (by decide)
  · rw [if_neg (show ¬l1.isRoot = true from hroot)] at hstep
    by_cases hlast : l.retired + 1 = l.gangs
    · rw [if_pos (show (l1.retired == l1.gangs) = true by simpa [l1] using hlast)] at hstep
      obtain ⟨hf, hgs, l', hl', hsame⟩ := finish_ends s1 key (if l1.fault.isSome then 4 else 2) l1 hl1 hrun (by split <;> decide)
      exact ⟨_, l', hstep, by rw [hgs]; exact hgone, by rw [hf]; exact hflights, hl', by rw [hsame], fun _ h => absurd hlast h,
        fun _ _ => by rw [hsame], fun h => absurd h hroot⟩
    · rw [if_neg (show ¬(l1.retired == l1.gangs) = true by simpa [l1] using hlast)] at hstep
      exact ⟨_, l1, hstep, hgone, hflights, hl1, rfl, fun _ _ => rfl, fun _ h => absurd h hlast, fun h => absurd h hroot⟩

/-- The machine has lost gangs but gained none, and its launches stand as before. -/
structure Trims (s t : State) : Prop where
  gone   : ∀ k, mget? s.gangs k = none → mget? t.gangs k = none
  stands : ∀ k l, mget? s.launches k = some l → ∃ l', mget? t.launches k = some l' ∧ l'.state = l.state

theorem Trims.trans {s t u : State} (h : Trims s t) (h' : Trims t u) : Trims s u := by
  refine ⟨fun k hk => h'.gone k (h.gone k hk), fun k l hl => ?_⟩
  obtain ⟨l1, h1, h2⟩ := h.stands k l hl
  obtain ⟨l2, h3, h4⟩ := h'.stands k l1 h1
  exact ⟨l2, h3, h4.trans h2⟩

theorem trims_of (s t : State) (hg : t.gangs = s.gangs) (hl : t.launches = s.launches) : Trims s t :=
  ⟨fun k hk => by rw [hg]; exact hk, fun k l h => ⟨l, by rw [hl]; exact h, rfl⟩⟩

theorem trims_refl (s : State) : Trims s s := trims_of s s rfl rfl

theorem trims_foldl {α : Type} (k : State → α → State) (hk : ∀ s x, Trims s (k s x)) (xs : List α) (s : State) :
    Trims s (xs.foldl k s) := by
  induction xs generalizing s with
  | nil => exact trims_refl s
  | cons x r ih => exact (hk s x).trans (ih _)

theorem Tells.trims {s t : State} (h : Tells s t) : Trims s t := by
  refine ⟨fun k hk => by rw [h.gangs]; exact hk, fun k l hl => ?_⟩
  obtain ⟨l', hl', hsame⟩ := h.launches k l hl
  exact ⟨l', hl', by rw [hsame]⟩

theorem trims_modLaunch (s : State) (key : Nat) (k : Launch → Launch) (hk : ∀ l, (k l).state = l.state) : Trims s (modLaunch s key k) := by
  refine ⟨fun _ h => h, fun n l hl => ?_⟩
  rw [modLaunch_launches, mget?_mmod]
  by_cases h : n = key
  · subst h
    exact ⟨k l, by rw [if_pos rfl, hl]; rfl, hk l⟩
  · exact ⟨l, by rw [if_neg h, hl], rfl⟩

theorem trims_failObj (s : State) (pid cr : Nat) (va : DWord) : Trims s (failObj s pid cr va) := by
  unfold failObj
  split
  · split
    · exact trims_refl s
    · exact (tells_writeNat s _ _ _).trims
  · exact trims_refl s

theorem trims_ite (c : Prop) [Decidable c] {s t u : State} (h : Trims s t) (h' : Trims s u) : Trims s (if c then t else u) := by
  split
  · exact h
  · exact h'

theorem trims_deadFault (s : State) (pid launch : Nat) (a : AsyncFault) : Trims s (deadFault s pid launch a) := by
  have hmark : Trims s (markFault s (lkey pid launch) a.code a.detail a.pc) := trims_modLaunch s _ _ fun l => by split <;> rfl
  exact hmark.trans (tells_journal _ _ _ _ _ _ _ _).trims

theorem trims_asyncFault (s : State) (fid pid launch : Nat) (a : AsyncFault) : Trims s (asyncFault s fid pid launch a) := by
  unfold asyncFault
  exact trims_ite _ (trims_deadFault s pid launch a) (trims_of _ _ rfl rfl)

theorem trims_failOp (s : State) (fid pid launch core : Nat) (obj pc : DWord) (seq : Word) (status : Nat) :
    Trims s (failOp s fid pid launch core obj pc seq status) :=
  (trims_failObj s pid core obj).trans (trims_asyncFault _ _ _ _ _)

theorem trims_cutWork (s : State) (id : Nat) : Trims s (cutWork s id) := trims_of _ _ rfl rfl

theorem trims_modComm (s : State) (pid n : Nat) (k : Comm → Comm) : Trims s (modComm s pid n k) := trims_of _ _ rfl rfl

theorem trims_endColl (s : State) (pid n : Nat) (o : CollOp) (status : Nat) : Trims s (endColl s pid n o status) := by
  unfold endColl dropColl
  exact (((trims_modComm s pid n _).trans (trims_cutWork _ o.id)).trans (trims_failOp _ _ _ _ _ _ _ _ _)).trans (tells_send _ _).trims

theorem trims_endCbar (s : State) (pid n : Nat) (o : CbarOp) (status : Nat) : Trims s (endCbar s pid n o status) := by
  unfold endCbar dropCbar
  exact ((trims_modComm s pid n _).trans (trims_failOp _ _ _ _ _ _ _ _ _)).trans (tells_send _ _).trims

theorem trims_endGangOps (s : State) (gid : Nat) : Trims s (endGangOps s gid) := by
  refine trims_foldl _ (fun s x => ?_) _ s
  have hcolls := trims_foldl (fun s o => endColl s (x.1 / 256) (x.1 % 256) o 4) (fun s o => trims_endColl s _ _ o 4)
    (x.2.colls.filter fun o => o.gid == gid) s
  have hbars := trims_foldl (fun s o => endCbar s (x.1 / 256) (x.1 % 256) o 4) (fun s o => trims_endCbar s _ _ o 4)
    (x.2.cbars.filter fun o => o.gid == gid)
  exact (hcolls.trans (hbars _)).trans (trims_modComm _ _ _ _)

/-- A discarded gang is gone. -/
theorem discardGang_trims (s : State) (gid : Nat) : Trims s (discardGang s gid) ∧ mget? (discardGang s gid).gangs gid = none := by
  have hremove : Trims (endGangOps s gid) (removeGang (endGangOps s gid) gid) := by
    refine ⟨fun k hk => ?_, fun k l hl => ⟨l, hl, rfl⟩⟩
    show mget? (mdel _ gid) k = none
    rw [mget?_mdel]
    split
    · rfl
    · exact hk
  have hgone : mget? (removeGang (endGangOps s gid) gid).gangs gid = none := by
    show mget? (mdel _ gid) gid = none
    rw [mget?_mdel, if_pos rfl]
  have hboth := (trims_endGangOps s gid).trans hremove
  unfold discardGang
  dsimp only
  split
  · exact ⟨hboth.trans (trims_modLaunch _ _ _ fun _ => rfl), hgone⟩
  · exact ⟨hboth, hgone⟩

theorem discardGangs_trims (l : List (Nat × Gang)) (s : State) :
    let t := l.foldl (fun s g => discardGang s g.1) s
    Trims s t ∧ ∀ x ∈ l, mget? t.gangs x.1 = none := by
  induction l generalizing s with
  | nil => exact ⟨trims_refl s, fun x hx => by simp at hx⟩
  | cons y r ih =>
    obtain ⟨h1, h2⟩ := discardGang_trims s y.1
    obtain ⟨h3, h4⟩ := ih (discardGang s y.1)
    refine ⟨h1.trans h3, fun x hx => ?_⟩
    rcases List.mem_cons.1 hx with rfl | hx
    · exact h3.gone _ h2
    · exact h4 x hx

/-- A cancel whose gangs have stopped ends its launch. -/
theorem cancelComplete_ends (s : State) (pid launch : Nat) (l : Launch) (hl : mget? s.launches (lkey pid launch) = some l)
    (hc : l.cancel = true) (hst : l.state < 2) (hfrozen : frozen s pid = false)
    (hstopped : ∀ x ∈ launchGangs s pid launch, x.2.state = .saved ∨ collected s x.1 x.2 = true) :
    ∃ t l', exec (.cancelComplete pid launch) s = .next t ∧ mget? t.launches (lkey pid launch) = some l' ∧
      l'.state = (if l.fault.isSome then 4 else 3) ∧ ∀ x ∈ launchGangs s pid launch, mget? t.gangs x.1 = none := by
  let key := lkey pid launch
  let st := if l.fault.isSome then 4 else 3
  have h2 : 2 ≤ st := by
    show 2 ≤ if l.fault.isSome then 4 else 3
    split <;> decide
  let s1 := (launchGangs s pid launch).foldl (fun s g => discardGang s g.1) s
  obtain ⟨htrims, hgone⟩ := discardGangs_trims (launchGangs s pid launch) s
  obtain ⟨l1, hl1, hstate⟩ := htrims.stands key l hl
  obtain ⟨-, hgs, l2, hl2, hsame⟩ := finish_ends s1 key st l1 hl1 (by rw [hstate]; exact hst) h2
  have hl2st : l2.state = st := by rw [hsame]
  obtain ⟨-, hgs', l3, hl3, hsame3⟩ := treeStep_ended (finish s1 key st) pid launch none key l2 hl2 (by rw [hl2st]; exact h2)
  have hguard : (!l.cancel || decide (2 ≤ l.state) || frozen s pid ||
      !(launchGangs s pid launch).all fun g => g.2.state == .saved || collected s g.1 g.2) = false := by
    have hall : ((launchGangs s pid launch).all fun g => g.2.state == .saved || collected s g.1 g.2) = true :=
      List.all_eq_true.2 fun x hx => by simpa using hstopped x hx
    simp [hc, hst, hfrozen, hall]
  have hrun : exec (.cancelComplete pid launch) s =
      .next (if l.isRoot && l.retired == 0 then treeStep (finish s1 key st) pid launch none else finish s1 key st) := by
    show execCancelComplete pid launch s = _
    rw [execCancelComplete, hl]
    simp only [hguard, Bool.false_eq_true, if_false]
    rfl
  by_cases hroot : (l.isRoot && l.retired == 0) = true
  · rw [if_pos hroot] at hrun
    exact ⟨_, l3, hrun, hl3, by rw [hsame3]; exact hl2st, fun x hx => by rw [hgs', hgs]; exact hgone x hx⟩
  · rw [if_neg hroot] at hrun
    exact ⟨_, l2, hrun, hl2, hl2st, fun x hx => by rw [hgs]; exact hgone x hx⟩

/-- Settles O50, each clause by the lemma of its event. -/
theorem dispatching : Obligations.Dispatching := by
  refine ⟨?_, ?_, ?_, ?_, ?_⟩
  · intro s pid p o r hp hoffers hopen hfrozen hgraph hroot hlists hprio reason
    let u : State := { s with parts := mset s.parts pid { p with offers := r } }
    have hpu : part? u pid = some { p with offers := r } := mget?_mset_same _ _ _
    have hlist : ((o.queue.bind fun q => mget? s.queues q).elim 1 fun q => if q.lat then 0 else q.prio + 1) < u.global.length := by
      rw [show u.global.length = 5 from hlists]
      cases hq : o.queue with
      | none => simp
      | some k =>
        rw [Option.bind_some]
        cases hk : mget? s.queues k with
        | none => simp
        | some q =>
          have := hprio k q hq hk
          rw [Option.elim_some]
          split
          · decide
          · omega
    obtain ⟨p', l, h1, h2, h3, h4⟩ := accept_takes u pid _ o false (o.queue.bind fun q => mget? s.queues q).isSome _ hpu hgraph hroot hlist
    refine ⟨_, p', l, launchAccept_takes s pid p o r hp hoffers hopen hfrozen, h1, h2, h3.trans ?_, h4⟩
    simp [afterId]
  · intro s pid launch die n l d hl hd hhead hc key
    exact ⟨fun hr hdie h1 h64 hroom hleft => globalDispatch_hands s pid launch die n l d hl hd hhead hc hr hdie h1 h64 hroom hleft,
      fun hr s1 hall ⟨l1, hl1⟩ => globalDispatch_places s s1 pid launch die n l l1 d hl hd hhead hc hr hall hl1⟩
  · intro s die dd pid launch num rest l d quad off p hdd hlist hspot hpid hid hp
    subst hpid hid
    have hl : mget? s.launches (lkey l.pid l.id) = some l ∧ l.desc = some d := by
      unfold spot at hspot
      dsimp only at hspot
      split at hspot
      · exact absurd hspot (by simp)
      next m hm =>
        split at hspot
        · exact absurd hspot (by simp)
        next e he =>
          split at hspot
          · obtain ⟨q, -, hq⟩ := Option.map_eq_some_iff.1 hspot
            obtain ⟨rfl, rfl, -⟩ := Prod.mk.inj hq |>.imp_right Prod.mk.inj
            exact ⟨hm, he⟩
          · exact absurd hspot (by simp)
    obtain ⟨⟨l', hl', hplaced, hstate⟩, ⟨g, hg, hgang⟩, hflights⟩ := placeGang_places s l d num die quad off hl.1
    let s1 := placeGang s l d num die quad off
    refine ⟨{ s1 with dies := mset s1.dies die ⟨rest, 0, s.cycle⟩ }, l', g, ?_, mget?_mset_same _ _ _, hl', hplaced, hstate, hg,
      hgang.1, hgang.2.1, hgang.2.2.1, hgang.2.2.2.1, hgang.2.2.2.2.1, hgang.2.2.2.2.2.1, hgang.2.2.2.2.2.2, fun r i hr hi => ?_⟩
    · show execGangPlace die 0 s = _
      rw [execGangPlace, hdd]
      simp only [hlist, List.getElem?_cons_zero, List.head?_cons, hspot, beq_self_eq_true, if_true, List.drop_succ_cons, List.drop_zero]
      rfl
    · obtain ⟨u, hu, hfu⟩ := hflights r i hr hi
      have hpu : part? u l.pid = some p := by rw [part?, hu]; exact hp
      refine ⟨_, _, hfu, rfl, rfl, rfl, rfl, rfl, rfl, rfl, rfl, rfl, rfl, rfl, rfl, rfl, rfl, rfl, rfl, rfl, rfl, ?_, rfl, rfl, ?_, ?_⟩
      · show (part? u l.pid).elim 0 (·.desc.vector) = _
        rw [hpu]
        rfl
      · intro k _
        show mgetD (mput 0 [] 91 _) k 0 = _
        rw [mgetD_mput]
        rfl
      · intro k hk
        show (lanesOf _).getLsbD k = true ↔ _
        rw [getLsbD_lanesOf _ k hk]
        rfl
  · exact fun s gid g l hg hst hz hq hl hrun hpid hid => gangRetire_goes s gid g l hg hst hz hq hl hrun hpid hid
  · exact fun s pid launch l hl hc hst hz hstop => cancelComplete_ends s pid launch l hl hc hst hz hstop

end Sys2Proof.Machine
end

section
/-!
SUPPORT. The copy engines' units (05 R123-R142): what an engine's lookups leave, the writes of an operation that races with nothing, the
counting of its bytes, and the three events.
-/
namespace Sys2Proof.Machine

/-! ### What an engine's lookups leave -/

/-- Engines hold the same commands and armings, and the gangs are the same: what the lookups of an engine leave (04 R79, R86). -/
def LooksFor (s t : State) : Prop :=
  (∀ k, (engine t k).cmds = (engine s k).cmds ∧ (engine t k).arms = (engine s k).arms) ∧ t.gangs = s.gangs

theorem LooksFor.refl (s : State) : LooksFor s s := ⟨fun _ => ⟨rfl, rfl⟩, rfl⟩

theorem LooksFor.trans {s t u : State} (h : LooksFor s t) (h' : LooksFor t u) : LooksFor s u :=
  ⟨fun k => ⟨(h'.1 k).1.trans (h.1 k).1, (h'.1 k).2.trans (h.1 k).2⟩, h'.2.trans h.2⟩

theorem looksFor_holdTlb (s : State) (u : Option Nat) (x : TlbEntry) : LooksFor s (holdTlb s u x) := by
  cases u with
  | none => exact ⟨fun _ => ⟨rfl, rfl⟩, rfl⟩
  | some e =>
    refine ⟨fun k => ?_, rfl⟩
    rw [holdTlb, engine_modEngine]
    split
    · next h => exact h ▸ ⟨rfl, rfl⟩
    · exact ⟨rfl, rfl⟩

theorem looksFor_engLook (s : State) (g : Agent) (a : Acc) (va : DWord) : LooksFor s (engLook s g a va).2 := by
  rw [engLook]
  split
  · exact LooksFor.refl s
  · split
    · split
      · exact looksFor_holdTlb s _ _
      · exact LooksFor.refl s
    · exact LooksFor.refl s

theorem looksFor_spoilAt (s : State) (pid : Nat) (va : DWord) (n : Nat) : LooksFor s (spoilAt s pid va n) := by
  rw [spoilAt]
  split
  · exact LooksFor.refl s
  · exact ⟨fun _ => ⟨rfl, rfl⟩, rfl⟩

theorem looksFor_engKey (s : State) (g : Agent) (a : Acc) (n : Nat) (va : DWord) : LooksFor s (engKey s g a n va).2 := by
  have hlook := looksFor_engLook s g a va
  rw [engKey]
  split
  · exact LooksFor.refl s
  · split
    · split <;> exact LooksFor.refl s
    · split
      all_goals rename_i h; rw [h] at hlook
      · exact hlook
      · exact hlook
      · simp only
        split
        · exact hlook.trans (looksFor_spoilAt _ _ _ _)
        · exact hlook

theorem looksFor_engRead (s : State) (g : Agent) (va : DWord) (n : Nat) : LooksFor s (engRead s g va n).2 := by
  unfold engRead
  extract_lets part room
  have hpart (s : State) (va : DWord) (n : Nat) : LooksFor s (part s va n).2 := by
    have hkey := looksFor_engKey s g .read n va
    simp only [part]
    split
    all_goals rename_i h; rw [h] at hkey; exact hkey
  split
  · exact hpart s va n
  · have h1 := hpart s va room
    split
    · rename_i s1 h
      rw [h] at h1
      have h2 := hpart s1 (va + dw room) (n - room)
      split
      all_goals rename_i h'; rw [h'] at h2; exact h1.trans h2
    · rename_i h
      rw [h] at h1
      exact h1

theorem looksFor_engReads (s : State) (g : Agent) (l : List (DWord × Nat)) : LooksFor s (engReads s g l).2 := by
  induction l generalizing s with
  | nil => exact LooksFor.refl s
  | cons x r ih =>
    have h1 := looksFor_engRead s g x.1 x.2
    rw [engReads]
    split
    · rename_i h
      rw [h] at h1
      exact h1
    · rename_i s1 h
      rw [h] at h1
      have h2 := ih s1
      split
      all_goals rename_i h'; rw [h'] at h2; exact h1.trans h2

theorem looksFor_engPut (s : State) (g : Agent) (va : DWord) (bs : List Byte) : LooksFor s (engPut s g va bs).2 := by
  unfold engPut
  extract_lets part room
  have hpart (s : State) (va : DWord) (bs : List Byte) : LooksFor s (part s va bs).2 := by
    have hkey := looksFor_engKey s g .write bs.length va
    simp only [part]
    split
    all_goals rename_i h; rw [h] at hkey; exact hkey
  split
  · exact hpart s va bs
  · have h1 := hpart s va (bs.take room)
    split
    · rename_i s1 h
      rw [h] at h1
      have h2 := hpart s1 (va + dw room) (bs.drop room)
      split
      all_goals rename_i h'; rw [h'] at h2; exact h1.trans h2
    · rename_i h
      rw [h] at h1
      exact h1

theorem looksFor_engPuts (s : State) (g : Agent) (l : List (DWord × List Byte)) : LooksFor s (engPuts s g l).2 := by
  induction l generalizing s with
  | nil => exact LooksFor.refl s
  | cons x r ih =>
    have h1 := looksFor_engPut s g x.1 x.2
    rw [engPuts]
    split
    · rename_i h
      rw [h] at h1
      exact h1
    · rename_i s1 h
      rw [h] at h1
      have h2 := ih s1
      split
      all_goals rename_i h'; rw [h'] at h2; exact h1.trans h2

/-! ### The writes of a command's elements -/

/-- What an engine has prepared for a command: its lookups leave the rest as it was, and each write of a broadcast goes to a slice of its
gang (05 R136). -/
def Prepares (s : State) (x : Cmd) (r : Got (List Put) × State) : Prop :=
  LooksFor s r.2 ∧ (x.kind = .cpyb → ∀ ps, r.1 = .got ps → ∀ p ∈ ps, p.key ∈ everySlice s x.gid p.va)

theorem prepares_stop {s s1 : State} (x : Cmd) (code kind : Nat) (a : Acc) (va : DWord) (h : LooksFor s s1) :
    Prepares s x (.stop code kind a va, s1) :=
  ⟨h, fun _ _ hg => nomatch hg⟩

theorem everySlice_congr (s t : State) (gid : Nat) (va : DWord) (h : t.gangs = s.gangs) : everySlice t gid va = everySlice s gid va := by
  rw [everySlice, h, everySlice]

theorem Prepares.after {s s1 : State} {x : Cmd} {r : Got (List Put) × State} (h : LooksFor s s1) (hr : Prepares s1 x r) : Prepares s x r :=
  ⟨h.trans hr.1, fun hk ps hg p hp => everySlice_congr s s1 x.gid p.va h.2 ▸ hr.2 hk ps hg p hp⟩

theorem prepares_castPuts (s : State) (x : Cmd) (va : DWord) (bs : List Byte) : Prepares s x (castPuts s x va bs, s) := by
  rw [castPuts]
  split
  · exact prepares_stop x _ _ _ _ (LooksFor.refl s)
  · refine ⟨LooksFor.refl s, fun _ ps hg p hp => ?_⟩
    cases hg
    obtain ⟨k, hk, rfl⟩ := List.mem_map.1 hp
    exact hk

theorem prepares_put (s : State) (g : Agent) (x : Cmd) (va : DWord) (bs : List Byte) :
    Prepares s x (if x.kind == .cpyb then (castPuts s x va bs, s) else engPut s g va bs) := by
  split
  · exact prepares_castPuts s x va bs
  · next h => exact ⟨looksFor_engPut s g va bs, fun hk => absurd (beq_iff_eq.2 hk) h⟩

theorem prepares_element (s : State) (g : Agent) (x : Cmd) (k : Nat) : Prepares s x (element s g x k) := by
  unfold element
  extract_lets copy j q rows
  have hcopy (s : State) (l : List Source) (unit : Nat) (src : List (DWord × Nat)) (dst : DWord) (conv : List (List Byte) → List Byte) :
      Prepares s x (copy s l unit src dst conv) := by
    have h1 := looksFor_engReads s g src
    simp only [copy]
    split
    · rename_i h
      rw [h] at h1
      exact prepares_stop x _ _ _ _ h1
    · rename_i bs s1 h
      rw [h] at h1
      have h2 := prepares_put s1 g x dst (conv bs)
      split
      · rename_i h'
        rw [h'] at h2
        exact Prepares.after h1 h2
      · rename_i ps s2 h'
        rw [h'] at h2
        refine Prepares.after h1 ⟨h2.1, fun hk qs hg p hp => ?_⟩
        cases hg
        obtain ⟨q, hq, rfl⟩ := List.mem_map.1 hp
        exact h2.2 hk ps rfl q hq
  have hrows (b : Bool) : Prepares s x (rows b) := by
    simp only [rows]
    have h1 := looksFor_engRead s g (listAt x.par (k / rowChunks x.par)) 4
    split
    · rename_i h
      rw [h] at h1
      exact prepares_stop x _ _ _ _ h1
    · rename_i ix s1 h
      rw [h] at h1
      split
      · exact Prepares.after h1 (hcopy _ _ _ _ _ _)
      · exact Prepares.after h1 (hcopy _ _ _ _ _ _)
  split
  · exact hrows false
  · exact hrows true
  · exact hcopy _ _ _ _ _ _

theorem prepares_elements (g : Agent) (x : Cmd) (n : Nat) (s : State) (k : Nat) : Prepares s x (elements g x n s k) := by
  induction n generalizing s k with
  | zero => exact ⟨LooksFor.refl s, fun _ ps hg p hp => by cases hg; cases hp⟩
  | succ n ih =>
    have h1 := prepares_element s g x k
    rw [elements]
    split
    · rename_i h
      rw [h] at h1
      exact h1
    · rename_i ps s1 h
      rw [h] at h1
      have h2 := Prepares.after h1.1 (ih s1 (k + 1))
      split
      · rename_i h'
        rw [h'] at h2
        exact h2
      · rename_i qs s2 h'
        rw [h'] at h2
        refine ⟨h2.1, fun hk rs hg p hp => ?_⟩
        cases hg
        obtain hp | hp := List.mem_append.1 hp
        · exact h1.2 hk ps rfl p hp
        · exact h2.2 hk qs rfl p hp

/-! ### Writes and what they leave -/

theorem readByte_writeAll_off (s : State) (ws : List (Nat × List Byte)) (a : Nat) (h : ∀ w ∈ ws, a < w.1 ∨ w.1 + w.2.length ≤ a) :
    readByte (writeAll s ws) a = readByte s a := by
  induction ws generalizing s with
  | nil => rfl
  | cons w r ih =>
    have hw := h w (by simp)
    refine (ih (writeBytes s w.1 w.2) fun x hx => h x (by simp [hx])).trans ?_
    rw [readByte_writeBytes, if_neg (by omega)]

theorem memorySame_writeBytes {s t : State} (h : MemorySame s t) (a : Nat) (bs : List Byte) :
    MemorySame (writeBytes s a bs) (writeBytes t a bs) := fun k => by
  rw [readByte_writeBytes, readByte_writeBytes, h k]

theorem memorySame_writeAll {s t : State} (h : MemorySame s t) (ws : List (Nat × List Byte)) :
    MemorySame (writeAll s ws) (writeAll t ws) := by
  induction ws generalizing s t with
  | nil => exact h
  | cons w r ih => exact ih (memorySame_writeBytes h w.1 w.2)

theorem writeAll_append (s : State) (ws vs : List (Nat × List Byte)) : writeAll s (ws ++ vs) = writeAll (writeAll s ws) vs :=
  List.foldl_append

theorem readNat_congr (s t : State) (a n : Nat) (h : ∀ k, a ≤ k → k < a + n → readByte t k = readByte s k) : readNat t a n = readNat s a n := by
  rw [readNat, readNat, readBytes, readBytes]
  exact congrArg natOfBytes (List.map_congr_left fun i hi => h (a + i) (by omega) (by have := List.mem_range.1 hi; omega))

/-- `t` is the machine after some writes to memory, but for the operations of engines, full bits and draws. -/
structure Wrote (s : State) (ws : List (Nat × List Byte)) (t : State) : Prop where
  memory  : MemorySame (writeAll s ws) t
  engines : t.engines = s.engines
  flights : t.flights = s.flights
  gangs   : t.gangs = s.gangs
  parts   : t.parts = s.parts
  poison  : t.poison = s.poison

theorem wrote_nil (s : State) : Wrote s [] s := ⟨fun _ => rfl, rfl, rfl, rfl, rfl, rfl⟩

theorem Wrote.trans {s t u : State} {ws vs : List (Nat × List Byte)} (h : Wrote s ws t) (h' : Wrote t vs u) : Wrote s (ws ++ vs) u :=
  ⟨fun a => (h'.memory a).trans (by rw [writeAll_append]; exact memorySame_writeAll h.memory vs a), h'.engines.trans h.engines,
    h'.flights.trans h.flights, h'.gangs.trans h.gangs, h'.parts.trans h.parts, h'.poison.trans h.poison⟩

theorem wrote_writeAll (s : State) (ws : List (Nat × List Byte)) : Wrote s ws (writeAll s ws) := by
  induction ws generalizing s with
  | nil => exact wrote_nil s
  | cons w r ih =>
    have h : Wrote s [w] (writeBytes s w.1 w.2) := ⟨fun _ => rfl, by simp, by simp, by simp, by simp, by simp⟩
    exact h.trans (ih (writeBytes s w.1 w.2))

theorem noWaiters_congr {s t : State} {o : Nat} (he : t.engines = s.engines) (hf : t.flights = s.flights) (h : NoWaiters s o) :
    NoWaiters t o := by
  rw [NoWaiters, he, hf]
  exact h

theorem cmdObjs_congr (s t : State) (x : Cmd) (hg : t.gangs = s.gangs) (hp : t.parts = s.parts) : cmdObjs t x = cmdObjs s x := by
  have hkey : objKey t x.pid x.core x.obj = objKey s x.pid x.core x.obj := by
    unfold objKey windowKey ownsCore part?
    rw [hp]
  rw [cmdObjs, cmdObjs, hkey, everySlice_congr s t x.gid x.obj hg]

/-! ### Writes that race with nothing (05 R132, R133) -/

/-- No write of an operation touches what a program has written since its issue, or what another operation has written. -/
def Calm (s : State) (id : Nat) (ps : List Put) : Prop :=
  ∀ w ∈ s.work, ∀ p ∈ ps,
    (w.id = id → ∀ h ∈ w.hits, touch h.1 h.2 p.key p.bytes.length = false ∧ ∀ y ∈ p.src, touch h.1 h.2 y.key y.n = false) ∧
    (w.id ≠ id → ∀ v ∈ w.wrote, touch v.1 v.2.1 p.key p.bytes.length = false)

/-- The writes of some puts. -/
def writesOf (ps : List Put) : List (Nat × List Byte) := ps.map fun p => (p.key, p.bytes)

theorem doPuts_clean (s : State) (ps : List Put) (h : s.poison = []) : doPuts s ps = writeAll s (writesOf ps) := by
  rw [doPuts, if_pos (by rw [h]; rfl), writeAll, writesOf, List.foldl_map]

theorem getD_getElem {α : Type} (l : List α) {i : Nat} (a : α) (h : i < l.length) : l.getD i a = l[i] := by
  rw [List.getD_eq_getElem?_getD, List.getElem?_eq_getElem h, Option.getD_some]

theorem oneOf_calm {s : State} {id : Nat} {ps : List Put} (hc : Calm s id ps) (began : Nat) (p : Put) (hp : p ∈ ps) :
    oneOf s id began p = p := by
  suffices h : (oneOf s id began p).bytes = p.bytes by
    rw [show oneOf s id began p = { p with bytes := (oneOf s id began p).bytes } from rfl, h]
  simp only [oneOf]
  refine List.ext_getElem (by simp) fun i hi hi' => ?_
  rw [List.getElem_map, List.getElem_range, if_neg]
  · exact getD_getElem _ _ hi'
  · intro hany
    obtain ⟨w, hw, hin⟩ := List.any_eq_true.1 hany
    obtain ⟨hw, hbeside⟩ := List.mem_filter.1 hw
    obtain ⟨hv, -⟩ := Bool.and_eq_true_iff.1 hin
    obtain ⟨v, hv, hcover⟩ := List.any_eq_true.1 hv
    have hne : w.id ≠ id := by
      rw [Work.beside, Bool.and_eq_true, Bool.and_eq_true, bne_iff_ne] at hbeside
      exact hbeside.1.1
    have htouch := (hc w hw p hp).2 hne v hv
    rw [Bool.and_eq_true, decide_eq_true_eq, decide_eq_true_eq] at hcover
    rw [touch, Bool.and_eq_false_iff, decide_eq_false_iff_not, decide_eq_false_iff_not] at htouch
    omega

theorem loseHit_apart (key len : Nat) (src : List Source) (s : State) (h : Nat × Nat) (hk : touch h.1 h.2 key len = false)
    (hs : ∀ y ∈ src, touch h.1 h.2 y.key y.n = false) : loseHit key len src s h = s := by
  rw [loseHit, hk]
  refine foldl_fixed _ _ _ fun y hy => ?_
  rw [show y.lost h key len = none by rw [Source.lost, hs y hy]; rfl]

theorem loseRaced_calm {s : State} {ps : List Put} (w : Work) (hw : w ∈ s.work) (hc : Calm s w.id ps) (t : State) (p : Put) (hp : p ∈ ps) :
    loseRaced w t p = t := by
  refine foldl_fixed _ _ _ fun h hh => ?_
  obtain ⟨hkey, hsrc⟩ := (hc w hw p hp).1 rfl h hh
  exact loseHit_apart _ _ _ _ h hkey hsrc

theorem wrote_workPuts (s : State) (id : Nat) (ps : List Put) (hpoison : s.poison = []) (hc : Calm s id ps) :
    Wrote s (writesOf ps) (workPuts s id ps) := by
  have hw := wrote_writeAll s (writesOf ps)
  rw [workPuts]
  split
  · rwa [doPuts_clean s ps hpoison]
  · next w hfind =>
    have hmem := List.mem_of_find?_eq_some hfind
    have hid : w.id = id := by simpa using List.find?_some hfind
    subst hid
    have hone (began : Nat) : ps.map (oneOf s w.id began) = ps := by
      exact (List.map_congr_left (g := id) fun p hp => oneOf_calm hc began p hp).trans (List.map_id ps)
    have hlose : ps.foldl (loseRaced w) (writeAll s (writesOf ps)) = writeAll s (writesOf ps) :=
      foldl_fixed _ _ _ fun p hp => loseRaced_calm w hmem hc _ p hp
    simp only [hone, doPuts_clean s ps hpoison, hlose]
    exact ⟨hw.memory, hw.engines, hw.flights, hw.gangs, hw.parts, hw.poison⟩

theorem wrote_setFull (s : State) (a : Nat) (b : Bool) : Wrote s [] (setFull s a b) := ⟨fun _ => rfl, rfl, rfl, rfl, rfl, rfl⟩

/-- Marking granules full changes no byte. -/
theorem wrote_foldl_full (fills : State → Put → Bool) (ps : List Put) (s : State) :
    Wrote s [] (ps.foldl (fun s p => if fills s p then setFull s p.key true else s) s) := by
  induction ps generalizing s with
  | nil => exact wrote_nil s
  | cons p r ih =>
    rw [List.foldl_cons]
    split
    · exact (wrote_setFull s p.key true).trans (ih _)
    · exact ih s

theorem wrote_fillGranules (s : State) (x : Cmd) (upto : Nat) (ps : List Put) : Wrote s [] (fillGranules s x upto ps) := by
  rw [fillGranules]
  split
  · exact wrote_nil s
  · exact wrote_foldl_full (fun s p => isScratch p.key && !granuleOpen s x upto p) ps s

/-! ### Counting bytes into objects (05 R117, R136) -/

theorem updatedObject_congr (s t : State) (o eb ab n : Nat) (h : ∀ k, o ≤ k → k < o + 16 → readByte t k = readByte s k) :
    updatedObject t o eb ab n = updatedObject s o eb ab n := by
  have hread (i w : Nat) (hi : i + w ≤ 16) : readNat t (o + i) w = readNat s (o + i) w :=
    readNat_congr s t (o + i) w fun k h1 h2 => h k (by omega) (by omega)
  have h0 : readNat t o 4 = readNat s o 4 := hread 0 4 (by omega)
  simp only [updatedObject, h0, hread 4 4 (by omega), hread 8 2 (by omega), hread 10 2 (by omega), hread 12 4 (by omega)]

/-- Bytes counted into an object that nothing waits for and whose arrivals fit. -/
theorem countBytes_counts (s : State) (o n : Nat) (hp : poisonedIn s o 16 = false) (hw : NoWaiters s o)
    (hroom : readNat s (o + 10) 2 ≤ readNat s (o + 8) 2) :
    ∃ t, countBytes s o n = (none, t) ∧ Wrote s [(o, updatedObject s o 0 n 0)] t := by
  obtain ⟨ws, hws⟩ := boUpdate_counts s o 0 n 0 hroom hw
  refine ⟨{ writeBytes s o (updatedObject s o 0 n 0) with work := ws }, ?_, ?_⟩
  · rw [countBytes, hp, hws]
    rfl
  · have h := wrote_writeAll s [(o, updatedObject s o 0 n 0)]
    exact ⟨h.memory, h.engines, h.flights, h.gangs, h.parts, h.poison⟩

/-- The objects after some bytes are counted into each. -/
def countedObjects (s : State) (n : Nat) (os : List Nat) : List (Nat × List Byte) := os.map fun o => (o, updatedObject s o 0 n 0)

theorem countedObjects_congr (s t : State) (n : Nat) (os : List Nat)
    (h : ∀ o ∈ os, ∀ k, o ≤ k → k < o + 16 → readByte t k = readByte s k) : countedObjects t n os = countedObjects s n os :=
  List.map_congr_left fun o ho => by rw [updatedObject_congr s t o 0 n 0 (h o ho)]

/-- One object of a command's count: the first failure stops it. -/
def countStep (e : Nat) (x : Cmd) (n : Nat) (r : State × Bool) (o : Nat) : State × Bool :=
  if r.2 then r
  else
    match countBytes r.1 o n with
    | (none, s1) => (s1, false)
    | (some code, s1) => (stopCmd s1 e x code x.obj, true)

theorem countAll_eq (s : State) (e : Nat) (x : Cmd) (n : Nat) : countAll s e x n = (cmdObjs s x).foldl (countStep e x n) (s, false) := rfl

theorem countStep_counts (e : Nat) (x : Cmd) (n : Nat) (os : List Nat) (s : State) (hpoison : s.poison = [])
    (hapart : os.Pairwise fun o k => o + 16 ≤ k ∨ k + 16 ≤ o) (hw : ∀ o ∈ os, NoWaiters s o)
    (hroom : ∀ o ∈ os, readNat s (o + 10) 2 ≤ readNat s (o + 8) 2) :
    ∃ t, os.foldl (countStep e x n) (s, false) = (t, false) ∧ Wrote s (countedObjects s n os) t := by
  induction os generalizing s with
  | nil => exact ⟨s, rfl, wrote_nil s⟩
  | cons o r ih =>
    obtain ⟨hfirst, hapart⟩ := List.pairwise_cons.1 hapart
    obtain ⟨s1, hs1, h1⟩ := countBytes_counts s o n (by rw [poisonedIn, hpoison]; rfl) (hw o (by simp)) (hroom o (by simp))
    have hsame (k : Nat) (hk : k < o ∨ o + 16 ≤ k) : readByte s1 k = readByte s k :=
      (h1.memory k).trans (readByte_writeAll_off s _ k fun w hw => by
        rw [List.mem_singleton.1 hw]
        show k < o ∨ o + (updatedObject s o 0 n 0).length ≤ k
        rwa [length_updatedObject])
    have hobj (k : Nat) (hk : k ∈ r) (i : Nat) (h1 : k ≤ i) (h2 : i < k + 16) : readByte s1 i = readByte s i :=
      hsame i (by have := hfirst k hk; omega)
    have hnat (k : Nat) (hk : k ∈ r) (i w : Nat) (hi : i + w ≤ 16) : readNat s1 (k + i) w = readNat s (k + i) w :=
      readNat_congr s s1 (k + i) w fun j h1 h2 => hobj k hk j (by omega) (by omega)
    obtain ⟨t, ht, h2⟩ := ih s1 (h1.poison.trans hpoison) hapart
      (fun k hk => noWaiters_congr h1.engines h1.flights (hw k (by simp [hk])))
      (fun k hk => by rw [hnat k hk 10 2 (by omega), hnat k hk 8 2 (by omega)]; exact hroom k (by simp [hk]))
    refine ⟨t, ?_, ?_⟩
    · rw [List.foldl_cons, ← ht]
      congr 1
      simp only [countStep, hs1]
      rfl
    · rw [countedObjects_congr s s1 n r hobj] at h2
      exact h1.trans h2

theorem countAll_counts (s : State) (e : Nat) (x : Cmd) (n : Nat) (hpoison : s.poison = [])
    (hapart : (cmdObjs s x).Pairwise fun o k => o + 16 ≤ k ∨ k + 16 ≤ o) (hw : ∀ o ∈ cmdObjs s x, NoWaiters s o)
    (hroom : ∀ o ∈ cmdObjs s x, readNat s (o + 10) 2 ≤ readNat s (o + 8) 2) :
    ∃ t, countAll s e x n = (t, false) ∧ Wrote s (countedObjects s n (cmdObjs s x)) t := by
  rw [countAll_eq]
  exact countStep_counts e x n (cmdObjs s x) s hpoison hapart hw hroom

/-! ### Commands of an engine -/

theorem cmd?_congr (s t : State) (e id : Nat) (h : (engine t e).cmds = (engine s e).cmds) : cmd? t e id = cmd? s e id := by
  rw [cmd?, h, cmd?]

theorem find?_map_id (l : List Cmd) (id : Nat) (k : Cmd → Cmd) (hk : ∀ x, (k x).id = x.id) :
    (l.map fun c => if c.id == id then k c else c).find? (fun c => c.id == id) = (l.find? fun c => c.id == id).map k := by
  induction l with
  | nil => rfl
  | cons x r ih =>
    rw [List.map_cons, List.find?_cons, List.find?_cons]
    cases hx : x.id == id with
    | true =>
      rw [if_pos rfl, hk, hx]
      rfl
    | false => rw [if_neg (by simp), hx, ih]

theorem cmd?_modCmd (s : State) (e id : Nat) (k : Cmd → Cmd) (hk : ∀ x, (k x).id = x.id) :
    cmd? (modCmd s e id k) e id = (cmd? s e id).map k := by
  rw [cmd?, modCmd, engine_modEngine, if_pos rfl]
  exact find?_map_id _ id k hk

theorem cmd?_endCmd (s : State) (e id : Nat) : cmd? (endCmd s e id) e id = none := by
  have h : engine (endCmd s e id) e = engine (dropCmd s e id) e := rfl
  rw [cmd?, h, dropCmd, engine_modEngine, if_pos rfl, List.find?_eq_none]
  intro x hx
  simpa using (List.mem_filter.1 hx).2

theorem noWaiters_modEngine {s : State} (e : Nat) (k : Engine → Engine) (hk : ∀ x, (k x).arms = x.arms) {o : Nat} (h : NoWaiters s o) :
    NoWaiters (modEngine s e k) o := by
  refine ⟨fun x hx a ha => ?_, h.2⟩
  obtain rfl | hx := mset_mem _ _ _ _ hx
  · rw [hk] at ha
    rw [engine, mgetD] at ha
    cases hg : mget? s.engines e with
    | none => rw [hg] at ha; cases ha
    | some y => rw [hg] at ha; exact h.1 _ (mem_of_mget? _ _ _ hg) a ha
  · exact h.1 x hx a ha

theorem noWaiters_modCmd {s : State} (e id : Nat) (k : Cmd → Cmd) {o : Nat} (h : NoWaiters s o) : NoWaiters (modCmd s e id k) o :=
  noWaiters_modEngine e _ (by intro; rfl) h

/-! ### A unit of a copy -/

section
variable (s s1 : State) (e id : Nat) (x : Cmd) (ps : List Put) (hx : cmd? s e id = some x) (hfill : x.kind ≠ .sqfill)
  (hst : x.kind ≠ .accst) (hstall : x.stall = none) (hruns : unitRuns s x.pid x.gid .copy = true) (hdone : issuerDone s x = true)
  (hstart : startsNow (engine s e) x = true)

include hx in
theorem id_of_cmd? : x.id = id := by simpa using List.find?_some hx

include hx hfill hst hstall hruns hdone hstart in
theorem copyUnitDone_moves : exec (.copyUnitDone e id) s = .next (moveUnit s e x) := by
  show execCopyUnitDone e id s = _
  rw [execCopyUnitDone, hx]
  simp only [hstall, hruns, hdone, hstart, beq_false_of_ne hfill, beq_false_of_ne hst]
  rfl

/-- The elements of the next unit. -/
def unitSize (x : Cmd) : Nat := min (4096 / stepBytes x.kind x.par) (x.total - x.done)

/-- A command after its next unit. -/
def afterUnit (x : Cmd) : Cmd := { x with done := x.done + unitSize x }

include hx in
/-- A unit that meets no condition: the machine `t` with its writes made, its command moved on and its bytes counted. -/
theorem moveUnit_moves (hel : elements (x.agent e) x (unitSize x) s x.done = (.got ps, s1)) (hbad : badPut s1 ps = none)
    (hpoison : s1.poison = []) (hapart : (cmdObjs s1 x).Pairwise fun o k => o + 16 ≤ k ∨ k + 16 ≤ o)
    (hw : ∀ o ∈ cmdObjs s1 x, NoWaiters s1 o) (hc : Calm s1 id ps)
    (hroom : ∀ o ∈ cmdObjs s1 x, readNat (writeAll s1 (writesOf ps)) (o + 10) 2 ≤ readNat (writeAll s1 (writesOf ps)) (o + 8) 2) :
    ∃ t, moveUnit s e x = (if x.done + unitSize x = x.total then endCmd t e id else t) ∧
      MemorySame (writeAll (writeAll s1 (writesOf ps))
        (countedObjects (writeAll s1 (writesOf ps)) (unitSize x * stepBytes x.kind x.par) (cmdObjs s1 x))) t ∧
      cmd? t e id = some (afterUnit x) := by
  obtain ⟨w, hwdef⟩ : ∃ w, w = writeAll s1 (writesOf ps) := ⟨_, rfl⟩
  rw [← hwdef] at hroom ⊢
  have hid : x.id = id := id_of_cmd? s e id x hx
  have hcmd1 : cmd? s1 e id = some x := by
    have hl := (prepares_elements (x.agent e) x (unitSize x) s x.done).1
    rw [hel] at hl
    rw [cmd?_congr s s1 e id (hl.1 e).1, hx]
  obtain ⟨s2, hs2⟩ : ∃ s2, s2 = fillGranules (workPuts s1 id ps) x (x.done + unitSize x) ps := ⟨_, rfl⟩
  have h2 : Wrote s1 (writesOf ps ++ []) s2 := hs2 ▸ (wrote_workPuts s1 id ps hpoison hc).trans (wrote_fillGranules _ x _ ps)
  rw [List.append_nil] at h2
  obtain ⟨s3, hs3⟩ : ∃ s3, s3 = modCmd s2 e id fun y => { y with done := y.done + unitSize x } := ⟨_, rfl⟩
  have hmem3 : MemorySame w s3 := fun a => by rw [hs3, hwdef]; exact h2.memory a
  have hobjs : cmdObjs s3 x = cmdObjs s1 x := cmdObjs_congr s1 s3 x (by rw [hs3]; exact h2.gangs) (by rw [hs3]; exact h2.parts)
  have hcmd3 : cmd? s3 e id = some (afterUnit x) := by
    have hc2 := cmd?_congr s1 s2 e id (congrArg Engine.cmds (engine_congr s1 s2 e h2.engines))
    rw [hs3, cmd?_modCmd s2 e id _ (by intro; rfl), hc2, hcmd1]
    rfl
  have hnat (a n : Nat) : readNat s3 a n = readNat w a n := readNat_congr w s3 a n fun k _ _ => hmem3 k
  obtain ⟨t, ht, h4⟩ := countAll_counts s3 e x (unitSize x * stepBytes x.kind x.par) (by rw [hs3]; exact h2.poison.trans hpoison)
    (by rw [hobjs]; exact hapart)
    (by
      rw [hobjs, hs3]
      exact fun o ho => noWaiters_modCmd e id _ (noWaiters_congr h2.engines h2.flights (hw o ho)))
    (by rw [hobjs]; exact fun o ho => by rw [hnat, hnat]; exact hroom o ho)
  rw [hobjs, countedObjects_congr w s3 _ _ fun o _ k _ _ => hmem3 k] at h4
  refine ⟨t, ?_, fun a => (h4.memory a).trans (memorySame_writeAll hmem3 _ a), ?_⟩
  · rw [moveUnit]
    simp only [show elements (x.agent e) x (min (4096 / stepBytes x.kind x.par) (x.total - x.done)) s x.done = (.got ps, s1) from hel, hbad,
      hid]
    show (match countAll (modCmd (fillGranules (workPuts s1 id ps) x (x.done + unitSize x) ps) e id
      fun y => { y with done := y.done + unitSize x }) e x (unitSize x * stepBytes x.kind x.par) with
      | (s4, true) => s4
      | (s4, false) => if (x.done + unitSize x == x.total) = true then endCmd s4 e id else s4) = _
    rw [← hs2, ← hs3, ht]
    simp only [beq_iff_eq]
  · rw [cmd?_congr s3 t e id (congrArg Engine.cmds (engine_congr s3 t e h4.engines)), hcmd3]

/-- Recording a page fault changes no engine. -/
theorem recordFault_engines (s : State) (pid block bitmap kinds : Nat) : (recordFault s pid block bitmap kinds).engines = s.engines := by
  rw [recordFault]
  split
  · rfl
  · simp only
    split
    · split
      · rfl
      · simp [writeNat]
    · split
      · simp
      · rfl

theorem recordFaults_engines (s : State) (pid : Nat) (a : Acc) (sup : Bool) (l : List (Nat × Nat)) :
    (recordFaults s pid a sup l).engines = s.engines := by
  rw [recordFaults]
  generalize (l.map fun x => x.1 / 2 ^ 22).eraseDups = bs
  induction bs generalizing s with
  | nil => rfl
  | cons b r ih => exact (ih _).trans (recordFault_engines _ _ _ _ _)

include hx in
theorem moveUnit_stalls (kind : Nat) (a : Acc) (va : DWord)
    (hel : elements (x.agent e) x (unitSize x) s x.done = (.stop 0x0B kind a va, s1)) (hfr : frEnabled s1 x.pid = true)
    (hx1 : cmd? s1 e id = some x) : cmd? (moveUnit s e x) e id = some { x with stall := some va } := by
  have hid : x.id = id := id_of_cmd? s e id x hx
  have hmove : moveUnit s e x = recordFaults (modCmd s1 e id fun y => { y with stall := some va }) x.pid a x.sup [(va.toNat, kind)] := by
    rw [moveUnit]
    simp only [show elements (x.agent e) x (min (4096 / stepBytes x.kind x.par) (x.total - x.done)) s x.done = (.stop 0x0B kind a va, s1)
      from hel, haltCmd, hfr, hid]
    rfl
  rw [hmove, cmd?_congr (modCmd s1 e id fun y => { y with stall := some va }) _ e id
    (congrArg Engine.cmds (engine_congr _ _ e (recordFaults_engines _ _ _ _ _))), cmd?_modCmd s1 e id _ (by intro; rfl), hx1]
  rfl

end

/-! ### A firing and a scale fill -/

theorem find?_lowered (l : List Arm) (id : Nat) :
    (l.map fun b => if b.id == id then { b with queued := b.queued - 1 } else b).find? (fun y => y.id = id) =
      (l.find? fun y => y.id = id).map fun b => { b with queued := b.queued - 1 } := by
  induction l with
  | nil => rfl
  | cons x r ih =>
    rw [List.map_cons, List.find?_cons, List.find?_cons]
    by_cases hx : x.id = id
    · rw [if_pos (beq_iff_eq.2 hx), show decide (x.id = id) = true from decide_eq_true hx]
      simp [hx]
    · rw [if_neg (by simpa using hx), show decide (x.id = id) = false from decide_eq_false hx, ih]

/-- What is left of the armings after a firing of one: one that fires at every flip has one firing less queued, and one that fires once is
gone (05 R141). -/
def firedArms (l : List Arm) (id : Nat) (every : Bool) : List Arm :=
  if every then l.map fun b => if b.id == id then { b with queued := b.queued - 1 } else b else l.filter fun b => b.id != id

theorem find?_firedArms (l : List Arm) (id : Nat) (x : Arm) (h : l.find? (fun y => y.id = id) = some x) :
    (firedArms l id x.every).find? (fun y => y.id = id) = if x.every then some { x with queued := x.queued - 1 } else none := by
  rw [firedArms]
  split
  · rw [find?_lowered, h]
    rfl
  · rw [List.find?_eq_none]
    intro y hy
    simpa using (List.mem_filter.1 hy).2

/-- The command of a firing. -/
def firedCmd (s : State) (arm : Nat) (x : Arm) : Cmd := { x.cmd with id := s.nextId, firing := some arm }

theorem cpytFiring_fires (s : State) (e arm : Nat) (x : Arm) (hx : (engine s e).arms.find? (fun y => y.id = arm) = some x)
    (hq : x.queued ≠ 0) (hruns : unitRuns s x.cmd.pid x.cmd.gid .copy = true)
    (hnone : ∀ y ∈ (engine s e).cmds, y.firing ≠ some arm) :
    exec (.cpytFiring e arm) s = .next (modEngine (giveCmd { s with nextId := s.nextId + 1 } e (firedCmd s arm x)) e fun y =>
      { y with arms := firedArms y.arms arm x.every }) := by
  have hfind : (engine s e).arms.find? (fun a => a.id == arm) = some x := hx
  have hany : ((engine s e).cmds.any fun c => c.firing == some arm) = false :=
    List.any_eq_false.2 fun y hy => by simpa using hnone y hy
  show execCpytFiring e arm s = _
  rw [execCpytFiring, hfind]
  simp only [beq_false_of_ne hq, hruns, hany]
  rfl

theorem noWaiters_modFlight {s : State} (n : Nat) (f : Flight) (k : Flight → Flight) (hf : flight? s n = some f)
    (hk : (k f).asyncR = f.asyncR) {o : Nat} (h : NoWaiters s o) : NoWaiters (modFlight s n k) o := by
  refine ⟨h.1, fun x hx a ha => ?_⟩
  have hx : x ∈ mmod s.flights n k := hx
  rw [mmod, show mget? s.flights n = some f from hf] at hx
  obtain rfl | hx := mset_mem _ _ _ _ hx
  · rw [hk] at ha
    exact h.2 _ (mem_of_mget? _ _ _ hf) a ha
  · exact h.2 x hx a ha

/-- A scale fill whose flight has room: the machine `t` with its record pushed and counted (05 R142). -/
theorem sqfillPush_pushes (s s1 : State) (e id o : Nat) (x : Cmd) (f : Flight) (b : List Byte) (hx : cmd? s e id = some x)
    (hfill : x.kind = .sqfill) (hstall : x.stall = none) (hruns : unitRuns s x.pid x.gid .copy = true) (hdone : issuerDone s x = true)
    (hstart : startsNow (engine s e) x = true) (hf : flight? s x.fid = some f) (hroom : ∃ d, descOf s f = some d ∧ f.sq.length < d.sqDepth)
    (hread : engRead s (x.agent e) (parPair x.par 0 + dw (4 * x.done)) 4 = (.got b, s1)) (hf1 : flight? s1 x.fid = some f)
    (hk : objKey s1 x.pid x.core x.obj = .inr o) (hpoison : poisonedIn s1 o 16 = false) (hw : NoWaiters s1 o)
    (hfit : readNat s1 (o + 10) 2 ≤ readNat s1 (o + 8) 2) :
    ∃ t, exec (.sqfillPush e id) s = .next (if x.done + 1 = x.total then endCmd t e id else t) ∧
      flight? t x.fid = some { f with sq := f.sq ++ [w32 (natOfBytes b)] } ∧
      MemorySame (writeBytes s1 o (updatedObject s1 o 0 4 0)) t ∧ cmd? t e id = some { x with done := x.done + 1 } := by
  obtain ⟨d, hd, hlt⟩ := hroom
  have hcmd1 : cmd? s1 e id = some x := by
    have hl := looksFor_engRead s (x.agent e) (parPair x.par 0 + dw (4 * x.done)) 4
    rw [hread] at hl
    rw [cmd?_congr s s1 e id (hl.1 e).1, hx]
  obtain ⟨s2, hs2⟩ : ∃ s2, s2 = modFlight s1 x.fid fun f => { f with sq := f.sq ++ [w32 (natOfBytes b)] } := ⟨_, rfl⟩
  obtain ⟨s3, hs3⟩ : ∃ s3, s3 = modCmd s2 e id fun y => { y with done := y.done + 1 } := ⟨_, rfl⟩
  have hmem3 : MemorySame s1 s3 := fun a => by rw [hs3, hs2]; rfl
  have hobjs : cmdObjs s3 x = [o] := by
    rw [cmdObjs_congr s1 s3 x (by rw [hs3, hs2]; rfl) (by rw [hs3, hs2]; rfl), cmdObjs, hfill, hk]
    rfl
  have hnat (a n : Nat) : readNat s3 a n = readNat s1 a n := readNat_congr s1 s3 a n fun k _ _ => hmem3 k
  have hw3 : NoWaiters s3 o := by
    rw [hs3, hs2]
    exact noWaiters_modCmd e id _ (noWaiters_modFlight x.fid f _ hf1 rfl hw)
  obtain ⟨t, ht, h4⟩ := countBytes_counts s3 o 4 (by rw [hs3, hs2]; exact hpoison) hw3 (by rw [hnat, hnat]; exact hfit)
  have hcount : countAll s3 e x 4 = (t, false) := by
    rw [countAll_eq, hobjs, List.foldl_cons, List.foldl_nil, countStep, ht]
    rfl
  rw [updatedObject_congr s1 s3 o 0 4 0 fun k _ _ => hmem3 k] at h4
  refine ⟨t, ?_, ?_, fun a => (h4.memory a).trans (memorySame_writeBytes hmem3 o _ a), ?_⟩
  · show execSqfillPush e id s = _
    rw [execSqfillPush, hx]
    simp only [hfill, hstall, hruns, hdone, hstart, hf, hd, Option.elim, if_neg (Nat.not_le.2 hlt), hread, ← hs2, ← hs3, hcount, beq_iff_eq]
    rfl
  · rw [flight?, h4.flights, hs3, hs2]
    show flight? (modFlight s1 x.fid _) x.fid = _
    rw [flight?_modFlight, if_pos rfl, hf1]
    rfl
  · rw [cmd?_congr s3 t e id (congrArg Engine.cmds (engine_congr s3 t e h4.engines)), hs3, cmd?_modCmd s2 e id _ (by intro; rfl),
      cmd?_congr s1 s2 e id (by rw [hs2]; rfl), hcmd1]
    rfl

/-- Settles O41: a unit by `moveUnit_moves`, its puts by `prepares_elements`, its stall by `moveUnit_stalls`, a firing by
`cpytFiring_fires`, and a scale fill by `sqfillPush_pushes`. -/
theorem copyEngines : Obligations.CopyEngines := by
  refine ⟨fun s e id x hx hfill hst hstall hruns hdone hstart => ?_, fun s e arm x hx hq hruns hnone => ?_,
    fun s e id o x f b s1 hx hfill hstall hruns hdone hstart hf hroom hread hf1 hk hpoison hw hfit => ?_⟩
  · have hrun := copyUnitDone_moves s e id x hx hfill hst hstall hruns hdone hstart
    refine ⟨fun ps s1 hel hbad hpoison hapart hw hc hroom => ?_, fun y ps s1 hkind hy hel => ?_, fun kind a va s1 hel hfr hx1 => ?_⟩
    · obtain ⟨t, ht, hmem, hcmd⟩ := moveUnit_moves s s1 e id x ps hx hel hbad hpoison hapart hw hc hroom
      refine ⟨_, hrun.trans (congrArg _ ht), ?_⟩
      have hoff (a : Nat) (ho : ∀ o ∈ cmdObjs s1 x, a < o ∨ o + 16 ≤ a) (hp : ∀ p ∈ ps, a < p.key ∨ p.key + p.bytes.length ≤ a) :
          readByte t a = readByte s1 a := by
        refine (hmem a).trans ((readByte_writeAll_off _ _ a fun w hw => ?_).trans (readByte_writeAll_off s1 _ a fun w hw => ?_))
        · obtain ⟨o, hmem, rfl⟩ := List.mem_map.1 hw
          simpa only [length_updatedObject] using ho o hmem
        · obtain ⟨p, hmem, rfl⟩ := List.mem_map.1 hw
          exact hp p hmem
      by_cases hend : x.done + unitSize x = x.total
      · rw [if_pos hend]
        exact ⟨hmem, hoff, Eq.mpr (if_pos hend) (cmd?_endCmd t e id)⟩
      · rw [if_neg hend]
        exact ⟨hmem, hoff, Eq.mpr (if_neg hend) hcmd⟩
    · have hp := prepares_elements (x.agent e) x (unitSize x) s x.done
      have hslices (va : DWord) : everySlice s x.gid va =
          (List.range y.nblock).map fun r => scratchKey (rankCore y.die y.quad r) (va.toNat % 2 ^ 22) := by rw [everySlice, hy]
      rw [show elements (x.agent e) x (unitSize x) s x.done = (.got ps, s1) from hel] at hp
      refine ⟨?_, fun p hmem => ?_⟩
      · rw [cmdObjs, hkind, if_pos (by rfl), everySlice_congr s s1 x.gid x.obj hp.1.2, hslices]
      · have hin := hp.2 hkind ps rfl p hmem
        rw [hslices] at hin
        obtain ⟨r, hr, heq⟩ := List.mem_map.1 hin
        exact ⟨r, List.mem_range.1 hr, heq.symm⟩
    · exact ⟨_, hrun, moveUnit_stalls s s1 e id x hx kind a va hel hfr hx1⟩
  · refine ⟨_, cpytFiring_fires s e arm x hx hq hruns hnone, rfl, fun k hk => ?_, ?_, ?_⟩
    · rw [engine_modEngine, if_neg hk, engine_giveCmd, if_neg hk]
      rfl
    · rw [engine_modEngine, if_pos rfl, engine_giveCmd, if_pos rfl]
      rfl
    · rw [engine_modEngine, if_pos rfl, engine_giveCmd, if_pos rfl]
      exact find?_firedArms _ arm x hx
  · obtain ⟨t, ht, hfl, hmem, hcmd⟩ :=
      sqfillPush_pushes s s1 e id o x f b hx hfill hstall hruns hdone hstart hf hroom hread hf1 hk hpoison hw hfit
    refine ⟨_, { f with sq := f.sq ++ [w32 (natOfBytes b)] }, ht, ?_⟩
    by_cases hend : x.done + 1 = x.total
    · rw [if_pos hend, if_pos hend]
      exact ⟨hfl, rfl, rfl, hmem, cmd?_endCmd t e id⟩
    · rw [if_neg hend, if_neg hend]
      exact ⟨hfl, rfl, rfl, hmem, hcmd⟩

end Sys2Proof.Machine
end

section
/-!
SUPPORT. Stores of tiles, and their save records (09 R254-R258): the capture of a tile, the end of a store, and the two instructions that
write and read a record.
-/
namespace Sys2Proof.Machine

/-! ### Tables of words -/

theorem mgetD_tabulated {β : Type} [DecidableEq β] (d : β) (h : Nat → β) (n j : Nat) :
    mgetD ((List.range n).foldl (fun m e => mput d m e (h e)) []) j d = if j < n then h j else d := by
  induction n with
  | zero => rfl
  | succ n ih =>
    rw [List.range_succ, List.foldl_append, List.foldl_cons, List.foldl_nil, mgetD_mput, ih]
    by_cases hj : j = n
    · subst hj
      rw [if_pos rfl, if_pos (Nat.lt_succ_self j)]
    · rw [if_neg hj]
      by_cases hlt : j < n
      · rw [if_pos hlt, if_pos (by omega)]
      · rw [if_neg hlt, if_neg (by omega)]

theorem mgetD_readTile (s : State) (tl : Tile) (h : tl.insts = []) (j : Nat) (hj : j < 1024) :
    mgetD (readTile s tl) j 0 = mgetD tl.elems j 0 := by
  rw [readTile, mgetD_tabulated 0 (readElem s tl) 1024 j, if_pos hj, readElem, asyncRegion, h]
  rfl

theorem mgetD_elemsOf (bs : List Byte) (o j : Nat) (hj : j < 1024) :
    mgetD (elemsOf bs o) j 0 = BitVec.ofNat 32 (fieldOf bs (o + 4 * j) 4) := by
  rw [elemsOf, mgetD_tabulated 0 (fun e => w32 (fieldOf bs (o + 4 * e) 4)) 1024 j, if_pos hj]
  rfl

/-! ### ACCST (09 R254, R255) -/

section
variable (s : State) (f : Flight) (g : Fragment) (e a b : Opnd) (k : Nat) (hi : Issues s f g) (hu : Unwatched s f)
  (hm : MayName f g [(e, 1), (a, 8), (b, 2)]) (hlive : liveTile (ctxOf s f g) e = some k) (hinst : (tileAt s k).insts = [])
  (hfold : (tileAt s k).folds = [])

/-- The command of an ACCST. -/
def storeCmd : Cmd :=
  { newCmd (ctxOf s f g) .accst (blockAt (ctxOf s f g) a) (srcS2 (ctxOf s f g) b) with data := readTile s (tileAt s k) }

/-- The outcome of an ACCST on a live tile at which nothing is outstanding. -/
def storeOutcome : State :=
  let obj := srcS2 (ctxOf s f g) b
  if streamBad f then fault (ctxOf s f g) 0x15 0
  else if !storeOk (blockAt (ctxOf s f g) a) then fault (ctxOf s f g) 0x14 0
  else if !objOk s f.pid f.core obj then faultAt (ctxOf s f g) 0x14 0 obj
  else numberedState s f g none false (giveCmd { s with nextId := s.nextId + 1 } (engineFor s f.pid f.core) (storeCmd s f g a b k))

include hi hm hlive hinst hfold in
theorem accst_acts : exec (.accst e a b) s = .next (storeOutcome s f g a b k) := by
  refine ((exec_accst e a b s).trans (tileIssue_acts s f g e hi [(a, 8), (b, 2)] _ k hm hlive hinst hfold)).trans (congrArg _ ?_)
  have hopen : openOwn (tileAt (ctxOf s f g).st k) (ctxOf s f g).st.cur.1 = [] := openOwn_empty _ _ hinst
  simp only [hopen, show spoil (ctxOf s f g).st k = s from spoil_empty s k hinst]
  rfl

/-- What a store that passes its checks leaves: it is numbered, and its engine holds its command. -/
def Stored (par : List Word) (obj : DWord) (t : State) (f' : Flight) (g' : Fragment) : Prop :=
  let eng := engineFor s f.pid f.core
  f'.seqNo = f.seqNo + 1 ∧ f'.s = f.s ∧ f'.v = f.v ∧ f'.lflags = f.lflags ∧ g'.em = g.em ∧
    t = { s with flights := t.flights, engines := t.engines, nextId := s.nextId + 1, work := t.work } ∧
    ∃ x, (engine t eng).cmds = (engine s eng).cmds ++ [x] ∧ x.kind = .accst ∧ x.par = par ∧ x.obj = obj ∧
      x.fid = s.cur.1 ∧ x.seq = f.seqNo ∧ ∀ n, n < 1024 → mgetD x.data n 0 = mgetD (tileAt s k).elems n 0

include hi hu hm hlive hinst hfold in
theorem accst_stores (hstream : streamBad f = false) (hpar : storeOk (blockAt (ctxOf s f g) a) = true)
    (hobj : objOk s f.pid f.core (srcS2 (ctxOf s f g) b) = true) :
    GoesOn (.accst e a b) s g f (g.pc + 8) (Stored s f g k (blockAt (ctxOf s f g) a) (srcS2 (ctxOf s f g) b)) := by
  obtain ⟨s1, hs1⟩ : ∃ s1, s1 = giveCmd { s with nextId := s.nextId + 1 } (engineFor s f.pid f.core) (storeCmd s f g a b k) := ⟨_, rfl⟩
  have hout : storeOutcome s f g a b k = numberedState s f g none false s1 := by
    rw [storeOutcome]
    simp only [hstream, hpar, hobj, ← hs1]
    rfl
  refine goesOn_retireNext _ s f g { numbered (ctxOf s f g) none with st := s1 } _ hi hu.1
    ((accst_acts s f g e a b k hi hm hlive hinst hfold).trans (congrArg _ hout)) (by rw [hs1]; rfl) (by rw [hs1]; rfl) rfl
    ⟨rfl, rfl, rfl, rfl⟩ ⟨rfl, rfl, rfl, rfl, rfl, ?_, storeCmd s f g a b k, ?_, rfl, rfl, rfl, rfl, rfl, fun n hn => ?_⟩
  · rw [hs1]
    rfl
  · show (engine s1 (engineFor s f.pid f.core)).cmds = _
    rw [hs1, engine_giveCmd, if_pos rfl]
    rfl
  · simp only [storeCmd]
    exact mgetD_readTile s (tileAt s k) hinst n hn

end

/-- The end of a store that meets no condition: its elements are written, and its bytes counted into its object (09 R255). -/
theorem accstStoreDone_ends (s s1 : State) (e id o : Nat) (x : Cmd) (ps : List Put) (hx : cmd? s e id = some x) (hkind : x.kind = .accst)
    (hstall : x.stall = none) (hcap : capturing s e id = false) (hruns : unitRuns s x.pid x.gid .copy = true)
    (hdone : issuerDone s x = true) (hputs : engPuts s (x.agent e) (storeWrites x) = (.got ps, s1)) (hpoison : s1.poison = [])
    (hk : objKey s1 x.pid x.core x.obj = .inr o) (hw : NoWaiters s1 o) (hc : Calm s1 id ps)
    (hfit : readNat (writeAll s1 (writesOf ps)) (o + 10) 2 ≤ readNat (writeAll s1 (writesOf ps)) (o + 8) 2) :
    let w := writeAll s1 (writesOf ps)
    let n := ((storeWrites x).map fun y => y.2.length).sum
    ∃ t, exec (.accstStoreDone e id) s = .next (endCmd t e id) ∧ MemorySame (writeBytes w o (updatedObject w o 0 n 0)) t := by
  intro w n
  obtain ⟨s2, hs2⟩ : ∃ s2, s2 = workPuts s1 id ps := ⟨_, rfl⟩
  obtain ⟨s3, hs3⟩ : ∃ s3, s3 = if bitOf (x.par.getD 5 0).toNat 2 then s2
    else ps.foldl (fun s p => if isScratch p.key then setFull s p.key true else s) s2 := ⟨_, rfl⟩
  have h3 : Wrote s1 (writesOf ps ++ []) s3 := by
    refine Wrote.trans (hs2 ▸ wrote_workPuts s1 id ps hpoison hc) ?_
    rw [hs3]
    split
    · exact wrote_nil s2
    · exact wrote_foldl_full (fun _ p => isScratch p.key) ps s2
  rw [List.append_nil] at h3
  have hnat (a n : Nat) : readNat s3 a n = readNat w a n := readNat_congr w s3 a n fun k _ _ => h3.memory k
  have hobjs : cmdObjs s3 x = [o] := by
    rw [cmdObjs_congr s1 s3 x h3.gangs h3.parts, cmdObjs, hkind, hk]
    rfl
  obtain ⟨t, ht, h4⟩ := countBytes_counts s3 o n (by rw [poisonedIn, h3.poison, hpoison]; rfl)
    (noWaiters_congr h3.engines h3.flights hw) (by rw [hnat, hnat]; exact hfit)
  have hcount : countAll s3 e x n = (t, false) := by
    rw [countAll_eq, hobjs, List.foldl_cons, List.foldl_nil, countStep, ht]
    rfl
  rw [updatedObject_congr w s3 o 0 n 0 fun k _ _ => h3.memory k] at h4
  refine ⟨t, ?_, fun a => (h4.memory a).trans (memorySame_writeBytes h3.memory o _ a)⟩
  have hbad : badPut s1 ps = none := by
    rw [badPut, hpoison]
    rfl
  show execAccstStoreDone e id s = _
  rw [execAccstStoreDone, hx]
  simp only [hkind, hstall, hcap, hruns, hdone, hputs, hbad, ← hs2]
  rw [← hs3, show countAll s3 e x ((storeWrites x).map fun w => w.2.length).sum = (t, false) from hcount]
  rfl

/-! ### Writes of a block of memory -/

/-- The flights and the turn are as they were. -/
def SameFlights (s t : State) : Prop := t.flights = s.flights ∧ t.cur = s.cur

theorem SameFlights.trans {s t u : State} (h : SameFlights s t) (h' : SameFlights t u) : SameFlights s u :=
  ⟨h'.1.trans h.1, h'.2.trans h.2⟩

theorem sameFlights_foldl {β : Type} (k : State → β → State) (hk : ∀ s x, SameFlights s (k s x)) (l : List β) (s : State) :
    SameFlights s (l.foldl k s) := by
  induction l generalizing s with
  | nil => exact ⟨rfl, rfl⟩
  | cons x r ih => exact (hk s x).trans (ih _)

theorem sameFlights_loseHit (key len : Nat) (src : List Source) (s : State) (h : Nat × Nat) : SameFlights s (loseHit key len src s h) := by
  have hsrc : SameFlights s (src.foldl (fun s y => match y.lost h key len with | some (a, z) => if a < z then forget s a z else s | none => s) s) :=
    sameFlights_foldl _ (fun s y => by
      split
      · split <;> exact ⟨rfl, rfl⟩
      · exact ⟨rfl, rfl⟩) src s
  rw [loseHit]
  split
  · exact hsrc
  · exact hsrc

theorem sameFlights_noteWrite (s : State) (who : Option (Nat × Nat)) (a n : Nat) : SameFlights s (noteWrite s who a n) := by
  rw [noteWrite]
  refine SameFlights.trans (sameFlights_foldl _ (fun s o => ?_) _ s)
    (SameFlights.trans (sameFlights_foldl _ (fun s w => sameFlights_foldl _ (fun s v => sameFlights_loseHit _ _ _ s _) _ s) _ _) ⟨rfl, rfl⟩)
  split <;> exact ⟨rfl, rfl⟩

theorem sameFlights_writePieces (s : State) (fid c : Nat) (ks : List (Nat × Nat)) (bs : List Byte) :
    SameFlights s (writePieces s fid c ks bs) := by
  induction ks generalizing s bs with
  | nil => exact ⟨rfl, rfl⟩
  | cons x r ih =>
    obtain ⟨k, n⟩ := x
    rw [writePieces]
    have hw : SameFlights s (writeBytes s k (bs.take n)) := ⟨by simp, by simp⟩
    have hn := hw.trans (sameFlights_noteWrite (writeBytes s k (bs.take n)) (some (fid, s.nextId)) k n)
    refine SameFlights.trans ?_ (ih _ _)
    obtain ⟨s1, hs1⟩ : ∃ s1, s1 = noteWrite (writeBytes s k (bs.take n)) (some (fid, s.nextId)) k n := ⟨_, rfl⟩
    rw [← hs1] at hn ⊢
    split
    · exact hn
    · rw [storeLines]
      split <;> exact hn

theorem spoil_memory (s : State) (k : Nat) : MemorySame s (spoil s k) := fun a => by
  rw [spoil]
  split <;> rfl

theorem sameFlights_spoil (s : State) (k : Nat) : SameFlights s (spoil s k) := by
  rw [spoil]
  split <;> exact ⟨rfl, rfl⟩

/-! ### ACCSV (09 R257) -/

section
variable (s : State) (f : Flight) (g : Fragment) (e a : Opnd) (k : Nat) (hi : Issues s f g) (hl : g.level ≠ 0)
  (hm : MayName f g [(e, 1), (a, 2)])

include hi hl hm

theorem saves_dead (h : liveTile (ctxOf s f g) e = none) :
    Faults (.accsv e a) s f g 0x13 0 ∧ Faults (.accld e a) s f g 0x13 0 := by
  constructor
  · refine ((exec_accsv e a s).trans (issue_acts _ _ _ s f g hi hm fun _ => hl)).trans (congrArg _ ?_)
    simp only [h]
    rfl
  · refine ((exec_accld e a s).trans (issue_acts _ _ _ s f g hi hm fun _ => hl)).trans (congrArg _ ?_)
    simp only [h]
    rfl

theorem saves_held (h : liveTile (ctxOf s f g) e = some k) (hheld : heldBy (tileAt s k) s.cur.1 true = true) :
    Stalls (.accsv e a) s f g .tile ∧ Stalls (.accld e a) s f g .tile := by
  have hheld : heldBy (tileAt (ctxOf s f g).st k) (ctxOf s f g).st.cur.1 true = true := hheld
  constructor
  · refine stalls_of _ s f g .tile hi (((exec_accsv e a s).trans (issue_acts _ _ _ s f g hi hm fun _ => hl)).trans (congrArg _ ?_))
    simp only [h]
    exact if_pos hheld
  · refine stalls_of _ s f g .tile hi (((exec_accld e a s).trans (issue_acts _ _ _ s f g hi hm fun _ => hl)).trans (congrArg _ ?_))
    simp only [h]
    exact if_pos hheld

variable (hu : Unwatched s f) (h : liveTile (ctxOf s f g) e = some k) (hfree : heldBy (tileAt s k) s.cur.1 true = false)
  (hopen : openFor f g.owned = false)

include hu h hfree hopen

/-- A save whose block passes its checks writes the tile's record. -/
theorem accsv_saves (ks : List (Nat × Nat)) (c1 : Ctx) (hfold : (tileAt s k).folds = [])
    (hcheck : checkBlock (ctxOf s f g) 256 .write (srcS2 (ctxOf s f g) a)
      (tileRecord s (srcS (ctxOf s f g) e) k f.gid).length = (ks, none, c1))
    (hlook : LooksUp (ctxOf s f g) c1) (hbad : badPiece c1.st ks = false) :
    GoesOn (.accsv e a) s g f (g.pc + 8) fun t f' g' =>
      g'.em = g.em ∧ f'.s = f.s ∧ f'.v = f.v ∧ f'.lflags = f.lflags ∧
        MemorySame (writePieces c1.st s.cur.1 f.core ks (tileRecord s (srcS (ctxOf s f g) e) k f.gid)) t := by
  obtain ⟨hg, hf, hst, -⟩ := hlook
  obtain ⟨s1, hs1⟩ : ∃ s1, s1 = spoil (writePieces c1.st s.cur.1 f.core ks (tileRecord s (srcS (ctxOf s f g) e) k f.gid)) k := ⟨_, rfl⟩
  have hrun : exec (.accsv e a) s = .next (retireNext (ctxOf s f g) { c1 with st := s1 }) := by
    refine ((exec_accsv e a s).trans (issue_acts _ _ _ s f g hi hm fun _ => hl)).trans (congrArg _ ?_)
    have hfree : ¬ heldBy (tileAt (ctxOf s f g).st k) (ctxOf s f g).st.cur.1 true = true := by
      rw [show heldBy (tileAt (ctxOf s f g).st k) (ctxOf s f g).st.cur.1 true = false from hfree]
      decide
    have hopen : ¬ openFor (ctxOf s f g).f (ctxOf s f g).g.owned = true := by
      rw [show openFor (ctxOf s f g).f (ctxOf s f g).g.owned = false from hopen]
      decide
    have hsettle : settleFolds (ctxOf s f g).st k = s := by
      rw [settleFolds, show (tileAt (ctxOf s f g).st k).folds = [] from hfold]
      rfl
    simp only [h, if_neg hfree, if_neg hopen, hsettle]
    show (match checkBlock (ctxOf s f g) 256 .write (srcS2 (ctxOf s f g) a) (tileRecord s (srcS (ctxOf s f g) e) k f.gid).length with
      | (_, some (x, v), c1) => blockFails c1 x v .write
      | (ks, none, c1) => if badPiece c1.st ks then objBad c1 (srcS2 (ctxOf s f g) a) else retireNext (ctxOf s f g) { c1 with
          st := spoil (writePieces c1.st s.cur.1 f.core ks (tileRecord s (srcS (ctxOf s f g) e) k f.gid)) k }) = _
    rw [hcheck]
    simp only [hbad, ← hs1]
    rfl
  have hsame : SameFlights s s1 := by
    rw [hs1]
    refine SameFlights.trans (t := c1.st) ?_ ((sameFlights_writePieces _ _ _ _ _).trans (sameFlights_spoil _ k))
    rw [hst]
    exact ⟨rfl, rfl⟩
  refine goesOn_retireNext _ s f g { c1 with st := s1 } _ hi ?_ hrun hsame.2 hsame.1 ?_ ?_ ⟨?_, ?_, ?_, ?_, fun b => ?_⟩
  · show (Machine.core s c1.f.core).bcn = []
    rw [hf]
    exact hu.1
  · show c1.f.frags = f.frags
    rw [hf]
    rfl
  · show c1.g.num = g.num ∧ c1.g.pc = g.pc ∧ c1.g.owned = g.owned ∧ c1.g.level = g.level
    rw [hg]
    exact ⟨rfl, rfl, rfl, rfl⟩
  · show c1.g.em = g.em
    rw [hg]
    rfl
  · show c1.f.s = f.s
    rw [hf]
    rfl
  · show c1.f.v = f.v
    rw [hf]
    rfl
  · show c1.f.lflags = f.lflags
    rw [hf]
    rfl
  · show readByte s1 b = _
    rw [hs1]
    exact spoil_memory _ k b

end

/-! ### ACCLD (09 R257, R258) -/

/-- The partial sets of a flight after the contents of tile `t` are replaced by a record with some (09 R257). -/
def restoredSets (ps : List PSet) (t gid : Nat) (f : Flight) : Flight :=
  if f.gid == gid then
    { f with psets := (f.psets.filter fun q => q.tile != t) ++ ps.filter fun q => q.rank == f.rank && q.f == f.idx }
  else f

theorem restoreTile_leaves (s : State) (t gid : Nat) (x : Gang) (bs : List Byte) (n p : Nat) :
    ∃ is ds ps, (n = 0 → is = []) ∧ (p = 0 → ps = []) ∧ restoreTile s t gid x bs n p =
      { s with
        nextId := s.nextId + 24
        free := s.free + 1
        tiles := mset s.tiles t { tileAt s t with elems := elemsOf bs 0x40, insts := is, deps := ds, folds := [] }
        flights := mmap s.flights fun _ f => restoredSets ps t gid f } := by
  refine ⟨_, _, _, ?_, ?_, rfl⟩
  · rintro rfl
    rfl
  · rintro rfl
    rfl

theorem restoredSets_rest (ps : List PSet) (t gid : Nat) (f : Flight) :
    restoredSets ps t gid f = { f with psets := (restoredSets ps t gid f).psets } := by
  rw [restoredSets]
  split <;> rfl

theorem restoredSets_none (t : Nat) (f : Flight) : ∀ x ∈ (restoredSets [] t f.gid f).psets, x.tile ≠ t := by
  rw [restoredSets, if_pos (beq_self_eq_true f.gid), List.filter_nil, List.append_nil]
  exact fun x hx => by simpa using (List.mem_filter.1 hx).2

section
variable (s : State) (f : Flight) (g : Fragment) (e a : Opnd) (k n p : Nat) (k0 ks : List (Nat × Nat)) (c1 c2 : Ctx) (hi : Issues s f g)
  (hu : Unwatched s f) (hl : g.level ≠ 0) (hm : MayName f g [(e, 1), (a, 2)]) (h : liveTile (ctxOf s f g) e = some k)
  (hfree : heldBy (tileAt s k) s.cur.1 true = false) (hopen : openFor f g.owned = false) (hgang : (gangOf s f).isSome)
  (hhead : checkBlock (ctxOf s f g) 256 .read (srcS2 (ctxOf s f g) a) 64 = (k0, none, c1))
  (hn : fieldOf (readPieces c1.st k0) 6 1 = n) (hp : fieldOf (readPieces c1.st k0) 7 2 = p) (hn4 : n ≤ 4) (hp384 : p ≤ 384)
  (hbody : checkBlock c1 256 .read (srcS2 (ctxOf s f g) a) (0x1040 + n * 0x6440 + p * 0x4210) = (ks, none, c2))
  (hlook : LooksUp (ctxOf s f g) c2) (hpoison : s.poison = []) (hok : recordOk (readPieces c2.st ks) n p = true)

include hi hl hm h hfree hopen hgang hhead hn hp hn4 hp384 hbody hlook hpoison hok in
theorem accld_acts : ∃ x, exec (.accld e a) s =
    .next (retireNext (ctxOf s f g) (reload c2 (restoreTile (commit c2) k f.gid x (readPieces c2.st ks) n p))) := by
  obtain ⟨x, hx⟩ := Option.isSome_iff_exists.1 hgang
  obtain ⟨hg, hf, hst, -⟩ := hlook
  refine ⟨x, ((exec_accld e a s).trans (issue_acts _ _ _ s f g hi hm fun _ => hl)).trans (congrArg _ ?_)⟩
  have hfree : ¬ heldBy (tileAt (ctxOf s f g).st k) (ctxOf s f g).st.cur.1 true = true := by
    rw [show heldBy (tileAt (ctxOf s f g).st k) (ctxOf s f g).st.cur.1 true = false from hfree]
    decide
  have hopen : ¬ openFor (ctxOf s f g).f (ctxOf s f g).g.owned = true := by
    rw [show openFor (ctxOf s f g).f (ctxOf s f g).g.owned = false from hopen]
    decide
  have hcount : ¬ (decide (n > 4) || decide (384 < p)) = true := by
    simp only [Bool.or_eq_true, decide_eq_true_eq]
    omega
  have hclean : ¬ (ks.any fun k => poisonedIn c2.st k.1 k.2) = true := by
    have hp2 : c2.st.poison = [] := by rw [hst]; exact hpoison
    simp [poisonedIn, hp2]
  have hgang2 : gangOf c2.st (ctxOf s f g).f = some x := by
    rw [gangOf, hst]
    exact hx
  simp only [h, if_neg hfree, hhead, hn, hp, if_neg hopen, if_neg hcount, hbody, if_neg hclean, hok, if_true, hgang2]
  rfl

include hi hu hl hm h hfree hopen hgang hhead hn hp hn4 hp384 hbody hlook hpoison hok in
/-- A restore whose record agrees with its own counts: the tile holds the record's contents, and the fragment goes on. -/
theorem accld_restores : ∃ t f' g', exec (.accld e a) s = .next t ∧ flight? t s.cur.1 = some f' ∧
    frag? f' g.num = some g' ∧ g'.pc = g.pc + 8 ∧ g'.wait = .run ∧ g'.em = g.em ∧ f'.s = f.s ∧ f'.v = f.v ∧
    MemorySame c2.st t ∧
    (∀ j, j < 1024 → mgetD (tileAt t k).elems j 0 = BitVec.ofNat 32 (fieldOf (readPieces c2.st ks) (0x40 + 4 * j) 4)) ∧
    (tileAt t k).folds = [] ∧ (tileAt t k).gen = (tileAt c2.st k).gen ∧ (tileAt t k).owner = (tileAt c2.st k).owner ∧
    (n = 0 → (tileAt t k).insts = []) ∧ (p = 0 → ∀ x ∈ f'.psets, x.tile ≠ k) ∧ ∀ j, j ≠ k → tileAt t j = tileAt c2.st j := by
  obtain ⟨x, hrun⟩ :=
    accld_acts s f g e a k n p k0 ks c1 c2 hi hl hm h hfree hopen hgang hhead hn hp hn4 hp384 hbody hlook hpoison hok
  obtain ⟨hg, hf, hst, -⟩ := hlook
  obtain ⟨is, ds, ps, his, hps, hr⟩ := restoreTile_leaves (commit c2) k f.gid x (readPieces c2.st ks) n p
  obtain ⟨r, hrdef⟩ : ∃ r, r = restoreTile (commit c2) k f.gid x (readPieces c2.st ks) n p := ⟨_, rfl⟩
  rw [← hrdef] at hr hrun
  have hcur2 : c2.st.cur = s.cur := by rw [hst]; rfl
  have hcur : r.cur = s.cur := by rw [hr]; exact hcur2
  have hg2 : c2.g = g := hg
  obtain ⟨f0, hf0⟩ : ∃ f0, f0 = putFrag c2.f g := ⟨_, rfl⟩
  obtain ⟨f1, hf1⟩ : ∃ f1, f1 = restoredSets ps k f.gid f0 := ⟨_, rfl⟩
  have hrest : f1 = { f0 with psets := f1.psets } := hf1 ▸ restoredSets_rest ps k f.gid f0
  have hfl : flight? r s.cur.1 = some f1 := by
    rw [flight?, hr]
    refine (mget?_mmap (commit c2).flights (fun _ f' => restoredSets ps k f.gid f') s.cur.1).trans ?_
    have hc : mget? (commit c2).flights s.cur.1 = some f0 := by
      rw [← hcur2, hf0, ← hg2]
      exact flight?_commit c2
    rw [hc, hf1]
    rfl
  have hnum : g.num = s.cur.2 := frag?_num f s.cur.2 g hi.2
  have hfr : frag? f1 s.cur.2 = some g := by
    rw [hrest, hf0, ← hnum]
    refine frag?_putFrag_same c2.f g g ?_
    rw [hf, hnum]
    exact hi.2
  have hissues : Issues r f1 g := ⟨by rw [hcur]; exact hfl, by rw [hcur]; exact hfr⟩
  obtain ⟨c, hc⟩ : ∃ c : Ctx, c = { ctxOf r f1 g with obs := c2.obs } := ⟨_, rfl⟩
  have hreload : reload c2 r = c := by
    rw [reload, issuer?_eq r f1 g hissues, hc]
  have hcore : f1.core = f.core := by
    rw [hrest, hf0]
    show c2.f.core = f.core
    rw [hf]
    rfl
  have hstate : exec (.accld e a) s = .next (commit (settled (next c))) := by
    rw [hrun, hreload, retireNext, retire_unwatched (ctxOf s f g) (next c) ?_]
    rw [hc]
    show (Machine.core s f1.core).bcn = []
    rw [hcore]
    exact hu.1
  obtain ⟨l1, l2, -, -⟩ := commit_leaves r f1 g (settled (next c)) hissues (by rw [hc]; rfl) (by rw [hc]; rfl) (by rw [hc]; rfl)
  have htile (j : Nat) : tileAt (commit (settled (next c))) j =
      if j = k then { tileAt c2.st k with elems := elemsOf (readPieces c2.st ks) 0x40, insts := is, deps := ds, folds := [] }
      else tileAt c2.st j := by
    rw [hc]
    show mgetD r.tiles j Tile.reset = _
    rw [hr]
    exact mgetD_mset _ _ _ _ _
  rw [hcur] at l1
  refine ⟨_, _, _, hstate, l1, l2, by rw [hc]; rfl, rfl, by rw [hc]; rfl, ?_, ?_, fun b => ?_, fun j hj => ?_, ?_, ?_, ?_, fun h0 => ?_,
    fun h0 => ?_, fun j hj => ?_⟩
  · rw [hc]
    show f1.s = f.s
    rw [hrest, hf0]
    show c2.f.s = f.s
    rw [hf]
    rfl
  · rw [hc]
    show f1.v = f.v
    rw [hrest, hf0]
    show c2.f.v = f.v
    rw [hf]
    rfl
  · rw [hc]
    show readByte r b = _
    rw [hr]
    rfl
  · simp only [htile, if_true]
    exact mgetD_elemsOf _ 0x40 j hj
  · rw [htile, if_pos rfl]
  · rw [htile, if_pos rfl]
  · rw [htile, if_pos rfl]
  · rw [htile, if_pos rfl]
    exact his h0
  · rw [hc]
    show ∀ y ∈ f1.psets, y.tile ≠ k
    have hgid : f.gid = f0.gid := by
      rw [hf0]
      show _ = c2.f.gid
      rw [hf]
      rfl
    rw [hf1, hps h0, hgid]
    exact restoredSets_none k f0
  · rw [htile, if_neg hj]

end

/-- Settles O43: a store by `accst_acts` and `accst_stores`, its end by `accstStoreDone_ends`, a save by `accsv_saves`, and a restore by
`accld_restores`. -/
theorem tileStoresAndSaves : Obligations.TileStoresAndSaves := by
  refine ⟨fun s f g e a b k hi hu hm hlive hinst hfold => ?_, fun s e id o x ps s1 hx hkind hstall hcap hruns hdone hputs hpoison hk hw hc => ?_,
    fun s f g e a k hi hu hl hm hopen => ?_⟩
  · intro c par obj eng
    have hrun := accst_acts s f g e a b k hi hm hlive hinst hfold
    have hstream : streamBad f = true ↔ f.sq.length ≠ f.psets.length := by rw [streamBad, bne_iff_ne]
    have heven (h : f.sq.length = f.psets.length) : streamBad f = false := Bool.eq_false_iff.2 fun hb => hstream.1 hb h
    have hout : storeOutcome s f g a b k = if streamBad f then fault (ctxOf s f g) 0x15 0
        else if !storeOk par then fault (ctxOf s f g) 0x14 0
        else if !objOk s f.pid f.core obj then faultAt (ctxOf s f g) 0x14 0 obj
        else numberedState s f g none false (giveCmd { s with nextId := s.nextId + 1 } eng (storeCmd s f g a b k)) := rfl
    refine ⟨fun h => ?_, fun h hpar => ?_, fun h hpar hobj => ?_, fun h hpar hobj => ?_⟩
    · rw [hout, hstream.2 h] at hrun
      exact hrun
    · rw [hout, heven h, hpar] at hrun
      exact hrun
    · rw [hout, heven h, hpar, hobj] at hrun
      exact hrun
    · exact accst_stores s f g e a b k hi hu hm hlive hinst hfold (heven h) hpar hobj
  · intro w n hfit
    obtain ⟨t, ht, hmem⟩ := accstStoreDone_ends s s1 e id o x ps hx hkind hstall hcap hruns hdone hputs hpoison hk hw hc hfit
    exact ⟨_, ht, cmd?_endCmd t e id, hmem⟩
  · refine ⟨saves_dead s f g e a hi hl hm, saves_held s f g e a k hi hl hm, fun h hfree hgang => ⟨fun ks c1 hfold hcheck hlook hbad => ?_,
      fun k0 c1 ks c2 hhead => ?_⟩⟩
    · exact accsv_saves s f g e a k hi hl hm hu h hfree hopen ks c1 hfold hcheck hlook hbad
    · intro head n p hn hp hbody hlook hpoison bytes hok
      exact accld_restores s f g e a k n p k0 ks c1 c2 hi hu hl hm h hfree hopen hgang hhead rfl rfl hn hp hbody hlook hpoison hok

end Sys2Proof.Machine
end

section
/-!
SUPPORT. Memory stays in its canonical form (log 4) through the operations of the state, the registers and the beacons. Each lemma
names the operations that its function is made of. Each proof uses lemmas just before it, so they are checked one after another: proofs
that wait for each other in threads of their own take too much memory.
-/
namespace Sys2Proof.Machine

set_option Elab.async false

/-- Whatever state a meaning answers has its memory in the canonical form. -/
def KeepsMemory (a : Ans) : Prop := ∀ t, a = .next t → t.Canonical

/-! ### Memory, caches and translation (04 R77-R99) -/

theorem canonical_alert (s t : State) (a n : Nat) (hs : t.Canonical) : (alert s t a n).Canonical := by
  grind [alert, State.Canonical]

theorem canonical_setFull (s : State) (a : Nat) (f : Bool) (hs : s.Canonical) : (setFull s a f).Canonical := hs

theorem canonical_modCore (s : State) (c : Nat) (f : Core → Core) (hs : s.Canonical) : (modCore s c f).Canonical := hs

theorem canonical_ring (s : State) (k : Nat) (w : Word) (hs : s.Canonical) : (ring s k w).Canonical := hs

theorem canonical_doorWrite (s : State) (k : Nat) (bs : List Byte) (hs : s.Canonical) : (doorWrite s k bs).Canonical := by
  rw [doorWrite]
  split
  · split <;> exact hs
  · exact hs

theorem canonical_dropCache (s : State) (c : Nat) (hs : s.Canonical) : (dropCache s c).Canonical := by
  grind [dropCache, canonical_modCore, State.Canonical]

theorem canonical_dropLine (s : State) (c a : Nat) (hs : s.Canonical) : (dropLine s c a).Canonical := by
  grind [dropLine, canonical_modCore, State.Canonical]

theorem canonical_storeLine (s : State) (c a : Nat) (bs : List Byte) (hs : s.Canonical) : (storeLine s c a bs).Canonical := by
  grind [storeLine, canonical_modCore, State.Canonical]

theorem canonical_storeLines (s : State) (c a : Nat) (bs : List Byte) (hs : s.Canonical) : (storeLines s c a bs).Canonical := by
  grind [storeLines, canonical_modCore, State.Canonical]

theorem canonical_cacheRead (s : State) (c : Nat) (raw nt : Bool) (a n : Nat) (hs : s.Canonical) :
    (cacheRead s c raw nt a n).2.Canonical := by
  grind [cacheRead, canonical_modCore, State.Canonical]

theorem canonical_translate (s : State) (pid c : Nat) (lp : Option TlbEntry) (sup : Bool) (a : Acc) (va : DWord) (hs : s.Canonical) :
    (translate s pid c lp sup a va).2.Canonical := by
  grind [translate, canonical_modCore, State.Canonical]

theorem canonical_send (s : State) (m : Msg) (hs : s.Canonical) : (send s m).Canonical := hs

theorem canonical_modPart (s : State) (pid : Nat) (f : Part → Part) (hs : s.Canonical) : (modPart s pid f).Canonical := hs

theorem canonical_recordFault (s : State) (pid block bitmap kinds : Nat) (hs : s.Canonical) :
    (recordFault s pid block bitmap kinds).Canonical := by
  grind [recordFault, canonical_send, canonical_writeNat, canonical_writeBytes, canonical_modPart, State.Canonical]

theorem canonical_journal (s : State) (pid : Nat) (queue : Option Nat) (transition reason : Nat) (pidx : Word) (launch : Nat)
    (tag : Word) (hs : s.Canonical) : (journal s pid queue transition reason pidx launch tag).Canonical := by
  grind [journal, canonical_modPart, canonical_devWrite, State.Canonical]

theorem canonical_spoilAt (s : State) (pid : Nat) (va : DWord) (n : Nat) (hs : s.Canonical) : (spoilAt s pid va n).Canonical := by
  grind [spoilAt, State.Canonical]

theorem canonical_boUpdate (s : State) (o eb ab n : Nat) (hs : s.Canonical) : (boUpdate s o eb ab n).state.Canonical := by
  grind [boUpdate, canonical_boSet, canonical_writeBytes, State.Canonical]

/-! ### The state, exits, halts and traps (06 R152, 19 R385-R403) -/

theorem canonical_modFlight (s : State) (fid : Nat) (k : Flight → Flight) (hs : s.Canonical) : (modFlight s fid k).Canonical := hs

theorem canonical_modFrag (s : State) (fid n : Nat) (k : Fragment → Fragment) (hs : s.Canonical) : (modFrag s fid n k).Canonical := hs

theorem canonical_modGang (s : State) (gid : Nat) (k : Gang → Gang) (hs : s.Canonical) : (modGang s gid k).Canonical := hs

theorem canonical_modLaunch (s : State) (key : Nat) (k : Launch → Launch) (hs : s.Canonical) : (modLaunch s key k).Canonical := hs

theorem canonical_issuer (s : State) (hs : s.Canonical) : ∀ t, issuer? s = some t → t.st.Canonical := by
  grind [issuer?, State.Canonical]

theorem canonical_commit (c : Ctx) (hc : c.st.Canonical) : (commit c).Canonical := hc

theorem canonical_reload (c : Ctx) (s : State) (hs : s.Canonical) : (reload c s).st.Canonical := by
  grind [reload, canonical_issuer, State.Canonical]

theorem canonical_putScalar (c : Ctx) (n : Nat) (w : Word) (hc : c.st.Canonical) : (putScalar c n w).st.Canonical := by
  grind [putScalar, State.Canonical]

theorem canonical_putS (c : Ctx) (o : Opnd) (w : Word) (hc : c.st.Canonical) : (putS c o w).st.Canonical := by
  unfold putS
  grind [canonical_putScalar, State.Canonical]

theorem canonical_putS2 (c : Ctx) (o : Opnd) (x : DWord) (hc : c.st.Canonical) : (putS2 c o x).st.Canonical := by
  grind [putS2, canonical_putS, State.Canonical]

theorem canonical_putV (c : Ctx) (o : Opnd) (m : Lanes) (val : Nat → Word) (hc : c.st.Canonical) : (putV c o m val).st.Canonical := by
  unfold putV
  grind [State.Canonical]

theorem canonical_putMask (c : Ctx) (m : Fin 24) (x : Lanes) (hc : c.st.Canonical) : (putMask c m x).st.Canonical := by
  grind [putMask, canonical_putScalar, State.Canonical]

theorem canonical_tracePut (s : State) (c typ res frag nfrag : Nat) (payload : List Nat) (hs : s.Canonical) :
    (tracePut s c typ res frag nfrag payload).Canonical := by
  grind [tracePut, canonical_modCore, canonical_devWrite, canonical_writeBytes, State.Canonical]

theorem canonical_traceSync (s : State) (c : Nat) (hs : s.Canonical) : (traceSync s c).Canonical := by
  unfold traceSync
  grind [canonical_tracePut, canonical_modCore, canonical_foldl, State.Canonical]

theorem canonical_tracePacket (s : State) (f : Flight) (g : Fragment) (typ payload : Nat) (hs : s.Canonical) :
    (tracePacket s f g typ payload).Canonical := by
  grind [tracePacket, canonical_modCore, canonical_traceSync, canonical_tracePut, State.Canonical]

theorem canonical_enterNext (c : Ctx) (hc : c.st.Canonical) : (enterNext c).st.Canonical := by
  grind [enterNext, canonical_tracePacket, State.Canonical]

theorem canonical_modTile (s : State) (t : Nat) (k : Tile → Tile) (hs : s.Canonical) : (modTile s t k).Canonical := hs

theorem canonical_releaseLcon (s : State) (t id : Nat) (hs : s.Canonical) : (releaseLcon s t id).Canonical := hs

theorem canonical_closeInst (s : State) (t id : Nat) (hs : s.Canonical) : (closeInst s t id).Canonical := hs

theorem canonical_closeFull (s : State) (t : Nat) (hs : s.Canonical) : (closeFull s t).Canonical := by
  unfold closeFull
  grind [canonical_closeInst, canonical_foldl, State.Canonical]

theorem canonical_exitInsts (s : State) (fid : Nat) (m : Lanes) (hs : s.Canonical) : (exitInsts s fid m).Canonical := by
  unfold exitInsts
  grind [canonical_closeFull, canonical_modTile, canonical_foldl, State.Canonical]

theorem canonical_tryMerge (s : State) (fid by' k : Nat) (hs : s.Canonical) : (tryMerge s fid by' k).Canonical := by
  grind [tryMerge, canonical_modFlight, canonical_tracePacket, State.Canonical]

theorem canonical_tryMerges (s : State) (fid by' : Nat) (hs : s.Canonical) : (tryMerges s fid by').Canonical := by
  unfold tryMerges
  grind [canonical_tryMerge, canonical_foldl, State.Canonical]

theorem canonical_barRelease (s : State) (gid rank n : Nat) (hs : s.Canonical) : (barRelease s gid rank n).Canonical := hs

theorem canonical_barTry (s : State) (gid rank n : Nat) (hs : s.Canonical) : (barTry s gid rank n).Canonical := by
  grind [barTry, canonical_barRelease, State.Canonical]

theorem canonical_barArrive (s : State) (fid n : Nat) (hs : s.Canonical) : (barArrive s fid n).1.Canonical := by
  grind [barArrive, canonical_modGang, canonical_modFlight, canonical_barTry, State.Canonical]

theorem canonical_assertFreeze (s : State) (pid : Nat) (hs : s.Canonical) : (assertFreeze s pid).Canonical := hs

theorem canonical_latch (s : State) (hs : s.Canonical) : (latch s).Canonical := hs

theorem canonical_cancelLaunch (s : State) (key : Nat) (hs : s.Canonical) : (cancelLaunch s key).Canonical := by
  grind [cancelLaunch, State.Canonical]

theorem canonical_cancelTree (s : State) (pid root : Nat) (hs : s.Canonical) : (cancelTree s pid root).Canonical := by
  unfold cancelTree
  grind [canonical_cancelLaunch, canonical_modLaunch, canonical_foldl, State.Canonical]

theorem canonical_markFault (s : State) (key code detail : Nat) (pc : DWord) (hs : s.Canonical) :
    (markFault s key code detail pc).Canonical := hs

theorem canonical_dropFills (s : State) (fid : Nat) (hs : s.Canonical) : (dropFills s fid).Canonical := hs

theorem canonical_barRetry (s : State) (fid n : Nat) (hs : s.Canonical) : (barRetry s fid n).Canonical := hs

theorem canonical_exitBar (s : State) (fid n : Nat) (hs : s.Canonical) : (exitBar s fid n).Canonical := by
  grind [exitBar, canonical_barArrive, canonical_barRetry, State.Canonical]

theorem canonical_deadFault (s : State) (pid launch : Nat) (a : AsyncFault) (hs : s.Canonical) : (deadFault s pid launch a).Canonical := by
  grind [deadFault, canonical_journal, canonical_markFault, State.Canonical]

theorem canonical_flushFaults (s : State) (fid : Nat) (hs : s.Canonical) : (flushFaults s fid).Canonical := by
  unfold flushFaults
  grind [canonical_deadFault, canonical_modFlight, canonical_foldl, State.Canonical]

theorem canonical_startRetiring (s : State) (gid : Nat) (hs : s.Canonical) : (startRetiring s gid).Canonical := by
  grind [startRetiring, canonical_modGang, State.Canonical]

theorem canonical_exitLanes (s : State) (fid by' : Nat) (m : Lanes) (hs : s.Canonical) : (exitLanes s fid by' m).Canonical := by
  unfold exitLanes
  grind [canonical_exitInsts, canonical_tryMerges, canonical_modFlight, canonical_exitBar, canonical_startRetiring,
    canonical_flushFaults, canonical_dropFills, canonical_barTry, canonical_foldl, State.Canonical]

theorem canonical_killLanes (s : State) (fid n : Nat) (m : Lanes) (cause : Option (Nat × Nat × DWord)) (hs : s.Canonical) :
    (killLanes s fid n m cause).Canonical := by
  grind [killLanes, canonical_exitLanes, canonical_modFlight, canonical_cancelLaunch, canonical_markFault, State.Canonical]

theorem canonical_haltRecord (s : State) (f : Flight) (g : Fragment) (cause scope bcns further : Nat) (pc resume : DWord)
    (seq tcause : Word) (lanes : Lanes) (bits : Nat) (hs : s.Canonical) :
    (haltRecord s f g cause scope bcns further pc resume seq tcause lanes bits).Canonical := by
  grind [haltRecord, canonical_modPart, canonical_devWrite, State.Canonical]

theorem canonical_reportGone (s : State) (fid : Nat) (g : Fragment) (tcause : Word) (hs : s.Canonical) :
    (reportGone s fid g tcause).Canonical := by
  unfold reportGone
  grind [canonical_haltRecord, canonical_modFlight, canonical_foldl, State.Canonical]

theorem canonical_exitPacket (s : State) (fid : Nat) (f : Flight) (g : Fragment) (hs : s.Canonical) :
    (exitPacket s fid f g).Canonical := by
  grind [exitPacket, canonical_tracePacket, State.Canonical]

theorem canonical_killReport (s : State) (fid : Nat) (f : Flight) (g : Fragment) (m : Lanes) (cause : Option (Nat × Nat × DWord))
    (tcause : Word) (hs : s.Canonical) : (killReport s fid f g m cause tcause).Canonical := by
  grind [killReport, canonical_exitPacket, canonical_reportGone, canonical_killLanes, State.Canonical]

theorem canonical_doubleFault (s : State) (fid n code : Nat) (hs : s.Canonical) : (doubleFault s fid n code).Canonical := by
  grind [doubleFault, canonical_modFlight, canonical_send, canonical_assertFreeze, State.Canonical]

theorem canonical_takeTrap (s : State) (fid n : Nat) (fi : FaultInfo) (more : Bool) (hs : s.Canonical) :
    (takeTrap s fid n fi more).Canonical := by
  grind [takeTrap, canonical_doubleFault, canonical_killReport, canonical_modFlight, canonical_tracePacket, State.Canonical]

theorem canonical_asyncFault (s : State) (fid pid launch : Nat) (a : AsyncFault) (hs : s.Canonical) :
    (asyncFault s fid pid launch a).Canonical := by
  grind [asyncFault, canonical_deadFault, canonical_modFlight, State.Canonical]

theorem canonical_lateFirings (s : State) (arms : List Arm) (hs : s.Canonical) : (lateFirings s arms).Canonical := by
  unfold lateFirings
  grind [canonical_asyncFault, canonical_foldl, State.Canonical]

theorem canonical_trapNow (c : Ctx) (fi : FaultInfo) (hc : c.st.Canonical) : (trapNow c fi).Canonical := by
  grind [trapNow, canonical_takeTrap, State.Canonical]

theorem canonical_fault (c : Ctx) (code detail : Nat) (hc : c.st.Canonical) : (fault c code detail).Canonical := by
  grind [fault, canonical_trapNow, State.Canonical]

theorem canonical_faultAt (c : Ctx) (code detail : Nat) (addr : DWord) (hc : c.st.Canonical) : (faultAt c code detail addr).Canonical := by
  grind [faultAt, canonical_trapNow, State.Canonical]

theorem canonical_stall (c : Ctx) (w : Why) (hc : c.st.Canonical) : (stall c w).Canonical := hc

theorem canonical_goto (c : Ctx) (pc : DWord) (hc : c.st.Canonical) : (goto c pc).st.Canonical := hc

theorem canonical_next (c : Ctx) (hc : c.st.Canonical) : (next c).st.Canonical := hc

/-! ### Registers and the issue of an instruction -/

theorem canonical_issue (ops : List (Opnd × Nat)) (priv : Bool) (body : Ctx → State) (s : State)
    (hbody : ∀ x0, x0.st.Canonical → (body x0).Canonical) (hs : s.Canonical) : KeepsMemory (issue ops priv body s) := by
  grind [issue, canonical_issuer, canonical_fault, State.Canonical, KeepsMemory]

/-! ### Sticky flags (07 R185-R187) -/

theorem canonical_raise (c : Ctx) (ms : List Lanes) (hc : c.st.Canonical) : (raise c ms).st.Canonical := hc

/-! ### Beacons and retirement (20 R420-R426) -/

theorem canonical_haltOthers (s : State) (f : Flight) (fid : Nat) (hs : s.Canonical) : (haltOthers s f fid).Canonical := hs

theorem canonical_applyHalt (s : State) (fid n scope cause bcns : Nat) (lanes : Lanes) (pc resume : DWord) (seq tcause : Word)
    (withheld : Bool) (further : Nat) (hs : s.Canonical) :
    (applyHalt s fid n scope cause bcns lanes pc resume seq tcause withheld further).Canonical := by
  grind [applyHalt, canonical_haltRecord, canonical_modFlight, State.Canonical]

theorem canonical_haltBeyond (s : State) (f : Flight) (fid a : Nat) (hs : s.Canonical) : (haltBeyond s f fid a).Canonical := by
  grind [haltBeyond, canonical_modGang, canonical_haltOthers, canonical_assertFreeze, State.Canonical]

theorem canonical_countHits (s : State) (f : Flight) (g : Fragment) (seq : Word) (hs : List (Bcn × Lanes)) (hs' : s.Canonical) :
    (countHits s f g seq hs).Canonical := by
  unfold countHits
  grind [canonical_modCore, canonical_latch, canonical_tracePacket, canonical_foldl, State.Canonical]

theorem canonical_takeAction (s : State) (fid n : Nat) (hs : List (Bcn × Lanes)) (pc resume : DWord) (seq : Word) (i : Option Instr)
    (hs' : s.Canonical) : (takeAction s fid n hs pc resume seq i).Canonical := by
  grind [takeAction, canonical_takeTrap, canonical_haltBeyond, canonical_applyHalt, canonical_modFlight, State.Canonical]

theorem canonical_examine (s : State) (rs : Cells DWord) (fid n : Nat) (pc : DWord) (seq : Word) (obs : Obs) (hs : s.Canonical) :
    (examine s rs fid n pc seq obs).Canonical := by
  grind [examine, canonical_takeAction, canonical_countHits, State.Canonical]

theorem canonical_settled (c : Ctx) (hc : c.st.Canonical) : (settled c).st.Canonical := hc

theorem canonical_withhold (c : Ctx) (i : Instr) (hc : c.st.Canonical) : ∀ t, withhold c i = some t → t.Canonical := by
  grind [withhold, canonical_commit, canonical_settled, canonical_next, canonical_takeAction, canonical_countHits, State.Canonical]

theorem canonical_retire (c0 c : Ctx) (hc : c.st.Canonical) : (retire c0 c).Canonical := by
  grind [retire, canonical_commit, canonical_settled, canonical_examine, State.Canonical]

theorem canonical_retireNext (c0 c : Ctx) (hc : c.st.Canonical) : (retireNext c0 c).Canonical := by
  grind [retireNext, canonical_retire, canonical_next, State.Canonical]

end Sys2Proof.Machine
end

section
/-!
SUPPORT. Memory stays in its canonical form (log 4) through the operations of the lane instructions and the memory instructions. Each lemma
names the operations that its function is made of. Each proof uses lemmas just before it, so they are checked one after another: proofs
that wait for each other in threads of their own take too much memory.
-/
namespace Sys2Proof.Machine

set_option Elab.async false

/-! ### Scalar instructions and masks (06 R158-R163) -/

theorem canonical_scalar2 (k : Word → Word → Word) (d a b : Opnd) (s : State) (hs : s.Canonical) : KeepsMemory (scalar2 k d a b s) := by
  unfold scalar2
  grind [canonical_issue, canonical_retireNext, canonical_putS, State.Canonical, KeepsMemory]

theorem canonical_scalar1 (k : Word → Word) (d a : Opnd) (s : State) (hs : s.Canonical) : KeepsMemory (scalar1 k d a s) := by
  unfold scalar1
  grind [canonical_issue, canonical_retireNext, canonical_putS, State.Canonical, KeepsMemory]

theorem canonical_scalarI (k : Word → Word → Word) (d a : Opnd) (imm : BitVec 25) (s : State) (hs : s.Canonical) :
    KeepsMemory (scalarI k d a imm s) := by
  unfold scalarI
  grind [canonical_issue, canonical_retireNext, canonical_putS, State.Canonical, KeepsMemory]

theorem canonical_execScmp (t : Ty) (q : Cond) (d a b : Opnd) (s : State) (hs : s.Canonical) : KeepsMemory (execScmp t q d a b s) := by
  grind [execScmp, canonical_scalar2, State.Canonical, KeepsMemory]

theorem canonical_execSsel (u0 : Ty) (d a b x : Opnd) (s : State) (hs : s.Canonical) : KeepsMemory (execSsel u0 d a b x s) := by
  grind [execSsel, canonical_issue, canonical_retireNext, canonical_putS, State.Canonical, KeepsMemory]

theorem canonical_execSbfe (t : Ty) (d a b x : Opnd) (s : State) (hs : s.Canonical) : KeepsMemory (execSbfe t d a b x s) := by
  grind [execSbfe, canonical_issue, canonical_retireNext, canonical_putS, State.Canonical, KeepsMemory]

theorem canonical_execSmov (t : Ty) (d a : Opnd) (s : State) (hs : s.Canonical) : KeepsMemory (execSmov t d a s) := by
  grind [execSmov, canonical_issue, canonical_retireNext, canonical_putS, State.Canonical, KeepsMemory]

theorem canonical_execSadd64 (u0 : Ty) (d a b : Opnd) (s : State) (hs : s.Canonical) : KeepsMemory (execSadd64 u0 d a b s) := by
  grind [execSadd64, canonical_issue, canonical_retireNext, canonical_putS2, State.Canonical, KeepsMemory]

theorem canonical_captureClk (c : Ctx) (n : Nat) (hc : c.st.Canonical) : (captureClk c n).st.Canonical := by
  grind [captureClk, State.Canonical]

theorem canonical_execSmovs (d : Opnd) (n : BitVec 8) (s : State) (hs : s.Canonical) : KeepsMemory (execSmovs d n s) := by
  grind [execSmovs, canonical_issue, canonical_retireNext, canonical_putS, canonical_captureClk, State.Canonical, KeepsMemory]

theorem canonical_execSmovw (n : BitVec 8) (a : Opnd) (s : State) (hs : s.Canonical) : KeepsMemory (execSmovw n a s) := by
  grind [execSmovw, canonical_issue, canonical_fault, canonical_retireNext, State.Canonical, KeepsMemory]

theorem canonical_execSmovi (d : Opnd) (v : Word) (s : State) (hs : s.Canonical) : KeepsMemory (execSmovi d v s) := by
  grind [execSmovi, canonical_issue, canonical_retireNext, canonical_putS, State.Canonical, KeepsMemory]

theorem canonical_execSaddi (d a : Opnd) (v : Word) (s : State) (hs : s.Canonical) : KeepsMemory (execSaddi d a v s) := by
  grind [execSaddi, canonical_issue, canonical_retireNext, canonical_putS, State.Canonical, KeepsMemory]

theorem canonical_mask2 (k : Lanes → Lanes → Lanes) (m ma mb : Fin 24) (s : State) (hs : s.Canonical) :
    KeepsMemory (mask2 k m ma mb s) := by
  unfold mask2
  grind [canonical_issue, canonical_retireNext, canonical_putMask, State.Canonical, KeepsMemory]

theorem canonical_execMpopc (d : Opnd) (ma : Fin 24) (s : State) (hs : s.Canonical) : KeepsMemory (execMpopc d ma s) := by
  grind [execMpopc, canonical_issue, canonical_retireNext, canonical_putS, State.Canonical, KeepsMemory]

theorem canonical_execMfirst (d : Opnd) (ma : Fin 24) (s : State) (hs : s.Canonical) : KeepsMemory (execMfirst d ma s) := by
  grind [execMfirst, canonical_issue, canonical_retireNext, canonical_putS, State.Canonical, KeepsMemory]

theorem canonical_execMlane (m : Fin 24) (a : Opnd) (s : State) (hs : s.Canonical) : KeepsMemory (execMlane m a s) := by
  grind [execMlane, canonical_issue, canonical_retireNext, canonical_putMask, State.Canonical, KeepsMemory]

/-! ### Vector instructions (08 R199-R225) -/

theorem canonical_seeVals (c : Ctx) (m : List Nat) (val : Nat → Word) (hc : c.st.Canonical) : (seeVals c m val).st.Canonical := hc

theorem canonical_vecWord (c : Ctx) (d : Opnd) (val : Nat → Word) (hc : c.st.Canonical) : (vecWord c d val).st.Canonical := by
  grind [vecWord, canonical_seeVals, canonical_putV, State.Canonical]

theorem canonical_vecPut (c : Ctx) (t : Ty) (d : Opnd) (r : Nat → Nat) (hc : c.st.Canonical) : (vecPut c t d r).st.Canonical := by
  grind [vecPut, canonical_vecWord, State.Canonical]

theorem canonical_vecFlt (c : Ctx) (t : Ty) (d : Opnd) (r : Nat → FRes) (hc : c.st.Canonical) : (vecFlt c t d r).st.Canonical := by
  grind [vecFlt, canonical_vecPut, canonical_raise, State.Canonical]

theorem canonical_vec2 (k : Word → Word → Word) (d a b : Opnd) (s : State) (hs : s.Canonical) : KeepsMemory (vec2 k d a b s) := by
  unfold vec2
  grind [canonical_issue, canonical_retireNext, canonical_vecWord, State.Canonical, KeepsMemory]

theorem canonical_vec1 (k : Word → Word) (d a : Opnd) (s : State) (hs : s.Canonical) : KeepsMemory (vec1 k d a s) := by
  unfold vec1
  grind [canonical_issue, canonical_retireNext, canonical_vecWord, State.Canonical, KeepsMemory]

theorem canonical_vec3 (k : Word → Word → Word → Word) (d a b x : Opnd) (s : State) (hs : s.Canonical) :
    KeepsMemory (vec3 k d a b x s) := by
  unfold vec3
  grind [canonical_issue, canonical_retireNext, canonical_vecWord, State.Canonical, KeepsMemory]

theorem canonical_vecI (k : Word → Word → Word) (d a : Opnd) (imm : BitVec 25) (s : State) (hs : s.Canonical) :
    KeepsMemory (vecI k d a imm s) := by
  unfold vecI
  grind [canonical_issue, canonical_retireNext, canonical_vecWord, State.Canonical, KeepsMemory]

theorem canonical_flt2 (k : Ty → Nat → Nat → Nat → FRes) (t : Ty) (rm : Rm) (d a b : Opnd) (s : State) (hs : s.Canonical) :
    KeepsMemory (flt2 k t rm d a b s) := by
  unfold flt2
  grind [canonical_issue, canonical_retireNext, canonical_vecFlt, State.Canonical, KeepsMemory]

theorem canonical_putCmp (c : Ctx) (d : Opnd) (p : Nat → Bool) (hc : c.st.Canonical) : (putCmp c d p).st.Canonical := by
  unfold putCmp
  split
  · exact List.foldlRecOn (motive := fun c : Ctx => c.st.Canonical) _ _ (canonical_putMask _ _ _ hc) fun _ h _ _ =>
      canonical_seeVals _ _ _ h
  · exact canonical_vecWord _ _ _ hc

theorem canonical_execVcmp (t : Ty) (q : Cond) (d a b : Opnd) (s : State) (hs : s.Canonical) : KeepsMemory (execVcmp t q d a b s) := by
  grind [execVcmp, canonical_issue, canonical_retireNext, canonical_putCmp, State.Canonical, KeepsMemory]

theorem canonical_execVsel (t : Ty) (d a b x : Opnd) (s : State) (hs : s.Canonical) : KeepsMemory (execVsel t d a b x s) := by
  grind [execVsel, canonical_issue, canonical_retireNext, canonical_vecPut, State.Canonical, KeepsMemory]

theorem canonical_execVmov (t : Ty) (d a : Opnd) (s : State) (hs : s.Canonical) : KeepsMemory (execVmov t d a s) := by
  grind [execVmov, canonical_issue, canonical_retireNext, canonical_vecPut, State.Canonical, KeepsMemory]

theorem canonical_execVadd64 (t : Ty) (d a b : Opnd) (s : State) (hs : s.Canonical) : KeepsMemory (execVadd64 t d a b s) := by
  grind [execVadd64, canonical_issue, canonical_retireNext, canonical_vecPut, State.Canonical, KeepsMemory]

theorem canonical_execVmad64 (t : Ty) (d a b x : Opnd) (s : State) (hs : s.Canonical) : KeepsMemory (execVmad64 t d a b x s) := by
  grind [execVmad64, canonical_issue, canonical_retireNext, canonical_vecPut, State.Canonical, KeepsMemory]

theorem canonical_execVshfl (t : Ty) (mode : ShMode) (d a b : Opnd) (s : State) (hs : s.Canonical) :
    KeepsMemory (execVshfl t mode d a b s) := by
  grind [execVshfl, canonical_issue, canonical_retireNext, canonical_vecPut, State.Canonical, KeepsMemory]

theorem canonical_putAny (c : Ctx) (t : Ty) (d : Opnd) (x : Nat) (hc : c.st.Canonical) : (putAny c t d x).st.Canonical := by
  grind [putAny, canonical_seeVals, canonical_putS, canonical_vecPut, State.Canonical]

theorem canonical_execVbcast (t : Ty) (d a b : Opnd) (s : State) (hs : s.Canonical) : KeepsMemory (execVbcast t d a b s) := by
  grind [execVbcast, canonical_issue, canonical_retireNext, canonical_putAny, State.Canonical, KeepsMemory]

theorem canonical_execVredu (t : Ty) (op : RedOp) (d a : Opnd) (s : State) (hs : s.Canonical) : KeepsMemory (execVredu t op d a s) := by
  grind [execVredu, canonical_issue, canonical_retireNext, canonical_putAny, canonical_raise, State.Canonical, KeepsMemory]

theorem canonical_execVscan (t : Ty) (op : RedOp) (excl : Bool) (d a : Opnd) (s : State) (hs : s.Canonical) :
    KeepsMemory (execVscan t op excl d a s) := by
  grind [execVscan, canonical_issue, canonical_retireNext, canonical_vecFlt, State.Canonical, KeepsMemory]

theorem canonical_execVmovs (d : Opnd) (n : BitVec 8) (s : State) (hs : s.Canonical) : KeepsMemory (execVmovs d n s) := by
  grind [execVmovs, canonical_issue, canonical_retireNext, canonical_vecWord, State.Canonical, KeepsMemory]

theorem canonical_execVmovi (d : Opnd) (v : Word) (s : State) (hs : s.Canonical) : KeepsMemory (execVmovi d v s) := by
  grind [execVmovi, canonical_issue, canonical_retireNext, canonical_putV, State.Canonical, KeepsMemory]

theorem canonical_execVaddi (d a : Opnd) (v : Word) (s : State) (hs : s.Canonical) : KeepsMemory (execVaddi d a v s) := by
  grind [execVaddi, canonical_issue, canonical_retireNext, canonical_putV, State.Canonical, KeepsMemory]

theorem canonical_execVfma (t : Ty) (rm : Rm) (d a b x : Opnd) (s : State) (hs : s.Canonical) : KeepsMemory (execVfma t rm d a b x s) := by
  grind [execVfma, canonical_issue, canonical_retireNext, canonical_vecFlt, State.Canonical, KeepsMemory]

theorem canonical_execVfcmp (t : Ty) (q : FCond) (d a b : Opnd) (s : State) (hs : s.Canonical) : KeepsMemory (execVfcmp t q d a b s) := by
  grind [execVfcmp, canonical_issue, canonical_retireNext, canonical_putCmp, State.Canonical, KeepsMemory]

theorem canonical_execVfclass (t : Ty) (d a : Opnd) (s : State) (hs : s.Canonical) : KeepsMemory (execVfclass t d a s) := by
  grind [execVfclass, canonical_issue, canonical_retireNext, canonical_vecWord, State.Canonical, KeepsMemory]

theorem canonical_execVfrnd (t : Ty) (rm : Rm) (d a : Opnd) (s : State) (hs : s.Canonical) : KeepsMemory (execVfrnd t rm d a s) := by
  grind [execVfrnd, canonical_issue, canonical_retireNext, canonical_vecFlt, State.Canonical, KeepsMemory]

theorem canonical_execVfscl (t : Ty) (rm : Rm) (d a b : Opnd) (s : State) (hs : s.Canonical) : KeepsMemory (execVfscl t rm d a b s) := by
  grind [execVfscl, canonical_issue, canonical_retireNext, canonical_vecFlt, State.Canonical, KeepsMemory]

theorem canonical_execVcvt (t : Ty) (rm : Rm) (f : Ty) (d a b : Opnd) (s : State) (hs : s.Canonical) :
    KeepsMemory (execVcvt t rm f d a b s) := by
  grind [execVcvt, canonical_issue, canonical_retireNext, canonical_vecFlt, State.Canonical, KeepsMemory]

theorem canonical_execVf2i (t : Ty) (rm : Rm) (f : Ty) (d a b : Opnd) (s : State) (hs : s.Canonical) :
    KeepsMemory (execVf2i t rm f d a b s) := by
  grind [execVf2i, canonical_issue, canonical_retireNext, canonical_vecFlt, State.Canonical, KeepsMemory]

theorem canonical_execVi2f (t : Ty) (rm : Rm) (f : Ty) (d a b : Opnd) (s : State) (hs : s.Canonical) :
    KeepsMemory (execVi2f t rm f d a b s) := by
  grind [execVi2f, canonical_issue, canonical_retireNext, canonical_vecFlt, State.Canonical, KeepsMemory]

theorem canonical_putStats (c : Ctx) (d : Opnd) (r : Nat → Stat × Nat) (hc : c.st.Canonical) : (putStats c d r).st.Canonical := by
  grind [putStats, canonical_raise, canonical_vecWord, State.Canonical]

theorem canonical_execWelf (rm : Rm) (d a : Opnd) (s : State) (hs : s.Canonical) : KeepsMemory (execWelf rm d a s) := by
  grind [execWelf, canonical_issue, canonical_retireNext, canonical_putStats, State.Canonical, KeepsMemory]

theorem canonical_execWmrg (rm : Rm) (d a : Opnd) (s : State) (hs : s.Canonical) : KeepsMemory (execWmrg rm d a s) := by
  grind [execWmrg, canonical_issue, canonical_retireNext, canonical_putStats, State.Canonical, KeepsMemory]

theorem canonical_execVbexp (t : Ty) (n : Fin 16) (d a : Opnd) (s : State) (hs : s.Canonical) : KeepsMemory (execVbexp t n d a s) := by
  grind [execVbexp, canonical_issue, canonical_retireNext, canonical_vecWord, State.Canonical, KeepsMemory]

theorem canonical_execVpkx (t : Ty) (d a b : Opnd) (s : State) (hs : s.Canonical) : KeepsMemory (execVpkx t d a b s) := by
  grind [execVpkx, canonical_issue, canonical_retireNext, canonical_vecFlt, State.Canonical, KeepsMemory]

theorem canonical_execVunpkx (t : Ty) (d a b : Opnd) (s : State) (hs : s.Canonical) : KeepsMemory (execVunpkx t d a b s) := by
  refine canonical_issue _ _ _ _ (fun c hc => canonical_retireNext _ _ ?_) hs
  exact List.foldlRecOn (motive := fun c : Ctx => c.st.Canonical) _ _ hc fun _ h _ _ => canonical_vecFlt _ _ _ _ h

/-! ### Wait counters and results (06 R154, R155) -/

theorem canonical_pendResult (c : Ctx) (acc : Bool) (d : Opnd) (rows : List Row) (flags : List Lanes) (hc : c.st.Canonical) :
    (pendResult c acc d rows flags).st.Canonical := hc

theorem canonical_landPend (s : State) (fid : Nat) (p : Pend) (hs : s.Canonical) : (landPend s fid p).Canonical := by
  grind [landPend, canonical_modFlight, canonical_examine, State.Canonical]

theorem canonical_landEarly (s : State) (fid id reg lane : Nat) (hs : s.Canonical) : (landEarly s fid id reg lane).Canonical := hs

/-! ### Images (11 R277-R281) -/

theorem canonical_execImgq (map : Fin 4) (d a b : Opnd) (s : State) (hs : s.Canonical) : KeepsMemory (execImgq map d a b s) := by
  grind [execImgq, canonical_issue, canonical_fault, canonical_putV, canonical_retireNext, State.Canonical, KeepsMemory]

/-! ### Checks of accesses, and their records (04 R89-R95) -/

theorem canonical_checkGlobal (s : State) (pid cr : Nat) (sup : Bool) (lp : Option TlbEntry) (a : Acc) (size : Nat) (va : DWord)
    (hs : s.Canonical) : (checkGlobal s pid cr sup lp a size va).2.2.Canonical := by
  grind [checkGlobal, canonical_translate, State.Canonical]

theorem canonical_checkOne (s : State) (pid cr : Nat) (sup : Bool) (lp : Option TlbEntry) (ms : MSpec) (va : DWord) (hs : s.Canonical) :
    (checkOne s pid cr sup lp ms va).2.2.Canonical := by
  grind [checkOne, canonical_checkGlobal, State.Canonical]

theorem canonical_checkAll (s : State) (f : Flight) (sup : Bool) (ms : MSpec) (ts : List Tgt) (hs : s.Canonical) :
    (checkAll s f sup ms ts).2.2.Canonical := by
  induction ts generalizing s f with
  | nil => exact hs
  | cons t r ih => exact ih _ _ (canonical_checkOne _ _ _ _ _ _ _ hs)

theorem canonical_recordFaults (s : State) (pid : Nat) (a : Acc) (sup : Bool) (faults : List (Nat × Nat)) (hs : s.Canonical) :
    (recordFaults s pid a sup faults).Canonical := by
  unfold recordFaults
  grind [canonical_recordFault, canonical_foldl, State.Canonical]

theorem canonical_readSome (s : State) (f : Flight) (o : Mop) (l : LaneOp) (off n : Nat) (hs : s.Canonical) :
    (readSome s f o l off n).2.Canonical := by
  grind [readSome, canonical_dropCache, canonical_cacheRead, State.Canonical]

theorem canonical_readLane (s : State) (f : Flight) (o : Mop) (l : LaneOp) (hs : s.Canonical) : (readLane s f o l).2.Canonical := by
  unfold readLane
  split
  · exact canonical_readSome _ _ _ _ _ _ hs
  · refine List.foldlRecOn (motive := fun r : Option (List Word) × State => r.2.Canonical) _ _ hs fun r h p _ => ?_
    split
    · exact h
    · exact canonical_readSome _ _ _ _ _ _ h

theorem canonical_memError (s : State) (fid : Nat) (o : Mop) (l : LaneOp) (hs : s.Canonical) : (memError s fid o l).Canonical := by
  grind [memError, canonical_modFlight, canonical_asyncFault, State.Canonical]

theorem canonical_finishMop (s : State) (fid id : Nat) (hs : s.Canonical) : (finishMop s fid id).Canonical := by
  grind [finishMop, canonical_examine, canonical_modFlight, State.Canonical]

theorem canonical_landLane (s : State) (fid : Nat) (o : Mop) (l : LaneOp) (hs : s.Canonical) : (landLane s fid o l).Canonical := by
  grind [landLane, canonical_modFlight, canonical_readLane, canonical_finishMop, canonical_memError, canonical_setFull, State.Canonical]

theorem canonical_loadPart (s : State) (fid : Nat) (f : Flight) (o : Mop) (l : LaneOp) (p : Nat) (hs : s.Canonical) :
    (loadPart s fid f o l p).Canonical := by
  grind [loadPart, canonical_readSome, canonical_modFlight, State.Canonical]

theorem canonical_landEarlyWord (s : State) (fid id reg lane : Nat) (hs : s.Canonical) : (landEarlyWord s fid id reg lane).Canonical := by
  grind [landEarlyWord, canonical_modFlight, State.Canonical]

theorem canonical_storeBytes (s : State) (who : Option (Nat × Nat)) (cr : Nat) (image : Bool) (a : Nat) (bs : List Byte)
    (hs : s.Canonical) : (storeBytes s who cr image a bs).Canonical := by
  grind [storeBytes, canonical_noteWrite, canonical_writeBytes, canonical_dropLine, canonical_storeLine, State.Canonical]

theorem canonical_storeOne (s : State) (fid : Nat) (f : Flight) (o : Mop) (image : Bool) (l : LaneOp) (hs : s.Canonical) :
    (storeOne s fid f o image l).Canonical := by
  unfold storeOne
  grind [canonical_doorWrite, canonical_storeBytes, canonical_setFull, canonical_foldl, State.Canonical]

theorem canonical_storeLane (s : State) (fid : Nat) (o : Mop) (lane : Nat) (hs : s.Canonical) : (storeLane s fid o lane).Canonical := by
  unfold storeLane
  split
  · exact hs
  · next f _ =>
    have hstore (ls : List LaneOp) :
        (ls.foldl (fun (acc : State × Bool) l => (storeOne acc.1 fid f o acc.2 l, true)) (s, false)).1.Canonical :=
      List.foldlRecOn (motive := fun r : State × Bool => r.1.Canonical) _ _ hs fun r h l _ => canonical_storeOne _ _ _ _ _ _ h
    grind [canonical_finishMop, canonical_memError, canonical_modFlight]

theorem canonical_storePart (s : State) (fid : Nat) (f : Flight) (o : Mop) (lane k p : Nat) (hs : s.Canonical) :
    (storePart s fid f o lane k p).Canonical := by
  grind [storePart, canonical_storeBytes, canonical_modFlight, State.Canonical]

theorem canonical_ctxAt (s : State) (fid n : Nat) (hs : s.Canonical) : ∀ t, ctxAt s fid n = some t → t.st.Canonical :=
  canonical_issuer _ hs

theorem canonical_back (s t : State) (hs : t.Canonical) : (back s t).Canonical := by
  grind [back, State.Canonical]

theorem canonical_completeMop (s : State) (fid : Nat) (o : Mop) (hs : s.Canonical) : (completeMop s fid o).Canonical := by
  grind [completeMop, canonical_ctxAt, canonical_back, canonical_commit, canonical_settled, canonical_next, canonical_enterNext,
    canonical_examine, canonical_finishMop, State.Canonical]

theorem canonical_advanceMop (s : State) (fid id : Nat) (hs : s.Canonical) : (advanceMop s fid id).Canonical := by
  grind [advanceMop, canonical_modFrag, canonical_completeMop, State.Canonical]

theorem canonical_failPark (s : State) (fid n id : Nat) (hs : s.Canonical) : (failPark s fid n id).Canonical := by
  grind [failPark, canonical_modFlight, canonical_takeTrap, State.Canonical]

theorem canonical_recheck (s : State) (f : Flight) (sup : Bool) (o : Mop) (hs : s.Canonical) : (recheck s f sup o).2.2.1.Canonical := by
  grind [recheck, canonical_checkAll, State.Canonical]

/-! ### Atomics and ordered sums (11 R262-R274) -/

theorem canonical_putKey (s : State) (who : Option (Nat × Nat)) (a n v : Nat) (hs : s.Canonical) : (putKey s who a n v).Canonical := by
  grind [putKey, canonical_doorWrite, canonical_noteWrite, canonical_writeNat, State.Canonical]

theorem canonical_atomOne (s : State) (fid c : Nat) (o : Mop) (l : LaneOp) (hs : s.Canonical) : (atomOne s fid c o l).2.Canonical := by
  grind [atomOne, canonical_putKey, canonical_dropLine, State.Canonical]

theorem canonical_atomLane (s : State) (fid : Nat) (f : Flight) (o : Mop) (mine : List LaneOp) (hs : s.Canonical) :
    (atomLane s fid f o mine).1.Canonical := by
  unfold atomLane
  grind [canonical_atomOne, canonical_foldl, State.Canonical]

theorem canonical_enterLane (s : State) (u1 : Nat) (f : Flight) (o : Mop) (mine : List LaneOp) (hs : s.Canonical) :
    (enterLane s u1 f o mine).1.Canonical := by
  unfold enterLane
  grind [canonical_modLaunch, canonical_dropLine, canonical_foldl, State.Canonical]

theorem canonical_sealWord (s : State) (key pa : Nat) (hs : s.Canonical) : (sealWord s key pa).Canonical := by
  grind [sealWord, canonical_modLaunch, canonical_noteWrite, canonical_writeNat, State.Canonical]

theorem canonical_sealLane (s : State) (u1 : Nat) (f : Flight) (u3 : Mop) (mine : List LaneOp) (hs : s.Canonical) :
    (sealLane s u1 f u3 mine).1.Canonical := by
  unfold sealLane
  grind [canonical_dropLine, canonical_sealWord, canonical_foldl, State.Canonical]

theorem canonical_decrement (s : State) (who : Option (Nat × Nat)) (pa pid launch : Nat) (queue graph : Option Nat) (pc : DWord)
    (seq : Word) (hs : s.Canonical) : (decrement s who pa pid launch queue graph pc seq).2.Canonical := by
  grind [decrement, canonical_noteWrite, canonical_writeNat, canonical_send, State.Canonical]

theorem canonical_depLane (s : State) (fid : Nat) (f : Flight) (o : Mop) (mine : List LaneOp) (hs : s.Canonical) :
    (depLane s fid f o mine).1.Canonical := by
  unfold depLane
  grind [canonical_decrement, canonical_dropLine, State.Canonical]

theorem canonical_festLane (s : State) (u1 : Nat) (u2 : Flight) (o : Mop) (mine : List LaneOp) (hs : s.Canonical) :
    (festLane s u1 u2 o mine).1.Canonical := by
  unfold festLane
  grind [canonical_setFull, canonical_foldl, State.Canonical]

/-- Performing a lane's accesses keeps memory's form. -/
def KeepsAct (k : Act) : Prop := ∀ s fid f o mine, s.Canonical → (k s fid f o mine).1.Canonical

theorem actOf_cases (i : Instr) (k : Act) (h : actOf i = some k) :
    k = atomLane ∨ k = enterLane ∨ k = sealLane ∨ k = depLane ∨ k = festLane ∨ k = fun s _ _ _ _ => (s, []) := by
  cases i <;> cases h <;> simp

theorem keepsAct_actOf (i : Instr) (k : Act) (h : actOf i = some k) : KeepsAct k := by
  obtain rfl | rfl | rfl | rfl | rfl | rfl := actOf_cases i k h
  · exact canonical_atomLane
  · exact canonical_enterLane
  · exact canonical_sealLane
  · exact canonical_depLane
  · exact canonical_festLane
  · exact fun _ _ _ _ _ hs => hs

theorem canonical_performSome (k : Act) (s : State) (fid : Nat) (f : Flight) (o : Mop) (lane : Nat) (mine : List LaneOp)
    (primary : Bool) (hk : KeepsAct k) (hs : s.Canonical) : (performSome k s fid f o lane mine primary).Canonical := hk _ _ _ _ _ hs

theorem canonical_acquired (s : State) (f : Flight) (o : Mop) (hs : s.Canonical) : (acquired s f o).Canonical := by
  grind [acquired, canonical_dropCache, State.Canonical]

theorem canonical_performLane (k : Act) (s : State) (fid id lane : Nat) (hk : KeepsAct k) (hs : s.Canonical) :
    (performLane k s fid id lane).Canonical := by
  grind [performLane, canonical_acquired, canonical_memError, canonical_performSome, State.Canonical]

theorem canonical_performNext (k : Act) (s : State) (fid id : Nat) (hk : KeepsAct k) (hs : s.Canonical) :
    (performNext k s fid id).Canonical := by
  unfold performNext
  split
  · exact hs
  · next f _ =>
    split
    · exact hs
    · next o _ =>
      have hperform (t : State) (lane : Nat) (mine : List LaneOp) (b : Bool) (ht : t.Canonical) :=
        canonical_performSome k t fid f o lane mine b hk ht
      have hacquired := canonical_acquired s f o hs
      grind [canonical_memError]

/-! ### Loads, stores and the other memory instructions (04 R100-R104) -/

theorem canonical_tryFe (s : State) (fid id lane : Nat) (hs : s.Canonical) : (tryFe s fid id lane).Canonical := by
  unfold tryFe
  split
  · exact hs
  · next f _ =>
    have hread (o : Mop) (l : LaneOp) := canonical_readLane s f o l hs
    grind [canonical_memError, canonical_setFull, canonical_modFlight]

theorem canonical_performNow (s : State) (fid id : Nat) (hs : s.Canonical) : (performNow s fid id).Canonical := by
  unfold performNow
  grind [canonical_performLane, canonical_tryFe, keepsAct_actOf, canonical_foldl, State.Canonical]

theorem canonical_settleMop (s : State) (fid pid n id : Nat) (hs : s.Canonical) : (settleMop s fid pid n id).Canonical := by
  grind [settleMop, canonical_advanceMop, canonical_failPark, State.Canonical]

theorem canonical_memTrap (s : State) (f : Flight) (g : Fragment) (fid code : Nat) (m : Option Lanes) (va pc : DWord) (hs : s.Canonical) :
    (memTrap s f g fid code m va pc).Canonical := by
  grind [memTrap, canonical_send, canonical_takeTrap, State.Canonical]

theorem canonical_markAntisym (c : Ctx) (i : Instr) (ls : List Nat) (hc : c.st.Canonical) : (markAntisym c i ls).Canonical := by
  grind [markAntisym, canonical_modLaunch, State.Canonical]

theorem canonical_spoilSums (s : State) (pid : Nat) (i : Instr) (ks : List (Tgt × Chk)) (hs : s.Canonical) :
    (spoilSums s pid i ks).Canonical := by
  unfold spoilSums
  grind [canonical_spoilAt, canonical_foldl, State.Canonical]

theorem canonical_memStart (c : Ctx) (i : Instr) (ks : List (Tgt × Chk)) (o : Mop) (hc : c.st.Canonical) :
    (memStart c i ks o).Canonical := by
  grind [memStart, canonical_spoilSums, canonical_markAntisym, canonical_commit, canonical_recordFaults, canonical_settleMop,
    canonical_performNow, State.Canonical]

theorem canonical_memIssue (ops : List (Opnd × Nat)) (i : Instr) (pre : Mop → Ctx → Ctx) (s : State)
    (hpre : ∀ x0 x1, x1.st.Canonical → (pre x0 x1).st.Canonical) (hs : s.Canonical) : KeepsMemory (memIssue ops i pre s) := by
  refine canonical_issue _ _ _ _ (fun c hc => ?_) hs
  have hcheck := canonical_checkAll c.st c.f (c.g.level != 0) (mspec i) (allTgts c (mspec i)) hc
  dsimp only
  split
  · exact canonical_stall c _ hc
  · split
    · exact canonical_fault c _ _ hc
    · split
      · exact canonical_memTrap _ _ _ _ _ _ _ _ hcheck
      · split
        · exact canonical_fault c _ _ hc
        · split
          · exact canonical_stall c _ hc
          · split
            · next s1 h =>
              split at h
              · exact canonical_withhold _ i hcheck s1 h
              · cases h
            · exact canonical_memStart _ _ _ _ (hpre _ _ hcheck)

theorem canonical_execFeq (sc : Scope) (d : Fin 24) (m : MAddr) (s : State) (hs : s.Canonical) : KeepsMemory (execFeq sc d m s) := by
  grind [execFeq, canonical_memIssue, canonical_putMask, State.Canonical, KeepsMemory]

theorem canonical_prefetch (nt vec sup : Bool) (s : State) (f : Flight) (l : Nat) (va : DWord) (hs : s.Canonical) :
    (prefetch nt vec sup s f l va).2.Canonical := by
  grind [prefetch, canonical_checkGlobal, canonical_cacheRead, State.Canonical]

theorem canonical_execPf (nt : Bool) (m : MAddr) (s : State) (hs : s.Canonical) : KeepsMemory (execPf nt m s) := by
  refine canonical_issue _ _ _ _ (fun c hc => canonical_retireNext _ _ ?_) hs
  exact List.foldlRecOn (motive := fun r : Flight × State => r.2.Canonical) _ _ hc fun r h l _ => canonical_prefetch _ _ _ _ _ _ _ h

theorem canonical_execLoadResultWrite (fid op lane : Nat) (s : State) (hs : s.Canonical) :
    KeepsMemory (execLoadResultWrite fid op lane s) := by
  grind [execLoadResultWrite, canonical_landLane, State.Canonical, KeepsMemory]

theorem canonical_execStorePerformed (fid op lane : Nat) (s : State) (hs : s.Canonical) :
    KeepsMemory (execStorePerformed fid op lane s) := by
  grind [execStorePerformed, canonical_storeLane, canonical_advanceMop, canonical_performNext, canonical_finishMop, keepsAct_actOf,
    State.Canonical, KeepsMemory]

theorem canonical_execFeWaitSatisfied (fid op lane : Nat) (s : State) (hs : s.Canonical) :
    KeepsMemory (execFeWaitSatisfied fid op lane s) := by
  grind [execFeWaitSatisfied, canonical_tryFe, canonical_advanceMop, State.Canonical, KeepsMemory]

theorem canonical_partialFault (s : State) (fid n : Nat) (o : Mop) (code : Nat) (va : DWord) (hs : s.Canonical) :
    (partialFault s fid n o code va).Canonical := by
  grind [partialFault, canonical_modFlight, canonical_takeTrap, canonical_send, State.Canonical]

theorem canonical_replayMop (s : State) (fid n id : Nat) (hs : s.Canonical) : (replayMop s fid n id).Canonical := by
  grind [replayMop, canonical_recheck, canonical_partialFault, canonical_modFlight, canonical_recordFaults, canonical_settleMop,
    canonical_performNow, keepsAct_actOf, State.Canonical]

theorem canonical_resumeKept (c : Ctx) (i : Instr) (ls : List LaneOp) (m : Lanes) (hc : c.st.Canonical) :
    (resumeKept c i ls m).Canonical := by
  grind [resumeKept, canonical_markAntisym, canonical_replayMop, canonical_commit, State.Canonical]

end Sys2Proof.Machine
end

section
/-!
SUPPORT. Memory stays in its canonical form (log 4) through the operations of the flights, the engines and the tiles. Each lemma
names the operations that its function is made of. Each proof uses lemmas just before it, so they are checked one after another: proofs
that wait for each other in threads of their own take too much memory.
-/
namespace Sys2Proof.Machine

set_option Elab.async false

/-! ### Transfers, tokens, barriers and registers (06 R149-R177) -/

theorem canonical_branchPacket (c : Ctx) (taken split : Bool) (num : Nat) (hc : c.st.Canonical) :
    (branchPacket c taken split num).st.Canonical := by
  grind [branchPacket, canonical_tracePacket, State.Canonical]

theorem canonical_branch (c : Ctx) (taken : Bool) (off : Word) (hc : c.st.Canonical) : (branch c taken off).Canonical := by
  grind [branch, canonical_branchPacket, canonical_retire, canonical_goto, canonical_next, State.Canonical]

theorem canonical_diverge (c : Ctx) (t : Lanes) (tok : Nat) (off : Word) (hc : c.st.Canonical) : (diverge c t tok off).Canonical := by
  grind [diverge, canonical_branch, canonical_branchPacket, canonical_retire, canonical_goto, State.Canonical]

theorem canonical_execBra (off : Word) (s : State) (hs : s.Canonical) : KeepsMemory (execBra off s) := by
  grind [execBra, canonical_issue, canonical_retire, canonical_goto, State.Canonical, KeepsMemory]

theorem canonical_execBrc (q : Cc) (a : Opnd) (off : Word) (s : State) (hs : s.Canonical) : KeepsMemory (execBrc q a off s) := by
  grind [execBrc, canonical_issue, canonical_branch, State.Canonical, KeepsMemory]

theorem canonical_execBrv (q : Cc) (a : Opnd) (tok : Fin 16) (off : Word) (s : State) (hs : s.Canonical) :
    KeepsMemory (execBrv q a tok off s) := by
  grind [execBrv, canonical_issue, canonical_diverge, State.Canonical, KeepsMemory]

theorem canonical_execBrmLanes (m : Fin 24) (tok : Fin 16) (off : Word) (s : State) (hs : s.Canonical) :
    KeepsMemory (execBrmLanes m tok off s) := by
  grind [execBrmLanes, canonical_issue, canonical_diverge, State.Canonical, KeepsMemory]

theorem canonical_execBrm (mode : BrmMode) (m : Fin 24) (off : Word) (s : State) (hs : s.Canonical) :
    KeepsMemory (execBrm mode m off s) := by
  grind [execBrm, canonical_issue, canonical_branch, State.Canonical, KeepsMemory]

theorem canonical_execJoin (tok : Fin 16) (s : State) (hs : s.Canonical) : KeepsMemory (execJoin tok s) := by
  grind [execJoin, canonical_issue, canonical_retireNext, canonical_settled, canonical_tryMerge, canonical_commit, State.Canonical,
    KeepsMemory]

theorem canonical_execCall (k : Fin 48) (off : Word) (s : State) (hs : s.Canonical) : KeepsMemory (execCall k off s) := by
  grind [execCall, canonical_issue, canonical_retire, canonical_goto, canonical_putS2, State.Canonical, KeepsMemory]

theorem canonical_execRet (a : Opnd) (s : State) (hs : s.Canonical) : KeepsMemory (execRet a s) := by
  grind [execRet, canonical_issue, canonical_retire, canonical_goto, canonical_tracePacket, State.Canonical, KeepsMemory]

theorem canonical_execNop (s : State) (hs : s.Canonical) : KeepsMemory (execNop s) := by
  grind [execNop, canonical_issue, canonical_retireNext, State.Canonical, KeepsMemory]

theorem canonical_execExit (s : State) (hs : s.Canonical) : KeepsMemory (execExit s) := by
  grind [execExit, canonical_issue, canonical_fault, canonical_exitPacket, canonical_exitLanes, canonical_commit, canonical_settled,
    canonical_next, State.Canonical, KeepsMemory]

theorem canonical_execYield (s : State) (hs : s.Canonical) : KeepsMemory (execYield s) := by
  grind [execYield, canonical_issue, canonical_settled, canonical_next, canonical_commit, State.Canonical, KeepsMemory]

theorem canonical_execRegn (s : State) (hs : s.Canonical) : KeepsMemory (execRegn s) := by
  grind [execRegn, canonical_issue, canonical_retireNext, canonical_enterNext, State.Canonical, KeepsMemory]

theorem canonical_execBrkpt (a : Opnd) (s : State) (hs : s.Canonical) : KeepsMemory (execBrkpt a s) := by
  grind [execBrkpt, canonical_issue, canonical_fault, canonical_retireNext, State.Canonical, KeepsMemory]

theorem canonical_execWait (limits : BitVec 16) (s : State) (hs : s.Canonical) : KeepsMemory (execWait limits s) := by
  grind [execWait, canonical_issue, canonical_stall, canonical_retireNext, State.Canonical, KeepsMemory]

theorem canonical_barrier (waits : Bool) (a b : Opnd) (s : State) (hs : s.Canonical) : KeepsMemory (barrier waits a b s) := by
  unfold barrier
  grind [canonical_issue, canonical_fault, canonical_stall, canonical_settled, canonical_commit, canonical_barArrive, State.Canonical,
    KeepsMemory]

theorem canonical_execFence (kind : FenceKind) (sc : Scope) (s : State) (hs : s.Canonical) : KeepsMemory (execFence kind sc s) := by
  grind [execFence, canonical_issue, canonical_stall, canonical_retireNext, canonical_dropCache, State.Canonical, KeepsMemory]

theorem canonical_execOpfence (s : State) (hs : s.Canonical) : KeepsMemory (execOpfence s) := by
  grind [execOpfence, canonical_issue, canonical_stall, canonical_retireNext, State.Canonical, KeepsMemory]

theorem canonical_modPool (s : State) (f : Flight) (k : Nat → Nat) (hs : s.Canonical) : (modPool s f k).Canonical := hs

theorem canonical_execReggive (a : Opnd) (s : State) (hs : s.Canonical) : KeepsMemory (execReggive a s) := by
  grind [execReggive, canonical_issue, canonical_fault, canonical_retireNext, canonical_stall, canonical_modPool, State.Canonical,
    KeepsMemory]

theorem canonical_takeClaim (c : Ctx) (n : Nat) (hc : c.st.Canonical) : (takeClaim c n).st.Canonical := hc

theorem canonical_execRegclaim (a : Opnd) (s : State) (hs : s.Canonical) : KeepsMemory (execRegclaim a s) := by
  grind [execRegclaim, canonical_issue, canonical_fault, canonical_retireNext, canonical_takeClaim, canonical_commit, State.Canonical,
    KeepsMemory]

theorem canonical_execRegclaimTry (d a : Opnd) (s : State) (hs : s.Canonical) : KeepsMemory (execRegclaimTry d a s) := by
  grind [execRegclaimTry, canonical_issue, canonical_fault, canonical_retireNext, canonical_putS, canonical_takeClaim, State.Canonical,
    KeepsMemory]

theorem canonical_execRegclaimGrant (gid rank slot : Nat) (s : State) (hs : s.Canonical) :
    KeepsMemory (execRegclaimGrant gid rank slot s) := by
  grind [execRegclaimGrant, canonical_modFlight, canonical_modPool, canonical_modFrag, State.Canonical, KeepsMemory]

/-! ### Accesses of an engine (05 R129-R138) -/

theorem canonical_modEngine (s : State) (e : Nat) (k : Engine → Engine) (hs : s.Canonical) : (modEngine s e k).Canonical := hs

theorem canonical_holdTlb (s : State) (u : Option Nat) (t : TlbEntry) (hs : s.Canonical) : (holdTlb s u t).Canonical := by
  unfold holdTlb
  grind [canonical_modEngine, State.Canonical]

theorem canonical_engLook (s : State) (g : Agent) (a : Acc) (va : DWord) (hs : s.Canonical) : (engLook s g a va).2.Canonical := by
  grind [engLook, canonical_holdTlb, State.Canonical]

theorem canonical_engKey (s : State) (g : Agent) (a : Acc) (n : Nat) (va : DWord) (hs : s.Canonical) :
    (engKey s g a n va).2.Canonical := by
  grind [engKey, canonical_engLook, canonical_spoilAt, State.Canonical]

theorem canonical_engRead (s : State) (g : Agent) (va : DWord) (n : Nat) (hs : s.Canonical) : (engRead s g va n).2.Canonical := by
  grind [engRead, canonical_engKey, State.Canonical]

theorem canonical_engReads (s : State) (g : Agent) (l : List (DWord × Nat)) (hs : s.Canonical) : (engReads s g l).2.Canonical := by
  induction l generalizing s with
  | nil => exact hs
  | cons x r ih =>
    have hread := canonical_engRead s g x.1 x.2 hs
    grind [engReads]

theorem canonical_engPut (s : State) (g : Agent) (va : DWord) (bs : List Byte) (hs : s.Canonical) : (engPut s g va bs).2.Canonical := by
  grind [engPut, canonical_engKey, State.Canonical]

theorem canonical_engPuts (s : State) (g : Agent) (l : List (DWord × List Byte)) (hs : s.Canonical) : (engPuts s g l).2.Canonical := by
  induction l generalizing s with
  | nil => exact hs
  | cons x r ih =>
    have hput := canonical_engPut s g x.1 x.2 hs
    grind [engPuts]

theorem canonical_doPuts (s : State) (ps : List Put) (hs : s.Canonical) : (doPuts s ps).Canonical := by
  unfold doPuts
  grind [canonical_writeBytes, canonical_foldl, State.Canonical]

theorem canonical_openWork (s : State) (id gid fid since : Nat) (objs : List Nat) (hs : s.Canonical) :
    (openWork s id gid fid since objs).Canonical := hs

theorem canonical_endWork (s : State) (id : Nat) (hs : s.Canonical) : (endWork s id).Canonical := hs

theorem canonical_cutWork (s : State) (id : Nat) (hs : s.Canonical) : (cutWork s id).Canonical := hs

theorem canonical_loseRaced (w : Work) (s : State) (p : Put) (hs : s.Canonical) : (loseRaced w s p).Canonical := by
  unfold loseRaced
  grind [canonical_loseHit, canonical_foldl, State.Canonical]

theorem canonical_workPuts (s : State) (id : Nat) (ps : List Put) (hs : s.Canonical) : (workPuts s id ps).Canonical := by
  unfold workPuts
  grind [canonical_doPuts, canonical_loseRaced, canonical_foldl, State.Canonical]

theorem canonical_countBytes (s : State) (o n : Nat) (hs : s.Canonical) : (countBytes s o n).2.Canonical := by
  grind [countBytes, canonical_boUpdate, canonical_lateFirings, State.Canonical]

theorem canonical_failObj (s : State) (pid cr : Nat) (va : DWord) (hs : s.Canonical) : (failObj s pid cr va).Canonical := by
  grind [failObj, canonical_boSet, State.Canonical]

/-! ### Barrier objects (05 R116-R122) -/

theorem canonical_racedObj (s : State) (who : Option (Nat × Nat)) (o : Nat) (hs : s.Canonical) : (racedObj s who o).Canonical := by
  grind [racedObj, canonical_forget, State.Canonical]

theorem canonical_objBad (c : Ctx) (va : DWord) (hc : c.st.Canonical) : (objBad c va).Canonical := by
  grind [objBad, canonical_asyncFault, canonical_retireNext, State.Canonical]

theorem canonical_objIssue (ops : List (Opnd × Nat)) (a : Opnd) (rel : Bool) (act : Ctx → DWord → Nat → State) (s : State)
    (hact : ∀ x0 x1 x2, x0.st.Canonical → (act x0 x1 x2).Canonical) (hs : s.Canonical) : KeepsMemory (objIssue ops a rel act s) := by
  unfold objIssue
  grind [canonical_issue, canonical_faultAt, canonical_stall, canonical_objBad, State.Canonical, KeepsMemory]

theorem canonical_execBoinit (a b : Opnd) (s : State) (hs : s.Canonical) : KeepsMemory (execBoinit a b s) := by
  grind [execBoinit, canonical_objIssue, canonical_faultAt, canonical_retireNext, canonical_writeBytes, State.Canonical, KeepsMemory]

theorem canonical_objUpdate (c : Ctx) (va : DWord) (o eb n : Nat) (put : Ctx → Bool → Ctx) (hc : c.st.Canonical)
    (hput : ∀ x0 x1, x0.st.Canonical → (put x0 x1).st.Canonical) : (objUpdate c va o eb n put).Canonical := by
  grind [objUpdate, canonical_boUpdate, canonical_racedObj, canonical_faultAt, canonical_lateFirings, canonical_retireNext,
    canonical_reload, State.Canonical]

theorem canonical_execBoexp (arr : Bool) (u1 : Scope) (a b : Opnd) (s : State) (hs : s.Canonical) :
    KeepsMemory (execBoexp arr u1 a b s) := by
  grind [execBoexp, canonical_objIssue, canonical_objUpdate, State.Canonical, KeepsMemory]

theorem canonical_execBoarr (lanes : Bool) (u1 : Scope) (d : Option Opnd) (a : Opnd) (s : State) (hs : s.Canonical) :
    KeepsMemory (execBoarr lanes u1 d a s) := by
  grind [execBoarr, canonical_objIssue, canonical_objUpdate, canonical_putS, State.Canonical, KeepsMemory]

theorem canonical_execBowait (bs : Scope) (a b : Opnd) (s : State) (hs : s.Canonical) : KeepsMemory (execBowait bs a b s) := by
  grind [execBowait, canonical_objIssue, canonical_faultAt, canonical_retireNext, canonical_dropCache, canonical_commit, State.Canonical,
    KeepsMemory]

theorem canonical_execBotry (u0 : Scope) (d a b : Opnd) (s : State) (hs : s.Canonical) : KeepsMemory (execBotry u0 d a b s) := by
  grind [execBotry, canonical_objIssue, canonical_faultAt, canonical_retireNext, canonical_putS, canonical_dropCache, State.Canonical,
    KeepsMemory]

theorem canonical_execBowaitWake (fid n : Nat) (s : State) (hs : s.Canonical) : KeepsMemory (execBowaitWake fid n s) := by
  grind [execBowaitWake, canonical_ctxAt, canonical_modFrag, canonical_back, canonical_commit, canonical_settled, canonical_next,
    canonical_dropCache, State.Canonical, KeepsMemory]

/-! ### Copy commands (05 R123-R142) -/

theorem canonical_numbered (c : Ctx) (d : Option Opnd) (hc : c.st.Canonical) : (numbered c d).st.Canonical := by
  unfold numbered
  grind [canonical_putS, State.Canonical]

theorem canonical_giveCmd (s : State) (e : Nat) (c : Cmd) (hs : s.Canonical) : (giveCmd s e c).Canonical := hs

theorem canonical_copyIssue (kind : CopyKind) (d : Option Opnd) (par : Ctx → List Word) (ops : List (Opnd × Nat)) (b : Opnd) (s : State)
    (hs : s.Canonical) : KeepsMemory (copyIssue kind d par ops b s) := by
  unfold copyIssue
  grind [canonical_issue, canonical_fault, canonical_faultAt, canonical_stall, canonical_numbered, canonical_retireNext,
    canonical_giveCmd, State.Canonical, KeepsMemory]

theorem canonical_execCpyt (every : Bool) (d : Option Opnd) (a b t : Opnd) (s : State) (hs : s.Canonical) :
    KeepsMemory (execCpyt every d a b t s) := by
  grind [execCpyt, canonical_issue, canonical_fault, canonical_faultAt, canonical_numbered, canonical_retireNext, canonical_modEngine,
    State.Canonical, KeepsMemory]

theorem canonical_execCpytCancel (t : Opnd) (s : State) (hs : s.Canonical) : KeepsMemory (execCpytCancel t s) := by
  grind [execCpytCancel, canonical_issue, canonical_retireNext, State.Canonical, KeepsMemory]

theorem canonical_modCmd (s : State) (e id : Nat) (k : Cmd → Cmd) (hs : s.Canonical) : (modCmd s e id k).Canonical := hs

theorem canonical_dropCmd (s : State) (e id : Nat) (hs : s.Canonical) : (dropCmd s e id).Canonical := hs

theorem canonical_endCmd (s : State) (e id : Nat) (hs : s.Canonical) : (endCmd s e id).Canonical := hs

theorem canonical_stopCmd (s : State) (e : Nat) (c : Cmd) (code : Nat) (va : DWord) (hs : s.Canonical) :
    (stopCmd s e c code va).Canonical := by
  unfold stopCmd
  grind [canonical_boSet, canonical_cutWork, canonical_dropCmd, canonical_send, canonical_asyncFault, canonical_foldl, State.Canonical]

theorem canonical_haltCmd (s : State) (e : Nat) (c : Cmd) (code kind : Nat) (a : Acc) (va : DWord) (hs : s.Canonical) :
    (haltCmd s e c code kind a va).Canonical := by
  grind [haltCmd, canonical_recordFaults, canonical_modCmd, canonical_stopCmd, State.Canonical]

theorem canonical_element (s : State) (g : Agent) (c : Cmd) (k : Nat) (hs : s.Canonical) : (element s g c k).2.Canonical := by
  grind [element, canonical_engReads, canonical_engPut, canonical_engRead, State.Canonical]

theorem canonical_elements (g : Agent) (c : Cmd) (n : Nat) (s : State) (k : Nat) (hs : s.Canonical) :
    (elements g c n s k).2.Canonical := by
  induction n generalizing s k with
  | zero => exact hs
  | succ n ih =>
    have hfirst := canonical_element s g c k hs
    grind [elements]

theorem canonical_fillGranules (s : State) (c : Cmd) (upto : Nat) (ps : List Put) (hs : s.Canonical) :
    (fillGranules s c upto ps).Canonical := by
  unfold fillGranules
  grind [canonical_setFull, canonical_foldl, State.Canonical]

theorem canonical_countAll (s : State) (e : Nat) (c : Cmd) (n : Nat) (hs : s.Canonical) : (countAll s e c n).1.Canonical := by
  refine List.foldlRecOn (motive := fun r : State × Bool => r.1.Canonical) _ _ hs fun r h o _ => ?_
  have hcount := canonical_countBytes r.1 o n h
  grind [canonical_stopCmd]

theorem canonical_moveUnit (s : State) (e : Nat) (c : Cmd) (hs : s.Canonical) : (moveUnit s e c).Canonical := by
  grind [moveUnit, canonical_elements, canonical_haltCmd, canonical_fillGranules, canonical_workPuts, canonical_modCmd,
    canonical_countAll, canonical_endCmd, State.Canonical]

theorem canonical_execCopyUnitDone (e id : Nat) (s : State) (hs : s.Canonical) : KeepsMemory (execCopyUnitDone e id s) := by
  grind [execCopyUnitDone, canonical_moveUnit, State.Canonical, KeepsMemory]

theorem canonical_execCpytFiring (e arm : Nat) (s : State) (hs : s.Canonical) : KeepsMemory (execCpytFiring e arm s) := by
  grind [execCpytFiring, canonical_modEngine, canonical_giveCmd, State.Canonical, KeepsMemory]

theorem canonical_execSqfillPush (e id : Nat) (s : State) (hs : s.Canonical) : KeepsMemory (execSqfillPush e id s) := by
  unfold execSqfillPush
  grind [canonical_cutWork, canonical_dropCmd, canonical_engRead, canonical_haltCmd, canonical_modFlight, canonical_modCmd,
    canonical_countAll, canonical_endCmd, State.Canonical, KeepsMemory]

/-! ### Contraction instances (09 R231-R243) -/

theorem canonical_blockStep (s : State) (t gid : Nat) (g : Gang) (i : Inst) (r f k : Nat) (hs : s.Canonical) :
    (blockStep s t gid g i r f k).Canonical := by
  grind [blockStep, canonical_modTile, canonical_modFlight, State.Canonical]

theorem canonical_completeArr (s : State) (a : Arr) (hs : s.Canonical) : (completeArr s a).Canonical := by
  grind [completeArr, canonical_asyncFault, canonical_boUpdate, canonical_boSet, canonical_lateFirings, State.Canonical]

theorem canonical_settleFolds (s : State) (t : Nat) (hs : s.Canonical) : (settleFolds s t).Canonical := by
  grind [settleFolds, canonical_modTile, State.Canonical]

theorem canonical_tileAct (s : State) (t : Nat) (x : TileAct) (hs : s.Canonical) : (tileAct s t x).Canonical := by
  unfold tileAct
  grind [canonical_modTile, canonical_modFlight, canonical_modCmd, canonical_foldl, State.Canonical]

theorem canonical_runTodo (s : State) (t : Nat) (hs : s.Canonical) : (runTodo s t).Canonical := by
  unfold runTodo
  grind [canonical_modTile, canonical_tileAct, canonical_settleFolds, canonical_foldl, State.Canonical]

theorem canonical_endInst (s : State) (t : Nat) (i : Inst) (hs : s.Canonical) : (endInst s t i).Canonical := by
  unfold endInst
  grind [canonical_modTile, canonical_runTodo, canonical_completeArr, canonical_foldl, State.Canonical]

theorem canonical_contractionStep (s : State) (t gid : Nat) (g : Gang) (tl : Tile) (i : Inst) (hs : s.Canonical) :
    (contractionStep s t gid g tl i).Canonical := by
  grind [contractionStep, canonical_blockStep, canonical_modTile, canonical_endInst, State.Canonical]

theorem canonical_execContractionStep (t id : Nat) (s : State) (hs : s.Canonical) : KeepsMemory (execContractionStep t id s) := by
  grind [execContractionStep, canonical_contractionStep, State.Canonical, KeepsMemory]

theorem canonical_execFoldApply (t : Nat) (s : State) (hs : s.Canonical) : KeepsMemory (execFoldApply t s) := by
  grind [execFoldApply, canonical_modTile, State.Canonical, KeepsMemory]

/-! ### Tiles (09 R226-R255) -/

theorem canonical_spoil (s : State) (t : Nat) (hs : s.Canonical) : (spoil s t).Canonical := by
  grind [spoil, canonical_modTile, State.Canonical]

theorem canonical_actOn (s : State) (t fid : Nat) (a : TileAct) (hs : s.Canonical) : (actOn s t fid a).Canonical := by
  grind [actOn, canonical_tileAct, canonical_spoil, canonical_modTile, State.Canonical]

theorem canonical_tileIssue (ops : List (Opnd × Nat)) (acc : Opnd) (act : Ctx → Nat → State) (s : State)
    (hact : ∀ x0 x1, x0.st.Canonical → (act x0 x1).Canonical) (hs : s.Canonical) : KeepsMemory (tileIssue ops acc act s) := by
  unfold tileIssue
  grind [canonical_issue, canonical_fault, canonical_stall, canonical_settleFolds, State.Canonical, KeepsMemory]

theorem canonical_execAccget (d : Opnd) (s : State) (hs : s.Canonical) : KeepsMemory (execAccget d s) := by
  grind [execAccget, canonical_issue, canonical_retireNext, canonical_putS, canonical_modTile, State.Canonical, KeepsMemory]

theorem canonical_freeIt (s : State) (t : Nat) (hs : s.Canonical) : (freeIt s t).Canonical := hs

theorem canonical_execAccput (acc : Opnd) (s : State) (hs : s.Canonical) : KeepsMemory (execAccput acc s) := by
  grind [execAccput, canonical_tileIssue, canonical_fault, canonical_retireNext, canonical_freeIt, State.Canonical, KeepsMemory]

theorem canonical_execAccz (acc : Opnd) (s : State) (hs : s.Canonical) : KeepsMemory (execAccz acc s) := by
  grind [execAccz, canonical_tileIssue, canonical_retireNext, canonical_actOn, State.Canonical, KeepsMemory]

theorem canonical_arrive (c : Ctx) (t : Nat) (ty : Ty) (sp : Bool) (scope : Nat) (hdr : Word) (a b : Opnd) (obj : Option (DWord × Nat))
    (hc : c.st.Canonical) : (arrive c t ty sp scope hdr a b obj).Canonical := by
  grind [arrive, canonical_fault, canonical_stall, canonical_modTile, canonical_retireNext, canonical_enterNext, canonical_closeInst,
    canonical_settled, canonical_commit, State.Canonical]

theorem canonical_execLcon (ty : Ty) (sp : Bool) (acc a b x : Opnd) (s : State) (hs : s.Canonical) :
    KeepsMemory (execLcon ty sp acc a b x s) := by
  grind [execLcon, canonical_tileIssue, canonical_fault, canonical_arrive, State.Canonical, KeepsMemory]

theorem canonical_execLcona (ty : Ty) (gang sp : Bool) (acc a b x : Opnd) (s : State) (hs : s.Canonical) :
    KeepsMemory (execLcona ty gang sp acc a b x s) := by
  grind [execLcona, canonical_tileIssue, canonical_fault, canonical_faultAt, canonical_arrive, State.Canonical, KeepsMemory]

theorem canonical_execScacc (ty : Ty) (acc : Opnd) (s : State) (hs : s.Canonical) : KeepsMemory (execScacc ty acc s) := by
  grind [execScacc, canonical_tileIssue, canonical_fault, canonical_retireNext, canonical_actOn, canonical_stall, State.Canonical,
    KeepsMemory]

theorem canonical_execSqpush (a : Opnd) (s : State) (hs : s.Canonical) : KeepsMemory (execSqpush a s) := by
  grind [execSqpush, canonical_issue, canonical_fault, canonical_stall, canonical_retireNext, State.Canonical, KeepsMemory]

theorem canonical_execSqcnt (d : Opnd) (s : State) (hs : s.Canonical) : KeepsMemory (execSqcnt d s) := by
  grind [execSqcnt, canonical_issue, canonical_retireNext, canonical_putS, State.Canonical, KeepsMemory]

theorem canonical_execAccrd (d acc b : Opnd) (s : State) (hs : s.Canonical) : KeepsMemory (execAccrd d acc b s) := by
  grind [execAccrd, canonical_tileIssue, canonical_stall, canonical_fault, canonical_retireNext, canonical_pendResult, canonical_spoil,
    canonical_actOn, State.Canonical, KeepsMemory]

theorem canonical_execAccrdResultWrite (fid id : Nat) (s : State) (hs : s.Canonical) : KeepsMemory (execAccrdResultWrite fid id s) := by
  grind [execAccrdResultWrite, canonical_landPend, State.Canonical, KeepsMemory]

theorem canonical_execAccwr (acc a b : Opnd) (s : State) (hs : s.Canonical) : KeepsMemory (execAccwr acc a b s) := by
  grind [execAccwr, canonical_tileIssue, canonical_fault, canonical_retireNext, canonical_actOn, State.Canonical, KeepsMemory]

theorem canonical_execAccst (acc a b : Opnd) (s : State) (hs : s.Canonical) : KeepsMemory (execAccst acc a b s) := by
  grind [execAccst, canonical_tileIssue, canonical_fault, canonical_faultAt, canonical_numbered, canonical_spoil, canonical_retireNext,
    canonical_giveCmd, canonical_actOn, State.Canonical, KeepsMemory]

theorem canonical_execAccstStoreDone (e id : Nat) (s : State) (hs : s.Canonical) : KeepsMemory (execAccstStoreDone e id s) := by
  unfold execAccstStoreDone
  grind [canonical_engPuts, canonical_haltCmd, canonical_workPuts, canonical_setFull, canonical_countAll, canonical_endCmd,
    canonical_foldl, State.Canonical, KeepsMemory]

/-! ### Save records (09 R257, R258) -/

theorem canonical_checkBlock (c : Ctx) (align : Nat) (a : Acc) (va : DWord) (n : Nat) (hc : c.st.Canonical) :
    (checkBlock c align a va n).2.2.st.Canonical := by
  refine List.foldlRecOn (motive := fun r : List (Nat × Nat) × Option (Chk × DWord) × Ctx => r.2.2.st.Canonical) _ _ hc
    fun r h p _ => ?_
  grind [canonical_checkOne, canonical_spoilAt]

theorem canonical_packetFault (c : Ctx) (va : DWord) (k : Nat) (hc : c.st.Canonical) : (packetFault c va k).Canonical := by
  grind [packetFault, canonical_trapNow, State.Canonical]

theorem canonical_blockFails (c : Ctx) (x : Chk) (va : DWord) (a : Acc) (hc : c.st.Canonical) : (blockFails c x va a).Canonical := by
  unfold blockFails
  grind [canonical_recordFaults, canonical_commit, canonical_packetFault, canonical_memTrap, State.Canonical]

theorem canonical_writePieces (s : State) (fid c : Nat) (ks : List (Nat × Nat)) (bs : List Byte) (hs : s.Canonical) :
    (writePieces s fid c ks bs).Canonical := by
  induction ks generalizing s bs with
  | nil => exact hs
  | cons x r ih =>
    refine ih _ _ ?_
    have hw := canonical_noteWrite _ (some (fid, s.nextId)) x.1 x.2 (canonical_writeBytes s x.1 (bs.take x.2) hs)
    split
    · exact hw
    · exact canonical_storeLines _ _ _ _ hw

theorem canonical_execAccsv (acc a : Opnd) (s : State) (hs : s.Canonical) : KeepsMemory (execAccsv acc a s) := by
  grind [execAccsv, canonical_issue, canonical_fault, canonical_stall, canonical_settleFolds, canonical_checkBlock, canonical_blockFails,
    canonical_objBad, canonical_retireNext, canonical_spoil, canonical_writePieces, State.Canonical, KeepsMemory]

theorem canonical_restoreTile (s : State) (t gid : Nat) (g : Gang) (bs : List Byte) (n p : Nat) (hs : s.Canonical) :
    (restoreTile s t gid g bs n p).Canonical := hs

theorem canonical_execAccld (acc a : Opnd) (s : State) (hs : s.Canonical) : KeepsMemory (execAccld acc a s) := by
  refine canonical_issue _ _ _ _ (fun c hc => ?_) hs
  have hcheck (d : Ctx) (va : DWord) (n : Nat) (hd : d.st.Canonical) := canonical_checkBlock d 256 .read va n hd
  have hhead := hcheck c (srcS2 c a) 64 hc
  split
  · exact canonical_fault c _ _ hc
  · split
    · exact canonical_stall c _ hc
    · dsimp only
      split
      · next h =>
        rw [h] at hhead
        exact canonical_blockFails _ _ _ _ hhead
      · next k0 c1 h =>
        rw [h] at hhead
        have hbody (n : Nat) := hcheck c1 (srcS2 c a) n hhead
        grind [canonical_fault, canonical_stall, canonical_blockFails, canonical_objBad, canonical_retireNext, canonical_reload,
          canonical_restoreTile, canonical_commit]

end Sys2Proof.Machine
end

section
/-!
SUPPORT. Memory stays in its canonical form (log 4) through the operations of launches, queues and the fabric. Each lemma
names the operations that its function is made of. Each proof uses lemmas just before it, so they are checked one after another: proofs
that wait for each other in threads of their own take too much memory.
-/
namespace Sys2Proof.Machine

set_option Elab.async false

/-! ### Launches and graphs (15 R311-R334) -/

theorem canonical_feTell (s : State) (pid : Nat) (a : Acc) (va : DWord) (n : Nat) (hs : s.Canonical) :
    (feTell s pid a va n).Canonical := by
  grind [feTell, canonical_send, State.Canonical]

theorem canonical_feWrite (s : State) (pid : Nat) (va : DWord) (bs : List Byte) (hs : s.Canonical) : (feWrite s pid va bs).Canonical := by
  grind [feWrite, canonical_writeBytes, canonical_feTell, State.Canonical]

theorem canonical_sealAll (s : State) (key : Nat) (hs : s.Canonical) : (sealAll s key).Canonical := by
  unfold sealAll
  grind [canonical_sealWord, canonical_foldl, State.Canonical]

theorem canonical_phaseEnd (s : State) (k : Nat) (hs : s.Canonical) : (phaseEnd s k).Canonical := by
  grind [phaseEnd, canonical_modPart, canonical_journal, State.Canonical]

theorem canonical_phaseStep (s : State) (pid : Nat) (hs : s.Canonical) : (phaseStep s pid).Canonical := by
  grind [phaseStep, canonical_phaseEnd, State.Canonical]

theorem canonical_graphEnd (s : State) (k : Nat) (hs : s.Canonical) : (graphEnd s k).Canonical := by
  grind [graphEnd, canonical_journal, canonical_phaseEnd, State.Canonical]

theorem canonical_graphStep (s : State) (k : Nat) (faulted : Bool) (hs : s.Canonical) : (graphStep s k faulted).Canonical := by
  grind [graphStep, canonical_graphEnd, State.Canonical]

theorem canonical_nextStep (s : State) (l : Launch) (hs : s.Canonical) : (nextStep s l).Canonical := by
  grind [nextStep, canonical_decrement, canonical_feTell, State.Canonical]

theorem canonical_finishOne (s : State) (key st : Nat) (hs : s.Canonical) : (finishOne s key st).Canonical := by
  grind [finishOne, canonical_sealAll, canonical_feWrite, canonical_journal, canonical_nextStep, canonical_graphStep, State.Canonical]

theorem canonical_treeStep (s : State) (pid root : Nat) (flt : Option Nat) (hs : s.Canonical) : (treeStep s pid root flt).Canonical := by
  grind [treeStep, canonical_modLaunch, canonical_finishOne, State.Canonical]

theorem canonical_finish (s : State) (key st : Nat) (hs : s.Canonical) : (finish s key st).Canonical := by
  grind [finish, canonical_finishOne, canonical_treeStep, State.Canonical]

theorem canonical_accept (s : State) (pid : Nat) (o : Offer) (device qlive : Bool) (prio : Nat) (hs : s.Canonical) :
    (accept s pid o device qlive prio).2.Canonical := by
  grind [accept, canonical_modPart, canonical_journal, canonical_feTell, canonical_modLaunch, canonical_finish, State.Canonical]

theorem canonical_execLaunchAccept (pid : Nat) (s : State) (hs : s.Canonical) : KeepsMemory (execLaunchAccept pid s) := by
  grind [execLaunchAccept, canonical_accept, canonical_modPart, State.Canonical, KeepsMemory]

theorem canonical_cancelNamed (s : State) (pid id : Nat) (tree : Bool) (hs : s.Canonical) : (cancelNamed s pid id tree).2.Canonical := by
  grind [cancelNamed, canonical_cancelTree, canonical_cancelLaunch, State.Canonical]

theorem canonical_cancelBy (tree : Bool) (d a : Opnd) (s : State) (hs : s.Canonical) : KeepsMemory (cancelBy tree d a s) := by
  unfold cancelBy
  grind [canonical_issue, canonical_stall, canonical_cancelNamed, canonical_commit, canonical_settled, canonical_next,
    canonical_retireNext, canonical_putS, State.Canonical, KeepsMemory]

theorem canonical_countOf (acquire : Bool) (k : Launch → Nat) (d a : Opnd) (s : State) (hs : s.Canonical) :
    KeepsMemory (countOf acquire k d a s) := by
  unfold countOf
  grind [canonical_issue, canonical_retireNext, canonical_putS, canonical_dropCache, State.Canonical, KeepsMemory]

theorem canonical_execLcntTree (d a : Opnd) (s : State) (hs : s.Canonical) : KeepsMemory (execLcntTree d a s) := by
  grind [execLcntTree, canonical_countOf, State.Canonical, KeepsMemory]

theorem canonical_hold (c : Ctx) (w : Why) (hc : c.st.Canonical) : (hold c w).Canonical := by
  grind [hold, canonical_commit, canonical_stall, State.Canonical]

theorem canonical_withPacket (c : Ctx) (va : DWord) (act : Ctx → List Byte → State) (hc : c.st.Canonical)
    (hact : ∀ x0 x1, x0.st.Canonical → (act x0 x1).Canonical) : (withPacket c va act).Canonical := by
  grind [withPacket, canonical_checkBlock, canonical_blockFails, canonical_hold, canonical_objBad, State.Canonical]

theorem canonical_execEnq (detach : Bool) (d : Option Opnd) (a : Opnd) (s : State) (hs : s.Canonical) :
    KeepsMemory (execEnq detach d a s) := by
  grind [execEnq, canonical_issue, canonical_withPacket, canonical_hold, canonical_accept, canonical_retireNext, canonical_enterNext,
    canonical_putS, State.Canonical, KeepsMemory]

theorem canonical_execEnqr (d : Option Opnd) (a b : Opnd) (s : State) (hs : s.Canonical) : KeepsMemory (execEnqr d a b s) := by
  grind [execEnqr, canonical_issue, canonical_fault, canonical_withPacket, canonical_enterNext, canonical_numbered, canonical_retireNext,
    canonical_send, State.Canonical, KeepsMemory]

/-! ### Links (17 R357-R362) -/

theorem canonical_applyLink (s : State) (l : LinkId) (up : Bool) (seq : BitVec 16) (hs : s.Canonical) :
    (applyLink s l up seq).Canonical := by
  grind [applyLink, State.Canonical]

/-! ### Queues and their packets (16 R335-R345) -/

theorem canonical_putQueue (s : State) (k : Nat) (q : Queue) (hs : s.Canonical) : (putQueue s k q).Canonical := hs

theorem canonical_dropEvent (s : State) (e : Pending) (hs : s.Canonical) : (dropEvent s e).Canonical := hs

theorem canonical_notify (s : State) (k : Nat) (w : Word) (hs : s.Canonical) : (notify s k w).Canonical := by
  grind [notify, canonical_dropEvent, canonical_putQueue, canonical_journal, State.Canonical]

theorem canonical_takeBell (s : State) (k : Nat) (hs : s.Canonical) : (takeBell s k).Canonical := by
  grind [takeBell, canonical_notify, canonical_dropEvent, State.Canonical]

theorem canonical_execQnotifyWrite (pid q : Nat) (widx : Word) (s : State) (hs : s.Canonical) :
    KeepsMemory (execQnotifyWrite pid q widx s) := by
  grind [execQnotifyWrite, canonical_ring, State.Canonical, KeepsMemory]

theorem canonical_mapTo (s : State) (k slot : Nat) (hs : s.Canonical) : (mapTo s k slot).Canonical := hs

theorem canonical_unmap (s : State) (k : Nat) (hs : s.Canonical) : (unmap s k).Canonical := hs

theorem canonical_execQueueMap (pid q slot : Nat) (s : State) (hs : s.Canonical) : KeepsMemory (execQueueMap pid q slot s) := by
  grind [execQueueMap, canonical_mapTo, State.Canonical, KeepsMemory]

theorem canonical_execQueueDisplace (pid q slot : Nat) (s : State) (hs : s.Canonical) : KeepsMemory (execQueueDisplace pid q slot s) := by
  grind [execQueueDisplace, canonical_unmap, canonical_mapTo, State.Canonical, KeepsMemory]

theorem canonical_execQueueQuantumExpiry (slot : Nat) (s : State) (hs : s.Canonical) : KeepsMemory (execQueueQuantumExpiry slot s) := by
  grind [execQueueQuantumExpiry, canonical_unmap, canonical_mapTo, State.Canonical, KeepsMemory]

theorem canonical_advance (s : State) (k : Nat) (hs : s.Canonical) : (advance s k).Canonical := by
  grind [advance, canonical_phaseStep, canonical_feWrite, canonical_putQueue, State.Canonical]

theorem canonical_acceptPacket (s : State) (k : Nat) (q : Queue) (b : List Byte) (hs : s.Canonical) :
    (acceptPacket s k q b).Canonical := by
  grind [acceptPacket, canonical_advance, canonical_journal, State.Canonical]

theorem canonical_refusePacket (s : State) (k : Nat) (q : Queue) (b : List Byte) (reason : Nat) (hs : s.Canonical) :
    (refusePacket s k q b reason).Canonical := by
  grind [refusePacket, canonical_advance, canonical_journal, State.Canonical]

theorem canonical_blockQueue (s : State) (k : Nat) (b : List Byte) (line : Option Nat) (hs : s.Canonical) :
    (blockQueue s k b line).Canonical := hs

theorem canonical_onHead (pid k : Nat) (kind : Nat → Bool) (act : State → Queue → List Byte → State) (s : State)
    (hact : ∀ x0 x1 x2, x0.Canonical → (act x0 x1 x2).Canonical) (hs : s.Canonical) : KeepsMemory (onHead pid k kind act s) := by
  grind [onHead, canonical_feTell, State.Canonical, KeepsMemory]

theorem canonical_execPacketLaunch (pid q : Nat) (s : State) (hs : s.Canonical) : KeepsMemory (execPacketLaunch pid q s) := by
  grind [execPacketLaunch, canonical_onHead, canonical_advance, canonical_accept, canonical_refusePacket, State.Canonical, KeepsMemory]

theorem canonical_joinPhase (s : State) (pid : Nat) (new : Bool) (hs : s.Canonical) : (joinPhase s pid new).2.Canonical := by
  unfold joinPhase
  grind [canonical_modPart, canonical_phaseEnd, State.Canonical]

theorem canonical_tellRoots (s : State) (pid : Nat) (va : DWord) (n : Nat) (hs : s.Canonical) : (tellRoots s pid va n).Canonical := by
  grind [tellRoots, canonical_send, State.Canonical]

theorem canonical_acceptGraph (s : State) (k : Nat) (q : Queue) (b : List Byte) (hs : s.Canonical) : (acceptGraph s k q b).Canonical := by
  grind [acceptGraph, canonical_refusePacket, canonical_tellRoots, canonical_joinPhase, canonical_modPart, canonical_acceptPacket,
    State.Canonical]

theorem canonical_execPacketGraph (pid q : Nat) (s : State) (hs : s.Canonical) : KeepsMemory (execPacketGraph pid q s) := by
  grind [execPacketGraph, canonical_onHead, canonical_refusePacket, canonical_acceptGraph, canonical_blockQueue, State.Canonical,
    KeepsMemory]

theorem canonical_execPacketSignal (pid q : Nat) (s : State) (hs : s.Canonical) : KeepsMemory (execPacketSignal pid q s) := by
  grind [execPacketSignal, canonical_onHead, canonical_refusePacket, canonical_acceptPacket, canonical_writeNat, canonical_feTell,
    State.Canonical, KeepsMemory]

theorem canonical_execPacketWait (pid q : Nat) (s : State) (hs : s.Canonical) : KeepsMemory (execPacketWait pid q s) := by
  grind [execPacketWait, canonical_onHead, canonical_refusePacket, canonical_acceptPacket, canonical_blockQueue, canonical_feTell,
    State.Canonical, KeepsMemory]

theorem canonical_unblock (s : State) (k : Nat) (q : Queue) (hs : s.Canonical) : (unblock s k q).Canonical := by
  grind [unblock, canonical_acceptPacket, State.Canonical]

theorem canonical_takeHit (s : State) (k : Nat) (hs : s.Canonical) : (takeHit s k).Canonical := by
  grind [takeHit, canonical_dropEvent, canonical_unblock, State.Canonical]

theorem canonical_execWaitMonitorHit (pid q : Nat) (s : State) (hs : s.Canonical) : KeepsMemory (execWaitMonitorHit pid q s) := by
  grind [execWaitMonitorHit, canonical_takeHit, State.Canonical, KeepsMemory]

theorem canonical_execPacketBarrier (pid q : Nat) (s : State) (hs : s.Canonical) : KeepsMemory (execPacketBarrier pid q s) := by
  grind [execPacketBarrier, canonical_onHead, canonical_refusePacket, canonical_acceptPacket, canonical_blockQueue, State.Canonical,
    KeepsMemory]

theorem canonical_execQueueUnblock (pid q : Nat) (s : State) (hs : s.Canonical) : KeepsMemory (execQueueUnblock pid q s) := by
  grind [execQueueUnblock, canonical_unblock, canonical_putQueue, State.Canonical, KeepsMemory]

theorem canonical_execPacketCancel (pid q : Nat) (s : State) (hs : s.Canonical) : KeepsMemory (execPacketCancel pid q s) := by
  grind [execPacketCancel, canonical_onHead, canonical_refusePacket, canonical_cancelNamed, canonical_feWrite, canonical_acceptPacket,
    State.Canonical, KeepsMemory]

theorem canonical_bounce (s : State) (m : PacketMsg) (status : Nat) (hs : s.Canonical) : (bounce s m status).Canonical := by
  grind [bounce, canonical_send, canonical_feTell, canonical_feWrite, State.Canonical]

theorem canonical_deliver (s : State) (m : PacketMsg) (hs : s.Canonical) : (deliver s m).Canonical := by
  grind [deliver, canonical_feWrite, canonical_ring, State.Canonical]

theorem canonical_settleDelivery (s : State) (m : PacketMsg) (status : Nat) (hs : s.Canonical) :
    (settleDelivery s m status).Canonical := by
  unfold settleDelivery
  split
  · exact canonical_deliver _ _ hs
  · refine canonical_bounce _ _ _ ?_
    split
    · cases queue? s (handlePart m.handle) (handleQueue m.handle) with
      | none => exact hs
      | some q => exact canonical_feTell _ _ _ _ _ hs
    · exact hs

theorem canonical_execEnqrDelivery (m : PacketMsg) (s : State) (hs : s.Canonical) : KeepsMemory (execEnqrDelivery m s) := by
  grind [execEnqrDelivery, canonical_settleDelivery, canonical_bounce, State.Canonical, KeepsMemory]

theorem canonical_execForwardedWrite (addr : Nat) (data : List Byte) (s : State) (hs : s.Canonical) :
    KeepsMemory (execForwardedWrite addr data s) := by
  grind [execForwardedWrite, canonical_send, canonical_writeBytes, State.Canonical, KeepsMemory]

theorem canonical_forwardEnd (s : State) (page : Nat) (hs : s.Canonical) : (forwardEnd s page).Canonical := by
  grind [forwardEnd, State.Canonical]

/-! ### Collectives, pod barriers and puts (17 R363-R380) -/

theorem canonical_modComm (s : State) (pid n : Nat) (k : Comm → Comm) (hs : s.Canonical) : (modComm s pid n k).Canonical := hs

theorem canonical_failOp (s : State) (fid pid launch core : Nat) (obj pc : DWord) (seq : Word) (status : Nat) (hs : s.Canonical) :
    (failOp s fid pid launch core obj pc seq status).Canonical := by
  grind [failOp, canonical_asyncFault, canonical_failObj, State.Canonical]

theorem canonical_arriveObj (s : State) (fid pid launch core : Nat) (obj pc : DWord) (seq : Word) (hs : s.Canonical) :
    (arriveObj s fid pid launch core obj pc seq).Canonical := by
  grind [arriveObj, canonical_failOp, canonical_boUpdate, canonical_lateFirings, State.Canonical]

theorem canonical_dropColl (s : State) (pid n : Nat) (o : CollOp) (status : Nat) (hs : s.Canonical) :
    (dropColl s pid n o status).Canonical := by
  grind [dropColl, canonical_modComm, canonical_failOp, canonical_cutWork, State.Canonical]

theorem canonical_endColl (s : State) (pid n : Nat) (o : CollOp) (status : Nat) (hs : s.Canonical) :
    (endColl s pid n o status).Canonical := by
  grind [endColl, canonical_send, canonical_dropColl, State.Canonical]

theorem canonical_dropCbar (s : State) (pid n : Nat) (o : CbarOp) (status : Nat) (hs : s.Canonical) :
    (dropCbar s pid n o status).Canonical := by
  grind [dropCbar, canonical_failOp, canonical_modComm, State.Canonical]

theorem canonical_endCbar (s : State) (pid n : Nat) (o : CbarOp) (status : Nat) (hs : s.Canonical) :
    (endCbar s pid n o status).Canonical := by
  grind [endCbar, canonical_send, canonical_dropCbar, State.Canonical]

theorem canonical_endPut (s : State) (pid n : Nat) (o : PutOp) (status : Nat) (hs : s.Canonical) :
    (endPut s pid n o status).Canonical := by
  grind [endPut, canonical_failOp, canonical_cutWork, canonical_modComm, State.Canonical]

theorem canonical_endInstances (s : State) (pid n status : Nat) (hs : s.Canonical) : (endInstances s pid n status).Canonical := by
  unfold endInstances
  grind [canonical_dropCbar, canonical_dropColl, canonical_foldl, State.Canonical]

theorem canonical_endOpen (s : State) (pid n status : Nat) (hs : s.Canonical) : (endOpen s pid n status).Canonical := by
  unfold endOpen
  grind [canonical_endPut, canonical_endInstances, canonical_foldl, State.Canonical]

theorem canonical_endGangOps (s : State) (gid : Nat) (hs : s.Canonical) : (endGangOps s gid).Canonical := by
  unfold endGangOps
  grind [canonical_endColl, canonical_endCbar, canonical_modComm, canonical_foldl, State.Canonical]

theorem canonical_peerEnd (s : State) (pid n status : Nat) (one : Option (Bool × Nat)) (hs : s.Canonical) :
    (peerEnd s pid n status one).Canonical := by
  unfold peerEnd
  grind [canonical_endInstances, canonical_dropCbar, canonical_dropColl, canonical_modComm, canonical_foldl, State.Canonical]

theorem canonical_execColl (kind : CollKind) (d : Option Opnd) (a b : Opnd) (s : State) (hs : s.Canonical) :
    KeepsMemory (execColl kind d a b s) := by
  grind [execColl, canonical_issue, canonical_fault, canonical_faultAt, canonical_stall, canonical_enterNext, canonical_numbered,
    canonical_modComm, canonical_openWork, canonical_retireNext, canonical_send, canonical_dropColl, State.Canonical, KeepsMemory]

theorem canonical_setMark (s : State) (g : Agent) (marks : DWord) (i : Nat) (stage : Bool) (v : Nat) (hs : s.Canonical) :
    (setMark s g marks i stage v).Canonical := by
  grind [setMark, canonical_engRead, canonical_engPut, canonical_doPuts, State.Canonical]

theorem canonical_clearMarks (s : State) (g : Agent) (marks : DWord) (is : List Nat) (hs : s.Canonical) :
    (clearMarks s g marks is).Canonical := by
  unfold clearMarks
  grind [canonical_setMark, canonical_foldl, State.Canonical]

theorem canonical_fillTouched (s : State) (ps : List Put) (hs : s.Canonical) : (fillTouched s ps).Canonical := by
  unfold fillTouched
  grind [canonical_setFull, canonical_foldl, State.Canonical]

theorem canonical_haltChunk (s : State) (pid n : Nat) (o : CollOp) (i code kind : Nat) (a : Acc) (va : DWord) (hs : s.Canonical) :
    (haltChunk s pid n o i code kind a va).Canonical := by
  grind [haltChunk, canonical_recordFaults, canonical_modComm, canonical_endColl, canonical_send, State.Canonical]

theorem canonical_clearChunks (s : State) (pid n : Nat) (o : CollOp) (c : Comm) (is : List Nat) (hs : s.Canonical) :
    (clearChunks s pid n o c is).1.Canonical := by
  grind [clearChunks, canonical_haltChunk, canonical_clearMarks, State.Canonical]

theorem canonical_beginColl (s : State) (pid n : Nat) (o : CollOp) (c : Comm) (hs : s.Canonical) :
    (beginColl s pid n o c).1.Canonical := by
  grind [beginColl, canonical_clearChunks, canonical_modComm, State.Canonical]

theorem canonical_ownBytes (s : State) (pid : Nat) (o : CollOp) (c : Comm) (i : Nat) (stage : Bool) (hs : s.Canonical) :
    (ownBytes s pid o c i stage).2.Canonical := by
  grind [ownBytes, canonical_engReads, State.Canonical]

theorem canonical_forwardChunk (s : State) (pid n : Nat) (o : CollOp) (c : Comm) (i : Nat) (stage : Bool) (elems : Nat → List Nat)
    (t : CTy) (hs : s.Canonical) : (forwardChunk s pid n o c i stage elems t).Canonical := by
  grind [forwardChunk, canonical_send, State.Canonical]

theorem canonical_chunkPuts (s : State) (pid : Nat) (o : CollOp) (c : Comm) (i : Nat) (out : List Byte) (hs : s.Canonical) :
    (chunkPuts s pid o c i out).2.Canonical := by
  grind [chunkPuts, canonical_engPuts, State.Canonical]

theorem canonical_stageDone (s : State) (pid n : Nat) (o : CollOp) (c : Comm) (i : Nat) (stage : Bool) (hs : s.Canonical) :
    (stageDone s pid n o c i stage).Canonical := by
  grind [stageDone, canonical_setMark, canonical_modComm, State.Canonical]

theorem canonical_stage0 (s : State) (pid n : Nat) (o : CollOp) (c : Comm) (i : Nat) (peers : List (Nat × List Nat)) (t : CTy)
    (hs : s.Canonical) : (stage0 s pid n o c i peers t).Canonical := by
  grind [stage0, canonical_ownBytes, canonical_haltChunk, canonical_stageDone, canonical_forwardChunk, State.Canonical]

theorem canonical_stage1 (s : State) (pid n : Nat) (o : CollOp) (c : Comm) (i : Nat) (peers : List (Nat × List Nat)) (t : CTy)
    (hs : s.Canonical) : (stage1 s pid n o c i peers t).Canonical := by
  grind [stage1, canonical_ownBytes, canonical_haltChunk, canonical_forwardChunk, canonical_stageDone, canonical_chunkPuts,
    canonical_fillTouched, canonical_workPuts, State.Canonical]

theorem canonical_endIfDone (s : State) (pid n : Nat) (o : CollOp) (hs : s.Canonical) : (endIfDone s pid n o).Canonical := by
  grind [endIfDone, canonical_modComm, canonical_arriveObj, canonical_endWork, State.Canonical]

theorem canonical_onChunk (pid comm chunk : Nat) (stage : Bool) (s : State) (act : State → CollOp → Comm → CTy → State)
    (hs : s.Canonical) (hact : ∀ x0 x1 x2 x3, x0.Canonical → (act x0 x1 x2 x3).Canonical) :
    (onChunk pid comm chunk stage s act).Canonical := by
  unfold onChunk
  split
  · exact hs
  · next c0 _ =>
    split
    · next o _ t _ _ =>
      have hbegin : (if o.begun then (s, true) else beginColl s pid comm o c0).1.Canonical := by
        split
        · exact hs
        · exact canonical_beginColl s pid comm o c0 hs
      split
      · exact hs
      · split
        · next h =>
          rw [h] at hbegin
          exact hbegin
        · next s1 h =>
          rw [h] at hbegin
          split
          · exact hs
          · split
            · exact canonical_endColl _ _ _ _ _ hbegin
            · split
              · exact canonical_haltChunk _ _ _ _ _ _ _ _ _ hbegin
              · exact hact _ _ _ _ hbegin
    · exact hs

theorem canonical_execCollChunkStage (pid comm chunk : Nat) (stage : Bool) (peers : List (Nat × List Nat)) (s : State)
    (hs : s.Canonical) : KeepsMemory (execCollChunkStage pid comm chunk stage peers s) := by
  grind [execCollChunkStage, canonical_onChunk, canonical_endIfDone, canonical_stage1, canonical_stage0, State.Canonical, KeepsMemory]

theorem canonical_chunkStep (pid comm chunk : Nat) (stage : Bool) (peers : List (Nat × List Nat)) (s : State) (hs : s.Canonical) :
    (chunkStep pid comm chunk stage peers s).Canonical := by
  grind [chunkStep, canonical_onChunk, canonical_setMark, canonical_ownBytes, canonical_haltChunk, canonical_forwardChunk,
    State.Canonical]

theorem canonical_resumeColls (s : State) (gid : Nat) (hs : s.Canonical) : (resumeColls s gid).Canonical := by
  unfold resumeColls
  grind [canonical_clearChunks, canonical_foldl, State.Canonical]

theorem canonical_execCbar (d : Option Opnd) (a b : Opnd) (s : State) (hs : s.Canonical) : KeepsMemory (execCbar d a b s) := by
  grind [execCbar, canonical_issue, canonical_fault, canonical_faultAt, canonical_stall, canonical_numbered, canonical_modComm,
    canonical_retireNext, canonical_send, canonical_dropCbar, State.Canonical, KeepsMemory]

theorem canonical_execCbarInstanceDone (pid comm : Nat) (s : State) (hs : s.Canonical) :
    KeepsMemory (execCbarInstanceDone pid comm s) := by
  grind [execCbarInstanceDone, canonical_arriveObj, canonical_modComm, State.Canonical, KeepsMemory]

theorem canonical_sendPut (s : State) (pid n : Nat) (c : Comm) (o : PutOp) (hs : s.Canonical) : (sendPut s pid n c o).Canonical := by
  grind [sendPut, canonical_engReads, canonical_recordFaults, canonical_modComm, canonical_endPut, canonical_send, State.Canonical]

theorem canonical_sendPuts (s : State) (pid : Nat) (hs : s.Canonical) : (sendPuts s pid).Canonical := by
  unfold sendPuts
  grind [canonical_sendPut, canonical_foldl, State.Canonical]

theorem canonical_failDoomed (s : State) (pid : Nat) (hs : s.Canonical) : (failDoomed s pid).Canonical := by
  unfold failDoomed
  grind [canonical_stopCmd, canonical_endColl, canonical_endPut, canonical_foldl, State.Canonical]

theorem canonical_takeUp (s : State) (pid : Nat) (hs : s.Canonical) : (takeUp s pid).Canonical := by
  grind [takeUp, canonical_sendPuts, canonical_failDoomed, State.Canonical]

theorem canonical_execCput (d : Option Opnd) (a b : Opnd) (s : State) (hs : s.Canonical) : KeepsMemory (execCput d a b s) := by
  grind [execCput, canonical_issue, canonical_fault, canonical_faultAt, canonical_stall, canonical_enterNext, canonical_numbered,
    canonical_openWork, canonical_retireNext, canonical_modComm, canonical_endPut, canonical_sendPut, State.Canonical, KeepsMemory]

theorem canonical_landPut (s : State) (g : Agent) (nofe : Bool) (l : List (DWord × List Byte)) (hs : s.Canonical) :
    (landPut s g nofe l).1.Canonical := by
  induction l generalizing s with
  | nil => exact hs
  | cons x r ih =>
    have hput := canonical_engPut s g x.1 x.2 hs
    grind [landPut, canonical_send, canonical_doPuts, canonical_fillTouched]

theorem canonical_execCputRemoteArrival (p : RemotePut) (s : State) (hs : s.Canonical) : KeepsMemory (execCputRemoteArrival p s) := by
  grind [execCputRemoteArrival, canonical_send, canonical_landPut, canonical_boUpdate, canonical_racedObj, canonical_boSet,
    canonical_lateFirings, State.Canonical, KeepsMemory]

theorem canonical_execCputAck (pid comm id : Nat) (ok : Bool) (status : Nat) (s : State) (hs : s.Canonical) :
    KeepsMemory (execCputAck pid comm id ok status s) := by
  grind [execCputAck, canonical_arriveObj, canonical_endWork, canonical_modComm, canonical_endPut, State.Canonical, KeepsMemory]

theorem canonical_execCtree (q : TreeQuery) (d a b : Opnd) (s : State) (hs : s.Canonical) : KeepsMemory (execCtree q d a b s) := by
  grind [execCtree, canonical_issue, canonical_fault, canonical_retireNext, canonical_putS, canonical_modComm, State.Canonical,
    KeepsMemory]

theorem canonical_disturb (s : State) (l : LinkId) (hs : s.Canonical) : (disturb s l).Canonical := hs

theorem canonical_linkMessage (s : State) (l : LinkId) (up : Bool) (seq : BitVec 16) (hs : s.Canonical) :
    (linkMessage s l up seq).Canonical := by
  grind [linkMessage, canonical_applyLink, canonical_disturb, State.Canonical]

theorem canonical_execLinkStateChange (l : LinkId) (up : Bool) (s : State) (hs : s.Canonical) :
    KeepsMemory (execLinkStateChange l up s) := by
  grind [execLinkStateChange, canonical_send, canonical_disturb, State.Canonical, KeepsMemory]

theorem canonical_execLinkStateMessage (l : LinkId) (up : Bool) (seq : BitVec 16) (s : State) (hs : s.Canonical) :
    KeepsMemory (execLinkStateMessage l up seq s) := by
  grind [execLinkStateMessage, canonical_linkMessage, State.Canonical, KeepsMemory]

theorem canonical_endAgreed (s : State) (pid n : Nat) (c : Comm) (hs : s.Canonical) : (endAgreed s pid n c).Canonical := by
  unfold endAgreed
  grind [canonical_endColl, canonical_endCbar, canonical_foldl, State.Canonical]

theorem canonical_agreed (s : State) (pid n : Nat) (c : Comm) (peersDone : List Nat) (hs : s.Canonical) :
    (agreed s pid n c peersDone).Canonical := by
  grind [agreed, canonical_clearChunks, canonical_modComm, canonical_endIfDone, State.Canonical]

theorem canonical_execAgreement (pid comm : Nat) (x : Exchange) (peersDone : List Nat) (s : State) (hs : s.Canonical) :
    KeepsMemory (execAgreement pid comm x peersDone s) := by
  unfold execAgreement
  grind [canonical_linkMessage, canonical_send, canonical_modComm, canonical_endAgreed, canonical_agreed, canonical_foldl,
    State.Canonical, KeepsMemory]

theorem canonical_execMemberLeft (pid comm : Nat) (peer : PeerEnd) (s : State) (hs : s.Canonical) :
    KeepsMemory (execMemberLeft pid comm peer s) := by
  grind [execMemberLeft, canonical_peerEnd, State.Canonical, KeepsMemory]

end Sys2Proof.Machine
end

section
/-!
SUPPORT. Memory stays in its canonical form (log 4) through the operations of placement, pre-emption, traps and debugging. Each lemma
names the operations that its function is made of. Each proof uses lemmas just before it, so they are checked one after another: proofs
that wait for each other in threads of their own take too much memory.
-/
namespace Sys2Proof.Machine

set_option Elab.async false

/-! ### Placement and retirement (15 R318-R325, 16 R348) -/

theorem canonical_newReservation (s : State) (core off size : Nat) (hs : s.Canonical) : (newReservation s core off size).Canonical := by
  grind [newReservation, canonical_forget, State.Canonical]

theorem canonical_setAside (s : State) (gid rank core n : Nat) (hs : s.Canonical) : (setAside s gid rank core n).Canonical := by
  unfold setAside
  grind [canonical_modTile, canonical_foldl, State.Canonical]

theorem canonical_startBlock (s : State) (l : Launch) (d : Desc) (gid num die quad off rank : Nat) (hs : s.Canonical) :
    (startBlock s l d gid num die quad off rank).Canonical := by
  unfold startBlock
  grind [canonical_dropCache, canonical_setAside, canonical_newReservation, canonical_foldl, State.Canonical]

theorem canonical_placeGang (s : State) (l : Launch) (d : Desc) (num die quad off : Nat) (hs : s.Canonical) :
    (placeGang s l d num die quad off).Canonical := by
  unfold placeGang
  grind [canonical_startBlock, canonical_modLaunch, canonical_journal, canonical_foldl, State.Canonical]

theorem canonical_passHead (s : State) (die : Nat) (hs : s.Canonical) : (passHead s die).Canonical := hs

theorem canonical_placeAll (d : Desc) (key n num : Nat) (s : State) (hs : s.Canonical) :
    ∀ t, placeAll d key n num s = some t → t.Canonical := by
  induction n generalizing num s with
  | zero =>
    rintro t ⟨⟩
    exact hs
  | succ n ih => grind [placeAll, canonical_passHead, canonical_placeGang]

theorem canonical_dropGlobal (s : State) (key : Nat) (hs : s.Canonical) : (dropGlobal s key).Canonical := hs

theorem canonical_handOver (s : State) (die pid launch first n : Nat) (hs : s.Canonical) :
    (handOver s die pid launch first n).Canonical := hs

theorem canonical_execGlobalDispatch (pid launch die count : Nat) (s : State) (hs : s.Canonical) :
    KeepsMemory (execGlobalDispatch pid launch die count s) := by
  unfold execGlobalDispatch
  grind [canonical_placeAll, canonical_dropGlobal, canonical_modLaunch, canonical_handOver, State.Canonical, KeepsMemory]

theorem canonical_execGangPlace (die idx : Nat) (s : State) (hs : s.Canonical) : KeepsMemory (execGangPlace die idx s) := by
  unfold execGangPlace
  grind [canonical_placeGang, State.Canonical, KeepsMemory]

theorem canonical_removeGang (s : State) (gid : Nat) (hs : s.Canonical) : (removeGang s gid).Canonical := hs

theorem canonical_execGangRetire (gid : Nat) (s : State) (hs : s.Canonical) : KeepsMemory (execGangRetire gid s) := by
  grind [execGangRetire, canonical_modLaunch, canonical_removeGang, canonical_treeStep, canonical_finish, State.Canonical, KeepsMemory]

/-! ### Pre-emption (19 R404-R410) -/

theorem canonical_requestGang (s : State) (gid : Nat) (hs : s.Canonical) : (requestGang s gid).Canonical := hs

theorem canonical_requestLaunch (s : State) (pid launch : Nat) (hs : s.Canonical) : (requestLaunch s pid launch).Canonical := by
  unfold requestLaunch
  grind [canonical_requestGang, canonical_foldl, State.Canonical]

theorem canonical_execPreemptRequest (pid launch : Nat) (s : State) (hs : s.Canonical) :
    KeepsMemory (execPreemptRequest pid launch s) := by
  grind [execPreemptRequest, canonical_requestLaunch, State.Canonical, KeepsMemory]

theorem canonical_execPreemptWaitTimeout (die : Nat) (s : State) (hs : s.Canonical) : KeepsMemory (execPreemptWaitTimeout die s) := by
  grind [execPreemptWaitTimeout, canonical_requestLaunch, State.Canonical, KeepsMemory]

theorem canonical_takeHalt (s : State) (fid n : Nat) (q : QHalt) (further : Nat) (hs : s.Canonical) :
    (takeHalt s fid n q further).Canonical := by
  grind [takeHalt, canonical_modFlight, canonical_haltRecord, canonical_applyHalt, State.Canonical]

theorem canonical_takeHalts (s : State) (fid n : Nat) (hs : s.Canonical) : (takeHalts s fid n).Canonical := by
  unfold takeHalts
  grind [canonical_takeHalt, canonical_foldl, State.Canonical]

theorem canonical_stopIfDue (s : State) (fid n : Nat) (hs : s.Canonical) : (stopIfDue s fid n).Canonical := by
  grind [stopIfDue, canonical_modFrag, State.Canonical]

theorem canonical_haltThenStop (s : State) (fid n : Nat) (hs : s.Canonical) : (haltThenStop s fid n).Canonical := by
  grind [haltThenStop, canonical_stopIfDue, canonical_takeHalts, State.Canonical]

theorem canonical_execPreemptDeadline (gid : Nat) (s : State) (hs : s.Canonical) : KeepsMemory (execPreemptDeadline gid s) := by
  unfold execPreemptDeadline
  grind [canonical_haltThenStop, canonical_modGang, canonical_foldl, State.Canonical, KeepsMemory]

theorem canonical_frozenSave (s : State) (pid : Nat) (hs : s.Canonical) : (frozenSave s pid).Canonical := hs

theorem canonical_execPreemptmaxExpiry (fid : Nat) (s : State) (hs : s.Canonical) : KeepsMemory (execPreemptmaxExpiry fid s) := by
  grind [execPreemptmaxExpiry, canonical_frozenSave, State.Canonical, KeepsMemory]

theorem canonical_stopUnit (s : State) (gid : Nat) (g : Gang) (u : StopUnit) (hs : s.Canonical) :
    ∀ t, stopUnit s gid g u = some t → t.Canonical := by
  intro t ht
  unfold stopUnit at ht
  split at ht
  · cases ht
    exact canonical_foldl _ (fun _ _ h => canonical_modTile _ _ _ h) _ _ hs
  · obtain ⟨l, -, rfl⟩ := Option.map_eq_some_iff.1 ht
    exact hs
  · cases ht
    exact hs

theorem canonical_saveGang (s : State) (gid : Nat) (hs : s.Canonical) : (saveGang s gid).Canonical := hs

theorem canonical_discardGang (s : State) (gid : Nat) (hs : s.Canonical) : (discardGang s gid).Canonical := by
  grind [discardGang, canonical_removeGang, canonical_endGangOps, canonical_modLaunch, State.Canonical]

theorem canonical_collect (s : State) (gid : Nat) (hs : s.Canonical) : (collect s gid).Canonical := by
  grind [collect, canonical_saveGang, canonical_discardGang, State.Canonical]

theorem canonical_execEngineStopAck (gid : Nat) (u : StopUnit) (s : State) (hs : s.Canonical) :
    KeepsMemory (execEngineStopAck gid u s) := by
  unfold execEngineStopAck
  grind [canonical_stopUnit, canonical_frozenSave, canonical_collect, canonical_modGang, canonical_foldl, State.Canonical, KeepsMemory]

theorem canonical_restoreGang (s : State) (gid : Nat) (g : Gang) (hs : s.Canonical) : (restoreGang s gid g).Canonical := by
  grind [restoreGang, canonical_startRetiring, canonical_takeUp, canonical_resumeColls, State.Canonical]

theorem canonical_restoreAll (l : List Nat) (s : State) (hs : s.Canonical) : ∀ t, restoreAll l s = some t → t.Canonical := by
  induction l generalizing s with
  | nil =>
    rintro t ⟨⟩
    exact hs
  | cons gid r ih => grind [restoreAll, canonical_restoreGang]

theorem canonical_execGangRestore (gid : Nat) (s : State) (hs : s.Canonical) : KeepsMemory (execGangRestore gid s) := by
  grind [execGangRestore, canonical_restoreAll, State.Canonical, KeepsMemory]

theorem canonical_execCancelComplete (pid launch : Nat) (s : State) (hs : s.Canonical) :
    KeepsMemory (execCancelComplete pid launch s) := by
  unfold execCancelComplete
  grind [canonical_discardGang, canonical_finish, canonical_treeStep, canonical_foldl, State.Canonical, KeepsMemory]

/-! ### The scheduler and the timer (16 R350-R353) -/

theorem canonical_icacheFill (s : State) (cr k : Nat) (w : DWord) (hs : s.Canonical) : (icacheFill s cr k w).Canonical := hs

theorem canonical_fetchAt (s : State) (cr k : Nat) (hs : s.Canonical) : (fetchAt s cr k).2.Canonical := by
  grind [fetchAt, canonical_icacheFill, State.Canonical]

theorem canonical_icachePrefetch (s : State) (cr k : Nat) (hs : s.Canonical) : (icachePrefetch s cr k).Canonical := by
  grind [icachePrefetch, canonical_icacheFill, State.Canonical]

theorem canonical_fetch (s : State) (f : Flight) (g : Fragment) (hs : s.Canonical) : (fetch s f g).2.Canonical := by
  grind [fetch, canonical_fetchAt, canonical_translate, State.Canonical]

theorem canonical_fetchFault (c : Ctx) (code detail : Nat) (hc : c.st.Canonical) : (fetchFault c code detail).Canonical := by
  grind [fetchFault, canonical_faultAt, State.Canonical]

theorem canonical_execInstructionFetchFault (s : State) (hs : s.Canonical) : KeepsMemory (execInstructionFetchFault s) := by
  grind [execInstructionFetchFault, canonical_issuer, canonical_fetch, canonical_fetchFault, State.Canonical, KeepsMemory]

theorem canonical_execFragmentAged (fid frag : Nat) (s : State) (hs : s.Canonical) : KeepsMemory (execFragmentAged fid frag s) := by
  grind [execFragmentAged, canonical_modFrag, State.Canonical, KeepsMemory]

theorem canonical_execFragmentSwitch (core slot : Nat) (s : State) (hs : s.Canonical) : KeepsMemory (execFragmentSwitch core slot s) := by
  grind [execFragmentSwitch, canonical_modCore, State.Canonical, KeepsMemory]

/-! ### Trap instructions, sweeps and freezes (19 R400-R414) -/

theorem canonical_execIllegalWord (u0 : DWord) (s : State) (hs : s.Canonical) : KeepsMemory (execIllegalWord u0 s) := by
  grind [execIllegalWord, canonical_issue, canonical_fault, State.Canonical, KeepsMemory]

theorem canonical_execTrap (a : Opnd) (s : State) (hs : s.Canonical) : KeepsMemory (execTrap a s) := by
  grind [execTrap, canonical_issue, canonical_fault, State.Canonical, KeepsMemory]

theorem canonical_returnTo (c : Ctx) (pc shown : DWord) (em : Lanes) (same : Bool) (hc : c.st.Canonical) :
    (returnTo c pc shown em same).st.Canonical := by
  grind [returnTo, canonical_settled, canonical_tracePacket, canonical_goto, State.Canonical]

theorem canonical_execTretRetry (s : State) (hs : s.Canonical) : KeepsMemory (execTretRetry s) := by
  grind [execTretRetry, canonical_issue, canonical_returnTo, canonical_commit, canonical_resumeKept, State.Canonical, KeepsMemory]

theorem canonical_execTretSkip (s : State) (hs : s.Canonical) : KeepsMemory (execTretSkip s) := by
  grind [execTretSkip, canonical_issue, canonical_commit, canonical_returnTo, State.Canonical, KeepsMemory]

theorem canonical_execTretRegion (s : State) (hs : s.Canonical) : KeepsMemory (execTretRegion s) := by
  grind [execTretRegion, canonical_issue, canonical_commit, canonical_returnTo, State.Canonical, KeepsMemory]

theorem canonical_killBy (flt : Bool) (m : Fin 24) (s : State) (hs : s.Canonical) : KeepsMemory (killBy flt m s) := by
  unfold killBy
  grind [canonical_issue, canonical_killReport, canonical_commit, canonical_settled, canonical_next, State.Canonical, KeepsMemory]

theorem canonical_putBcn (s : State) (cr n : Nat) (w : Word) (hs : s.Canonical) : (putBcn s cr n w).Canonical := hs

theorem canonical_execSmovp (d : Opnd) (n : BitVec 8) (s : State) (hs : s.Canonical) : KeepsMemory (execSmovp d n s) := by
  grind [execSmovp, canonical_issue, canonical_fault, canonical_retireNext, canonical_putS, State.Canonical, KeepsMemory]

theorem canonical_execSmovq (n : BitVec 8) (a : Opnd) (s : State) (hs : s.Canonical) : KeepsMemory (execSmovq n a s) := by
  grind [execSmovq, canonical_issue, canonical_fault, canonical_retireNext, canonical_putBcn, State.Canonical, KeepsMemory]

theorem canonical_sweepBy (icache : Bool) (page : Ctx → Option DWord) (ops : List (Opnd × Nat)) (s : State) (hs : s.Canonical) :
    KeepsMemory (sweepBy icache page ops s) := by
  unfold sweepBy
  grind [canonical_issue, canonical_settled, canonical_commit, State.Canonical, KeepsMemory]

theorem canonical_sweepAll (s : State) (pid : Nat) (page : Option DWord) (hs : s.Canonical) : (sweepAll s pid page).Canonical := hs

theorem canonical_dropIcaches (s : State) (pid : Nat) (hs : s.Canonical) : (dropIcaches s pid).Canonical := hs

theorem canonical_execInvalidationSweepDone (id : Nat) (s : State) (hs : s.Canonical) : KeepsMemory (execInvalidationSweepDone id s) := by
  grind [execInvalidationSweepDone, canonical_dropIcaches, canonical_sweepAll, canonical_modFrag, canonical_send, State.Canonical,
    KeepsMemory]

theorem canonical_served (s : State) (pid : Nat) (act : State → Ans) (hs : s.Canonical)
    (hact : ∀ x0, x0.Canonical → KeepsMemory (act x0)) : KeepsMemory (served s pid act) := by
  grind [served, State.Canonical, KeepsMemory]

theorem canonical_execFrz (s : State) (hs : s.Canonical) : KeepsMemory (execFrz s) := by
  grind [execFrz, canonical_issue, canonical_settled, canonical_next, canonical_assertFreeze, canonical_latch, canonical_commit,
    State.Canonical, KeepsMemory]

theorem canonical_execFrzSnap (s : State) (hs : s.Canonical) : KeepsMemory (execFrzSnap s) := by
  grind [execFrzSnap, canonical_issue, canonical_retireNext, canonical_latch, State.Canonical, KeepsMemory]

theorem canonical_execFreezeTakesEffect (pid : Nat) (s : State) (hs : s.Canonical) : KeepsMemory (execFreezeTakesEffect pid s) := by
  grind [execFreezeTakesEffect, canonical_latch, canonical_modPart, State.Canonical, KeepsMemory]

theorem canonical_execFreezeCommand (pid : Nat) (s : State) (hs : s.Canonical) : KeepsMemory (execFreezeCommand pid s) := by
  grind [execFreezeCommand, canonical_assertFreeze, State.Canonical, KeepsMemory]

theorem canonical_execSnapshotTriggerCommand (s : State) (hs : s.Canonical) : KeepsMemory (execSnapshotTriggerCommand s) := by
  grind [execSnapshotTriggerCommand, canonical_latch, State.Canonical, KeepsMemory]

theorem canonical_taker (s : State) (hs : s.Canonical) : ∀ t, taker? s = some t → t.st.Canonical := by
  grind [taker?, canonical_issuer, State.Canonical]

theorem canonical_execAsyncFaultTaken (s : State) (hs : s.Canonical) : KeepsMemory (execAsyncFaultTaken s) := by
  grind [execAsyncFaultTaken, canonical_taker, canonical_takeTrap, canonical_modFlight, State.Canonical, KeepsMemory]

theorem canonical_execTimerTrapTaken (s : State) (hs : s.Canonical) : KeepsMemory (execTimerTrapTaken s) := by
  grind [execTimerTrapTaken, canonical_taker, canonical_takeTrap, canonical_modFlight, State.Canonical, KeepsMemory]

theorem canonical_execTimerPeriodEnd (pid : Nat) (s : State) (hs : s.Canonical) : KeepsMemory (execTimerPeriodEnd pid s) := by
  grind [execTimerPeriodEnd, State.Canonical, KeepsMemory]

/-! ### Inspection and halts (20 R426-R435) -/

theorem canonical_execGangHaltOtherFlight (fid further : Nat) (s : State) (hs : s.Canonical) :
    KeepsMemory (execGangHaltOtherFlight fid further s) := by
  grind [execGangHaltOtherFlight, canonical_takeHalt, State.Canonical, KeepsMemory]

theorem canonical_haltFlight (scope : Nat) (s : State) (fid : Nat) (hs : s.Canonical) : (haltFlight scope s fid).Canonical := by
  grind [haltFlight, canonical_modFlight, canonical_applyHalt, State.Canonical]

theorem canonical_execHaltCommand (pid launch gang rank flight : Nat) (whole : Bool) (s : State) (hs : s.Canonical) :
    KeepsMemory (execHaltCommand pid launch gang rank flight whole s) := by
  unfold execHaltCommand
  grind [canonical_haltFlight, canonical_modGang, canonical_foldl, State.Canonical, KeepsMemory]

theorem canonical_unhalt (s : State) (gid : Nat) (hs : s.Canonical) : (unhalt s gid).Canonical := by
  grind [unhalt, canonical_takeUp, canonical_modGang, State.Canonical]

theorem canonical_resumeFrags (s : State) (fid : Nat) (ns : List Nat) (hs : s.Canonical) : (resumeFrags s fid ns).Canonical := by
  grind [resumeFrags, canonical_modFlight, canonical_unhalt, canonical_tryMerges, State.Canonical]

theorem canonical_writeItem (s : State) (fid : Nat) (f : Flight) (g : Fragment) (t : Target) (sel : Nat) (w : Word) (hs : s.Canonical) :
    (writeItem s fid f g t sel w).Canonical := by
  grind [writeItem, canonical_modFlight, canonical_putScalar, canonical_resumeFrags, State.Canonical]

theorem canonical_execDbgrd (d a b : Opnd) (s : State) (hs : s.Canonical) : KeepsMemory (execDbgrd d a b s) := by
  grind [execDbgrd, canonical_issue, canonical_retireNext, canonical_putS, canonical_stall, State.Canonical, KeepsMemory]

theorem canonical_execDbgwr (d a b x : Opnd) (s : State) (hs : s.Canonical) : KeepsMemory (execDbgwr d a b x s) := by
  grind [execDbgwr, canonical_issue, canonical_retireNext, canonical_putS, canonical_stall, canonical_reload, canonical_writeItem,
    State.Canonical, KeepsMemory]

theorem canonical_askStep (c : Ctx) (fid n : Nat) (d : Opnd) (hc : c.st.Canonical) : (askStep c fid n d).Canonical := hc

theorem canonical_isolate (s : State) (fid : Nat) (f : Flight) (g : Fragment) (lane tok : Nat) (hs : s.Canonical) :
    (isolate s fid f g lane tok).2.Canonical := by
  grind [isolate, canonical_modFlight, State.Canonical]

theorem canonical_stepBy (tok : Ctx → Option Nat) (ops : List (Opnd × Nat)) (d a : Opnd) (s : State) (hs : s.Canonical) :
    KeepsMemory (stepBy tok ops d a s) := by
  refine canonical_issue _ _ _ _ (fun c hc => ?_) hs
  have hfail (n : Nat) : (retireNext c (putS c d (w32 n))).Canonical := canonical_retireNext _ _ (canonical_putS _ _ _ hc)
  have hisolate (fid : Nat) (f : Flight) (g : Fragment) (lane k n : Nat) :
      (askStep (reload c (isolate c.st fid f g lane k).2) fid n d).Canonical :=
    canonical_askStep _ _ _ _ (canonical_reload _ _ (canonical_isolate _ _ _ _ _ _ hc))
  dsimp only
  split
  · exact hfail 3
  · split
    · exact hfail 1
    · split
      · exact hfail 2
      · grind [canonical_stall, canonical_askStep]

theorem canonical_stepAnswer (s : State) (x : Stepping) (st : Nat) (hs : s.Canonical) : (stepAnswer s x st).Canonical := by
  unfold stepAnswer
  dsimp only
  split
  · exact hs
  · next c h =>
    have hc : c.st.Canonical := canonical_ctxAt { s with steps := s.steps.filter (· != x) } x.byFid x.byFrag hs c h
    split
    · exact canonical_back _ _ (canonical_commit _ (canonical_next _ (canonical_putS _ _ _ hc)))
    · exact hs

theorem canonical_stepDone (s : State) (f : Flight) (g : Fragment) (x : Stepping) (hs : s.Canonical) : (stepDone s f g x).Canonical := by
  grind [stepDone, canonical_stepAnswer, canonical_haltRecord, State.Canonical]

theorem canonical_stepGone (s : State) (fid n : Nat) (hs : s.Canonical) : (stepGone s fid n).Canonical := by
  grind [stepGone, canonical_stepAnswer, canonical_modFrag, State.Canonical]

end Sys2Proof.Machine
end

section
/-!
SUPPORT. Memory stays in its canonical form (log 4) through the operations of the trace, the scan path, the host and the step. Each lemma
names the operations that its function is made of. Each proof uses lemmas just before it, so they are checked one after another: proofs
that wait for each other in threads of their own take too much memory.
-/
namespace Sys2Proof.Machine

set_option Elab.async false

/-! ### Trace and sampling (20 R436-R440) -/

theorem canonical_execTraceSyncSet (c : Nat) (s : State) (hs : s.Canonical) : KeepsMemory (execTraceSyncSet c s) := by
  grind [execTraceSyncSet, canonical_traceSync, State.Canonical, KeepsMemory]

theorem canonical_execTraceLostPacket (c : Nat) (s : State) (hs : s.Canonical) : KeepsMemory (execTraceLostPacket c s) := by
  grind [execTraceLostPacket, canonical_modCore, canonical_tracePut, canonical_traceSync, State.Canonical, KeepsMemory]

theorem canonical_sampleSlot (s : State) (cr slot : Nat) (hs : s.Canonical) : (sampleSlot s cr slot).Canonical := by
  grind [sampleSlot, canonical_modCore, canonical_devWrite, State.Canonical]

theorem canonical_execSampleTick (c : Nat) (s : State) (hs : s.Canonical) : KeepsMemory (execSampleTick c s) := by
  unfold execSampleTick
  grind [canonical_sampleSlot, canonical_foldl, State.Canonical, KeepsMemory]

/-! ### The scan path (19 R415) -/

theorem canonical_saveFrozen (s : State) (pid : Nat) (hs : s.Canonical) : (saveFrozen s pid).Canonical := by
  unfold saveFrozen
  grind [canonical_saveGang, canonical_foldl, State.Canonical]

theorem canonical_execScan (pid : Nat) (s : State) (hs : s.Canonical) : KeepsMemory (execScan pid s) := by
  unfold execScan
  grind [canonical_served, canonical_send, canonical_saveFrozen, canonical_foldl, State.Canonical, KeepsMemory]

theorem canonical_giveUpPark (s : State) (f0 : Flight) (fid n : Nat) (hs : s.Canonical) : (giveUpPark s f0 fid n).Canonical := by
  grind [giveUpPark, canonical_modFlight, State.Canonical]

theorem canonical_parkAgain (s0 : State) (f0 : Flight) (fid : Nat) (r : List Byte) (hs : s0.Canonical) :
    (parkAgain s0 f0 fid r).Canonical := by
  unfold parkAgain
  grind [canonical_giveUpPark, canonical_issuer, canonical_fetch, canonical_modFlight, canonical_modFrag, State.Canonical]

theorem canonical_loadCmd (s : State) (pid : Nat) (r : List Byte) (hs : s.Canonical) : (loadCmd s pid r).Canonical := by
  grind [loadCmd, State.Canonical]

theorem canonical_loadTile (s : State) (pid : Nat) (r : List Byte) (hs : s.Canonical) : (loadTile s pid r).Canonical := by
  grind [loadTile, canonical_restoreTile, State.Canonical]

theorem canonical_loadSnap (s : State) (r : List Byte) (hs : s.Canonical) : (loadSnap s r).Canonical := hs

theorem canonical_loadRecord (s0 s : State) (pid k : Nat) (last : Option Nat) (r : List Byte) (hs : s.Canonical) :
    (loadRecord s0 s pid k last r).Canonical := by
  grind [loadRecord, canonical_modFlight, canonical_parkAgain, canonical_modGang, canonical_loadTile, canonical_writeBytes,
    canonical_loadSnap, canonical_loadCmd, State.Canonical]

theorem canonical_loadRecords (s0 : State) (pid : Nat) (l seen : List (List Byte)) (last : Option Nat) (s : State) (hs : s.Canonical) :
    (loadRecords s0 pid l seen last s).1.Canonical := by
  induction l generalizing seen last s with
  | nil => exact hs
  | cons x r ih => grind [loadRecords, canonical_loadRecord]

theorem canonical_unfreezeSaved (s : State) (pid : Nat) (hs : s.Canonical) : ∀ t, unfreezeSaved s pid = some t → t.Canonical := by
  grind [unfreezeSaved, canonical_restoreAll, State.Canonical]

/-! ### The host, boot and partitions (22 R447-R454) -/

theorem canonical_done (s : State) (status : Nat) (hs : s.Canonical) : (done s status).Canonical := hs

theorem canonical_execHostAccess (write : Bool) (a : Nat) (data : List Byte) (s : State) (hs : s.Canonical) :
    KeepsMemory (execHostAccess write a data s) := by
  grind [execHostAccess, canonical_send, canonical_doPuts, State.Canonical, KeepsMemory]

theorem canonical_putCoreReg (s : State) (c off : Nat) (v : DWord) (hs : s.Canonical) : (putCoreReg s c off v).Canonical := by
  grind [putCoreReg, canonical_modCore, canonical_traceSync, State.Canonical]

theorem canonical_ringCommands (s : State) (r : Nat) (hs : s.Canonical) : (ringCommands s r).Canonical := hs

theorem canonical_putMgmt (s : State) (pid off : Nat) (v : DWord) (hs : s.Canonical) : (putMgmt s pid off v).Canonical := by
  grind [putMgmt, canonical_modPart, canonical_ringCommands, canonical_putCoreReg, State.Canonical]

theorem canonical_lockBoot (s : State) (hs : s.Canonical) : (lockBoot s).Canonical := by
  grind [lockBoot, State.Canonical]

theorem canonical_putBootctl (s : State) (v : DWord) (hs : s.Canonical) : (putBootctl s v).Canonical := by
  grind [putBootctl, canonical_lockBoot, State.Canonical]

theorem canonical_putPwrctl (s : State) (v : DWord) (hs : s.Canonical) : (putPwrctl s v).Canonical := hs

theorem canonical_ringBell (s : State) (pid q : Nat) (w : Word) (hs : s.Canonical) : (ringBell s pid q w).Canonical := by
  grind [ringBell, canonical_ring, State.Canonical]

theorem canonical_execRegisterWrite (w : Window) (off : Nat) (val : DWord) (s : State) (hs : s.Canonical) :
    KeepsMemory (execRegisterWrite w off val s) := by
  unfold execRegisterWrite
  grind [canonical_ringBell, canonical_putMgmt, canonical_putBootctl, canonical_putPwrctl, State.Canonical, KeepsMemory]

theorem canonical_execBootLock (s : State) (hs : s.Canonical) : KeepsMemory (execBootLock s) := by
  grind [execBootLock, canonical_lockBoot, State.Canonical, KeepsMemory]

theorem canonical_execBootVerifyDone (s : State) (hs : s.Canonical) : KeepsMemory (execBootVerifyDone s) := by
  grind [execBootVerifyDone, State.Canonical, KeepsMemory]

theorem canonical_execReset (s : State) (hs : s.Canonical) : KeepsMemory (execReset s) := by
  rintro t ⟨⟩
  exact memWf_filter _ _ hs

theorem canonical_execAttest (nonce : List Byte) (s : State) (hs : s.Canonical) : KeepsMemory (execAttest nonce s) := by
  grind [execAttest, canonical_done, canonical_send, State.Canonical, KeepsMemory]

theorem canonical_execCreate (d : CreateDesc) (s : State) (hs : s.Canonical) : KeepsMemory (execCreate d s) := by
  grind [execCreate, canonical_done, State.Canonical, KeepsMemory]

theorem canonical_dropQueue (s : State) (pid q : Nat) (hs : s.Canonical) : (dropQueue s pid q).Canonical := hs

theorem canonical_dropComm (s : State) (pid n : Nat) (hs : s.Canonical) : (dropComm s pid n).Canonical := by
  grind [dropComm, canonical_endOpen, canonical_sendPuts, canonical_send, State.Canonical]

theorem canonical_wipe (s : State) (pid : Nat) (d : CreateDesc) (hs : s.Canonical) : (wipe s pid d).Canonical :=
  memWf_filter _ _ (canonical_sweepAll s pid none hs)

theorem canonical_endDestroy (s : State) (pid : Nat) (d : CreateDesc) (hs : s.Canonical) : (endDestroy s pid d).Canonical := by
  unfold endDestroy
  grind [canonical_dropQueue, canonical_dropComm, canonical_wipe, canonical_foldl, State.Canonical]

theorem canonical_execDestroy (pid : Nat) (s : State) (hs : s.Canonical) : KeepsMemory (execDestroy pid s) := by
  unfold execDestroy
  grind [canonical_served, canonical_done, canonical_endDestroy, canonical_cancelLaunch, canonical_modPart, canonical_foldl,
    State.Canonical, KeepsMemory]

theorem canonical_execQueueCreate (pid q : Nat) (desc : List Byte) (s : State) (hs : s.Canonical) :
    KeepsMemory (execQueueCreate pid q desc s) := by
  grind [execQueueCreate, canonical_served, canonical_done, canonical_send, State.Canonical, KeepsMemory]

theorem canonical_execQueueDestroy (pid q : Nat) (s : State) (hs : s.Canonical) : KeepsMemory (execQueueDestroy pid q s) := by
  grind [execQueueDestroy, canonical_served, canonical_done, canonical_dropQueue, State.Canonical, KeepsMemory]

theorem canonical_clearQueue (s : State) (q : Nat) (x : Queue) (hs : s.Canonical) : (clearQueue s q x).Canonical := hs

theorem canonical_execQueueReset (pid q : Nat) (s : State) (hs : s.Canonical) : KeepsMemory (execQueueReset pid q s) := by
  grind [execQueueReset, canonical_served, canonical_done, canonical_clearQueue, State.Canonical, KeepsMemory]

theorem canonical_execCommunicatorCreate (pid comm : Nat) (desc : List Byte) (s : State) (hs : s.Canonical) :
    KeepsMemory (execCommunicatorCreate pid comm desc s) := by
  grind [execCommunicatorCreate, canonical_served, canonical_done, canonical_feTell, State.Canonical, KeepsMemory]

theorem canonical_execCommunicatorDestroy (pid comm : Nat) (s : State) (hs : s.Canonical) :
    KeepsMemory (execCommunicatorDestroy pid comm s) := by
  grind [execCommunicatorDestroy, canonical_served, canonical_done, canonical_dropComm, State.Canonical, KeepsMemory]

theorem canonical_hostSweep (s : State) (pid : Nat) (icache : Bool) (page : Option DWord) (hs : s.Canonical) :
    (hostSweep s pid icache page).Canonical := by
  grind [hostSweep, canonical_done, State.Canonical]

theorem canonical_execCodeInvalidate (pid : Nat) (s : State) (hs : s.Canonical) : KeepsMemory (execCodeInvalidate pid s) := by
  grind [execCodeInvalidate, canonical_served, canonical_hostSweep, State.Canonical, KeepsMemory]

theorem canonical_execShootdown (pid : Nat) (all : Bool) (va : DWord) (s : State) (hs : s.Canonical) :
    KeepsMemory (execShootdown pid all va s) := by
  grind [execShootdown, canonical_served, canonical_hostSweep, State.Canonical, KeepsMemory]

theorem canonical_modWaits (s : State) (pid : Nat) (k : Flight → Wait → Wait) (hs : s.Canonical) : (modWaits s pid k).Canonical := hs

theorem canonical_modOps (s : State) (pid : Nat) (cmd : Cmd → Cmd) (coll : CollOp → CollOp) (put : PutOp → PutOp) (hs : s.Canonical) :
    (modOps s pid cmd coll put).Canonical := hs

theorem canonical_replayAll (s : State) (pid : Nat) (block : Option Nat) (hs : s.Canonical) : (replayAll s pid block).Canonical := by
  grind [replayAll, canonical_takeUp, canonical_modOps, canonical_modWaits, State.Canonical]

theorem canonical_failAll (s : State) (pid : Nat) (block : Option Nat) (hs : s.Canonical) : (failAll s pid block).Canonical := by
  grind [failAll, canonical_takeUp, canonical_modOps, canonical_modWaits, State.Canonical]

theorem canonical_onLive (s : State) (pid : Nat) (act : State → State) (hs : s.Canonical)
    (hact : ∀ x0, x0.Canonical → (act x0).Canonical) : KeepsMemory (onLive s pid act) := by
  grind [onLive, canonical_served, canonical_done, State.Canonical, KeepsMemory]

theorem canonical_execReplayPartition (pid : Nat) (s : State) (hs : s.Canonical) : KeepsMemory (execReplayPartition pid s) := by
  grind [execReplayPartition, canonical_onLive, canonical_replayAll, State.Canonical, KeepsMemory]

theorem canonical_execReplayBlock (pid block : Nat) (s : State) (hs : s.Canonical) : KeepsMemory (execReplayBlock pid block s) := by
  grind [execReplayBlock, canonical_onLive, canonical_replayAll, State.Canonical, KeepsMemory]

theorem canonical_execFailBlock (pid block : Nat) (s : State) (hs : s.Canonical) : KeepsMemory (execFailBlock pid block s) := by
  grind [execFailBlock, canonical_onLive, canonical_failAll, State.Canonical, KeepsMemory]

theorem canonical_endJob (s : State) (pid code detail : Nat) (hs : s.Canonical) : (endJob s pid code detail).Canonical := by
  unfold endJob
  grind [canonical_discardGang, canonical_finish, canonical_modLaunch, canonical_modPart, canonical_foldl, State.Canonical]

theorem canonical_execFirmwareEndsJob (pid : Nat) (s : State) (hs : s.Canonical) : KeepsMemory (execFirmwareEndsJob pid s) := by
  grind [execFirmwareEndsJob, canonical_endJob, State.Canonical, KeepsMemory]

theorem canonical_thawJob (s : State) (pid : Nat) (hs : s.Canonical) : (thawJob s pid).Canonical := by
  grind [thawJob, canonical_modPart, canonical_takeUp, State.Canonical]

theorem canonical_execThaw (pid : Nat) (s : State) (hs : s.Canonical) : KeepsMemory (execThaw pid s) := by
  grind [execThaw, canonical_onLive, canonical_thawJob, State.Canonical, KeepsMemory]

theorem canonical_execScanRestore (pid : Nat) (recs : List (List Byte)) (s : State) (hs : s.Canonical) :
    KeepsMemory (execScanRestore pid recs s) := by
  grind [execScanRestore, canonical_served, canonical_done, canonical_unfreezeSaved, canonical_loadRecords, canonical_endJob,
    State.Canonical, KeepsMemory]

theorem canonical_execMigration (pid : Nat) (pages : List Nat) (s : State) (hs : s.Canonical) :
    KeepsMemory (execMigration pid pages s) := by
  unfold execMigration
  grind [canonical_done, canonical_modPart, canonical_requestLaunch, canonical_foldl, State.Canonical, KeepsMemory]

theorem canonical_measure (s : State) (power temp : BitVec 16) (hs : s.Canonical) : (measure s power temp).Canonical := by
  unfold measure
  grind [canonical_send, canonical_assertFreeze, canonical_foldl, State.Canonical]

theorem canonical_execThermalPowerLimit (power temp : BitVec 16) (s : State) (hs : s.Canonical) :
    KeepsMemory (execThermalPowerLimit power temp s) := by
  grind [execThermalPowerLimit, canonical_measure, State.Canonical, KeepsMemory]

theorem canonical_execThermalShutdown (temp : BitVec 16) (s : State) (hs : s.Canonical) : KeepsMemory (execThermalShutdown temp s) := by
  grind [execThermalShutdown, canonical_measure, State.Canonical, KeepsMemory]

/-! ### Paired halves (02 R25-R27) -/

theorem canonical_putHalf (c : Ctx) (r : Option (Opnd × (Nat → FRes))) (hc : c.st.Canonical) : (putHalf c r).st.Canonical := by
  unfold putHalf
  grind [canonical_putS, canonical_vecFlt, State.Canonical]

theorem canonical_pair (a b : PHalf) (s : State) (hs : s.Canonical) : KeepsMemory (pair a b s) := by
  unfold pair
  grind [canonical_issue, canonical_retireNext, canonical_putHalf, State.Canonical, KeepsMemory]

/-! ### Special functions (08 R219) -/

theorem canonical_special1 (k : Fmt → FVal → FRes) (t : Ty) (d a : Opnd) (s : State) (hs : s.Canonical) :
    KeepsMemory (special1 k t d a s) := by
  unfold special1
  grind [canonical_issue, canonical_stall, canonical_retireNext, canonical_pendResult, State.Canonical, KeepsMemory]

theorem canonical_execSfuResultWrite (fid id : Nat) (s : State) (hs : s.Canonical) : KeepsMemory (execSfuResultWrite fid id s) := by
  grind [execSfuResultWrite, canonical_landPend, State.Canonical, KeepsMemory]

/-! ### Every instruction and event -/

theorem keepsMemory_of_eq {a b : Ans} (h : a = b) (hb : KeepsMemory b) : KeepsMemory a := h ▸ hb

theorem canonical_exec (i : Instr) (s : State) (hs : s.Canonical) : KeepsMemory (exec i s) := by
  cases i with
  | nop => exact keepsMemory_of_eq (exec_nop s) (canonical_execNop s hs)
  | sadd ty d a b => exact keepsMemory_of_eq (exec_sadd ty d a b s) (canonical_scalar2 _ _ _ _ s hs)
  | ssub ty d a b => exact keepsMemory_of_eq (exec_ssub ty d a b s) (canonical_scalar2 _ _ _ _ s hs)
  | smul ty d a b => exact keepsMemory_of_eq (exec_smul ty d a b s) (canonical_scalar2 _ _ _ _ s hs)
  | smulh ty d a b => exact keepsMemory_of_eq (exec_smulh ty d a b s) (canonical_scalar2 _ _ _ _ s hs)
  | sand ty d a b => exact keepsMemory_of_eq (exec_sand ty d a b s) (canonical_scalar2 _ _ _ _ s hs)
  | sor ty d a b => exact keepsMemory_of_eq (exec_sor ty d a b s) (canonical_scalar2 _ _ _ _ s hs)
  | sxor ty d a b => exact keepsMemory_of_eq (exec_sxor ty d a b s) (canonical_scalar2 _ _ _ _ s hs)
  | sshl ty d a b => exact keepsMemory_of_eq (exec_sshl ty d a b s) (canonical_scalar2 _ _ _ _ s hs)
  | sshr ty d a b => exact keepsMemory_of_eq (exec_sshr ty d a b s) (canonical_scalar2 _ _ _ _ s hs)
  | ssar ty d a b => exact keepsMemory_of_eq (exec_ssar ty d a b s) (canonical_scalar2 _ _ _ _ s hs)
  | smin ty d a b => exact keepsMemory_of_eq (exec_smin ty d a b s) (canonical_scalar2 _ _ _ _ s hs)
  | smax ty d a b => exact keepsMemory_of_eq (exec_smax ty d a b s) (canonical_scalar2 _ _ _ _ s hs)
  | scmp ty c d a b => exact keepsMemory_of_eq (exec_scmp ty c d a b s) (canonical_execScmp ty c d a b s hs)
  | ssel ty d a b x => exact keepsMemory_of_eq (exec_ssel ty d a b x s) (canonical_execSsel ty d a b x s hs)
  | smov ty d a => exact keepsMemory_of_eq (exec_smov ty d a s) (canonical_execSmov ty d a s hs)
  | smovs d n => exact keepsMemory_of_eq (exec_smovs d n s) (canonical_execSmovs d n s hs)
  | smovw n a => exact keepsMemory_of_eq (exec_smovw n a s) (canonical_execSmovw n a s hs)
  | sbfe ty d a b x => exact keepsMemory_of_eq (exec_sbfe ty d a b x s) (canonical_execSbfe ty d a b x s hs)
  | spopc d a => exact keepsMemory_of_eq (exec_spopc d a s) (canonical_scalar1 _ _ _ s hs)
  | sclz d a => exact keepsMemory_of_eq (exec_sclz d a s) (canonical_scalar1 _ _ _ s hs)
  | sadd64 ty d a b => exact keepsMemory_of_eq (exec_sadd64 ty d a b s) (canonical_execSadd64 ty d a b s hs)
  | saddI d a imm => exact keepsMemory_of_eq (exec_saddI d a imm s) (canonical_scalarI _ _ _ _ s hs)
  | ssubI d a imm => exact keepsMemory_of_eq (exec_ssubI d a imm s) (canonical_scalarI _ _ _ _ s hs)
  | smulI d a imm => exact keepsMemory_of_eq (exec_smulI d a imm s) (canonical_scalarI _ _ _ _ s hs)
  | sandI d a imm => exact keepsMemory_of_eq (exec_sandI d a imm s) (canonical_scalarI _ _ _ _ s hs)
  | sorI d a imm => exact keepsMemory_of_eq (exec_sorI d a imm s) (canonical_scalarI _ _ _ _ s hs)
  | sxorI d a imm => exact keepsMemory_of_eq (exec_sxorI d a imm s) (canonical_scalarI _ _ _ _ s hs)
  | sshlI d a imm => exact keepsMemory_of_eq (exec_sshlI d a imm s) (canonical_scalarI _ _ _ _ s hs)
  | sshrI d a imm => exact keepsMemory_of_eq (exec_sshrI d a imm s) (canonical_scalarI _ _ _ _ s hs)
  | ssarI d a imm => exact keepsMemory_of_eq (exec_ssarI d a imm s) (canonical_scalarI _ _ _ _ s hs)
  | exit => exact keepsMemory_of_eq (exec_exit s) (canonical_execExit s hs)
  | ret a => exact keepsMemory_of_eq (exec_ret a s) (canonical_execRet a s hs)
  | yield => exact keepsMemory_of_eq (exec_yield s) (canonical_execYield s hs)
  | regn => exact keepsMemory_of_eq (exec_regn s) (canonical_execRegn s hs)
  | brkpt a => exact keepsMemory_of_eq (exec_brkpt a s) (canonical_execBrkpt a s hs)
  | wait limits => exact keepsMemory_of_eq (exec_wait limits s) (canonical_execWait limits s hs)
  | barw a b => exact keepsMemory_of_eq (exec_barw a b s) (canonical_barrier _ _ _ s hs)
  | bara a b => exact keepsMemory_of_eq (exec_bara a b s) (canonical_barrier _ _ _ s hs)
  | fence kind scope => exact keepsMemory_of_eq (exec_fence kind scope s) (canonical_execFence kind scope s hs)
  | opfence => exact keepsMemory_of_eq (exec_opfence s) (canonical_execOpfence s hs)
  | reggive a => exact keepsMemory_of_eq (exec_reggive a s) (canonical_execReggive a s hs)
  | regclaim a => exact keepsMemory_of_eq (exec_regclaim a s) (canonical_execRegclaim a s hs)
  | regclaimTry d a => exact keepsMemory_of_eq (exec_regclaimTry d a s) (canonical_execRegclaimTry d a s hs)
  | mand m ma mb => exact keepsMemory_of_eq (exec_mand m ma mb s) (canonical_mask2 _ _ _ _ s hs)
  | mor m ma mb => exact keepsMemory_of_eq (exec_mor m ma mb s) (canonical_mask2 _ _ _ _ s hs)
  | mxor m ma mb => exact keepsMemory_of_eq (exec_mxor m ma mb s) (canonical_mask2 _ _ _ _ s hs)
  | mandn m ma mb => exact keepsMemory_of_eq (exec_mandn m ma mb s) (canonical_mask2 _ _ _ _ s hs)
  | mpopc d ma => exact keepsMemory_of_eq (exec_mpopc d ma s) (canonical_execMpopc d ma s hs)
  | mfirst d ma => exact keepsMemory_of_eq (exec_mfirst d ma s) (canonical_execMfirst d ma s hs)
  | mlane m a => exact keepsMemory_of_eq (exec_mlane m a s) (canonical_execMlane m a s hs)
  | vadd ty d a b => exact keepsMemory_of_eq (exec_vadd ty d a b s) (canonical_vec2 _ _ _ _ s hs)
  | vsub ty d a b => exact keepsMemory_of_eq (exec_vsub ty d a b s) (canonical_vec2 _ _ _ _ s hs)
  | vmul ty d a b => exact keepsMemory_of_eq (exec_vmul ty d a b s) (canonical_vec2 _ _ _ _ s hs)
  | vmulh ty d a b => exact keepsMemory_of_eq (exec_vmulh ty d a b s) (canonical_vec2 _ _ _ _ s hs)
  | vmad ty d a b x => exact keepsMemory_of_eq (exec_vmad ty d a b x s) (canonical_vec3 _ _ _ _ _ s hs)
  | vand ty d a b => exact keepsMemory_of_eq (exec_vand ty d a b s) (canonical_vec2 _ _ _ _ s hs)
  | vor ty d a b => exact keepsMemory_of_eq (exec_vor ty d a b s) (canonical_vec2 _ _ _ _ s hs)
  | vxor ty d a b => exact keepsMemory_of_eq (exec_vxor ty d a b s) (canonical_vec2 _ _ _ _ s hs)
  | vandn ty d a b => exact keepsMemory_of_eq (exec_vandn ty d a b s) (canonical_vec2 _ _ _ _ s hs)
  | vshl ty d a b => exact keepsMemory_of_eq (exec_vshl ty d a b s) (canonical_vec2 _ _ _ _ s hs)
  | vshr ty d a b => exact keepsMemory_of_eq (exec_vshr ty d a b s) (canonical_vec2 _ _ _ _ s hs)
  | vsar ty d a b => exact keepsMemory_of_eq (exec_vsar ty d a b s) (canonical_vec2 _ _ _ _ s hs)
  | vmin ty d a b => exact keepsMemory_of_eq (exec_vmin ty d a b s) (canonical_vec2 _ _ _ _ s hs)
  | vmax ty d a b => exact keepsMemory_of_eq (exec_vmax ty d a b s) (canonical_vec2 _ _ _ _ s hs)
  | vabs d a => exact keepsMemory_of_eq (exec_vabs d a s) (canonical_vec1 _ _ _ s hs)
  | vclz d a => exact keepsMemory_of_eq (exec_vclz d a s) (canonical_vec1 _ _ _ s hs)
  | vpopc d a => exact keepsMemory_of_eq (exec_vpopc d a s) (canonical_vec1 _ _ _ s hs)
  | vbfe ty d a b x => exact keepsMemory_of_eq (exec_vbfe ty d a b x s) (canonical_vec3 _ _ _ _ _ s hs)
  | vbfi d a b x => exact keepsMemory_of_eq (exec_vbfi d a b x s) (canonical_vec3 _ _ _ _ _ s hs)
  | vcmp ty c d a b => exact keepsMemory_of_eq (exec_vcmp ty c d a b s) (canonical_execVcmp ty c d a b s hs)
  | vsel ty d a b x => exact keepsMemory_of_eq (exec_vsel ty d a b x s) (canonical_execVsel ty d a b x s hs)
  | vmov ty d a => exact keepsMemory_of_eq (exec_vmov ty d a s) (canonical_execVmov ty d a s hs)
  | vadd64 ty d a b => exact keepsMemory_of_eq (exec_vadd64 ty d a b s) (canonical_execVadd64 ty d a b s hs)
  | vmad64 ty d a b x => exact keepsMemory_of_eq (exec_vmad64 ty d a b x s) (canonical_execVmad64 ty d a b x s hs)
  | vshfl ty mode d a b => exact keepsMemory_of_eq (exec_vshfl ty mode d a b s) (canonical_execVshfl ty mode d a b s hs)
  | vbcast ty d a b => exact keepsMemory_of_eq (exec_vbcast ty d a b s) (canonical_execVbcast ty d a b s hs)
  | vredu ty op d a => exact keepsMemory_of_eq (exec_vredu ty op d a s) (canonical_execVredu ty op d a s hs)
  | vscan ty op excl d a => exact keepsMemory_of_eq (exec_vscan ty op excl d a s) (canonical_execVscan ty op excl d a s hs)
  | vmovs d n => exact keepsMemory_of_eq (exec_vmovs d n s) (canonical_execVmovs d n s hs)
  | vaddI d a imm => exact keepsMemory_of_eq (exec_vaddI d a imm s) (canonical_vecI _ _ _ _ s hs)
  | vsubI d a imm => exact keepsMemory_of_eq (exec_vsubI d a imm s) (canonical_vecI _ _ _ _ s hs)
  | vmulI d a imm => exact keepsMemory_of_eq (exec_vmulI d a imm s) (canonical_vecI _ _ _ _ s hs)
  | vandI d a imm => exact keepsMemory_of_eq (exec_vandI d a imm s) (canonical_vecI _ _ _ _ s hs)
  | vorI d a imm => exact keepsMemory_of_eq (exec_vorI d a imm s) (canonical_vecI _ _ _ _ s hs)
  | vxorI d a imm => exact keepsMemory_of_eq (exec_vxorI d a imm s) (canonical_vecI _ _ _ _ s hs)
  | vshlI d a imm => exact keepsMemory_of_eq (exec_vshlI d a imm s) (canonical_vecI _ _ _ _ s hs)
  | vshrI d a imm => exact keepsMemory_of_eq (exec_vshrI d a imm s) (canonical_vecI _ _ _ _ s hs)
  | vsarI d a imm => exact keepsMemory_of_eq (exec_vsarI d a imm s) (canonical_vecI _ _ _ _ s hs)
  | vfadd ty rm d a b => exact keepsMemory_of_eq (exec_vfadd ty rm d a b s) (canonical_flt2 _ _ _ _ _ _ s hs)
  | vfsub ty rm d a b => exact keepsMemory_of_eq (exec_vfsub ty rm d a b s) (canonical_flt2 _ _ _ _ _ _ s hs)
  | vfmul ty rm d a b => exact keepsMemory_of_eq (exec_vfmul ty rm d a b s) (canonical_flt2 _ _ _ _ _ _ s hs)
  | vfma ty rm d a b x => exact keepsMemory_of_eq (exec_vfma ty rm d a b x s) (canonical_execVfma ty rm d a b x s hs)
  | vfmin ty d a b => exact keepsMemory_of_eq (exec_vfmin ty d a b s) (canonical_flt2 _ _ _ _ _ _ s hs)
  | vfmax ty d a b => exact keepsMemory_of_eq (exec_vfmax ty d a b s) (canonical_flt2 _ _ _ _ _ _ s hs)
  | vfcmp ty c d a b => exact keepsMemory_of_eq (exec_vfcmp ty c d a b s) (canonical_execVfcmp ty c d a b s hs)
  | vfclass ty d a => exact keepsMemory_of_eq (exec_vfclass ty d a s) (canonical_execVfclass ty d a s hs)
  | vfrnd ty rm d a => exact keepsMemory_of_eq (exec_vfrnd ty rm d a s) (canonical_execVfrnd ty rm d a s hs)
  | vcvt ty rm src d a b => exact keepsMemory_of_eq (exec_vcvt ty rm src d a b s) (canonical_execVcvt ty rm src d a b s hs)
  | vf2i ty rm src d a b => exact keepsMemory_of_eq (exec_vf2i ty rm src d a b s) (canonical_execVf2i ty rm src d a b s hs)
  | vi2f ty rm src d a b => exact keepsMemory_of_eq (exec_vi2f ty rm src d a b s) (canonical_execVi2f ty rm src d a b s hs)
  | vfscl ty rm d a b => exact keepsMemory_of_eq (exec_vfscl ty rm d a b s) (canonical_execVfscl ty rm d a b s hs)
  | vrcp ty rm d a => exact keepsMemory_of_eq (exec_vrcp ty rm d a s) (canonical_special1 _ _ _ _ s hs)
  | vrsq ty rm d a => exact keepsMemory_of_eq (exec_vrsq ty rm d a s) (canonical_special1 _ _ _ _ s hs)
  | vsqrt ty rm d a => exact keepsMemory_of_eq (exec_vsqrt ty rm d a s) (canonical_special1 _ _ _ _ s hs)
  | vexp2 ty rm d a => exact keepsMemory_of_eq (exec_vexp2 ty rm d a s) (canonical_special1 _ _ _ _ s hs)
  | vlog2 ty rm d a => exact keepsMemory_of_eq (exec_vlog2 ty rm d a s) (canonical_special1 _ _ _ _ s hs)
  | vsinpi ty rm d a => exact keepsMemory_of_eq (exec_vsinpi ty rm d a s) (canonical_special1 _ _ _ _ s hs)
  | vcospi ty rm d a => exact keepsMemory_of_eq (exec_vcospi ty rm d a s) (canonical_special1 _ _ _ _ s hs)
  | vtanh ty rm d a => exact keepsMemory_of_eq (exec_vtanh ty rm d a s) (canonical_special1 _ _ _ _ s hs)
  | welf rm d a => exact keepsMemory_of_eq (exec_welf rm d a s) (canonical_execWelf rm d a s hs)
  | wmrg rm d a => exact keepsMemory_of_eq (exec_wmrg rm d a s) (canonical_execWmrg rm d a s hs)
  | vbexp ty n d a => exact keepsMemory_of_eq (exec_vbexp ty n d a s) (canonical_execVbexp ty n d a s hs)
  | vpkx ty d a b => exact keepsMemory_of_eq (exec_vpkx ty d a b s) (canonical_execVpkx ty d a b s hs)
  | vunpkx ty d a b => exact keepsMemory_of_eq (exec_vunpkx ty d a b s) (canonical_execVunpkx ty d a b s hs)
  | imgq map d a b => exact keepsMemory_of_eq (exec_imgq map d a b s) (canonical_execImgq map d a b s hs)
  | cpy d a b => exact keepsMemory_of_eq (exec_cpy d a b s) (canonical_copyIssue _ _ _ _ _ s hs)
  | cpyt every d a b t => exact keepsMemory_of_eq (exec_cpyt every d a b t s) (canonical_execCpyt every d a b t s hs)
  | cpytCancel t => exact keepsMemory_of_eq (exec_cpytCancel t s) (canonical_execCpytCancel t s hs)
  | cpyg d a b => exact keepsMemory_of_eq (exec_cpyg d a b s) (canonical_copyIssue _ _ _ _ _ s hs)
  | cpys d a b => exact keepsMemory_of_eq (exec_cpys d a b s) (canonical_copyIssue _ _ _ _ _ s hs)
  | cpyb d a b => exact keepsMemory_of_eq (exec_cpyb d a b s) (canonical_copyIssue _ _ _ _ _ s hs)
  | sqfill d a b o => exact keepsMemory_of_eq (exec_sqfill d a b o s) (canonical_copyIssue _ _ _ _ _ s hs)
  | boinit a b => exact keepsMemory_of_eq (exec_boinit a b s) (canonical_execBoinit a b s hs)
  | boexp arr bs a b => exact keepsMemory_of_eq (exec_boexp arr bs a b s) (canonical_execBoexp arr bs a b s hs)
  | boarr lanes bs d a => exact keepsMemory_of_eq (exec_boarr lanes bs d a s) (canonical_execBoarr lanes bs d a s hs)
  | bowait bs a b => exact keepsMemory_of_eq (exec_bowait bs a b s) (canonical_execBowait bs a b s hs)
  | botry bs d a b => exact keepsMemory_of_eq (exec_botry bs d a b s) (canonical_execBotry bs d a b s hs)
  | lcon ty sp acc a b x => exact keepsMemory_of_eq (exec_lcon ty sp acc a b x s) (canonical_execLcon ty sp acc a b x s hs)
  | lcona ty gang sp acc a b x =>
    exact keepsMemory_of_eq (exec_lcona ty gang sp acc a b x s)
      (canonical_execLcona ty gang sp acc a b x s hs)
  | accget acc => exact keepsMemory_of_eq (exec_accget acc s) (canonical_execAccget acc s hs)
  | accput acc => exact keepsMemory_of_eq (exec_accput acc s) (canonical_execAccput acc s hs)
  | accz acc => exact keepsMemory_of_eq (exec_accz acc s) (canonical_execAccz acc s hs)
  | accrd d acc b => exact keepsMemory_of_eq (exec_accrd d acc b s) (canonical_execAccrd d acc b s hs)
  | accwr acc a b => exact keepsMemory_of_eq (exec_accwr acc a b s) (canonical_execAccwr acc a b s hs)
  | accst acc a b => exact keepsMemory_of_eq (exec_accst acc a b s) (canonical_execAccst acc a b s hs)
  | scacc ty acc => exact keepsMemory_of_eq (exec_scacc ty acc s) (canonical_execScacc ty acc s hs)
  | sqpush a => exact keepsMemory_of_eq (exec_sqpush a s) (canonical_execSqpush a s hs)
  | sqcnt d => exact keepsMemory_of_eq (exec_sqcnt d s) (canonical_execSqcnt d s hs)
  | accsv acc a => exact keepsMemory_of_eq (exec_accsv acc a s) (canonical_execAccsv acc a s hs)
  | accld acc a => exact keepsMemory_of_eq (exec_accld acc a s) (canonical_execAccld acc a s hs)
  | ld wd sc fe nt d m => exact keepsMemory_of_eq (exec_ld wd sc fe nt d m s) (canonical_memIssue _ _ _ s (fun _ _ h => h) hs)
  | st wd sc sf img nt d m => exact keepsMemory_of_eq (exec_st wd sc sf img nt d m s) (canonical_memIssue _ _ _ s (fun _ _ h => h) hs)
  | sld wd sc fe nt d m => exact keepsMemory_of_eq (exec_sld wd sc fe nt d m s) (canonical_memIssue _ _ _ s (fun _ _ h => h) hs)
  | sst wd sc sf nt d m => exact keepsMemory_of_eq (exec_sst wd sc sf nt d m s) (canonical_memIssue _ _ _ s (fun _ _ h => h) hs)
  | pf nt m => exact keepsMemory_of_eq (exec_pf nt m s) (canonical_execPf nt m s hs)
  | fest sc full m => exact keepsMemory_of_eq (exec_fest sc full m s) (canonical_memIssue _ _ _ s (fun _ _ h => h) hs)
  | feq sc d m => exact keepsMemory_of_eq (exec_feq sc d m s) (canonical_execFeq sc d m s hs)
  | aadd t sc img nt d m => exact keepsMemory_of_eq (exec_aadd t sc img nt d m s) (canonical_memIssue _ _ _ s (fun _ _ h => h) hs)
  | aaddOrd sc img nt d m => exact keepsMemory_of_eq (exec_aaddOrd sc img nt d m s) (canonical_memIssue _ _ _ s (fun _ _ h => h) hs)
  | aand t sc img nt d m => exact keepsMemory_of_eq (exec_aand t sc img nt d m s) (canonical_memIssue _ _ _ s (fun _ _ h => h) hs)
  | aor t sc img nt d m => exact keepsMemory_of_eq (exec_aor t sc img nt d m s) (canonical_memIssue _ _ _ s (fun _ _ h => h) hs)
  | axor t sc img nt d m => exact keepsMemory_of_eq (exec_axor t sc img nt d m s) (canonical_memIssue _ _ _ s (fun _ _ h => h) hs)
  | amin t sc img nt d m => exact keepsMemory_of_eq (exec_amin t sc img nt d m s) (canonical_memIssue _ _ _ s (fun _ _ h => h) hs)
  | amax t sc img nt d m => exact keepsMemory_of_eq (exec_amax t sc img nt d m s) (canonical_memIssue _ _ _ s (fun _ _ h => h) hs)
  | axchg t sc img nt d m => exact keepsMemory_of_eq (exec_axchg t sc img nt d m s) (canonical_memIssue _ _ _ s (fun _ _ h => h) hs)
  | acas t sc nt d m => exact keepsMemory_of_eq (exec_acas t sc nt d m s) (canonical_memIssue _ _ _ s (fun _ _ h => h) hs)
  | aincb sc nt d m => exact keepsMemory_of_eq (exec_aincb sc nt d m s) (canonical_memIssue _ _ _ s (fun _ _ h => h) hs)
  | depdec sc d m => exact keepsMemory_of_eq (exec_depdec sc d m s) (canonical_memIssue _ _ _ s (fun _ _ h => h) hs)
  | aseal sc m => exact keepsMemory_of_eq (exec_aseal sc m s) (canonical_memIssue _ _ _ s (fun _ _ h => h) hs)
  | bra off => exact keepsMemory_of_eq (exec_bra off s) (canonical_execBra off s hs)
  | brc cc c off => exact keepsMemory_of_eq (exec_brc cc c off s) (canonical_execBrc cc c off s hs)
  | brv cc c tok off => exact keepsMemory_of_eq (exec_brv cc c tok off s) (canonical_execBrv cc c tok off s hs)
  | brmLanes m tok off => exact keepsMemory_of_eq (exec_brmLanes m tok off s) (canonical_execBrmLanes m tok off s hs)
  | brm mode m off => exact keepsMemory_of_eq (exec_brm mode m off s) (canonical_execBrm mode m off s hs)
  | join tok => exact keepsMemory_of_eq (exec_join tok s) (canonical_execJoin tok s hs)
  | call k off => exact keepsMemory_of_eq (exec_call k off s) (canonical_execCall k off s hs)
  | smovi d v => exact keepsMemory_of_eq (exec_smovi d v s) (canonical_execSmovi d v s hs)
  | vmovi d v => exact keepsMemory_of_eq (exec_vmovi d v s) (canonical_execVmovi d v s hs)
  | saddi d a v => exact keepsMemory_of_eq (exec_saddi d a v s) (canonical_execSaddi d a v s hs)
  | vaddi d a v => exact keepsMemory_of_eq (exec_vaddi d a v s) (canonical_execVaddi d a v s hs)
  | pNop x b => exact keepsMemory_of_eq (exec_pNop x b s) (canonical_pair _ _ s hs)
  | pVadd x b => exact keepsMemory_of_eq (exec_pVadd x b s) (canonical_pair _ _ s hs)
  | pVsub x b => exact keepsMemory_of_eq (exec_pVsub x b s) (canonical_pair _ _ s hs)
  | pVmul x b => exact keepsMemory_of_eq (exec_pVmul x b s) (canonical_pair _ _ s hs)
  | pVand x b => exact keepsMemory_of_eq (exec_pVand x b s) (canonical_pair _ _ s hs)
  | pVor x b => exact keepsMemory_of_eq (exec_pVor x b s) (canonical_pair _ _ s hs)
  | pVxor x b => exact keepsMemory_of_eq (exec_pVxor x b s) (canonical_pair _ _ s hs)
  | pVshl x b => exact keepsMemory_of_eq (exec_pVshl x b s) (canonical_pair _ _ s hs)
  | pVshr x b => exact keepsMemory_of_eq (exec_pVshr x b s) (canonical_pair _ _ s hs)
  | pVsar x b => exact keepsMemory_of_eq (exec_pVsar x b s) (canonical_pair _ _ s hs)
  | pVmin x b => exact keepsMemory_of_eq (exec_pVmin x b s) (canonical_pair _ _ s hs)
  | pVmax x b => exact keepsMemory_of_eq (exec_pVmax x b s) (canonical_pair _ _ s hs)
  | pVmov x b => exact keepsMemory_of_eq (exec_pVmov x b s) (canonical_pair _ _ s hs)
  | pVfadd x b => exact keepsMemory_of_eq (exec_pVfadd x b s) (canonical_pair _ _ s hs)
  | pVfsub x b => exact keepsMemory_of_eq (exec_pVfsub x b s) (canonical_pair _ _ s hs)
  | pVfmul x b => exact keepsMemory_of_eq (exec_pVfmul x b s) (canonical_pair _ _ s hs)
  | pVfmin x b => exact keepsMemory_of_eq (exec_pVfmin x b s) (canonical_pair _ _ s hs)
  | pVfmax x b => exact keepsMemory_of_eq (exec_pVfmax x b s) (canonical_pair _ _ s hs)
  | pVcvt x b => exact keepsMemory_of_eq (exec_pVcvt x b s) (canonical_pair _ _ s hs)
  | pSadd x b => exact keepsMemory_of_eq (exec_pSadd x b s) (canonical_pair _ _ s hs)
  | pSsub x b => exact keepsMemory_of_eq (exec_pSsub x b s) (canonical_pair _ _ s hs)
  | pSmov x b => exact keepsMemory_of_eq (exec_pSmov x b s) (canonical_pair _ _ s hs)
  | pSand x b => exact keepsMemory_of_eq (exec_pSand x b s) (canonical_pair _ _ s hs)
  | pSor x b => exact keepsMemory_of_eq (exec_pSor x b s) (canonical_pair _ _ s hs)
  | enq detach d a => exact keepsMemory_of_eq (exec_enq detach d a s) (canonical_execEnq detach d a s hs)
  | enqr d a b => exact keepsMemory_of_eq (exec_enqr d a b s) (canonical_execEnqr d a b s hs)
  | lcancel d a => exact keepsMemory_of_eq (exec_lcancel d a s) (canonical_cancelBy _ _ _ s hs)
  | lcancelTree d a => exact keepsMemory_of_eq (exec_lcancelTree d a s) (canonical_cancelBy _ _ _ s hs)
  | lcntGangs d a => exact keepsMemory_of_eq (exec_lcntGangs d a s) (canonical_countOf _ _ _ _ s hs)
  | lcntTree d a => exact keepsMemory_of_eq (exec_lcntTree d a s) (canonical_execLcntTree d a s hs)
  | lcntState d a => exact keepsMemory_of_eq (exec_lcntState d a s) (canonical_countOf _ _ _ _ s hs)
  | coll kind d a b => exact keepsMemory_of_eq (exec_coll kind d a b s) (canonical_execColl kind d a b s hs)
  | cbar d a b => exact keepsMemory_of_eq (exec_cbar d a b s) (canonical_execCbar d a b s hs)
  | cput d a b => exact keepsMemory_of_eq (exec_cput d a b s) (canonical_execCput d a b s hs)
  | ctree q d a b => exact keepsMemory_of_eq (exec_ctree q d a b s) (canonical_execCtree q d a b s hs)
  | trap a => exact keepsMemory_of_eq (exec_trap a s) (canonical_execTrap a s hs)
  | tretRetry => exact keepsMemory_of_eq (exec_tretRetry s) (canonical_execTretRetry s hs)
  | tretSkip => exact keepsMemory_of_eq (exec_tretSkip s) (canonical_execTretSkip s hs)
  | tretRegion => exact keepsMemory_of_eq (exec_tretRegion s) (canonical_execTretRegion s hs)
  | kill m => exact keepsMemory_of_eq (exec_kill m s) (canonical_killBy _ _ s hs)
  | killFault m => exact keepsMemory_of_eq (exec_killFault m s) (canonical_killBy _ _ s hs)
  | smovp d n => exact keepsMemory_of_eq (exec_smovp d n s) (canonical_execSmovp d n s hs)
  | smovq n a => exact keepsMemory_of_eq (exec_smovq n a s) (canonical_execSmovq n a s hs)
  | invlp a => exact keepsMemory_of_eq (exec_invlp a s) (canonical_sweepBy _ _ _ s hs)
  | invlpAll => exact keepsMemory_of_eq (exec_invlpAll s) (canonical_sweepBy _ _ _ s hs)
  | invlpIcache => exact keepsMemory_of_eq (exec_invlpIcache s) (canonical_sweepBy _ _ _ s hs)
  | frz => exact keepsMemory_of_eq (exec_frz s) (canonical_execFrz s hs)
  | frzSnap => exact keepsMemory_of_eq (exec_frzSnap s) (canonical_execFrzSnap s hs)
  | dbgrd d a b => exact keepsMemory_of_eq (exec_dbgrd d a b s) (canonical_execDbgrd d a b s hs)
  | dbgwr d a b x => exact keepsMemory_of_eq (exec_dbgwr d a b x s) (canonical_execDbgwr d a b x s hs)
  | dstep d a => exact keepsMemory_of_eq (exec_dstep d a s) (canonical_stepBy _ _ _ _ s hs)
  | dstepIsolate d a b => exact keepsMemory_of_eq (exec_dstepIsolate d a b s) (canonical_stepBy _ _ _ _ s hs)
  | illegalWord w => exact keepsMemory_of_eq (exec_illegalWord w s) (canonical_execIllegalWord w s hs)
  | regclaimGrant gid rank slot =>
    exact keepsMemory_of_eq (exec_regclaimGrant gid rank slot s)
      (canonical_execRegclaimGrant gid rank slot s hs)
  | sfuResultWrite fid id => exact keepsMemory_of_eq (exec_sfuResultWrite fid id s) (canonical_execSfuResultWrite fid id s hs)
  | copyUnitDone e cmd => exact keepsMemory_of_eq (exec_copyUnitDone e cmd s) (canonical_execCopyUnitDone e cmd s hs)
  | cpytFiring e arm => exact keepsMemory_of_eq (exec_cpytFiring e arm s) (canonical_execCpytFiring e arm s hs)
  | sqfillPush e cmd => exact keepsMemory_of_eq (exec_sqfillPush e cmd s) (canonical_execSqfillPush e cmd s hs)
  | bowaitWake fid frag => exact keepsMemory_of_eq (exec_bowaitWake fid frag s) (canonical_execBowaitWake fid frag s hs)
  | contractionStep tile inst => exact keepsMemory_of_eq (exec_contractionStep tile inst s) (canonical_execContractionStep tile inst s hs)
  | accrdResultWrite fid id => exact keepsMemory_of_eq (exec_accrdResultWrite fid id s) (canonical_execAccrdResultWrite fid id s hs)
  | accstStoreDone e cmd => exact keepsMemory_of_eq (exec_accstStoreDone e cmd s) (canonical_execAccstStoreDone e cmd s hs)
  | foldApply tile => exact keepsMemory_of_eq (exec_foldApply tile s) (canonical_execFoldApply tile s hs)
  | loadResultWrite fid op lane =>
    exact keepsMemory_of_eq (exec_loadResultWrite fid op lane s)
      (canonical_execLoadResultWrite fid op lane s hs)
  | feWaitSatisfied fid op lane =>
    exact keepsMemory_of_eq (exec_feWaitSatisfied fid op lane s)
      (canonical_execFeWaitSatisfied fid op lane s hs)
  | enqrDelivery m => exact keepsMemory_of_eq (exec_enqrDelivery m s) (canonical_execEnqrDelivery m s hs)
  | collChunkStage pid comm chunk stage peers =>
    exact keepsMemory_of_eq (exec_collChunkStage pid comm chunk stage peers s)
      (canonical_execCollChunkStage pid comm chunk stage peers s hs)
  | cbarInstanceDone pid comm => exact keepsMemory_of_eq (exec_cbarInstanceDone pid comm s) (canonical_execCbarInstanceDone pid comm s hs)
  | cputRemoteArrival p => exact keepsMemory_of_eq (exec_cputRemoteArrival p s) (canonical_execCputRemoteArrival p s hs)
  | cputAck pid comm id ok status =>
    exact keepsMemory_of_eq (exec_cputAck pid comm id ok status s)
      (canonical_execCputAck pid comm id ok status s hs)
  | linkStateChange l up => exact keepsMemory_of_eq (exec_linkStateChange l up s) (canonical_execLinkStateChange l up s hs)
  | linkStateMessage l up seq => exact keepsMemory_of_eq (exec_linkStateMessage l up seq s) (canonical_execLinkStateMessage l up seq s hs)
  | agreement pid comm x peersDone =>
    exact keepsMemory_of_eq (exec_agreement pid comm x peersDone s)
      (canonical_execAgreement pid comm x peersDone s hs)
  | invalidationSweepDone id => exact keepsMemory_of_eq (exec_invalidationSweepDone id s) (canonical_execInvalidationSweepDone id s hs)
  | freezeTakesEffect pid => exact keepsMemory_of_eq (exec_freezeTakesEffect pid s) (canonical_execFreezeTakesEffect pid s hs)
  | gangHaltOtherFlight fid further =>
    exact keepsMemory_of_eq (exec_gangHaltOtherFlight fid further s)
      (canonical_execGangHaltOtherFlight fid further s hs)
  | asyncFaultTaken => exact keepsMemory_of_eq (exec_asyncFaultTaken s) (canonical_execAsyncFaultTaken s hs)
  | timerPeriodEnd pid => exact keepsMemory_of_eq (exec_timerPeriodEnd pid s) (canonical_execTimerPeriodEnd pid s hs)
  | timerTrapTaken => exact keepsMemory_of_eq (exec_timerTrapTaken s) (canonical_execTimerTrapTaken s hs)
  | fragmentAged fid frag => exact keepsMemory_of_eq (exec_fragmentAged fid frag s) (canonical_execFragmentAged fid frag s hs)
  | fragmentSwitch core slot => exact keepsMemory_of_eq (exec_fragmentSwitch core slot s) (canonical_execFragmentSwitch core slot s hs)
  | preemptRequest pid launch => exact keepsMemory_of_eq (exec_preemptRequest pid launch s) (canonical_execPreemptRequest pid launch s hs)
  | preemptDeadline gid => exact keepsMemory_of_eq (exec_preemptDeadline gid s) (canonical_execPreemptDeadline gid s hs)
  | preemptmaxExpiry fid => exact keepsMemory_of_eq (exec_preemptmaxExpiry fid s) (canonical_execPreemptmaxExpiry fid s hs)
  | engineStopAck gid u => exact keepsMemory_of_eq (exec_engineStopAck gid u s) (canonical_execEngineStopAck gid u s hs)
  | gangRestore gid => exact keepsMemory_of_eq (exec_gangRestore gid s) (canonical_execGangRestore gid s hs)
  | preemptWaitTimeout die => exact keepsMemory_of_eq (exec_preemptWaitTimeout die s) (canonical_execPreemptWaitTimeout die s hs)
  | launchAccept pid => exact keepsMemory_of_eq (exec_launchAccept pid s) (canonical_execLaunchAccept pid s hs)
  | globalDispatch pid launch die count =>
    exact keepsMemory_of_eq (exec_globalDispatch pid launch die count s)
      (canonical_execGlobalDispatch pid launch die count s hs)
  | gangPlace die idx => exact keepsMemory_of_eq (exec_gangPlace die idx s) (canonical_execGangPlace die idx s hs)
  | gangRetire gid => exact keepsMemory_of_eq (exec_gangRetire gid s) (canonical_execGangRetire gid s hs)
  | cancelComplete pid launch => exact keepsMemory_of_eq (exec_cancelComplete pid launch s) (canonical_execCancelComplete pid launch s hs)
  | qnotifyWrite pid q widx => exact keepsMemory_of_eq (exec_qnotifyWrite pid q widx s) (canonical_execQnotifyWrite pid q widx s hs)
  | queueMap pid q slot => exact keepsMemory_of_eq (exec_queueMap pid q slot s) (canonical_execQueueMap pid q slot s hs)
  | queueDisplace pid q slot => exact keepsMemory_of_eq (exec_queueDisplace pid q slot s) (canonical_execQueueDisplace pid q slot s hs)
  | queueQuantumExpiry slot => exact keepsMemory_of_eq (exec_queueQuantumExpiry slot s) (canonical_execQueueQuantumExpiry slot s hs)
  | packetLaunch pid q => exact keepsMemory_of_eq (exec_packetLaunch pid q s) (canonical_execPacketLaunch pid q s hs)
  | packetGraph pid q => exact keepsMemory_of_eq (exec_packetGraph pid q s) (canonical_execPacketGraph pid q s hs)
  | packetSignal pid q => exact keepsMemory_of_eq (exec_packetSignal pid q s) (canonical_execPacketSignal pid q s hs)
  | packetWait pid q => exact keepsMemory_of_eq (exec_packetWait pid q s) (canonical_execPacketWait pid q s hs)
  | packetBarrier pid q => exact keepsMemory_of_eq (exec_packetBarrier pid q s) (canonical_execPacketBarrier pid q s hs)
  | packetCancel pid q => exact keepsMemory_of_eq (exec_packetCancel pid q s) (canonical_execPacketCancel pid q s hs)
  | waitMonitorHit pid q => exact keepsMemory_of_eq (exec_waitMonitorHit pid q s) (canonical_execWaitMonitorHit pid q s hs)
  | queueUnblock pid q => exact keepsMemory_of_eq (exec_queueUnblock pid q s) (canonical_execQueueUnblock pid q s hs)
  | forwardedWrite addr data => exact keepsMemory_of_eq (exec_forwardedWrite addr data s) (canonical_execForwardedWrite addr data s hs)
  | hostAccess write addr data =>
    exact keepsMemory_of_eq (exec_hostAccess write addr data s)
      (canonical_execHostAccess write addr data s hs)
  | registerWrite w off val => exact keepsMemory_of_eq (exec_registerWrite w off val s) (canonical_execRegisterWrite w off val s hs)
  | bootLock => exact keepsMemory_of_eq (exec_bootLock s) (canonical_execBootLock s hs)
  | bootVerifyDone => exact keepsMemory_of_eq (exec_bootVerifyDone s) (canonical_execBootVerifyDone s hs)
  | reset => exact keepsMemory_of_eq (exec_reset s) (canonical_execReset s hs)
  | create p => exact keepsMemory_of_eq (exec_create p s) (canonical_execCreate p s hs)
  | destroy pid => exact keepsMemory_of_eq (exec_destroy pid s) (canonical_execDestroy pid s hs)
  | queueCreate pid q desc => exact keepsMemory_of_eq (exec_queueCreate pid q desc s) (canonical_execQueueCreate pid q desc s hs)
  | queueDestroy pid q => exact keepsMemory_of_eq (exec_queueDestroy pid q s) (canonical_execQueueDestroy pid q s hs)
  | queueReset pid q => exact keepsMemory_of_eq (exec_queueReset pid q s) (canonical_execQueueReset pid q s hs)
  | communicatorCreate pid comm desc =>
    exact keepsMemory_of_eq (exec_communicatorCreate pid comm desc s)
      (canonical_execCommunicatorCreate pid comm desc s hs)
  | communicatorDestroy pid comm =>
    exact keepsMemory_of_eq (exec_communicatorDestroy pid comm s)
      (canonical_execCommunicatorDestroy pid comm s hs)
  | codeInvalidate pid => exact keepsMemory_of_eq (exec_codeInvalidate pid s) (canonical_execCodeInvalidate pid s hs)
  | replayPartition pid => exact keepsMemory_of_eq (exec_replayPartition pid s) (canonical_execReplayPartition pid s hs)
  | replayBlock pid block => exact keepsMemory_of_eq (exec_replayBlock pid block s) (canonical_execReplayBlock pid block s hs)
  | failBlock pid block => exact keepsMemory_of_eq (exec_failBlock pid block s) (canonical_execFailBlock pid block s hs)
  | shootdown pid all va => exact keepsMemory_of_eq (exec_shootdown pid all va s) (canonical_execShootdown pid all va s hs)
  | scan pid => exact keepsMemory_of_eq (exec_scan pid s) (canonical_execScan pid s hs)
  | scanRestore pid recs => exact keepsMemory_of_eq (exec_scanRestore pid recs s) (canonical_execScanRestore pid recs s hs)
  | thaw pid => exact keepsMemory_of_eq (exec_thaw pid s) (canonical_execThaw pid s hs)
  | migration pid pages => exact keepsMemory_of_eq (exec_migration pid pages s) (canonical_execMigration pid pages s hs)
  | attest nonce => exact keepsMemory_of_eq (exec_attest nonce s) (canonical_execAttest nonce s hs)
  | traceSyncSet core => exact keepsMemory_of_eq (exec_traceSyncSet core s) (canonical_execTraceSyncSet core s hs)
  | traceLostPacket core => exact keepsMemory_of_eq (exec_traceLostPacket core s) (canonical_execTraceLostPacket core s hs)
  | sampleTick core => exact keepsMemory_of_eq (exec_sampleTick core s) (canonical_execSampleTick core s hs)
  | thermalPowerLimit power temp =>
    exact keepsMemory_of_eq (exec_thermalPowerLimit power temp s)
      (canonical_execThermalPowerLimit power temp s hs)
  | thermalShutdown temp => exact keepsMemory_of_eq (exec_thermalShutdown temp s) (canonical_execThermalShutdown temp s hs)
  | instructionFetchFault => exact keepsMemory_of_eq (exec_instructionFetchFault s) (canonical_execInstructionFetchFault s hs)
  | storePerformed fid op lane =>
    exact keepsMemory_of_eq (exec_storePerformed fid op lane s)
      (canonical_execStorePerformed fid op lane s hs)
  | memberLeft pid comm peer => exact keepsMemory_of_eq (exec_memberLeft pid comm peer s) (canonical_execMemberLeft pid comm peer s hs)
  | haltCommand pid launch gang rank flight whole =>
    exact keepsMemory_of_eq (exec_haltCommand pid launch gang rank flight whole s)
      (canonical_execHaltCommand pid launch gang rank flight whole s hs)
  | freezeCommand pid => exact keepsMemory_of_eq (exec_freezeCommand pid s) (canonical_execFreezeCommand pid s hs)
  | snapshotTriggerCommand => exact keepsMemory_of_eq (exec_snapshotTriggerCommand s) (canonical_execSnapshotTriggerCommand s hs)
  | firmwareEndsJob pid => exact keepsMemory_of_eq (exec_firmwareEndsJob pid s) (canonical_execFirmwareEndsJob pid s hs)

/-! ### The turn of a slot (16 R352) -/

theorem canonical_begin (c : Ctx) (hc : c.st.Canonical) : (begin c).Canonical := by
  grind [begin, canonical_modFrag, canonical_modCore, State.Canonical]

theorem canonical_unissued (s : State) (c : Ctx) (t : State) (hs : t.Canonical) : (unissued s c t).Canonical := by
  grind [unissued, canonical_modCore, State.Canonical]

theorem canonical_onNext (a : Ans) (k : State → State) (ha : KeepsMemory a) (hk : ∀ x0, x0.Canonical → (k x0).Canonical) :
    KeepsMemory (onNext a k) := by
  unfold onNext
  grind [State.Canonical, KeepsMemory]

theorem canonical_issueInstr (i : Instr) (s : State) (hs : s.Canonical) : KeepsMemory (issueInstr i s) := by
  grind [issueInstr, canonical_issuer, canonical_onNext, canonical_exec, canonical_begin, canonical_unissued, State.Canonical,
    KeepsMemory]

theorem canonical_fetchIssue (s : State) (hs : s.Canonical) : KeepsMemory (fetchIssue s) := by
  grind [fetchIssue, canonical_issuer, canonical_fetch, canonical_execInstructionFetchFault, canonical_fault, canonical_issueInstr,
    State.Canonical, KeepsMemory]

theorem canonical_proceed (s : State) (hs : s.Canonical) : KeepsMemory (proceed s) := by
  grind [proceed, canonical_issuer, canonical_replayMop, canonical_failPark, canonical_packetFault, canonical_fault,
    canonical_fetchIssue, canonical_execAsyncFaultTaken, canonical_execTimerTrapTaken, State.Canonical, KeepsMemory]

theorem canonical_halts (s : State) (g : Fragment) (hs : s.Canonical) : (halts s g).Canonical := by
  grind [halts, canonical_takeHalts, canonical_stopIfDue, State.Canonical]

theorem canonical_turn (s0 : State) (fid n : Nat) (hs : s0.Canonical) : KeepsMemory (turn s0 fid n) := by
  grind [turn, canonical_issuer, canonical_stepGone, canonical_halts, canonical_onNext, canonical_proceed, canonical_stepDone,
    State.Canonical, KeepsMemory]

theorem canonical_tryEach (l : List (Nat × Nat)) (s : State) (hs : s.Canonical) : KeepsMemory (tryEach l s) := by
  induction l generalizing s with
  | nil =>
    rintro t ⟨⟩
    exact hs
  | cons x r ih =>
    have hturn := canonical_turn s x.1 x.2 hs
    grind [tryEach, KeepsMemory]

theorem canonical_stamp (s t : State) (hs : t.Canonical) : (stamp s t).Canonical := by
  grind [stamp, State.Canonical]

theorem canonical_slotMove (s : State) (core slot : Nat) (hs : s.Canonical) : KeepsMemory (slotMove s core slot) := by
  grind [slotMove, canonical_onNext, canonical_tryEach, canonical_stamp, State.Canonical, KeepsMemory]

theorem canonical_writeCommand (s : State) (r : Nat) (i : Instr) (hs : s.Canonical) : (writeCommand s r i).Canonical := by
  grind [writeCommand, State.Canonical]

theorem canonical_eventMove (s : State) (i : Instr) (hs : s.Canonical) : KeepsMemory (eventMove s i) := by
  grind [eventMove, canonical_ringCommands, canonical_writeCommand, canonical_onNext, canonical_exec, canonical_stamp, State.Canonical,
    KeepsMemory]

/-! ### Happenings of their own -/

theorem canonical_readRegister (s : State) (w : Window) (off : Nat) (hs : s.Canonical) : (readRegister s w off).Canonical := hs

theorem canonical_parityError (s : State) (c line : Nat) (hs : s.Canonical) : (parityError s c line).Canonical := hs

theorem canonical_onMoving (s : State) (fid : Nat) (act : Flight → State) (hs : s.Canonical) (hact : ∀ x0, (act x0).Canonical) :
    (onMoving s fid act).Canonical := by
  grind [onMoving, State.Canonical]

theorem canonical_landOne (s : State) (fid id reg lane : Nat) (hs : s.Canonical) : (landOne s fid id reg lane).Canonical := by
  grind [landOne, canonical_onMoving, canonical_landEarlyWord, canonical_landEarly, State.Canonical]

theorem canonical_partOne (s : State) (fid op lane k part : Nat) (hs : s.Canonical) : (partOne s fid op lane k part).Canonical := by
  grind [partOne, canonical_onMoving, canonical_loadPart, canonical_storePart, State.Canonical]

theorem canonical_popRing (s : State) (r : Nat) (hs : s.Canonical) : (popRing s r).Canonical := hs

theorem canonical_serveHead (s : State) (r : Nat) (c : Command) (hs : s.Canonical) : KeepsMemory (serveHead s r c) := by
  grind [serveHead, canonical_onNext, canonical_exec, canonical_popRing, State.Canonical, KeepsMemory]

theorem canonical_serveRing (s : State) (r : Nat) (hs : s.Canonical) : KeepsMemory (serveRing s r) := by
  grind [serveRing, canonical_onNext, canonical_serveHead, canonical_ringCommands, State.Canonical, KeepsMemory]

theorem canonical_tender (s : State) (k : Nat) (hs : s.Canonical) : KeepsMemory (tender s k) := by
  grind [tender, canonical_takeBell, canonical_takeHit, canonical_serveRing, canonical_dropEvent, canonical_send, canonical_exec,
    State.Canonical, KeepsMemory]

theorem canonical_otherDoes (o : Other) (s : State) (hs : s.Canonical) : KeepsMemory (otherDoes o s) := by
  unfold otherDoes
  grind [canonical_ringBell, canonical_tender, canonical_writeCommand, canonical_readRegister, canonical_partOne, canonical_landOne,
    canonical_icachePrefetch, canonical_parityError, canonical_forwardEnd, canonical_chunkStep, canonical_bounce, State.Canonical,
    KeepsMemory]

theorem canonical_otherMove (s : State) (o : Other) (hs : s.Canonical) : KeepsMemory (otherMove s o) := by
  grind [otherMove, canonical_onNext, canonical_otherDoes, canonical_stamp, State.Canonical, KeepsMemory]

/-- Settles O60: each kind of move by its lemma; a cycle that passes touches no memory. -/
theorem memoryStaysCanonical : Obligations.MemoryStaysCanonical := by
  intro s t hs
  have hagenda (r : List Move) : ({ s with agenda := r } : State).Canonical := hs
  rw [step]
  split
  · rintro ⟨⟩
    exact hs
  · exact canonical_slotMove _ _ _ (hagenda _) t
  · exact canonical_eventMove _ _ (hagenda _) t
  · exact canonical_otherMove _ _ (hagenda _) t
  · rintro ⟨⟩
    exact hs

end Sys2Proof.Machine
end
